-- ==== Sys2Proof/Word.lean ====
section
/-!
DEFINITION. The word types of the KX1's registers, memories and messages (R533: registers are 32 bits, mailbox
words and PBA words 64 bits; R231: memory is bytes).
-/

namespace Sys2Proof

/-- A byte of memory, of a command or of a message. -/
abbrev Byte := BitVec 8
/-- A 16-bit field. -/
abbrev Half := BitVec 16
/-- A BAR0 or BAR2 register (R533); also the bit pattern of an F32 value. -/
abbrev Word := BitVec 32
/-- A 64-bit argument or result word, counter or fence word; also the bit pattern of an F64 value. -/
abbrev Long := BitVec 64

end Sys2Proof
end

