-- ==== Sys2Proof/Syntax.lean ====
section
/-!
DEFINITION. The commands of the part: one constructor per row of spec/opcode_table.json, with the operands that the
row's rules give it, and the operand types. What the spec leaves to the environment or to Yilium's own choice (light,
temperatures, memory errors, which free page) is an operand, so that a step is a function.
-/

namespace Sys2Proof

/-- How the host answered the reads of host memory that a command makes inside its step (R337). -/
inductive HostStatus where
  /-- Successful completion with data. -/
  | ok
  /-- A completion marked poisoned. -/
  | poisoned
  /-- Completion status Unsupported Request. -/
  | ur
  /-- Completion status Completer Abort. -/
  | ca
  /-- No completion within the completion timeout (R338). -/
  | timeout
  deriving DecidableEq, Repr

/-- What a command's memory accesses meet: the granules (physical address / 64) whose read corrects an error (`ce`), the
granules whose read finds an uncorrectable error (`ue`) (R254 to R258, R554), the host's answers to reads of host
memory (host byte address, byte) with their status (another node's bytes likewise), how the other node answers an access to its
memory within the step (STATUS of Table 11.5 with the physical address of a poisoned granule; none: no answer in time), and the SAT and RSVD flags of the input tile that a pass reads (bits 0 and
1), which enter R62 and for whose metadata no command has an address (Table 10.4). -/
structure Env where
  ce : List Nat
  ue : List Nat
  host : List (Nat × Byte)
  hostSt : HostStatus
  inFlags : BitVec 2
  far : Option (Nat × Nat)
  deriving DecidableEq, Repr

/-- A mailbox: privileged mailbox m, or the unprivileged mailbox of context n (chapter 10, The Letterbox). -/
inductive MbRef where
  | priv (m : Fin 16)
  | unpriv (n : Fin 4096)
  deriving DecidableEq, Repr

/-- The hardware update that meets a software register write (Table 9.5): the HS bits it sets, whether it increments
the register's counter, and the value it gives RWH fields, if any. -/
structure HwUpd where
  set : Word
  inc : Bool
  rwh : Option Word
  deriving DecidableEq, Repr

/-- The second word of a 64-bit register write (R308): its value, its byte enables, the hardware update that meets it. -/
structure Word2 where
  val : Word
  be : BitVec 4
  hw : HwUpd
  deriving DecidableEq, Repr

/-- A register or capability of configuration space (Table 9.1; layouts of the PCI Express standard, log entry 101). -/
inductive CfgReg where
  | headerType | romBar
  /-- Base address register n. -/
  | bar (n : Fin 6)
  /-- Whether the capability list holds an ID, and the extended list. -/
  | cap (id : Nat)
  | extCap (id : Nat)
  /-- Message Control, table and PBA locations of MSI-X. -/
  | msixCtl | msixTable | msixPba
  /-- Power management: capabilities, control and status. -/
  | pmCap | pmCtl
  /-- Device and link capabilities, control and status. -/
  | devCap | devCtl | linkCap | linkStatus | devCap2 | devCtl2 | devCap3
  /-- AER: uncorrectable error status and severity, header log. -/
  | aerStatus | aerSeverity | aerHeader
  deriving DecidableEq, Repr

/-- A configuration request. -/
inductive CfgReq where
  | read (r : CfgReg)
  | write (r : CfgReg) (val : Word)
  deriving DecidableEq, Repr

/-- A received TLP that no register or memory access stands for (Table 9.6). -/
inductive BadTlp where
  /-- A non-posted request to no BAR, or of an unsupported type. -/
  | unsupportedNonPosted
  /-- A posted request to no BAR, or of an unsupported type. -/
  | unsupportedPosted
  /-- A malformed TLP (also a multi-word write whose first or last word enables no byte, R309). -/
  | malformed
  /-- A completion with no matching request. -/
  | unexpectedCompletion
  /-- A poisoned write to BAR0 or BAR2 (R326). -/
  | poisonedWrite
  deriving DecidableEq, Repr

/-- IEEE rounding directions of R202: to nearest even, toward zero, toward +∞, toward −∞. -/
inductive RMode where
  | rne
  | rtz
  | rup
  | rdn
  deriving DecidableEq, Repr

/-- The Study operations of Table 6.2 with one F32 or F64 result. -/
inductive FOp where
  | add | sub | mul | fma | div | sqrt | minNum | maxNum | abs | neg | copySign
  deriving DecidableEq, Repr

/-- An operation of a work item's trace (Table 6.2 and the library reductions of R208) over numbered local values;
`f64` chooses the format, `rm` a static rounding direction (R202). The trace stands for what the opaque kernel does. -/
inductive StudyOp where
  /-- Put a constant. -/
  | const (d : Nat) (v : Long)
  /-- Read n bytes (at most 8) of the argument block at an offset (R370). -/
  | arg (d off n : Nat)
  /-- Read n bytes (at most 8) at a device address, little-endian. -/
  | load (d va n : Nat)
  /-- Write the low n bytes (at most 8) of a value at a device address. -/
  | store (va s n : Nat)
  /-- A device atomic FetchAdd on 8 bytes (R331, R374). -/
  | fetchAdd (d va s : Nat)
  /-- An arithmetic operation. -/
  | arith (f64 : Bool) (op : FOp) (rm : Option RMode) (d a b c : Nat)
  /-- Quiet comparison: −1, 0, 1 as a 64-bit integer, 2 for unordered. -/
  | compare (f64 : Bool) (d a b : Nat)
  /-- F64 to F32 (`narrow`) or F32 to F64. -/
  | convert (narrow : Bool) (rm : Option RMode) (d a : Nat)
  /-- To an integer of 32 or 64 bits, in the rounding or the truncating form (R551). -/
  | toInt (f64 signed wide trunc : Bool) (rm : Option RMode) (d a : Nat)
  /-- From an integer of 32 or 64 bits. -/
  | fromInt (f64 signed wide : Bool) (rm : Option RMode) (d a : Nat)
  /-- The library sum over values: the Study canonical reduction (R208). -/
  | sum (f64 : Bool) (rm : Option RMode) (d : Nat) (xs : List Nat)
  /-- The library dot product (R208). -/
  | dot (f64 : Bool) (rm : Option RMode) (d : Nat) (xs ys : List Nat)
  deriving DecidableEq, Repr

/-- What one converter channel delivers at the end of a period (Table 5.2): whether the open-wire check of this
period passed (looked at in the channel's first period only: later it is known), whether that of the next
period passed, and the converted value: for an on-die sensor the temperature in units of 1/65,536 °C, for an RTD its
resistance in 1/1,024 Ω. -/
structure SensorRead where
  ownOk : Bool
  wireOk : Bool
  val : Int
  deriving DecidableEq, Repr

/-- One conversion period of the sensor island and the monitors read with it (R187, R478, R479): channels 0 to 63
on-die, 64 and 65 the RTDs (a channel not listed failed its open-wire check);
Pavg in 1/16 W, the four stack temperatures in 1/128 °C, and the fabric speed for CSPEED. -/
structure Period where
  reads : List (Nat × SensorRead)
  pavg : BitVec 16
  stk : List Int
  cspeed : BitVec 16
  deriving DecidableEq, Repr

/-- JTAG instructions (R524). -/
inductive JtagInstr where
  | bypass | idcode | samplePreload | extest | other
  deriving DecidableEq, Repr

/-- The commands, in the table's order. -/
inductive Instr where
  -- Pins, resets and start-up (chapter 12)
  /-- PWRGOOD_ASSERT (R466): PWRGOOD rises after being deasserted, which starts a cold reset and the cold-start sequence of Table 12.4. -/
  | pwrgoodAssert
  /-- PWRGOOD_DEASSERT (R457): PWRGOOD falls; every block except Threshold, NVM and SMBus is held in reset, the Lamp goes dark and every channel drives u = 0. -/
  | pwrgoodDeassert
  /-- PERST_N_ASSERT (R459): PERST_N is asserted and starts a Warm reset, which clears the units Table 12.3 marks and keeps the Lamp lit. -/
  | perstNAssert
  /-- PERST_N_DEASSERT (R476): PERST_N is deasserted and the start-up steps restart; READY falls within the bounds of R476 and R473. -/
  | perstNDeassert
  /-- FUNCTION_LEVEL_RESET (R465): A Function Level Reset clears its units, closes every OPEN Door at once, and leaves any park or thermal trip in place. -/
  | functionLevelReset
  /-- HEARTH_LOCKSTEP_MISMATCH (R462): A Hearth lockstep mismatch parks the Radiator, reports Uncorrectable Internal Error, writes the failure record and starts an Internal reset. -/
  | hearthLockstepMismatch
  /-- YILIUM_WATCHDOG_EXPIRY (R462): The Yilium watchdog expires, which parks the Radiator, reports Uncorrectable Internal Error, writes the failure record and starts an Internal reset. -/
  | yiliumWatchdogExpiry
  /-- INTERNAL_RESET (R459): An Internal reset clears Yilium objects, Windows, Pantries, Study, memories, Radiator and Doors while keeping the PCIe link and configuration. -/
  | internalReset
  /-- RAIL_FAULT (R458): A rail stays out of tolerance for more than 10 us while PWRGOOD is asserted; its RAILSTAT bit clears, RAILF is set and RAIL_FAULT is raised. -/
  | railFault (rail : Fin 10)
  /-- FIRMWARE_CHECK (R506): At a reset that starts Hearth, Threshold checks the active bank, and falls back to the other bank or enters recovery when needed. -/
  | firmwareCheck
  /-- NVM_LOAD_COMPLETE (R171): The NVM load completes; heaters and AUX outputs take their power-up codes under profile 6, and L0 to L7 are enabled. -/
  | nvmLoadComplete
  /-- CONFIG_READY (R305): Yilium becomes ready for configuration, and Request Retry Status ends. -/
  | configReady
  /-- CONFIG_REQUEST (R305): A PCIe configuration request is answered with Request Retry Status or served. -/
  | configRequest (req : CfgReq)
  /-- STUDY_CORE_TEST (R214): Yilium tests every core before READY, returns passing cores to service and records failing ones, then sets SRDY. -/
  | studyCoreTest (pass : BitVec 128)
  /-- CELLAR_INIT (R459): The Cellar and Larder are initialised by writing every granule with zero and a valid code, which clears all poison. -/
  | cellarInit
  /-- LASER_DARK_TIMEOUT (R468): At 700 ms after power good, a laser not in LOK is treated as failed and L8 goes to the lowest-numbered such Window. -/
  | laserDarkTimeout
  /-- WINDOW_STARTUP_CHECK (R470): After two converged sweeps, Yilium runs 4,096 witness slots per pane with the null image and makes the Window IDLE if every B is at most BLIMIT/2. -/
  | windowStartupCheck (w : Fin 8) (resA resB : List (List Int))
  /-- READY (R471): Once every start-up condition holds, Yilium sets IFLEVEL, DELIV, C0CAP, GACTIVE and BOOTMS and queues the READY event. -/
  | ready (ms : BitVec 16)
  /-- READY_DEADLINE (R472): At 1,450 ms after power good, any Window not yet IDLE, RETIRED or OFF is quarantined with a CAPACITY event so that READY can be raised. -/
  | readyDeadline
  -- Register and host accesses (chapters 9 and 14)
  /-- REGISTER_WRITE (R344): A software write to a register without a row of its own resolves each field by its access class against any concurrent hardware update. -/
  | registerWrite (off : Nat) (val : Word) (be : BitVec 4) (hw : HwUpd) (more : Option Word2)
  /-- CAPTURE_READ_LO (R535): A read of the LO register of a capture pair returns the live LO value and loads the capture latch with HI, and with ELOGCTX for ELOGLO. -/
  | captureReadLo (bar2 : Bool) (off : Nat) (be : BitVec 4) (more : Option (BitVec 4))
  /-- COUNTER64_WRITE (R538): A write to LO or HI of SYMCNT or BYTECNT replaces half of the live 64-bit counter, and a concurrent increment carries into HI. -/
  | counter64Write (off : Nat) (val : Word) (inc : Bool)
  /-- DOORBELL_WRITE (R315): A write to a doorbell word is accepted as the queue's new TAIL, or discarded with DBREJ and DBREJF set. -/
  | doorbellWrite (page : Fin 4096) (slot : Fin 256) (val : Word) (be : BitVec 4) (more : Option Word2)
  /-- CONTEXT_MAKE_RESIDENT (R355): Yilium makes a context resident for a kept doorbell, evicting evictable contexts least recently doorbelled first, or waits until one is evictable. -/
  | contextMakeResident (ctx : Fin 4096) (base : Fin 32) (env : Env)
  /-- MAILBOX_WRITE (R348): A write to MBCTL or a mailbox request area posts GO, or is discarded with MBOVR set while BUSY is 1. -/
  | mailboxWrite (mb : MbRef) (off : Nat) (val : Word) (be : BitVec 4) (hwTake : Bool) (more : Option Word2)
  /-- BAR4_READ (R321): A host read through BAR4 is translated by the lowest matching range-table entry, or is refused with Unsupported Request. -/
  | bar4Read (off : Nat) (len : Nat) (env : Env)
  /-- BAR4_WRITE (R326): A host write through BAR4 is applied granule by granule under the partial-write rules, or is refused and discarded. -/
  | bar4Write (off : Nat) (data : List Byte) (poisoned : Bool) (env : Env)
  /-- ATOMIC_FETCHADD (R329): A host 64-bit FetchAdd on an ATOM range-table entry is performed atomically, or is refused with Unsupported Request. -/
  | atomicFetchadd (off : Nat) (size : Nat) (operand : Long) (env : Env)
  /-- ATOMIC_SWAP (R329): A host 64-bit Swap on an ATOM range-table entry is performed atomically, or is refused with Unsupported Request. -/
  | atomicSwap (off : Nat) (size : Nat) (operand : Long) (env : Env)
  /-- ATOMIC_CAS (R329): A host 64-bit CAS on an ATOM range-table entry is performed atomically, or is refused with Unsupported Request. -/
  | atomicCas (off : Nat) (size : Nat) (compare operand : Long) (env : Env)
  /-- RANGE_TABLE_WRITE (R323): A write to a range-table entry takes effect while EN is 0; while EN is 1 it is ignored and RTBUSY is set. -/
  | rangeTableWrite (e : Fin 16) (reg : Fin 4) (val : Word)
  /-- MSIX_UNMASK (R341): Unmasking a vector, or the function, that has its pending bit set sends one MSI-X message. -/
  | msixUnmask (v : Option (Fin 2048))
  /-- HOST_COMPLETION (R337): A completion for a host-memory read arrives; a poisoned or error completion ends its command with HOST_POISON or HOST_ERROR. -/
  | hostCompletion (tag : Nat) (st : HostStatus) (data : List Byte)
  /-- HOST_COMPLETION_TIMEOUT (R338): A host read completion does not arrive in time, so the command completes with HOST_ERROR and Completion Timeout is logged. -/
  | hostCompletionTimeout (tag : Nat)
  -- Queue commands (chapter 10)
  /-- WINDOW (R369): A WINDOW command is validated at decode and then runs KCOUNT passes on its Window, or on that Window's substitute. -/
  | window (q : Fin 256) (env : Env)
  /-- IMAGE_LOAD (R87): An IMAGE_LOAD command streams a pane image into the named pane once the passes on that pane have ended. -/
  | imageLoad (q : Fin 256) (env : Env)
  /-- SLOT_READ (R141): A SLOT_READ command writes a slot as a tile with metadata, after waiting for any open tree to close. -/
  | slotRead (q : Fin 256) (env : Env)
  /-- SLOT_WRITE (R142): A SLOT_WRITE command loads a tile and its metadata into a slot, after waiting for any open tree to close. -/
  | slotWrite (q : Fin 256) (env : Env)
  /-- STUDY (R370): A STUDY command reads its argument block once and runs NITEMS work items of its kernel. -/
  | study (q : Fin 256) (env : Env)
  /-- REFINE (R228): A REFINE command checks its tile list and CSR arrays and then starts its iterations. -/
  | refine (q : Fin 256) (env : Env)
  /-- COPY (R237): A COPY command moves its strided rows from memory to memory through a stream. -/
  | copy (q : Fin 256) (env : Env)
  /-- FILL (R237): A FILL command writes zero to its strided destination rows through a stream. -/
  | fill (q : Fin 256) (env : Env)
  /-- FENCE_WAIT (R374): A FENCE_WAIT command arms a wait that is satisfied when its fence word reaches WAITVAL. -/
  | fenceWait (q : Fin 256) (env : Env)
  /-- NOP (R367): A NOP command does nothing beyond its completion record and optional SIGNAL. -/
  | nop (q : Fin 256) (env : Env)
  /-- COMMAND_COMPLETE (R372): When a command finishes, its completion record is written, its SIGNAL update performed and its vector raised, and its operation token is given back. -/
  | commandComplete (q : Fin 256) (idx : Fin 65536) (env : Env)
  /-- FENCE_TIMEOUT (R376): An armed wait times out, completes with FENCE_TIMEOUT and stops its queue; a fence update that loses to the timeout counts in LATECNT. -/
  | fenceTimeout (q : Fin 256) (idx : Fin 65536) (lateUpdate : Bool)
  -- Window, Pantry and Truss (chapters 3 and 4)
  /-- PASS_START (R90): A pass whose FEED half, pane and class grant are ready starts issuing its slots, including a pass repeated on a substitute engine. -/
  | passStart (w : Fin 8) (q : Fin 256) (idx : Fin 65536) (p : Nat) (half : Bool) (codes : List (List Int)) (env : Env)
  /-- WITNESS_RESULT (R96): A witness residual becomes known L_clip after its slot ends, and B is recomputed. -/
  | witnessResult (w : Fin 8) (codes : List Int)
  /-- CLIP_REPEAT_ROUND (R102): Repeat round r+1 re-issues every clipped slot at one more attenuation step, 8.0 ns after the previous round ends. -/
  | clipRepeatRound (w : Fin 8) (codes : List (List Int))
  /-- PASS_COMMIT (R98): A pass completes and, if B_c is at most BLIMIT, commits all its rows to the Pantry at once as one leaf of its tree. -/
  | passCommit (w : Fin 8)
  /-- COMMIT_AFTER_OVERLAP (R121): A commit that waited for an overlapping open tree to close proceeds once that tree closes. -/
  | commitAfterOverlap (q : Fin 256) (idx : Fin 65536)
  /-- TRUSS_COMBINE (R146): The Truss combines two partials at a tree node by rank and node position once both are present. -/
  | trussCombine (q : Fin 256) (idx : Fin 65536) (owner : Fin 65536)
  /-- EPILOGUE (R137): After the root is complete, the Pantry of rank 0 runs the epilogue, writes the tile and metadata, and the tree closes. -/
  | epilogue (q : Fin 256) (idx : Fin 65536) (env : Env)
  /-- LASER_LOST (R106): A laser's power falls below half its reference; its Window is quarantined within 1 us and LASERLOST is set. -/
  | laserLost (l : Fin 9)
  /-- SPARE_SWITCH_IN (R113): Yilium switches L8 to the Window whose laser failed, within 50 ms, and sets SPARE. -/
  | spareSwitchIn
  /-- QUALIFICATION (R497): After spare switch-in and two converged sweeps, Yilium qualifies the Window; it repeats up to 8 times and then retires the Window. -/
  | qualification (w : Fin 8) (resA resB : List (List Int))
  /-- LAMP_WEAR (R499): A laser needs more than 90 % of its maximum drive to hold its reference power, so LAMPWEAR is set and LAMP_WEAR is raised once. -/
  | lampWear (l : Fin 9)
  /-- IMAGE_CHECK (R81): The last image word is staged and the header, CRC and PILOTA are checked; the pane enters SETTLING or returns to EMPTY with IMAGE_INVALID. -/
  | imageCheck (w : Fin 8) (pane : Bool)
  /-- PANE_ARMED (R84): 160 ns after SETTLING begins, the pane becomes ARMED. -/
  | paneArmed (w : Fin 8) (pane : Bool)
  /-- PANE_SWAP (R85): A swap starts when the outgoing pane's last slot has ended and the incoming pane is ARMED; LATEIMG is set if it delays a ready pass. -/
  | paneSwap (w : Fin 8) (pane : Bool)
  /-- SWAP_COMPLETE (R85): 160 ns after a swap starts, the incoming pane is in the light path and the outgoing pane stays ARMED. -/
  | swapComplete (w : Fin 8)
  /-- PANTRY_UNCORRECTABLE (R153): An uncorrectable Pantry SRAM error takes the Pantry out of service, loses the contexts that hold slots there and retires its Window. -/
  | pantryUncorrectable (w : Fin 8)
  /-- PANTRY_CORRECTED (R211): A correctable Pantry SRAM error is corrected and CORR is set. -/
  | pantryCorrected (w : Fin 8)
  -- Study and Refine (chapter 6)
  /-- WORK_ITEM_DISPATCH (R210): The sequencer hands a work item to a free core in service, under class arbitration. -/
  | workItemDispatch (q : Fin 256) (idx : Fin 65536) (item : Nat) (core : Fin 128)
  /-- WORK_ITEM_COMPLETE (R213): A work item completes on its core, and ITEMCNT increments. -/
  | workItemComplete (core : Fin 128) (trace : List StudyOp) (env : Env)
  /-- CORE_FAULT (R212): A residue mismatch or uncorrectable error removes the core and repeats its work item on another core. -/
  | coreFault (core : Fin 128)
  /-- CORE_CORRECTED (R211): A single-bit core error is corrected, CORECORR is set and CORRCNT increments. -/
  | coreCorrected (core : Fin 128)
  /-- REFINE_RESIDUAL (R216): A Refine work item forms r, epsilon and the block maxima for one row block. -/
  | refineResidual (core : Fin 128) (env : Env)
  /-- REFINE_DECISION (R218): A Refine work item forms e_k, decides elements, tests the stop conditions, and either stops or forms the Window input. -/
  | refineDecision (core : Fin 128) (env : Env)
  /-- REFINE_UPDATE (R223): After an optical application, a work item forms z and x_{k+1} for its row block. -/
  | refineUpdate (core : Fin 128) (env : Env)
  /-- ARENA_ALLOC (R382): A device-side allocation returns the lowest-addressed free block of the needed size, or 0. -/
  | arenaAlloc (ctx : Fin 4096) (bytes : Nat)
  /-- ARENA_FREE (R382): A device-side free releases a block, or is ignored and counted in BADFREE. -/
  | arenaFree (ctx : Fin 4096) (addr : Nat)
  -- Streams, memory and reservations (chapters 7 and 8)
  /-- STREAM_START (R237): A sequencer hands a stream descriptor to a free Dumbwaiter, which starts moving bytes in logical order. -/
  | streamStart (sid : Nat) (d : Fin 16)
  /-- FEED_PREFETCH (R240): The FEED of a later pass starts as soon as an input-buffer half is free within the four-command lookahead. -/
  | feedPrefetch (w : Fin 8) (q : Fin 256) (idx : Fin 65536) (p : Nat) (half : Bool) (d : Fin 16)
  /-- IMAGE_PREFETCH (R241): The IMAGE stream of a later load starts ahead of queue order when the prefetch conditions hold. -/
  | imagePrefetch (q : Fin 256) (idx : Fin 65536) (d : Fin 16)
  /-- STREAM_TRANSACTION (R243): A Dumbwaiter issues one Corridor memory transaction, merging consecutive pieces where permitted. -/
  | streamTransaction (sid : Nat) (rd : Bool) (env : Env)
  /-- TRANSLATION_WALK (R555): A DTC miss walk completes and the translation enters the DTC. -/
  | translationWalk (ctx : Fin 4096) (page : Nat) (tableError : Bool)
  /-- TRANSLATION_FAULT (R246): A faulting translation halts the stream at POS, writes the descriptor, and Yilium raises PAGE_FAULT. -/
  | translationFault (sid : Nat)
  /-- STREAM_DONE (R237): A stream finishes its last byte and becomes DONE. -/
  | streamDone (sid : Nat)
  /-- SCRUB_QUEUED (R254): The Sweep scrubs a queued corrected granule within 1 ms of its queueing. -/
  | scrubQueued (larder : Bool)
  /-- SWEEP_GRANULE (R258): The Sweep reads one granule, writes back a corrected one, or poisons an uncorrectable one and raises POISON. -/
  | sweepGranule (larder : Bool) (env : Env)
  /-- ROW_RETIRE (R262): A Cellar row reaching its retirement count is copied to a spare row and redirected, and ROW_RETIRED is raised. -/
  | rowRetire (stack : Fin 4) (row : Nat) (pages : List Nat)
  /-- STACK_DOWN (R265): A stack stops responding, is taken out of service, and DELIV falls. -/
  | stackDown (stack : Fin 4)
  /-- STACK_DERATE (R488): A stack temperature crosses a derating threshold, and MSTAT and DELIV change. -/
  | stackDerate (stack : Fin 4) (temp : Int)
  /-- RTOK_MINT (R300): A reservation bucket mints a token at its rate; a token minted into a full bucket expires. -/
  | rtokMint (ctx : Fin 4096) (cls : Fin 4)
  /-- FREEZE_CAPTURE (R294): Writing 1 to FREEZE captures every audit register at one moment and checks every conservation invariant. -/
  | freezeCapture
  /-- FREEZE_RELEASE (R294): Writing 0 to FREEZE returns the audit registers to their live values. -/
  | freezeRelease
  /-- AUDIT_TIMER (R297): Yilium takes an audit capture at least every 100 ms from READY. -/
  | auditTimer
  -- Radiator, Thermostat, sensors and throttling (chapters 5 and 12)
  /-- RADIATOR_TICK (R161): At each Radiator tick, slew profiles step OUT towards CODE and every generator outputs d and advances its phase. -/
  | radiatorTick
  /-- HEATER_CODE_WRITE (R160): A write to a heater or AUX CODE sets the target, with a concurrent Thermostat update dropped and LOSTUPD counted. -/
  | heaterCodeWrite (off : Nat) (val : Word) (hwDropped : Bool)
  /-- HEATER_SC_CLEAR (R168): Writing 1 to SC clears the park unless a part-level park holds, and OUT slews back to CODE. -/
  | heaterScClear (h : Nat) (retrip : Bool)
  /-- SLPROF_WRITE (R163): A write to a slew profile takes effect at the next Radiator tick for every channel that uses it. -/
  | slprofWrite (p : Fin 8) (val : Word)
  /-- GENERATOR_WRITE (R176): A write to FTW, PHOFF or AMP takes effect at the next ordered tick, and a write to FTW or AMP voids that tone's corrections. -/
  | generatorWrite (off : Nat) (val : Word)
  /-- HEATER_SHORT_ONSET (R166): A heater short occurs, and the current source limits within 100 ns. -/
  | heaterShortOnset (h : Nat)
  /-- HEATER_SHORT (R167): After 1 us at the current limit, the channel trips, parks, sets SC and raises HEATER_SHORT. -/
  | heaterShort (h : Nat)
  /-- LOCKIN_CYCLE_START (R178): A lock-in cycle begins every 1,024 ticks; the Thermostat sets the dither and clears DEN of held Windows. -/
  | lockinCycleStart (dither : List (Nat × Fin 64))
  /-- LOCKIN_CYCLE_END (R180): At cycle end, the Thermostat writes a limited correction into each dithered heater's CODE. -/
  | lockinCycleEnd (deltas : List (Nat × Int))
  /-- SWEEP_END (R184): After 128 cycles, LKRESID is written and CONV is set or cleared. -/
  | sweepEnd (w : Fin 8)
  /-- SENSOR_CONVERSION (R187): A sensor period ends and its value is published or discarded, with open-wire, range and recovery handling. -/
  | sensorConversion (period : Period)
  /-- SENSOR_HOLD_EXPIRY (R191): 100 ms after VALID clears with no published value, EST is set and an estimate replaces TEMP. -/
  | sensorHoldExpiry (n : Fin 66)
  /-- THROTTLE_LOWER (R481): After 100 ms free of every raise condition, THLVL falls by 1. -/
  | throttleLower
  /-- THERMAL_TRIP (R486): A trip turns the Lamp off, parks the Radiator, aborts work, stops decoding and asserts THERMTRIP_N. -/
  | thermalTrip
  /-- AUX_COMPLIANCE_LOST (R197): An AUX pin leaves its compliance range, so COMPL is set and AUX_FAULT is raised, while the output keeps driving. -/
  | auxComplianceLost (out : Fin 4)
  -- Doors, remote memory and the cross-chip Truss (chapter 11)
  /-- DOOR_TRAINED (R397): A Door finishes training into TRAINED with zero credits and is opened if R399 permits, or raises MISWIRE. -/
  | doorTrained (d : Fin 16) (peer : Half)
  /-- FLIT_RECEIVE (R404): A Door accepts an in-order flit with a good CRC, or discards it and sends a NAK; ACKs and credits are taken.
The codewords that FEC corrected, and could not correct, since the flit before are operands (Table 11.10). -/
  | flitReceive (d : Fin 16) (fecCorr fecUnc : Nat) (flit : List Byte)
  /-- FLIT_TRANSMIT (R413): A Door sends a flit of one VC and lane when it holds the credits, in the arbitration order of R409. -/
  | flitTransmit (d : Fin 16)
  /-- NULL_FLIT_TIMER (R405): A Door with nothing to send emits a NULL flit at least every 1 us. -/
  | nullFlitTimer (d : Fin 16)
  /-- DOOR_DOWN (R435): A Door goes DOWN, discards its buffers, frees its credits, fails sent requests and moves routes to ALT. -/
  | doorDown (d : Fin 16) (cause : Fin 5)
  /-- DOOR_RETRAIN (R438): Yilium retrains a DOWN Door up to three times, 100 ms apart, then DISABLES it. -/
  | doorRetrain (d : Fin 16) (fails : Bool)
  /-- LINK_DEGRADED (R408): After 10 s above 10^5 corrected codewords per second, LINK_DEGRADED is raised once. -/
  | linkDegraded (d : Fin 16) (rate : Long)
  /-- RD (R419): A remote read request at the target is translated through the export and answered with RDRSP. -/
  | rd (env : Env)
  /-- WR (R422): A remote write request at the target is checked and applied, and answered with WRACK. -/
  | wr (env : Env)
  /-- ATOM (R426): A remote atomic is performed on a free granule, or answered RETRY. -/
  | atom (contended : Bool) (env : Env)
  /-- ATOMQ (R429): A queued remote atomic is placed in the per-granule queue at the target. -/
  | atomq
  /-- ATOMQ_PERFORM (R429): A queued atomic is performed when its granule becomes free, and ATRSP is sent. -/
  | atomqPerform (env : Env)
  /-- RDRSP (R420): A read response delivers data, or acts as a translation fault or poison read at the requester. -/
  | rdrsp (env : Env)
  /-- WRACK (R420): A write acknowledgement completes a remote write, or acts as a fault at the requester. -/
  | wrack
  /-- ATRSP (R424): An atomic response delivers the old value to the requester. -/
  | atrsp
  /-- RETRY (R428): A RETRY response schedules the atomic's resend after exponential back-off. -/
  | retry
  /-- ATOM_RESEND (R428): The back-off expires and the atomic is resent, as ATOMQ after the 32nd RETRY. -/
  | atomResend (tag : Nat)
  /-- REDDESC (R446): A Truss partial descriptor arrives and is matched by key, or discarded on a GCRC, format or NODE mismatch. -/
  | reddesc
  /-- REDDATA (R444): A chunk of a Truss partial arrives on the RED VC and enters the Truss. -/
  | reddata
  /-- REDACK (R447): An acknowledgement of the last REDDATA completes a non-root participant's command. -/
  | redack
  /-- REMOTE_TIMEOUT (R433): A remote request's RTO expires, so its command completes ABORTED and REMOTE_TIMEOUT is raised. -/
  | remoteTimeout (tag : Nat)
  /-- TRUSS_TIMEOUT (R448): A node still lacks a partial TRTO ms after its own child completed, so its command ends ABORTED. -/
  | trussTimeout (q : Fin 256) (idx : Fin 65536)
  -- Letterbox commands (chapters 10 to 13)
  /-- CTX_CREATE (R352): Creates a context with its CSEED, PREGION, SAVEVA and vector. -/
  | ctxCreate (mb : MbRef)
  /-- CTX_DESTROY (R388): Tears down a context's queues, streams, kernels, reservations, mappings and slot. -/
  | ctxDestroy (mb : MbRef) (env : Env)
  /-- CTX_PIN (R358): Makes a context resident and keeps it resident. -/
  | ctxPin (mb : MbRef) (base : Fin 32) (env : Env)
  /-- CTX_UNPIN (R358): Ends a context's pin. -/
  | ctxUnpin (mb : MbRef)
  /-- CTX_EVICT (R358): Evicts an evictable context, or is refused with BUSY. -/
  | ctxEvict (mb : MbRef) (env : Env)
  /-- CTX_QUERY (R350): Returns a context's residency, loss state and counters. -/
  | ctxQuery (mb : MbRef)
  /-- QUEUE_CREATE (R359): Creates a queue with its class, rings and vector. -/
  | queueCreate (mb : MbRef) (base : Fin 32) (env : Env)
  /-- QUEUE_DESTROY (R387): Destroys a queue, or with FORCE aborts its pending work first. -/
  | queueDestroy (mb : MbRef) (env : Env)
  /-- QUEUE_RESUME (R366): Returns a STOPPED queue to ACTIVE from HEAD. -/
  | queueResume (mb : MbRef)
  /-- QUEUE_FLUSH (R366): Completes pending commands ABORTED and returns the queue to ACTIVE. -/
  | queueFlush (mb : MbRef) (env : Env)
  /-- QUEUE_QUERY (R350): Returns a queue's state, HEAD and last TAIL. -/
  | queueQuery (mb : MbRef)
  /-- MEM_MAP (R377): Maps every named page or none, allocating zeroed pages or naming host addresses. -/
  | memMap (mb : MbRef) (pages : List Nat)
  /-- MEM_UNMAP (R380): Unmaps 64 KiB units after in-flight accesses end and frees allocated pages. -/
  | memUnmap (mb : MbRef)
  /-- MEM_PROTECT (R380): Changes the attributes of mapped units after in-flight accesses end. -/
  | memProtect (mb : MbRef)
  /-- ARENA_SET (R381): Places a context's allocator arena and frees earlier allocations. -/
  | arenaSet (mb : MbRef)
  /-- ARENA_QUERY (R382): Returns the arena's allocated bytes, failed allocations and BADFREE. -/
  | arenaQuery (mb : MbRef)
  /-- SHARE_CREATE (R384): Allocates a zeroed shared object with a count word of 1. -/
  | shareCreate (mb : MbRef) (shid : Fin 4096) (pages : List Nat)
  /-- SHARE_MAP (R384): Maps a shared object into a context with SHO. -/
  | shareMap (mb : MbRef)
  /-- SHARE_UNMAP (R385): Removes a shared mapping and frees the object if unused and its count word is 0. -/
  | shareUnmap (mb : MbRef) (env : Env)
  /-- SHARE_RELEASE (R385): Frees an unmapped shared object whose count word is 0. -/
  | shareRelease (mb : MbRef) (env : Env)
  /-- KERNEL_LOAD (R564): Copies and checks a Selnas code object and returns its handle. -/
  | kernelLoad (mb : MbRef) (handle : Word) (env : Env)
  /-- KERNEL_UNLOAD (R350): Unloads a kernel of a context. -/
  | kernelUnload (mb : MbRef)
  /-- STREAM_RESUME (R250): Re-checks FAULTVA and continues a halted stream from POS, or halts it again. -/
  | streamResume (mb : MbRef)
  /-- STREAM_ABORT (R251): Ends a halted stream's command with PAGE_FAULT. -/
  | streamAbort (mb : MbRef) (env : Env)
  /-- RESV_SET (R267): Admits, changes or releases a Cellar bandwidth reservation against DELIV and C0CAP. -/
  | resvSet (mb : MbRef)
  /-- PANE_PIN (R292): Pins a pane for C0. -/
  | panePin (mb : MbRef)
  /-- PANE_UNPIN (R292): Unpins a pane pinned for C0. -/
  | paneUnpin (mb : MbRef)
  /-- WINDOW_QUARANTINE (R107): Quarantines a Window for diagnosis. -/
  | windowQuarantine (mb : MbRef)
  /-- WINDOW_QUALIFY (R114): Runs a qualification with the null image and returns the largest B. -/
  | windowQualify (mb : MbRef) (resA resB : List (List Int))
  /-- RADIATOR_PARK (R169): Parks every heater and AUX output at part level. -/
  | radiatorPark (mb : MbRef)
  /-- AUX_SET_DEFAULTS (R198): Writes AUX power-up and parking values into NVM, up to 1,000 writes. -/
  | auxSetDefaults (mb : MbRef)
  /-- EVQ_SET (R393): Sets the host event ring and writes the held events in order. -/
  | evqSet (mb : MbRef)
  /-- TOPO_LOAD (R440): Loads a topology table, and stores it if asked, which sets NODEID. -/
  | topoLoad (mb : MbRef) (env : Env)
  /-- TOPO_QUERY (R451): Returns NODEID, MODE and CHECK. -/
  | topoQuery (mb : MbRef)
  /-- LINK_OPEN (R438): Starts training on the named Doors again. -/
  | linkOpen (mb : MbRef)
  /-- LINK_CLOSE (R439): Drains the named Doors, withdraws credits and leaves them TRAINED. -/
  | linkClose (mb : MbRef)
  /-- LINK_QUERY (R451): Returns a Door's status and FEC counts. -/
  | linkQuery (mb : MbRef)
  /-- EXPORT_SET (R417): Publishes pages of a context for remote access. -/
  | exportSet (mb : MbRef)
  /-- EXPORT_CLEAR (R418): Withdraws an export after its translated requests are answered. -/
  | exportClear (mb : MbRef)
  /-- REMOTE_MAP (R423): Maps remote export pages into a context. -/
  | remoteMap (mb : MbRef)
  /-- TRUSS_GROUP (R443): Loads or replaces a Truss group table and returns its GCRC. -/
  | trussGroup (mb : MbRef) (env : Env)
  /-- TRUSS_BIND (R442): Binds a Truss group to a queue, or unbinds it. -/
  | trussBind (mb : MbRef)
  /-- TRUSS_CLEAR (R451): Removes an unbound Truss group with no open tree. -/
  | trussClear (mb : MbRef)
  /-- ATTEST (R516): Returns an attestation report signed by the identity key. -/
  | attest (mb : MbRef)
  /-- CERT_READ (R518): Returns part of the identity certificate chain. -/
  | certRead (mb : MbRef)
  /-- FREC_READ (R505): Returns failure-record entries or the summary as stored. -/
  | frecRead (mb : MbRef)
  /-- FW_STAGE (R511): Checks an image and writes it into the inactive bank. -/
  | fwStage (mb : MbRef) (env : Env)
  /-- FW_ACTIVATE (R512): Makes the staged bank active from the next reset that starts Hearth and sets PEND. -/
  | fwActivate (mb : MbRef)
  /-- FW_COMMIT (R513): Raises the SVN fuses and blows the revocation fuses of the running image's REVOKE slots. -/
  | fwCommit (mb : MbRef)
  /-- FW_QUERY (R531): Returns bank, SVN and IFLEVEL information. -/
  | fwQuery (mb : MbRef)
  /-- TEST_CHALLENGE (R519): Returns a fresh 32-byte challenge and invalidates earlier ones. -/
  | testChallenge (mb : MbRef) (rnd : BitVec 256)
  /-- CHALLENGE_EXPIRY (R519): A test challenge becomes invalid 60 s after it was issued. -/
  | challengeExpiry
  /-- TEST_UNLOCK (R521): Checks an unlock token, wipes customer data and opens test access. -/
  | testUnlock (mb : MbRef) (env : Env)
  /-- BOARD_CFG_SET (R529): Writes the board configuration record into NVM, up to 1,000 writes. -/
  | boardCfgSet (mb : MbRef) (env : Env)
  /-- PWR_LIMIT (R490): Sets PLIMIT from 300 to 480 W. -/
  | pwrLimit (mb : MbRef)
  /-- RESET_PART (R490): Writes the OK response and schedules an Internal reset 10 ms later. -/
  | resetPart (mb : MbRef)
  /-- COOL_LIMIT (R490): Sets COOLMAX from 20 to 60 C. -/
  | coolLimit (mb : MbRef)
  -- Recovery, JTAG, failure record and SMBus (chapters 12 and 13)
  /-- RECOVERY_DATA_WRITE (R510): In recovery, a write to RCVDATA appends an image word and RCVLEN counts it. -/
  | recoveryDataWrite (val : Word)
  /-- RECOVERY_GO (R510): In recovery, RCVGO makes Threshold check the loaded image and install it in bank A, or set RCVERR. -/
  | recoveryGo (val : Word) (hwDropped : Bool)
  /-- JTAG_INSTRUCTION (R524): A JTAG instruction selection runs a permitted instruction, or is treated as BYPASS and raises JTAG_ATTEMPT. -/
  | jtagInstruction (ins : JtagInstr) (quietSecond : Bool)
  /-- JTAG_LEAVE_BOUNDARY (R525): Leaving SAMPLE/PRELOAD or EXTEST zeroes the Larder and Pantries and performs a Warm reset. -/
  | jtagLeaveBoundary
  /-- FREC_SUMMARY_UPDATE (R503): Yilium writes the failure-record summary whole at least every 60 s. -/
  | frecSummaryUpdate (seconds : Nat) (lampSeconds : Nat)
  /-- SMBUS_READ_STATUS (R492): SMBus command 0x01 returns the READY, TRIP, THLVL and RSTCAUSE bits. -/
  | smbusReadStatus
  /-- SMBUS_READ_PAVG (R492): SMBus command 0x02 returns Pavg. -/
  | smbusReadPavg
  /-- SMBUS_READ_TPOL (R492): SMBus command 0x03 returns Tpol. -/
  | smbusReadTpol
  /-- SMBUS_READ_RTD (R492): SMBus command 0x04 or 0x05 returns the TEMP of RTD0 or RTD1. -/
  | smbusReadRtd (n : Fin 2)
  /-- SMBUS_READ_RAILSTAT (R492): SMBus command 0x06 returns RAILSTAT. -/
  | smbusReadRailstat
  /-- SMBUS_RESET (R492): An SMBus write of 0xA5 to command 0xF0 starts a Warm reset. -/
  | smbusReset
  -- Remaining pins and events
  /-- LASER_IN_LOK (R469): The Lamp monitor finds a laser lit and within power, so its LOK bit is set and, with RAMPDONE, that Window's lock-in loop starts. -/
  | laserInLok (l : Fin 9)
  /-- PCIE_LINK_IN_L0 (R477): The PCIe LTSSM brings the host link to L0 after PERST_N deassertion, and HSTAT shows its speed, width and flit mode. -/
  | pcieLinkInL0 (speed : Fin 7) (width : Fin 32) (flitMode : Bool)
  /-- RAIL_RETURNS_TO_TOLERANCE (R458): A rail that had left its tolerance returns within it, so its RAILSTAT bit sets again and the guaranteed figures apply once more. -/
  | railReturnsToTolerance (rail : Fin 10)
  /-- VSTBY_WITHIN_TOLERANCE (R492): The standby rail comes within tolerance, and the SMBus port begins answering 50 ms later whatever PWRGOOD holds. -/
  | vstbyWithinTolerance
  /-- REQUEST_TO_NO_BAR (R343): A received TLP that addresses no BAR, is of an unsupported type, or is malformed is answered or dropped and logged under AER. -/
  | requestToNoBar (kind : BadTlp)
  deriving DecidableEq, Repr

end Sys2Proof
end

