-- ==== Sys2Proof/Config.lean ====
section
/-!
DEFINITION. What the spec leaves open and the model holds as uninterpreted constants: free values (no body, so nothing
can be proved of their values) and the cryptographic functions that the spec takes from FIPS 186-5 and SHA-384.
-/

namespace Sys2Proof

/-- A free value of any width: what the spec calls unspecified (R119, R356, R562), applied to State.freeIx, which
the step advances. Log entry 5. -/
opaque Config.freeNat : Nat → Nat

/-- SHA-384 of a byte string (R506, R516, R520). Log entry 6. -/
opaque Config.sha384 : List Byte → BitVec 384

/-- ECDSA P-384 with SHA-384 verification: public key (97 bytes), message, signature (96 bytes) (R506, R520). Log entry 6. -/
opaque Config.ecdsaVerify : List Byte → List Byte → List Byte → Bool

/-- Whether a signature verifies against a public key of which the fuses hold only the SHA-384 hash (R520): hash, message,
signature. Log entry 6. -/
opaque Config.testVerify : BitVec 384 → List Byte → List Byte → Bool

/-- The PMD types (bit d: Door d is CR4) that a board configuration record gives (R395). The spec does not give the record's
layout. Log entry 26. -/
opaque Config.boardPmd : List Byte → BitVec 16

/-- The TYPE of RTD n that a board configuration record gives (R195). Log entry 26. -/
opaque Config.boardRtd : List Byte → Nat → BitVec 2

/-- The signature by the part's identity private key, which never leaves Threshold (R516): 96 bytes as one number. Log entry 6. -/
opaque Config.identitySign : List Byte → BitVec 768

/-- Whether bytes are a code object that Selnas built for this part at an interface level from 1 to the one given (R564).
The encoding of code objects is opaque to this spec. Log entry 7. -/
opaque Config.isCodeObject : List Byte → Nat → Bool

/-- A library constant: an F32 activation value whose enclosing interval, at the model's working precision, did not fix
one nearest F32 value (R134 fixes it; the model's precision is far beyond any case known). Log entry 8. -/
opaque Config.activationTie : Nat → BitVec 32 → BitVec 32

/-- The estimate that RADPWR shows of the bank's power (R159, Table 5.5: an estimate without a formula), from the ones of all
modulators over a lock-in cycle. Log entry 9. -/
opaque Config.radiatorPower : Nat → BitVec 16

/-- The modulator bit that R156 leaves open, where both values keep its bound: number of the bit since reset, u, and the sum of
u − 65,536 × bit since u changed. Log entry 99. -/
opaque Config.modulatorBit : Nat → BitVec 16 → Int → Bool

/-- Request buffers of a Corridor target port beyond three (R277 states two that only C0 takes; Table 8.5 gives only the sum
over the ports). Log entry 96. -/
opaque Config.portBuffers : Nat → Nat

end Sys2Proof
end

