-- ==== Sys2Proof/Machine/Bank.lean ====
section
/-!
DEFINITION. Sparse arrays of records: a list of (index, record) pairs with rising indexes. An array of like units
(Windows, Doors, MSI-X entries, heaters) is a bank read with the units' reset record as the default; a table of objects
(contexts, queues) is a bank whose missing entries do not exist.
-/

namespace Sys2Proof.Machine

/-- A sparse array: (index, value) pairs, indexes rising. -/
abbrev Bank (α : Type) := List (Nat × α)

/-- The entry at an index, if any. -/
def bankFind {α : Type} : Bank α → Nat → Option α
  | [], _ => none
  | (k, v) :: t, i => if k = i then some v else bankFind t i

/-- The entry at an index, or the given default. -/
def bankGet {α : Type} (b : Bank α) (d : α) (i : Nat) : α := (bankFind b i).getD d

/-- Write an entry, keeping the indexes rising. -/
def bankPut {α : Type} : Bank α → Nat → α → Bank α
  | [], i, x => [(i, x)]
  | (k, v) :: t, i, x =>
    if i < k then (i, x) :: (k, v) :: t
    else if i = k then (i, x) :: t
    else (k, v) :: bankPut t i x

/-- Remove an entry. -/
def bankErase {α : Type} (b : Bank α) (i : Nat) : Bank α := b.filter (fun e => e.1 ≠ i)

/-- Change an entry of an array with default `d`. -/
def bankMod {α : Type} (b : Bank α) (d : α) (i : Nat) (f : α → α) : Bank α := bankPut b i (f (bankGet b d i))

end Sys2Proof.Machine
end

