-- ==== Sys2Proof/Machine/State.lean ====
section
/-!
DEFINITION. The state of the part: every register, buffer, counter, object, mode and pin that the spec names, as plain
data, the queue of waiting commands, and State.reset. Registers and flags are bit vectors of the width of their field;
counters are 32-bit unless the spec says otherwise. Reset values that the spec takes from fuses or NVM and does not state
are DESIGN CHOICE values (log entry 2).
-/

namespace Sys2Proof.Machine

open Sys2Proof

/-- Why the machine stops with a fault: no command of the part does, since the spec gives every command an effect. -/
inductive Fault where
  /-- Raised by no meaning. -/
  | unused
  deriving DecidableEq, Repr

/-- Why a command has no meaning. -/
inductive Refusal where
  /-- Raised by an arm of exec that is not modelled yet; safe (the run stops). -/
  | notModelled (mnemonic : String)
  deriving DecidableEq, Repr

/-- Status codes of Table 10.7. -/
inductive Status where
  | ok | invalid | levelUnsupported | linkAbsent | imageInvalid | imageNotResident | noWindow | noStudy | pageFault
  | hostPoison | hostError | ctxLost | aborted | fenceTimeout | resvRefused | nvmWorn | noSlot | noMemory | mapped
  | notMapped | busy | denied | noObject
  deriving DecidableEq, Repr

/-- Service classes C0 to C3 are 0 to 3 (Table 8.1). -/
abbrev Cls := Nat

/-- A command in flight is named by its queue and its index (chapter 10). -/
abbrev OpId := Nat × Nat

/-! ### Memories -/

/-- A byte-addressed memory: (address, byte) cells, addresses strictly rising, no cell equal to 0, which an unlisted
address reads as (R459: every granule is written with zero when the memories are initialised). -/
structure Memory where
  cells : List Host.Cell
  deriving DecidableEq, Repr

/-- Whether a list of cells has strictly rising addresses, all above `lo` where given, and no zero byte. -/
def Memory.wfFrom : Option Nat → List Host.Cell → Bool
  | _, [] => true
  | lo, (a, b) :: t => (match lo with | none => true | some l => decide (l < a)) && decide (b ≠ 0#8) && Memory.wfFrom (some a) t

/-- The canonical form of a memory. -/
abbrev Memory.wf (m : Memory) : Bool := Memory.wfFrom none m.cells

/-- The owner of an allocated 64 KiB page: a context, or a shared object (R258, R259, R386). -/
inductive Owner where
  | ctx (n : Nat)
  | share (shid : Nat)
  deriving DecidableEq, Repr

/-- Source of an ELOG entry (Table 7.10). -/
abbrev ElogSrc := BitVec 2

/-! ### Windows (chapter 3) -/

/-- STATE of WSTAT (Table 3.8). -/
inductive WState where
  | off | idle | run | quar | qual | retired
  deriving DecidableEq, Repr

/-- Pane states (Table 3.4). -/
inductive PaneState where
  | empty | staging | settling | armed | active
  deriving DecidableEq, Repr

/-- What an accepted image leaves in a pane: header fields, the cell words driven to the trimmers (R79), REF, and PILOTA
for the two slot formats (R81). -/
structure Image where
  id : Long
  rsh : Nat
  kvalid : Nat
  nvalid : Nat
  cells : List Word
  ref : List Int
  pilotQ4 : Nat
  pilotQ6 : Nat
  deriving DecidableEq, Repr

/-- A pane: its state, resident image, the drive of each trimmer (R80), bytes staged by an IMAGE stream and for which command,
the residuals (F32 patterns, newest first) of the witnesses since its image was loaded, the slot format of the last pass (none:
no pass yet), and the context that pinned it for C0 (R292). -/
structure Pane where
  state : PaneState
  image : Option Image
  drive : List Word
  staged : List Byte
  loader : Option OpId
  hist : List Word
  lastQ6 : Option Bool
  pin : Option Nat
  deriving DecidableEq, Repr

/-- Modulator formats of Table 2.6. -/
inductive SlotFmt where
  | q4 | q6 | q8
  deriving DecidableEq, Repr

/-- A work slot: row, high slice of a Q8 row, the codes that its symbol drives onto the modulators (a slice of a Q8 row, R91),
attenuation step, and the ADC codes of its issue. -/
structure SlotRes where
  row : Nat
  high : Bool
  input : List Int
  r : Nat
  codes : List Int
  deriving DecidableEq, Repr

/-- A witness that has issued and whose residual is not known yet: its position among the pass's slots, the work slots of its
round before it, and the WSEED and WITCNT values that form its signs (R94). -/
structure PendWit where
  pos : Nat
  work : Nat
  seed : Word
  cnt : Word
  deriving DecidableEq, Repr

/-- A pass in flight on a Window (R90 to R104): the command and pass it belongs to, its pane, the Window whose Pantry it
feeds, its format and modulator rows, the row scales and row sums, the density, history size and BLIMIT it
started with (R116), its slots' latest results, the slots of the current round still to be
issued, the slots issued so far, witnesses issued and not yet resolved, the work slots of the round whose clip decision has
fallen (R104), own residuals, the bound B, its round, and the flags it will carry. -/
structure Pass where
  op : OpId
  p : Nat
  pane : Bool
  home : Nat
  half : Option Bool
  fmt : SlotFmt
  rows : List (List Int)
  rowScale : List Nat
  rowSum : List Int
  dens : Nat
  hist : Nat
  blimit : Word
  slots : List SlotRes
  round : Nat
  plan : List Bool
  sinceWit : Nat
  pendWit : List PendWit
  decided : Nat
  own : List Word
  bound : Word
  clipRep : Bool
  sat : Bool
  rsvd : Bool
  moved : Bool
  deriving DecidableEq, Repr

/-- One half of a Window's input buffer (R240): the pass its FEED is for, the FEED stream, and whether it is complete. -/
structure FeedHalf where
  op : OpId
  p : Nat
  sid : Nat
  bytes : List Byte
  ready : Bool
  deriving DecidableEq, Repr

/-- A Window: Tables 3.7 to 3.10 and what lies behind them; `gone`: it is RETIRED until service (R115, R496, R497), whatever a
trip or a reset makes of STATE. -/
structure Window where
  state : WState
  active : Option Bool
  paneA : Pane
  paneB : Pane
  spare : Bool
  redir : Bool
  flags : BitVec 6
  wdens : BitVec 3
  hist : BitVec 4
  blimit : Word
  lastb : Word
  wseed : Word
  symcnt : Long
  symLatch : Word
  witcnt : Word
  repcnt : Word
  satcnt : Word
  swapcnt : Word
  loadcnt : Word
  quarcnt : Word
  pass : Option Pass
  swap : Option Bool
  half0 : Option FeedHalf
  half1 : Option FeedHalf
  convRun : Nat
  qualTries : Nat
  requal : Bool
  gone : Bool
  deriving DecidableEq, Repr

/-- The Lamp: LAMPSTAT (Table 3.11), which lasers are enabled and which have failed (R113, R467), which LAMP_WEAR was
raised for (R499). -/
structure Lamp where
  lok : BitVec 9
  enabled : BitVec 9
  failed : BitVec 9
  worn : BitVec 9
  spareTo : Nat
  spareUse : Bool
  deriving DecidableEq, Repr

/-! ### Pantries and the Truss (chapter 4) -/

/-- Accumulator formats. -/
inductive AFmt where
  | i16 | i32 | a24
  deriving DecidableEq, Repr

/-- Flags of a result tile or slot that follow the OR rule of R62 (R100, Table 4.6). -/
structure TileFlags where
  sat : Bool
  rsvd : Bool
  clipRep : Bool
  moved : Bool
  resc : Bool
  sround : Bool
  unalign : Bool
  deriving DecidableEq, Repr

/-- A slot descriptor: sticky flags, I16 step, error sum E (F32), contributing passes (chapter 4, Slots). -/
structure SlotDesc where
  flags : TileFlags
  step : Nat
  esum : Word
  passes : Word
  deriving DecidableEq, Repr

/-- A partial value at a tree node: 128 × rows elements (integers; for A24 the 24-bit patterns as numbers), its I16
step, E, flags and passes. -/
structure Partial where
  level : Nat
  index : Nat
  elems : List Int
  step : Nat
  esum : Word
  flags : TileFlags
  passes : Nat
  deriving DecidableEq, Repr

/-- A committed leaf held for an earlier pass (R123) or for an overlapping tree (R121). -/
structure Leaf where
  p : Nat
  elems : List Int
  esum : Word
  flags : TileFlags
  deriving DecidableEq, Repr

/-- An accumulation of one command in a Pantry (R119 to R125): its Window number, context, place of its slot in the context's region, slot bytes (fixed when it opens), shape, whether it
is open, the next pass index, leaves held, the accumulator (integer formats) or the stack of completed subtrees (A24),
the row sums and K of the passes fed on this part, the passes that partials of other chips brought without theirs (`farPasses`), and row scales for the epilogue, whether its root and Truss combination are complete, and whether its last
commit waits for an overlapping tree. -/
structure Tree where
  op : OpId
  pantry : Nat
  ctx : Nat
  rel : Nat
  lo : Nat
  hi : Nat
  fmt : AFmt
  rows : Nat
  open_ : Bool
  next : Nat
  held : List Leaf
  waiting : Bool
  stack : List Partial
  root : Option Partial
  final : Option Partial
  sent : Bool
  rowSum : List Int
  kCount : Nat
  farPasses : Nat
  rowScale : List Nat
  nvalid : Nat
  deriving DecidableEq, Repr

/-- A partial of a split tree that has arrived at the Truss of this chip: the key, the sending rank and its sequence
number for the key (R444), NODE, format, value (`exact`: the exact element sums of a local partial, R147), the row sums and K that
enter a zero point with the passes whose sums are missing (known for a local partial only: REDDESC does not carry them), and whether it is discarded (R446, R448). -/
structure RedPartial where
  group : Nat
  otrow : Nat
  otcol : Nat
  node : Word
  gcrc : Word
  fmt : AFmt
  srows : Nat
  src : Nat
  win : Nat
  kth : Nat
  want : Nat
  bytes : List Byte
  descMeta : List Byte
  exact : Option (List Int)
  rows : Option (List Int × Nat × Nat)
  whole : Bool
  dead : Bool
  deriving DecidableEq, Repr

/-- A Pantry: Tables 4.10 to 4.12, its 2 MiB of SRAM and its slot directory, keyed by the byte address of the slot. -/
structure Pantry where
  migr : Bool
  out : Bool
  flags : BitVec 5
  treeOpen : Word
  treeClose : Word
  commitCnt : Word
  rescCnt : Word
  srndCnt : Word
  sram : Memory
  dir : Bank SlotDesc
  deriving DecidableEq, Repr

/-! ### Study (chapter 6) -/

/-- The work items a core can run: a kernel item, or a Refine item (R565). -/
inductive Item where
  | kernel (op : OpId) (item : Nat)
  | residual (op : OpId) (block : Nat)
  | decision (op : OpId)
  | update (op : OpId) (block : Nat)
  deriving DecidableEq, Repr

/-- A kernel item between its start and its end: the operations still to be done and all of them, the values so far, the values
read from memory so far (newest first), and the IEEE flags. -/
structure Partway where
  todo : List StudyOp
  whole : List StudyOp
  vals : Bank Nat
  loads : List Nat
  fl : BitVec 5
  deriving DecidableEq, Repr

/-- What an item of a kernel did: kernel, arguments, RMODE, item number, its operations, the values they read. -/
structure SeenItem where
  kernel : List Byte
  args : List Byte
  rmode : RMode
  item : Nat
  trace : List StudyOp
  loads : List Nat
  deriving DecidableEq, Repr

/-- The Study block (Table 6.7): cores in service, the core-test flag, the sticky flags, counters, what each busy core
runs, and the cores removed since the last core test (R214). `known`: what each kernel item has been seen to do, by kernel,
arguments, RMODE and item number: its operations and the values they read (R207; log entry 7). `partway`: the operations that a
core's item still has to do after a fault halted it, and the whole list (R246, R249). -/
structure Study where
  coreOk : BitVec 128
  srdy : Bool
  flags : BitVec 3
  itemCnt : Word
  itemRep : Word
  refCnt : Word
  refIter : Word
  corrCnt : Word
  busy : Bank Item
  removed : BitVec 128
  known : List SeenItem
  partway : Bank Partway
  deriving DecidableEq, Repr

/-- The stage of a Refine iteration (R565). -/
inductive RefStage where
  | residuals | decide | optics | updates
  deriving DecidableEq, Repr

/-- A Refine in progress (R216 to R224): iteration, stage, x, r, ε, the values decided so far, e history (newest first), ‖r‖∞, the
tile list (TROW, TCOL, IMGADDR, TSCALE, IMAGEID), Q8 codes and exponent of the Window input, accumulator rows of the
tiles, blocks done in the stage, optical applications, passes, IEEE flags, report flags, and whether it found no Window. -/
structure RefineSt where
  k : Nat
  stage : RefStage
  x : List Long
  r : List Long
  eps : List Long
  decided : List (Option Long)
  ehist : List Long
  rnorm : Long
  tiles : List (Nat × Nat × Nat × Long × Long)
  codes : List Int
  exp : Int
  accs : Bank (List Int)
  blocks : List Nat
  apps : Nat
  wpasses : Nat
  ieee : BitVec 5
  sat : Bool
  rsvd : Bool
  moved : Bool
  noWin : Bool
  deriving DecidableEq, Repr

/-! ### Commands in flight (chapter 10) -/

/-- The header of a queue command (Table 10.2). -/
structure CmdHdr where
  opcode : Nat
  level : Nat
  barrier : Bool
  signal : Bool
  irq : Bool
  sigAdd : Bool
  cookie : Long
  fenceVa : Nat
  deriving DecidableEq, Repr

/-- The body of a WINDOW command (Table 10.4). -/
structure WinCmd where
  imgList : Nat
  inAddr : Nat
  ctAddr : Nat
  outAddr : Nat
  metAddr : Nat
  rsvAddr : Nat
  osvAddr : Nat
  inStride : Nat
  sx : Word
  kTotal : Nat
  kFirst : Nat
  kCount : Nat
  splitN : Nat
  splitRank : Nat
  otrow : Nat
  otcol : Nat
  slot : Nat
  zpx : Byte
  window : Nat
  srows : Nat
  unal : Bool
  nrows : Nat
  infmt : Nat
  afmt : Nat
  ofmt : Nat
  rsrc : Nat
  zpmode : Nat
  act : Nat
  omode : Bool
  pinit : Bool
  epi : Bool
  qfmt : Nat
  deriving DecidableEq, Repr

/-- The body of a REFINE command (Tables 6.3 and 10.3). -/
structure RefCmd where
  aAddr : Nat
  rowPtr : Nat
  lda : Nat
  colIdx : Nat
  bAddr : Nat
  x0Addr : Nat
  yOut : Nat
  mapAddr : Nat
  repAddr : Nat
  mtAddr : Nat
  beta : Long
  n : Nat
  tolExp : Int
  itMax : Nat
  mTiles : Nat
  csr : Bool
  wmask : Byte
  deriving DecidableEq, Repr

/-- The commands of Table 10.3 with their bodies. -/
inductive Cmd where
  | window (c : WinCmd)
  | imageLoad (addr window : Nat) (pane : Bool)
  | slotRead (tile met window slot srows : Nat) (afmt : AFmt)
  | slotWrite (tile met window slot srows : Nat) (afmt : AFmt)
  | study (khandle : Word) (nitems argAddr argLen : Nat) (rmode : RMode)
  | refine (c : RefCmd)
  | copy (src dst rowLen nRows sStride dStride : Nat)
  | fill (dst rowLen nRows dStride : Nat)
  | fenceWait (va : Nat) (val : Long) (timeout : Nat)
  | nop
  deriving DecidableEq, Repr

/-- A decoded command that has not completed: header and body, whether it has started (R364), the status it has ended
with, DETAIL, its record flags, its release under R547 and the progress of its work; `moved`: the passes to be repeated under
R109, each with the Window that was quarantined. -/
structure Op where
  q : Nat
  idx : Nat
  ctx : Nat
  cls : Cls
  hdr : CmdHdr
  cmd : Cmd
  started : Bool
  armed : Bool
  done : Option Status
  detail : Nat
  rflags : BitVec 9
  imgs : List (Long × Nat)
  passes : List Nat
  args : List Byte
  kernel : List Byte
  itemsOut : List Nat
  moved : Bank Nat
  itemsDone : Nat
  refine : Option RefineSt
  gkey : Nat
  deriving DecidableEq, Repr

/-- Queue states (R366). -/
inductive QState where
  | active | stopped | lost
  deriving DecidableEq, Repr

/-- A queue (Table 10.1, R359): owner, class, rings, vector, HEAD, last TAIL, state, OVR, the value of its doorbell
word, its Truss group (R442), and whether a destruction with FORCE is in progress (R387). -/
structure Queue where
  ctx : Nat
  cls : Cls
  ringVa : Nat
  cqVa : Nat
  ringN : Nat
  vector : Nat
  head : Nat
  tail : Nat
  state : QState
  ovr : Bool
  bell : Word
  group : Option Nat
  dying : Bool
  deriving DecidableEq, Repr

/-- What a translation names: device memory, a host bus address, or a page of a remote export (R423). -/
inductive Target where
  | dev (pa : Nat)
  | host (addr : Nat)
  | remote (node export_ page : Nat)
  deriving DecidableEq, Repr

/-- A translation (R233, R377): device address of its first byte, large or 64 KiB, target, ATTR (Table 7.3), whether
its pages were allocated for it, and the shared object it maps, if any. -/
structure Mapping where
  va : Nat
  large : Bool
  tgt : Target
  attr : Byte
  alloc : Bool
  shid : Option Nat
  deriving DecidableEq, Repr

/-- An arena (R381, R382): base, size, allocated blocks (address, size). -/
structure Arena where
  base : Nat
  size : Nat
  blocks : List (Nat × Nat)
  deriving DecidableEq, Repr

/-- A mailbox (Table 10.10): MBCTL and MBSTAT fields, the request area as bytes by offset, the response words, and
whether Yilium has taken the request of a command that waits (R349). -/
structure Mailbox where
  go : Bool
  irq : Bool
  lostUpd : BitVec 4
  busy : Bool
  done : Bool
  mbovr : Bool
  seq : BitVec 16
  req : Memory
  resp : List Long
  deriving DecidableEq, Repr

/-- A context (Table 10.1): CSEED, PREGION, SAVEVA, vector, residency, the base of its Pantry region in 64 KiB units, pin,
loss, counters, table, arena with its failed allocations and BADFREE (R382), kernels, the age of its last doorbell, whether a kept doorbell waits for residency (R355), and
while it is evicted its Pantry contents with the number of the free value that stands in its save area (R356). -/
structure Context where
  cseed : Long
  pregion : Nat
  saveVa : Nat
  vec : Nat
  resident : Bool
  base : Nat
  pinned : Bool
  lost : Bool
  lossCause : Nat
  lossAddr : Long
  replayed : Long
  lateCnt : Long
  sigDrop : Long
  table : List Mapping
  arena : Option Arena
  arenaFailed : Nat
  badFree : Nat
  kernels : Bank (List Byte)
  bellAge : Nat
  wantRes : Bool
  saved : Bank (Memory × Bank SlotDesc)
  saveKey : Option Nat
  deriving DecidableEq, Repr

/-- A shared object (R384): its pages' physical addresses and the contexts that map it. -/
structure Share where
  pages : List Nat
  maps : List Nat
  deriving DecidableEq, Repr

/-- An event record (Table 10.8). -/
structure Event where
  type : Nat
  ctx : Nat
  seq : Word
  arg0 : Long
  arg1 : Long
  arg2 : Long
  deriving DecidableEq, Repr

/-- The host event ring (R392, R393): base address, entries, next entry. -/
structure EventRing where
  addr : Nat
  entries : Nat
  next : Nat
  deriving DecidableEq, Repr

/-! ### Streams, translation, memory controllers (chapter 7) -/

/-- Stream kinds (Table 7.5). -/
inductive Kind where
  | copy | image | feed | drain | study | slot | fill
  deriving DecidableEq, Repr

/-- Stream states (Table 7.4). -/
inductive StState where
  | ready | run | halt | done
  deriving DecidableEq, Repr

/-- Fault codes (Table 7.7). -/
inductive FCode where
  | none | notMapped | noRead | noWrite | range | poison | stackOut
  deriving DecidableEq, Repr

/-- A stream (Table 7.4): descriptor fields, its command, its Dumbwaiter, bytes read and not yet written, bytes read so
far, the fault that will halt it, the segments a DRAIN writes (address, bytes), its place among the four contexts of its Dumbwaiter,
and the target port that holds its next request in a request buffer, with whether the request is a read (R277). -/
structure Stream where
  op : OpId
  kind : Kind
  toUnit : Bool
  cls : Cls
  ctx : Nat
  src : Nat
  dst : Nat
  rowLen : Nat
  nRows : Nat
  sStride : Nat
  dStride : Nat
  pos : Nat
  rpos : Nat
  state : StState
  fcode : FCode
  faultVa : Nat
  pending : Option (FCode × Nat)
  dw : Option Nat
  buf : List Byte
  segs : List (Nat × List Byte)
  win : Nat
  half : Bool
  slot : Nat
  held : Option (Nat × Bool)
  deriving DecidableEq, Repr

/-- A Dumbwaiter's register block (Table 7.9); DSTAT fields are those of the stream it last carried. -/
structure Dumb where
  kind : Nat
  cls : Nat
  ctxId : Nat
  st : Nat
  flags : BitVec 3
  desc : Long
  descLatch : Word
  byteCnt : Long
  byteLatch : Word
  mergeCnt : Word
  faultCnt : Word
  prefCnt : Word
  deriving DecidableEq, Repr

/-- A DTC entry (R234, R555): context, first device address, size, target, ATTR, and the age of its last use. -/
structure DtcEntry where
  ctx : Nat
  map : Mapping
  used : Nat
  deriving DecidableEq, Repr

/-- A Cellar bandwidth reservation and its token bucket (R267, R300): order of admission, rate, tokens. -/
structure Resv where
  ctx : Nat
  cls : Nat
  rate : Nat
  seq : Nat
  tokens : Nat
  deriving DecidableEq, Repr

/-- The memory block (Table 7.10) and what lies behind it: both memories (one address space), poison marks (granule
numbers), page owners, the allocated pages in which a granule has been poisoned (R259), stacks, Sweep, reservations, scrub
queues, row counters. -/
structure Mem where
  data : Memory
  poison : List Nat
  owners : Bank Owner
  badPages : List Nat
  stacksIn : List Nat
  stkUp : BitVec 4
  derate : List (BitVec 2)
  flags : BitVec 6
  deliv : Nat
  c0cap : Nat
  ceCnt : List Word
  ueCnt : List Word
  larCe : Word
  larUe : Word
  poisCnt : Word
  elogAddr : Long
  elogCtx : Word
  elogLatch : Long
  swctrl : Word
  swCel : Nat
  swLar : Nat
  swLatch : Word
  swPass : Word
  scrubC : List Nat
  scrubL : List Nat
  rowCe : Bank Nat
  resvs : List Resv
  resvSeq : Nat
  init : Bool
  deriving DecidableEq, Repr

/-- The translation block (Table 7.11), the DTC and the walks not yet completed. -/
structure Xlate where
  multiHit : Bool
  dtcMiss : Word
  walkCnt : Word
  mhCnt : Word
  dtc : Bank DtcEntry
  walks : List (Nat × Nat)
  clock : Nat
  deriving DecidableEq, Repr

/-! ### Corridor (chapter 8) -/

/-- TAKE and GIVE of one conserved quantity (Table 8.5); LEVEL is counted apart. -/
structure Aud where
  take : Word
  give : Word
  level : Word
  deriving DecidableEq, Repr

/-- The Corridor block (Table 8.6): guarantee, flags, speed, weights, OPRES, sequencer pointers (index 4·s + class), the class
whose turn it is and the grants used in the round of each place (R279; places 0 to 7 sequencers, 8 + w Windows, 16 + d
Dumbwaiters, 32 + k Study clusters, 48 the Truss, 64 + p Corridor target ports, 128 + 16·v + d the transmitter of VC v at Door d), the
rotating pointers of the other places (R280; index 4·place + class),
FREEZE with the captured audit registers, AUDFAIL, AUDCAP and the live quantities. -/
structure Corridor where
  gActive : Bool
  flags : BitVec 2
  cspeed : BitVec 16
  carb : Word
  opRes : BitVec 8
  seqPtr : Bank Nat
  arb : Bank (Nat × List Nat)
  ptr : Bank Nat
  freeze : Bool
  captured : Bank (Aud × Word)
  audFail : BitVec 16
  audCap : Word
  aud : Bank Aud
  deriving DecidableEq, Repr

/-! ### Host interface (chapter 9) -/

/-- A BAR4 range-table entry (Table 9.7). -/
structure RangeEnt where
  en : Bool
  wen : Bool
  atom : Bool
  base : BitVec 14
  size : BitVec 15
  pa : BitVec 22
  deriving DecidableEq, Repr

/-- An MSI-X table entry (Table 9.8) with its pending bit (Table 9.9). -/
structure Msix where
  addrLo : Word
  addrHi : Word
  data : Word
  mask : Bool
  pend : Bool
  deriving DecidableEq, Repr

/-- An outstanding read of host memory (R337): its tag, the stream it serves, bytes asked, its context. -/
structure HostReq where
  tag : Nat
  sid : Nat
  len : Nat
  ctx : Nat
  deriving DecidableEq, Repr

/-- The errors of Table 9.6. -/
inductive AerErr where
  | unsupportedRequest | poisonedTlp | completionTimeout | unexpectedCompletion | malformedTlp | internalError
  deriving DecidableEq, Repr

/-- What the header log holds of a TLP that caused an uncorrectable error (R343): a read, a write or an AtomicOp by its BAR,
offset and length, a completion by its tag where the read was a stream's, a TLP that nothing serves by its kind. -/
inductive Tlp where
  | read (bar off len : Nat)
  | write (bar off len : Nat)
  | atomic (off size : Nat)
  | completion (tag : Option Nat)
  | bad (kind : BadTlp)
  deriving DecidableEq, Repr

/-- Configuration space beyond Request Retry Status and MSI-X (Table 9.1, R304, R335, R338, R343): the BARs, Device Control and
Device Control 2, D3hot, and AER's uncorrectable error status, severity and header log, one TLP with its error's bit. -/
structure PcieCfg where
  bars : Bank Word
  devCtl : BitVec 16
  devCtl2 : BitVec 16
  d3 : Bool
  aerStatus : Word
  aerSev : Word
  hdrLog : List (Nat × Tlp)
  deriving DecidableEq, Repr

/-- The host interface block (Table 9.7), configuration state (R305, R306, R342), and the doorbell values (R319). -/
structure HostIf where
  lspeed : BitVec 3
  lwidth : BitVec 5
  flit : Bool
  flags : BitVec 7
  dbAcc : Word
  dbRej : Word
  rtmhCnt : Word
  rtmissCnt : Word
  atomCnt : Word
  mbxDrop : Word
  ranges : Bank RangeEnt
  msix : Bank Msix
  msixEn : Bool
  msixMask : Bool
  cfgReady : Bool
  cfgDone : Bool
  reqs : List HostReq
  nextTag : Nat
  cfg : PcieCfg
  deriving DecidableEq, Repr

/-! ### Radiator, Thermostat, sensors, AUX (chapter 5) -/

/-- The one-bit modulator of a heater (R156): the u of its last bits, the sum of u − 65,536 × bit over the bits since u last
changed with the least and the largest that sum has been, and the 32 bits of the last Radiator tick, the first in bit 0. -/
structure Modulator where
  u : BitVec 16
  acc : Int
  lo : Int
  hi : Int
  bits : BitVec 32
  deriving DecidableEq, Repr

/-- A heater (Table 5.8) with OUT, its NVM values, the modulator input u, a short in progress, and its modulator. -/
structure Heater where
  code : BitVec 16
  prof : BitVec 3
  den : Bool
  sc : Bool
  dsel : BitVec 6
  lostUpd : BitVec 4
  out : BitVec 16
  u : BitVec 16
  pwrUp : BitVec 16
  park : BitVec 16
  limiting : Bool
  modu : Modulator
  deriving DecidableEq, Repr

/-- The heaters of one Window: the channel that every unlisted heater equals, and the listed ones by heater number. -/
structure HeaterBank where
  dflt : Heater
  chans : Bank Heater
  deriving DecidableEq, Repr

/-- A sine generator (Table 5.9) with the dither d of the last Radiator tick (R175). -/
structure Gen where
  ftw : Word
  phoff : Word
  amp : BitVec 12
  phase : Word
  d : Int
  deriving DecidableEq, Repr

/-- A slew profile (Table 5.5). -/
structure SlProf where
  step : BitVec 16
  slint : BitVec 8
  deriving DecidableEq, Repr

/-- An AUX output (Table 5.12). -/
structure Aux where
  code : BitVec 16
  prof : BitVec 3
  den : Bool
  out : BitVec 16
  u : BitVec 16
  compl : Bool
  pwrUp : BitVec 16
  park : BitVec 16
  deriving DecidableEq, Repr

/-- A sensor channel (Tables 5.10, 5.11): TYPE (RTDs), the value word, RTDxRES, whether the open-wire check of the
current period passed (none before the channel's first check), whether it is recovering and its run of published values, the
periods since VALID cleared without a published value, and whether the last value was out of range. -/
structure Sensor where
  type : BitVec 2
  temp : BitVec 16
  valid : Bool
  hold : Bool
  est : Bool
  open_ : Bool
  range : Bool
  res : Word
  chkOk : Option Bool
  recovering : Bool
  run : Nat
  lostFor : Nat
  outRange : Bool
  deriving DecidableEq, Repr

/-- The Thermostat block (Tables 5.5 to 5.7), the Radiator's tick count and the loop state: the Windows whose loop runs, the
running cycle with the heaters it dithers, the tone voids and its Windows (`swept`), the largest |δ|, the cycles done and the
cells dithered in each Window's sweep (bit c of `visited`), the finished sweeps whose results are not written yet; the ones of
all modulators in the running cycle; the tick of the last cycle start. -/
structure Thermo where
  conv : BitVec 8
  nvmOk : Bool
  rampDone : Bool
  parkAll : Bool
  flags : BitVec 6
  tctrl : Word
  lkCyc : Word
  lkUpd : Word
  lkVoid : Word
  lostSum : Word
  scCnt : Word
  slprof : Bank SlProf
  lkResid : Bank (BitVec 16)
  hsel : BitVec 18
  radPwr : BitVec 16
  sensCnt : Word
  openCnt : Word
  tick : Nat
  heaters : Bank HeaterBank
  sg : Bank Gen
  ag : Bank Gen
  aux : Bank Aux
  sensors : Bank Sensor
  loopOn : BitVec 8
  cycleOn : Bool
  dithered : List Nat
  sweepMax : Bank Nat
  cycles : Bank Nat
  voided : List Nat
  slprofNow : Bank SlProf
  radOnes : Nat
  cycleAt : Option Nat
  swept : BitVec 8
  visited : Bank Nat
  sweepDue : Bank (Option Nat)
  deriving DecidableEq, Repr

/-! ### Links (chapter 11) -/

/-- Door states (Table 11.10). -/
inductive DoorState where
  | absent | training | trained | open_ | down | disabled
  deriving DecidableEq, Repr

/-- A message (Table 11.4): type, class, ATOP, STATUS, source, destination, TAG, ADDR, LEN of a read, data. -/
structure Msg where
  mtype : Nat
  cls : Nat
  atop : Nat
  status : Nat
  src : Nat
  dst : Nat
  tag : Nat
  addr : Nat
  len : Nat
  data : List Byte
  deriving DecidableEq, Repr

/-- A flit (Table 11.2) without its CRC. -/
structure Flit where
  vc : Nat
  lane : Nat
  nak : Bool
  null : Bool
  seq : Nat
  ack : Nat
  cret : List Nat
  clane : Nat
  payload : List Byte
  deriving DecidableEq, Repr

/-- A Door: Table 11.10 and its link layer: per (VC, lane) credits given, freed and held (index 2·vc + lane), send
queues, replay buffer with the times each flit was replayed, sequence numbers, receive bytes not yet a whole message with the
flits that hold them (numbered by `rxIx` as they are accepted), credits to return, whether the opening's RSP credits go first
(R400), whether a LINK flit with the identity is due (R398), and whether a retraining after DOWN runs (R438). -/
structure Door where
  state : DoorState
  cr4 : Bool
  onAlt : Bool
  peer : Half
  flags : BitVec 5
  fecCorr : Word
  fecUnc : Word
  crcCnt : Word
  replayCnt : Word
  txFlit : Word
  rxFlit : Word
  dcGiven : Bank Word
  dcBack : Bank Word
  txCred : Bank Nat
  lateRsp : Word
  toutCnt : Word
  retryTx : Word
  retryRx : Word
  sendQ : Bank (List Msg)
  partTx : Bank (List Byte)
  replay : List (Flit × Nat)
  nextSeq : Nat
  expSeq : Nat
  nakSent : Bool
  sendNak : Bool
  rxBuf : Bank (List Byte)
  rxFlits : Bank (List Nat)
  rxIx : Nat
  owed : Bank Nat
  rspFirst : Bool
  linkDue : Bool
  retrains : Nat
  retry : Bool
  degraded : Bool
  deriving DecidableEq, Repr

/-- A message received whole: the Door (16: from this node), the VC lane code, the flit buffers that hold its bytes (R413). -/
structure InMsg where
  door : Nat
  code : Nat
  flits : List Nat
  msg : Msg
  deriving DecidableEq, Repr

/-- An export (R417). -/
structure Export where
  ctx : Nat
  va : Nat
  pages : Nat
  r : Bool
  w : Bool
  atom : Bool
  lo : Nat
  hi : Nat
  deriving DecidableEq, Repr

/-- What an outstanding remote request serves: a stream piece (stream, read), a SIGNAL of a command (and
whether its vector follows), or
the last chunk of a Truss partial of a command. -/
inductive RemOwner where
  | stream (sid : Nat) (rd : Bool)
  | signal (op : OpId) (irq : Bool)
  | red (op : OpId)
  deriving DecidableEq, Repr

/-- An outstanding remote request (R430): TAG, message, the Door it was sent through, RETRYs received, whether it waits
for its back-off. -/
structure RemReq where
  tag : Nat
  msg : Msg
  door : Option Nat
  owner : RemOwner
  va : Nat
  ctx : Nat
  retries : Nat
  backoff : Bool
  deriving DecidableEq, Repr

/-- A loaded topology table (Table 11.6). -/
structure Topo where
  node : Nat
  mode : Nat
  dims : Nat
  dx : Nat
  dy : Nat
  dz : Nat
  m : Nat
  check : Word
  bytes : List Byte
  deriving DecidableEq, Repr

/-- A Truss group (R443): (node, Window) per rank, and GCRC. -/
structure Group where
  ranks : List (Nat × Nat)
  gcrc : Word
  deriving DecidableEq, Repr

/-- The link block (Table 11.11) and the network state of this node. -/
structure Link where
  flags : BitVec 4
  rto : BitVec 20
  trto : BitVec 16
  topo : Option Topo
  ovrmhCnt : Word
  rpoisCnt : Word
  remRd : Word
  remWr : Word
  remAtom : Word
  doors : Bank Door
  exports : Bank Export
  reqs : List RemReq
  nextTag : Nat
  inbox : List InMsg
  atomq : List Msg
  held : List (Nat × Msg)
  groups : Bank Group
  partials : List RedPartial
  kths : Bank Nat
  trComb : Word
  trUnal : Word
  trLate : Word
  timedOut : List (Nat × Nat × Nat)
  deriving DecidableEq, Repr

/-! ### Power, Threshold, NVM (chapters 12 and 13) -/

/-- The power, reset and thermal block (Table 12.11) and the counters of its policy. -/
structure Power where
  thlvl : BitVec 3
  byTemp : Bool
  byPwr : Bool
  byCool : Bool
  byEst : Bool
  trip : Bool
  flags : BitVec 5
  pavg : BitVec 16
  pavgValid : Bool
  plimit : BitVec 9
  tpol : BitVec 16
  tpolValid : Bool
  rstCause : BitVec 3
  railStat : BitVec 10
  coolMax : BitVec 16
  thRaise : Word
  bootMs : BitVec 16
  stkTemp : List (BitVec 16)
  sinceChange : Nat
  calm : Nat
  coolAbove : Bool
  noTempFor : Nat
  deriving DecidableEq, Repr

/-- Threshold states (Table 13.14). -/
inductive TState where
  | boot | normal | recovery | test
  deriving DecidableEq, Repr

/-- A failure-record entry (Table 13.4). -/
structure FrecEntry where
  time : Nat
  kind : Nat
  unit : Nat
  index : Nat
  cause : Nat
  paddr : Nat
  ctx : Nat
  tpol : BitVec 16
  pavg : BitVec 16
  cspeed : BitVec 16
  thlvl : BitVec 3
  rstc : BitVec 3
  railStat : BitVec 10
  deriving DecidableEq, Repr

/-- The failure-record summary's counted fields (Table 13.3). -/
structure FrecSum where
  pos : Nat
  coldCnt : Nat
  lampH : List Nat
  tmax : Int
  t95s : Nat
  t100s : Nat
  tripCnt : Nat
  railSecs : Nat
  ceCnt : Nat
  nEntry : Nat
  ovf : Nat
  deriving DecidableEq, Repr

/-- Fuses (chapters 0 and 13). -/
structure Fuses where
  ordcode : Byte
  mfgrev : Byte
  serial : Long
  keyHash : List (BitVec 384)
  keyRev : BitVec 4
  svn : Nat
  testHash : BitVec 384
  testCnt : Nat
  jtagLock : Bool
  deriving DecidableEq, Repr

/-- On-package NVM (chapter 13): maker region and customer region. `switchDue`: the inactive bank becomes active at the next
reset that starts Hearth (R512); `activated`: the active bank was made so by FW_ACTIVATE (R513); `fwFails` and `fwAct`: the
count of R508, and whether it calls for an action at the next such reset; `fuseTodo`: fuse blows recorded as pending (R514);
`frecSum`: the summary's live counts, `frecStored`: the summary as last written (R503); `cellCal`: the calibration offsets of the
cells of each pane, at index 2 × Window + pane, in the image's phase units (R80; an unlisted pane has offsets 0). -/
structure Nvm where
  floorA : List Word
  floorB : List Word
  cellCal : Bank (List Word)
  recOk : BitVec 8
  pwrUp : BitVec 16
  park : BitVec 16
  heaterVals : Bank (BitVec 16 × BitVec 16)
  auxVals : Bank (BitVec 16 × BitVec 16)
  auxWrites : Nat
  bankA : List Byte
  bankB : List Byte
  bank : Bool
  pend : Bool
  switchDue : Bool
  activated : Bool
  fwFails : Nat
  fwAct : Bool
  fuseTodo : Option (Nat × BitVec 4)
  frec : List FrecEntry
  frecSum : FrecSum
  frecStored : FrecSum
  frecOvf : Word
  retRows : List (Nat × Nat)
  retPages : List Nat
  rowUe : Bank Nat
  rowsOver : List Nat
  boardCfg : Option (List Byte)
  boardWrites : Nat
  topo : Option (List Byte)
  topoWrites : Nat
  certs : List Byte
  wipePending : Bool
  everTest : Bool
  stkDown : BitVec 4
  rtdType : List (BitVec 2)
  pmdCr4 : BitVec 16
  deriving DecidableEq, Repr

/-- The Threshold block (Table 13.14) beyond fuses and NVM: state, flags, recovery registers, the valid challenge, the
measurement of the running image and its interface level. -/
structure Thresh where
  tstate : TState
  flags : BitVec 5
  serialLatch : Word
  jtagCnt : Word
  jtagIns : JtagInstr
  rcvGo : Bool
  rcvLost : BitVec 4
  rcvData : Word
  rcvLen : Word
  rcvWords : List Word
  challenge : Option (BitVec 256)
  running : List Byte
  hearthRun : Bool
  deriving DecidableEq, Repr

/-- Resets (Table 12.3), from the least to the greatest. -/
inductive ResetKind where
  | flr | internal | warm | cold
  deriving DecidableEq, Repr

/-- The answer to a configuration request: Request Retry Status, a write done, a register's value, or the header log's entry. -/
inductive CfgAns where
  | retry
  | written
  | value (v : Word)
  | header (t : Option Tlp)
  deriving DecidableEq, Repr

/-- What a step sends out of the part (model's own log, log entry 4). -/
inductive Out where
  /-- A pin of the part changes level: THERMTRIP_N, ALERT_N. -/
  | pin (name : String) (level : Bool)
  /-- A configuration request answered. -/
  | config (a : CfgAns)
  /-- A read completion: status (true successful, false Unsupported Request), poisoned mark, data. -/
  | completion (ok : Bool) (poisoned : Bool) (data : List Byte)
  /-- A write to host memory. -/
  | hostWrite (addr : Nat) (data : List Byte)
  /-- A read of host memory: tag, address, length. -/
  | hostRead (tag addr len : Nat)
  /-- An MSI-X message. -/
  | msix (vector : Nat) (addr : Long) (data : Word)
  /-- An AER report: the error, and whether its severity is fatal (R343). -/
  | aer (error : AerErr) (fatal : Bool)
  /-- An SMBus answer. -/
  | smbus (data : Nat)
  /-- A flit sent on a Door. -/
  | flit (door : Nat) (f : Flit)
  /-- A result of a device-side call (ARENA_ALLOC). -/
  | device (v : Nat)
  deriving DecidableEq, Repr

/-- The whole part. `resetting`: the greatest reset since READY was last raised (R542), none from READY on; `lampWasLit`: the
Lamp was lit when the start-up began (R464, R468); `warmHeld`: a Warm reset waits for PERST_N to be deasserted (R476);
`pastDeadline`: the deadline of R472 has passed;
`internalCause`: an Internal reset is due, with its RSTCAUSE code; `fwFallback`: FW_FALLBACK is due at READY (R507, R508);
`freeIx`: the number of the next free value and `out`: what the part has sent, both the model's own (log entries 5, 4). -/
structure State where
  pending : List Instr
  out : List Out
  freeIx : Nat
  fuses : Fuses
  nvm : Nvm
  pwrGood : Bool
  perstN : Bool
  thermTripN : Bool
  alertN : Bool
  smbusUp : Bool
  ifLevel : Byte
  nodeId : Half
  resetting : Option ResetKind
  lampWasLit : Bool
  warmHeld : Bool
  pastDeadline : Bool
  internalCause : Option (BitVec 3)
  fwFallback : Bool
  host : HostIf
  windows : Bank Window
  lamp : Lamp
  pantries : Bank Pantry
  trees : List Tree
  study : Study
  dumbs : Bank Dumb
  streams : Bank Stream
  nextSid : Nat
  mem : Mem
  xlate : Xlate
  corr : Corridor
  thermo : Thermo
  ctxs : Bank Context
  queues : Bank Queue
  ops : List Op
  shares : Bank Share
  mboxes : Bank Mailbox
  umboxes : Bank Mailbox
  lastMbox : Nat
  events : List Event
  evSeq : Word
  evRing : Option EventRing
  bellClock : Nat
  link : Link
  power : Power
  thresh : Thresh
  deriving DecidableEq, Repr

/-! ### Reset values -/

/-- A pane after reset: EMPTY (Table 3.8). -/
def Pane.reset : Pane := ⟨.empty, none, [], [], none, [], none, none⟩

/-- A Window after reset (Table 3.7). -/
def Window.reset : Window :=
  { state := .off, active := none, paneA := Pane.reset, paneB := Pane.reset, spare := false, redir := false, flags := 0,
    wdens := 2, hist := 15, blimit := 0x41800000, lastb := 0, wseed := 0, symcnt := 0, symLatch := 0, witcnt := 0,
    repcnt := 0, satcnt := 0, swapcnt := 0, loadcnt := 0, quarcnt := 0, pass := none, swap := none, half0 := none,
    half1 := none, convRun := 0, qualTries := 0, requal := false, gone := false }

/-- No tile flag set. -/
def TileFlags.none : TileFlags := ⟨false, false, false, false, false, false, false⟩

/-- A slot that nothing has written: no flags, step 0, E 0, no passes. -/
def SlotDesc.reset : SlotDesc := ⟨TileFlags.none, 0, 0, 0⟩

/-- A Pantry after reset (Table 4.10). -/
def Pantry.reset : Pantry := ⟨false, false, 0, 0, 0, 0, 0, 0, ⟨[]⟩, []⟩

/-- Study after reset (Table 6.7). -/
def Study.reset : Study := ⟨0, false, 0, 0, 0, 0, 0, 0, [], 0, [], []⟩

/-- A Dumbwaiter after reset (Table 7.9). -/
def Dumb.reset : Dumb := ⟨0, 0, 0, 0, 0, 0, 0, 0, 0, 0, 0, 0⟩

/-- The memory block after reset (Table 7.10), with the stacks in service given. -/
def Mem.reset (stkUp : BitVec 4) (sts : List Nat) (derate : List (BitVec 2)) : Mem :=
  { data := ⟨[]⟩, poison := [], owners := [], badPages := [], stacksIn := sts, stkUp := stkUp, derate := derate, flags := 0, deliv := 0,
    c0cap := 0, ceCnt := [0, 0, 0, 0], ueCnt := [0, 0, 0, 0], larCe := 0, larUe := 0, poisCnt := 0, elogAddr := 0,
    elogCtx := 0, elogLatch := 0, swctrl := 0x000A0803, swCel := 0, swLar := 0, swLatch := 0, swPass := 0, scrubC := [],
    scrubL := [], rowCe := [], resvs := [], resvSeq := 0, init := false }

/-- The translation block after reset (Table 7.11). -/
def Xlate.reset : Xlate := ⟨false, 0, 0, 0, [], [], 0⟩

/-- The Corridor block after reset (Table 8.6). -/
def Corridor.reset : Corridor :=
  { gActive := false, flags := 0, cspeed := 0, carb := 0x00010408, opRes := 0x10, seqPtr := [], arb := [], ptr := [], freeze := false,
    captured := [], audFail := 0, audCap := 0, aud := [] }

/-- A range-table entry after reset (Table 9.7). -/
def RangeEnt.reset : RangeEnt := ⟨false, false, false, 0, 0, 0⟩

/-- An MSI-X entry after reset (Tables 9.8, 9.9). -/
def Msix.reset : Msix := ⟨0, 0, 0, true, false⟩

/-- Configuration space after reset: the standard's values (log entry 101). -/
def PcieCfg.reset : PcieCfg :=
  { bars := [], devCtl := 0x2810, devCtl2 := 0, d3 := false, aerStatus := 0, aerSev := 0x00462030, hdrLog := [] }

/-- The host interface after a reset of the endpoint (Table 9.7). -/
def HostIf.reset : HostIf :=
  { lspeed := 0, lwidth := 0, flit := false, flags := 0, dbAcc := 0, dbRej := 0, rtmhCnt := 0, rtmissCnt := 0,
    atomCnt := 0, mbxDrop := 0, ranges := [], msix := [], msixEn := false, msixMask := false, cfgReady := false,
    cfgDone := false, reqs := [], nextTag := 0, cfg := PcieCfg.reset }

/-- A heater after reset, before its NVM values are loaded (R171). -/
def Heater.reset : Heater := ⟨0, 6, false, false, 0, 0, 0, 0, 0, 0, false, ⟨0, 0, 0, 0, 0⟩⟩

/-- A Window's heaters after reset. -/
def HeaterBank.reset : HeaterBank := ⟨Heater.reset, []⟩

/-- A generator after reset (Table 5.9). -/
def Gen.reset : Gen := ⟨0, 0, 0, 0, 0⟩

/-- A slew profile after reset (Table 5.5). -/
def SlProf.reset (p : Nat) : SlProf := if p = 6 then ⟨4, 0⟩ else if p = 7 then ⟨0, 0⟩ else ⟨16, 0⟩

/-- An AUX output after reset (Table 5.12). -/
def Aux.reset : Aux := ⟨0, 6, false, 0, 0, false, 0, 0⟩

/-- A sensor after reset (Table 5.11). -/
def Sensor.reset : Sensor := ⟨0, 0, false, false, false, false, false, 0, none, false, 0, 0, false⟩

/-- The Thermostat block after reset (Table 5.5). -/
def Thermo.reset : Thermo :=
  { conv := 0, nvmOk := false, rampDone := false, parkAll := false, flags := 0, tctrl := 0x000210FF, lkCyc := 0,
    lkUpd := 0, lkVoid := 0, lostSum := 0, scCnt := 0, slprof := [], lkResid := [], hsel := 0, radPwr := 0, sensCnt := 0,
    openCnt := 0, tick := 0, heaters := [], sg := [], ag := [], aux := [], sensors := [], loopOn := 0, cycleOn := false,
    dithered := [], sweepMax := [], cycles := [], voided := [], slprofNow := [],
    radOnes := 0, cycleAt := none, swept := 0, visited := [], sweepDue := [] }

/-- A Door after reset; STATE comes from training (R397). -/
def Door.reset (cr4 : Bool) (st : DoorState) : Door :=
  { state := st, cr4 := cr4, onAlt := false, peer := 0, flags := 0, fecCorr := 0, fecUnc := 0, crcCnt := 0,
    replayCnt := 0, txFlit := 0, rxFlit := 0, dcGiven := [], dcBack := [], txCred := [], lateRsp := 0, toutCnt := 0,
    retryTx := 0, retryRx := 0, sendQ := [], partTx := [], replay := [], nextSeq := 0, expSeq := 0,
    nakSent := false, sendNak := false, rxBuf := [], rxFlits := [], rxIx := 0, owed := [], rspFirst := false, linkDue := false,
    retrains := 0, retry := false, degraded := false }

/-- The link block after reset (Table 11.11). -/
def Link.reset : Link :=
  { flags := 0, rto := 0x64, trto := 0x64, topo := none, ovrmhCnt := 0, rpoisCnt := 0, remRd := 0, remWr := 0,
    remAtom := 0, doors := [], exports := [], reqs := [], nextTag := 0, inbox := [], atomq := [], held := [], groups := [],
    partials := [], kths := [], trComb := 0, trUnal := 0, trLate := 0, timedOut := [] }

/-- The power block after a Cold reset (Table 12.11). -/
def Power.reset : Power :=
  { thlvl := 0, byTemp := false, byPwr := false, byCool := false, byEst := false, trip := false, flags := 0, pavg := 0,
    pavgValid := false, plimit := 480, tpol := 0, tpolValid := false, rstCause := 0, railStat := 0x3FF, coolMax := 0x1680,
    thRaise := 0, bootMs := 0, stkTemp := [0, 0, 0, 0], sinceChange := 10, calm := 0, coolAbove := false, noTempFor := 0 }

/-- A mailbox after reset (Table 10.10). -/
def Mailbox.reset : Mailbox := ⟨false, false, 0, false, false, false, 0, ⟨[]⟩, []⟩

/-- A mark-free failure-record summary. -/
def FrecSum.reset : FrecSum := ⟨0, 0, [0, 0, 0, 0, 0, 0, 0, 0, 0], 0, 0, 0, 0, 0, 0, 0, 0⟩

/-- The Yilium image in both banks of the part the model starts from (log entry 2): a header of Table 13.6 with interface
level 3, SVN 0, key slot 0 and an empty body, and its signature bytes. -/
def Nvm.factoryImage : List Byte :=
  [0x31, 0x46, 0x58, 0x4B, 1, 3, 0, 0, 0, 0, 0, 0] ++ List.replicate 97 0 ++ List.replicate 147 0 ++ List.replicate 96 0

/-- Fuses of the part the model starts from: a KX1-L whose key slot 0 holds the hash of that image's key (log entry 2). -/
def Fuses.initial : Fuses :=
  { ordcode := 1, mfgrev := 0, serial := 0, keyHash := [Config.sha384 (List.replicate 97 0), 0, 0, 0], keyRev := 0, svn := 0, testHash := 0, testCnt := 0,
    jtagLock := true }

/-- NVM of the part the model starts from (log entry 2): every FLOOR 0.625 (worked example 3.1), heater values 0. -/
def Nvm.initial : Nvm :=
  { floorA := List.replicate 8 0x3F200000, floorB := List.replicate 8 0x3F200000, cellCal := [], recOk := 0xFF, pwrUp := 0, park := 0,
    heaterVals := [], auxVals := [], auxWrites := 0, bankA := Nvm.factoryImage, bankB := Nvm.factoryImage, bank := false, pend := false,
    switchDue := false, activated := false, fwFails := 0, fwAct := false, fuseTodo := none, frec := [], frecSum := FrecSum.reset,
    frecStored := FrecSum.reset, frecOvf := 0, retRows := [], retPages := [], rowUe := [], rowsOver := [], boardCfg := none,
    boardWrites := 0, topo := none, topoWrites := 0, certs := [], wipePending := false, everTest := false, stkDown := 0,
    rtdType := [0, 0], pmdCr4 := 0 }

/-- Threshold at a Cold reset (Table 13.14). -/
def Thresh.reset : Thresh :=
  { tstate := .boot, flags := 0, serialLatch := 0, jtagCnt := 0, jtagIns := .bypass, rcvGo := false, rcvLost := 0,
    rcvData := 0, rcvLen := 0, rcvWords := [], challenge := none, running := [], hearthRun := false }

/-- The Doors while a KX1-L trains (R397). -/
def Link.training : Bank Door := (List.range 16).map (fun d => (d, Door.reset false .training))

/-- The part right after a Cold reset has cleared it: PWRGOOD asserted, PERST_N deasserted, nothing of Table 12.4 after step 1
done yet, empty queue. -/
def State.reset : State :=
  { pending := [], out := [], freeIx := 0, fuses := Fuses.initial, nvm := Nvm.initial, pwrGood := true, perstN := true,
    thermTripN := true, alertN := true, smbusUp := true, ifLevel := 0, nodeId := 0, resetting := some .cold,
    lampWasLit := false, warmHeld := false, pastDeadline := false, internalCause := none, fwFallback := false, host := HostIf.reset, windows := [],
    lamp := ⟨0, 0, 0, 0, 0, false⟩, pantries := [], trees := [], study := Study.reset, dumbs := [], streams := [],
    nextSid := 0, mem := Mem.reset 0xF [0, 1, 2, 3] [0, 0, 0, 0], xlate := Xlate.reset, corr := Corridor.reset,
    thermo := Thermo.reset, ctxs := [], queues := [], ops := [], shares := [], mboxes := [], umboxes := [], lastMbox := 0,
    events := [], evSeq := 0, evRing := none, bellClock := 0, link := { Link.reset with doors := Link.training },
    power := Power.reset, thresh := Thresh.reset }

end Sys2Proof.Machine
end

