-- ==== Sys2Proof/Machine/Operands.lean ====
section
/-!
DEFINITION. Number formats, rounding and scales (chapter 2), the IEEE arithmetic of Study (chapter 6), A24 stochastic
rounding (chapter 4), the row scaler, and bytes of tiles. Values are exact: dyadic numbers m × 2^e.
-/

namespace Sys2Proof.Machine

open Sys2Proof

/-! ### Bytes -/

/-- The i-th byte of a number, little-endian. -/
def byteOf (v i : Nat) : Byte := BitVec.ofNat 8 (v >>> (8 * i))

/-- n bytes of a number, little-endian (R43, R533). -/
def toBytes : Nat → Nat → List Byte
  | 0, _ => []
  | n + 1, v => BitVec.ofNat 8 v :: toBytes n (v / 256)

/-- The number that bytes hold, little-endian. -/
def fromBytes : List Byte → Nat
  | [] => 0
  | b :: t => b.toNat + 256 * fromBytes t

/-- n bytes of a list from an offset, as a number. -/
def field (bs : List Byte) (off n : Nat) : Nat := fromBytes ((bs.drop off).take n)

/-- A two's-complement reading of the low w bits of a number. -/
def signed (w v : Nat) : Int :=
  let u := v % 2 ^ w
  if u < 2 ^ (w - 1) then (u : Int) else (u : Int) - (2 : Int) ^ w

/-- The low w bits of an integer, two's complement. -/
def unsigned (w : Nat) (v : Int) : Nat := (v % ((2 : Int) ^ w)).toNat

/-- CRC-32 of IEEE 802.3 over bytes (R81, R404, R443): reflected polynomial 0xEDB88320. -/
def crcStep : Nat → Nat → Nat
  | 0, c => c
  | n + 1, c => crcStep n (if c % 2 = 1 then (c / 2) ^^^ 0xEDB88320 else c / 2)

/-- CRC-32 with a running remainder. -/
def crcGo : List Byte → Nat → Nat
  | [], c => c
  | b :: t, c => crcGo t (crcStep 8 (c ^^^ b.toNat))

/-- CRC-32 of a byte string. -/
def crc32 (bs : List Byte) : Word := BitVec.ofNat 32 (crcGo bs 0xFFFFFFFF ^^^ 0xFFFFFFFF)

/-! ### Exact dyadic numbers -/

/-- The number m × 2^e. -/
structure Dy where
  m : Int
  e : Int
  deriving DecidableEq, Repr

/-- An integer as a dyadic number. -/
def dyInt (n : Int) : Dy := ⟨n, 0⟩

/-- Exact sum. -/
def dyAdd (a b : Dy) : Dy :=
  if a.e ≤ b.e then ⟨a.m + b.m * (2 : Int) ^ (b.e - a.e).toNat, a.e⟩
  else ⟨a.m * (2 : Int) ^ (a.e - b.e).toNat + b.m, b.e⟩

/-- Negation. -/
def dyNeg (a : Dy) : Dy := ⟨-a.m, a.e⟩

/-- Exact product. -/
def dyMul (a b : Dy) : Dy := ⟨a.m * b.m, a.e + b.e⟩

/-- Product with a power of two. -/
def dyScale (a : Dy) (k : Int) : Dy := ⟨a.m, a.e + k⟩

/-- Magnitude. -/
def dyAbs (a : Dy) : Dy := ⟨(a.m.natAbs : Int), a.e⟩

/-- a ≤ b, exactly. -/
def dyLe (a b : Dy) : Bool := decide ((dyAdd a (dyNeg b)).m ≤ 0)

/-- a < b, exactly. -/
def dyLt (a b : Dy) : Bool := decide ((dyAdd a (dyNeg b)).m < 0)

/-- The larger. -/
def dyMax (a b : Dy) : Dy := if dyLe a b then b else a

/-- Floor to a multiple of 2^g, in units of 2^g. -/
def dyFloor (a : Dy) (g : Int) : Int :=
  if g ≤ a.e then a.m * (2 : Int) ^ (a.e - g).toNat else a.m / (2 : Int) ^ (g - a.e).toNat

/-- What floor leaves, in units of 2^a.e over 2^g: zero exactly when a is a multiple of 2^g. -/
def dyRem (a : Dy) (g : Int) : Int := if g ≤ a.e then 0 else a.m % (2 : Int) ^ (g - a.e).toNat

/-- Nearest multiple of 2^g, ties to the even multiple, in units of 2^g (R52, R67, R194). -/
def dyRne (a : Dy) (g : Int) : Int :=
  let f := dyFloor a g
  let r := dyRem a g
  let h := (2 : Int) ^ ((g - a.e).toNat - 1)
  if r = 0 then f else if r < h then f else if h < r then f + 1 else if f % 2 = 0 then f else f + 1

/-! ### Binary floating formats (Table 2.4) -/

/-- A binary format: precision with the hidden bit, smallest and largest normal exponents, width. -/
structure FFmt where
  p : Nat
  emin : Int
  emax : Int
  width : Nat
  deriving DecidableEq, Repr

def f32 : FFmt := ⟨24, -126, 127, 32⟩
def f64 : FFmt := ⟨53, -1022, 1023, 64⟩
def bf16 : FFmt := ⟨8, -126, 127, 16⟩

/-- An unpacked value. -/
inductive FP where
  | nan (neg : Bool) (payload : Nat) (quiet : Bool)
  | inf (neg : Bool)
  | fin (neg : Bool) (m : Nat) (e : Int)
  deriving DecidableEq, Repr

/-- Read a pattern. -/
def unpack (f : FFmt) (b : Nat) : FP :=
  let neg := b >>> (f.width - 1) % 2 = 1
  let frac := b % 2 ^ (f.p - 1)
  let ex := (b >>> (f.p - 1)) % 2 ^ (f.width - f.p)
  if ex = 2 ^ (f.width - f.p) - 1 then
    if frac = 0 then .inf neg else .nan neg frac (decide (2 ^ (f.p - 2) ≤ frac))
  else if ex = 0 then .fin neg frac (f.emin - (f.p - 1))
  else .fin neg (2 ^ (f.p - 1) + frac) (f.emin - (f.p - 1) + (ex - 1))

/-- The sign bit in place. -/
def signBit (f : FFmt) (neg : Bool) : Nat := if neg then 2 ^ (f.width - 1) else 0

/-- The infinity pattern. -/
def infBits (f : FFmt) (neg : Bool) : Nat := signBit f neg + (2 ^ (f.width - f.p) - 1) * 2 ^ (f.p - 1)

/-- The largest finite pattern. -/
def maxBits (f : FFmt) (neg : Bool) : Nat := infBits f neg - 1

/-- The quiet NaN of R204. -/
def qnan (f : FFmt) : Nat := infBits f false + 2 ^ (f.p - 2)

/-- IEEE flags (Table 6.6): bit 0 invalid, 1 division by zero, 2 overflow, 3 underflow, 4 inexact. -/
abbrev IFlags := BitVec 5

def fInvalid : IFlags := 1
def fDivZero : IFlags := 2
def fOverflow : IFlags := 4
def fUnderflow : IFlags := 8
def fInexact : IFlags := 16

/-- Round m / 2^s to an integer; whether it was inexact. -/
def roundMag (rm : RMode) (neg : Bool) (m : Nat) (s : Int) : Nat × Bool :=
  if s ≤ 0 then (m <<< (-s).toNat, false)
  else
    let n := s.toNat
    let q := m >>> n
    let r := m % 2 ^ n
    let h := 2 ^ (n - 1)
    let up := match rm with
      | .rne => decide (h < r) || (decide (r = h) && decide (q % 2 = 1))
      | .rtz => false
      | .rup => !neg && decide (r ≠ 0)
      | .rdn => neg && decide (r ≠ 0)
    (if up then q + 1 else q, decide (r ≠ 0))

/-- What an overflow delivers in each direction (IEEE 754-2019; R201). -/
def overflowBits (f : FFmt) (rm : RMode) (neg : Bool) : Nat :=
  match rm with
  | .rne => infBits f neg
  | .rtz => maxBits f neg
  | .rup => if neg then maxBits f neg else infBits f neg
  | .rdn => if neg then infBits f neg else maxBits f neg

/-- Round an exact value ±m × 2^e into a format: pattern and flags; tininess after rounding (R201, R203). -/
def roundPack (f : FFmt) (rm : RMode) (neg : Bool) (m : Nat) (e : Int) : Nat × IFlags :=
  if m = 0 then (signBit f neg, 0)
  else
    let k : Int := (Nat.log2 m : Int) + e
    let p1 : Int := (f.p : Int) - 1
    let g := (if k < f.emin then f.emin else k) - p1
    let (q, inex) := roundMag rm neg m (g - e)
    let (qu, _) := roundMag rm neg m (k - p1 - e)
    let tiny := decide ((Nat.log2 qu : Int) + (k - p1) < f.emin)
    if q ≠ 0 ∧ f.emax < (Nat.log2 q : Int) + g then (overflowBits f rm neg, fOverflow ||| fInexact)
    else
      (signBit f neg + (g + p1 - f.emin).toNat * 2 ^ (f.p - 1) + q,
        (if inex then fInexact else 0) ||| (if inex && tiny then fUnderflow else 0))

/-- Round an exact dyadic value; the sign of an exact zero is given. -/
def roundDy (f : FFmt) (rm : RMode) (zneg : Bool) (x : Dy) : Nat × IFlags :=
  if x.m = 0 then (signBit f zneg, 0) else roundPack f rm (decide (x.m < 0)) x.m.natAbs x.e

/-- A NaN operand delivered quieted (R205). -/
def nanBits (f : FFmt) (neg : Bool) (payload : Nat) : Nat :=
  infBits f neg + (if payload < 2 ^ (f.p - 2) then payload + 2 ^ (f.p - 2) else payload)

/-- The first NaN of a list of operands, quieted, with invalid if any of them signals (R205). -/
def nanOf (f : FFmt) (xs : List FP) : Option (Nat × IFlags) :=
  let sig := xs.any (fun x => match x with | .nan _ _ false => true | _ => false)
  match xs.find? (fun x => match x with | .nan _ _ _ => true | _ => false) with
  | some (.nan n p _) => some (nanBits f n p, if sig then fInvalid else 0)
  | _ => none

/-- Sign of an exact zero sum of operands of signs a and b (IEEE 754-2019, 6.3). -/
def zeroSign (rm : RMode) (a b : Bool) : Bool := if a = b then a else decide (rm = .rdn)

/-- Signed mantissa. -/
def smant (neg : Bool) (m : Nat) : Int := if neg then -(m : Int) else m

/-- Addition (Table 6.2). -/
def fAdd (f : FFmt) (rm : RMode) (a b : Nat) : Nat × IFlags :=
  match unpack f a, unpack f b with
  | .fin na ma ea, .fin nb mb eb =>
    let x := dyAdd ⟨smant na ma, ea⟩ ⟨smant nb mb, eb⟩
    roundDy f rm (if ma = 0 ∧ mb = 0 then zeroSign rm na nb else decide (rm = .rdn)) x
  | .inf na, .inf nb => if na = nb then (infBits f na, 0) else (qnan f, fInvalid)
  | .inf na, .fin _ _ _ => (infBits f na, 0)
  | .fin _ _ _, .inf nb => (infBits f nb, 0)
  | x, y => (nanOf f [x, y]).getD (qnan f, 0)

/-- Negation (exact, quiet). -/
def fNeg (f : FFmt) (a : Nat) : Nat := a ^^^ 2 ^ (f.width - 1)

/-- Magnitude (exact, quiet). -/
def fAbs (f : FFmt) (a : Nat) : Nat := a % 2 ^ (f.width - 1)

/-- a with the sign of b (exact, quiet). -/
def fCopySign (f : FFmt) (a b : Nat) : Nat := fAbs f a + (b - fAbs f b)

/-- Whether a pattern is a NaN. -/
def isNan (f : FFmt) (a : Nat) : Bool := match unpack f a with | .nan _ _ _ => true | _ => false

/-- Whether a pattern is finite. -/
def isFin (f : FFmt) (a : Nat) : Bool := match unpack f a with | .fin _ _ _ => true | _ => false

/-- Subtraction: a NaN second operand keeps its sign (R205). -/
def fSub (f : FFmt) (rm : RMode) (a b : Nat) : Nat × IFlags := if isNan f b then fAdd f rm a b else fAdd f rm a (fNeg f b)

/-- Multiplication (Table 6.2). -/
def fMul (f : FFmt) (rm : RMode) (a b : Nat) : Nat × IFlags :=
  match unpack f a, unpack f b with
  | .fin na ma ea, .fin nb mb eb => roundPack f rm (na ^^ nb) (ma * mb) (ea + eb)
  | .inf na, .inf nb => (infBits f (na ^^ nb), 0)
  | .inf na, .fin nb mb _ => if mb = 0 then (qnan f, fInvalid) else (infBits f (na ^^ nb), 0)
  | .fin na ma _, .inf nb => if ma = 0 then (qnan f, fInvalid) else (infBits f (na ^^ nb), 0)
  | x, y => (nanOf f [x, y]).getD (qnan f, 0)

/-- Fused multiply–add a × b + c (Table 6.2, R205). -/
def fFma (f : FFmt) (rm : RMode) (a b c : Nat) : Nat × IFlags :=
  let zi := match unpack f a, unpack f b with
    | .inf _, .fin _ m _ => decide (m = 0)
    | .fin _ m _, .inf _ => decide (m = 0)
    | _, _ => false
  match nanOf f [unpack f a, unpack f b, unpack f c] with
  | some (r, fl) => (r, if zi then fl ||| fInvalid else fl)
  | none =>
    if zi then (qnan f, fInvalid)
    else match unpack f a, unpack f b, unpack f c with
      | .fin na ma ea, .fin nb mb eb, .fin nc mc ec =>
        let x := dyAdd ⟨smant (na ^^ nb) (ma * mb), ea + eb⟩ ⟨smant nc mc, ec⟩
        roundDy f rm (if ma * mb = 0 ∧ mc = 0 then zeroSign rm (na ^^ nb) nc else decide (rm = .rdn)) x
      | .fin _ _ _, .fin _ _ _, .inf nc => (infBits f nc, 0)
      | x, y, z =>
        let sg : FP → Bool := fun v => match v with | .nan n _ _ => n | .inf n => n | .fin n _ _ => n
        let np := sg x ^^ sg y
        match z with
        | .inf nc => if np = nc then (infBits f np, 0) else (qnan f, fInvalid)
        | _ => (infBits f np, 0)

/-- Division (Table 6.2): quotient to p + 3 bits with a sticky last bit, then rounded. -/
def fDiv (f : FFmt) (rm : RMode) (a b : Nat) : Nat × IFlags :=
  match unpack f a, unpack f b with
  | .fin na ma ea, .fin nb mb eb =>
    if mb = 0 then (if ma = 0 then (qnan f, fInvalid) else (infBits f (na ^^ nb), fDivZero))
    else if ma = 0 then (signBit f (na ^^ nb), 0)
    else
      let s := f.p + 3 + Nat.log2 mb
      let n := ma <<< s
      let q := 2 * (n / mb) + (if n % mb = 0 then 0 else 1)
      roundPack f rm (na ^^ nb) q (ea - eb - s - 1)
  | .inf _, .inf _ => (qnan f, fInvalid)
  | .inf na, .fin nb _ _ => (infBits f (na ^^ nb), 0)
  | .fin na _ _, .inf nb => (signBit f (na ^^ nb), 0)
  | x, y => (nanOf f [x, y]).getD (qnan f, 0)

/-- Integer square root by bits from the top. -/
def isqrtGo : Nat → Nat → Nat → Nat
  | 0, _, r => r
  | n + 1, v, r => let t := r + 2 ^ n; isqrtGo n v (if t * t ≤ v then t else r)

/-- Integer square root. -/
def isqrt (v : Nat) : Nat := isqrtGo (Nat.log2 v / 2 + 1) v 0

/-- Square root (Table 6.2). -/
def fSqrt (f : FFmt) (rm : RMode) (a : Nat) : Nat × IFlags :=
  match unpack f a with
  | .fin neg m e =>
    if m = 0 then (a, 0)
    else if neg then (qnan f, fInvalid)
    else
      let k := 2 * (f.p + 3)
      let odd := decide (e % 2 ≠ 0)
      let v := (if odd then 2 * m else m) <<< k
      let e2 := if odd then e - 1 else e
      let r := isqrt v
      roundPack f rm false (2 * r + (if r * r = v then 0 else 1)) (e2 / 2 - (f.p + 3) - 1)
  | .inf neg => if neg then (qnan f, fInvalid) else (a, 0)
  | x => (nanOf f [x]).getD (qnan f, 0)

/-- The exact value of a finite pattern. -/
def dyOf (f : FFmt) (b : Nat) : Dy :=
  match unpack f b with
  | .fin n m e => ⟨smant n m, e⟩
  | _ => ⟨0, 0⟩

/-- Quiet comparison: −1, 0, 1, or 2 when unordered; invalid only for a signalling NaN. -/
def fCompare (f : FFmt) (a b : Nat) : Int × IFlags :=
  match nanOf f [unpack f a, unpack f b] with
  | some (_, fl) => (2, fl)
  | none =>
    let sg : FP → Int := fun v => match v with | .inf true => -1 | .inf false => 1 | _ => 0
    let ia := sg (unpack f a)
    let ib := sg (unpack f b)
    if ia ≠ 0 ∨ ib ≠ 0 then ((if ia < ib then -1 else if ib < ia then 1 else 0), 0)
    else if dyLt (dyOf f a) (dyOf f b) then (-1, 0) else if dyLt (dyOf f b) (dyOf f a) then (1, 0) else (0, 0)

/-- minimumNumber and maximumNumber of IEEE 754-2019, −0 below +0 (Table 6.2); with a NaN operand R205 gives the result, as for
every operation (log entry 10). -/
def fMinMax (f : FFmt) (max : Bool) (a b : Nat) : Nat × IFlags :=
  match nanOf f [unpack f a, unpack f b] with
  | some v => v
  | none =>
    let c := (fCompare f a b).1
    let aLess := decide (c < 0) || (decide (c = 0) && decide (b < a))
    (if aLess = max then b else a, 0)

/-- Conversion between F64 and F32 (Table 6.2); a NaN keeps its sign and leading payload (R205; log entry 10). -/
def fConvert (src dst : FFmt) (rm : RMode) (a : Nat) : Nat × IFlags :=
  match unpack src a with
  | .fin n m e => roundPack dst rm n m e
  | .inf n => (infBits dst n, 0)
  | .nan n p q =>
    let p' := if src.p < dst.p then p <<< (dst.p - src.p) else p >>> (src.p - dst.p)
    (nanBits dst n p', if q then 0 else fInvalid)

/-- Conversion to an integer of w bits, with the values of R551. -/
def fToInt (f : FFmt) (rm : RMode) (signedTgt : Bool) (w : Nat) (a : Nat) : Nat × IFlags :=
  let hi : Int := if signedTgt then (2 : Int) ^ (w - 1) - 1 else (2 : Int) ^ w - 1
  let lo : Int := if signedTgt then -(2 : Int) ^ (w - 1) else 0
  match unpack f a with
  | .nan _ _ _ => (0, fInvalid)
  | .inf n => (unsigned w (if n then lo else hi), fInvalid)
  | .fin n m e =>
    let (q, inex) := roundMag rm n m (-e)
    let v := smant n q
    if hi < v then (unsigned w hi, fInvalid)
    else if v < lo then (unsigned w lo, fInvalid)
    else (unsigned w v, if inex then fInexact else 0)

/-- Conversion from an integer of w bits. -/
def fFromInt (f : FFmt) (rm : RMode) (signedSrc : Bool) (w : Nat) (a : Nat) : Nat × IFlags :=
  let v : Int := if signedSrc then signed w a else ((a % 2 ^ w : Nat) : Int)
  roundDy f rm false (dyInt v)

/-! ### The Study canonical reduction (chapter 6) -/

/-- Combine neighbours; a last one without a partner passes through (the canonical tree rule of chapter 4). -/
def pairUp {α : Type} (g : α → α → α) : List α → List α
  | a :: b :: t => g a b :: pairUp g t
  | l => l

/-- A tree over leaves, level by level; `n` bounds the levels. -/
def treeFold {α : Type} (g : α → α → α) : Nat → List α → Option α
  | _, [] => none
  | _, [a] => some a
  | 0, a :: _ => some a
  | n + 1, l => treeFold g n (pairUp g l)

/-- Values with accumulated flags. -/
def addF (f : FFmt) (rm : RMode) (a b : Nat × IFlags) : Nat × IFlags :=
  let r := fAdd f rm a.1 b.1
  (r.1, r.2 ||| a.2 ||| b.2)

/-- One lane of a chunk: elements ℓ, ℓ + 64, … accumulated from +0 (stage 1). -/
def laneAcc (acc : Nat × IFlags → Nat × Nat → Nat × IFlags) (xs : List (Nat × Nat)) (l : Nat) : Nat × IFlags :=
  ((xs.zipIdx).filter (fun e => e.2 % 64 = l)).foldl (fun a e => acc a e.1) (0, 0)

/-- One chunk: 64 lanes, then six levels (stages 1 and 2). -/
def chunkSum (f : FFmt) (rm : RMode) (acc : Nat × IFlags → Nat × Nat → Nat × IFlags) (xs : List (Nat × Nat)) : Nat × IFlags :=
  (treeFold (addF f rm) 6 ((List.range 64).map (laneAcc acc xs))).getD (0, 0)

/-- The elements in chunks of 4,096. -/
def chunks {α : Type} (n : Nat) : Nat → List α → List (List α)
  | _, [] => []
  | 0, _ => []
  | k + 1, l => l.take n :: chunks n k (l.drop n)

/-- The reduction over pairs; +0 for no elements (R208). -/
def canonReduce (f : FFmt) (rm : RMode) (acc : Nat × IFlags → Nat × Nat → Nat × IFlags) (xs : List (Nat × Nat)) : Nat × IFlags :=
  (treeFold (addF f rm) 64 ((chunks 4096 (xs.length / 4096 + 1) xs).map (chunkSum f rm acc))).getD (0, 0)

/-- The library sum. -/
def canonSum (f : FFmt) (rm : RMode) (xs : List Nat) : Nat × IFlags :=
  canonReduce f rm (fun a e => addF f rm a (e.1, 0)) (xs.map (fun x => (x, 0)))

/-- The library dot product: one fused multiply–add per element. -/
def canonDot (f : FFmt) (rm : RMode) (xs : List (Nat × Nat)) : Nat × IFlags :=
  canonReduce f rm (fun a e => let r := fFma f rm e.1 e.2 a.1; (r.1, r.2 ||| a.2)) xs

/-! ### The Window path (R47 to R60) -/

/-- An F32 value read on the Window path: finite, with whether it counts as reserved (R47). -/
def readF32 (b : Word) : Word × Bool :=
  match unpack f32 b.toNat with
  | .inf n => (BitVec.ofNat 32 (maxBits f32 n), true)
  | .nan _ _ _ => (0, true)
  | .fin _ _ _ => (b, false)

/-- A BF16 value read on the Window path, as F32 (R47). -/
def readBf16 (b : Nat) : Word × Bool :=
  match unpack bf16 b with
  | .inf n => (BitVec.ofNat 32 (maxBits bf16 n * 65536), true)
  | .nan _ _ _ => (0, true)
  | .fin _ _ _ => (BitVec.ofNat 32 (b % 65536 * 65536), false)

/-- An E8 value: its exponent, and whether it was reserved (R49). -/
def readE8 (b : Nat) : Int × Bool := if b % 256 = 0xFF then (0, true) else ((b % 256 : Nat) - 127, false)

/-- The F32 pattern of 2^e for e from −127 to 127. -/
def pow2F32 (e : Int) : Word := BitVec.ofNat 32 (roundPack f32 .rne false 1 e).1

/-- An F32 result on the Window path: an infinity becomes the largest finite value and sets SAT (R50, R560); so does a NaN, which
no operation on finite values gives (R560: E, ESRC and ERRB never hold one). -/
def limF32 (r : Nat × IFlags) : Word × Bool :=
  match unpack f32 r.1 with
  | .inf n => (BitVec.ofNat 32 (maxBits f32 n), true)
  | .nan _ _ _ => (BitVec.ofNat 32 (maxBits f32 false), true)
  | .fin _ _ _ => (BitVec.ofNat 32 r.1, false)

/-- Window-path product (R50). -/
def wMul (a b : Word) : Word × Bool := limF32 (fMul f32 .rne a.toNat b.toNat)
/-- Window-path sum (R50). -/
def wAdd (a b : Word) : Word × Bool := limF32 (fAdd f32 .rne a.toNat b.toNat)
/-- Window-path difference (R50). -/
def wSub (a b : Word) : Word × Bool := limF32 (fSub f32 .rne a.toNat b.toNat)
/-- An integer rounded to F32 (R51, R76). -/
def wInt (n : Int) : Word := BitVec.ofNat 32 (roundDy f32 .rne false (dyInt n)).1

/-- F32 operations rounded toward +∞ for bounds (R96, R138), limited by R560: value, whether it was limited. -/
def upMul (a b : Word) : Word × Bool := limF32 (fMul f32 .rup a.toNat b.toNat)
def upAdd (a b : Word) : Word × Bool := limF32 (fAdd f32 .rup a.toNat b.toNat)
def upDiv (a b : Word) : Word × Bool := limF32 (fDiv f32 .rup a.toNat b.toNat)
/-- An exact value rounded toward +∞ to F32. -/
def upDy (x : Dy) : Word := (limF32 (roundDy f32 .rup false x)).1
/-- a ≤ b for finite F32 patterns. -/
def leF32 (a b : Word) : Bool := dyLe (dyOf f32 a.toNat) (dyOf f32 b.toNat)
/-- The larger of two finite F32 patterns. -/
def maxF32 (a b : Word) : Word := if leF32 a b then b else a
/-- Magnitude of an F32 pattern. -/
def absF32 (a : Word) : Word := a &&& 0x7FFFFFFF

/-- Whether a pattern is a positive finite F32 value (R118, R173). -/
def posFinF32 (b : Word) : Bool :=
  match unpack f32 b.toNat with
  | .fin false m _ => decide (m ≠ 0)
  | _ => false

/-! ### Q codes (R44 to R46, R52 to R54) -/

/-- qmax of a Q format code (Table 2.2). -/
def qmax (fmt : Nat) : Nat := if fmt = 0 then 7 else if fmt = 1 then 31 else 127

/-- Element width of a Q format (Table 2.1, used bits). -/
def qbits (fmt : Nat) : Nat := if fmt = 0 then 4 else if fmt = 1 then 6 else 8

/-- Read a Q element: value, and whether it was the reserved pattern (R45, R46). -/
def readQ (fmt v : Nat) : Int × Bool :=
  let x := signed (qbits fmt) v
  if x = -(2 : Int) ^ (qbits fmt - 1) then (0, true) else (x, false)

/-- The stored element of a code (R45). -/
def storeQ (fmt : Nat) (c : Int) : Nat := if fmt = 0 then unsigned 4 c else unsigned 8 c

/-- Limit a rounded integer to the code range; whether it saturated (R53). -/
def limQ (fmt : Nat) (n : Int) : Int × Bool :=
  let q : Int := qmax fmt
  if q < n then (q, true) else if n < -q then (-q, true) else (n, false)

/-- Convert t, a finite F32 value, to a Q code (R52, R53). -/
def toQ (fmt : Nat) (t : Word) : Int × Bool := limQ fmt (dyRne (dyOf f32 t.toNat) 0)

/-- Convert to BF16 (R55, R56). -/
def toBf16 (v : Word) : Nat × Bool :=
  match unpack f32 v.toNat with
  | .fin n m e =>
    let r := (roundPack bf16 .rne n m e).1
    if r = infBits bf16 n then (maxBits bf16 n, true) else (r, false)
  | _ => (0, false)

/-- Pack Q4 elements two to a byte (chapter 2). -/
def packQ4 : List Nat → List Byte
  | a :: b :: t => BitVec.ofNat 8 (a % 16 + 16 * (b % 16)) :: packQ4 t
  | [a] => [BitVec.ofNat 8 (a % 16)]
  | [] => []

/-- Bytes of a row of 128 elements (chapter 10, input tiles). -/
def rowBytes (fmt : Nat) : Nat := if fmt = 0 then 64 else if fmt = 3 then 256 else 128

/-- The raw elements of a row's bytes. -/
def rawRow (fmt : Nat) (bs : List Byte) : List Nat :=
  if fmt = 0 then bs.flatMap (fun b => [b.toNat % 16, b.toNat / 16])
  else if fmt = 3 then (List.range 128).map (fun k => field bs (2 * k) 2)
  else bs.map (·.toNat)

/-! ### Row scaler (R67) -/

/-- Smallest e' from e upwards, within n steps, with m ≤ q × 2^e'. -/
def scaleExp (m : Dy) (q : Nat) : Nat → Int → Int
  | 0, e => e
  | n + 1, e => if dyLe m ⟨q, e⟩ then e else scaleExp m q n (e + 1)

/-- The row exponent before its lower limit: smallest integer e with m ≤ qmax × 2^e, for m > 0. -/
def rowExpRaw (m : Dy) (q : Nat) : Int :=
  scaleExp m q 12 ((Nat.log2 m.m.natAbs : Int) + m.e - (Nat.log2 q : Int) - 2)

/-- The row scaler over exact values: exponent (E = e + 127) and codes. -/
def rowScale (q : Nat) (emin : Int) (xs : List Dy) : Int × List Int :=
  let m := xs.foldl (fun a x => dyMax a (dyAbs x)) ⟨0, 0⟩
  if m.m = 0 then (0, xs.map (fun _ => 0))
  else
    let e0 := rowExpRaw m q
    let e := if e0 < emin then emin else e0
    (e, xs.map (fun x => dyRne (dyScale x (-e)) 0))

/-! ### A24 and stochastic rounding (R48, R57 to R59, R127) -/

/-- An A24 pattern read: exact value, and whether it was reserved (R48). -/
def readA24 (b : Nat) : Dy × Bool :=
  let neg := b >>> 23 % 2 = 1
  let ex := (b >>> 15) % 256
  let frac := b % 32768
  if ex = 0 then (⟨0, 0⟩, false)
  else if ex = 255 then (⟨smant neg 65535, 112⟩, true)
  else (⟨smant neg (32768 + frac), (ex : Int) - 142⟩, false)

/-- Write a value that is exactly representable (n × 2^g with |n| < 2^16 normal). -/
def writeA24 (n : Int) (g : Int) : Nat :=
  if n = 0 then 0
  else
    let k := (Nat.log2 n.natAbs : Int) + g
    let frac := n.natAbs * 2 ^ 15 / 2 ^ Nat.log2 n.natAbs
    (if n < 0 then 2 ^ 23 else 0) + (k + 127).toNat * 2 ^ 15 + frac % 2 ^ 15

/-- The pattern of the largest finite A24 value with a sign. -/
def a24Max (neg : Bool) : Nat := (if neg then 2 ^ 23 else 0) + 0x7F7FFF

/-- Result of writing an A24 sum: pattern, spacing exponent if a rounding decision was inexact, SAT. -/
structure A24Res where
  bits : Nat
  ulp : Option Int
  sat : Bool
  deriving DecidableEq, Repr

/-- Write the exact sum v with 16 random bits r (R57 to R59). For a sum of magnitude 2^128 or more, outside the range of k in R57,
the spec does not say whether its saturation is a rounding decision: DESIGN CHOICE (log entry 86), one with the spacing 2^(k−15)
when the sum is no multiple of that spacing, none when it is. -/
def roundA24 (v : Dy) (r : Nat) : A24Res :=
  if v.m = 0 then ⟨0, none, false⟩
  else
    let k := (Nat.log2 v.m.natAbs : Int) + v.e
    if k < -126 then ⟨0, none, false⟩
    else
      let g := k - 15
      let a := dyFloor v g
      let rem := dyRem v g
      if rem = 0 then (if 127 < k then ⟨a24Max (decide (v.m < 0)), none, true⟩ else ⟨writeA24 a g, none, false⟩)
      else
        let thr := rem * 65536 / (2 : Int) ^ (g - v.e).toNat
        let n := if (r : Int) < thr then a + 1 else a
        if 127 < (Nat.log2 n.natAbs : Int) + g then ⟨a24Max (decide (v.m < 0)), some g, true⟩
        else ⟨writeA24 n g, some g, false⟩

/-- mix of the Sketch in chapter 4. -/
def mix (z : Long) : Long :=
  let z := (z ^^^ (z >>> 31)) * 0xB3C529A76D1E4F83
  let z := (z ^^^ (z >>> 29)) * 0x8F1D6A4BC257E3A9
  z ^^^ (z >>> 32)

/-- The 16 random bits of an element at a node (R127). -/
def srbits (cseed : Long) (otrow otcol node lrank e : Nat) : Nat :=
  let c : Long := BitVec.ofNat 64 (otrow % 65536 * 2 ^ 48 + otcol % 65536 * 2 ^ 32 + node % 2 ^ 32)
  let k := mix (cseed ^^^ mix c ^^^ BitVec.ofNat 64 (lrank * 2 ^ 32))
  ((mix (k + BitVec.ofNat 64 e * 0x8F1D6A4BC257E3A9)) >>> 48).toNat

/-- Signs of a witness: true is negative; 128 of them (the pilot Sketch of chapter 3, R94). -/
def pilotSigns (wseed c : Word) : List Bool :=
  let z := mix ((wseed.setWidth 64 <<< 32) ^^^ c.setWidth 64)
  let w0 := mix z
  let w1 := mix (z + 0x8F1D6A4BC257E3A9)
  (List.range 128).map (fun k => if k < 64 then w0.getLsbD k else w1.getLsbD (k - 64))

/-! ### Activations (R134): exact functions enclosed in fixed point with 1,100 fraction bits -/

def actW : Nat := 1100

/-- √(2/π) × 2^1100, rounded down (a mathematical constant). -/
def sqrt2OverPi : Nat := 0xcc42299ea1b284687e59e2805d5c717fa7053e60a24e0db1808e369004c73a5d3bf158aa88fa7b6e47eba75766e9d11bd6284ef2e17c2a264f1d32688be119ff30505c3fb28f9c969d9b7adccb84672b9596a89bcd3dd46584ed26f6378aced23839d891058ef559dfc3ece10653567f91a556486bdc8b922a1884d7769290fc901b1251cc46245a46d

/-- Taylor sum of e^(−z) for 0 ≤ z < 1/2, alternating, in fixed point. -/
def expTaylor (z : Nat) : Nat → Nat → Int → Nat → Int → Int
  | 0, _, _, _, acc => acc
  | n + 1, i, term, _, acc =>
    let t := -(term * z) / ((i : Int) * (2 : Int) ^ actW)
    expTaylor z n (i + 1) t 0 (acc + t)

/-- Square n times in fixed point. -/
def sqTimes : Nat → Nat → Nat
  | 0, v => v
  | n + 1, v => sqTimes n ((v * v) >>> actW)

/-- e^(−y) for y ≥ 0 in fixed point: error far below 2^−1000 for y < 2^10. -/
def expNeg (y : Nat) : Nat :=
  let z := y >>> 26
  sqTimes 26 (expTaylor z 70 1 ((2 : Int) ^ actW) 0 ((2 : Int) ^ actW)).toNat

/-- Nearest F32 of x × num / den where num and den carry an error of at most 2^−1000: the value if both ends of the
enclosure round to one value, otherwise a library constant (never met). -/
def encloseF32 (act : Nat) (x : Word) (xm : Dy) (num den : Nat) : Word :=
  let q := (num <<< actW) / den
  let d := 2 ^ 140
  let lo := roundDy f32 .rne (decide (xm.m < 0)) (dyMul xm ⟨(q - d : Nat), -actW⟩)
  let hi := roundDy f32 .rne (decide (xm.m < 0)) (dyMul xm ⟨(q + d : Nat), -actW⟩)
  if lo.1 = hi.1 then BitVec.ofNat 32 lo.1 else Config.activationTie act x

/-- A non-negative dyadic as fixed point, rounded down. -/
def toFix (x : Dy) : Nat := (dyFloor x (-actW)).toNat

/-- tanh (ACT 4). -/
def actTanh (x : Word) : Word :=
  let v := dyOf f32 x.toNat
  let a := dyAbs v
  if v.m = 0 then x
  else if dyLe (dyInt 16) a then (if v.m < 0 then 0xBF800000 else 0x3F800000)
  else
    let t := expNeg (toFix (dyScale a 1))
    let one := 2 ^ actW
    encloseF32 4 x ⟨if v.m < 0 then -1 else 1, 0⟩ (one - t) (one + t)

/-- SiLU (ACT 3): x / (1 + e^(−x)). -/
def actSilu (x : Word) : Word :=
  let v := dyOf f32 x.toNat
  let a := dyAbs v
  let one := 2 ^ actW
  if v.m = 0 then x
  else if 0 < v.m then (if dyLe (dyInt 32) a then x else encloseF32 3 x v one (one + expNeg (toFix a)))
  else if dyLe (dyInt 128) a then 0x80000000
  else let t := expNeg (toFix a); encloseF32 3 x v t (one + t)

/-- GELU, tanh form (ACT 2): x / (1 + e^(−2u)) with u = √(2/π)(x + 0.044715 x³). -/
def actGelu (x : Word) : Word :=
  let v := dyOf f32 x.toNat
  let a := dyAbs v
  let one := 2 ^ actW
  if v.m = 0 then x
  else if dyLe (dyInt 16) a then (if 0 < v.m then x else 0x80000000)
  else
    let cube := dyMul a (dyMul a a)
    let s := toFix a + toFix (dyMul (dyInt 44715) cube) / 1000000
    let t := expNeg ((2 * s * sqrt2OverPi) >>> actW)
    if 0 < v.m then encloseF32 2 x v one (one + t) else encloseF32 2 x v t (one + t)

/-- The activation of step 5 (Table 4.4, R134, R135). -/
def activate (act : Nat) (x : Word) : Word :=
  match act with
  | 1 => if (dyOf f32 x.toNat).m > 0 then x else 0
  | 2 => actGelu x
  | 3 => actSilu x
  | 4 => actTanh x
  | _ => x

/-- λ of Table 4.4 as ERRB uses it. -/
def lambdaOf (act : Nat) : Word := if act = 2 then 0x3F90A3D8 else if act = 3 then 0x3F8CCCCD else 0x3F800000

end Sys2Proof.Machine
end

