-- ==== Sys2Proof/Machine/Ops.lean ====
section
/-!
DEFINITION. The named operations that the commands share: memory bytes and granules with ECC and poison (chapter 7),
translation, events, interrupts and AER reports (chapters 9 and 10), the failure record (chapter 13), the audit counters
and reservations (chapter 8), parking (chapter 5), and the ending of work and the loss of contexts (chapters 10 and 12).
-/

namespace Sys2Proof.Machine

open Sys2Proof

/-! ### Updates of one unit -/

/-- Window w. -/
def win (s : State) (w : Nat) : Window := bankGet s.windows Window.reset w
/-- Change Window w. -/
def modWin (s : State) (w : Nat) (f : Window → Window) : State :=
  { s with windows := bankMod s.windows Window.reset w f }
/-- Pantry p. -/
def pantry (s : State) (p : Nat) : Pantry := bankGet s.pantries Pantry.reset p
/-- Change Pantry p. -/
def modPantry (s : State) (p : Nat) (f : Pantry → Pantry) : State :=
  { s with pantries := bankMod s.pantries Pantry.reset p f }
/-- Dumbwaiter d. -/
def dumb (s : State) (d : Nat) : Dumb := bankGet s.dumbs Dumb.reset d
/-- Change Dumbwaiter d. -/
def modDumb (s : State) (d : Nat) (f : Dumb → Dumb) : State := { s with dumbs := bankMod s.dumbs Dumb.reset d f }
/-- Context n, if it exists. -/
def ctxOf (s : State) (n : Nat) : Option Context := bankFind s.ctxs n
/-- Change context n, if it exists. -/
def modCtx (s : State) (n : Nat) (f : Context → Context) : State :=
  match bankFind s.ctxs n with
  | some c => { s with ctxs := bankPut s.ctxs n (f c) }
  | none => s
/-- Queue q, if it exists. -/
def queueOf (s : State) (q : Nat) : Option Queue := bankFind s.queues q
/-- Change queue q, if it exists. -/
def modQueue (s : State) (q : Nat) (f : Queue → Queue) : State :=
  match bankFind s.queues q with
  | some x => { s with queues := bankPut s.queues q (f x) }
  | none => s
/-- The name of a command in flight. -/
def Op.id (o : Op) : OpId := (o.q, o.idx)
/-- The command in flight of that name, if any. -/
def findOp (s : State) (id : OpId) : Option Op := s.ops.find? (fun o => o.id = id)
/-- Change the command in flight of that name. -/
def modOp (s : State) (id : OpId) (f : Op → Op) : State :=
  { s with ops := s.ops.map (fun o => if o.id = id then f o else o) }
/-- A stream by number. -/
def findStream (s : State) (sid : Nat) : Option Stream := bankFind s.streams sid
/-- Change a stream. -/
def modStream (s : State) (sid : Nat) (f : Stream → Stream) : State :=
  match bankFind s.streams sid with
  | some x => { s with streams := bankPut s.streams sid (f x) }
  | none => s
/-- Log what the part sends. -/
def emit (s : State) (o : Out) : State := { s with out := s.out ++ [o] }
/-- READY has been raised since the last reset: IFLEVEL is not 0 (R11, R461). -/
def isReady (s : State) : Bool := decide (s.ifLevel ≠ 0)
/-- The ordering code is KX1-S (Table 0.1). -/
def isS (s : State) : Bool := decide (s.fuses.ordcode = 2)
/-- Boundary scan is selected: every block but Threshold and the NVM is held in reset (R525). -/
def boundary (s : State) : Bool := decide (s.thresh.jtagIns = .samplePreload ∨ s.thresh.jtagIns = .extest)
/-- The blocks of the part are out of reset: PWRGOOD is asserted (R457), and boundary scan is not selected (R525). -/
def powered (s : State) : Bool := s.pwrGood && !(boundary s)
/-- A free value (R119, R356, R562), advancing State.freeIx (log entry 5). -/
def freshNat (s : State) : Nat × State := (Config.freeNat s.freeIx, { s with freeIx := s.freeIx + 1 })

/-! ### Bytes of a memory -/

/-- Byte at an address of a list of cells. -/
def cellsGet : List Host.Cell → Nat → Byte
  | [], _ => 0
  | (k, v) :: t, a => if k = a then v else if a < k then 0 else cellsGet t a

/-- Write a byte, keeping the canonical form: a zero removes the cell. -/
def cellsPut : List Host.Cell → Nat → Byte → List Host.Cell
  | [], a, b => if b = 0 then [] else [(a, b)]
  | (k, v) :: t, a, b =>
    if a < k then (if b = 0 then (k, v) :: t else (a, b) :: (k, v) :: t)
    else if a = k then (if b = 0 then t else (a, b) :: t)
    else (k, v) :: cellsPut t a b

/-- Read a byte. -/
def Memory.get (m : Memory) (a : Nat) : Byte := cellsGet m.cells a
/-- Write a byte. -/
def Memory.put (m : Memory) (a : Nat) (b : Byte) : Memory := ⟨cellsPut m.cells a b⟩
/-- Read n bytes from an address. -/
def Memory.read (m : Memory) (a n : Nat) : List Byte := (List.range n).map (fun i => m.get (a + i))
/-- Write bytes from an address. -/
def Memory.write : Memory → Nat → List Byte → Memory
  | m, _, [] => m
  | m, a, b :: t => Memory.write (m.put a b) (a + 1) t
/-- Read n bytes as a number, little-endian. -/
def Memory.nat (m : Memory) (a n : Nat) : Nat := fromBytes (m.read a n)
/-- Clear n bytes from an address. -/
def Memory.clear (m : Memory) (a n : Nat) : Memory := ⟨m.cells.filter (fun c => decide (c.1 < a) || decide (a + n ≤ c.1))⟩

/-! ### The physical map (Table 7.1, R231, R232) -/

/-- End of the Larder that contexts may use. -/
def larderUserEnd : Nat := 0xF800000
/-- End of the Larder. -/
def larderEnd : Nat := 0x10000000
/-- Start of the Cellar. -/
def cellarBase : Nat := 0x1000000000
/-- Size of a stack. -/
def stackSize : Nat := 0x600000000
/-- End of the Cellar with the stacks in service at the last clearing reset (R231). -/
def cellarEnd (s : State) : Nat := cellarBase + s.mem.stacksIn.length * stackSize
/-- Whether an address lies in the Larder. -/
def inLarder (pa : Nat) : Bool := decide (pa < larderEnd)
/-- Whether an address lies in the Cellar. -/
def inCellar (s : State) (pa : Nat) : Bool := decide (cellarBase ≤ pa) && decide (pa < cellarEnd s)
/-- Whether an address is not reserved (R231). -/
def paValid (s : State) (pa : Nat) : Bool := inLarder pa || inCellar s pa
/-- Whether an address is neither reserved nor in Yilium's 8 MiB (R322). -/
def paUser (s : State) (pa : Nat) : Bool := decide (pa < larderUserEnd) || inCellar s pa
/-- The stack that holds a Cellar address (R232). -/
def stackOf (s : State) (pa : Nat) : Nat :=
  s.mem.stacksIn.getD (((pa - cellarBase) >>> 12) % s.mem.stacksIn.length) 0
/-- Whether an address lies on a Cellar stack that has gone out of service (R265, R553). -/
def stackOut (s : State) (pa : Nat) : Bool := inCellar s pa && !(s.mem.stkUp.getLsbD (stackOf s pa))
/-- The row of 1 KiB that holds an address (R262): a Larder row by its address (R264), a Cellar row by its stack and its place
in the stack, so that it stays the same row of DRAM when S changes (R232). -/
def rowOf (s : State) (pa : Nat) : Nat :=
  if pa < cellarBase then pa >>> 10
  else (stackOf s pa + 1) * 2 ^ 32 + ((pa - cellarBase) >>> 12) / s.mem.stacksIn.length * 4 + (pa >>> 10) % 4

/-! ### Events, interrupts and reports -/

/-- An MSI-X table entry. -/
def msixEnt (s : State) (v : Nat) : Msix := bankGet s.host.msix Msix.reset v
/-- Change an MSI-X table entry. -/
def modMsix (s : State) (v : Nat) (f : Msix → Msix) : State :=
  { s with host := { s.host with msix := bankMod s.host.msix Msix.reset v f } }

/-- An interrupt condition on a vector: a message, or its pending bit while masked or disabled (R341, R342). -/
def raiseVec (s : State) (v : Nat) : State :=
  let e := msixEnt s v
  if !s.host.msixEn || s.host.msixMask || e.mask || s.host.cfg.d3 then modMsix s v (fun e => { e with pend := true })
  else emit s (.msix v (e.addrHi ++ e.addrLo) e.data)

/-- An event record's bytes (Table 10.8). -/
def eventBytes (e : Event) : List Byte :=
  toBytes 2 e.type ++ toBytes 2 e.ctx ++ toBytes 4 e.seq.toNat ++ toBytes 8 e.arg0.toNat ++ toBytes 8 e.arg1.toNat ++
    toBytes 8 e.arg2.toNat

/-- Write one event record into the host ring, and raise vector 0 (R392). -/
def writeEvent (s : State) (r : EventRing) (e : Event) : State :=
  let s := emit s (.hostWrite (r.addr + 32 * r.next) (eventBytes e))
  raiseVec { s with evRing := some { r with next := (r.next + 1) % r.entries } } 0

/-- Raise an event: written to the ring, or held, or dropped beyond 64 held (R392, R393). Context 0xFFFF means none. -/
def raiseEvent3 (s : State) (type ctx a0 a1 a2 : Nat) : State :=
  let e : Event := ⟨type, ctx, s.evSeq, BitVec.ofNat 64 a0, BitVec.ofNat 64 a1, BitVec.ofNat 64 a2⟩
  let s := { s with evSeq := s.evSeq + 1 }
  match s.evRing with
  | some r => writeEvent s r e
  | none => if s.events.length < 64 then { s with events := s.events ++ [e] } else s

/-- An event with ARG2 0. -/
def raiseEvent (s : State) (type ctx a0 a1 : Nat) : State := raiseEvent3 s type ctx a0 a1 0

/-- No context in an event record or a failure-record entry. -/
def noCtx : Nat := 0xFFFF

/-- A CAPACITY event (R495, Table 10.8). -/
def capacity (s : State) (kind index : Nat) (inService : Bool) : State :=
  raiseEvent s 2 noCtx (kind + index * 256 + (if inService then 65536 else 0)) 0

/-- The error's bit in AER's uncorrectable error registers (the PCI Express standard, log entry 101). -/
def AerErr.bit : AerErr → Nat
  | .poisonedTlp => 12
  | .completionTimeout => 14
  | .unexpectedCompletion => 16
  | .malformedTlp => 18
  | .unsupportedRequest => 20
  | .internalError => 22

/-- Report an error under AER (R343): its status bit, its severity as the register sets it, and the header of the TLP that
caused it, if one did. -/
def aer (s : State) (e : AerErr) (t : Option Tlp) : State :=
  let c := s.host.cfg
  emit { s with
    host := { s.host with
      cfg := { c with aerStatus := c.aerStatus ||| BitVec.ofNat 32 (2 ^ e.bit), hdrLog := c.hdrLog ++ (t.map (fun t => (e.bit, t))).toList } } }
    (.aer e (c.aerSev.getLsbD e.bit))

/-- Largest payload of a request that the part sends, and largest read it asks (Device Control, R335; Table 9.1 limits). -/
def maxPayload (s : State) : Nat := 128 * 2 ^ min 2 ((s.host.cfg.devCtl >>> 5).setWidth 3).toNat
def maxRead (s : State) : Nat := 128 * 2 ^ min 5 ((s.host.cfg.devCtl >>> 12).setWidth 3).toNat

/-- Write bytes to host memory in requests of at most Max Payload Size (R335); fuel, bytes a request, address, bytes. -/
def hostWrites : Nat → Nat → Nat → List Byte → State → State
  | 0, _, _, _, s => s
  | f + 1, m, a, bs, s => if bs.isEmpty then s else hostWrites f m (a + m) (bs.drop m) (emit s (.hostWrite a (bs.take m)))

/-- Write bytes to host memory (R335). -/
def putHost (s : State) (a : Nat) (bs : List Byte) : State := hostWrites bs.length (maxPayload s) a bs s

/-- ALERT_N follows TRIP, HOT and RAILF (R494). -/
def setAlert (s : State) : State :=
  let low := s.power.trip || s.power.flags.getLsbD 1 || s.power.flags.getLsbD 3
  if s.alertN = low then emit { s with alertN := !low } (.pin "ALERT_N" (!low)) else s

/-! ### The failure record (R501, R502) -/

/-- Kinds that a new entry may overwrite (R502). -/
def frecOld (k : Nat) : Bool := [6, 8, 9, 10, 20].contains k

/-- Remove the first entry that may be overwritten. -/
def dropOldest : List FrecEntry → Option (List FrecEntry)
  | [] => none
  | e :: t => if frecOld e.kind then some t else (dropOldest t).map (e :: ·)

/-- Write a failure-record entry (Table 13.4, R501, R502). The list holds the entries oldest first, and FREC_READ numbers them
so (DESIGN CHOICE, log entry 104). -/
def addFrec (s : State) (kind unit index cause paddr ctx : Nat) : State :=
  let e : FrecEntry := ⟨s.nvm.frecSum.pos, kind, unit, index, cause, paddr, ctx, s.power.tpol, s.power.pavg, s.corr.cspeed,
    s.power.thlvl, s.power.rstCause, s.power.railStat⟩
  if s.nvm.frec.length < 1024 then
    { s with nvm := { s.nvm with frec := s.nvm.frec ++ [e],
                                 frecSum := { s.nvm.frecSum with nEntry := s.nvm.frecSum.nEntry + 1 } } }
  else match dropOldest s.nvm.frec with
    | some t => { s with nvm := { s.nvm with frec := t ++ [e] } }
    | none =>
      let s := { s with nvm := { s.nvm with frecOvf := s.nvm.frecOvf + 1,
                                            frecSum := { s.nvm.frecSum with ovf := s.nvm.frecSum.ovf + 1 } },
                        thresh := { s.thresh with flags := s.thresh.flags ||| 4 } }
      raiseEvent s 0x83 noCtx s.nvm.frecOvf.toNat 0

/-! ### Audit counters (Table 8.5) -/

/-- The counters of quantity q. -/
def audOf (s : State) (q : Nat) : Aud := bankGet s.corr.aud ⟨0, 0, 0⟩ q
/-- Count n hand-outs of quantity q. -/
def audTake (s : State) (q n : Nat) : State :=
  let f : Aud → Aud := fun a => { a with take := a.take + BitVec.ofNat 32 n, level := a.level + BitVec.ofNat 32 n }
  { s with corr := { s.corr with aud := bankMod s.corr.aud ⟨0, 0, 0⟩ q f } }
/-- Count n returns of quantity q. -/
def audGive (s : State) (q n : Nat) : State :=
  let f : Aud → Aud := fun a => { a with give := a.give + BitVec.ofNat 32 n, level := a.level - BitVec.ofNat 32 n }
  { s with corr := { s.corr with aud := bankMod s.corr.aud ⟨0, 0, 0⟩ q f } }
/-- Count n hand-outs that are returned within the step. -/
def audPass (s : State) (q n : Nat) : State := audGive (audTake s q n) q n

/-! ### Arbitration between classes (R278, R279, Table 8.2) -/

/-- The weight of C1 to C3 (CARB; 0 is used as 1). -/
def arbWeight (s : State) (c : Nat) : Nat := max 1 ((s.corr.carb >>> (8 * (c - 1))).setWidth 8).toNat
/-- Grants of a class in the round. -/
def arbUsed (u : List Nat) (c : Nat) : Nat := u.getD (c - 1) 0
/-- The classes in turn from a class. -/
def arbTurns (t : Nat) : List Nat := if t = 2 then [2, 3, 1] else if t = 3 then [3, 1, 2] else [1, 2, 3]
/-- The class that a place grants next: C0 first, then C1 to C3 in rounds by weight; with the round it belongs to. -/
def arbPick (s : State) (place : Nat) (waits : Nat → Bool) : Option (Nat × List Nat) :=
  let a := bankGet s.corr.arb (1, [0, 0, 0]) place
  if waits 0 then some (0, a.2)
  else match (arbTurns a.1).find? (fun c => waits c && decide (arbUsed a.2 c < arbWeight s c)) with
    | some c => some (c, a.2)
    | none => ([1, 2, 3].find? waits).map (fun c => (c, [0, 0, 0]))
/-- Whether a place grants a class now. -/
def arbClass (s : State) (place cls : Nat) (waits : Nat → Bool) : Bool :=
  match arbPick s place waits with
  | some (c, _) => decide (c = cls)
  | none => true
/-- Count a grant of a class at a place; the round ends when no class of C1 to C3 has anything left waiting (R279; log entry 97). -/
def arbCount (s : State) (place cls : Nat) (waits left : Nat → Bool) : State :=
  let old := bankGet s.corr.arb (1, [0, 0, 0]) place
  let used := if cls = 0 then old
    else match arbPick s place waits with
      | some (_, u) => (cls % 3 + 1, u.set (cls - 1) (arbUsed u cls + 1))
      | none => old
  { s with corr := { s.corr with arb := bankPut s.corr.arb place (if [1, 2, 3].any left then used else (1, [0, 0, 0])) } }
/-- The class has a requester in a list of (class, index). -/
def reqWaits (rs : List (Nat × Nat)) (c : Nat) : Bool := rs.any (fun r => decide (r.1 = c))
/-- The rotating pointer of a class at a place (R280). -/
def arbPtr (s : State) (place cls : Nat) : Nat := bankGet s.corr.ptr 0 (4 * place + cls)
/-- The first requester of a class at or after the pointer, in ascending index order with wrap-around over n indexes (R280). -/
def arbIndex (s : State) (place n cls : Nat) (rs : List (Nat × Nat)) : Option Nat :=
  ((List.range n).map (fun k => (arbPtr s place cls + k) % n)).find? (fun i => rs.contains (cls, i))
/-- The requester that a place with n indexes grants next: its class, then its index (R278 to R280). -/
def arbNext (s : State) (place n : Nat) (rs : List (Nat × Nat)) : Option (Nat × Nat) :=
  (arbPick s place (reqWaits rs)).bind (fun g => (arbIndex s place n g.1 rs).map (fun i => (g.1, i)))
/-- Whether a place grants a requester now, beside the others that wait. -/
def arbGrants (s : State) (place n cls idx : Nat) (others : List (Nat × Nat)) : Bool :=
  decide (arbNext s place n ((cls, idx) :: others) = some (cls, idx))
/-- Count a grant: the round of its class, and the pointer, which moves to the requester after the one granted. -/
def arbTake (s : State) (place n cls idx : Nat) (others left : List (Nat × Nat)) : State :=
  let s := arbCount s place cls (reqWaits ((cls, idx) :: others)) (reqWaits left)
  { s with corr := { s.corr with ptr := bankPut s.corr.ptr (4 * place + cls) ((idx + 1) % n) } }
/-- No C1 to C3 unit is granted at a paced place now (R483). -/
def paced (s : State) (cls : Nat) : Bool := decide (cls ≠ 0) && decide (s.thermo.tick % 8 < s.power.thlvl.toNat)

/-! ### Reservations (R267 to R272, R300, R302) -/

/-- Tokens that a bucket holds at most (R300). -/
def bucketDepth (rate : Nat) : Nat := rate * 10000 / 64
/-- Sum of the admitted reservations, of one class or of all. -/
def resvSum (s : State) (cls : Option Nat) : Nat :=
  ((s.mem.resvs.filter (fun r => match cls with | some c => decide (r.cls = c) | none => true)).map (·.rate)).sum
/-- The guarantee ends its suspension when the C0 reservations fit C0CAP again (R271). -/
def checkGuarantee (s : State) : State :=
  if isReady s && !s.corr.gActive && decide (resvSum s (some 0) ≤ s.mem.c0cap) then
    raiseEvent { s with corr := { s.corr with gActive := true } } 0x0A noCtx 0 0
  else s
/-- Remove one reservation, its tokens expiring (R302). -/
def dropResv (s : State) (ctx cls : Nat) : State :=
  let gone := s.mem.resvs.filter (fun r => r.ctx = ctx ∧ r.cls = cls)
  let s := { s with mem := { s.mem with resvs := s.mem.resvs.filter (fun r => ¬ (r.ctx = ctx ∧ r.cls = cls)) } }
  audGive s 7 (gone.map (·.tokens)).sum
/-- Remove every reservation of a context. -/
def dropResvs (s : State) (ctx : Nat) : State :=
  checkGuarantee ([0, 1, 2, 3].foldl (fun s c => dropResv s ctx c) s)
/-- The most recently admitted reservation of a class. -/
def newestResv (s : State) (cls : Nat) : Option Resv :=
  (s.mem.resvs.filter (fun r => r.cls = cls)).foldl
    (fun m r => match m with | some x => if x.seq < r.seq then some r else some x | none => some r) none
/-- Revoke reservations of C3, then C2, then C1, newest first, while the sum exceeds DELIV (R269). -/
def revokeGo : Nat → State → State
  | 0, s => s
  | n + 1, s =>
    if resvSum s none ≤ s.mem.deliv then s
    else match (newestResv s 3).orElse (fun _ => (newestResv s 2).orElse (fun _ => newestResv s 1)) with
      | some r => revokeGo n (raiseEvent (dropResv s r.ctx r.cls) 0x08 r.ctx r.cls r.rate)
      | none => s
/-- Quarters of a stack's full rate: 4, 3, 2, or 0 out of service (Table 7.10). -/
def stackQuarters (s : State) (k : Nat) : Nat :=
  if !(s.mem.stkUp.getLsbD k) || !(s.mem.stacksIn.contains k) then 0
  else match (s.mem.derate.getD k 0).toNat with | 0 => 4 | 1 => 3 | 2 => 2 | _ => 0
/-- DELIV in whole GB/s. -/
def delivNow (s : State) : Nat := 650 * ([0, 1, 2, 3].map (stackQuarters s)).sum / 4
/-- DELIV and C0CAP change; reservations and the guarantee follow (R269 to R271). Before READY both read 0. -/
def recomputeDeliv (s : State) : State :=
  if !(isReady s) then s
  else
    let d := delivNow s
    let s := { s with mem := { s.mem with deliv := d, c0cap := 4 * d / 10 } }
    let s := revokeGo s.mem.resvs.length s
    if s.mem.c0cap < resvSum s (some 0) then
      if s.corr.gActive then
        raiseEvent { s with corr := { s.corr with gActive := false }, mem := { s.mem with flags := s.mem.flags ||| 32 } } 0x09 noCtx 0 0
      else s
    else checkGuarantee s

/-! ### Page ownership, retirement and ECC (R254 to R264) -/

/-- The context that owns the page of an address (R386). -/
def ownerCtx (s : State) (pa : Nat) : Option Nat :=
  match bankFind s.mem.owners (pa >>> 16) with
  | some (.ctx n) => some n
  | some (.share k) => ((bankFind s.shares k).map (·.maps)).bind List.min?
  | none => none
/-- Whether a page is allocated. -/
def pageOwned (s : State) (page : Nat) : Bool := (bankFind s.mem.owners page).isSome
/-- Add a page to the retired list (R259). -/
def retirePage (s : State) (page : Nat) : State :=
  if s.nvm.retPages.contains page then s else { s with nvm := { s.nvm with retPages := s.nvm.retPages ++ [page] } }
/-- A page whose granule has been poisoned: retired at once when not allocated, remembered until it is freed otherwise (R259). -/
def poisonedPage (s : State) (pa : Nat) : State :=
  if pageOwned s (pa >>> 16) then
    { s with mem := { s.mem with badPages := if s.mem.badPages.contains (pa >>> 16) then s.mem.badPages else s.mem.badPages ++ [pa >>> 16] } }
  else retirePage s (pa >>> 16)
/-- Whether a page holds a poisoned granule or a row due for retirement without a spare (R259, R263, R264). -/
def pageBad (s : State) (page : Nat) : Bool :=
  s.mem.poison.any (fun g => decide (g >>> 10 = page)) || s.nvm.rowsOver.any (fun r => (List.range 64).any (fun k => decide (rowOf s (page * 0x10000 + k * 1024) = r)))
/-- Free an allocated page: it returns to the pool, or is retired (R259, R379). -/
def freePage (s : State) (page : Nat) : State :=
  let bad := s.mem.badPages.contains page || pageBad s page
  let s := { s with mem := { s.mem with owners := bankErase s.mem.owners page, badPages := s.mem.badPages.filter (· ≠ page) } }
  if bad then retirePage s page else s

/-- Who finds an error: a device access, the Sweep, the host, another node (Table 7.10, ELOGCTX). -/
inductive Finder where
  | dev | sweep | host | node
  deriving DecidableEq, Repr

/-- The source code of ELOG. -/
def Finder.code : Finder → Nat
  | .dev => 0 | .sweep => 1 | .host => 2 | .node => 3

/-- Write ELOG (Table 7.10). -/
def elog (s : State) (pa : Nat) (ctx : Option Nat) (src : Finder) : State :=
  { s with
      mem := { s.mem with
      elogAddr := BitVec.ofNat 64 pa,
      elogCtx := BitVec.ofNat 32 (ctx.getD 0 % 4096 + (if ctx.isSome then 4096 else 0) + src.code * 8192) } }

/-- Count an uncorrectable error (UECNT or LARUE, POISCNT, UE). -/
def countUe (s : State) (pa : Nat) : State :=
  let k := stackOf s pa
  { s with
    mem := { s.mem with
      flags := s.mem.flags ||| 2, poisCnt := s.mem.poisCnt + 1,
      larUe := if inLarder pa then s.mem.larUe + 1 else s.mem.larUe,
      ueCnt := if inLarder pa then s.mem.ueCnt else s.mem.ueCnt.modify k (· + 1) },
    nvm := { s.nvm with rowUe := bankMod s.nvm.rowUe 0 (rowOf s pa) (· + 1) } }

/-- Count a corrected error (CECNT or LARCE, CE, row count, failure-record summary). -/
def countCe (s : State) (pa : Nat) : State :=
  let k := stackOf s pa
  { s with
    mem := { s.mem with
      flags := s.mem.flags ||| 1, larCe := if inLarder pa then s.mem.larCe + 1 else s.mem.larCe,
      ceCnt := if inLarder pa then s.mem.ceCnt else s.mem.ceCnt.modify k (· + 1),
      rowCe := bankMod s.mem.rowCe 0 (rowOf s pa) (· + 1) },
    nvm := { s.nvm with frecSum := { s.nvm.frecSum with ceCnt := min 0xFFFFFFFF (s.nvm.frecSum.ceCnt + 1) } } }

/-- Queue a corrected granule for the Sweep (R254). -/
def queueScrub (s : State) (g : Nat) : State :=
  if inLarder (64 * g) then
    if s.mem.scrubL.contains g || decide (64 ≤ s.mem.scrubL.length) then s
    else { s with mem := { s.mem with scrubL := s.mem.scrubL ++ [g] } }
  else if s.mem.scrubC.contains g || decide (64 ≤ s.mem.scrubC.length) then s
  else { s with mem := { s.mem with scrubC := s.mem.scrubC ++ [g] } }

/-- Mark a granule poisoned. -/
def setPoison (s : State) (g : Nat) : State :=
  if s.mem.poison.contains g then s else { s with mem := { s.mem with poison := s.mem.poison ++ [g] } }
/-- Clear the poison of a granule. -/
def clearPoison (s : State) (g : Nat) : State := { s with mem := { s.mem with poison := s.mem.poison.filter (· ≠ g) } }

/-- A granule found uncorrectable for the first time (R255, R257, R258, R554): poisoned, counted, logged, recorded, and
its POISON event raised unless a context's demand read or a read from another node found it (R261, R421). `who` is the reading context. -/
def foundUe (s : State) (g : Nat) (src : Finder) (who : Option Nat) (event : Bool) : State :=
  let pa := 64 * g
  let s := countUe (setPoison s g) pa
  let own := match who with | some c => some c | none => ownerCtx s pa
  let s := elog s pa own src
  let s := addFrec s 8 0 0 src.code pa (own.getD noCtx)
  let s := if event then raiseEvent s 0x05 (own.getD noCtx) pa (if own.isSome then 1 else 0) else s
  poisonedPage s pa

/-- Read the code of one granule (R254, R255, R257): whether it delivers poison. -/
def readGranule (s : State) (env : Env) (src : Finder) (who : Option Nat) (g : Nat) : State × Bool :=
  let pa := 64 * g
  if stackOut s pa || s.mem.poison.contains g then
    (elog s pa (match who with | some c => some c | none => ownerCtx s pa) src, true)
  else if env.ue.contains g then (foundUe s g src who (decide (src = .sweep) || decide (src = .host)), true)
  else if env.ce.contains g then (queueScrub (countCe s pa) g, false)
  else (s, false)

/-- The granules that n bytes from an address touch. -/
def granulesOf (pa n : Nat) : List Nat := if n = 0 then [] else (List.range ((pa + n - 1) / 64 - pa / 64 + 1)).map (· + pa / 64)

/-- Read granules in order up to the first that delivers poison. -/
def readGranules (env : Env) (src : Finder) (who : Option Nat) : List Nat → State → State × Option Nat
  | [], s => (s, none)
  | g :: t, s =>
    let r := readGranule s env src who g
    if r.2 then (r.1, some g) else readGranules env src who t r.1

/-- Read bytes of device memory: the bytes, or the first poisoned granule. -/
def readPa (s : State) (env : Env) (src : Finder) (who : Option Nat) (pa n : Nat) : State × Option Nat × List Byte :=
  let r := readGranules env src who (granulesOf pa n) s
  (r.1, r.2, if r.2.isSome then [] else r.1.mem.data.read pa n)

/-- A partial write reads its granule first (R256, R554). -/
def partialGranule (s : State) (env : Env) (src : Finder) (g : Nat) : State :=
  if s.mem.poison.contains g then s
  else if env.ue.contains g then foundUe s g src none true
  else if env.ce.contains g then countCe s (64 * g)
  else s

/-- Whether a write of n bytes at an address covers granule g whole. -/
def coversGranule (pa n g : Nat) : Bool := decide (pa ≤ 64 * g) && decide (64 * g + 64 ≤ pa + n)

/-- The ECC side of a write (R256): whole granules lose their poison, partial ones are read first. -/
def writeGranules (env : Env) (src : Finder) (pa n : Nat) : List Nat → State → State
  | [], s => s
  | g :: t, s =>
    writeGranules env src pa n t (if coversGranule pa n g then clearPoison s g else partialGranule s env src g)

/-- Write bytes into device memory (R256). -/
def writePa (s : State) (env : Env) (src : Finder) (pa : Nat) (bs : List Byte) : State :=
  let s := writeGranules env src pa bs.length (granulesOf pa bs.length) s
  { s with mem := { s.mem with data := s.mem.data.write pa bs } }

/-- Whether any granule of a range lies on a stack out of service: the first such granule (R553). -/
def firstOut (s : State) (pa n : Nat) : Option Nat := (granulesOf pa n).find? (fun g => stackOut s (64 * g))

/-! ### Translation (R233 to R236, R555) -/

/-- Bytes that a translation covers. -/
def Mapping.size (m : Mapping) : Nat := if m.large then 0x2000000 else 0x10000
/-- Whether a translation covers an address. -/
def Mapping.covers (m : Mapping) (va : Nat) : Bool := decide (m.va ≤ va) && decide (va < m.va + m.size)
/-- R, W, SHO, NOMERGE of a page (Table 7.3). -/
def Mapping.r (m : Mapping) : Bool := m.attr.getLsbD 0
def Mapping.w (m : Mapping) : Bool := m.attr.getLsbD 1
def Mapping.sho (m : Mapping) : Bool := m.attr.getLsbD 2
def Mapping.noMerge (m : Mapping) : Bool := m.attr.getLsbD 3

/-- Where an address lies in a translation's target. -/
def Mapping.at (m : Mapping) (va : Nat) : Target :=
  match m.tgt with
  | .dev pa => .dev (pa + (va - m.va))
  | .host a => .host (a + (va - m.va))
  | .remote n e p => .remote n e (p * 0x10000 + (va - m.va))

/-- The translation of an address in a context's table. -/
def tableFind (s : State) (ctx va : Nat) : Option Mapping :=
  (ctxOf s ctx).bind (fun c => c.table.find? (fun m => m.covers va))

/-- DTC entries that match an address, lowest number first. -/
def dtcHits (s : State) (ctx va : Nat) : List (Nat × DtcEntry) :=
  s.xlate.dtc.filter (fun e => decide (e.2.ctx = ctx) && e.2.map.covers va)

/-- Look an address up: the lowest matching DTC entry (R234), or the table with a miss and a walk (R555). -/
def lookup (s : State) (ctx va : Nat) : State × Option Mapping :=
  match dtcHits s ctx va with
  | (k, e) :: t =>
    let x := { s.xlate with clock := s.xlate.clock + 1, dtc := bankPut s.xlate.dtc k { e with used := s.xlate.clock } }
    let x := if t.isEmpty then x else { x with multiHit := true, mhCnt := x.mhCnt + 1 }
    ({ s with xlate := x }, some e.map)
  | [] =>
    let wk := if s.xlate.walks.contains (ctx, va / 0x10000) then s.xlate.walks else s.xlate.walks ++ [(ctx, va / 0x10000)]
    ({ s with xlate := { s.xlate with dtcMiss := s.xlate.dtcMiss + 1, walks := wk } }, tableFind s ctx va)

/-- What a translated access meets (R235): its page, or a fault code. -/
inductive Xl where
  | ok (m : Mapping)
  | fault (c : FCode)
  deriving DecidableEq, Repr

/-- The fault an access meets in a page, if any (R235). -/
def xlCheck (s : State) (m : Option Mapping) (va : Nat) (write : Bool) : Xl :=
  if 2 ^ 48 ≤ va then .fault .range
  else match m with
    | none => .fault .notMapped
    | some m =>
      if write then (if m.w then (match m.at va with | .dev pa => if paValid s pa then .ok m else .fault .range | _ => .ok m) else .fault .noWrite)
      else if m.r then (match m.at va with | .dev pa => if paValid s pa then .ok m else .fault .range | _ => .ok m) else .fault .noRead

/-- Translate one access (R233 to R235). -/
def translate (s : State) (ctx va : Nat) (write : Bool) : State × Xl :=
  if 2 ^ 48 ≤ va then (s, .fault .range)
  else
    let r := lookup s ctx va
    (r.1, xlCheck r.1 r.2 va write)

/-- The check of a translation without an access (decode checks, STREAM_RESUME). -/
def xlTest (s : State) (ctx va : Nat) (write : Bool) : Xl := xlCheck s (tableFind s ctx va) va write

/-- The code of a fault (Table 7.7). -/
def FCode.code : FCode → Nat
  | .none => 0 | .notMapped => 1 | .noRead => 2 | .noWrite => 3 | .range => 4 | .poison => 5 | .stackOut => 6

/-- The 64 KiB pieces of a range: (address, bytes). -/
def pageChunks : Nat → Nat → Nat → List (Nat × Nat)
  | 0, _, _ => []
  | k + 1, va, n =>
    if n = 0 then []
    else
      let len := min n (0x10000 - va % 0x10000)
      (va, len) :: pageChunks k (va + len) (n - len)

/-- The 64 KiB pieces of a range of any length. -/
def vaChunks (va n : Nat) : List (Nat × Nat) := pageChunks (n / 0x10000 + 2) va n

/-- How an access on a context's behalf ends: done, a translation fault (also one that another node answers, R420), poison at a
physical address, a failed host read, poison at another node's physical address, or a request to a node that timed out
(R235, R255, R337, R421, R433). -/
inductive Acc where
  | ok
  | fault (c : FCode) (va : Nat)
  | poison (pa : Nat)
  | host (st : HostStatus)
  | farPoison (node pa : Nat)
  | farTimeout (node mtype : Nat)
  deriving DecidableEq, Repr

/-- The fault code of a STATUS (R420). -/
def fcodeOf (n : Nat) : FCode :=
  match n with
  | 0 => .none | 1 => .notMapped | 2 => .noRead | 3 => .noWrite | 4 => .range | 5 => .poison | _ => .stackOut

/-- How another node's answer ends an access within a step (R420, R421, R433; log entry 103): its STATUS, or no answer. -/
def farEnd (env : Env) (node mtype va : Nat) : Acc :=
  match env.far with
  | none => .farTimeout node mtype
  | some (st, pa) => if st = 0 then .ok else if st = 5 then .farPoison node pa else .fault (fcodeOf st) va

/-- A request within a step that timed out (R433): LFLAGS, REMOTE_TIMEOUT with its TAG and MTYPE. -/
def farTimedOut (s : State) (node mtype : Nat) : State :=
  let tag := s.link.nextTag % 65536
  let s := { s with link := { s.link with flags := s.link.flags ||| 4, nextTag := (tag + 1) % 65536 } }
  raiseEvent s 0x45 noCtx node (tag + mtype * 65536)

/-- The host's bytes for a read within a step. -/
def hostBytes (env : Env) (a n : Nat) : List Byte :=
  (List.range n).map (fun i => ((env.host.find? (fun e => e.1 = a + i)).map (·.2)).getD 0)

/-- The AER report of a failed host read (Table 9.6, R337). -/
def hostFail (s : State) (st : HostStatus) (tag : Option Nat) : State :=
  let s := { s with host := { s.host with flags := s.host.flags ||| 64 } }
  if st = .poisoned then aer s .poisonedTlp (some (.completion tag)) else if st = .timeout then aer s .completionTimeout none else s

/-- Transactions of at most 256 bytes, none crossing a 256-byte boundary, that n bytes at an address take (R243). -/
def txnCount (a n : Nat) : Nat := if n = 0 then 0 else (a + n - 1) / 256 - a / 256 + 1

/-- Requests made and answered within a step: each holds a request buffer of its target and a response buffer of its initiator
(R276, Table 8.5). -/
def countReqs (s : State) (k : Nat) : State := audPass (audPass s 1 k) 2 k

/-- Whether an initiator finds a free response buffer (R276). -/
def crspFree (s : State) : Bool := decide ((audOf s 2).level.toNat < 2048)

/-- Spend reservation tokens of a context and class on Cellar granules (R239, R300). -/
def spendCls (s : State) (ctx cls pa n : Nat) : State :=
  if inCellar s pa then
    match s.mem.resvs.find? (fun r => r.ctx = ctx ∧ r.cls = cls) with
    | some r =>
      let k := min r.tokens (granulesOf pa n).length
      audGive { s with
        mem := { s.mem with
        resvs := s.mem.resvs.map (fun u => if u.ctx = ctx ∧ u.cls = cls then { u with tokens := u.tokens - k } else u) } } 7 k
    | none => s
  else s

/-- Read one piece inside a page. -/
def readPiece (s : State) (env : Env) (ctx va n : Nat) : State × Acc × List Byte :=
  match translate s ctx va false with
  | (s, .fault c) => (s, .fault c va, [])
  | (s, .ok m) =>
    match m.at va with
    | .dev pa =>
      match readPa (countReqs s (txnCount pa n)) env .dev (some ctx) pa n with
      | (s, some g, _) => (s, .poison (64 * g), [])
      | (s, none, bs) => (s, .ok, bs)
    | .host a =>
      let s := countReqs s (txnCount a n)
      if env.hostSt = .ok then (s, .ok, hostBytes env a n) else (hostFail s env.hostSt none, .host env.hostSt, [])
    | .remote node _ o =>
      let s := countReqs s (txnCount o n)
      match farEnd env node 0x01 va with
      | .ok => (s, .ok, hostBytes env o n)
      | e => (s, e, [])

/-- Read pieces in order up to the first that fails. -/
def readPieces (env : Env) (ctx : Nat) : List (Nat × Nat) → State → List Byte → State × Acc × List Byte
  | [], s, acc => (s, .ok, acc)
  | (va, n) :: t, s, acc =>
    match readPiece s env ctx va n with
    | (s, .ok, bs) => readPieces env ctx t s (acc ++ bs)
    | (s, e, _) => (s, e, [])

/-- Read n bytes at a device address on a context's behalf, for a sequencer, a kernel or Yilium (R233). -/
def readVa (s : State) (env : Env) (ctx va n : Nat) : State × Acc × List Byte := readPieces env ctx (vaChunks va n) s []

/-- Write one piece inside a page. -/
def writePiece (s : State) (env : Env) (ctx va : Nat) (bs : List Byte) : State × Acc :=
  match translate s ctx va true with
  | (s, .fault c) => (s, .fault c va)
  | (s, .ok m) =>
    match m.at va with
    | .dev pa =>
      match firstOut s pa bs.length with
      | some g => (elog s (64 * g) (ownerCtx s (64 * g)) .dev, .fault .stackOut va)
      | none => (writePa (countReqs s (txnCount pa bs.length)) env .dev pa bs, .ok)
    | .host a => (putHost (countReqs s (txnCount a bs.length)) a bs, .ok)
    | .remote node _ o => (countReqs s (txnCount o bs.length), farEnd env node 0x02 va)

/-- Write bytes at a device address on a context's behalf. -/
def writePieces (env : Env) (ctx : Nat) : List (Nat × Nat) → List Byte → State → State × Acc
  | [], _, s => (s, .ok)
  | (va, n) :: t, bs, s =>
    match writePiece s env ctx va (bs.take n) with
    | (s, .ok) => writePieces env ctx t (bs.drop n) s
    | (s, e) => (s, e)

/-- Write bytes at a device address on a context's behalf. -/
def writeVa (s : State) (env : Env) (ctx va : Nat) (bs : List Byte) : State × Acc :=
  writePieces env ctx (vaChunks va bs.length) bs s

/-- The tokens that a command's accesses to a range spend (R239). -/
def spendVa (s : State) (o : Op) (va n : Nat) : State :=
  (vaChunks va n).foldl (fun s e => match tableFind s o.ctx e.1 with
    | some m => (match m.at e.1 with | .dev pa => spendCls s o.ctx o.cls pa e.2 | _ => s)
    | none => s) s

/-- Read bytes for a command, its Cellar traffic counted against its context's reservation in its class (R239). -/
def readOp (s : State) (env : Env) (o : Op) (va n : Nat) : State × Acc × List Byte := readVa (spendVa s o va n) env o.ctx va n

/-- Write bytes for a command, its Cellar traffic counted likewise. -/
def writeOp (s : State) (env : Env) (o : Op) (va : Nat) (bs : List Byte) : State × Acc :=
  writeVa (spendVa s o va bs.length) env o.ctx va bs

/-- Invalidate every DTC entry and walk of a context whose page meets a range (R379, R555). -/
def dtcFlush (s : State) (ctx lo n : Nat) : State :=
  { s with
      xlate := { s.xlate with
      dtc := s.xlate.dtc.filter (fun e => ¬ (e.2.ctx = ctx ∧ e.2.map.va < lo + n ∧ lo < e.2.map.va + e.2.map.size)),
      walks := s.xlate.walks.filter (fun w => ¬ (w.1 = ctx ∧ w.2 * 0x10000 < lo + n ∧ lo < w.2 * 0x10000 + 0x10000)) } }

/-- Invalidate everything of a context. -/
def dtcFlushAll (s : State) (ctx : Nat) : State := dtcFlush s ctx 0 (2 ^ 48 + 0x2000000)

/-! ### Fences (R374, R376, R298) -/

/-- A fence word of a context: its value in device memory, read as unsigned (R374); none where it cannot be read: poisoned,
or on a stack that is out (log entry 62). -/
def fenceWord (s : State) (ctx va : Nat) : Option Nat :=
  match xlTest s ctx va false with
  | .ok m => match m.at va with
    | .dev pa => if stackOut s pa || s.mem.poison.contains (pa / 64) then none else some (s.mem.data.nat pa 8)
    | _ => none
  | .fault _ => none

/-- Whether an armed wait is satisfied. -/
def waitMet (s : State) (o : Op) : Bool :=
  match o.cmd with
  | .fenceWait va val _ => match fenceWord s o.ctx va with | some x => decide (val.toNat ≤ x) | none => false
  | _ => false

/-- Give an armed wait back with a status (R298). -/
def endWait (st : Status) (o : Op) : Op := { o with armed := false, done := some st }

/-- Test every armed wait after a change of memory (R374). -/
def testFences (s : State) : State :=
  let met := s.ops.filter (fun o => o.armed && waitMet s o)
  if met.isEmpty then s
  else audGive { s with ops := s.ops.map (fun o => if o.armed && waitMet s o then endWait .ok o else o) } 4 met.length

/-! ### Parking (R169) -/

/-- Park a channel's output. -/
def Heater.parked (h : Heater) : Heater := { h with out := h.park, u := h.park }
/-- Park an AUX output. -/
def Aux.parked (a : Aux) : Aux := { a with out := a.park, u := a.park }
/-- AUX output a. -/
def auxOf (t : Thermo) (a : Nat) : Aux := bankGet t.aux Aux.reset a
/-- Apply a change to every heater. -/
def mapHeaters (f : Heater → Heater) (t : Thermo) : Thermo :=
  { t with
      heaters := (List.range 8).map (fun w =>
      let b := bankGet t.heaters HeaterBank.reset w
      (w, ⟨f b.dflt, b.chans.map (fun e => (e.1, f e.2))⟩)) }
/-- Apply a change to every AUX output. -/
def mapAux (f : Aux → Aux) (t : Thermo) : Thermo := { t with aux := (List.range 4).map (fun a => (a, f (auxOf t a))) }
/-- Park every heater and AUX output at once and set PARKALL (R169). Before the NVM load OUT and u stay 0 (R171): there is no
parking value yet, and the load then parks the channels. -/
def parkAll (s : State) : State :=
  let t := if s.thermo.nvmOk then mapAux Aux.parked (mapHeaters Heater.parked s.thermo) else s.thermo
  { s with thermo := { t with parkAll := true } }

/-! ### Ending work (R251, R366, R387, R390, R486, R562) -/

/-- A slot descriptor of free value; its E is finite and not negative (R560). -/
def freeDesc (v : Nat) : SlotDesc :=
  ⟨⟨v.testBit 0, v.testBit 1, v.testBit 2, v.testBit 3, v.testBit 4, v.testBit 5, v.testBit 6⟩, v / 128 % 8,
    BitVec.ofNat 32 (v / 1024 % 0x7F800000), BitVec.ofNat 32 (v / 2 ^ 42)⟩

/-- Close the open trees of a command, counting TREECLOSE and TREE (R120, R154, R562); the slot's bytes are free values, and so is
its descriptor, of which the spec says nothing then (DESIGN CHOICE, log entry 5). -/
def closeTrees (s : State) (id : OpId) : State :=
  let mine := s.trees.filter (fun t => t.op = id)
  let s := { s with trees := s.trees.filter (fun t => t.op ≠ id) }
  mine.foldl (fun s t =>
    if t.open_ then
      let s := modPantry s t.pantry (fun p => { p with treeClose := p.treeClose + 1 })
      let r := freshNat s
      let d := freshNat r.2
      let s := modPantry d.2 t.pantry (fun p => { p with
        sram := p.sram.write t.lo (toBytes (t.hi - t.lo) r.1), dir := bankPut p.dir t.lo (freeDesc d.1) })
      audGive s 6 1
    else s) s

/-- The request buffers that a stream's held request occupies are freed (R277). -/
def freeHeld (s : State) (x : Stream) : State := if x.held.isSome then audGive (audGive s 1 1) 2 1 else s

/-- Discard the streams of a command; the Dumbwaiters become free (STRM returned). -/
def dropStreams (s : State) (id : OpId) (aborted : Bool) : State :=
  let mine := s.streams.filter (fun e => e.2.op = id ∧ e.2.state ≠ .done)
  let s := { s with streams := s.streams.filter (fun e => ¬ (e.2.op = id)) }
  mine.foldl (fun s e => match e.2.dw with
    | some d => audGive (modDumb (freeHeld s e.2) d (fun x => { x with st := 0, flags := if aborted then x.flags ||| 4 else x.flags })) 3 1
    | none => s) s

/-- The residuals of a pass join the history of its pane (chapter 3, the history set). -/
def keepOwn (w : Window) (p : Pass) : Window :=
  let f : Pane → Pane := fun n => { n with hist := p.own.reverse ++ n.hist }
  if p.pane then { w with paneB := f w.paneB } else { w with paneA := f w.paneA }

/-- Abandon a command's pass on a Window, its input-buffer halves and its unfinished load; the pass's witnesses stay in the
pane's history (R96). -/
def dropWindowWork (id : OpId) (w : Window) : Window :=
  let mine := match w.pass with | some p => decide (p.op = id) | none => false
  let dropHalf : Option FeedHalf → Option FeedHalf := fun h => match h with
    | some f => if f.op = id then none else some f
    | none => none
  let dropPane : Pane → Pane := fun p => if p.loader = some id then
      { p with loader := none, staged := [], image := if p.state = .staging then none else p.image,
               state := if p.state = .staging then .empty else p.state }
    else p
  let w := match w.pass with | some p => if p.op = id then keepOwn w p else w | none => w
  { w with pass := if mine then none else w.pass, state := if mine && decide (w.state = .run) then .idle else w.state,
           half0 := dropHalf w.half0, half1 := dropHalf w.half1, paneA := dropPane w.paneA, paneB := dropPane w.paneB }

/-- Whether a work item belongs to a command. -/
def Item.of (id : OpId) : Item → Bool
  | .kernel o _ => decide (o = id)
  | .residual o _ => decide (o = id)
  | .decision o => decide (o = id)
  | .update o _ => decide (o = id)

/-- End a command's work with a status: passes, streams, loads, items and trees are given up, an armed wait is given back
(R298), and the command waits for its completion record. -/
def endOp (s : State) (id : OpId) (st : Status) (aborted : Bool) : State :=
  match findOp s id with
  | none => s
  | some o =>
    if o.done.isSome then s
    else
      let s := dropStreams s id aborted
      let s := { s with windows := s.windows.map (fun e => (e.1, dropWindowWork id e.2)),
                        study := { s.study with busy := s.study.busy.filter (fun e => !(e.2.of id)),
                                                partway := s.study.partway.filter (fun e =>
                                                  !((bankFind s.study.busy e.1).any (fun i => i.of id))) } }
      let s := closeTrees s id
      let s := if o.armed then audGive s 4 1 else s
      modOp s id (fun o => { o with armed := false, done := some st })

/-- End a list of commands. -/
def endOps (st : Status) (aborted : Bool) (ids : List OpId) (s : State) : State :=
  ids.foldl (fun s id => endOp s id st aborted) s

/-- Free a context's Pantry region and resident slot: its open trees are gone; its saved copy, if any, is kept. -/
def releaseSlot (s : State) (n : Nat) : State := dtcFlushAll (modCtx s n (fun c => { c with resident := false })) n

/-- Unpin every pane that a context pinned. -/
def unpinPanes (s : State) (n : Nat) : State :=
  let f : Pane → Pane := fun p => if p.pin = some n then { p with pin := none } else p
  { s with windows := s.windows.map (fun e => (e.1, { e.2 with paneA := f e.2.paneA, paneB := f e.2.paneB })) }

/-- Clear a context's region in every Pantry: bytes and slot descriptors. -/
def clearRegion (s : State) (n : Nat) : State :=
  match ctxOf s n with
  | none => s
  | some c =>
    let lo := c.base * 0x10000
    let len := c.pregion * 0x10000
    { s with
        pantries := s.pantries.map (fun e => (e.1, { e.2 with
        sram := e.2.sram.clear lo len,
        dir := e.2.dir.filter (fun d => ¬ (lo ≤ d.1 ∧ d.1 < lo + len)) })) }

/-- A context is lost (R389, R390): its queues LOST, every command in flight ended CTX_LOST, reservations, pins and Pantry region
released, the region's bytes and descriptors cleared before another context can hold it (R391) (it keeps its slot, log entry 22), CTX_LOST raised with cause and address (R421: and the target node plus 1). -/
def loseCtx3 (s : State) (n cause addr node : Nat) : State :=
  match ctxOf s n with
  | none => s
  | some c =>
    if c.lost then s
    else
      let s := modCtx s n (fun c => { c with lost := true, lossCause := cause, lossAddr := BitVec.ofNat 64 addr, pinned := false })
      let s := { s with queues := s.queues.map (fun e => (e.1, if e.2.ctx = n then { e.2 with state := .lost } else e.2)) }
      let s := endOps .ctxLost false ((s.ops.filter (fun o => o.ctx = n)).map Op.id) s
      let s := { s with ops := s.ops.map (fun o => if o.ctx = n then { o with done := some .ctxLost } else o) }
      let s := clearRegion (unpinPanes (dropResvs s n) n) n
      raiseEvent3 s 0x03 n cause addr node

/-- A context is lost for a cause inside this part. -/
def loseCtx (s : State) (n cause addr : Nat) : State := loseCtx3 s n cause addr 0

/-- A demand read on a context's behalf met poison (R255): the context is lost; the failure record gets one entry for the
loss when the granule was poisoned before (Table 13.1). -/
def poisonRead (s0 s : State) (n pa : Nat) : State :=
  let s := if s0.mem.poison.contains (pa / 64) || stackOut s0 pa then addFrec s 8 0 0 1 pa n else s
  loseCtx s n 1 pa

/-- A read met poison at another node (R421): the context is lost with the target's physical address and its node plus 1. -/
def farPoisonRead (s : State) (n node pa : Nat) : State := loseCtx3 (addFrec s 8 0 0 1 pa n) n 1 pa (node + 1)

/-! ### Doubleword SIGNALs and atomics on device memory (R331, R373) -/

/-- Write a 64-bit word of device memory and test the armed waits. -/
def putLong (s : State) (env : Env) (src : Finder) (pa : Nat) (v : Nat) : State :=
  testFences (writePa s env src pa (toBytes 8 v))

end Sys2Proof.Machine
end

