-- ==== Sys2Proof/Machine/Flags.lean ====
section
/-!
DEFINITION. Flag computations: the outcome of a software write and a hardware update by access class (Table 9.5, R344),
and the flags of result tiles (R62, R100, Table 4.6).
-/

namespace Sys2Proof.Machine

open Sys2Proof

/-- HS bits: a written 1 clears, and a concurrent hardware set wins (Table 9.5). -/
def hsUpd {n : Nat} (old : BitVec n) (val : Word) (set : Word) : BitVec n :=
  (old &&& ~~~(val.setWidth n)) ||| set.setWidth n

/-- HC counter: the written value, plus 1 with a concurrent increment, modulo the width (Table 9.5). -/
def hcUpd {n : Nat} (val : Word) (inc : Bool) : BitVec n := val.setWidth n + (if inc then 1 else 0)

/-- LOSTUPD of a word whose RWH update was dropped: modulo its width (R345). -/
def lostUpd {n : Nat} (old : BitVec n) (dropped : Bool) : BitVec n := if dropped then old + 1 else old

/-- LOSTUPD of a word that software writes: its written value as an HC field, with one increment when the hardware
update of an RWH field is dropped (Table 9.5, each field by its own class, R344). -/
def lostWrite (val : Word) (dropped : Bool) : BitVec 4 := hcUpd (val >>> 28) dropped

/-- The OR of tile flags (R62). -/
def TileFlags.or (a b : TileFlags) : TileFlags :=
  ⟨a.sat || b.sat, a.rsvd || b.rsvd, a.clipRep || b.clipRep, a.moved || b.moved, a.resc || b.resc, a.sround || b.sround,
    a.unalign || b.unalign⟩

/-- The tile FLAGS byte order of Table 4.6 as bits. -/
def TileFlags.bits (f : TileFlags) : Nat :=
  (if f.sat then 1 else 0) + (if f.rsvd then 2 else 0) + (if f.clipRep then 4 else 0) + (if f.moved then 8 else 0) +
    (if f.resc then 16 else 0) + (if f.sround then 32 else 0) + (if f.unalign then 64 else 0)

/-- Tile flags from their bits. -/
def TileFlags.ofBits (n : Nat) : TileFlags :=
  ⟨n.testBit 0, n.testBit 1, n.testBit 2, n.testBit 3, n.testBit 4, n.testBit 5, n.testBit 6⟩

/-- The record flags SAT, RSVD, CLIPREP, MOVED of a tile (R371, Table 10.5). -/
def TileFlags.record (f : TileFlags) : BitVec 9 :=
  (if f.sat then 32 else 0) ||| (if f.rsvd then 64 else 0) ||| (if f.clipRep then 128 else 0) ||| (if f.moved then 256 else 0)

end Sys2Proof.Machine
end

