-- ==== Sys2Proof/Machine/Reach.lean ====
section
/-!
DEFINITION. When the host's accesses reach the part, and when a software register write is discarded because a reset is in
progress (R305, R509, R542, Table 14.1).
-/

namespace Sys2Proof.Machine

open Sys2Proof

/-- TLPs reach the part. -/
def linkUp (s : State) : Bool := powered s && s.perstN

/-- The host can reach the BARs: powered, PERST_N deasserted, ready for configuration (Table 12.5), not in D3hot (Table 9.1). -/
def barUp (s : State) : Bool := linkUp s && s.host.cfgReady && !s.host.cfg.d3

/-- A request to a BAR that the part does not reach: in D3hot it is an Unsupported Request (log entry 101), else nothing answers. -/
def notUp (s : State) (t : Tlp) (posted : Bool) : State :=
  if linkUp s && s.host.cfgReady && s.host.cfg.d3 then
    let s := aer s .unsupportedRequest (some t)
    if posted then s else emit s (.completion false false [])
  else s

/-- The start-up sequence runs: a reset has begun, READY is not raised, and no Warm reset waits for PERST_N (R466, R476). -/
def starting (s : State) : Bool := powered s && s.resetting.isSome && !s.warmHeld

/-- The recovery state (R509). -/
def inRecovery (s : State) : Bool := decide (s.thresh.tstate = .recovery)

/-- Reset types that clear a block, as Table 14.1 marks them. -/
def clrCWIF : List ResetKind := [.cold, .warm, .internal, .flr]
def clrCWI : List ResetKind := [.cold, .warm, .internal]
def clrCWF : List ResetKind := [.cold, .warm, .flr]
def clrC : List ResetKind := [.cold]

/-- A software write reaches the registers of a block (R542): the BARs are up, and no reset in progress clears the block. -/
def writeOpen (s : State) (cleared : List ResetKind) : Bool :=
  barUp s && (match s.resetting with | none => true | some k => !(cleared.contains k))

/-- The same for the blocks that recovery does not serve (R509). -/
def blockOpen (s : State) (cleared : List ResetKind) : Bool := writeOpen s cleared && !(inRecovery s)

end Sys2Proof.Machine
end

