-- ==== Sys2Proof/Machine/MemEcc.lean ====
section
/-!
DEFINITION. The memory block's own work (chapters 7 and 8): scrub queues, the Sweep, row and stack retirement, derating, token
minting, and the audit captures of the conserved quantities.
-/

namespace Sys2Proof.Machine

open Sys2Proof

/-! ### The Sweep (R254, R258 to R266) -/

/-- Whether the Sweep of a memory is enabled (SWCTRL). -/
def sweepOn (s : State) (larder : Bool) : Bool := s.mem.swctrl.getLsbD (if larder then 1 else 0)

/-- SCRUB_QUEUED (R254): the oldest queued granule is written back corrected and leaves the queue. -/
def execScrubQueued (larder : Bool) (s : State) : Host.Outcome State Fault Refusal :=
  .next (if powered s && s.mem.init && sweepOn s larder then
    (if larder then { s with mem := { s.mem with scrubL := s.mem.scrubL.drop 1 } }
     else { s with mem := { s.mem with scrubC := s.mem.scrubC.drop 1 } })
  else s)

/-- The granule that the Sweep reads next. -/
def sweepAt (s : State) (larder : Bool) : Nat := if larder then s.mem.swLar else cellarBase / 64 + s.mem.swCel

/-- Granules of a memory. -/
def sweepSize (s : State) (larder : Bool) : Nat := if larder then larderEnd / 64 else s.mem.stacksIn.length * stackSize / 64

/-- The Sweep moves on; SWPASS counts the end of a Cellar pass (R266). -/
def sweepNext (s : State) (larder : Bool) : State :=
  if larder then { s with mem := { s.mem with swLar := if s.mem.swLar + 1 < sweepSize s true then s.mem.swLar + 1 else 0 } }
  else if s.mem.swCel + 1 < sweepSize s false then { s with mem := { s.mem with swCel := s.mem.swCel + 1 } }
  else { s with mem := { s.mem with swCel := 0, swPass := s.mem.swPass + 1 } }

/-- The Sweep reads a granule (R258, R261): corrected and written back, or poisoned when first found uncorrectable. -/
def sweepRead (s : State) (env : Env) (g : Nat) : State :=
  if stackOut s (64 * g) || s.mem.poison.contains g then s
  else if env.ue.contains g then foundUe s g .sweep none true
  else if env.ce.contains g then countCe s (64 * g)
  else s

/-- SWEEP_GRANULE (R258, R266): one granule of the walk. -/
def execSweepGranule (larder : Bool) (env : Env) (s : State) : Host.Outcome State Fault Refusal :=
  .next (if powered s && s.mem.init && sweepOn s larder then sweepNext (sweepRead s env (sweepAt s larder)) larder else s)

/-! ### Rows and stacks (R262 to R265, R488) -/

/-- A row (named as in rowOf) has reached its retirement count and has not been dealt with (R262). -/
def rowDue (s : State) (row : Nat) : Bool :=
  (decide (2 ≤ bankGet s.nvm.rowUe 0 row) || decide (32 ≤ bankGet s.mem.rowCe 0 row)) && !(s.nvm.rowsOver.contains row)

/-- A row without a spare: its page is retired under R259, now or when it is freed (R263, R264). -/
def rowOver (s : State) (row page : Nat) : State :=
  let s := { s with nvm := { s.nvm with rowsOver := s.nvm.rowsOver ++ [row] } }
  if pageOwned s page then s else retirePage s page

/-- Retire the row at a physical address: to a spare row of its stack, whose own counts begin anew, or its page. -/
def retireRow (s : State) (stack pa : Nat) : State :=
  let row := rowOf s pa
  if inLarder pa then addFrec (rowOver s row (pa >>> 16)) 6 0 0 0 pa noCtx
  else if (s.nvm.retRows.filter (fun r => r.1 = stack)).length < 256 then
    let s := { s with
      nvm := { s.nvm with retRows := s.nvm.retRows ++ [(stack, row)], rowUe := bankErase s.nvm.rowUe row },
      mem := { s.mem with flags := s.mem.flags ||| 8, rowCe := bankErase s.mem.rowCe row } }
    addFrec (raiseEvent s 0x06 noCtx stack (pa >>> 10)) 6 0 stack stack pa noCtx
  else
    let s := { s with mem := { s.mem with flags := s.mem.flags ||| 16 } }
    addFrec (rowOver s row (pa >>> 16)) 6 0 stack stack pa noCtx

/-- ROW_RETIRE (R262, R263, R264): a row of 1 KiB, numbered by its physical address. -/
def execRowRetire (stack : Fin 4) (row : Nat) (_pages : List Nat) (s : State) : Host.Outcome State Fault Refusal :=
  .next (if powered s && rowDue s (rowOf s (row * 1024)) &&
      (inLarder (row * 1024) || (inCellar s (row * 1024) && decide (stackOf s (row * 1024) = stack.val)))
    then retireRow s stack.val (row * 1024) else s)

/-- STACK_DOWN (R265): out of service at once; left out at every later clearing reset. -/
def stackDown (s : State) (k : Nat) : State :=
  let s := { s with
    mem := { s.mem with
      stkUp := s.mem.stkUp &&& ~~~(BitVec.ofNat 4 (2 ^ k)), derate := s.mem.derate.set k 3, flags := s.mem.flags ||| 4,
      scrubC := s.mem.scrubC.filter (fun g => stackOf s (64 * g) ≠ k) },
    nvm := { s.nvm with stkDown := s.nvm.stkDown ||| BitVec.ofNat 4 (2 ^ k) } }
  let s := capacity (raiseEvent s 0x07 noCtx k 0) 5 k false
  recomputeDeliv (addFrec s 7 5 k k 0 noCtx)

/-- STACK_DOWN. -/
def execStackDown (stack : Fin 4) (s : State) : Host.Outcome State Fault Refusal :=
  .next (if powered s && s.mem.stkUp.getLsbD stack.val && s.mem.stacksIn.contains stack.val then stackDown s stack.val else s)

/-- The derating level from the level so far and a temperature in 1/128 °C (R488). -/
def derateLevel (old : Nat) (t : Int) : Nat :=
  if 11904 ≤ t then 2
  else if old = 2 then (if t < 10880 then 0 else if t < 11520 then 1 else 2)
  else if old = 1 then (if t < 10880 then 0 else 1)
  else if 11264 ≤ t then 1 else 0

/-- STACK_DERATE (R488): MSTAT, DELIV and the event, at a change of level. -/
def execStackDerate (stack : Fin 4) (temp : Int) (s : State) : Host.Outcome State Fault Refusal :=
  .next (if powered s && s.mem.stkUp.getLsbD stack.val && s.mem.stacksIn.contains stack.val then
    let old := (s.mem.derate.getD stack.val 0).toNat
    let new := derateLevel old temp
    let s := { s with power := { s.power with stkTemp := s.power.stkTemp.set stack.val (BitVec.ofInt 16 temp) } }
    if old = new then s
    else
      let s := { s with mem := { s.mem with derate := s.mem.derate.set stack.val (BitVec.ofNat 2 new) } }
      recomputeDeliv (raiseEvent s 0x66 noCtx stack.val new)
  else s)

/-! ### Reservation tokens (R300) -/

/-- RTOK_MINT (R300): a token minted into a full bucket expires at once. -/
def execRtokMint (ctx : Fin 4096) (cls : Fin 4) (s : State) : Host.Outcome State Fault Refusal :=
  .next (match s.mem.resvs.find? (fun r => r.ctx = ctx.val ∧ r.cls = cls.val) with
    | some r =>
      if r.tokens < bucketDepth r.rate then
        audTake { s with
          mem := { s.mem with
          resvs := s.mem.resvs.map (fun u =>
          if u.ctx = ctx.val ∧ u.cls = cls.val then { u with tokens := u.tokens + 1 } else u) } } 7 1
      else audPass s 7 1
    | none => s)

/-! ### Audit captures (R293 to R299, R416, R552) -/

/-- CAP of a quantity (Table 8.5, R552). -/
def capOf (s : State) (q : Nat) : Nat :=
  match q with
  | 0 => 128
  | 1 => 2048
  | 2 => 2048
  | 3 => 64
  | 4 => 8192
  | 5 => 0xFFFFFFFF
  | 6 => 2048
  | 7 => (s.mem.resvs.map (fun r => bucketDepth r.rate)).sum
  | 8 => if isS s then 0 else 10240
  | 9 => if isS s then 1360 else 2384
  | _ => 0

/-- R293 for one quantity. -/
def audHolds (s : State) (q : Nat) : Bool :=
  let a := audOf s q
  decide (a.take - a.give = a.level) && decide (a.level.toNat ≤ capOf s q)

/-- The quantities that fail, as bits. -/
def audFailing (s : State) : BitVec 16 :=
  (List.range 16).foldl (fun b q => if audHolds s q then b else b ||| BitVec.ofNat 16 (2 ^ q)) 0

/-- The check of a capture (R296): AUDCAP; AUDFAIL, AUDANY, one AUDIT_FAIL event and a record entry on a failure. -/
def auditCheck (s : State) : State :=
  let bad := audFailing s
  let s := { s with corr := { s.corr with audCap := s.corr.audCap + 1 } }
  if bad = 0 then s
  else
    let s := { s with corr := { s.corr with audFail := s.corr.audFail ||| bad, flags := s.corr.flags ||| 1 } }
    addFrec (raiseEvent s 0x0B noCtx s.corr.audFail.toNat 0) 15 0 0 (s.corr.audFail.toNat % 256) 0 noCtx

/-- The registers that a capture holds: TAKE, GIVE, LEVEL and CAP of every quantity, and the Door credit registers with TXCRED in
the place of CAP (R294, R416): key q, or 16 + 3·Door + VC. -/
def captureRegs (s : State) : Bank (Aud × Word) :=
  (List.range 16).map (fun q => (q, (audOf s q, BitVec.ofNat 32 (capOf s q)))) ++
  (List.range 48).map (fun k =>
    let d := bankGet s.link.doors (Door.reset false .absent) (k / 3)
    let g : Word := bankGet d.dcGiven 0 (k % 3)
    let b : Word := bankGet d.dcBack 0 (k % 3)
    (16 + k, (⟨g, b, g - b⟩, BitVec.ofNat 32 (bankGet d.txCred 0 (2 * (k % 3)) + bankGet d.txCred 0 (2 * (k % 3) + 1)))))

/-- The words that have crossed the PCIe PHY's FIFOs since the last capture (R35, Table 8.7): written and read, none left in them
between two steps. How many words a TLP makes the spec does not say: a free value (log entry 96). -/
def phyWords (s : State) : State := let r := freshNat s; audPass r.2 9 r.1

/-- Writing 1 to FREEZE while it reads 0 (R294 to R296). -/
def freezeCapture (s : State) : State :=
  if s.corr.freeze then s
  else let s := phyWords s; auditCheck { s with corr := { s.corr with freeze := true, captured := captureRegs s } }

/-- Writing 0 to FREEZE: live values again (R294). -/
def freezeRelease (s : State) : State := { s with corr := { s.corr with freeze := false, captured := [] } }

/-- FREEZE_CAPTURE: a software write, unless a reset discards it (R542). -/
def execFreezeCapture (s : State) : Host.Outcome State Fault Refusal :=
  .next (if blockOpen s clrCWIF then freezeCapture s else s)

/-- FREEZE_RELEASE. -/
def execFreezeRelease (s : State) : Host.Outcome State Fault Refusal :=
  .next (if blockOpen s clrCWIF then freezeRelease s else s)

/-- AUDIT_TIMER (R297): Yilium's own capture, from READY; it leaves FREEZE as it stands. -/
def execAuditTimer (s : State) : Host.Outcome State Fault Refusal := .next (if powered s && isReady s then auditCheck (phyWords s) else s)

end Sys2Proof.Machine
end

