-- ==== Sys2Proof/Machine/Link.lean ====
section
/-!
DEFINITION. Uhlore links (chapter 11): topology and routes, Doors and flits, credits, remote requests and their answers,
exports at the target, remote atomics, time-outs and link failure.
-/

namespace Sys2Proof.Machine

open Sys2Proof

/-! ### The topology table (Table 11.6) -/

/-- Direction-table entry i: 0 to 5 for +X, −X, +Y, −Y, +Z, −Z; 6 to 22 for members. -/
def Topo.dir (t : Topo) (i : Nat) : Nat := field t.bytes (0x40 + 4 * i) 4
/-- Override entry i. -/
def Topo.ovr (t : Topo) (i : Nat) : Nat := field t.bytes (0xC0 + 8 * i) 8
/-- Bits hi..lo of a word. -/
def bitsOf (v lo n : Nat) : Nat := (v >>> lo) % 2 ^ n
/-- Size of ring d (0 X, 1 Y, 2 Z), at least 1. -/
def Topo.ring (t : Topo) (d : Nat) : Nat := max 1 (match d with | 0 => t.dx | 1 => t.dy | _ => t.dz)
/-- Group size of the mode, at least 1. -/
def Topo.group (t : Topo) : Nat := if t.mode = 2 ∨ t.mode = 3 then max 1 t.m else 1
/-- Number of nodes. -/
def Topo.nodes (t : Topo) : Nat :=
  match t.mode with
  | 0 => 1
  | 1 => t.ring 0 * t.ring 1 * t.ring 2
  | 2 => t.group
  | _ => t.group * (t.ring 0 * t.ring 1 * t.ring 2)
/-- Member of a node in its group. -/
def Topo.member (t : Topo) (n : Nat) : Nat := n % t.group
/-- Coordinate d of a node. -/
def Topo.coord (t : Topo) (n d : Nat) : Nat :=
  let g := n / t.group
  match d with
  | 0 => g % t.ring 0
  | 1 => g / t.ring 0 % t.ring 1
  | _ => g / (t.ring 0 * t.ring 1)
/-- A node from its member and coordinates. -/
def Topo.nodeAt (t : Topo) (m x y z : Nat) : Nat := m + t.group * (x + t.ring 0 * (y + t.ring 1 * z))
/-- Dimensions that a mode routes. -/
def Topo.torusDims (t : Topo) : List Nat := if t.mode = 1 ∨ t.mode = 3 then (List.range 3).filter (· < t.dims) else []

/-- The checks of R440 on a table's bytes. -/
def topoOk (bs : List Byte) : Bool :=
  let mode := field bs 6 1
  let dims := field bs 7 1
  let dx := field bs 8 2
  let dy := field bs 10 2
  let dz := field bs 12 2
  let m := field bs 14 1
  let ring : Nat → Nat → Bool := fun d n => if d < dims then decide (2 ≤ n) && decide (n ≤ 256) else decide (n = 1)
  let loose : Nat → Nat → Bool := fun d n => if d < dims then decide (1 ≤ n) else decide (n = 1)
  let ones := decide (dx = 1) && decide (dy = 1) && decide (dz = 1)
  decide (bs.length = 704) && decide (field bs 0 4 = 0x4B585431) && decide (mode ≤ 3) && decide (dims ≤ 3) &&
  decide (crc32 (bs.take 0x3C ++ [0, 0, 0, 0] ++ bs.drop 0x40) = BitVec.ofNat 32 (field bs 0x3C 4)) &&
  (match mode with
   | 0 => ones && decide (m = 1)
   | 1 => decide (2 ≤ dims) && ring 0 dx && ring 1 dy && ring 2 dz && decide (m = 1) && decide (dx * dy * dz ≤ 65536)
   | 2 => ones && decide (2 ≤ m) && decide (m ≤ 17)
   | _ => decide (1 ≤ dims) && loose 0 dx && loose 1 dy && loose 2 dz && decide (1 ≤ m) && decide (m - 1 + 2 * dims ≤ 16) &&
      decide (m * (dx * dy * dz) ≤ 65536))

/-- A table from its bytes. -/
def parseTopo (bs : List Byte) : Topo :=
  { node := field bs 4 2, mode := field bs 6 1, dims := field bs 7 1, dx := field bs 8 2, dy := field bs 10 2,
    dz := field bs 12 2, m := field bs 14 1, check := BitVec.ofNat 32 (field bs 0x3C 4), bytes := bs }

/-- The neighbour of a node in direction i. -/
def Topo.neighbour (t : Topo) (me i : Nat) : Nat :=
  if i < 6 then
    let d := i / 2
    let n := t.ring d
    let c := t.coord me d
    let c' := if i % 2 = 0 then (c + 1) % n else (c + n - 1) % n
    let at_ : Nat → Nat := fun k => if k = d then c' else t.coord me k
    t.nodeAt (t.member me) (at_ 0) (at_ 1) (at_ 2)
  else t.nodeAt (i - 6) (t.coord me 0) (t.coord me 1) (t.coord me 2)

/-- Directions in use. -/
def Topo.dirs (t : Topo) (me : Nat) : List Nat :=
  t.torusDims.flatMap (fun d => [2 * d, 2 * d + 1]) ++
    (if t.mode = 2 ∨ t.mode = 3 then ((List.range t.group).filter (· ≠ t.member me)).map (· + 6) else [])

/-- The node that the table expects on a Door (R399): the neighbour of the direction that names it as DOOR, else of the
one that names it as ALT. -/
def Topo.expected (t : Topo) (me d : Nat) : Option Nat :=
  let main := (t.dirs me).find? (fun i => decide (bitsOf (t.dir i) 0 4 = d) && decide (bitsOf (t.dir i) 4 1 = 1))
  let alt := (t.dirs me).find? (fun i => decide (bitsOf (t.dir i) 8 4 = d) && decide (bitsOf (t.dir i) 12 1 = 1))
  (main.orElse (fun _ => alt)).map (t.neighbour me)

/-! ### Doors -/

/-- Door d. -/
def doorOf (s : State) (d : Nat) : Door := bankGet s.link.doors (Door.reset false .absent) d
/-- Change Door d. -/
def modDoor (s : State) (d : Nat) (f : Door → Door) : State :=
  { s with link := { s.link with doors := bankMod s.link.doors (Door.reset false .absent) d f } }
/-- Whether Door d is OPEN. -/
def doorOpen (s : State) (d : Nat) : Bool := decide ((doorOf s d).state = .open_)
/-- Receive buffers of a VC lane in flits (Table 11.3). -/
def vcBuf (v : Nat) : Nat := if v = 2 then 64 else if v < 2 then 128 else 0
/-- VC of a message type (Table 11.5). -/
def vcOf (mt : Nat) : Nat := if mt < 0x10 then 0 else if mt < 0x20 then 1 else 2
/-- Credits outstanding on VC v. -/
def dcLevel (x : Door) (v : Nat) : Word := bankGet x.dcGiven 0 v - bankGet x.dcBack 0 v

/-- Grant n credits of a VC lane to the partner: counted at once, sent in CRET. -/
def grantCred (s : State) (d code n : Nat) : State :=
  audTake (modDoor s d (fun x => { x with
    dcGiven := bankMod x.dcGiven 0 (code / 2) (· + BitVec.ofNat 32 n), owed := bankMod x.owed 0 code (· + n) })) 8 n

/-- Count n credits of a VC as returned. -/
def backCred (s : State) (d v n : Nat) : State :=
  audGive (modDoor s d (fun x => { x with dcBack := bankMod x.dcBack 0 v (· + BitVec.ofNat 32 n) })) 8 n

/-- Open a Door (R400): full buffers granted, RSP first; OPEN; LINK_UP. -/
def openDoor (s : State) (d : Nat) : State :=
  let s := [2, 3, 0, 1, 4, 5].foldl (fun s code => grantCred s d code (vcBuf (code / 2))) s
  let s := modDoor s d (fun x => { x with state := .open_, retrains := 0, rspFirst := true })
  raiseEvent s 0x40 noCtx d (doorOf s d).peer.toNat

/-- R399: a TRAINED Door is opened if the table expects its peer there; else MISWIRE. -/
def tryOpen (s : State) (d : Nat) : State :=
  match s.link.topo with
  | none => s
  | some t =>
    if (doorOf s d).state = .trained then
      let seen := (doorOf s d).peer.toNat
      if t.expected s.nodeId.toNat d = some seen then openDoor s d
      else
        let s := modDoor s d (fun x => { x with flags := x.flags ||| 2 })
        raiseEvent3 s 0x42 noCtx d seen ((t.expected s.nodeId.toNat d).getD 0xFFFF)
    else s

/-- Open every Door that R399 permits, in ascending order (R402). -/
def tryOpenAll (s : State) : State := (List.range 16).foldl tryOpen s

/-! ### Routes -/

/-- Where a message goes. -/
inductive Route where
  | here
  | via (door lane : Nat)
  | down
  deriving DecidableEq, Repr

/-- The table's choice for a destination: (DOOR, valid, ALT, ALT valid, lane), or local. The lane rule needs the Door and
lane that a forwarded message arrived by. -/
def tableRoute (t : Topo) (me dst : Nat) (arrival : Option (Nat × Nat)) : Option (Nat × Bool × Nat × Bool × Nat) :=
  let ent : Nat → Nat → Option (Nat × Bool × Nat × Bool × Nat) := fun i lane =>
    let e := t.dir i
    some (bitsOf e 0 4, decide (bitsOf e 4 1 = 1), bitsOf e 8 4, decide (bitsOf e 12 1 = 1), lane)
  match t.torusDims.find? (fun d => t.coord me d ≠ t.coord dst d) with
  | some d =>
    let n := t.ring d
    let fwd := (t.coord dst d + n - t.coord me d) % n
    let plus := decide (fwd ≤ n - fwd)
    let i := if plus then 2 * d else 2 * d + 1
    let wrap := if plus then decide (t.coord me d = n - 1) else decide (t.coord me d = 0)
    let same : Nat := match arrival with
      | some (a, ln) =>
        if [2 * d, 2 * d + 1].any (fun k => decide (bitsOf (t.dir k) 0 4 = a) || (decide (bitsOf (t.dir k) 8 4 = a) && decide (bitsOf (t.dir k) 12 1 = 1)))
        then ln else 0
      | none => 0
    ent i (if wrap then 1 else same)
  | none => ent (6 + t.member dst) 0

/-- Enabled override entries that match a destination, lowest first. -/
def ovrHits (t : Topo) (dst : Nat) : List Nat :=
  (List.range 64).filter (fun i => let e := t.ovr i
    decide (bitsOf e 48 1 = 1) && decide (bitsOf e 0 16 ≤ dst) && decide (dst ≤ bitsOf e 16 16))

/-- The Sketch of chapter 11: the primary Door, its ALT and the lane; none: local. -/
def planRoute (t : Topo) (me dst : Nat) (arrival : Option (Nat × Nat)) : Option (Nat × Bool × Nat × Bool × Nat) :=
  match ovrHits t dst with
  | i :: _ => let e := t.ovr i
    some (bitsOf e 32 4, true, bitsOf e 40 4, decide (bitsOf e 44 1 = 1), bitsOf e 36 1)
  | [] => if dst = me then none else tableRoute t me dst arrival

/-- The primary Door of a destination. -/
def primaryDoor (s : State) (dst : Nat) : Option Nat :=
  match s.link.topo with
  | some t => (planRoute t s.nodeId.toNat dst none).map (·.1)
  | none => none

/-- Requests on a route's ALT that have not been answered (R437). -/
def altBusy (s : State) (a : Nat) : Bool :=
  s.link.reqs.any (fun r => decide (primaryDoor s r.msg.dst = some a) && decide (r.door ≠ none) && decide (r.door ≠ some a))

/-- Count an override lookup that several entries match (R303). -/
def countOvr (s : State) (dst : Nat) : State :=
  match s.link.topo with
  | some t => if 2 ≤ (ovrHits t dst).length then
      { s with link := { s.link with flags := s.link.flags ||| 1, ovrmhCnt := s.link.ovrmhCnt + 1 } }
    else s
  | none => s

/-- A Door's routes change to ALT: ONALT, and ROUTE_ALT at the first message that takes it (R436). -/
def goAlt (s : State) (a b : Nat) : State :=
  if (doorOf s a).onAlt then s else modDoor (raiseEvent s 0x48 noCtx a b) a (fun x => { x with onAlt := true })

/-- The route of a message: the DOOR if OPEN, else the ALT if valid and OPEN, else DOWN. Without a table a node knows only
itself (R450: node 0). -/
def routeOf (s : State) (dst : Nat) (arrival : Option (Nat × Nat)) : State × Route :=
  match s.link.topo with
  | none => (s, if dst = s.nodeId.toNat then .here else .down)
  | some t =>
    let s := countOvr s dst
    match planRoute t s.nodeId.toNat dst arrival with
    | none => (s, .here)
    | some (a, va, b, vb, lane) =>
      if va && doorOpen s a then (s, .via a lane)
      else if vb && doorOpen s b then (if va then goAlt s a b else s, .via b lane)
      else (s, .down)

/-- Append a message to the send queue of a Door. -/
def enqueue (s : State) (d lane : Nat) (m : Msg) : State :=
  modDoor s d (fun x => { x with sendQ := bankMod x.sendQ [] (2 * vcOf m.mtype + lane) (· ++ [m]) })

/-- Deliver a message to this node. -/
def deliver (s : State) (d code : Nat) (flits : List Nat) (m : Msg) : State :=
  { s with link := { s.link with inbox := s.link.inbox ++ [⟨d, code, flits, m⟩] } }

/-- Send a message of this node: false when no route is up. New messages to a destination whose route returns from ALT wait
for the requests on the ALT (R437). -/
def sendMsg (s : State) (m : Msg) : State × Bool :=
  match routeOf s m.dst none with
  | (s, .here) => (deliver s 16 0 [] m, true)
  | (s, .via d lane) =>
    if (doorOf s d).onAlt && decide (primaryDoor s m.dst = some d) then
      if altBusy s d || s.link.held.any (fun e => decide (e.1 = d)) then ({ s with link := { s.link with held := s.link.held ++ [(d, m)] } }, true)
      else (enqueue (modDoor s d (fun x => { x with onAlt := false })) d lane m, true)
    else (enqueue s d lane m, true)
  | (s, .down) => (s, false)

/-! ### Remote requests (R414, R430 to R434) -/

/-- The outstanding request of a TAG. -/
def findReq (s : State) (tag : Nat) : Option RemReq := s.link.reqs.find? (fun r => r.tag = tag)
/-- Change the request of a TAG. -/
def modReq (s : State) (tag : Nat) (f : RemReq → RemReq) : State :=
  { s with link := { s.link with reqs := s.link.reqs.map (fun r => if r.tag = tag then f r else r) } }
/-- A request ends: its response buffer is given back. -/
def dropReq (s : State) (tag : Nat) : State :=
  audGive { s with link := { s.link with reqs := s.link.reqs.filter (fun r => r.tag ≠ tag) } } 2 1

/-- Raise the vector of a queue. -/
def raiseQueueVec (s : State) (q : Nat) : State :=
  match queueOf s q with
  | some x => raiseVec s x.vector
  | none => s

/-- A SIGNAL update is dropped (R373, R434). -/
def dropSignal (s : State) (ctx : Nat) : State := modCtx s ctx (fun c => { c with sigDrop := c.sigDrop + 1 })

/-- A request fails or times out (R433, R434, R436). -/
def failReq (s : State) (tag : Nat) : State :=
  match findReq s tag with
  | none => s
  | some r =>
    let s := dropReq s tag
    let d := (r.door.orElse (fun _ => primaryDoor s r.msg.dst)).getD 0
    let s := modDoor s d (fun x => { x with toutCnt := x.toutCnt + 1 })
    let s := { s with link := { s.link with flags := s.link.flags ||| 4 } }
    let s := raiseEvent s 0x45 noCtx r.msg.dst (r.tag + r.msg.mtype * 65536)
    match r.owner with
    | .stream sid _ => (match findStream s sid with | some x => endOp s x.op .aborted true | none => s)
    | .signal op irq => let s := dropSignal s r.ctx
      if irq then raiseQueueVec s op.1 else s
    | .red op => endOp s op .aborted true

/-- Send a request that is already in the list of requests. -/
def sendReq (s : State) (tag : Nat) (m : Msg) : State :=
  match sendMsg s m with
  | (s, true) => s
  | (s, false) => failReq s tag

/-- No route is up for a message not yet sent: its request fails (R436). -/
def failMsg (s : State) (m : Msg) : State :=
  match s.link.reqs.find? (fun r => r.msg = m) with
  | some r => failReq s r.tag
  | none => s

/-- Send a message that R437 held back; without a route its request fails (R436). -/
def sendHeld (s : State) (e : Nat × Msg) : State :=
  match sendMsg s e.2 with
  | (s, true) => s
  | (s, false) => failMsg s e.2

/-- Send what R437 held back, where its route is free now. -/
def releaseHeld (s : State) : State := s.link.held.foldl sendHeld { s with link := { s.link with held := [] } }

/-- The TAG of the next request: the first that no outstanding request holds. -/
def freeTag (s : State) : Nat :=
  (((List.range (s.link.reqs.length + 1)).map (fun k => (s.link.nextTag + k) % 65536)).find? (fun k =>
    s.link.reqs.all (fun r => decide (r.tag ≠ k)))).getD 0

/-- A new remote request (R414, R430): it holds a response buffer until its answer. -/
def newReq (s : State) (mt cls atop dst addr len : Nat) (data : List Byte) (owner : RemOwner) (va ctx : Nat) : State :=
  let tag := freeTag s
  let m : Msg := { mtype := mt, cls := cls, atop := atop, status := 0, src := s.nodeId.toNat, dst := dst, tag := tag, addr := addr,
                   len := len, data := data }
  let r : RemReq := { tag := tag, msg := m, door := none, owner := owner, va := va, ctx := ctx, retries := 0, backoff := false }
  let s := { s with link := { s.link with reqs := s.link.reqs ++ [r], nextTag := (tag + 1) % 65536 } }
  sendReq (audTake s 2 1) tag m

/-- ADDR of a request to an export: index and byte offset (Table 11.4). -/
def expAddr (export_ off : Nat) : Nat := export_ * 2 ^ 42 + off % 2 ^ 42

/-! ### Messages in flits (Tables 11.2 and 11.4) -/

/-- A message's bytes. -/
def msgBytes (m : Msg) : List Byte :=
  [BitVec.ofNat 8 m.mtype, BitVec.ofNat 8 (m.cls + 4 * m.atop + 16 * m.status)] ++ toBytes 2 m.len ++ toBytes 2 m.src ++ toBytes 2 m.dst ++
    toBytes 2 m.tag ++ toBytes 6 m.addr ++ m.data

/-- Data bytes that follow a header. -/
def dataLen (bs : List Byte) : Nat := if field bs 0 1 = 1 then 0 else field bs 2 2

/-- A message from its bytes. -/
def parseMsg (bs : List Byte) : Msg :=
  { mtype := field bs 0 1, cls := field bs 1 1 % 4, atop := field bs 1 1 / 4 % 4, status := field bs 1 1 / 16, src := field bs 4 2,
    dst := field bs 6 2, tag := field bs 8 2, addr := field bs 10 6, len := field bs 2 2, data := (bs.drop 16).take (dataLen bs) }

/-- Whole messages at the front of a lane's bytes, and what is left. -/
def splitMsgs : Nat → List Byte → List Msg × List Byte
  | 0, bs => ([], bs)
  | n + 1, bs =>
    if bs.length < 16 ∨ bs.length < 16 + dataLen bs then ([], bs)
    else
      let r := splitMsgs n (bs.drop (16 + dataLen bs))
      (parseMsg bs :: r.1, r.2)

/-- A flit's bytes, with its CRC. -/
def flitBytes (f : Flit) : List Byte :=
  let head := [BitVec.ofNat 8 (f.vc + 4 * f.lane + (if f.nak then 8 else 0) + (if f.null then 16 else 0)), BitVec.ofNat 8 f.payload.length] ++
    toBytes 2 f.seq ++ toBytes 2 f.ack ++ f.cret.map (BitVec.ofNat 8) ++ [BitVec.ofNat 8 f.clane, 0, 0]
  let body := f.payload ++ List.replicate (240 - f.payload.length) 0
  head ++ toBytes 4 (crc32 (head ++ body)).toNat ++ body

/-- A flit from 256 bytes; none when its CRC is wrong. -/
def parseFlit (bs : List Byte) : Option Flit :=
  if bs.length = 256 ∧ crc32 (bs.take 12 ++ bs.drop 16) = BitVec.ofNat 32 (field bs 12 4) then
    let b := field bs 0 1
    some { vc := b % 4, lane := b / 4 % 2, nak := b.testBit 3, null := b.testBit 4, seq := field bs 2 2 % 4096, ack := field bs 4 2 % 4096,
           cret := [field bs 6 1, field bs 7 1, field bs 8 1], clane := field bs 9 1 % 2,
           payload := if b.testBit 4 then [] else (bs.drop 16).take (min 240 (field bs 1 1)) }
  else none

/-- A message that has arrived whole on a Door: forwarded, or delivered here with the flit buffers that hold it. -/
def arrive (d code : Nat) (s : State) (e : List Nat × Msg) : State :=
  match routeOf s e.2.dst (some (d, code % 2)) with
  | (s, .here) => deliver s d code e.1 e.2
  | (s, .via o lane) => enqueue s o lane e.2
  | (s, .down) => s

/-- Of some flit buffers of a Door's VC lane, those that hold no byte any more: their credits return (R413). -/
def freeFlits (s : State) (d code : Nat) (ids : List Nat) : State :=
  let gone := ids.filter (fun i =>
    !(s.link.inbox.any (fun e => decide (e.door = d) && decide (e.code = code) && e.flits.contains i)) &&
    !((bankGet (doorOf s d).rxFlits [] code).contains i))
  if gone.isEmpty then s else grantCred s d code gone.length

/-- Hand over the messages that a flit completes (R406). The first of them also lies in the flits that held its first bytes. A
flit that took no credit of this opening (`credit` false, R439) holds none. -/
def handOver (s : State) (d code : Nat) (f : Flit) (credit : Bool) : State :=
  let x := doorOf s d
  let old := bankGet x.rxBuf [] code
  let r := splitMsgs 240 (old ++ f.payload)
  let held := bankGet x.rxFlits [] code
  let this := if credit then [x.rxIx] else []
  let rest := if r.2.isEmpty then [] else if r.1.isEmpty then held ++ this else this
  let s := modDoor s d (fun x => { x with
    rxBuf := bankPut x.rxBuf code r.2, rxFlits := bankPut x.rxFlits code rest, rxIx := x.rxIx + 1 })
  let ms := r.1.zipIdx.map (fun e => (if e.2 = 0 && !old.isEmpty then held ++ this else this, e.1))
  freeFlits (ms.foldl (arrive d code) s) d code (held ++ this)

/-- ACK and credits of an accepted flit (R403, R405). -/
def takeAck (s : State) (d : Nat) (f : Flit) : State :=
  modDoor s d (fun x =>
    let cred : Bank Nat → Nat → Bank Nat := fun b v => bankMod b 0 (2 * v + f.clane) (· + f.cret.getD v 0)
    { x with replay := x.replay.filter (fun g => ¬ ((f.ack + 4096 - g.1.seq) % 4096 < 2048)),
             txCred := [0, 1, 2].foldl cred x.txCred })

/-- A received NAK (R404): every flit after the acknowledged SEQ is sent again in order. -/
def doReplay (s : State) (d : Nat) : State :=
  let again := (doorOf s d).replay
  let s := again.foldl (fun s f => emit s (.flit d f.1)) s
  if again.isEmpty then s
  else modDoor s d (fun x => { x with
    replayCnt := x.replayCnt + BitVec.ofNat 32 again.length, flags := x.flags ||| 8, replay := again.map (fun g => (g.1, g.2 + 1)) })

/-- A LINK flit: one that is not NULL names the peer's node (R398; its payload, log entry 102). -/
def takeLink (s : State) (d : Nat) (f : Flit) : State :=
  if f.null || decide (f.payload.length < 3) then s
  else modDoor s d (fun x => { x with peer := BitVec.ofNat 16 (field f.payload 0 2) })

/-- An accepted flit (R404 to R406, R413). A message that the partner sent before it knew of a LINK_CLOSE is still delivered
(R406, R439), though its credit is withdrawn. -/
def acceptFlit (s : State) (d : Nat) (f : Flit) : State :=
  let s := modDoor s d (fun x => { x with expSeq := (x.expSeq + 1) % 4096, nakSent := false, rxFlit := x.rxFlit + 1 })
  let s := takeAck s d f
  let s := if f.nak then doReplay s d else s
  if f.vc = 3 then takeLink s d f
  else if doorOpen s d then handOver (backCred s d f.vc 1) d (2 * f.vc + f.lane) f true
  else handOver s d (2 * f.vc + f.lane) f false

/-- A discarded flit: one NAK for each gap (R404). -/
def discardFlit (s : State) (d : Nat) : State :=
  modDoor s d (fun x => if x.nakSent then x else { x with nakSent := true, sendNak := true })

/-- The codewords that FEC corrected and could not correct (FECCORR, FECUNC, Table 11.10); a correction counts in the failure
record's CECNT too (Table 13.3). -/
def countFec (s : State) (d corr unc : Nat) : State :=
  modDoor { s with nvm := { s.nvm with frecSum := { s.nvm.frecSum with ceCnt := min 0xFFFFFFFF (s.nvm.frecSum.ceCnt + corr) } } } d
    (fun x => { x with fecCorr := x.fecCorr + BitVec.ofNat 32 corr, fecUnc := x.fecUnc + BitVec.ofNat 32 unc })

/-- FLIT_RECEIVE (R404, Table 11.10). -/
def execFlitReceive (d : Fin 16) (fecCorr fecUnc : Nat) (flit : List Byte) (s : State) : Host.Outcome State Fault Refusal :=
  let x := doorOf s d.val
  .next (if powered s && (decide (x.state = .open_) || decide (x.state = .trained)) then
    let s := countFec s d.val fecCorr fecUnc
    match parseFlit flit with
    | none => discardFlit (modDoor s d.val (fun x => { x with crcCnt := x.crcCnt + 1, flags := x.flags ||| 4 })) d.val
    | some f => if f.seq = x.expSeq then acceptFlit (audPass s 9 32) d.val f else discardFlit s d.val
  else s)

/-! ### Sending flits (R401, R403, R405, R409, R413) -/

/-- Flits that a message of n bytes opens when it starts at an offset of the current flit. -/
def flitsOf (off n : Nat) : Nat := (off + n + 239) / 240 - 1

/-- The place of VC v of a Door's transmitter in the arbitration of R279 and R280 (R409). -/
def doorPlace (d v : Nat) : Nat := 128 + 16 * v + d

/-- The next message of each class in a lane that its credits allow to start at an offset of the current flit. -/
def laneHeads (x : Door) (code off cred : Nat) : List (Nat × Msg) :=
  [0, 1, 2, 3].filterMap (fun c =>
    match (bankGet x.sendQ [] code).find? (fun m => decide (m.cls = c)) with
    | some m => if flitsOf off (msgBytes m).length ≤ cred then some (c, m) else none
    | none => none)

/-- Where a lane's next flit starts new messages: behind the bytes of the message begun, with the credits beyond that; none
without a credit. -/
def laneStart (x : Door) (code : Nat) : Option (Nat × Nat) :=
  let cred := bankGet x.txCred 0 code
  let n := (bankGet x.partTx [] code).length
  if cred = 0 then none else some (n, cred - 1 - flitsOf 0 n)

/-- The requesters of a lane, as class and lane. -/
def laneReqs (x : Door) (code : Nat) : List (Nat × Nat) :=
  match laneStart x code with
  | some (o, c) => (laneHeads x code o c).map (fun h => (h.1, code % 2))
  | none => []

/-- Everything that waits on a VC of a Door, as class and lane. -/
def vcWaits (x : Door) (v : Nat) : List (Nat × Nat) :=
  [2 * v, 2 * v + 1].flatMap (fun code => (bankGet x.sendQ [] code).map (fun m => (m.cls, code % 2)))

/-- The lane that a VC sends next: that of a C0 message, else one with a message begun, else by rounds and pointer (R409). -/
def vcLane (s : State) (d : Nat) (x : Door) (v : Nat) : Option Nat :=
  let rs := laneReqs x (2 * v) ++ laneReqs x (2 * v + 1)
  let begun := [2 * v, 2 * v + 1].find? (fun k => !(bankGet x.partTx [] k).isEmpty && decide (0 < bankGet x.txCred 0 k))
  let next := (arbNext s (doorPlace d v) 2 rs).map (fun g => 2 * v + g.2)
  if reqWaits rs 0 then next else begun.orElse (fun _ => next)

/-- The lane to send next: RSP, RED, REQ (R409). -/
def pickLane (s : State) (d : Nat) (x : Door) : Option Nat := [1, 2, 0].findSome? (vcLane s d x)

/-- Fill a flit of a lane while the VC's next grant is the lane's: fuel, state with the grants counted, the Door with its queue
left, payload so far, credits left beyond this flit, messages started. -/
def fillFlit (d code : Nat) : Nat → State → Door → List Byte → Nat → List Msg → State × List Byte × List Msg
  | 0, s, _, pay, _, st => (s, pay, st)
  | n + 1, s, x, pay, cred, st =>
    let heads := laneHeads x code pay.length cred
    let rs := heads.map (fun h => (h.1, code % 2)) ++ laneReqs x (code ^^^ 1)
    match (if 240 ≤ pay.length then none else arbNext s (doorPlace d (code / 2)) 2 rs) with
    | none => (s, pay, st)
    | some g =>
      match (if g.2 = code % 2 then heads.find? (fun h => decide (h.1 = g.1)) else none) with
      | none => (s, pay, st)
      | some (c, m) =>
        let y := { x with sendQ := bankMod x.sendQ [] code (fun q => q.erase m) }
        let s := arbTake s (doorPlace d (code / 2)) 2 c (code % 2) rs (vcWaits y (code / 2))
        let b := msgBytes m
        fillFlit d code n s y (pay ++ b) (cred - flitsOf pay.length b.length) (st ++ [m])

/-- Send one flit of a Door with the given VC, lane and payload: sequence number, ACK, NAK and the credits owed on one lane; of
those that the opening grants, RSP first (R400). -/
def sendFlit (s : State) (d vc lane : Nat) (null : Bool) (payload : List Byte) : State :=
  let x := doorOf s d
  let owed : Nat → Nat → Nat := fun v l => if x.rspFirst && decide (v ≠ 1) then 0 else min 255 (bankGet x.owed 0 (2 * v + l))
  let cl := if [0, 1, 2].any (fun v => decide (0 < owed v 0)) then 0 else 1
  let cr := [owed 0 cl, owed 1 cl, owed 2 cl]
  let f : Flit := { vc := vc, lane := lane, nak := x.sendNak, null := null, seq := x.nextSeq, ack := (x.expSeq + 4095) % 4096, cret := cr,
                    clane := cl, payload := payload }
  let left := [0, 1, 2].foldl (fun (b : Bank Nat) v => bankMod b 0 (2 * v + cl) (· - cr.getD v 0)) x.owed
  let s := modDoor s d (fun x => { x with
    nextSeq := (x.nextSeq + 1) % 4096, sendNak := false, replay := x.replay ++ [(f, 0)], txFlit := x.txFlit + 1, owed := left,
    rspFirst := x.rspFirst && decide (bankGet left 0 2 + bankGet left 0 3 ≠ 0) })
  emit (audPass s 9 32) (.flit d f)

/-- The identity that a LINK flit carries (R398): node ID and Door number; the spec gives no layout (log entry 102). -/
def linkIdentity (s : State) (d : Nat) : List Byte := toBytes 2 s.nodeId.toNat ++ [BitVec.ofNat 8 d]

/-- Send a LINK flit with the identity (R398, R409). -/
def sendLink (s : State) (d : Nat) : State :=
  sendFlit (modDoor s d (fun x => { x with linkDue := false })) d 3 0 false (linkIdentity s d)

/-- A request message of this node starts its way through a Door (R430). -/
def markSent (d : Nat) (s : State) (m : Msg) : State :=
  if vcOf m.mtype = 0 ∧ m.src = s.nodeId.toNat then modReq s m.tag (fun r => { r with door := some d })
  else if m.mtype = 0x21 ∧ m.src = s.nodeId.toNat then
    { s with link := { s.link with reqs := s.link.reqs.map (fun r => if r.msg = m then { r with door := some d } else r) } }
  else s

/-- Send the next flit of messages of a lane (R413), of what the Door may send: `y`. -/
def sendLane (s : State) (d code : Nat) (y : Door) : State :=
  match laneStart y code with
  | none => s
  | some (_, cred) =>
    let part := bankGet y.partTx [] code
    let r := fillFlit d code ((bankGet y.sendQ [] code).length + 1) s y part cred []
    let s := modDoor r.1 d (fun x => { x with
      sendQ := bankMod x.sendQ [] code (fun q => r.2.2.foldl (fun q m => q.erase m) q),
      partTx := bankPut x.partTx code (r.2.1.drop 240), txCred := bankMod x.txCred 0 code (· - 1) })
    sendFlit (r.2.2.foldl (markSent d) s) d (code / 2) (code % 2) false (r.2.1.take 240)

/-- LINK_CLOSE (0x93) waits on a Door: new requests and partials stop, answers go on (R439). -/
def doorClosing (s : State) (d : Nat) : Bool :=
  s.mboxes.any (fun e => e.2.busy && decide (e.2.req.nat 0x10 2 = 0x93) && decide (0 < e.2.req.nat 0x14 1) && (e.2.req.nat 0x18 8).testBit d)
/-- What a Door may send now: while it closes, answers and the rest of messages begun. -/
def sendable (s : State) (d : Nat) (x : Door) : Door :=
  if doorClosing s d then { x with sendQ := x.sendQ.filter (fun e => e.1 = 2 ∨ e.1 = 3) } else x

/-- A Door may send a flit: trained or OPEN, and fewer than 512 flits unacknowledged (R403). -/
def maySend (s : State) (d : Nat) : Bool :=
  let x := doorOf s d
  powered s && (decide (x.state = .open_) || decide (x.state = .trained)) && decide (x.replay.length < 512)

/-- FLIT_TRANSMIT (R398, R403, R409, R413, R439): a LINK flit that is due, else messages of an OPEN Door. -/
def execFlitTransmit (d : Fin 16) (s : State) : Host.Outcome State Fault Refusal :=
  let x := doorOf s d.val
  let y := sendable s d.val x
  .next (if !(maySend s d.val) then s
    else if x.linkDue then sendLink s d.val
    else if doorOpen s d.val then
      match pickLane s d.val y with
      | some code => sendLane s d.val code y
      | none => s
    else s)

/-- NULL_FLIT_TIMER (R398, R405): with no message to send, a NULL flit on the LINK VC; while TRAINED, one with the identity. -/
def execNullFlitTimer (d : Fin 16) (s : State) : Host.Outcome State Fault Refusal :=
  let x := doorOf s d.val
  .next (if !(maySend s d.val) then s
    else if x.linkDue || !(doorOpen s d.val) then sendLink s d.val
    else if (pickLane s d.val (sendable s d.val x)).isSome then s
    else sendFlit s d.val 3 0 true [])

/-! ### Bring-up and link failure (R397 to R400, R407, R408, R435 to R438) -/

/-- DOOR_TRAINED (R397 to R399). -/
def execDoorTrained (d : Fin 16) (peer : Half) (s : State) : Host.Outcome State Fault Refusal :=
  .next (if powered s && decide ((doorOf s d.val).state = .training) then
    let s := modDoor s d.val (fun x => { x with state := .trained, peer := peer, linkDue := true, retry := false })
    if isReady s then tryOpen s d.val else s
  else s)

/-- A Door's link state cleared: credits freed (R435), buffers emptied. -/
def clearDoor (s : State) (d : Nat) : State :=
  let s := [0, 1, 2].foldl (fun s v => backCred s d v (dcLevel (doorOf s d) v).toNat) s
  let s := { s with link := { s.link with inbox := s.link.inbox.filter (fun e => e.door ≠ d) } }
  modDoor s d (fun x => { x with
    txCred := [], sendQ := [], partTx := [], replay := [], nextSeq := 0, expSeq := 0, nakSent := false, sendNak := false,
    rxBuf := [], rxFlits := [], owed := [], rspFirst := false, linkDue := false, onAlt := false })

/-- A message that a Door had not sent takes its ALT route, or its request fails (R436). -/
def reroute (s : State) (m : Msg) : State :=
  match routeOf s m.dst none with
  | (s, .via o lane) => enqueue s o lane m
  | (s, .here) => deliver s 16 0 [] m
  | (s, .down) => failMsg s m

/-- A Door goes DOWN (R435, R436): sent requests fail at once, unsent messages go by ALT or fail. -/
def downDoor (s : State) (d cause : Nat) : State :=
  let unsent := [2, 3, 4, 5, 0, 1].flatMap (fun code => bankGet (doorOf s d).sendQ [] code)
  let sent := (s.link.reqs.filter (fun r => r.door = some d)).map (·.tag)
  let s := clearDoor s d
  let s := modDoor s d (fun x => { x with state := .down, flags := x.flags ||| 1 })
  let s := raiseEvent s 0x41 noCtx d cause
  let s := sent.foldl failReq s
  releaseHeld (unsent.foldl reroute s)

/-- DOOR_DOWN (R407, R435): alignment lost, replay exhausted (8 replays of one flit), or silence, while the link is up. -/
def execDoorDown (d : Fin 16) (cause : Fin 5) (s : State) : Host.Outcome State Fault Refusal :=
  let x := doorOf s d.val
  .next (if powered s && (decide (x.state = .open_) || decide (x.state = .trained)) &&
      (decide (cause.val = 1) || decide (cause.val = 3) || (decide (cause.val = 2) && x.replay.any (fun g => decide (8 ≤ g.2)))) then
    downDoor s d.val cause.val
  else s)

/-- DOOR_RETRAIN (R438): a retraining of a DOWN Door begins; or it fails, and the Door is DOWN again; after the third failure the
Door is DISABLED. -/
def execDoorRetrain (d : Fin 16) (fails : Bool) (s : State) : Host.Outcome State Fault Refusal :=
  let x := doorOf s d.val
  .next (if powered s && (decide (x.state = .down) || (decide (x.state = .training) && x.retry)) then
    if fails then
      let s := modDoor s d.val (fun x => { x with state := .down, retrains := x.retrains + 1, retry := false })
      if 3 ≤ x.retrains + 1 then
        let s := modDoor s d.val (fun x => { x with state := .disabled })
        addFrec (raiseEvent s 0x43 noCtx d.val 0) 17 0 d.val d.val 0 noCtx
      else s
    else modDoor s d.val (fun x => { x with state := .training, retry := true })
  else s)

/-- LINK_DEGRADED (R408): the corrected-codeword rate of 10 s of a Door whose PCS runs; raised once until it has fallen below the
level. -/
def execLinkDegraded (d : Fin 16) (rate : Long) (s : State) : Host.Outcome State Fault Refusal :=
  let x := doorOf s d.val
  .next (if powered s && (decide (x.state = .open_) || decide (x.state = .trained)) then
    if 100000 < rate.toNat then
      if x.degraded then s
      else raiseEvent (modDoor s d.val (fun x => { x with degraded := true, flags := x.flags ||| 16 })) 0x44 noCtx d.val rate.toNat
    else if rate.toNat < 100000 then modDoor s d.val (fun x => { x with degraded := false })
    else s
  else s)

/-! ### Serving requests of other nodes (R411, R417 to R429) -/

/-- Received messages whose turn it is: of one node and class, requests are taken in their order of issue, and so are RED messages
(R275, R406, R410). The messages already looked at come first. -/
def inTurn : List InMsg → List InMsg → List InMsg
  | _, [] => []
  | seen, e :: t =>
    let v := vcOf e.msg.mtype
    let late := decide (v ≠ 1) && seen.any (fun u => decide (vcOf u.msg.mtype = v) && decide (u.msg.src = e.msg.src) && decide (u.msg.cls = e.msg.cls))
    if late then inTurn (e :: seen) t else e :: inTurn (e :: seen) t

/-- Take a received message: the flit buffers that it leaves empty return their credits (R413). -/
def takeIn (s : State) (e : InMsg) : Nat × Msg × State :=
  let s := { s with link := { s.link with inbox := s.link.inbox.erase e } }
  (e.door, e.msg, if e.door < 16 then freeFlits s e.door e.code e.flits else s)

/-- Take the first received message of a type whose turn it is: its Door, the message. -/
def takeMsg (s : State) (mt : Nat) : Option (Nat × Msg × State) :=
  ((inTurn [] s.link.inbox).find? (fun e => decide (e.msg.mtype = mt))).map (takeIn s)

/-- Answer a request. -/
def answer (s : State) (m : Msg) (mt st : Nat) (addr : Nat) (data : List Byte) : State :=
  (sendMsg s { mtype := mt, cls := m.cls, atop := 0, status := st, src := s.nodeId.toNat, dst := m.src, tag := m.tag, addr := addr,
               len := data.length, data := data }).1

/-- What an access to an export meets (R419): a context and address, or a STATUS. -/
def exportAt (s : State) (m : Msg) (n : Nat) (write atom : Bool) : Nat ⊕ (Nat × Nat) :=
  match bankFind s.link.exports (m.addr / 2 ^ 42 % 64) with
  | none => .inl 1
  | some e =>
    let off := m.addr % 2 ^ 42
    if m.src < e.lo ∨ e.hi < m.src ∨ e.pages * 0x10000 < off + n then .inl 1
    else if !write && !e.r then .inl 2
    else if write && (!e.w || (atom && !e.atom)) then .inl 3
    else .inr (e.ctx, e.va + off)

/-- The device pieces of a target access: (physical address, bytes), or the code of its first fault. -/
def targetPieces (s : State) (ctx : Nat) (write : Bool) : List (Nat × Nat) → Nat ⊕ List (Nat × Nat)
  | [] => .inr []
  | (va, n) :: t =>
    match xlTest s ctx va write with
    | .fault c => .inl c.code
    | .ok m =>
      match m.at va with
      | .dev pa => (match targetPieces s ctx write t with | .inl c => .inl c | .inr r => .inr ((pa, n) :: r))
      | _ => .inl 1

/-- Corridor target ports: 0 the Larder, 1 + k the controller of stack k, 5 the host interface, 6 the links. -/
def portOf (s : State) : Target → Nat
  | .dev pa => if inLarder pa then 0 else 1 + stackOf s pa
  | .host _ => 5
  | .remote _ _ _ => 6

/-- The target port of a request of another node; none where it is answered without an access (R419). -/
def farPort (s : State) (m : Msg) : Option Nat :=
  let n := if m.mtype = 0x01 then m.len else if m.mtype = 0x02 then m.data.length else 8
  let wr := decide (m.mtype ≠ 0x01)
  match exportAt s m n wr (decide (m.mtype = 0x03)) with
  | .inl _ => none
  | .inr (ctx, va) =>
    match targetPieces s ctx wr (vaChunks va n) with
    | .inr ((pa, _) :: _) => some (portOf s (.dev pa))
    | _ => none

/-- The class of another node's request at its target's Corridor: its own, but C0 is served as C1 (R411). -/
def farCls (m : Msg) : Nat := max 1 m.cls

/-- Requests of other nodes at a target port, without tokens (R412), with class and requester 64 + Door (R411). -/
def farReqs (s : State) (p : Nat) : List (Bool × Nat × Nat) :=
  ((inTurn [] s.link.inbox).filter (fun e => decide (e.msg.mtype ≤ 3) && decide (farPort s e.msg = some p))).map
    (fun e => (false, farCls e.msg, 64 + e.door))

/-! ### Answers at the requester (R420, R424, R428 to R434) -/

/-- An answer that lost to its timeout (R432). -/
def lateRsp (s : State) (d : Nat) : State := if d < 16 then modDoor s d (fun x => { x with lateRsp := x.lateRsp + 1 }) else s

/-- A remote SIGNAL by max is a CAS repeated with the value found until the word is not below the cookie. -/
def signalAgain (r : RemReq) (old : Nat) : Bool :=
  decide (r.msg.atop = 2) && decide (old ≠ field r.msg.data 8 8) && decide (old < field r.msg.data 0 8)

/-- ATRSP (R424): the old value ends the SIGNAL; a STATUS drops it. -/
def execAtrsp (s : State) : Host.Outcome State Fault Refusal :=
  .next (match takeMsg s 0x12 with
    | none => s
    | some (d, m, s) =>
      match findReq s m.tag with
      | none => lateRsp s d
      | some r =>
        let s := releaseHeld (dropReq s m.tag)
        match r.owner with
        | .signal op irq =>
          if m.status = 0 ∧ signalAgain r (fromBytes m.data) then
            newReq s 0x03 r.msg.cls 2 r.msg.dst r.msg.addr 16 (r.msg.data.take 8 ++ m.data.take 8) r.owner r.va r.ctx
          else
            let s := if m.status = 0 then s else dropSignal s r.ctx
            if irq then raiseQueueVec s op.1 else s
        | _ => s)

/-- RETRY (R428): the requester backs off. -/
def execRetry (s : State) : Host.Outcome State Fault Refusal :=
  .next (match takeMsg s 0x13 with
    | none => s
    | some (d, m, s) =>
      match findReq s m.tag with
      | none => lateRsp s d
      | some _ =>
        let s := if d < 16 then modDoor s d (fun x => { x with retryRx := x.retryRx + 1 }) else s
        modReq s m.tag (fun r => { r with retries := r.retries + 1, backoff := true }))

/-- ATOM_RESEND (R428): after the 32nd RETRY as ATOMQ. -/
def execAtomResend (tag : Nat) (s : State) : Host.Outcome State Fault Refusal :=
  .next (match findReq s tag with
    | some r =>
      if r.backoff then
        let m := { r.msg with mtype := if 32 ≤ r.retries then 0x04 else 0x03 }
        sendReq (releaseHeld (modReq s tag (fun r => { r with backoff := false, door := none, msg := m }))) tag m
      else s
    | none => s)

/-- Whether the response timer of a request runs: transmitted, and not in back-off (R430). -/
def timerRuns (s : State) (r : RemReq) : Bool := (r.door.isSome || decide (r.msg.dst = s.nodeId.toNat)) && !r.backoff

/-- REMOTE_TIMEOUT (R433). -/
def execRemoteTimeout (tag : Nat) (s : State) : Host.Outcome State Fault Refusal :=
  .next (match findReq s tag with
    | some r => if timerRuns s r then releaseHeld (failReq s tag) else s
    | none => s)

end Sys2Proof.Machine
end

