-- ==== Sys2Proof/Machine/Radiator.lean ====
section
/-!
DEFINITION. The Radiator and its generators, the lock-in loop, and the AUX outputs (chapter 5).
-/

namespace Sys2Proof.Machine

open Sys2Proof

/-! ### The sine table (chapter 5: T[k] = round-half-even(32,767 × sin(2πk / 1,024))) -/

/-- Entries 0 to 31 of the first quarter of T. -/
def sineQ0 : List Nat :=
  [0, 201, 402, 603, 804, 1005, 1206, 1407, 1608, 1809, 2009, 2210, 2410, 2611, 2811, 3012,
    3212, 3412, 3612, 3811, 4011, 4210, 4410, 4609, 4808, 5007, 5205, 5404, 5602, 5800, 5998, 6195]

/-- Entries 32 to 63 of the first quarter of T. -/
def sineQ1 : List Nat :=
  [6393, 6590, 6786, 6983, 7179, 7375, 7571, 7767, 7962, 8157, 8351, 8545, 8739, 8933, 9126, 9319,
    9512, 9704, 9896, 10087, 10278, 10469, 10659, 10849, 11039, 11228, 11417, 11605, 11793, 11980, 12167, 12353]

/-- Entries 64 to 95 of the first quarter of T. -/
def sineQ2 : List Nat :=
  [12539, 12725, 12910, 13094, 13279, 13462, 13645, 13828, 14010, 14191, 14372, 14553, 14732, 14912, 15090, 15269,
    15446, 15623, 15800, 15976, 16151, 16325, 16499, 16673, 16846, 17018, 17189, 17360, 17530, 17700, 17869, 18037]

/-- Entries 96 to 127 of the first quarter of T. -/
def sineQ3 : List Nat :=
  [18204, 18371, 18537, 18703, 18868, 19032, 19195, 19357, 19519, 19680, 19841, 20000, 20159, 20317, 20475, 20631,
    20787, 20942, 21096, 21250, 21403, 21554, 21705, 21856, 22005, 22154, 22301, 22448, 22594, 22739, 22884, 23027]

/-- Entries 128 to 159 of the first quarter of T. -/
def sineQ4 : List Nat :=
  [23170, 23311, 23452, 23592, 23731, 23870, 24007, 24143, 24279, 24413, 24547, 24680, 24811, 24942, 25072, 25201,
    25329, 25456, 25582, 25708, 25832, 25955, 26077, 26198, 26319, 26438, 26556, 26674, 26790, 26905, 27019, 27133]

/-- Entries 160 to 191 of the first quarter of T. -/
def sineQ5 : List Nat :=
  [27245, 27356, 27466, 27575, 27683, 27790, 27896, 28001, 28105, 28208, 28310, 28411, 28510, 28609, 28706, 28803,
    28898, 28992, 29085, 29177, 29268, 29358, 29447, 29534, 29621, 29706, 29791, 29874, 29956, 30037, 30117, 30195]

/-- Entries 192 to 223 of the first quarter of T. -/
def sineQ6 : List Nat :=
  [30273, 30349, 30424, 30498, 30571, 30643, 30714, 30783, 30852, 30919, 30985, 31050, 31113, 31176, 31237, 31297,
    31356, 31414, 31470, 31526, 31580, 31633, 31685, 31736, 31785, 31833, 31880, 31926, 31971, 32014, 32057, 32098]

/-- Entries 224 to 255 of the first quarter of T. -/
def sineQ7 : List Nat :=
  [32137, 32176, 32213, 32250, 32285, 32318, 32351, 32382, 32412, 32441, 32469, 32495, 32521, 32545, 32567, 32589,
    32609, 32628, 32646, 32663, 32678, 32692, 32705, 32717, 32728, 32737, 32745, 32752, 32757, 32761, 32765, 32766]

/-- Entries 256 to 256 of the first quarter of T. -/
def sineQ8 : List Nat :=
  [32767]

/-- The first quarter of T, entries 0 to 256. -/
def sineQuarter : List Nat := sineQ0 ++ sineQ1 ++ sineQ2 ++ sineQ3 ++ sineQ4 ++ sineQ5 ++ sineQ6 ++ sineQ7 ++ sineQ8

/-- T[k], by the symmetry of the sine. -/
def sineT (k : Nat) : Int :=
  let k := k % 1024
  if k ≤ 256 then (sineQuarter.getD k 0 : Nat)
  else if k ≤ 512 then (sineQuarter.getD (512 - k) 0 : Nat)
  else if k ≤ 768 then -((sineQuarter.getD (k - 512) 0 : Nat) : Int)
  else -((sineQuarter.getD (1024 - k) 0 : Nat) : Int)

/-- The dither d of a generator at a tick (R175). -/
def genOut (g : Gen) : Int :=
  (sineT ((g.phase + g.phoff) >>> 22).toNat * (g.amp.toNat : Int)) / 32768

/-- A generator at a tick: it outputs d, and its phase advances (R175). -/
def Gen.step (g : Gen) : Gen := { g with d := genOut g, phase := g.phase + g.ftw }

/-- Heater generator g and AUX generator a. -/
def sgOf (t : Thermo) (g : Nat) : Gen := bankGet t.sg Gen.reset g
def agOf (t : Thermo) (a : Nat) : Gen := bankGet t.ag Gen.reset a

/-- Slew profile p as SLPROFp holds it: what the next Radiator tick uses (R163). -/
def profOf (t : Thermo) (p : Nat) : SlProf := bankGet t.slprof (SlProf.reset p) p
/-- Slew profile p as its channels use it until the next Radiator tick (R163). -/
def profNow (t : Thermo) (p : Nat) : SlProf := bankGet t.slprofNow (SlProf.reset p) p

/-! ### One channel (R157, R161, R162) -/

/-- OUT after a Radiator tick of running count `tick` under a profile. -/
def slewStep (p : SlProf) (tick : Nat) (out code : BitVec 16) : BitVec 16 :=
  if p.step = 0 then code
  else if tick % (p.slint.toNat + 1) ≠ 0 then out
  else if out.toNat < code.toNat then BitVec.ofNat 16 (min (out.toNat + p.step.toNat) code.toNat)
  else if code.toNat < out.toNat then BitVec.ofNat 16 (max (out.toNat - p.step.toNat) code.toNat)
  else out

/-- u from OUT and d: clamped to 16 bits; whether the clamp changed it (R157). -/
def clampU (out : BitVec 16) (d : Int) : BitVec 16 × Bool :=
  let v := (out.toNat : Int) + d
  if v < 0 then (0, true) else if 65535 < v then (0xFFFF, true) else (BitVec.ofInt 16 v, false)

/-! ### The one-bit modulators (R156, R158) -/

/-- Whether a sum keeps R156: over every run of bits at one u, the ones differ from N × u / 65,536 by at most 4, that is, the
sums since u changed span at most 4 × 65,536. -/
def Modulator.fits (m : Modulator) (v : Int) : Bool := decide (max m.hi v - min m.lo v ≤ 262144)

/-- Bit j of a tick: the bit that R156 leaves, or the free one where both keep its bound (log entry 99); u = 0 gives no ones. -/
def Modulator.bit (tick : Nat) (m : Modulator) (j : Nat) : Modulator :=
  let zero := m.acc + (m.u.toNat : Int)
  let one := zero - 65536
  let b := m.fits one && (!(m.fits zero) || Config.modulatorBit (32 * tick + j) m.u m.acc)
  let v := if b then one else zero
  { m with acc := v, lo := min m.lo v, hi := max m.hi v, bits := if b then m.bits ||| BitVec.ofNat 32 (2 ^ j) else m.bits }

/-- The 32 bits of a Radiator tick at input u (chapter 5: a tick is 32 modulator bits). -/
def Modulator.tick (tick : Nat) (u : BitVec 16) (m : Modulator) : Modulator :=
  let m : Modulator := if m.u = u then { m with bits := 0 } else ⟨u, 0, 0, 0, 0⟩
  if u = 0 then m else (List.range 32).foldl (Modulator.bit tick) m

/-- The ones of a modulator's last tick. -/
def Modulator.ones (m : Modulator) : Nat := (List.range 32).countP (fun j => m.bits.getLsbD j)

/-- Heaters whose modulator bit j of the last tick is 1: each draws I_ON from VHTR (R159). -/
def drawing (t : Thermo) (j : Nat) : Nat :=
  ((List.range 8).map (fun w =>
    let b := bankGet t.heaters HeaterBank.reset w
    (if b.dflt.modu.bits.getLsbD j then 32768 - b.chans.length else 0) +
      b.chans.countP (fun e => e.2.modu.bits.getLsbD j))).sum

/-- Form u of a heater from PARK, OUT and d; whether the clamp changed it (R157, R177). Before the NVM load OUT and u are 0
(R171). -/
def Heater.form (t : Thermo) (h : Heater) : Heater × Bool :=
  if !t.nvmOk then ({ h with out := 0, u := 0 }, false)
  else if h.sc || t.parkAll then (h.parked, false)
  else if h.den then
    let u := clampU h.out (sgOf t h.dsel.toNat).d
    ({ h with u := u.1 }, u.2)
  else ({ h with u := h.out }, false)

/-- A heater at a Radiator tick, whose generators have output their d; whether dither was clamped. -/
def Heater.tick (t : Thermo) (h : Heater) : Heater × Bool :=
  let r := Heater.form t { h with out := slewStep (profOf t h.prof.toNat) t.tick h.out h.code }
  ({ r.1 with modu := r.1.modu.tick t.tick r.1.u }, r.2)

/-- Form u of AUX output n (R157, R177, R196). -/
def Aux.form (t : Thermo) (n : Nat) (a : Aux) : Aux × Bool :=
  if !t.nvmOk then ({ a with out := 0, u := 0 }, false)
  else if t.parkAll then (a.parked, false)
  else if a.den then
    let u := clampU a.out (agOf t n).d
    ({ a with u := u.1 }, u.2)
  else ({ a with u := a.out }, false)

/-- An AUX output at a Radiator tick. -/
def Aux.tick (t : Thermo) (n : Nat) (a : Aux) : Aux × Bool :=
  Aux.form t n { a with out := slewStep (profOf t a.prof.toNat) t.tick a.out a.code }

/-- OUT follows CODE at once on a profile without limit (R162). -/
def Heater.follow (t : Thermo) (h : Heater) : Heater :=
  if (profNow t h.prof.toNat).step = 0 then { h with out := h.code } else h

/-- Heater h. -/
def heaterOf (t : Thermo) (h : Nat) : Heater :=
  let b := bankGet t.heaters HeaterBank.reset (h / 32768)
  bankGet b.chans b.dflt (h % 32768)

/-- Write heater h. -/
def putHeater (t : Thermo) (h : Nat) (x : Heater) : Thermo :=
  let b := bankGet t.heaters HeaterBank.reset (h / 32768)
  { t with heaters := bankPut t.heaters (h / 32768) { b with chans := bankPut b.chans (h % 32768) x } }

/-- A clamp that changes u sets DCLAMP (R157). -/
def setClamp (t : Thermo) (c : Bool) : Thermo := if c then { t with flags := t.flags ||| 4 } else t

/-- Write heater h with its u formed anew: a change of OUT or d reaches the modulator at its next bit (R158). -/
def formHeater (t : Thermo) (h : Nat) (x : Heater) : Thermo :=
  let r := Heater.form t x
  setClamp (putHeater t h r.1) r.2

/-- Write AUX output a with its u formed anew (R158). -/
def formAux (t : Thermo) (a : Nat) (x : Aux) : Thermo :=
  let r := Aux.form t a x
  setClamp { t with aux := bankPut t.aux a r.1 } r.2

/-- A channel at its target, or parked (R172). -/
def Heater.arrived (t : Thermo) (h : Heater) : Bool := h.sc || t.parkAll || decide (h.out = h.code)

/-- Every channel not parked has OUT equal to CODE (R172). -/
def allArrived (t : Thermo) : Bool :=
  (List.range 8).all (fun w =>
    let b := bankGet t.heaters HeaterBank.reset w
    Heater.arrived t b.dflt && b.chans.all (fun e => Heater.arrived t e.2)) &&
  (List.range 4).all (fun a => t.parkAll || decide ((auxOf t a).out = (auxOf t a).code))

/-- The laser that feeds a Window: L8 while SPARE is set (R113). -/
def laserOf (s : State) (w : Nat) : Nat := if (win s w).spare then 8 else w

/-- Whether a Window's laser is lit and within power. -/
def laserLit (s : State) (w : Nat) : Bool := s.lamp.lok.getLsbD (laserOf s w)

/-- Whether a Window is held (R181). A Window that is OFF at start-up is not, once R469 has started its loop, unless its NVM
record is bad (R173; log entry 70). -/
def held (s : State) (w : Nat) : Bool :=
  !(s.thermo.tctrl.getLsbD w) || !(laserLit s w) ||
    (decide ((win s w).state = .off) && !(s.thermo.loopOn.getLsbD w && s.nvm.recOk.getLsbD w)) ||
    decide ((win s w).state = .retired) || s.thermo.parkAll

/-- The lock-in loop of every Window whose laser is in LOK starts once RAMPDONE is set, if LOCKEN allows (R469). -/
def startLoops (s : State) : State :=
  if !s.thermo.rampDone then s
  else
    { s with
        thermo := { s.thermo with
        loopOn :=
        (List.range 8).foldl (fun (b : BitVec 8) w =>
          if laserLit s w && s.thermo.tctrl.getLsbD w then b ||| BitVec.ofNat 8 (2 ^ w) else b) s.thermo.loopOn } }

/-- RAMPDONE at the first moment after the NVM load at which every channel has arrived (R172). -/
def checkRamp (s : State) : State :=
  if s.thermo.nvmOk && !s.thermo.rampDone && allArrived s.thermo then
    startLoops { s with thermo := { s.thermo with rampDone := true } }
  else s

/-- RADIATOR_TICK (R156 to R162, R175): every generator outputs d, every channel steps and its modulator gives 32 bits;
TSTAT's RAMPDONE (R172); RADPWR once in 1,024 ticks. -/
def radTick (s : State) : State :=
  let t := { s.thermo with
    sg := s.thermo.sg.map (fun e => (e.1, Gen.step e.2)), ag := s.thermo.ag.map (fun e => (e.1, Gen.step e.2)) }
  let hs := (List.range 8).map (fun w =>
    let b := bankGet t.heaters HeaterBank.reset w
    let d := Heater.tick t b.dflt
    let cs := b.chans.map (fun e => (e.1, Heater.tick t e.2))
    (w, HeaterBank.mk d.1 (cs.map (fun e => (e.1, e.2.1))), d.2 || cs.any (fun e => e.2.2)))
  let xs := (List.range 4).map (fun a => (a, Aux.tick t a (auxOf t a)))
  let clamp := hs.any (fun e => e.2.2) || xs.any (fun e => e.2.2)
  let ones := t.radOnes + (hs.map (fun e => e.2.1.dflt.modu.ones * (32768 - e.2.1.chans.length) +
    (e.2.1.chans.map (fun c => c.2.modu.ones)).sum)).sum
  let whole := decide ((t.tick + 1) % 1024 = 0)
  checkRamp { s with
    thermo := setClamp { t with
      heaters := hs.map (fun e => (e.1, e.2.1)), aux := xs.map (fun e => (e.1, e.2.1)),
      radPwr := if whole then Config.radiatorPower ones else t.radPwr, radOnes := if whole then 0 else ones,
      tick := t.tick + 1, slprofNow := t.slprof } clamp }

/-- The Radiator's channels run: powered and their NVM values loaded (R171). -/
def radiatorOn (s : State) : Bool := powered s && s.thermo.nvmOk

/-- RADIATOR_TICK (R161). Until the NVM load every channel stays at 0 (R171). DESIGN CHOICE (log entry 92): the running count
and the generators start at power good or at the reset that clears the Radiator, not at the NVM load. -/
def execRadiatorTick (s : State) : Host.Outcome State Fault Refusal :=
  .next (if powered s then radTick s else s)

/-! ### Register writes of the Radiator -/

/-- Number of dropped updates counted in LOSTSUM (R165). -/
def addLostSum (t : Thermo) (dropped : Bool) : Thermo := if dropped then { t with lostSum := t.lostSum + 1 } else t

/-- A trip of a channel (R167): SC, the park, SCANY, SCCNT, HEATER_SHORT and its record entry. -/
def tripHeater (s : State) (h : Nat) : State :=
  let x := heaterOf s.thermo h
  let t := putHeater s.thermo h { x.parked with sc := true }
  let s := { s with thermo := { t with flags := t.flags ||| 1, scCnt := t.scCnt + 1 } }
  addFrec (raiseEvent s 0x0C noCtx h 0) 9 0 (h / 32768) (h % 256) 0 noCtx

/-- A software write of a heater word (Table 5.8, R160, R165, R168, R170): one word through the Radiator's FIFO (R35; log entry
96). A short that persists stays: only the source's recovery ends it. -/
def writeHeater (s : State) (h : Nat) (val : Word) (dropped : Bool) : State :=
  let x := heaterOf s.thermo h
  let x := { x with
    prof := (val >>> 16).setWidth 3, den := val.getLsbD 19, dsel := (val >>> 22).setWidth 6,
    lostUpd := lostWrite val dropped, code := val.setWidth 16,
    sc := x.sc && !(val.getLsbD 20) }
  audPass { s with thermo := addLostSum (formHeater s.thermo h (Heater.follow s.thermo x)) dropped } 9 1

/-- A software write of an AUX output's word 0 (Table 5.12, R160, R162). -/
def writeAux (s : State) (a : Nat) (val : Word) : State :=
  let x := auxOf s.thermo a
  let x := { x with code := val.setWidth 16, prof := (val >>> 16).setWidth 3, den := val.getLsbD 19 }
  let x := if (profNow s.thermo x.prof.toNat).step = 0 then { x with out := x.code } else x
  audPass { s with thermo := formAux s.thermo a x } 9 1

/-- The heater of a BAR0 offset, if it is a heater word (R155). -/
def heaterAt (off : Nat) : Option Nat :=
  if 0x1000000 ≤ off ∧ off < 0x1100000 ∧ off % 4 = 0 then some ((off - 0x1000000) / 4) else none
/-- The AUX output of a BAR0 offset, if it is its word 0. -/
def auxAt (off : Nat) : Option Nat :=
  if 0x30C00 ≤ off ∧ off < 0x30C40 ∧ off % 16 = 0 then some ((off - 0x30C00) / 16) else none

/-- HEATER_CODE_WRITE (R160, R165, R170). -/
def execHeaterCodeWrite (off : Nat) (val : Word) (hwDropped : Bool) (s : State) : Host.Outcome State Fault Refusal :=
  .next (if blockOpen s clrCWI then
    match heaterAt off, auxAt off with
    | some h, _ => writeHeater s h val hwDropped
    | none, some a => writeAux s a val
    | none, none => s
  else s)

/-- HEATER_SC_CLEAR (R168, corner 5.2): SC is HS, so a trip that meets the clear stands. The short itself stays until a reset, so
that HEATER_SHORT trips the channel again (R168). -/
def execHeaterScClear (h : Nat) (retrip : Bool) (s : State) : Host.Outcome State Fault Refusal :=
  .next (if blockOpen s clrCWI && decide (h < 262144) && (heaterOf s.thermo h).sc then
    if retrip then tripHeater s h
    else { s with thermo := formHeater s.thermo h { heaterOf s.thermo h with sc := false } }
  else s)

/-- A write of SLPROFp: the profile of the next Radiator tick (R163). -/
def writeSlprof (s : State) (p : Nat) (val : Word) : State :=
  audPass { s with
    thermo := { s.thermo with
      slprof := bankPut s.thermo.slprof p ⟨val.setWidth 16, (val >>> 16).setWidth 8⟩ } } 9 1

/-- SLPROF_WRITE (R163). -/
def execSlprofWrite (p : Fin 8) (val : Word) (s : State) : Host.Outcome State Fault Refusal :=
  .next (if blockOpen s clrCWI then writeSlprof s p.val val else s)

/-- A generator register written: register 0 FTW, 1 PHOFF, 2 AMP; P does not change (R176). -/
def Gen.write (g : Gen) (r : Nat) (val : Word) : Gen :=
  match r with
  | 0 => { g with ftw := val }
  | 1 => { g with phoff := val }
  | 2 => { g with amp := val.setWidth 12 }
  | _ => g

/-- A write of SG g; FTW or AMP written during a cycle voids the tone's corrections (R183). DESIGN CHOICE (log entry 92): LKVOID
counts one per write, as R183 says; Table 5.5 words it 'Corrections voided'. -/
def writeSg (t : Thermo) (g r : Nat) (val : Word) : Thermo :=
  let t := { t with sg := bankMod t.sg Gen.reset g (fun x => Gen.write x r val) }
  if t.cycleOn && (decide (r = 0) || decide (r = 2)) then { t with voided := t.voided ++ [g], lkVoid := t.lkVoid + 1 } else t

/-- A write of a register of a generator, by its BAR0 offset (R176, R183). -/
def writeGen (s : State) (off : Nat) (val : Word) : State :=
  if 0x30400 ≤ off ∧ off < 0x30800 then
    audPass { s with thermo := writeSg s.thermo ((off - 0x30400) / 16) ((off % 16) / 4) val } 9 1
  else if 0x30E00 ≤ off ∧ off < 0x30E40 then
    audPass { s with
      thermo := { s.thermo with
        ag := bankMod s.thermo.ag Gen.reset ((off - 0x30E00) / 16) (fun x => Gen.write x ((off % 16) / 4) val) } } 9 1
  else s

/-- GENERATOR_WRITE (R176, R183). -/
def execGeneratorWrite (off : Nat) (val : Word) (s : State) : Host.Outcome State Fault Refusal :=
  .next (if blockOpen s clrCWI && decide (off % 4 = 0) then writeGen s off val else s)

/-- HEATER_SHORT_ONSET (R166): the source limits. -/
def execHeaterShortOnset (h : Nat) (s : State) : Host.Outcome State Fault Refusal :=
  .next (if radiatorOn s && decide (h < 262144) then
    { s with thermo := putHeater s.thermo h { heaterOf s.thermo h with limiting := true } }
  else s)

/-- HEATER_SHORT (R167): a channel that limits trips. -/
def execHeaterShort (h : Nat) (s : State) : Host.Outcome State Fault Refusal :=
  .next (if radiatorOn s && decide (h < 262144) && (heaterOf s.thermo h).limiting && !(heaterOf s.thermo h).sc then
    tripHeater s h
  else s)

/-! ### The lock-in loop (R178 to R184) -/

/-- Clear DEN of every heater of a Window (R181). -/
def clearDen (t : Thermo) (w : Nat) : Thermo :=
  let b := bankGet t.heaters HeaterBank.reset w
  let off := fun (h : Heater) => (Heater.form t { h with den := false }).1
  { t with heaters := bankPut t.heaters w ⟨off b.dflt, b.chans.map (fun e => (e.1, off e.2))⟩ }

/-- Clear DEN of the heaters dithered in the last cycle. -/
def undither (t : Thermo) : Thermo :=
  t.dithered.foldl (fun t h => formHeater t h { heaterOf t h with den := false }) t

/-- Forget a Window's sweep: the next counted cycle is its first (R178). -/
def dropSweep (t : Thermo) (w : Nat) : Thermo :=
  { t with cycles := bankPut t.cycles w 0, visited := bankPut t.visited w 0, sweepMax := bankPut t.sweepMax w 0 }

/-- Whether the Thermostat works on a Window: its loop has started and it is not held (R178, R179, R181). -/
def looping (s : State) (w : Nat) : Bool := s.thermo.loopOn.getLsbD w && !(held s w)

/-- The cells of a Window that the command names for a cycle, each with its tone: cells that the sweep has not dithered, each
once, at most 256 (R179). -/
def namedCells (seen w : Nat) : List (Nat × Fin 64) → List (Nat × Nat) → List (Nat × Nat)
  | [], acc => acc
  | (h, g) :: t, acc =>
    if decide (h / 32768 = w) && !(seen.testBit (h % 32768)) && !(acc.any (fun e => decide (e.1 = h % 32768))) &&
        decide (acc.length < 256)
    then namedCells seen w t (acc ++ [(h % 32768, g.val)]) else namedCells seen w t acc

/-- The first cells from c on that the sweep has not dithered and the command does not name: fuel, how many, c. -/
def restCells (seen : Nat) (named : List (Nat × Nat)) : Nat → Nat → Nat → List Nat
  | 0, _, _ => []
  | _ + 1, 0, _ => []
  | fuel + 1, need + 1, c =>
    if seen.testBit c || named.any (fun e => decide (e.1 = c)) then restCells seen named fuel (need + 1) (c + 1)
    else c :: restCells seen named fuel need (c + 1)

/-- The cells that a cycle dithers in a Window: 256 that the sweep has not dithered, so that its 128 cycles dither each of the
32,768 once (R179). The command names them and their tones; the model fills up with the lowest free cells (log entry 98). -/
def cycleCells (s : State) (dither : List (Nat × Fin 64)) (w : Nat) : List (Nat × Nat) :=
  if looping s w then
    let seen := bankGet s.thermo.visited 0 w
    let named := namedCells seen w dither []
    let rest := restCells seen named 32768 (256 - named.length) 0
    named ++ rest.zipIdx.map (fun e => (e.1, e.2 % 64))
  else []

/-- Dither the cells of a Window in this cycle (R179). -/
def ditherWindow (t : Thermo) (w : Nat) (cells : List (Nat × Nat)) : Thermo :=
  let t := cells.foldl (fun t e =>
    formHeater t (32768 * w + e.1) { heaterOf t (32768 * w + e.1) with den := true, dsel := BitVec.ofNat 6 e.2 }) t
  { t with
    visited := bankMod t.visited 0 w (fun v => cells.foldl (fun v e => v ||| 2 ^ e.1) v),
    dithered := t.dithered ++ cells.map (fun e => 32768 * w + e.1) }

/-- LOCKIN_CYCLE_START (R178, R179, R181): the last cycle's dither ends; a held Window's DEN clears and its sweep starts anew
when it is no longer held; the other Windows' cells are dithered. -/
def cycleStart (s : State) (dither : List (Nat × Fin 64)) : State :=
  let picks := (List.range 8).map (fun w => (w, cycleCells s dither w))
  let t := undither s.thermo
  let t := (List.range 8).foldl (fun t w => if held s w then dropSweep (clearDen t w) w else t) t
  let t := picks.foldl (fun t e => ditherWindow t e.1 e.2) { t with dithered := [] }
  audPass { s with
    thermo := { t with
      cycleOn := true, cycleAt := some t.tick, voided := [],
      swept := (List.range 8).foldl (fun (b : BitVec 8) w => if looping s w then b ||| BitVec.ofNat 8 (2 ^ w) else b) 0 } }
    9 t.dithered.length

/-- LOCKIN_CYCLE_START: once at each tick whose running count is a multiple of 1,024 (R178). -/
def execLockinCycleStart (dither : List (Nat × Fin 64)) (s : State) : Host.Outcome State Fault Refusal :=
  .next (if powered s && !s.thermo.cycleOn && decide (s.thermo.tick % 1024 = 0) && decide (s.thermo.cycleAt ≠ some s.thermo.tick) then
    cycleStart s dither
  else s)

/-- Most codes of one correction: LSTEP, 0 read as 1 (Table 5.5). -/
def lstep (t : Thermo) : Nat := let l := ((t.tctrl >>> 8).setWidth 8).toNat; if l = 0 then 1 else l

/-- δ limited to LSTEP (R180). -/
def limDelta (t : Thermo) (d : Int) : Int := max (-(lstep t : Int)) (min (lstep t) d)

/-- CODE + δ within 16 bits (R180). -/
def addCode (c : BitVec 16) (d : Int) : BitVec 16 := BitVec.ofInt 16 (max 0 (min 65535 ((c.toNat : Int) + d)))

/-- Whether the Thermostat corrects a dithered heater at the end of its cycle (R181, R182, R183). -/
def correctable (s : State) (h : Nat) : Bool :=
  let x := heaterOf s.thermo h
  !(held s (h / 32768)) && !x.sc && !(s.thermo.voided.contains x.dsel.toNat)

/-- The δ that the lock-in measured for a heater; 0 where the command names none. -/
def deltaOf (deltas : List (Nat × Int)) (h : Nat) : Int := ((deltas.find? (fun e => decide (e.1 = h))).map (·.2)).getD 0

/-- One correction written (R180). -/
def correct (deltas : List (Nat × Int)) (t : Thermo) (h : Nat) : Thermo :=
  let d := limDelta t (deltaOf deltas h)
  let x := heaterOf t h
  let t := formHeater t h (Heater.follow t { x with code := addCode x.code d })
  { t with lkUpd := if d = 0 then t.lkUpd else t.lkUpd + 1,
           sweepMax := bankMod t.sweepMax 0 (h / 32768) (max (deltaOf deltas h).natAbs) }

/-- One more cycle of a Window's sweep; after 128 its largest |δ| waits for SWEEP_END and a new sweep begins (R178, R184). A
Window that the cycle did not serve from start to end begins its sweep anew. -/
def countCycle (s : State) (t : Thermo) (w : Nat) : Thermo :=
  if !(looping s w) || !(s.thermo.swept.getLsbD w) then (if held s w then dropSweep t w else t)
  else
    let n := bankGet t.cycles 0 w + 1
    if n < 128 then { t with cycles := bankPut t.cycles w n }
    else dropSweep { t with sweepDue := bankPut t.sweepDue w (some (bankGet t.sweepMax 0 w)) } w

/-- LOCKIN_CYCLE_END (R180): every dithered heater's correction, LKCYC, and one more cycle of the running sweeps. -/
def cycleEnd (s : State) (deltas : List (Nat × Int)) : State :=
  let hs := s.thermo.dithered.filter (correctable s)
  let t := hs.foldl (correct deltas) s.thermo
  let t := (List.range 8).foldl (countCycle s) t
  audPass { s with thermo := { t with lkCyc := t.lkCyc + 1, cycleOn := false, voided := [] } } 9 hs.length

/-- LOCKIN_CYCLE_END: 1,024 Radiator ticks after the cycle's start (R178). -/
def execLockinCycleEnd (deltas : List (Nat × Int)) (s : State) : Host.Outcome State Fault Refusal :=
  .next (if powered s && s.thermo.cycleOn && decide (s.thermo.cycleAt.getD 0 + 1024 ≤ s.thermo.tick) then cycleEnd s deltas
  else s)

/-- CTHR of TCTRL. -/
def cthr (t : Thermo) : Nat := ((t.tctrl >>> 16).setWidth 4).toNat

/-- A sweep of a Window ends with a largest |δ| (R184): LKRESID, CONV, and the count of sweeps that ended with CONV set (R470,
R497). -/
def sweepEnd (s : State) (w m : Nat) : State :=
  let ok := decide (m ≤ cthr s.thermo)
  let bit : BitVec 8 := BitVec.ofNat 8 (2 ^ w)
  let s := modWin s w (fun x => { x with convRun := if ok then x.convRun + 1 else 0, requal := true })
  { s with
      thermo := { s.thermo with
      lkResid := bankPut s.thermo.lkResid w (BitVec.ofNat 16 m),
      conv := if ok then s.thermo.conv ||| bit else s.thermo.conv &&& ~~~bit,
      sweepDue := bankPut s.thermo.sweepDue w none } }

/-- SWEEP_END (R178, R184): after the 128th consecutive cycle of the Window's loop. -/
def execSweepEnd (w : Fin 8) (s : State) : Host.Outcome State Fault Refusal :=
  .next (match powered s, bankGet s.thermo.sweepDue none w.val with
    | true, some m => sweepEnd s w.val m
    | _, _ => s)

/-! ### AUX outputs -/

/-- AUX_COMPLIANCE_LOST (R197): COMPL, AUXFLT and AUX_FAULT; the output keeps driving. -/
def auxLost (s : State) (a : Nat) : State :=
  let x := auxOf s.thermo a
  raiseEvent { s with
    thermo := { s.thermo with
    aux := bankPut s.thermo.aux a { x with compl := true }, flags := s.thermo.flags ||| 32 } } 0x0F noCtx a 0

/-- AUX_COMPLIANCE_LOST. -/
def execAuxComplianceLost (out : Fin 4) (s : State) : Host.Outcome State Fault Refusal :=
  .next (if radiatorOn s then auxLost s out.val else s)

end Sys2Proof.Machine
end

