-- ==== Sys2Proof/Machine/Sensor.lean ====
section
/-!
DEFINITION. Temperature sensing (chapter 5) and the thermal and power policy (chapter 12).
-/

namespace Sys2Proof.Machine

open Sys2Proof

/-! ### RTD conversion (R194) -/

/-- R(t) / R0 of IEC 60751 at t = k / 256 °C, times 10^16 × 2^32 (log entry 11 for the standard's coefficients). -/
def cvd (k : Int) : Int :=
  let base : Int := 10000000000000000 * 4294967296 + 39083000000000 * k * 16777216 - 5775000000 * k * k * 65536
  if k < 0 then base - 41830 * (k - 25600) * k * k * k else base

/-- R0 in ohms of an RTD TYPE (Table 5.10). -/
def rtdR0 (type : BitVec 2) : Int := if type = 2 then 1000 else 100

/-- Whether the resistance val / 1,024 Ω is at or above the one of the midpoint below n / 128 °C; a tie counts for an
even n (round half to even, R194). -/
def atLeast (r0 val n : Int) : Bool :=
  let a := cvd (2 * n - 1) * 1024 * r0
  let b := val * (10000000000000000 * 4294967296)
  decide (a < b) || (decide (a = b) && decide (n % 2 = 0))

/-- The largest n from lo with `atLeast`, by bisection with steps 2^k. -/
def bisect (r0 val : Int) : Nat → Int → Int
  | 0, lo => lo
  | k + 1, lo => if atLeast r0 val (lo + 2 ^ k) then bisect r0 val k (lo + 2 ^ k) else bisect r0 val k lo

/-- TEMP in 1/128 °C of an RTD's resistance within range (R194). -/
def rtdTemp (type : BitVec 2) (val : Int) : Int := bisect (rtdR0 type) val 15 (-7680)

/-- Whether a resistance lies within −60 °C to 160 °C of an RTD (R189). -/
def rtdInRange (type : BitVec 2) (val : Int) : Bool :=
  let v := val * (10000000000000000 * 4294967296)
  decide (cvd (-15360) * 1024 * rtdR0 type ≤ v) && decide (v ≤ cvd 40960 * 1024 * rtdR0 type)

/-! ### Channels -/

/-- Sensor n: 0 to 63 on-die, 64 and 65 RTD0 and RTD1. -/
def sensorOf (s : State) (n : Nat) : Sensor := bankGet s.thermo.sensors Sensor.reset n
/-- Write sensor n. -/
def putSensor (s : State) (n : Nat) (x : Sensor) : State :=
  { s with thermo := { s.thermo with sensors := bankPut s.thermo.sensors n x } }
/-- A channel converts: on-die always, an RTD unless its TYPE is 0 or 3 (R195). -/
def chanOn (n : Nat) (x : Sensor) : Bool := decide (n < 64) || decide (x.type = 1) || decide (x.type = 2)
/-- Whether a converted value lies within the range of R189. -/
def inRange (n : Nat) (x : Sensor) (v : Int) : Bool :=
  if n < 64 then decide (-3276800 ≤ v) && decide (v ≤ 10485760) else rtdInRange x.type v
/-- A temperature in 1/65,536 °C rounded half to even to 1/128 °C (R194). -/
def dieTemp (v : Int) : Int :=
  let q := v / 512
  let r := v % 512
  if r < 256 then q else if 256 < r then q + 1 else if q % 2 = 0 then q else q + 1
/-- TEMP of a converted value. -/
def tempOf (n : Nat) (x : Sensor) (v : Int) : BitVec 16 := BitVec.ofInt 16 (if n < 64 then dieTemp v else rtdTemp x.type v)
/-- A channel that no longer converts: no value, no hold, no estimate, no recovery (R195). -/
def Sensor.disabled (x : Sensor) : Sensor :=
  { x with valid := false, hold := false, est := false, chkOk := none, recovering := false, run := 0, lostFor := 0, outRange := false }

/-- The group of an on-die sensor: first and last (R192). -/
def groupOf (n : Nat) : Nat × Nat := if n < 48 then (n / 6 * 6, n / 6 * 6 + 5) else if n < 56 then (48, 55) else (56, 63)
/-- Largest valid TEMP of a range of on-die sensors. -/
def maxValid (s : State) (lo hi : Nat) : Option Int :=
  ((List.range 64).filterMap (fun n => let x := sensorOf s n
    if lo ≤ n ∧ n ≤ hi ∧ x.valid then some x.temp.toInt else none)).max?
/-- Smallest valid on-die TEMP. -/
def minValid (s : State) : Option Int :=
  ((List.range 64).filterMap (fun n => let x := sensorOf s n; if x.valid then some x.temp.toInt else none)).min?
/-- The estimate of R192; none when no on-die sensor is valid. -/
def estimate (s : State) (n : Nat) : Option Int :=
  if n < 64 then (maxValid s (groupOf n).1 (groupOf n).2).orElse (fun _ => maxValid s 0 63) else minValid s
/-- Write the estimate into TEMP, if there is one (R191, R192, corner 5.7). -/
def writeEstimate (s : State) (n : Nat) : State :=
  match estimate s n with
  | some v => putSensor s n { sensorOf s n with temp := BitVec.ofInt 16 v }
  | none => s

/-- A break in a wire or a value that goes out of range (R189, R190): OPEN, SENSOPEN, OPENCNT, SENSOR_OPEN and its record. A
sensor that is not recovering loses VALID and holds its last TEMP; one that is recovering keeps its held value or its estimate,
and its run of published values starts anew (log entry 100). -/
def sensorBreak (s : State) (n : Nat) : State :=
  let x := sensorOf s n
  let x := if x.recovering then { x with open_ := true, run := 0 }
    else { x with open_ := true, valid := false, hold := true, recovering := true, run := 0, lostFor := 0 }
  let s := putSensor s n x
  let s := { s with thermo := { s.thermo with flags := s.thermo.flags ||| 8, openCnt := s.thermo.openCnt + 1 } }
  addFrec (raiseEvent s 0x0D noCtx n 0) 10 0 n 0 0 noCtx

/-- RANGE and SENSRANGE (R189). -/
def rangeSet (s : State) (n : Nat) : State :=
  let s := putSensor s n { sensorOf s n with range := true }
  { s with thermo := { s.thermo with flags := s.thermo.flags ||| 16 } }

/-- A value published (R188, R193). -/
def publish (s : State) (n : Nat) (v : Int) : State :=
  let x := sensorOf s n
  let x := if n < 64 then x else { x with res := BitVec.ofInt 32 v }
  if !x.recovering then putSensor s n { x with temp := tempOf n x v, valid := true }
  else if 2 ≤ x.run then
    raiseEvent (putSensor s n { x with temp := tempOf n x v, valid := true, hold := false, est := false, recovering := false, run := 0, lostFor := 0 })
      0x0E noCtx n 0
  else putSensor s n { x with run := x.run + 1, lostFor := 0 }

/-- A value discarded: the register keeps TEMP, an estimate is repeated (R188, R191, R193). -/
def discard (s : State) (n : Nat) : State :=
  let x := sensorOf s n
  if x.recovering then
    let s := putSensor s n { x with run := 0, lostFor := x.lostFor + 1 }
    if x.est then writeEstimate s n else s
  else s

/-- One channel at the end of a period (R187 to R193): its own check, the next period's, the range, then the value published (one
word through the result FIFO, R35) or discarded. Its own check is the one of the last period's end; before the first it is
the command's. A break is a check that fails after one that passed, or a value that goes out of range. -/
def channelEnd (reads : List (Nat × SensorRead)) (s : State) (n : Nat) : State :=
  let x := sensorOf s n
  if !(chanOn n x) then s
  else
    let r := (reads.find? (fun e => e.1 = n)).map (·.2)
    let own := x.chkOk.getD (match r with | some r => r.ownOk | none => false)
    let wire := match r with | some r => r.wireOk | none => false
    let bad := match r with | some r => !(inRange n x r.val) | none => false
    let s := putSensor s n { x with chkOk := some wire, outRange := bad }
    let s := if bad then rangeSet s n else s
    if own && wire && !bad then
      let s := publish (audPass s 9 1) n (match r with | some r => r.val | none => 0)
      if (sensorOf s n).est then writeEstimate s n else s
    else if !x.recovering then sensorBreak s n
    else discard (if (own && !wire) || (bad && !x.outRange) then sensorBreak s n else s) n

/-! ### Policy (R478 to R489) -/

/-- Tpol of the on-die sensors and the stacks (R478); none with no temperature at all. -/
def tpolOf (s : State) (stk : List Int) : Option Int :=
  let on := (List.range 64).filterMap (fun n => let x := sensorOf s n
    if x.valid || x.hold then some x.temp.toInt else if x.est then some (x.temp.toInt + 640) else none)
  (on ++ stk.map (· - 640)).max?

/-- Whether an on-die temperature is VALID, HOLD or estimated (R486). -/
def anyOnDie (s : State) : Bool :=
  (List.range 64).any (fun n => let x := sensorOf s n; x.valid || x.hold || (x.est && (estimate s n).isSome))

/-- Whether any on-die sensor is in EST. -/
def anyEst (s : State) : Bool := (List.range 64).any (fun n => (sensorOf s n).est)

/-- RTD0 is VALID and above a temperature. -/
def rtd0Above (s : State) (v : Int) : Bool := let x := sensorOf s 64; x.valid && decide (v < x.temp.toInt)

/-- The raise conditions of R480, in the order of PWRSTAT: temperature, power, coolant, estimate. -/
def condTemp (s : State) : Bool := decide (12160 ≤ s.power.tpol.toInt) && s.power.tpolValid
def condPwr (s : State) : Bool := decide (16 * s.power.plimit.toNat < s.power.pavg.toNat)
def condCool (s : State) : Bool := rtd0Above s s.power.coolMax.toInt
/-- Whether any raise condition holds. -/
def raiseCond (s : State) : Bool := condTemp s || condPwr s || condCool s || anyEst s

/-- Every condition of R481 for lowering. -/
def lowerCond (s : State) : Bool :=
  decide (s.power.tpol.toInt < 11776) && s.power.tpolValid &&
  decide (s.power.pavg.toNat + 320 ≤ 16 * s.power.plimit.toNat) && !(rtd0Above s (s.power.coolMax.toInt - 256)) && !(anyEst s)

/-- PWRSTAT (Table 12.11). -/
def pwrStat (p : Power) : Nat :=
  p.thlvl.toNat + (if p.byTemp then 8 else 0) + (if p.byPwr then 16 else 0) + (if p.byCool then 32 else 0) +
    (if p.byEst then 64 else 0) + (if p.trip then 128 else 0)

/-- Set THLVL; THROTTLE_ON when it leaves 0, THROTTLE_OFF when it returns (R482). -/
def setThlvl (s : State) (l : BitVec 3) : State :=
  let old := s.power.thlvl
  let s := { s with
    power := { s.power with
    thlvl := l, sinceChange := if old = l then s.power.sinceChange else 0,
    flags := if l = 0 then s.power.flags else s.power.flags ||| 1 } }
  if old = 0 ∧ l ≠ 0 then raiseEvent s 0x60 noCtx (pwrStat s.power) 0
  else if old ≠ 0 ∧ l = 0 then raiseEvent s 0x61 noCtx 0 0
  else s

/-- THROTTLE_RAISE (R480). -/
def throttleRaise (s : State) : State :=
  let hold := raiseCond s
  let s := { s with
    power := { s.power with
    byTemp := condTemp s, byPwr := condPwr s, byCool := condCool s, byEst := anyEst s } }
  if hold && decide (10 ≤ s.power.sinceChange) && decide (s.power.thlvl ≠ 7) then
    setThlvl { s with power := { s.power with thRaise := s.power.thRaise + 1 } } (s.power.thlvl + 1)
  else s

/-- THERMAL_HOT (R485): Tpol reaches 100 °C. -/
def thermalHot (s : State) (before : Int) : State :=
  if s.power.tpolValid && decide (12800 ≤ s.power.tpol.toInt) && decide (before < 12800) then
    let s := { s with power := { s.power with flags := s.power.flags ||| 2 } }
    let s := if s.power.thlvl.toNat < 4 then setThlvl s 4 else s
    setAlert (raiseEvent s 0x62 noCtx (unsigned 64 s.power.tpol.toInt) 0)
  else s

/-- COOLANT_HOT (R489): a valid RTD0 rises above COOLMAX. -/
def coolantHot (s : State) : State :=
  let above := condCool s
  let was := s.power.coolAbove
  let s := { s with power := { s.power with coolAbove := above, flags := if above && !was then s.power.flags ||| 16 else s.power.flags } }
  if above && !was then raiseEvent s 0x65 noCtx (sensorOf s 64).temp.toNat 0 else s

/-- The inputs of the policy at a period's end (R478, R479), and the counters of R480, R481 and R486. -/
def policyInputs (s : State) (p : Period) : State :=
  let t := tpolOf s p.stk
  let s := { s with
    corr := { s.corr with cspeed := p.cspeed },
    power := { s.power with
      pavg := p.pavg, pavgValid := true, tpol := match t with | some v => BitVec.ofInt 16 v | none => s.power.tpol,
      tpolValid := t.isSome, stkTemp := (p.stk.map (fun v => BitVec.ofInt 16 v)).take 4,
      sinceChange := s.power.sinceChange + 1, noTempFor := if anyOnDie s then 0 else s.power.noTempFor + 1 },
    nvm := { s.nvm with
      frecSum := { s.nvm.frecSum with
      tmax := match t with | some v => max v s.nvm.frecSum.tmax | none => s.nvm.frecSum.tmax } } }
  { s with power := { s.power with calm := if lowerCond s then s.power.calm + 1 else 0 } }

/-- One conversion period (R187, R478 to R489). -/
def sensorPeriod (s : State) (p : Period) : State :=
  let before := s.power.tpol.toInt
  let s := (List.range 66).foldl (channelEnd p.reads) s
  let s := { s with thermo := { s.thermo with sensCnt := s.thermo.sensCnt + 1 } }
  coolantHot (thermalHot (throttleRaise (policyInputs s p)) before)

/-- SENSOR_CONVERSION (R187). The sensor island runs while the part is powered. -/
def execSensorConversion (period : Period) (s : State) : Host.Outcome State Fault Refusal :=
  .next (if powered s then sensorPeriod s period else s)

/-- SENSOR_HOLD_EXPIRY (R191): 100 periods of 1 ms without a published value. -/
def execSensorHoldExpiry (n : Fin 66) (s : State) : Host.Outcome State Fault Refusal :=
  let x := sensorOf s n.val
  .next (if powered s && chanOn n.val x && x.recovering && x.hold && decide (100 ≤ x.lostFor) then
    writeEstimate (putSensor s n.val { x with hold := false, est := true }) n.val
  else s)

/-- THROTTLE_LOWER (R481, R482): after 100 calm periods. -/
def execThrottleLower (s : State) : Host.Outcome State Fault Refusal :=
  .next (if powered s && decide (100 ≤ s.power.calm) && decide (s.power.thlvl ≠ 0) then
    let s := setThlvl s (s.power.thlvl - 1)
    { s with power := { s.power with calm := 0 } }
  else s)

/-- Why a thermal trip is due (R486, Table 12.9): 1 Tpol, 2 a Cellar stack, 3 no temperature. -/
def tripCause (s : State) : Option Nat :=
  if s.power.tpolValid && decide (13440 ≤ s.power.tpol.toInt) then some 1
  else if s.power.stkTemp.any (fun t => decide (12800 ≤ t.toInt)) then some 2
  else if 100 ≤ s.power.noTempFor then some 3
  else none

/-- Turn the Lamp off: every laser dark. -/
def lampOff (s : State) : State := { s with lamp := { s.lamp with lok := 0, enabled := 0 } }

/-- A Window at a thermal trip: OFF, nothing in flight. -/
def Window.off (w : Window) : Window := { w with state := .off, pass := none, swap := none, half0 := none, half1 := none }

/-- The actions of R486. -/
def thermalTrip (s : State) (cause : Nat) : State :=
  let s := parkAll (lampOff s)
  let s := endOps .aborted false (s.ops.map Op.id) s
  let s := { s with windows := (List.range 8).map (fun w => (w, (win s w).off)) }
  let s := { s with thermTripN := false,
                    power := { s.power with trip := true, flags := s.power.flags ||| 4 } }
  let s := emit s (.pin "THERMTRIP_N" false)
  let s := { s with nvm := { s.nvm with frecSum := { s.nvm.frecSum with tripCnt := s.nvm.frecSum.tripCnt + 1 } } }
  addFrec (setAlert (raiseEvent s 0x63 noCtx cause 0)) 13 0 0 cause 0 noCtx

/-- THERMAL_TRIP (R486). -/
def execThermalTrip (s : State) : Host.Outcome State Fault Refusal :=
  .next (if powered s && !s.power.trip then
    match tripCause s with
    | some c => thermalTrip s c
    | none => s
  else s)

end Sys2Proof.Machine
end

