-- ==== Sys2Proof/Machine/Pantry.lean ====
section
/-!
DEFINITION. Pantry accumulation (chapter 4): slots and their elements, the canonical tree in its three formats, I16 rescale,
A24 stochastic nodes, preload, the error sum E, and the closing of a tree.
-/

namespace Sys2Proof.Machine

open Sys2Proof

/-! ### Slots (R119, Table 4.1) -/

/-- Rows of SROWS. -/
def srowsOf (c : Nat) : Nat := 8 * 2 ^ c
/-- Element size of an accumulator format in bytes. -/
def AFmt.size : AFmt → Nat
  | .i16 => 2 | .i32 => 4 | .a24 => 3
/-- Format code (Table 4.7). -/
def AFmt.code : AFmt → Nat
  | .i16 => 4 | .i32 => 5 | .a24 => 6
/-- Accumulator format of a code. -/
def afmtOf (c : Nat) : Option AFmt := if c = 4 then some .i16 else if c = 5 then some .i32 else if c = 6 then some .a24 else none
/-- Bytes of a slot. -/
def footprint (rows : Nat) (f : AFmt) : Nat := rows * 128 * f.size
/-- ⌈log₂ n⌉ for n ≥ 1. -/
def clog2 (n : Nat) : Nat := if n ≤ 1 then 0 else Nat.log2 (n - 1) + 1

/-- Stored element of an accumulator format. -/
def encElem (f : AFmt) (v : Int) : List Byte :=
  match f with
  | .i16 => toBytes 2 (unsigned 16 v)
  | .i32 => toBytes 4 (unsigned 32 v)
  | .a24 => toBytes 3 v.toNat

/-- Element i of a slot's or tile's bytes; A24 elements stay patterns. -/
def decElem (f : AFmt) (bs : List Byte) (i : Nat) : Int :=
  match f with
  | .i16 => signed 16 (field bs (2 * i) 2)
  | .i32 => signed 32 (field bs (4 * i) 4)
  | .a24 => (field bs (3 * i) 3 : Nat)

/-- Elements of a slot's bytes. -/
def decElems (f : AFmt) (bs : List Byte) (n : Nat) : List Int := (List.range n).map (decElem f bs)

/-- Slot descriptor at a byte address of a Pantry. -/
def descOf (p : Pantry) (lo : Nat) : SlotDesc := bankGet p.dir SlotDesc.reset lo

/-! ### Flags and E -/

/-- Add to E, rounded toward +∞ and limited with SAT (R138, R560). -/
def addE (e x : Word) : Word × Bool := upAdd e x

/-- 0.5 × 2^s as F32. -/
def halfStep (s : Nat) : Word := pow2F32 ((s : Int) - 1)

/-! ### I16 rescale (R130 to R132) -/

/-- Halve with rounding half to even. -/
def halve (x : Int) : Int := dyRne ⟨x, 0⟩ 1
/-- A value in units of 2^s, rounded half to even. -/
def toStep (v : Int) (s : Nat) : Int := dyRne ⟨v, 0⟩ s
/-- Whether every element lies in 16 bits. -/
def fits16 (xs : List Int) : Bool := xs.all (fun x => decide (-32768 ≤ x) && decide (x ≤ 32767))
/-- Limit to 16 bits. -/
def clamp16 (x : Int) : Int := max (-32768) (min 32767 x)

/-- State of an I16 addition: elements, step, E, flags, rescales, saturated. -/
structure I16Acc where
  elems : List Int
  step : Nat
  esum : Word
  flags : TileFlags
  resc : Nat
  satd : Bool
  deriving DecidableEq, Repr

/-- Add values (units of 1) to I16 elements under the rescale rules; n bounds the rescales left. -/
def i16Add (vals : List Int) : Nat → I16Acc → I16Acc
  | n, a =>
    let sum := List.zipWith (fun x v => x + toStep v a.step) a.elems vals
    if fits16 sum then
      let r := if a.step = 0 then (a.esum, false) else addE a.esum (halfStep a.step)
      { a with elems := sum, esum := r.1, flags := { a.flags with sat := a.flags.sat || r.2 } }
    else match n with
      | 0 =>
        let r := if a.step = 0 then (a.esum, false) else addE a.esum (halfStep a.step)
        { a with elems := sum.map clamp16, esum := r.1, flags := { a.flags with sat := true }, satd := true }
      | k + 1 =>
        if 7 ≤ a.step then
          let r := addE a.esum (halfStep a.step)
          { a with elems := sum.map clamp16, esum := r.1, flags := { a.flags with sat := true }, satd := true }
        else
          let r := addE a.esum (halfStep (a.step + 1))
          i16Add vals k { a with elems := a.elems.map halve, step := a.step + 1, esum := r.1, resc := a.resc + 1,
                                 flags := { a.flags with resc := true, sat := a.flags.sat || r.2 } }

/-- Halve elements until their step is s (R148). -/
def i16Raise : Nat → I16Acc → I16Acc
  | 0, a => a
  | n + 1, a =>
    let r := addE a.esum (halfStep (a.step + 1))
    i16Raise n { a with elems := a.elems.map halve, step := a.step + 1, esum := r.1,
                        flags := { a.flags with sat := a.flags.sat || r.2 } }

/-! ### Nodes -/

/-- What an addition did beside its result: I16 rescales, I16 saturation, an inexact A24 node. -/
structure NodeFx where
  resc : Nat
  sat16 : Bool
  srnd : Bool
  deriving DecidableEq, Repr

/-- Coordinates that enter the random bits (R127). -/
structure SrKey where
  cseed : Long
  otrow : Nat
  otcol : Nat
  deriving DecidableEq, Repr

/-- An A24 rounding node over all elements (R122, R127, R58): the sum, E and SROUND. -/
def a24Node (k : SrKey) (node lrank : Nat) (l r : Partial) : Partial × NodeFx :=
  let res := (List.zip l.elems r.elems).zipIdx.map (fun e =>
    let a := readA24 e.1.1.toNat
    let b := readA24 e.1.2.toNat
    (roundA24 (dyAdd a.1 b.1) (srbits k.cseed k.otrow k.otcol node lrank e.2), a.2 || b.2))
  let ulp := (res.filterMap (fun e => e.1.ulp)).max?
  let e0 := addE l.esum r.esum
  let e1 := match ulp with | some g => addE e0.1 (upDy ⟨1, g⟩) | none => (e0.1, false)
  let fl := TileFlags.or l.flags r.flags
  ({ level := l.level + 1, index := l.index / 2, elems := res.map (fun e => (e.1.bits : Int)), step := 0, esum := e1.1,
     flags := { fl with sat := fl.sat || res.any (fun e => e.1.sat) || e0.2 || e1.2, sround := fl.sround || ulp.isSome,
                        rsvd := fl.rsvd || res.any (fun e => e.2) },
     passes := l.passes + r.passes },
   ⟨0, false, ulp.isSome⟩)

/-- An exact integer node (I32; R147). -/
def i32Node (l r : Partial) : Partial × NodeFx :=
  let e := addE l.esum r.esum
  let fl := TileFlags.or l.flags r.flags
  ({ l with level := l.level + 1, index := l.index / 2, elems := List.zipWith (· + ·) l.elems r.elems, esum := e.1,
            flags := { fl with sat := fl.sat || e.2 }, passes := l.passes + r.passes }, ⟨0, false, false⟩)

/-- Combination of two I16 partials: equal steps first, then the rescale rules (R148); an addition without a rescale adds nothing
to E, also where it saturates at step 7 (Table 4.5, R131). -/
def i16Node (l r : Partial) : Partial × NodeFx :=
  let up : Partial → Nat → I16Acc := fun p s => i16Raise (s - p.step) ⟨p.elems, p.step, p.esum, p.flags, 0, false⟩
  let s := max l.step r.step
  let a := up l s
  let b := up r s
  let e := addE a.esum b.esum
  let sum := List.zipWith (· + ·) a.elems b.elems
  let fl := TileFlags.or a.flags b.flags
  let fl := { fl with sat := fl.sat || e.2 }
  let c : I16Acc := if fits16 sum then ⟨sum, s, e.1, fl, 0, false⟩
    else if 7 ≤ s then ⟨sum.map clamp16, s, e.1, { fl with sat := true }, 0, true⟩
    else i16Add (b.elems.map (fun x => x * (2 : Int) ^ s)) 7 ⟨a.elems, s, e.1, fl, 0, false⟩
  ({ level := l.level + 1, index := l.index / 2, elems := c.elems, step := c.step, esum := c.esum, flags := c.flags,
     passes := l.passes + r.passes }, ⟨c.resc, c.satd, false⟩)

/-- A node of the canonical, local or rank tree. -/
def nodeOf (f : AFmt) (k : SrKey) (node lrank : Nat) (l r : Partial) : Partial × NodeFx :=
  match f with
  | .a24 => a24Node k node lrank l r
  | .i32 => i32Node l r
  | .i16 => i16Node l r

/-- NODE of a tree position: kind 0 canonical, 1 local, 2 rank (Table 4.2). -/
def nodeId (kind level index : Nat) : Nat := kind * 0x40000000 + level * 0x10000 + index

/-- Count what nodes did in a Pantry. -/
def countFx (s : State) (p : Nat) (x : NodeFx) : State :=
  modPantry s p (fun q => { q with
    rescCnt := q.rescCnt + BitVec.ofNat 32 x.resc, srndCnt := if x.srnd then q.srndCnt + 1 else q.srndCnt,
    flags := if x.sat16 then q.flags ||| 1 else q.flags })

/-! ### The stack of an A24 tree -/

/-- NODE kind and LRANK of a command's tree: canonical, or local with its rank (R145). -/
def treeKind (c : WinCmd) : Nat × Nat := if c.splitN ≠ 0 ∧ c.unal then (1, c.splitRank) else (0, 0)

/-- Combine completed siblings at the top of the stack (newest first). -/
def mergeTop (k : SrKey) (kind lrank : Nat) : Nat → List Partial → List NodeFx → List Partial × List NodeFx
  | 0, st, fx => (st, fx)
  | n + 1, r :: l :: t, fx =>
    if l.level = r.level ∧ r.index = l.index + 1 ∧ l.index % 2 = 0 then
      let x := a24Node k (nodeId kind (l.level + 1) (l.index / 2)) lrank l r
      mergeTop k kind lrank n (x.1 :: t) (fx ++ [x.2])
    else (r :: l :: t, fx)
  | _ + 1, st, fx => (st, fx)

/-- Lift a node without a right child to the level of a right child (it equals its left child, with no rounding). -/
def lift : Nat → Partial → Partial
  | 0, p => p
  | n + 1, p => if p.index % 2 = 0 then lift n { p with level := p.level + 1, index := p.index / 2 } else p

/-- After the last leaf: combine what is left, from the right. -/
def collapse (k : SrKey) (kind lrank : Nat) : Nat → List Partial → List NodeFx → List Partial × List NodeFx
  | 0, st, fx => (st, fx)
  | n + 1, r :: l :: t, fx =>
    let m := mergeTop k kind lrank 20 (lift 20 r :: l :: t) fx
    collapse k kind lrank n m.1 m.2
  | _ + 1, st, fx => (st, fx)

/-- Move the running error sum onto the newest subtree, so that E is one sum in the order of events. -/
def takeE : List Partial → Word × List Partial
  | [] => (0, [])
  | p :: t => (p.esum, { p with esum := 0 } :: t)

/-! ### Leaves (R122 to R126) -/

/-- The exact A24 pattern of a leaf (R126). -/
def leafA24 (v : Int) : Int := (writeA24 v 0 : Nat)

/-- Add one leaf to a tree, in pass-index order. -/
def addLeafTree (k : SrKey) (c : WinCmd) (t : Tree) (lf : Leaf) : Tree × List NodeFx :=
  match t.fmt with
  | .a24 =>
    let e := takeE t.stack
    let r := addE e.1 lf.esum
    let kd := treeKind c
    let idx := if kd.1 = 1 then lf.p - c.kFirst else lf.p
    let leaf : Partial := { level := 0, index := idx, elems := lf.elems.map leafA24, step := 0, esum := r.1,
                            flags := { lf.flags with sat := lf.flags.sat || r.2 }, passes := 1 }
    let m := mergeTop k kd.1 kd.2 20 (leaf :: e.2) []
    ({ t with stack := m.1, next := lf.p + 1 }, m.2)
  | .i32 =>
    let z : Partial := { level := 0, index := 0, elems := List.replicate (t.rows * 128) 0, step := 0, esum := 0,
                         flags := TileFlags.none, passes := 0 }
    let a := t.stack.headD z
    let r := addE a.esum lf.esum
    let fl := TileFlags.or a.flags lf.flags
    ({ t with
        next := lf.p + 1, stack := [{ a with
        elems := List.zipWith (· + ·) a.elems lf.elems, esum := r.1, flags := { fl with sat := fl.sat || r.2 },
        passes := a.passes + 1 }] }, [])
  | .i16 =>
    let z : Partial := { level := 0, index := 0, elems := List.replicate (t.rows * 128) 0, step := 0, esum := 0,
                         flags := TileFlags.none, passes := 0 }
    let a := t.stack.headD z
    let r := addE a.esum lf.esum
    let fl := TileFlags.or a.flags lf.flags
    let x := i16Add lf.elems 7 ⟨a.elems, a.step, r.1, { fl with sat := fl.sat || r.2 }, 0, false⟩
    ({ t with
        next := lf.p + 1, stack := [{ a with
        elems := x.elems, step := x.step, esum := x.esum, flags := x.flags, passes := a.passes + 1 }] },
     [⟨x.resc, x.satd, false⟩])

/-- Count what a list of nodes did. -/
def countFxs (s : State) (p : Nat) (xs : List NodeFx) : State := xs.foldl (fun s x => countFx s p x) s

/-- The partial that a slot holds: elements, step, E, flags, passes. -/
def slotPartial (p : Pantry) (lo rows : Nat) (f : AFmt) : Partial :=
  let d := descOf p lo
  { level := 0, index := 0, elems := decElems f (p.sram.read lo (footprint rows f)) (rows * 128), step := d.step,
    esum := d.esum, flags := d.flags, passes := d.passes.toNat }

/-- Write a slot: bytes and descriptor. -/
def putSlot (s : State) (p lo : Nat) (f : AFmt) (x : Partial) : State :=
  modPantry s p (fun q => { q with
    sram := q.sram.write lo (x.elems.flatMap (encElem f)),
    dir := bankPut q.dir lo ⟨x.flags, x.step, x.esum, BitVec.ofNat 32 x.passes⟩ })

/-! ### Opening and closing trees -/

/-- First byte of a context's Pantry region (R353). -/
def regionBase (s : State) (n : Nat) : Nat := ((ctxOf s n).map (fun x => x.base * 0x10000)).getD 0
/-- First slot byte of a tree: fixed once it is open, else where its context's region stands now (R357). -/
def treeLo (s : State) (t : Tree) : Nat := if t.open_ then t.lo else regionBase s t.ctx + t.rel
/-- Whether two trees of one Pantry share bytes. -/
def treesMeet (s : State) (t u : Tree) : Bool :=
  decide (u.pantry = t.pantry) && decide (treeLo s u < treeLo s t + (t.hi - t.lo)) && decide (treeLo s t < treeLo s u + (u.hi - u.lo))

/-- A tree's first commit has to wait: another tree that shares bytes is open, or its first commit came earlier and waits too
(R121; trees stand in the order of their first commits). -/
def overlapped (s : State) (t : Tree) : Bool :=
  s.trees.any (fun u => u.open_ && decide (u.op ≠ t.op) && treesMeet s t u) ||
  (s.trees.takeWhile (fun u => decide (u.op ≠ t.op))).any (fun u => u.waiting && treesMeet s t u)

/-- The tree of a command. -/
def findTree (s : State) (id : OpId) : Option Tree := s.trees.find? (fun t => t.op = id)
/-- Replace the tree of a command. -/
def putTree (s : State) (t : Tree) : State := { s with trees := s.trees.map (fun u => if u.op = t.op then t else u) }

/-- Where the preload enters (R125): I16 in the participant that holds pass 0; I32 and A24 at rank 0. -/
def preloads (c : WinCmd) (f : AFmt) : Bool :=
  c.pinit && (match f with | .i16 => decide (c.kFirst = 0) | _ => decide (c.splitRank = 0))

/-- Open a tree: its slot bytes are fixed, TREEOPEN, TREE, and an I16 preload as the leaf before pass 0 (R120, R125). -/
def openTree (s : State) (c : WinCmd) (t : Tree) : State × Tree :=
  let lo := treeLo s t
  let t := { t with lo := lo, hi := lo + (t.hi - t.lo) }
  let st := if preloads c t.fmt && decide (t.fmt = .i16) then [slotPartial (pantry s t.pantry) t.lo t.rows .i16] else []
  let s := modPantry s t.pantry (fun p => { p with treeOpen := p.treeOpen + 1 })
  (audTake s 6 1, { t with open_ := true, waiting := false, stack := st })

/-- Close a tree with its command's result in place: TREECLOSE, TREE (R120, R154); its partial slots are left with free
values (R119). -/
def shutTree (s : State) (t : Tree) : State :=
  let s := { s with trees := s.trees.filter (fun u => u.op ≠ t.op) }
  let fp := footprint t.rows t.fmt
  let s := if t.hi ≤ t.lo + fp then s
    else
      let r := freshNat s
      modPantry r.2 t.pantry (fun p => { p with sram := p.sram.write (t.lo + fp) (toBytes (t.hi - t.lo - fp) r.1) })
  audGive (modPantry s t.pantry (fun p => { p with treeClose := p.treeClose + 1 })) 6 1

/-- R60 at an I32 root: limit each element. -/
def limI32 (x : Partial) : Partial × Bool :=
  let outside := x.elems.any (fun v => decide (v < -2147483648) || decide (2147483647 < v))
  ({ x with elems := x.elems.map (fun v => max (-2147483648) (min 2147483647 v)),
            flags := { x.flags with sat := x.flags.sat || outside } }, outside)

/-- The key of a command's random bits. -/
def srKey (s : State) (o : Op) (c : WinCmd) : SrKey := ⟨((ctxOf s o.ctx).map (·.cseed)).getD 0, c.otrow, c.otcol⟩

/-- The final value from the root: the preload of I32 and A24, R60 once (R124, R125). -/
def finalValue (s : State) (o : Op) (c : WinCmd) (t : Tree) (root : Partial) : State × Partial :=
  let pre := slotPartial (pantry s t.pantry) t.lo t.rows t.fmt
  match t.fmt with
  | .i16 => (s, root)
  | .a24 =>
    if preloads c .a24 then
      let x := a24Node (srKey s o c) 0xC0000000 0 root pre
      (countFx s t.pantry x.2, x.1)
    else (s, root)
  | .i32 =>
    let x := if preloads c .i32 then (i32Node root pre).1 else root
    let y := limI32 x
    (if y.2 then modPantry s t.pantry (fun p => { p with flags := p.flags ||| 2 }) else s, y.1)

/-- The record flags of a tile's flags go to the command's completion record (R371). -/
def addRecord (o : Op) (f : TileFlags) : Op := { o with rflags := o.rflags ||| f.record }

/-- The root, with any Truss combination, is complete at rank 0: with EPI 0 the slot takes the value and the tree closes;
with EPI 1 the epilogue follows (R136, R137). -/
def completeRoot (s : State) (o : Op) (c : WinCmd) (t : Tree) (root : Partial) : State :=
  let r := finalValue s o c t root
  let x := { r.2 with flags := { r.2.flags with unalign := r.2.flags.unalign || (decide (c.splitN ≠ 0) && c.unal) } }
  if c.epi then putTree r.1 { t with final := some x, root := some root }
  else
    let s := shutTree (putSlot r.1 t.pantry t.lo t.fmt x) t
    modOp s o.id (fun o => { addRecord o x.flags with done := some .ok })

/-- Admit the leaves that are next in order, counting commits (R123). -/
def admitLeaves (k : SrKey) (c : WinCmd) : Nat → State → Tree → State × Tree
  | 0, s, t => (s, t)
  | n + 1, s, t =>
    match t.held.find? (fun l => l.p = t.next) with
    | none => (s, t)
    | some l =>
      let r := addLeafTree k c { t with held := t.held.filter (fun x => x.p ≠ l.p) } l
      let s := modPantry (countFxs s t.pantry r.2) t.pantry (fun p => { p with commitCnt := p.commitCnt + 1 })
      admitLeaves k c n s r.1

/-- The count of partials of a key that a participant has completed is kept under this number (R444). -/
def kthKey (group otrow otcol src win : Nat) : Nat := (((group * 65536 + otrow) * 65536 + otcol) * 65536 + src) * 8 + win

/-- Where a participant's root lies: a leaf of the rank tree, or the canonical node of its range (R144, R145). -/
def placeRoot (c : WinCmd) (x : Partial) : Partial :=
  if c.splitN = 0 then x
  else if c.unal then { x with level := 0, index := c.splitRank }
  else { x with level := clog2 c.kCount, index := c.kFirst / 2 ^ clog2 c.kCount }

/-- A participant's root is complete: it is the k-th partial of its rank for the key (R444). -/
def numberRoot (s : State) (o : Op) (c : WinCmd) : State :=
  if c.splitN = 0 then s
  else
    let g := ((queueOf s o.q).bind (·.group)).getD 0
    let key := kthKey g c.otrow c.otcol s.nodeId.toNat c.window
    let k := bankGet s.link.kths 0 key
    modOp { s with link := { s.link with kths := bankPut s.link.kths key (k + 1) } } o.id (fun o => { o with gkey := k })

/-- After a change of its held leaves: a tree that is open takes them; with its last leaf its root is complete. -/
def runTree (s : State) (o : Op) (c : WinCmd) (t : Tree) : State :=
  let k := srKey s o c
  let r := admitLeaves k c (t.held.length + 1) s t
  let s := r.1
  let t := r.2
  if t.next < c.kFirst + c.kCount then putTree s t
  else
    let kd := treeKind c
    let m := if t.fmt = .a24 then collapse k kd.1 kd.2 40 t.stack [] else (t.stack, [])
    let s := countFxs s t.pantry m.2
    match m.1 with
    | x :: _ =>
      let t := { t with stack := m.1, root := some (placeRoot c x) }
      let s := numberRoot (putTree s t) o c
      if c.splitN = 0 then completeRoot s o c t x else s
    | [] => putTree s t

/-- A commit reaches the Pantry (R120, R121): the first one opens the tree, or waits for an overlapping one. -/
def commitLeaf (s : State) (o : Op) (c : WinCmd) (t : Tree) (l : Leaf) : State :=
  let t := { t with held := t.held ++ [l] }
  if t.open_ then runTree s o c t
  else if overlapped s t then
    putTree (modPantry s t.pantry (fun p => { p with flags := p.flags ||| 4 })) { t with waiting := true }
  else
    let r := openTree s c t
    runTree (putTree r.1 r.2) o c r.2

/-- The tree record of a WINDOW command before its first commit. Its row sums and K start at 0, with PINIT 1 too: a slot
descriptor holds no row sums, and the spec does not say whether RS_i and K of R75 cover the passes behind a preload (DESIGN
CHOICE, log entry 87). -/
def newTree (s : State) (o : Op) (c : WinCmd) (nvalid : Nat) : Tree :=
  let f := (afmtOf c.afmt).getD .i32
  let rows := srowsOf c.srows
  let fp := footprint rows f
  let lo := regionBase s o.ctx + c.slot * fp
  let hi := lo + fp * (1 + (if f = .a24 then clog2 c.kCount else 0))
  { op := o.id, pantry := c.window, ctx := o.ctx, rel := c.slot * fp, lo := lo, hi := hi, fmt := f, rows := rows, open_ := false,
    next := c.kFirst, held := [], waiting := false, stack := [], root := none, final := none, sent := false,
    rowSum := List.replicate (c.nrows) 0, kCount := 0, farPasses := 0, rowScale := [], nvalid := nvalid }

/-- COMMIT_AFTER_OVERLAP (R121): a waiting commit proceeds once the overlapping tree has closed. -/
def execCommitAfterOverlap (q : Fin 256) (idx : Fin 65536) (s : State) : Host.Outcome State Fault Refusal :=
  .next (match findOp s (q.val, idx.val), findTree s (q.val, idx.val) with
    | some o, some t =>
      match o.cmd with
      | .window c =>
        if t.waiting && !t.open_ && !(overlapped s t) && o.done.isNone then
          let r := openTree s c t
          runTree (putTree r.1 r.2) o c r.2
        else s
      | _ => s
    | _, _ => s)

/-- PANTRY_CORRECTED (R211): CORR. -/
def execPantryCorrected (w : Fin 8) (s : State) : Host.Outcome State Fault Refusal :=
  .next (if powered s then
    modPantry { s with nvm := { s.nvm with frecSum := { s.nvm.frecSum with ceCnt := min 0xFFFFFFFF (s.nvm.frecSum.ceCnt + 1) } } }
      w.val (fun p => { p with flags := p.flags ||| 8 })
  else s)

end Sys2Proof.Machine
end

