-- ==== Sys2Proof/Machine/Window.lean ====
section
/-!
DEFINITION. Window engines (chapter 3): pane images, loading and swapping, slots and witnesses, the certified bound, clip
repeats, quarantine, pairing, qualification and the Lamp's lasers.
-/

namespace Sys2Proof.Machine

open Sys2Proof

/-! ### Service state -/

/-- A Window is in service: IDLE or RUN (R112, R498). -/
def inService (s : State) (w : Nat) : Bool := decide ((win s w).state = .idle) || decide ((win s w).state = .run)
/-- The pair engine. -/
def pairOf (w : Nat) : Nat := w ^^^ 1
/-- The Window that runs work that names w (R111, R112, R496, R559); none: NO_WINDOW. -/
def runWindow (s : State) (w : Nat) : Option Nat :=
  if inService s w then some w
  else if (pantry s w).out then none
  else if inService s (pairOf w) then some (pairOf w)
  else (List.range 8).find? (fun x => inService s x)

/-- A pane of a Window: false A, true B. -/
def paneOf (x : Window) (b : Bool) : Pane := if b then x.paneB else x.paneA
/-- Change a pane. -/
def Window.setPane (x : Window) (b : Bool) (p : Pane) : Window := if b then { x with paneB := p } else { x with paneA := p }
/-- Change a pane of Window w. -/
def modPane (s : State) (w : Nat) (b : Bool) (f : Pane → Pane) : State := modWin s w (fun x => x.setPane b (f (paneOf x b)))

/-- The pane that holds an image. DESIGN CHOICE: pane A where both hold it, since R88 does not say which (log entry 88). -/
def paneWith (x : Window) (img : Long) : Option Bool :=
  let has : Pane → Bool := fun p => match p.image with | some i => decide (i.id = img) | none => false
  if has x.paneA then some false else if has x.paneB then some true else none

/-! ### Quarantine (R105 to R111, R495) -/

/-- A pane emptied by a quarantine (R108). -/
def Pane.emptied (p : Pane) : Pane := { Pane.reset with pin := p.pin }

/-- The pass in flight of a quarantined Window is repeated in full elsewhere (R109, R152, R229). -/
def repeatPass (s : State) (w : Nat) : State :=
  match (win s w).pass with
  | none => s
  | some p =>
    let s := modOp s p.op (fun o => { o with moved := bankPut o.moved p.p w })
    match findOp s p.op with
    | some o => modCtx s o.ctx (fun c => { c with replayed := c.replayed + 1 })
    | none => s

/-- Give a running stream's Dumbwaiter context back. -/
def offDw (s : State) (x : Stream) : State :=
  match x.dw with
  | some d => audGive (modDumb (freeHeld s x) d (fun u => { u with st := 0 })) 3 1
  | none => s

/-- Add a stream, READY for a Dumbwaiter. -/
def addStream (s : State) (x : Stream) : State := { s with streams := bankPut s.streams s.nextSid x, nextSid := s.nextSid + 1 }

/-- Streams that fed a quarantined Window: FEEDs, and image loads of passes, are dropped and run again for the substitute;
the stream of an IMAGE_LOAD is READY again from its start, for the substitute's idle pane, and what its old reads still bring is
dropped (R111; log entry 12). -/
def rerouteStreams (s : State) (w : Nat) : State :=
  let mine : Stream → Bool := fun x => decide (x.win = w) && (decide (x.kind = .feed) || decide (x.kind = .image))
  let keep : Stream → Bool := fun x => decide (x.kind = .image) && (match findOp s x.op with
    | some o => (match o.cmd with | .imageLoad _ _ _ => true | _ => false)
    | none => false)
  let hit := s.streams.filter (fun e => mine e.2)
  let again := hit.filter (fun e => keep e.2)
  let s := hit.foldl (fun s e => offDw s e.2) { s with streams := s.streams.filter (fun e => !(mine e.2)) }
  let s := again.foldl (fun s e => addStream s { e.2 with
    dw := none, held := none, state := .ready, fcode := .none, pos := 0, rpos := 0, buf := [], pending := none }) s
  if (runWindow s w).isSome then s else endOps .noWindow false (again.map (fun e => e.2.op)) s

/-- Quarantine a Window (R108, R151): STATE QUAR, panes EMPTY, QUARCNT, REDIR and MIGR (where its Pantry is in service, R496), one CAPACITY event and record entry for
the change of service state (R495). `cause` is the record's cause code: 1 bound, 2 laser, 3 command, 4 deadline or Pantry. -/
def quarantine (s : State) (w cause : Nat) : State :=
  let x := win s w
  if x.state = .quar ∨ x.state = .retired then s
  else
    let s := repeatPass s w
    let s := modWin s w (fun x => { x with
      state := .quar, active := none, paneA := x.paneA.emptied, paneB := x.paneB.emptied, pass := none, swap := none,
      half0 := none, half1 := none, quarcnt := x.quarcnt + 1, redir := !(pantry s w).out, qualTries := 0, requal := false })
    let s := modPantry s w (fun p => { p with migr := !p.out })
    let s := rerouteStreams s w
    addFrec (capacity s 1 w false) 1 1 w cause 0 noCtx

/-- A Window is RETIRED until service (R115, R496, R497): redirected to a substitute that accumulates into its Pantry, unless
that Pantry is out of service (R112, R151). -/
def retire (s : State) (w : Nat) : State :=
  modPantry (modWin s w (fun x => { x with state := .retired, gone := true, redir := !(pantry s w).out })) w
    (fun p => { p with migr := !p.out })

/-! ### Images (Tables 3.1, 3.2, R79 to R82) -/

/-- Bytes of a pane image. -/
def imageBytes : Nat := 0x18100
/-- REF_jk of an image's bytes. -/
def refOf (bs : List Byte) : List Int := (List.range 16384).map (fun i => signed 16 (field (bs.drop 0x10100) (2 * i) 2))

/-- Entry (j, k) of a reference tile. -/
def refAt (ref : List Int) (j k : Nat) : Int := ref.getD (128 * j + k) 0

/-- PILOTA: the largest a ≤ qm with 2^−RSH × a × Σ_k |REF_jk| ≤ 96 for every j (chapter 3). -/
def pilotA (ref : List Int) (rsh kvalid nvalid qm : Nat) : Nat :=
  let m := ((List.range nvalid).map (fun j => ((List.range kvalid).map (fun k => (refAt ref j k).natAbs)).sum)).foldl max 0
  if m = 0 then qm else min qm (96 * 2 ^ rsh / m)

/-- The header checks of R81. -/
def imageOk (bs : List Byte) (iflevel : Nat) : Bool :=
  decide (bs.length = imageBytes) && decide (field bs 0 4 = 0x4B585031) && decide (1 ≤ field bs 4 1) && decide (field bs 4 1 ≤ iflevel) &&
  decide (field bs 5 1 ≤ 24) && decide (1 ≤ field bs 6 2) && decide (field bs 6 2 ≤ 128) && decide (1 ≤ field bs 8 2) &&
  decide (field bs 8 2 ≤ 128) && decide (crc32 (bs.drop 0x100) = BitVec.ofNat 32 (field bs 12 4)) &&
  decide (1 ≤ pilotA (refOf bs) (field bs 5 1) (field bs 6 2) (field bs 8 2) 7)

/-- The accepted image: reserved bits of the cell words are ignored (R82). -/
def parseImage (bs : List Byte) : Image :=
  let ref := refOf bs
  { id := BitVec.ofNat 64 (field bs 16 8), rsh := field bs 5 1, kvalid := field bs 6 2, nvalid := field bs 8 2,
    cells := (List.range 16384).map (fun i => BitVec.ofNat 32 (field (bs.drop 0x100) (4 * i) 4) &&& 0x0FFF0FFF), ref := ref,
    pilotQ4 := pilotA ref (field bs 5 1) (field bs 6 2) (field bs 8 2) 7,
    pilotQ6 := pilotA ref (field bs 5 1) (field bs 6 2) (field bs 8 2) 31 }

/-- The two 12-bit phases of a cell word plus those of a calibration offset, modulo one turn (R80). -/
def addPhase (a b : Word) : Word :=
  ((a &&& 0xFFF) + (b &&& 0xFFF)) &&& 0xFFF ||| (((a &&& 0x0FFF0000) + (b &&& 0x0FFF0000)) &&& 0x0FFF0000)
/-- The calibration offsets of a pane's cells (R80). -/
def cellOffsets (s : State) (w : Nat) (b : Bool) : List Word := bankGet s.nvm.cellCal [] (2 * w + (if b then 1 else 0))
/-- What the trimmers of a pane are driven to: the image's phases plus each cell's offset (R80; log entry 94). -/
def driveOf (s : State) (w : Nat) (b : Bool) (cells : List Word) : List Word :=
  cells.zipIdx.map (fun e => addPhase e.1 ((cellOffsets s w b).getD e.2 0))

/-- The check of a staged image (R81): SETTLING with its drive and LOADCNT, or EMPTY, IMGERR and IMAGE_INVALID for the loading command. -/
def imageCheck (s : State) (w : Nat) (b : Bool) : State :=
  let p := paneOf (win s w) b
  if imageOk p.staged s.ifLevel.toNat then
    modWin s w (fun x => { (x.setPane b { p with
      state := .settling, image := some (parseImage p.staged), drive := driveOf s w b (parseImage p.staged).cells, staged := [], hist := [], lastQ6 := none }) with loadcnt := x.loadcnt + 1 })
  else
    let s := modWin s w (fun x => { (x.setPane b { p with state := .empty, image := none, staged := [], loader := none, hist := [], lastQ6 := none }) with
      flags := x.flags ||| 4 })
    match p.loader with
    | some id => endOp s id .imageInvalid false
    | none => s

/-- IMAGE_CHECK (R81): once the last word is staged. -/
def execImageCheck (w : Fin 8) (pane : Bool) (s : State) : Host.Outcome State Fault Refusal :=
  let p := paneOf (win s w.val) pane
  .next (if decide (p.state = .staging) && decide (p.staged.length = imageBytes) then imageCheck s w.val pane else s)

/-- The image that pass p of a command needs: identifier and address. -/
def imgOfPass (o : Op) (p : Nat) : Option (Long × Nat) :=
  match o.cmd with
  | .window c => o.imgs[p - c.kFirst]?
  | .refine _ => o.refine.bind (fun r => (r.tiles[p]?).map (fun t => (t.2.2.2.2, t.2.2.1)))
  | _ => none

/-- Pass indices of a command that have neither committed nor started. -/
def passTodo (s : State) (o : Op) (p : Nat) : Bool :=
  !(o.passes.contains p) && (match o.cmd with
    | .window c => decide (c.kFirst ≤ p) && decide (p < c.kFirst + c.kCount)
    | .refine _ => match o.refine with
      | some r => decide (r.stage = .optics) && decide (p < r.tiles.length)
      | none => false
    | _ => false) &&
  (List.range 8).all (fun w => match (win s w).pass with | some x => !(decide (x.op = o.id) && decide (x.p = p)) | none => true)

/-- An input-buffer half. -/
def halfOf (x : Window) (b : Bool) : Option FeedHalf := if b then x.half1 else x.half0
/-- Set an input-buffer half. -/
def Window.setHalf (x : Window) (b : Bool) (h : Option FeedHalf) : Window := if b then { x with half1 := h } else { x with half0 := h }

/-- A pass is ready on a Window: its command has started and its FEED half is complete (R85, R240). -/
def readyHalf (s : State) (x : Window) (b : Bool) : Option FeedHalf :=
  match halfOf x b with
  | some h => if h.ready && (match findOp s h.op with | some o => o.started && o.done.isNone | none => false) then some h else none
  | none => none

/-- SWAP_COMPLETE (R85, R86): the incoming pane is ACTIVE, the outgoing one ARMED. -/
def swapDone (x : Window) (b : Bool) : Window :=
  let back : Pane → Pane := fun p => if p.state = .active then { p with state := .armed } else p
  let x := { x with paneA := back x.paneA, paneB := back x.paneB }
  { x.setPane b { paneOf x b with state := .active } with active := some b, swap := none, swapcnt := x.swapcnt + 1 }

/-- SWAP_COMPLETE. -/
def execSwapComplete (w : Fin 8) (s : State) : Host.Outcome State Fault Refusal :=
  .next (match (win s w.val).swap with
    | some b => modWin s w.val (fun x => swapDone x b)
    | none => s)

/-! ### Slots of a pass (R90 to R93, R101 to R104, R558) -/

/-- D of a WDENS value (R92). -/
def densOf (d : Nat) : Nat := 16 * 2 ^ d

/-- Whether a modulator format uses the Q6 slot format. -/
def SlotFmt.q6slots (f : SlotFmt) : Bool := decide (f ≠ .q4)
/-- qm: the largest code of the slot format. -/
def SlotFmt.qm (f : SlotFmt) : Nat := if f = .q4 then 7 else 31
/-- Slots that issue during L_clip = 8.0 ns (Table 3.3). -/
def SlotFmt.lag (f : SlotFmt) : Nat := if f = .q4 then 60 else 30

/-- The high and low slices of a Q8 code (R91). -/
def sliceHigh (x : Int) : Int := (x + 16) / 32
def sliceLow (x : Int) : Int := x - 32 * sliceHigh x

/-- A code that counts as a clip. -/
def isClip (c : Int) : Bool := decide (c ≤ -127) || decide (127 ≤ c)
/-- Whether a slot clips in an output below NVALID (R101). -/
def SlotRes.clips (nvalid : Nat) (r : SlotRes) : Bool := (r.codes.take nvalid).any isClip

/-- The slot sequence of a round: work slots with a witness after every D − 1, and one more after the last work slot of the
pass unless that slot closed a group (R92). True marks a witness. -/
def planRound (prior d : Nat) (last : Bool) : Nat → List Bool
  | 0 => if last && decide (prior % (d - 1) ≠ 0) then [true] else []
  | n + 1 => false :: (if (prior + 1) % (d - 1) = 0 then [true] else []) ++ planRound (prior + 1) d last n

/-- Work slots issued by slots with the steps they have reached. -/
def workSlots (xs : List SlotRes) : Nat := (xs.map (fun x => x.r + 1)).sum

/-- Slots to repeat in the next round. -/
def toRepeat (nvalid : Nat) (round : Nat) (xs : List SlotRes) : List SlotRes :=
  xs.filter (fun x => decide (x.r = round) && x.clips nvalid)

/-- NVALID of the image that a pass runs through. -/
def passNvalid (x : Window) (p : Pass) : Nat := (((paneOf x p.pane).image).map (·.nvalid)).getD 128

/-- The last slot of the pass in flight has ended, its last round included (R85, R102); so it has where none is in flight. -/
def slotsOver (x : Window) : Bool :=
  match x.pass with
  | some p => p.plan.isEmpty && (decide (p.round = 3) || (toRepeat (passNvalid x p) p.round p.slots).isEmpty)
  | none => true

/-- PANE_SWAP (R85): the outgoing pane's last slot has ended and the incoming pane is ARMED. -/
def execPaneSwap (w : Fin 8) (pane : Bool) (s : State) : Host.Outcome State Fault Refusal :=
  let x := win s w.val
  .next (if inService s w.val && slotsOver x && decide (x.swap = none) && decide ((paneOf x pane).state = .armed) &&
      decide (x.active ≠ some pane) then
    modWin s w.val (fun x => { x with swap := some pane })
  else s)

/-- Outputs of a slot that saturate at r = 3 (R104). -/
def satCount (nvalid : Nat) (x : SlotRes) : Nat := ((x.codes.take nvalid).filter isClip).length

/-- The slots of the round in progress, in order. -/
def roundSlots (p : Pass) : List SlotRes := p.slots.filter (fun r => r.r = p.round)

/-- The clips of the round's work slots before the n-th are decided: in the last round each output that still clips counts
(R104, R558). -/
def decideClips (x : Window) (p : Pass) (n : Nat) : Window × Pass :=
  let sat := if p.round = 3 then ((((roundSlots p).take n).drop p.decided).map (satCount (passNvalid x p))).sum else 0
  ({ x with satcnt := x.satcnt + BitVec.ofNat 32 sat, flags := if sat = 0 then x.flags else x.flags ||| 16 },
   { p with decided := max p.decided n, sat := p.sat || decide (sat ≠ 0) })

/-- Issue one slot: the counters of R558. A witness takes its sign pattern from WSEED and WITCNT as they stand at its issue (R94). -/
def issueOne (x : Window) (p : Pass) (wit : Bool) : Window × Pass :=
  if wit then
    let left := (p.plan.filter (fun b => !b)).length
    ({ x with witcnt := x.witcnt + 1 },
     { p with pendWit := p.pendWit ++ [⟨p.sinceWit, (roundSlots p).length - left, x.wseed, x.witcnt⟩], sinceWit := p.sinceWit + 1 })
  else
    ({ x with symcnt := x.symcnt + 1, repcnt := if p.round = 0 then x.repcnt else x.repcnt + 1 },
     { p with sinceWit := p.sinceWit + 1 })

/-- Whether a slot may issue: fewer than L_clip's slots since the oldest undecided witness (R105). -/
def mayIssue (p : Pass) : Bool :=
  match p.pendWit with
  | [] => true
  | e :: _ => decide (p.sinceWit - (e.pos + 1) < p.fmt.lag)

/-- Issue slots of the plan while they may issue. -/
def issueGo : Nat → Window → Pass → Window × Pass
  | 0, x, p => (x, p)
  | n + 1, x, p =>
    match p.plan with
    | [] => (x, p)
    | b :: t =>
      if mayIssue p then
        let r := issueOne x { p with plan := t } b
        issueGo n r.1 r.2
      else (x, p)

/-- Issue what may issue and put the pass back; every issued word passes the Window's input FIFO (IFIFO). -/
def issue (s : State) (w : Nat) (p : Pass) : State :=
  let r := issueGo p.plan.length (win s w) p
  audPass (modWin s w (fun _ => { r.1 with pass := some r.2 })) 9 (p.plan.length - r.2.plan.length)

/-! ### The bound (R94, R96) -/

/-- Exact witness product p_j. -/
def witProduct (img : Image) (signs : List Bool) (a j : Nat) : Dy :=
  let sum := ((List.range img.kvalid).map (fun k =>
    let r := refAt img.ref j k
    if signs.getD k false then -(r * a) else r * a)).foldl (· + ·) 0
  ⟨sum, -(img.rsh : Int)⟩

/-- The residual of a witness, exact; 127 when an output clips. -/
def residual (img : Image) (signs : List Bool) (a : Nat) (codes : List Int) : Dy × Bool :=
  let cs := (List.range img.nvalid).map (fun j => codes.getD j 0)
  if cs.any isClip then (dyInt 127, true)
  else ((cs.zipIdx.map (fun e => dyAbs (dyAdd (dyInt e.1) (dyNeg (witProduct img signs a e.2))))).foldl dyMax ⟨0, 0⟩, false)

/-- B from D_w, qm, a and FLOOR, each operation rounded toward +∞ (R96). -/
def boundB (dw : Word) (qm a : Nat) (floor : Word) : Word :=
  let m := (upDiv (upMul dw (wInt qm)).1 (wInt a)).1
  (upAdd 0x3F000000 (upMul 0x40800000 (maxF32 m floor)).1).1

/-- FLOOR_p of a pane (Table 3.7). -/
def floorOf (s : State) (w : Nat) (b : Bool) : Word := (if b then s.nvm.floorB else s.nvm.floorA).getD w 0x3F200000

/-- The history set's largest residual (chapter 3): own witnesses, and earlier ones up to H in total. -/
def largestE (own hist : List Word) (h : Nat) : Word := (own ++ hist.take (h - own.length)).foldl maxF32 0

/-- BLIMIT as the part uses it (R118). -/
def blimitUsed (b : Word) : Word := if posFinF32 b && leF32 b 0x42FE0000 then b else 0x41800000

/-- PILOTA of an image for a slot format. -/
def pilotOf (img : Image) (f : SlotFmt) : Nat := if f.q6slots then img.pilotQ6 else img.pilotQ4

/-- A witness's residual becomes known (R96, R105): the clips of the work slots before it are decided, B is recomputed; past
BLIMIT the Window is quarantined, else the pass goes on issuing. -/
def witnessResult (s : State) (w : Nat) (p : Pass) (e : PendWit) (rest : List PendWit) (img : Image) (codes : List Int) : State :=
  let r := decideClips (win s w) p e.work
  let s := modWin s w (fun _ => r.1)
  let a := pilotOf img p.fmt
  let m := residual img (pilotSigns e.seed e.cnt) a codes
  let own := p.own ++ [upDy m.1]
  let b := boundB (largestE own (paneOf r.1 p.pane).hist p.hist) p.fmt.qm a (floorOf s w p.pane)
  let s := if m.2 then modWin s w (fun x => { x with flags := x.flags ||| 8 }) else s
  let p := { r.2 with own := own, bound := b, pendWit := rest }
  if leF32 b p.blimit then issue s w p
  else quarantine (modWin s w (fun x => { x with flags := x.flags ||| 1, pass := some p })) w 1

/-- WITNESS_RESULT (R96): the oldest undecided witness of the pass in flight. -/
def execWitnessResult (w : Fin 8) (codes : List Int) (s : State) : Host.Outcome State Fault Refusal :=
  .next (match (win s w.val).pass with
    | some p =>
      match p.pendWit, (paneOf (win s w.val) p.pane).image with
      | e :: rest, some img => witnessResult s w.val p e rest img codes
      | _, _ => s
    | none => s)

/-- CLIP_REPEAT_ROUND (R101, R102): the clipped slots of the last round again, at one more attenuation step. -/
def clipRound (s : State) (w : Nat) (p : Pass) (codes : List (List Int)) : State :=
  let nv := passNvalid (win s w) p
  let rep := toRepeat nv p.round p.slots
  let prior := workSlots p.slots
  let fresh := rep.zipIdx.map (fun e => { e.1 with r := p.round + 1, codes := codes.getD e.2 [] })
  let slots := p.slots.map (fun x => ((fresh.find? (fun f => f.row = x.row ∧ f.high = x.high)).getD x))
  let last := decide (p.round + 1 = 3) || !(fresh.any (fun f => f.clips nv))
  issue s w { p with slots := slots, round := p.round + 1, decided := 0, clipRep := true, plan := planRound prior p.dens last rep.length }

/-- CLIP_REPEAT_ROUND. -/
def execClipRepeatRound (w : Fin 8) (codes : List (List Int)) (s : State) : Host.Outcome State Fault Refusal :=
  .next (match (win s w.val).pass with
    | some p =>
      if p.plan.isEmpty && p.pendWit.isEmpty && decide (p.round < 3) &&
          !(toRepeat (passNvalid (win s w.val) p) p.round p.slots).isEmpty then
        clipRound s w.val p codes
      else s
    | none => s)

/-! ### Starting a pass (R30, R88 to R92, R111, R112, R483) -/

/-- Slots of a pass in order, with what they drive and the converter codes of their first issue: a Q8 row is split into its
slices, the high one first (R91). -/
def firstSlots (fmt : SlotFmt) (rows codes : List (List Int)) : List SlotRes :=
  rows.zipIdx.flatMap (fun e =>
    if fmt = .q8 then
      [⟨e.2, true, e.1.map sliceHigh, 0, codes.getD (2 * e.2) []⟩, ⟨e.2, false, e.1.map sliceLow, 0, codes.getD (2 * e.2 + 1) []⟩]
    else [⟨e.2, false, e.1, 0, codes.getD e.2 []⟩])

/-- The modulator format of a command (Table 2.6, R70). -/
def modFmt (infmt qfmt zpmode : Nat) : SlotFmt :=
  let b := if infmt = 3 then qfmt - 1 else infmt
  if b = 0 then (if zpmode = 1 then .q6 else .q4)
  else if b = 1 then (if zpmode = 1 then .q8 else .q6)
  else .q8

/-- zx of a command and whether it was replaced by 0 (R69, R72, R561). -/
def zxOf (c : WinCmd) : Int × Bool :=
  if c.rsrc = 1 then (0, false)
  else if c.zpmode = 1 ∨ (c.zpmode = 2 ∧ c.epi) then
    let z := signed 8 c.zpx.toNat
    if z < -(qmax c.infmt : Int) ∨ (qmax c.infmt : Int) < z then (0, true) else (z, false)
  else (0, false)

/-- One input row read for the modulator: codes, E8 of the row scaler (127 without), RSVD (R46, R47, R67, R73). -/
def readRow (c : WinCmd) (kvalid : Nat) (bs : List Byte) : List Int × Nat × Bool :=
  if c.infmt = 3 then
    let raw := (rawRow 3 bs).map readBf16
    let r := rowScale (qmax (c.qfmt - 1)) (-126) (raw.map (fun e => dyOf f32 e.1.toNat))
    ((r.2.take kvalid), (r.1 + 127).toNat, raw.any (·.2))
  else
    let raw := ((rawRow c.infmt bs).take kvalid).map (readQ c.infmt)
    let z := zxOf c
    ((raw.map (fun e => if c.zpmode = 1 then e.1 - z.1 else e.1)), 127, raw.any (·.2))

/-- Start a pass on a Window whose pane is in the light path; `sat` and `rsvd` are the flags it starts with (R62). -/
def startPass (s : State) (w : Nat) (o : Op) (p home : Nat) (pane : Bool) (half : Option Bool) (fmt : SlotFmt)
    (rows : List (List Int)) (rowSc : List Nat) (sat rsvd : Bool) (codes : List (List Int)) : State :=
  let x := win s w
  let slots := firstSlots fmt rows codes
  let d := densOf x.wdens.toNat
  let nv := (((paneOf x pane).image).map (·.nvalid)).getD 128
  let last := !(slots.any (fun r => r.clips nv))
  let pass : Pass :=
    { op := o.id, p := p, pane := pane, home := home, half := half, fmt := fmt, rows := rows, rowScale := rowSc,
      rowSum := rows.map (fun r => r.foldl (· + ·) 0), dens := d, hist := x.hist.toNat + 1, blimit := blimitUsed x.blimit,
      slots := slots, round := 0, plan := planRound 0 d last slots.length, sinceWit := 0, pendWit := [], decided := 0,
      own := [], bound := 0, clipRep := false, sat := sat, rsvd := rsvd, moved := (bankFind o.moved p).isSome }
  let s := modWin s w (fun x => { (x.setPane pane { paneOf x pane with lastQ6 := some fmt.q6slots }) with state := .run })
  issue s w pass


/-- A new stream of a command. -/
def mkStream (o : Op) (k : Kind) : Stream :=
  { op := o.id, kind := k, toUnit := true, cls := o.cls, ctx := o.ctx, src := 0, dst := 0, rowLen := 1, nRows := 1,
    sStride := 1, dStride := 1, pos := 0, rpos := 0, state := .ready, fcode := .none, faultVa := 0, pending := none,
    dw := none, buf := [], segs := [], win := 0, half := false, slot := 0, held := none }

/-- Start loading an image into a pane for a command (R83, R87, R111): the pane leaves the light path. -/
def loadPane (s : State) (o : Op) (w : Nat) (b : Bool) (addr : Nat) : State :=
  let s := modWin s w (fun x => { (x.setPane b { Pane.reset with state := .staging, loader := some o.id, pin := (paneOf x b).pin }) with
    active := if x.active = some b then none else x.active })
  addStream s { mkStream o .image with src := addr, rowLen := imageBytes, sStride := imageBytes, dStride := imageBytes, win := w, half := b }

/-- A pane that a command's class may load (R292): not pinned for C0, or the command is C0. -/
def paneFree (o : Op) (p : Pane) : Bool := decide (p.pin = none) || decide (o.cls = 0)

/-- The idle pane: the one that is not in the light path and not being swapped in. DESIGN CHOICE: pane B where neither is, since
R111 does not say which (log entry 88). -/
def idlePane (x : Window) : Bool :=
  match x.swap with
  | some b => !b
  | none => decide (x.active ≠ some true)
/-- No pass in flight uses a pane (R83). -/
def paneQuiet (x : Window) (b : Bool) : Bool := match x.pass with | some p => decide (p.pane ≠ b) | none => true
/-- The image of a redirected or Refine pass, when neither pane holds or loads it, is loaded into the idle pane (R111), which
may go on while a pass runs through the other. -/
def fetchImage (s : State) (o : Op) (w : Nat) (addr : Nat) : State :=
  let x := win s w
  let b := idlePane x
  let p := paneOf x b
  if paneQuiet x b && decide (p.state = .empty ∨ p.state = .armed) && paneFree o p then loadPane s o w b addr else s

/-- A command of the same queue that stands no later than o, o itself included. -/
def notLater (o : Op) (id : OpId) : Bool := decide (id.1 = o.q) && decide ((o.idx + 65536 - id.2) % 65536 < 32768)
/-- An image is being loaded into the Window by an earlier command of the queue, or for this one (R88, R111, R365). -/
def loading (s : State) (o : Op) (w : Nat) : Bool :=
  [false, true].any (fun b => match (paneOf (win s w) b).loader with | some id => notLater o id | none => false) ||
  s.ops.any (fun u => u.done.isNone && notLater o u.id && decide (u.idx ≠ o.idx) &&
    (match u.cmd with | .imageLoad _ x _ => decide (x = w) || decide (runWindow s x = some w) | _ => false))

/-- The image in a pane counts as resident for a command: not one that a later command is still loading (R88). -/
def paneHeld (o : Op) (p : Pane) : Bool := match p.loader with | some id => decide (id.1 ≠ o.q) || notLater o id | none => true
/-- The Windows that a pass of a command may run on now (R111, R112, R229); a pass that a quarantine ended is repeated on that
Window's substitute (R109). -/
def allowedOn (s : State) (o : Op) (p w : Nat) : Bool :=
  match o.cmd, bankFind o.moved p with
  | .window c, _ => decide (runWindow s c.window = some w)
  | .refine _, some m => decide (runWindow s m = some w)
  | .refine c, none => (List.range 8).any (fun m => c.wmask.getLsbD m && decide (runWindow s m = some w))
  | _, _ => false

/-- Whether a command has no Window left (R112, R224). -/
def noWindowLeft (s : State) (o : Op) : Bool :=
  match o.cmd with
  | .window c => decide (runWindow s c.window = none)
  | .refine c => (List.range 8).all (fun m => !(c.wmask.getLsbD m) || decide (runWindow s m = none))
  | _ => false

/-- The codes of one 128-element block of a Refine's Window input, beyond N as 0 (R221, R222). -/
def refineRow (r : RefineSt) (tcol : Nat) : List Int := (List.range 128).map (fun k => r.codes.getD (128 * tcol + k) 0)

/-- The requesters of a Window, as class and queue: those with a pass that it could start now, of a ready FEED half or of a
Refine, whose image is in the light path; a C0 pass waits whatever pane it needs (R278 to R280). -/
def passReqs (s : State) (w : Nat) : List (Nat × Nat) :=
  let x := win s w
  let lit : Option Long := (x.active.bind (fun b => (paneOf x b).image)).map (·.id)
  let fits : Op → Nat → Bool := fun o p => decide (o.cls = 0) || decide ((imgOfPass o p).map (·.1) = lit)
  [false, true].filterMap (fun h => match readyHalf s x h with
    | some f => (match findOp s f.op with | some o => if fits o f.p then some (o.cls, o.q) else none | none => none)
    | none => none) ++
  s.ops.filterMap (fun o => match o.refine with
    | some r => if o.done.isNone && (List.range r.tiles.length).any (fun p => passTodo s o p && allowedOn s o p w && decide ((imgOfPass o p).map (·.1) = lit) && fits o p)
        then some (o.cls, o.q) else none
    | none => none)

/-- The pass indices of a command. -/
def passIndices (o : Op) : List Nat :=
  match o.cmd with
  | .window c => (List.range c.kCount).map (· + c.kFirst)
  | .refine _ => match o.refine with | some r => List.range r.tiles.length | none => []
  | _ => []

/-- Whether a pass that needs a pane is ready to start (R85): its command has started, its FEED half is complete (a Refine pass
has none), it may run here, and its class holds the Window's grant. -/
def passWaits (s : State) (w : Nat) (b : Bool) : Bool :=
  let x := win s w
  let fed : Op → Nat → Bool := fun o p => match o.cmd with
    | .window _ => [false, true].any (fun h => match readyHalf s x h with | some f => decide (f.op = o.id) && decide (f.p = p) | none => false)
    | _ => true
  match (paneOf x b).image with
  | none => false
  | some m => s.ops.any (fun o => o.started && o.done.isNone && !(paced s o.cls) &&
      arbClass s (8 + w) o.cls (fun c => reqWaits (passReqs s w) c || decide (c = o.cls)) &&
      (passIndices o).any (fun p => passTodo s o p && allowedOn s o p w && fed o p && decide ((imgOfPass o p).map (·.1) = some m.id)))

/-- PANE_ARMED (R84, R85): the load command is done; LATEIMG when the light path is free and a ready pass waited for this pane. -/
def paneArmed (s : State) (w : Nat) (b : Bool) : State :=
  let p := paneOf (win s w) b
  let late := slotsOver (win s w) && passWaits s w b
  let s := modWin s w (fun x => { (x.setPane b { p with state := .armed, loader := none }) with
    flags := if late then x.flags ||| 32 else x.flags })
  match p.loader with
  | some id => modOp s id (fun o => match o.cmd with | .imageLoad _ _ _ => { o with done := some .ok } | _ => o)
  | none => s

/-- PANE_ARMED. -/
def execPaneArmed (w : Fin 8) (pane : Bool) (s : State) : Host.Outcome State Fault Refusal :=
  .next (if decide ((paneOf (win s w.val) pane).state = .settling) then paneArmed s w.val pane else s)

/-- A pass that finds its pane in the light path starts; SAT and RSVD of its input tile enter its flags (R62; log entry 95). -/
def beginPass (s : State) (env : Env) (w : Nat) (o : Op) (p : Nat) (half : Bool) (pane : Bool) (img : Image) (codes : List (List Int)) : State :=
  match o.cmd with
  | .window c =>
    match halfOf (win s w) half with
    | some h =>
      if h.ready && decide (h.op = o.id) && decide (h.p = p) then
        let rows := (List.range c.nrows).map (fun i => readRow c img.kvalid ((h.bytes.drop (i * rowBytes c.infmt)).take (rowBytes c.infmt)))
        let z := zxOf c
        startPass s w o p c.window pane (some half) (modFmt c.infmt c.qfmt c.zpmode) (rows.map (·.1)) (rows.map (·.2.1))
          (env.inFlags.getLsbD 0) (env.inFlags.getLsbD 1 || z.2 || rows.any (·.2.2)) codes
      else s
    | none => s
  | .refine _ =>
    match o.refine.bind (fun r => (r.tiles[p]?).map (fun t => refineRow r t.2.1)) with
    | some row => startPass s w o p w pane none .q8 [row.take img.kvalid] [127] false false codes
    | none => s
  | _ => s

/-- PASS_START (R30, R88, R90, R111, R112, R278 to R280, R365, R483). Without a Window in service a WINDOW command ends NO_WINDOW,
and a Refine stops (R224). -/
def passStart (s : State) (env : Env) (w : Nat) (o : Op) (p : Nat) (half : Bool) (codes : List (List Int)) : State :=
  if noWindowLeft s o then
    match o.cmd with
    | .window _ => endOp s o.id .noWindow false
    | _ => modOp s o.id (fun o => { o with
      itemsOut := [], moved := [], refine := o.refine.map (fun r => { r with stage := .decide, blocks := [], noWin := true }) })
  else if !(allowedOn s o p w) then s
  else
    let x := win s w
    match imgOfPass o p with
    | none => s
    | some (id, addr) =>
      match (paneWith x id).filter (fun b => paneHeld o (paneOf x b)) with
      | some b =>
        match (paneOf x b).image with
        | some img =>
          if decide (x.state = .idle) && decide (x.pass = none) && decide (x.swap = none) && decide (x.active = some b) &&
              decide ((paneOf x b).state = .active) && !(paced s o.cls) && arbGrants s (8 + w) 256 o.cls o.q (passReqs s w) then
            let s' := beginPass s env w o p half b img codes
            if (win s' w).pass = none then s' else arbTake s' (8 + w) 256 o.cls o.q (passReqs s w) (passReqs s' w)
          else s
        | none => s
      | none =>
        match o.cmd with
        | .window c =>
          if w ≠ c.window then (if (loading s o w) then s else fetchImage s o w addr)
          else if loading s o w then s
          else endOp s o.id .imageNotResident false
        | _ => if (loading s o w) then s else fetchImage s o w addr

/-- PASS_START. -/
def execPassStart (w : Fin 8) (q : Fin 256) (idx : Fin 65536) (p : Nat) (half : Bool) (codes : List (List Int)) (env : Env)
    (s : State) : Host.Outcome State Fault Refusal :=
  .next (match findOp s (q.val, idx.val) with
    | some o => if powered s && o.started && o.done.isNone && passTodo s o p then passStart s env w.val o p half codes else s
    | none => s)

/-! ### Completion and commit (R97 to R104, R110) -/

/-- The value that a slot contributes: code × 2^step. -/
def slotVal (xs : List SlotRes) (row : Nat) (high : Bool) (j : Nat) : Int :=
  match xs.find? (fun r => r.row = row ∧ r.high = high) with
  | some r => r.codes.getD j 0 * (2 : Int) ^ r.r
  | none => 0

/-- Folded values of a pass: rows × 128, then zero rows up to n (R89, R103). -/
def foldPass (p : Pass) (nvalid n : Nat) : List Int :=
  (List.range n).flatMap (fun i => (List.range 128).map (fun j =>
    if i < p.rows.length ∧ j < nvalid then
      if p.fmt = .q8 then 32 * slotVal p.slots i true j + slotVal p.slots i false j else slotVal p.slots i false j
    else 0))

/-- F_p (chapter 4, the error bound). -/
def passF (p : Pass) : Nat :=
  let step : Nat → Bool → Nat := fun i h => ((p.slots.find? (fun r => r.row = i ∧ r.high = h)).map (·.r)).getD 0
  ((List.range p.rows.length).map (fun i =>
    if p.fmt = .q8 then 32 * 2 ^ step i true + 2 ^ step i false else 2 ^ step i false)).foldl max 0

/-- The flags of a committed pass. -/
def passFlags (p : Pass) : TileFlags :=
  { TileFlags.none with sat := p.sat, rsvd := p.rsvd, clipRep := p.clipRep, moved := p.moved }

/-- The pass leaves its Window: its history, LASTB, its half and the Window IDLE. -/
def leavePass (s : State) (w : Nat) (p : Pass) : State :=
  modWin s w (fun x =>
    let x := keepOwn x p
    let x := match p.half with | some h => x.setHalf h none | none => x
    { x with pass := none, state := .idle, lastb := p.bound })

/-- A Refine pass's accumulator row goes to Study (R222); the last one of an application starts its updates (R230, R565). -/
def refineCommit (s : State) (o : Op) (p : Pass) (nvalid : Nat) : State :=
  let put : RefineSt → RefineSt := fun r =>
    { r with accs := bankPut r.accs p.p (foldPass p nvalid 1), wpasses := r.wpasses + 1, sat := r.sat || p.sat,
             rsvd := r.rsvd || p.rsvd, moved := r.moved || p.moved }
  let s := modOp s o.id (fun o => { o with passes := o.passes ++ [p.p], refine := o.refine.map put })
  if (o.refine.map (fun r => decide ((put r).accs.length = r.tiles.length))).getD false then
    let s := modOp s o.id (fun o => { o with
      itemsOut := [], moved := [], refine := o.refine.map (fun r => { r with stage := .updates, blocks := [], apps := r.apps + 1 }) })
    { s with study := { s.study with refIter := s.study.refIter + 1 } }
  else s

/-- PASS_COMMIT (R98, R99, R123, R152): one leaf with the error contribution B_c × F_p. -/
def passCommit (s : State) (w : Nat) (p : Pass) (o : Op) : State :=
  let img := (paneOf (win s w) p.pane).image
  let nv := (img.map (·.nvalid)).getD 128
  let kv := (img.map (·.kvalid)).getD 128
  let s := leavePass s w p
  match o.cmd with
  | .window c =>
    let s := modOp s o.id (fun o => { o with passes := o.passes ++ [p.p] })
    let t := (findTree s o.id).getD (newTree s o c nv)
    let s := if (findTree s o.id).isSome then s else { s with trees := s.trees ++ [t] }
    let e := upMul p.bound (wInt (passF p))
    let fl := passFlags p
    let t := { t with rowSum := List.zipWith (· + ·) t.rowSum p.rowSum, kCount := t.kCount + kv, rowScale := p.rowScale, nvalid := nv }
    commitLeaf s { o with passes := o.passes ++ [p.p] } c t ⟨p.p, foldPass p nv t.rows, e.1, { fl with sat := fl.sat || e.2 }⟩
  | .refine _ => refineCommit s o p nv
  | _ => s

/-- The last clip decisions of a pass fall before it commits (R102, R104). -/
def lastClips (s : State) (w : Nat) (p : Pass) : State × Pass :=
  let r := decideClips (win s w) p (roundSlots p).length
  (modWin s w (fun _ => r.1), r.2)

/-- PASS_COMMIT: every slot issued, every witness known, no slot left to repeat. -/
def execPassCommit (w : Fin 8) (s : State) : Host.Outcome State Fault Refusal :=
  .next (match (win s w.val).pass with
    | some p =>
      match findOp s p.op with
      | some o =>
        if p.plan.isEmpty && p.pendWit.isEmpty && (decide (p.round = 3) || (toRepeat (passNvalid (win s w.val) p) p.round p.slots).isEmpty) &&
            leF32 p.bound p.blimit then
          passCommit (lastClips s w.val p).1 w.val (lastClips s w.val p).2 o
        else s
      | none => s
    | none => s)

/-! ### Lasers (R106, R113, R115, R468, R469, R499) -/

/-- Whether a Window's own laser has failed. -/
def ownFailed (s : State) (w : Nat) : Bool := s.lamp.failed.getLsbD w

/-- A laser fails (R106, R113, R115): its bits, LASERLOST, the quarantine or retirement of its Window, CAPACITY and record. -/
def laserFail (s : State) (l : Nat) : State :=
  let bit : BitVec 9 := BitVec.ofNat 9 (2 ^ l)
  let s := { s with
    lamp := { s.lamp with
    lok := s.lamp.lok &&& ~~~bit, enabled := s.lamp.enabled &&& ~~~bit, failed := s.lamp.failed ||| bit } }
  let s := addFrec (capacity s 3 l false) 2 3 l 0 0 noCtx
  let tgt : Option Nat := if l < 8 then (if (win s l).spare then none else some l) else if s.lamp.spareUse then some s.lamp.spareTo else none
  match tgt with
  | none => s
  | some w =>
    let s := modWin s w (fun x => { x with flags := x.flags ||| 2, convRun := 0 })
    let s := if inService s w ∨ (win s w).state = .qual then quarantine s w 2 else s
    if l = 8 ∨ s.lamp.spareUse ∨ s.lamp.failed.getLsbD 8 then retire s w else s

/-- The failure of an unassigned L8 leaves the Windows whose own laser has failed without any (R115; log entry 89). -/
def spareLost (s : State) (l : Nat) : State :=
  if l = 8 ∧ s.lamp.spareUse = false then
    ((List.range 8).filter (fun w => ownFailed s w && decide ((win s w).state = .quar))).foldl retire s
  else s

/-- LASER_LOST (R106): a laser in LOK falls below half its reference. -/
def execLaserLost (l : Fin 9) (s : State) : Host.Outcome State Fault Refusal :=
  .next (if powered s && s.lamp.lok.getLsbD l.val then spareLost (laserFail s l.val) l.val else s)

/-- Switch L8 to a Window (R113). -/
def spareTo (s : State) (w : Nat) : State :=
  let s := modWin s w (fun x => { x with spare := true, convRun := 0 })
  let s := { s with lamp := { s.lamp with spareUse := true, spareTo := w, enabled := s.lamp.enabled ||| 0x100 } }
  let bit : BitVec 8 := BitVec.ofNat 8 (2 ^ w)
  let s := { s with
    thermo := { dropSweep s.thermo w with
      loopOn := s.thermo.loopOn &&& ~~~bit, conv := s.thermo.conv &&& ~~~bit,
      sweepDue := bankPut s.thermo.sweepDue w none } }
  addFrec s 3 3 8 w 0 noCtx

/-- The Window that L8 is switched to (R113): the lowest-numbered one whose own laser has failed. DESIGN CHOICE where two have
failed before the switch, since R113 and R115 name no order then: the other stays quarantined (log entry 89). -/
def spareTarget (s : State) : Option Nat :=
  (List.range 8).find? (fun w => ownFailed s w && decide ((win s w).state ≠ .retired))

/-- SPARE_SWITCH_IN (R113). -/
def execSpareSwitchIn (s : State) : Host.Outcome State Fault Refusal :=
  .next (if powered s && !s.lamp.spareUse && !(s.lamp.failed.getLsbD 8) then
    match spareTarget s with
    | some w => spareTo s w
    | none => s
  else s)

/-- A laser still dark 700 ms after power good (R468). -/
def darkLaser (s : State) (l : Nat) : State :=
  let bit : BitVec 9 := BitVec.ofNat 9 (2 ^ l)
  let s := { s with lamp := { s.lamp with enabled := s.lamp.enabled &&& ~~~bit, failed := s.lamp.failed ||| bit } }
  let s := addFrec (capacity s 3 l false) 2 3 l 0 0 noCtx
  let s := modWin s l (fun x => { x with flags := x.flags ||| 2 })
  if s.lamp.spareUse || s.lamp.failed.getLsbD 8 then retire s l else spareTo s l

/-- LASER_DARK_TIMEOUT (R468): during a cold start, lasers enabled and not in LOK, in ascending order. -/
def execLaserDarkTimeout (s : State) : Host.Outcome State Fault Refusal :=
  .next (if starting s && !s.lampWasLit then
    ((List.range 8).filter (fun l => s.lamp.enabled.getLsbD l && !(s.lamp.lok.getLsbD l) && !(s.lamp.failed.getLsbD l))).foldl darkLaser s
  else s)

/-- LAMP_WEAR (R499): once for each laser. -/
def execLampWear (l : Fin 9) (s : State) : Host.Outcome State Fault Refusal :=
  .next (if powered s && s.lamp.lok.getLsbD l.val && !(s.lamp.worn.getLsbD l.val) then
    raiseEvent { s with
      lamp := { s.lamp with worn := s.lamp.worn ||| BitVec.ofNat 9 (2 ^ l.val) },
      thresh := { s.thresh with flags := s.thresh.flags ||| 8 } } 0x84 noCtx l.val 0
  else s)

/-- LASER_IN_LOK (R469): the laser is lit; its Window's loop starts once RAMPDONE is set. -/
def execLaserInLok (l : Fin 9) (s : State) : Host.Outcome State Fault Refusal :=
  .next (if powered s && s.lamp.enabled.getLsbD l.val && !(s.lamp.failed.getLsbD l.val) && !s.power.trip then
    startLoops { s with lamp := { s.lamp with lok := s.lamp.lok ||| BitVec.ofNat 9 (2 ^ l.val) } }
  else s)

/-! ### Qualification (R114, R470, R497) -/

/-- The null image: REF is 3 on the diagonal (chapter 3). -/
def nullImage : Image :=
  { id := 0, rsh := 0, kvalid := 128, nvalid := 128, cells := [],
    ref := (List.range 16384).map (fun i => if i % 129 = 0 then 3 else 0), pilotQ4 := 7, pilotQ6 := 31 }

/-- The residual of one witness of the null image in the Q6 slot format: p_j = ±93. -/
def nullResidual (signs : List Bool) (codes : List Int) : Int × Bool :=
  let cs := (List.range 128).map (fun j => codes.getD j 0)
  if cs.any isClip then (127, true)
  else ((cs.zipIdx.map (fun e => ((if signs.getD e.2 false then e.1 + 93 else e.1 - 93).natAbs : Int))).foldl max 0, false)

/-- Residuals of a run of witnesses from a WITCNT value: the largest, and whether any clipped. -/
def nullRun (seed : Word) : Word → List (List Int) → Int × Bool → Int × Bool
  | _, [], acc => acc
  | c, x :: t, acc =>
    let r := nullResidual (pilotSigns seed c) x
    nullRun seed (c + 1) t (max acc.1 r.1, acc.2 || r.2)

/-- Outcome of 4,096 witnesses on each pane: largest B, and the Window with its counters (R114, R558). DESIGN CHOICE: the null
image's loads and swaps count in neither LOADCNT nor SWAPCNT, since R114 does not say (log entry 90). -/
def qualRun (s : State) (w : Nat) (resA resB : List (List Int)) : State × Word :=
  let x := win s w
  let a := nullRun x.wseed x.witcnt resA (0, false)
  let b := nullRun x.wseed (x.witcnt + BitVec.ofNat 32 resA.length) resB (0, false)
  let ba := boundB (wInt a.1) 31 31 (floorOf s w false)
  let bb := boundB (wInt b.1) 31 31 (floorOf s w true)
  (modWin s w (fun x => { x with
    witcnt := x.witcnt + BitVec.ofNat 32 (resA.length + resB.length), flags := if a.2 || b.2 then x.flags ||| 8 else x.flags }),
   maxF32 ba bb)

/-- Every resulting B is at most BLIMIT / 2 (R114, R470): the largest one is. -/
def qualPass (s : State) (w : Nat) (b : Word) : Bool :=
  dyLe (dyScale (dyOf f32 b.toNat) 1) (dyOf f32 (blimitUsed (win s w).blimit).toNat)

/-- 4,096 witness slots on each pane. -/
def qualSize (resA resB : List (List Int)) : Bool := decide (resA.length = 4096) && decide (resB.length = 4096)

/-- Back into service (R114): IDLE, panes EMPTY, REDIR clear, CAPACITY, record entry 20. -/
def intoService (s : State) (w : Nat) : State :=
  let s := modWin s w (fun x => { x with
    state := .idle, active := none, paneA := x.paneA.emptied, paneB := x.paneB.emptied, redir := false, qualTries := 0, requal := false })
  let s := modPantry s w (fun p => { p with migr := false })
  addFrec (capacity s 1 w true) 20 1 w 0 0 noCtx

/-- WINDOW_STARTUP_CHECK (R470). -/
def execWindowStartupCheck (w : Fin 8) (resA resB : List (List Int)) (s : State) : Host.Outcome State Fault Refusal :=
  let x := win s w.val
  .next (if starting s && !(isReady s) && s.thresh.hearthRun && decide (x.state = .off ∨ x.state = .qual) && s.thermo.rampDone &&
      s.nvm.recOk.getLsbD w.val && !s.power.trip && laserLit s w.val && decide (2 ≤ x.convRun) && qualSize resA resB then
    let r := qualRun s w.val resA resB
    modWin r.1 w.val (fun x => { x with state := if qualPass s w.val r.2 then .idle else .qual })
  else s)

/-- QUALIFICATION (R497): at the end of a sweep, with CONV set at two successive sweep ends; after the ninth failure the
Window is RETIRED. -/
def execQualification (w : Fin 8) (resA resB : List (List Int)) (s : State) : Host.Outcome State Fault Refusal :=
  let x := win s w.val
  .next (if powered s && decide (x.state = .quar) && x.requal && decide (2 ≤ x.convRun) && laserLit s w.val && !(pantry s w.val).out &&
      qualSize resA resB then
    let r := qualRun s w.val resA resB
    if qualPass s w.val r.2 then intoService r.1 w.val
    else if 8 ≤ x.qualTries then retire r.1 w.val
    else modWin r.1 w.val (fun x => { x with qualTries := x.qualTries + 1, requal := false })
  else s)

/-- READY_DEADLINE's quarantine of the Windows that are not yet in service (R472). -/
def deadlineWindows (s : State) : List Nat :=
  (List.range 8).filter (fun w => let x := win s w
    decide (x.state = .qual) || (decide (x.state = .off) && s.nvm.recOk.getLsbD w))

/-! ### Pantry failure (R153, R496) -/

/-- Contexts that hold slots in a Pantry. -/
def slotHolders (s : State) (w : Nat) : List Nat :=
  (s.ctxs.filter (fun e => e.2.resident && !e.2.lost && decide (e.2.pregion ≠ 0) &&
    ((pantry s w).dir.any (fun d => decide (e.2.base * 0x10000 ≤ d.1) && decide (d.1 < (e.2.base + e.2.pregion) * 0x10000)) ||
     s.trees.any (fun t => decide (t.pantry = w) && decide (t.ctx = e.1))))).map (·.1)

/-- PANTRY_UNCORRECTABLE (R153, R496). -/
def pantryFail (s : State) (w : Nat) : State :=
  let s := modPantry s w (fun p => { p with flags := p.flags ||| 16, out := true })
  let s := addFrec (capacity s 4 w false) 5 4 w 0 0 noCtx
  let s := (slotHolders s w).foldl (fun s n => loseCtx s n 2 0) s
  retire (quarantine s w 4) w

/-- PANTRY_UNCORRECTABLE. -/
def execPantryUncorrectable (w : Fin 8) (s : State) : Host.Outcome State Fault Refusal :=
  .next (if powered s && !(pantry s w.val).out then pantryFail s w.val
    else if powered s then modPantry s w.val (fun p => { p with flags := p.flags ||| 16 }) else s)

end Sys2Proof.Machine
end

