-- ==== Sys2Proof/Machine/Stream.lean ====
section
/-!
DEFINITION. Dumbwaiter streams (chapter 7): starting, prefetch, transactions with merging, translation faults and resumption,
poison on a demand read, host and remote answers, and the end of a stream.
-/

namespace Sys2Proof.Machine

open Sys2Proof

/-! ### The logical sequence (Tables 7.4 and 7.5) -/

/-- Total bytes of a stream. -/
def Stream.total (x : Stream) : Nat := if x.segs.isEmpty then x.rowLen * x.nRows else (x.segs.map (fun g => g.2.length)).sum

/-- Whether a stream reads memory. -/
def Stream.readsMem (x : Stream) : Bool :=
  match x.kind with
  | .copy => true
  | .image => true
  | .feed => true
  | .drain => false
  | .study => x.toUnit
  | .slot => x.toUnit
  | .fill => false

/-- Whether a stream writes memory. -/
def Stream.writesMem (x : Stream) : Bool :=
  match x.kind with
  | .copy => true
  | .image => false
  | .feed => false
  | .drain => true
  | .study => !x.toUnit
  | .slot => !x.toUnit
  | .fill => true

/-- Address and bytes left in a segment at an offset. -/
def segAt : List (Nat × List Byte) → Nat → Nat × Nat
  | [], _ => (0, 0)
  | (a, bs) :: t, off => if off < bs.length then (a + off, bs.length - off) else segAt t (off - bs.length)

/-- Source (or destination) address of a logical offset, and the bytes left in its row. -/
def Stream.addrAt (x : Stream) (src : Bool) (off : Nat) : Nat × Nat :=
  if x.segs.isEmpty then
    let r := off / max 1 x.rowLen
    let o := off % max 1 x.rowLen
    (if src then x.src + r * x.sStride + o else x.dst + r * x.dStride + o, x.rowLen - o)
  else segAt x.segs off

/-- The bytes that a stream writes from its position: the bytes read, zeros, or its segments. -/
def Stream.outBytes (x : Stream) (n : Nat) : List Byte :=
  match x.kind with
  | .fill => List.replicate n 0
  | .copy => x.buf.take n
  | _ => ((x.segs.flatMap (fun g => g.2)).drop x.pos).take n

/-- Kind code (Table 7.5). -/
def Kind.code : Kind → Nat
  | .copy => 0 | .image => 1 | .feed => 2 | .drain => 3 | .study => 4 | .slot => 5 | .fill => 6

/-! ### Commands before a command in its queue (R361, R364) -/

/-- Index a comes before index b, modulo 65,536. -/
def idxBefore (a b : Nat) : Bool := decide (a ≠ b) && decide ((b + 65536 - a) % 65536 < 32768)
/-- The incomplete commands of the same queue before a command. -/
def before (s : State) (o : Op) : List Op := s.ops.filter (fun u => decide (u.q = o.q) && idxBefore u.idx o.idx)
/-- The oldest incomplete index of a queue, if any command is in flight. -/
def oldest (s : State) (q : Nat) : Option Nat :=
  (s.ops.filter (fun o => o.q = q)).foldl
    (fun m o => match m with | some i => if idxBefore o.idx i then some o.idx else some i | none => some o.idx) none
/-- Within the four-command lookahead beyond the oldest incomplete command. -/
def lookahead (s : State) (o : Op) : Bool :=
  match oldest s o.q with
  | some i => decide ((o.idx + 65536 - i) % 65536 ≤ 4)
  | none => false

/-! ### Dumbwaiters -/

/-- The free stream context that a Dumbwaiter gives a stream of a class: context 0 accepts only C0 (R285). -/
def dwSlot (s : State) (d cls : Nat) : Option Nat :=
  (if cls = 0 then [0, 1, 2, 3] else [1, 2, 3]).find? (fun k => !(s.streams.any (fun e => decide (e.2.dw = some d) && decide (e.2.slot = k))))

/-- A Dumbwaiter has a free stream context for a class (R285). -/
def dwFree (s : State) (d cls : Nat) : Bool := (dwSlot s d cls).isSome

/-- Show a stream in its Dumbwaiter's DSTAT. -/
def showDw (s : State) (x : Stream) (st : Nat) : State :=
  match x.dw with
  | some d => modDumb s d (fun u => { u with kind := x.kind.code, cls := x.cls, ctxId := x.ctx, st := st })
  | none => s

/-- Hand a stream to a Dumbwaiter (R237): its descriptor lies in Yilium's part of the Larder at an address that the spec
leaves open. -/
def startOn (s : State) (sid d : Nat) : State :=
  let r := freshNat s
  let s := modStream r.2 sid (fun x => { x with dw := some d, slot := (dwSlot s d x.cls).getD 0, state := .run })
  let s := modDumb s d (fun u => { u with desc := BitVec.ofNat 64 (0xF800000 + 64 * (r.1 % 131072)) })
  match findStream s sid with
  | some x => audTake (showDw s x 1) 3 1
  | none => s

/-! ### Slots as tiles (R140 to R142) -/

/-- Byte range of the slot that a command names. -/
def slotRange (s : State) (ctx slot srows : Nat) (f : AFmt) : Nat × Nat :=
  let fp := footprint (srowsOf srows) f
  let base := ((ctxOf s ctx).map (fun c => c.base * 0x10000)).getD 0
  (base + slot * fp, base + slot * fp + fp)

/-- A tree is open in a range of a Pantry. -/
def treeOver (s : State) (p : Nat) (r : Nat × Nat) : Bool :=
  s.trees.any (fun t => t.open_ && decide (t.pantry = p) && decide (t.lo < r.2) && decide (r.1 < t.hi))

/-- Result metadata (Table 4.6, R100). -/
def metaBytes (f : TileFlags) (epi : Bool) (afmt : AFmt) (step tfmt : Nat) (errb : Word) (passes : Nat) (esrc : Word) : List Byte :=
  toBytes 4 (f.bits + (if epi then 128 else 0) + afmt.code * 256 + step * 4096 + tfmt * 65536) ++ toBytes 4 errb.toNat ++
    toBytes 4 passes ++ toBytes 4 esrc.toNat

/-- The segments of a slot read: the slot as a tile, then its metadata (R141). -/
def slotTile (s : State) (ctx tile met window slot srows : Nat) (f : AFmt) : List (Nat × List Byte) × TileFlags :=
  let r := slotRange s ctx slot srows f
  let p := pantry s window
  let d := descOf p r.1
  ([(tile, p.sram.read r.1 (r.2 - r.1)), (met, metaBytes d.flags false f (if f = .i16 then d.step else 0) f.code d.esum d.passes.toNat d.esum)],
   d.flags)

/-- ESRC as a slot write takes it (R142). -/
def readEsrc (b : Word) : Word × Bool :=
  if b &&& 0x7FFFFFFF = 0 then (0, false) else if posFinF32 b then (b, false) else (0x7F7FFFFF, true)

/-- A tile and metadata enter a slot (R142); a tile of another format makes the command INVALID. DESIGN CHOICE: an ESRC that is
read as the largest finite value sets RSVD, as R142 says, and no SAT of R560 (log entry 91). -/
def slotWriteDone (s : State) (o : Op) (bs : List Byte) (window slot srows : Nat) (f : AFmt) : State :=
  let r := slotRange s o.ctx slot srows f
  let n := r.2 - r.1
  let m := bs.drop n
  let w := field m 0 4
  if w / 65536 % 16 ≠ f.code then modOp s o.id (fun o => { o with done := some .invalid, detail := 42 })
  else
    let e := readEsrc (BitVec.ofNat 32 (field m 12 4))
    let fl := TileFlags.ofBits w
    let s := modPantry s window (fun p => { p with
      sram := p.sram.write r.1 (bs.take n),
      dir := bankPut p.dir r.1 ⟨{ fl with rsvd := fl.rsvd || e.2 }, if f = .i16 then w / 4096 % 8 else 0, e.1, BitVec.ofNat 32 (field m 8 4)⟩ })
    modOp s o.id (fun o => { o with done := some .ok })

/-! ### Loading a pane (R83, R87, R111, R292) -/

/-- Whether a pane may begin to load for a command: no pass in flight on it, no load or settling of another command, not
pinned against the class, not being swapped in (R83, R87, R292). -/
def mayStage (s : State) (o : Op) (w : Nat) (b : Bool) : Bool :=
  let x := win s w
  let p := paneOf x b
  inService s w && (match x.pass with | some a => decide (a.pane ≠ b) | none => true) && decide (x.swap ≠ some b) &&
  decide (p.state ≠ .staging) && decide (p.state ≠ .settling) && decide (p.loader = none) && paneFree o p

/-- Put a pane into STAGING for a command (R87). -/
def stagePane (s : State) (o : Op) (w : Nat) (b : Bool) : State :=
  modWin s w (fun x => { (x.setPane b { Pane.reset with state := .staging, loader := some o.id, pin := (paneOf x b).pin }) with
    active := if x.active = some b then none else x.active })

/-- The pane that an image stream may enter now: its own, staged already or stageable, or the substitute's idle pane. -/
def imageTarget (s : State) (o : Op) (x : Stream) : Option (Nat × Bool) :=
  if (paneOf (win s x.win) x.half).loader = some o.id then some (x.win, x.half)
  else if inService s x.win then (if mayStage s o x.win x.half then some (x.win, x.half) else none)
  else match runWindow s x.win with
    | some t => let b := idlePane (win s t)
      if mayStage s o t b then some (t, b) else none
    | none => none

/-- Start an image stream on a Dumbwaiter, its pane STAGING. -/
def startImage (s : State) (o : Op) (sid d : Nat) (t : Nat × Bool) : State :=
  let s := if (paneOf (win s t.1) t.2).loader = some o.id then s else stagePane s o t.1 t.2
  startOn (modStream s sid (fun x => { x with win := t.1, half := t.2 })) sid d

/-! ### STREAM_START, FEED_PREFETCH, IMAGE_PREFETCH -/

/-- A READY stream of a started command goes to a free Dumbwaiter; a slot transfer waits for open trees (R141, R142), an
image for its pane (R83). -/
def streamStart (s : State) (sid d : Nat) (x : Stream) (o : Op) : State :=
  match x.kind with
  | .image =>
    if inService s x.win || (runWindow s x.win).isSome then
      (match imageTarget s o x with | some t => startImage s o sid d t | none => s)
    else endOp s o.id .noWindow false
  | .slot =>
    match o.cmd with
    | .slotRead tile met window slot srows f =>
      if treeOver s window (slotRange s o.ctx slot srows f) then s
      else
        let r := slotTile s o.ctx tile met window slot srows f
        let s := modOp s o.id (fun o => addRecord o r.2)
        startOn (modStream s sid (fun x => { x with segs := r.1 })) sid d
    | .slotWrite _ _ window slot srows f => if treeOver s window (slotRange s o.ctx slot srows f) then s else startOn s sid d
    | _ => s
  | _ => startOn s sid d

/-- STREAM_START (R237, R285). -/
def execStreamStart (sid : Nat) (d : Fin 16) (s : State) : Host.Outcome State Fault Refusal :=
  .next (match findStream s sid with
    | some x =>
      match findOp s x.op with
      | some o => if powered s && decide (x.state = .ready) && decide (x.dw = none) && o.started && o.done.isNone && dwFree s d.val x.cls
          then streamStart s sid d.val x o else s
      | none => s
    | none => s)

/-- A half of an input buffer that holds a FEED for a pass of a command. -/
def fedAlready (s : State) (id : OpId) (p : Nat) : Bool :=
  (List.range 8).any (fun w => [false, true].any (fun b => match halfOf (win s w) b with
    | some h => decide (h.op = id) && decide (h.p = p)
    | none => false))

/-- The next pass to feed: the lowest that has neither committed nor started nor been fed. -/
def nextFeed (s : State) (o : Op) (c : WinCmd) : Option Nat :=
  ((List.range c.kCount).map (· + c.kFirst)).find? (fun p => passTodo s o p && !(fedAlready s o.id p))

/-- The half is held by a lower-class FEED whose pass has not started (R286). -/
def lowerHalf (s : State) (w : Nat) (b : Bool) : Option Nat :=
  match halfOf (win s w) b with
  | none => none
  | some h =>
    let running := match (win s w).pass with | some p => decide (p.half = some b) | none => false
    match findOp s h.op with
    | some o => if !running && decide (o.cls ≠ 0) then some h.sid else none
    | none => none

/-- Discard the FEED of a half. -/
def discardFeed (s : State) (w : Nat) (b : Bool) : State :=
  match halfOf (win s w) b with
  | none => s
  | some h =>
    let s := match findStream s h.sid with
      | some x => (match x.dw with
        | some d => audGive (modDumb s d (fun u => { u with st := 0 })) 3 1
        | none => s)
      | none => s
    modWin { s with streams := bankErase s.streams h.sid } w (fun x => x.setHalf b none)

/-- A free half, or the one that a C0 pass takes from the later of two lower-class FEEDs (R240, R286). -/
def takeHalf (s : State) (w : Nat) (b : Bool) (cls : Nat) : Option State :=
  if halfOf (win s w) b = none then some s
  else if cls = 0 then
    match lowerHalf s w b, lowerHalf s w (!b) with
    | some mine, some other => if other < mine then some (discardFeed s w b) else none
    | _, _ => none
  else none

/-- FEED_PREFETCH (R240, R286, R548): the FEED of the next pass into a half. -/
def feedPrefetch (s : State) (w : Nat) (o : Op) (c : WinCmd) (p : Nat) (half : Bool) (d : Nat) : State :=
  match takeHalf s w half o.cls with
  | none => s
  | some s =>
    let sid := s.nextSid
    let rb := rowBytes c.infmt
    let s := addStream s { mkStream o .feed with
      src := c.inAddr + (p - c.kFirst) * c.inStride, rowLen := rb, nRows := c.nrows, sStride := rb, dStride := rb, win := w, half := half }
    let s := modWin s w (fun x => x.setHalf half (some ⟨o.id, p, sid, [], false⟩))
    let s := if (before s o).isEmpty then s else modDumb s d (fun u => { u with prefCnt := u.prefCnt + 1 })
    startOn s sid d

/-- FEED_PREFETCH. -/
def execFeedPrefetch (w : Fin 8) (q : Fin 256) (idx : Fin 65536) (p : Nat) (half : Bool) (d : Fin 16) (s : State) :
    Host.Outcome State Fault Refusal :=
  .next (match findOp s (q.val, idx.val) with
    | some o =>
      match o.cmd with
      | .window c =>
        if powered s && o.done.isNone && lookahead s o && allowedOn s o p w.val && (o.started || decide (o.cls ≠ 0)) &&
            decide (nextFeed s o c = some p) && dwFree s d.val o.cls then
          feedPrefetch s w.val o c p half d.val
        else s
      | _ => s
    | none => s)

/-- A command uses, or may use, the image held in a pane: one whose image list or tile list has not been read yet counts. -/
def usesImage (o : Op) (img : Long) : Bool :=
  match o.cmd with
  | .window _ => o.imgs.isEmpty || o.imgs.any (fun e => e.1 = img)
  | .refine _ => (o.refine.map (fun r => r.tiles.any (fun t => t.2.2.2.2 = img))).getD true
  | _ => false

/-- The conditions of R241 on a load that has not started: lookahead, no barrier or fence wait between, the target pane's
image in no use by an earlier command of the queue, and every earlier command started (R364). -/
def prefetchOk (s : State) (o : Op) (w : Nat) (b : Bool) : Bool :=
  let es := before s o
  lookahead s o && !o.hdr.barrier && es.all (fun u => u.started) &&
  es.all (fun u => (match u.cmd with | .fenceWait _ _ _ => u.done.isSome | _ => true) && (!u.hdr.barrier || decide (oldest s o.q = some u.idx))) &&
  (match (paneOf (win s w) b).image with
   | some i => es.all (fun u => u.done.isSome || !(usesImage u i.id))
   | none => true)

/-- IMAGE_PREFETCH (R241): the load starts ahead of queue order. -/
def execImagePrefetch (q : Fin 256) (idx : Fin 65536) (d : Fin 16) (s : State) : Host.Outcome State Fault Refusal :=
  .next (match findOp s (q.val, idx.val) with
    | some o =>
      match o.cmd with
      | .imageLoad addr w b =>
        if powered s && !o.started && o.done.isNone && prefetchOk s o w b && dwFree s d.val o.cls && mayStage s o w b then
          let sid := s.nextSid
          let s := addStream s { mkStream o .image with
            src := addr, rowLen := imageBytes, sStride := imageBytes, dStride := imageBytes, win := w, half := b }
          let s := modOp s o.id (fun o => { o with started := true })
          let s := if (before s o).isEmpty then s else modDumb s d.val (fun u => { u with prefCnt := u.prefCnt + 1 })
          startImage s o sid d.val (w, b)
        else s
      | _ => s
    | none => s)

/-! ### Transactions (R239, R243 to R246, R253 to R256, R300, R301) -/

/-- The number of a target address. -/
def Target.num : Target → Nat
  | .dev pa => pa
  | .host a => a
  | .remote _ _ o => o

/-- The pieces of one transaction: total bytes and count, joined under R243. -/
def joinPieces (x : Stream) (src : Bool) (m : Mapping) (limit : Nat) : Nat → Nat → Nat → Nat → Nat × Nat
  | 0, _, n, k => (n, k)
  | fuel + 1, off, n, k =>
    let a := (m.at (x.addrAt src off).1).num
    let here := off + n
    let v := x.addrAt src here
    if limit ≤ here ∨ m.sho ∨ m.noMerge ∨ !(m.covers v.1) ∨ (m.at v.1).num ≠ a + n ∨ (a + n) % 256 = 0 then (n, k)
    else joinPieces x src m limit fuel off (n + min (min v.2 (256 - (a + n) % 256)) (limit - here)) (k + 1)

/-- Bytes and pieces of the transaction at an offset. -/
def txnOf (x : Stream) (src : Bool) (m : Mapping) (off limit : Nat) : Nat × Nat :=
  let v := x.addrAt src off
  let a := (m.at v.1).num
  joinPieces x src m limit 256 off (min (min v.2 (256 - a % 256)) (limit - off)) 1

/-- A stream's request leaves its target's buffer, and its response buffer is given back unless the answer comes in a later step
(`later`); both are counted (R276, Table 8.5); merged pieces are counted in the Dumbwaiter. -/
def takeTxn (s : State) (sid : Nat) (x : Stream) (pieces : Nat) (later : Bool) : State :=
  let s := if x.held.isSome then audGive s 1 1 else audPass s 1 1
  let s := if x.held.isSome then audGive s 2 1 else if later then s else audPass s 2 1
  let s := modStream s sid (fun x => { x with held := none })
  match x.dw with
  | some d => modDumb (showDw s x 1) d (fun u => { u with mergeCnt := u.mergeCnt + BitVec.ofNat 32 (pieces - 1) })
  | none => s

/-- Count bytes moved. -/
def countBytes (s : State) (x : Stream) (n : Nat) : State :=
  match x.dw with
  | some d => modDumb s d (fun u => { u with byteCnt := u.byteCnt + BitVec.ofNat 64 n })
  | none => s

/-- Bytes read for a stream arrive: in its buffer, an input-buffer half, or a pane. -/
def takeBytes (s : State) (sid : Nat) (x : Stream) (bs : List Byte) : State :=
  let n := bs.length
  match x.kind with
  | .copy => modStream s sid (fun x => { x with buf := x.buf ++ bs, rpos := x.rpos + n })
  | .feed =>
    let s := modStream s sid (fun x => { x with pos := x.pos + n, rpos := x.rpos + n })
    countBytes (modWin s x.win (fun w => match halfOf w x.half with
      | some h => w.setHalf x.half (some { h with bytes := h.bytes ++ bs })
      | none => w)) x n
  | .image =>
    let s := modStream s sid (fun x => { x with pos := x.pos + n, rpos := x.rpos + n })
    countBytes (modPane s x.win x.half (fun p => { p with staged := p.staged ++ bs })) x n
  | _ => countBytes (modStream s sid (fun x => { x with buf := x.buf ++ bs, pos := x.pos + n, rpos := x.rpos + n })) x n

/-- A fault is found at an address of a stream: a source fault lets the moves below it complete; a destination fault drops
what was read beyond it (R246); a request that still waits at a port is given up. -/
def setFault (s : State) (sid : Nat) (dst : Bool) (c : FCode) (va : Nat) : State :=
  let s := match findStream s sid with | some x => freeHeld s x | none => s
  modStream s sid (fun x => if dst && decide (x.kind = .copy) then { x with pending := some (c, va), held := none, buf := [], rpos := x.pos }
    else { x with pending := some (c, va), held := none })

/-- Whether a stream waits for a host or remote answer. -/
def waiting (s : State) (sid : Nat) : Bool :=
  s.host.reqs.any (fun r => r.sid = sid) || s.link.reqs.any (fun r => match r.owner with | .stream k _ => decide (k = sid) | _ => false)

/-- Where a stream's writes may reach now. -/
def Stream.writeLimit (x : Stream) : Nat := if x.kind = .copy then x.rpos else x.total

/-- A write transaction of a running stream (R243, R246, R256, R553). -/
def writeTxn (s : State) (sid : Nat) (x : Stream) (env : Env) : State :=
  let va := (x.addrAt false x.pos).1
  match translate s x.ctx va true with
  | (s, .fault c) => setFault s sid true c va
  | (s, .ok m) =>
    let t := txnOf x false m x.pos x.writeLimit
    let bs := x.outBytes t.1
    let adv : State → State := fun s => countBytes (modStream s sid (fun x => { x with pos := x.pos + t.1, buf := x.buf.drop t.1 })) x t.1
    match m.at va with
    | .dev pa =>
      match firstOut s pa t.1 with
      | some g => setFault (elog s (64 * g) (ownerCtx s (64 * g)) .dev) sid true .stackOut va
      | none => adv (testFences (writePa (spendCls (takeTxn s sid x t.2 false) x.ctx x.cls pa t.1) env .dev pa bs))
    | .host a => adv (putHost (takeTxn s sid x t.2 false) a bs)
    | .remote n e o => newReq (takeTxn s sid x t.2 true) 0x02 x.cls 0 n (expAddr e o) bs.length bs (.stream sid false) va x.ctx

/-- A stream may write. -/
def Stream.canWrite (x : Stream) : Bool :=
  decide (x.state = .run) && x.writesMem && decide (x.pos < x.writeLimit) && (x.pending.isNone || decide (x.kind = .copy))

/-- A stream may read. -/
def Stream.canRead (x : Stream) : Bool := decide (x.state = .run) && x.readsMem && decide (x.rpos < x.total) && x.pending.isNone

/-- No host or ECC finding. -/
def Env.quiet : Env := ⟨[], [], [], .ok, 0, some (0, 0)⟩

/-- Write out what a stream has read, before it halts (Table 7.8, step 2). -/
def flushOut (sid : Nat) : Nat → State → State
  | 0, s => s
  | n + 1, s =>
    match findStream s sid with
    | some x => if x.canWrite && !(waiting s sid) then flushOut sid n (writeTxn s sid x Env.quiet) else s
    | none => s

/-- Writes that a flush can need at most. -/
def flushFuel (x : Stream) : Nat := x.buf.length + 1

/-- A demand read meets poison (R255): the bytes before it are moved, the fault is counted, the context is lost. `node` is
the target node plus 1 for a remote read (R421). -/
def streamPoison (s0 s : State) (sid : Nat) (x : Stream) (pa node : Nat) : State :=
  let s := match findStream s sid with | some x => flushOut sid (flushFuel x) s | none => s
  let s := match x.dw with
    | some d => modDumb s d (fun u => { u with flags := u.flags ||| 3, faultCnt := u.faultCnt + 1 })
    | none => s
  if node = 0 then poisonRead s0 s x.ctx pa else farPoisonRead s x.ctx (node - 1) pa

/-- Tags of the part's requests: 14 bits in flit mode, 10 otherwise (Table 9.1). -/
def hostTags (s : State) : Nat := if s.host.flit then 16384 else 1024
/-- The tag of the next host read: the first that no outstanding read holds. -/
def hostTag (s : State) : Nat :=
  (((List.range (s.host.reqs.length + 1)).map (fun k => (s.host.nextTag + k) % hostTags s)).find? (fun k =>
    s.host.reqs.all (fun r => decide (r.tag ≠ k)))).getD 0

/-- A read transaction (R243, R254, R255, R337). -/
def readTxn (s : State) (sid : Nat) (x : Stream) (env : Env) : State :=
  let s0 := s
  let va := (x.addrAt true x.rpos).1
  match translate s x.ctx va false with
  | (s, .fault c) => setFault s sid false c va
  | (s, .ok m) =>
    let t := txnOf x true m x.rpos x.total
    match m.at va with
    | .dev pa =>
      let s := spendCls (takeTxn s sid x t.2 false) x.ctx x.cls pa t.1
      match readPa s env .dev (some x.ctx) pa t.1 with
      | (s, none, bs) => takeBytes s sid x bs
      | (s, some g, _) => streamPoison s0 (takeBytes s sid x (s.mem.data.read pa (64 * g - pa))) sid x (64 * g) 0
    | .host a =>
      let tag := hostTag s
      let n := min t.1 (maxRead s)
      let s := audTake (takeTxn s sid x t.2 true) 2 1
      emit { s with host := { s.host with reqs := s.host.reqs ++ [⟨tag, sid, n, x.ctx⟩], nextTag := tag + 1 } } (.hostRead tag a n)
    | .remote n e off => newReq (takeTxn s sid x t.2 true) 0x01 x.cls 0 n (expAddr e off) t.1 [] (.stream sid true) va x.ctx

/-- A stream that runs ahead of its command does not read a coherent page (R242): a FEED whose command has not started, a
prefetched image load with an earlier command of its queue left. -/
def shoHeld (s : State) (x : Stream) : Bool :=
  match tableFind s x.ctx (x.addrAt true x.rpos).1, findOp s x.op with
  | some m, some o => m.sho && (match x.kind with
    | .feed => !o.started
    | .image => (match o.cmd with | .imageLoad _ _ _ => !(before s o).isEmpty | _ => false)
    | _ => false)
  | _, _ => false

/-! ### Places on the way of a transaction (Table 8.2, R276 to R280, R301) -/

/-- A stream has a transaction of a direction to make. -/
def wantsTxn (s : State) (sid : Nat) (x : Stream) (rd : Bool) : Bool :=
  (if rd then x.canRead && !(shoHeld s x) else x.canWrite) && !(waiting s sid) &&
  (match findOp s x.op with | some o => o.done.isNone | none => false)

/-- The requesters of a Dumbwaiter, as class and stream context: streams with a transaction to make whose request has not gone to
its target yet. -/
def dwReqs (s : State) (d : Nat) : List (Nat × Nat) :=
  s.streams.filterMap (fun e => if decide (e.2.dw = some d) && decide (e.2.held = none) && (wantsTxn s e.1 e.2 true || wantsTxn s e.1 e.2 false)
    then some (e.2.cls, e.2.slot) else none)

/-- A stream's Dumbwaiter grants it its next transaction (R278 to R280, R483). -/
def dwGrants (s : State) (x : Stream) : Bool :=
  !(paced s x.cls) && arbGrants s (16 + x.dw.getD 0) 4 x.cls x.slot (dwReqs s (x.dw.getD 0))

/-- What the next transaction of a stream names, if its address is mapped. -/
def nextTarget (s : State) (x : Stream) (rd : Bool) : Option Target :=
  let va := (x.addrAt rd (if rd then x.rpos else x.pos)).1
  (tableFind s x.ctx va).map (fun m => m.at va)

/-- A stream's next request carries a reservation token (R300, R301). -/
def carriesToken (s : State) (x : Stream) (rd : Bool) : Bool :=
  match nextTarget s x rd with
  | some (.dev pa) => inCellar s pa && s.mem.resvs.any (fun r => decide (r.ctx = x.ctx) && decide (r.cls = x.cls) && decide (0 < r.tokens))
  | _ => false

/-- The requesters of a target port: requests in its buffers, those that Dumbwaiters offer it, with token, class, and requester
4·Dumbwaiter + context, and those of other nodes (R411). -/
def portReqs (s : State) (p : Nat) : List (Bool × Nat × Nat) :=
  s.streams.flatMap (fun e => [true, false].filterMap (fun rd =>
    if wantsTxn s e.1 e.2 rd && decide ((nextTarget s e.2 rd).map (portOf s) = some p) &&
        (decide (e.2.held = some (p, rd)) || (decide (e.2.held = none) && e.2.dw.isSome && dwGrants s e.2)) then
      some (carriesToken s e.2 rd, e.2.cls, 4 * e.2.dw.getD 0 + e.2.slot)
    else none)) ++ farReqs s p

/-- Requests with tokens go before those without (R301); within each group the port grants by R278 to R280. -/
def portGrants (s : State) (p : Nat) (x : Stream) (rd : Bool) : Bool :=
  let tok := carriesToken s x rd
  let rs := portReqs s p
  (tok || !(rs.any (·.1))) &&
  arbGrants s (64 + p) 96 x.cls (4 * x.dw.getD 0 + x.slot) ((rs.filter (fun r => decide (r.1 = tok))).map (·.2))

/-- A target port has a request buffer for a class: two of them only C0 may take (R277). -/
def portRoom (s : State) (p cls : Nat) : Bool :=
  let cap := 3 + Config.portBuffers p
  let mine := s.streams.filter (fun e => match e.2.held with | some (k, _) => decide (k = p) | none => false)
  decide (mine.length < cap) && (decide (cls = 0) || decide ((mine.filter (fun e => e.2.cls ≠ 0)).length + 2 < cap))

/-- The request of a stream's next transaction may leave its Dumbwaiter: its class holds the grant and a response buffer is free
(R276, R278 to R280). -/
def txnLeaves (s : State) (x : Stream) : Bool := decide (x.held = none) && x.dw.isSome && dwGrants s x && crspFree s

/-- A host read finds one of the 1,024 places for outstanding requests free (Table 9.1). -/
def hostRoom (s : State) (x : Stream) (rd : Bool) : Bool :=
  match nextTarget s x rd with
  | some (.host _) => !rd || decide (s.host.reqs.length < 1024)
  | _ => true

/-- The next transaction of a stream is performed now: its request waits at the port or may leave its Dumbwaiter, and its port
grants it; a request that no translation places meets its fault at once (R246). -/
def txnServed (s : State) (sid : Nat) (x : Stream) (rd : Bool) : Bool :=
  powered s && wantsTxn s sid x rd && hostRoom s x rd &&
  (match x.held, (nextTarget s x rd).map (portOf s) with
   | some (p, r), some q => decide (p = q) && decide (r = rd) && portGrants s p x rd
   | some (_, r), none => decide (r = rd)
   | none, some p => txnLeaves s x && portGrants s p x rd
   | none, none => txnLeaves s x)

/-- The request enters a buffer of its target port and waits there (R277). -/
def txnHeld (s : State) (sid : Nat) (x : Stream) (rd : Bool) : Bool :=
  powered s && wantsTxn s sid x rd && txnLeaves s x && !(txnServed s sid x rd) &&
  (match (nextTarget s x rd).map (portOf s) with | some p => portRoom s p x.cls | none => false)

/-- Count a Dumbwaiter's grant; `t` is the state after it. -/
def takeDw (s t : State) (x : Stream) : State :=
  if x.held.isSome then t
  else arbTake t (16 + x.dw.getD 0) 4 x.cls x.slot (dwReqs s (x.dw.getD 0)) (dwReqs t (x.dw.getD 0))

/-- Count a target port's grant; `t` is the state after it. -/
def takePort (s t : State) (x : Stream) (rd : Bool) : State :=
  match (nextTarget s x rd).map (portOf s) with
  | some p => arbTake t (64 + p) 96 x.cls (4 * x.dw.getD 0 + x.slot) ((portReqs s p).map (·.2)) ((portReqs t p).map (·.2))
  | none => t

/-- STREAM_TRANSACTION (R243, R276 to R280, R301): one read or one write transaction, or its request enters a buffer of its port. -/
def execStreamTransaction (sid : Nat) (rd : Bool) (env : Env) (s : State) : Host.Outcome State Fault Refusal :=
  .next (match findStream s sid with
    | some x =>
      if txnServed s sid x rd then
        takePort s (takeDw s (if rd then readTxn s sid x env else writeTxn s sid x env) x) x rd
      else if txnHeld s sid x rd then
        takeDw s (modStream (audTake (audTake s 1 1) 2 1) sid (fun y => { y with held := (nextTarget s x rd).map (fun g => (portOf s g, rd)) })) x
      else s
    | none => s)

/-! ### Translation walks (R233, R234, R555) -/

/-- The DTC entry that a new translation takes: the lowest free one, or the least recently used. -/
def dtcSlot (s : State) : Nat :=
  match (List.range 1024).find? (fun k => (bankFind s.xlate.dtc k).isNone) with
  | some k => k
  | none => (s.xlate.dtc.foldl (fun (m : Nat × Nat) e => if e.2.used < m.2 then (e.1, e.2.used) else m)
      (0, ((bankFind s.xlate.dtc 0).map (·.used)).getD 0)).1

/-- TRANSLATION_WALK (R555): the walk ends; an uncorrectable error in the table loses the context (R389, cause 3). -/
def execTranslationWalk (ctx : Fin 4096) (page : Nat) (tableError : Bool) (s : State) : Host.Outcome State Fault Refusal :=
  .next (if powered s && s.xlate.walks.contains (ctx.val, page) then
    let s := { s with xlate := { s.xlate with walks := s.xlate.walks.filter (· ≠ (ctx.val, page)), walkCnt := s.xlate.walkCnt + 1 } }
    if tableError then
      let r := freshNat s
      loseCtx r.2 ctx.val 3 (0xF800000 + r.1 % 0x800000)
    else
      match tableFind s ctx.val (page * 0x10000), (ctxOf s ctx.val).map (·.resident) with
      | some m, some true =>
        let e : DtcEntry := ⟨ctx.val, m, s.xlate.clock⟩
        { s with xlate := { s.xlate with dtc := bankPut s.xlate.dtc (dtcSlot s) e, clock := s.xlate.clock + 1 } }
      | _, _ => s
  else s)

/-! ### Translation faults (R246 to R253, Table 7.8) -/

/-- The PAGE_FAULT event of a halted stream. -/
def pageFault (s : State) (x : Stream) : State :=
  raiseEvent s 0x04 x.ctx (x.dw.getD 0 + x.fcode.code * 16 + x.op.1 * 256 + x.op.2 * 65536) x.faultVa

/-- Halt a stream with a fault (R246 to R248, R253); the pane of an IMAGE stream is EMPTY and free for other loads (R249). -/
def haltStream (s : State) (sid : Nat) (c : FCode) (va : Nat) : State :=
  let s := modStream s sid (fun x =>
    let back := decide (x.kind = .feed) || decide (x.kind = .image)
    { x with state := .halt, fcode := c, faultVa := va, pending := none, pos := if back then 0 else x.pos,
             rpos := if back then 0 else if x.kind = .copy then x.pos else x.rpos, buf := if x.kind = .copy then [] else x.buf })
  match findStream s sid with
  | none => s
  | some x =>
    let s := match x.kind with
      | .feed => modWin s x.win (fun w => match halfOf w x.half with
        | some h => w.setHalf x.half (some { h with bytes := [] })
        | none => w)
      | .image => modPane s x.win x.half (fun p => { p with state := .empty, image := none, staged := [], loader := none })
      | _ => s
    let s := match x.dw with
      | some d => modDumb s d (fun u => { u with flags := u.flags ||| 1, faultCnt := u.faultCnt + 1 })
      | none => s
    pageFault (showDw s x 2) x

/-- TRANSLATION_FAULT (R246): moves below POS complete, then the stream halts and PAGE_FAULT is raised. -/
def execTranslationFault (sid : Nat) (s : State) : Host.Outcome State Fault Refusal :=
  .next (match findStream s sid with
    | some x =>
      if powered s && x.pending.isSome && !(waiting s sid) then
        let s := flushOut sid (flushFuel x) s
        match findStream s sid with
        | some y => (match y.pending with
          | some (c, va) => if y.canWrite || waiting s sid then s else haltStream s sid c va
          | none => s)
        | none => s
      else s
    | none => s)

/-- Whether a halted stream's fault was met at its destination. -/
def Stream.faultAtDst (x : Stream) : Bool := x.writesMem && !(x.readsMem && decide ((x.addrAt true x.rpos).1 = x.faultVa))

/-- The check of R250: the fault that still stands, if any. -/
def stillFaults (s : State) (x : Stream) : Option FCode :=
  match xlTest s x.ctx x.faultVa x.faultAtDst with
  | .fault c => some c
  | .ok m =>
    match m.at x.faultVa with
    | .dev pa => if x.faultAtDst && stackOut s pa then some .stackOut else none
    | _ => none

/-- Continue a halted stream from POS, or halt it again at the same POS with a new PAGE_FAULT (R250). An IMAGE stream whose pane
another load has taken waits, READY, for a pane (R83). -/
def resumeStream (s : State) (sid : Nat) (x : Stream) : State :=
  match stillFaults s x with
  | some c => haltStream s sid c x.faultVa
  | none =>
    let run : State → State := fun s => showDw (modStream s sid (fun x => { x with state := .run, fcode := .none })) x 1
    match x.kind, findOp s x.op with
    | .image, some o =>
      if mayStage s o x.win x.half then run (stagePane s o x.win x.half)
      else offDw (modStream s sid (fun x => { x with state := .ready, fcode := .none, dw := none })) x
    | _, _ => run s

/-! ### The end of a stream (R237) -/

/-- Whether every byte of a stream has moved. -/
def Stream.finished (x : Stream) : Bool :=
  decide (x.state = .run) && x.pending.isNone && (if x.writesMem then decide (x.pos = x.total) else decide (x.rpos = x.total))

/-- What the end of a stream does for its command. -/
def streamEnd (s : State) (x : Stream) (o : Op) : State :=
  let ok : State → State := fun s =>
    if s.streams.any (fun e => e.2.op = o.id) then s else modOp s o.id (fun o => { o with done := some .ok })
  match x.kind with
  | .copy => ok s
  | .fill => ok s
  | .image => s
  | .feed => modWin s x.win (fun w => match halfOf w x.half with
    | some h => w.setHalf x.half (some { h with ready := true })
    | none => w)
  | .drain => (match findTree s o.id with | some t => ok (shutTree s t) | none => ok s)
  | .study => s
  | .slot =>
    match o.cmd with
    | .slotWrite _ _ window slot srows f => slotWriteDone s o x.buf window slot srows f
    | _ => ok s

/-- A slot write waits for a tree that has opened in its bytes (R142). -/
def slotHeld (s : State) (x : Stream) (o : Op) : Bool :=
  decide (x.kind = .slot) && (match o.cmd with
    | .slotWrite _ _ window slot srows f => treeOver s window (slotRange s o.ctx slot srows f)
    | _ => false)

/-- STREAM_DONE (R237): the Dumbwaiter context is free again. -/
def execStreamDone (sid : Nat) (s : State) : Host.Outcome State Fault Refusal :=
  .next (match findStream s sid with
    | some x =>
      match findOp s x.op with
      | some o =>
        if powered s && x.finished && !(waiting s sid) && !(slotHeld s x o) then
          let s := audGive { (showDw s x 0) with streams := bankErase s.streams sid } 3 1
          streamEnd s x o
        else s
      | none => s
    | none => s)

/-! ### Answers to a stream's reads and writes (R337, R338, R420, R421) -/

/-- Remove an outstanding host read. -/
def dropHostReq (s : State) (tag : Nat) : State :=
  audGive { s with host := { s.host with reqs := s.host.reqs.filter (fun r => r.tag ≠ tag) } } 2 1

/-- A failed host read ends its command (R337). -/
def hostReadFails (s : State) (r : HostReq) (st : HostStatus) : State :=
  let s := hostFail (dropHostReq s r.tag) st (some r.tag)
  match findStream s r.sid with
  | some x => endOp s x.op (if st = .poisoned then .hostPoison else .hostError) true
  | none => s

/-- HOST_COMPLETION (R337). -/
def execHostCompletion (tag : Nat) (st : HostStatus) (data : List Byte) (s : State) : Host.Outcome State Fault Refusal :=
  .next (if !(powered s) || decide (st = .timeout) then s
    else match s.host.reqs.find? (fun r => r.tag = tag) with
    | none => aer s .unexpectedCompletion (some (.completion (some tag)))
    | some r =>
      if st = .ok then
        let s := dropHostReq s tag
        match findStream s r.sid with
        | some x => takeBytes s r.sid x (data.take r.len ++ List.replicate (r.len - data.length) 0)
        | none => s
      else hostReadFails s r st)

/-- HOST_COMPLETION_TIMEOUT (R338): never with the timeout disabled in Device Control 2. -/
def execHostCompletionTimeout (tag : Nat) (s : State) : Host.Outcome State Fault Refusal :=
  .next (match s.host.reqs.find? (fun r => r.tag = tag) with
    | none => s
    | some r => if powered s && !(s.host.cfg.devCtl2.getLsbD 4) then hostReadFails s r .timeout else s)

/-- RDRSP (R420, R421). -/
def execRdrsp (_env : Env) (s : State) : Host.Outcome State Fault Refusal :=
  .next (match takeMsg s 0x10 with
    | none => s
    | some (d, m, s) =>
      match findReq s m.tag with
      | none => lateRsp s d
      | some r =>
        let s := releaseHeld (dropReq s m.tag)
        match r.owner with
        | .stream sid _ =>
          (match findStream s sid with
          | some x =>
            if m.status = 0 then takeBytes s sid x m.data
            else if m.status = 5 then streamPoison s s sid x m.addr (m.src + 1)
            else setFault s sid false (fcodeOf m.status) r.va
          | none => s)
        | _ => s)

/-- WRACK (R420). -/
def execWrack (s : State) : Host.Outcome State Fault Refusal :=
  .next (match takeMsg s 0x11 with
    | none => s
    | some (d, m, s) =>
      match findReq s m.tag with
      | none => lateRsp s d
      | some r =>
        let s := releaseHeld (dropReq s m.tag)
        match r.owner with
        | .stream sid _ =>
          (match findStream s sid with
          | some x =>
            let n := r.msg.data.length
            if m.status = 0 then countBytes (modStream s sid (fun x => { x with pos := x.pos + n, buf := x.buf.drop n })) x n
            else setFault s sid true (fcodeOf m.status) r.va
          | none => s)
        | _ => s)

end Sys2Proof.Machine
end

