-- ==== Sys2Proof/Machine/Remote.lean ====
section
/-!
DEFINITION. The requests of other nodes at this node's memory (chapter 11, R411, R417 to R429).
-/

namespace Sys2Proof.Machine

open Sys2Proof

/-- Read target pieces: bytes, or the physical address of the poison met (R421). -/
def readTarget (env : Env) : List (Nat × Nat) → State → List Byte → State × Option Nat × List Byte
  | [], s, acc => (s, none, acc)
  | (pa, n) :: t, s, acc =>
    match readPa s env .node none pa n with
    | (s, some g, _) => (s, some (64 * g), [])
    | (s, none, bs) => readTarget env t s (acc ++ bs)

/-- RD (R419, R421): the first read request that has arrived. -/
def serveRd (s : State) (m : Msg) (env : Env) : State :=
  match exportAt s m m.len false false with
  | .inl c => answer s m 0x10 c 0 []
  | .inr (ctx, va) =>
    match targetPieces s ctx false (vaChunks va m.len) with
    | .inl c => answer s m 0x10 c 0 []
    | .inr ps =>
      match readTarget env ps s [] with
      | (s, some pa, _) => answer { s with link := { s.link with rpoisCnt := s.link.rpoisCnt + 1 } } m 0x10 5 pa []
      | (s, none, bs) => answer { s with link := { s.link with remRd := s.link.remRd + 1 } } m 0x10 0 0 bs

/-- The request of another node that is served next of a type: its turn has come and its port grants it, among the local requests
and those of other nodes (R278 to R280, R411); one that reaches no port is answered at once. -/
def farNext (s : State) (mt : Nat) : Option InMsg :=
  (inTurn [] s.link.inbox).find? (fun e => decide (e.msg.mtype = mt) &&
    (match farPort s e.msg with
     | none => true
     | some p =>
       let rs := portReqs s p
       !(rs.any (·.1)) && arbGrants s (64 + p) 96 (farCls e.msg) (64 + e.door) (rs.map (·.2))))

/-- Serve a request of another node and count its port's grant. -/
def serveFar (s : State) (mt : Nat) (k : State → Nat → Msg → State) : State :=
  match farNext s mt with
  | none => s
  | some e =>
    let r := takeIn s e
    let t := k r.2.2 r.1 r.2.1
    match farPort s e.msg with
    | none => t
    | some p => arbTake t (64 + p) 96 (farCls e.msg) (64 + e.door) ((portReqs s p).map (·.2)) ((portReqs t p).map (·.2))

/-- RD. -/
def execRd (env : Env) (s : State) : Host.Outcome State Fault Refusal :=
  .next (if powered s then serveFar s 0x01 (fun s _ m => serveRd s m env) else s)

/-- Write target pieces. -/
def writeTarget (env : Env) : List (Nat × Nat) → List Byte → State → State
  | [], _, s => s
  | (pa, n) :: t, bs, s => writeTarget env t (bs.drop n) (writePa s env .node pa (bs.take n))

/-- The first target granule on a stack out of service. -/
def targetOut (s : State) (ps : List (Nat × Nat)) : Option Nat := ps.findSome? (fun p => firstOut s p.1 p.2)

/-- WR (R419, R422, R553). -/
def serveWr (s : State) (m : Msg) (env : Env) : State :=
  match exportAt s m m.data.length true false with
  | .inl c => answer s m 0x11 c 0 []
  | .inr (ctx, va) =>
    match targetPieces s ctx true (vaChunks va m.data.length) with
    | .inl c => answer s m 0x11 c 0 []
    | .inr ps =>
      match targetOut s ps with
      | some g => answer (elog s (64 * g) (ownerCtx s (64 * g)) .node) m 0x11 6 0 []
      | none =>
        let s := testFences (writeTarget env ps m.data s)
        answer { s with link := { s.link with remWr := s.link.remWr + 1 } } m 0x11 0 0 []

/-- WR. -/
def execWr (env : Env) (s : State) : Host.Outcome State Fault Refusal :=
  .next (if powered s then serveFar s 0x02 (fun s _ m => serveWr s m env) else s)

/-- The new value of a 64-bit atomic: FetchAdd, Swap, CAS (R331, R424). -/
def atomVal (atop old operand compare : Nat) : Nat :=
  match atop with
  | 0 => (old + operand) % 2 ^ 64
  | 1 => operand
  | _ => if old = compare then operand else old

/-- Answer RETRY (R426, R427): RETRYTX of the Door that the atomic came by. -/
def answerRetry (s : State) (d : Nat) (m : Msg) : State :=
  answer (if d < 16 then modDoor s d (fun x => { x with retryTx := x.retryTx + 1 }) else s) m 0x13 0 0 []

/-- Perform a remote atomic at the memory controller (R419, R424); `retry` names the Door where its granule is contended, so that
it is answered RETRY. -/
def performAtom (s : State) (m : Msg) (env : Env) (retry : Option Nat) : State :=
  match exportAt s m 8 true true with
  | .inl c => answer s m 0x12 c 0 []
  | .inr (ctx, va0) =>
    let va := va0 / 8 * 8
    match targetPieces s ctx true [(va, 8)] with
    | .inl c => answer s m 0x12 c 0 []
    | .inr ps =>
      let pa := (ps.headD (0, 0)).1
      match targetOut s ps with
      | some g => answer (elog s (64 * g) (ownerCtx s (64 * g)) .node) m 0x12 6 0 []
      | none =>
        match retry with
        | some d => answerRetry s d m
        | none =>
          match readPa s env .node none pa 8 with
          | (s, some g, _) => answer { s with link := { s.link with rpoisCnt := s.link.rpoisCnt + 1 } } m 0x12 5 (64 * g) []
          | (s, none, bs) =>
            let s := putLong s env .node pa (atomVal m.atop (fromBytes bs) (field m.data 0 8) (field m.data 8 8))
            answer { s with link := { s.link with remAtom := s.link.remAtom + 1 } } m 0x12 0 0 bs

/-- ATOM (R419, R426, R427): performed on a free granule, or answered RETRY. -/
def execAtom (contended : Bool) (env : Env) (s : State) : Host.Outcome State Fault Refusal :=
  .next (if powered s then serveFar s 0x03 (fun s d m => performAtom s m env (if contended then some d else none)) else s)

/-- ATOMQ (R429): queued; while 256 are queued it waits in the Door's buffers. -/
def execAtomq (s : State) : Host.Outcome State Fault Refusal :=
  .next (if 256 ≤ s.link.atomq.length then s
    else match takeMsg s 0x04 with
    | some (_, m, s) => { s with link := { s.link with atomq := s.link.atomq ++ [m] } }
    | none => s)

/-- ATOMQ_PERFORM (R429): the queue in arrival order. -/
def execAtomqPerform (env : Env) (s : State) : Host.Outcome State Fault Refusal :=
  .next (match s.link.atomq with
    | m :: t => if powered s then performAtom { s with link := { s.link with atomq := t } } m env none else s
    | [] => s)

end Sys2Proof.Machine
end

