-- ==== Sys2Proof/Machine/Study.lean ====
section
/-!
DEFINITION. Study (chapter 6): the core test, the dispatch, completion and repetition of work items, kernels as traces of the
operations of Table 6.2, the device-side allocator (R382), and the reads of device memory that a command makes when it
starts.
-/

namespace Sys2Proof.Machine

open Sys2Proof

/-! ### Faults of accesses that no running stream carries -/

/-- The unit number of a stream that stands for the reads of a command's start; a core's number stands for its work item. -/
def startSlot : Nat := 128

/-- A faulting access of a work item or of a command's start: a STUDY stream halted on the lowest Dumbwaiter with a free
context, with its PAGE_FAULT (Table 7.5, R246, R249); with none free the access waits. -/
def studyFault (s : State) (o : Op) (slot : Nat) (c : FCode) (va : Nat) : State :=
  let write := match xlTest s o.ctx va false with | .ok _ => true | .fault _ => false
  match (List.range 16).find? (fun d => dwFree s d o.cls) with
  | none => s
  | some d =>
    let sid := s.nextSid
    let s := addStream s { mkStream o .study with toUnit := !write, src := va, dst := va, rowLen := 0, nRows := 0, win := slot }
    haltStream (startOn s sid d) sid c va

/-- A halted STUDY stream of a work item or of a start. -/
def studyHalted (s : State) (id : OpId) (slot : Nat) : Bool :=
  s.streams.any (fun e => decide (e.2.op = id) && decide (e.2.kind = .study) && decide (e.2.win = slot))

/-- Remove the STUDY stream of a work item. -/
def dropStudyStream (s : State) (id : OpId) (slot : Nat) : State :=
  let mine := s.streams.filter (fun e => decide (e.2.op = id) && decide (e.2.kind = .study) && decide (e.2.win = slot))
  mine.foldl (fun s e => offDw { s with streams := bankErase s.streams e.1 } e.2) s

/-- How the accesses of a work item or of a start end (R246, R255, R337): `s0` is the state before them, `k` what follows when all
went well. What was written before a fault stays written (R251, R553). -/
def afterAccess (s0 s : State) (o : Op) (slot : Nat) (a : Acc) (k : State → State) : State :=
  match a with
  | .ok => k s
  | .fault c va => studyFault s o slot c va
  | .poison pa => poisonRead s0 s o.ctx pa
  | .host st => endOp s o.id (if st = .poisoned then .hostPoison else .hostError) true
  | .farPoison node pa => farPoisonRead s o.ctx node pa
  | .farTimeout node mt => endOp (farTimedOut s node mt) o.id .aborted true

/-! ### Cores and items (R210 to R215, R565) -/

/-- A core is in service. -/
def coreUp (s : State) (c : Nat) : Bool := s.study.coreOk.getLsbD c
/-- Row blocks of 128 of a Refine. -/
def refBlocks (n : Nat) : Nat := (n + 127) / 128
/-- The work item of a number that a command has at this moment. -/
def itemAt (o : Op) (n : Nat) : Option Item :=
  match o.cmd with
  | .study _ ni _ _ _ => if n < ni ∧ !o.kernel.isEmpty then some (.kernel o.id n) else none
  | .refine c =>
    match o.refine with
    | some r =>
      match r.stage with
      | .residuals => if n < refBlocks c.n then some (.residual o.id n) else none
      | .decide => if n = 0 then some (.decision o.id) else none
      | .updates => if n < refBlocks c.n then some (.update o.id n) else none
      | .optics => none
    | none => none
  | _ => none

/-- Items that a command has at this moment. -/
def itemsNow (o : Op) : Nat :=
  match o.cmd with
  | .study _ ni _ _ _ => if o.kernel.isEmpty then 0 else ni
  | .refine c => match o.refine with
    | some r => match r.stage with
      | .residuals => refBlocks c.n
      | .decide => 1
      | .updates => refBlocks c.n
      | .optics => 0
    | none => 0
  | _ => 0

/-- The requesters of a Study cluster, as class and queue: those with a work item that waits (R278 to R280). -/
def itemReqs (s : State) : List (Nat × Nat) :=
  s.ops.filterMap (fun o => if o.started && o.done.isNone && decide (o.itemsOut.length < itemsNow o) then some (o.cls, o.q) else none)
/-- The place of a core's cluster: eight cores each. -/
def clusterOf (core : Nat) : Nat := 32 + core / 8

/-- WORK_ITEM_DISPATCH (R210, R278 to R280): a free core in service takes an item. -/
def execWorkItemDispatch (q : Fin 256) (idx : Fin 65536) (item : Nat) (core : Fin 128) (s : State) : Host.Outcome State Fault Refusal :=
  .next (match findOp s (q.val, idx.val) with
    | some o =>
      match itemAt o item with
      | some it =>
        if powered s && o.started && o.done.isNone && !(o.itemsOut.contains item) && coreUp s core.val &&
            (bankFind s.study.busy core.val).isNone && !(paced s o.cls) && arbGrants s (clusterOf core.val) 256 o.cls o.q (itemReqs s) then
          let t := modOp { s with study := { s.study with busy := bankPut s.study.busy core.val it } } o.id
            (fun o => { o with itemsOut := o.itemsOut ++ [item] })
          arbTake t (clusterOf core.val) 256 o.cls o.q (itemReqs s) (itemReqs t)
        else s
      | none => s
    | none => s)

/-- The command of an item. -/
def Item.opId : Item → OpId
  | .kernel o _ => o
  | .residual o _ => o
  | .decision o => o
  | .update o _ => o

/-- The number of an item in its command. -/
def Item.num : Item → Nat
  | .kernel _ n => n
  | .residual _ n => n
  | .decision _ => 0
  | .update _ n => n

/-- A work item completes (R213): its core is free, and ITEMCNT counts it. -/
def itemDone (s : State) (core : Nat) : State :=
  { s with
    study := { s.study with
      busy := bankErase s.study.busy core, partway := bankErase s.study.partway core, itemCnt := s.study.itemCnt + 1 } }

/-- Every Study and Refine command that has started ends NO_STUDY when no core is left (R215). -/
def noStudyLeft (s : State) : State :=
  if s.study.coreOk ≠ 0 then s
  else endOps .noStudy false ((s.ops.filter (fun o => o.started && (match o.cmd with | .study _ _ _ _ _ => true | .refine _ => true | _ => false))).map Op.id) s

/-- A core is removed (R212, R495): its item runs again on another core. -/
def removeCore (s : State) (core : Nat) : State :=
  let bit : BitVec 128 := BitVec.ofNat 128 (2 ^ core)
  let it := bankFind s.study.busy core
  let s := { s with
    study := { s.study with
    coreOk := s.study.coreOk &&& ~~~bit, flags := s.study.flags ||| 1, removed := s.study.removed ||| bit,
    busy := bankErase s.study.busy core, partway := bankErase s.study.partway core, itemRep := if it.isSome then s.study.itemRep + 1 else s.study.itemRep } }
  let s := match it with
    | some i =>
      let s := dropStudyStream s i.opId core
      let s := modOp s i.opId (fun o => { o with itemsOut := o.itemsOut.filter (· ≠ i.num) })
      match findOp s i.opId with
      | some o => modCtx s o.ctx (fun c => { c with replayed := c.replayed + 1 })
      | none => s
    | none => s
  noStudyLeft (addFrec (capacity s 2 core false) 4 2 core 0 0 noCtx)

/-- CORE_FAULT (R212). -/
def execCoreFault (core : Fin 128) (s : State) : Host.Outcome State Fault Refusal :=
  .next (if powered s && coreUp s core.val then removeCore s core.val else s)

/-- CORE_CORRECTED (R211). -/
def execCoreCorrected (core : Fin 128) (s : State) : Host.Outcome State Fault Refusal :=
  .next (if powered s && coreUp s core.val then
    { s with study := { s.study with flags := s.study.flags ||| 2, corrCnt := s.study.corrCnt + 1 } }
  else s)

/-- The records of a core test (R214): kind 20 for a removed core that returns, kind 4 for one that fails. -/
def coreRecords (pass : BitVec 128) (s : State) : State :=
  (List.range 128).foldl (fun s c =>
    if !(pass.getLsbD c) then addFrec s 4 2 c 0 0 noCtx
    else if s.study.removed.getLsbD c then addFrec s 20 2 c 0 0 noCtx
    else s) s

/-- STUDY_CORE_TEST (R214, Table 12.4): before READY, once after each reset that clears Study. -/
def execStudyCoreTest (pass : BitVec 128) (s : State) : Host.Outcome State Fault Refusal :=
  .next (if starting s && s.thresh.hearthRun && !(isReady s) && !s.study.srdy then
    let s := coreRecords pass s
    { s with study := { s.study with coreOk := pass, srdy := true, removed := s.study.removed &&& ~~~pass } }
  else s)

/-! ### Kernels as traces (Table 6.2, R201 to R208, R370) -/

/-- A trace under way: the state, how its accesses have gone, its values, the values read from memory (newest first), its IEEE
flags, and how many operations have been done. -/
structure TraceRun where
  st : State
  acc : Acc
  vals : Bank Nat
  loads : List Nat
  fl : IFlags
  done : Nat

/-- A value of a trace. -/
def TraceRun.val (r : TraceRun) (i : Nat) : Nat := bankGet r.vals 0 i
/-- Put a value and OR its flags. -/
def TraceRun.put (r : TraceRun) (d : Nat) (x : Nat × IFlags) : TraceRun := { r with vals := bankPut r.vals d x.1, fl := r.fl ||| x.2 }
/-- A value read from memory. -/
def TraceRun.load (r : TraceRun) (d v : Nat) : TraceRun := { r.put d (v, 0) with loads := v :: r.loads }

/-- A Study operation with one result. -/
def fOp (f : FFmt) (rm : RMode) (op : FOp) (a b c : Nat) : Nat × IFlags :=
  match op with
  | .add => fAdd f rm a b
  | .sub => fSub f rm a b
  | .mul => fMul f rm a b
  | .fma => fFma f rm a b c
  | .div => fDiv f rm a b
  | .sqrt => fSqrt f rm a
  | .minNum => fMinMax f false a b
  | .maxNum => fMinMax f true a b
  | .abs => (fAbs f a, 0)
  | .neg => (fNeg f a, 0)
  | .copySign => (fCopySign f a b, 0)

/-- A device FetchAdd (R331): the old value, and the sum in memory; the address is taken at its 8-byte alignment. -/
def deviceFetchAdd (s : State) (env : Env) (o : Op) (va v : Nat) : State × Acc × Nat :=
  let a := va / 8 * 8
  match readOp s env o a 8 with
  | (s, .ok, bs) =>
    let old := fromBytes bs
    match writeOp s env o a (toBytes 8 (old + v)) with
    | (s, e) => (s, e, old)
  | (s, e, _) => (s, e, 0)

/-- The format of an operation. -/
def fmtOf (b : Bool) : FFmt := if b then f64 else f32

/-- One operation of a trace; the armed waits are tested after each write (R374). -/
def traceOp1 (env : Env) (o : Op) (cmdRm : RMode) (r : TraceRun) (op : StudyOp) : TraceRun :=
  match op with
  | .const d v => r.put d (v.toNat, 0)
  | .arg d off n => r.put d (field o.args off (min n 8), 0)
  | .load d va n =>
    let x := readOp r.st env o va (min n 8)
    { r with st := x.1, acc := x.2.1 }.load d (fromBytes x.2.2)
  | .store va v n =>
    let x := writeOp r.st env o va (toBytes (min n 8) (r.val v))
    { r with st := testFences x.1, acc := x.2 }
  | .fetchAdd d va v =>
    let x := deviceFetchAdd r.st env o va (r.val v)
    { r with st := testFences x.1, acc := x.2.1 }.load d x.2.2
  | .arith w op rm d a b c => r.put d (fOp (fmtOf w) (rm.getD cmdRm) op (r.val a) (r.val b) (r.val c))
  | .compare w d a b => let x := fCompare (fmtOf w) (r.val a) (r.val b); r.put d (unsigned 64 x.1, x.2)
  | .convert n rm d a =>
    r.put d (if n then fConvert f64 f32 (rm.getD cmdRm) (r.val a) else fConvert f32 f64 (rm.getD cmdRm) (r.val a))
  | .toInt w sg wide trunc rm d a => r.put d (fToInt (fmtOf w) (if trunc then .rtz else rm.getD cmdRm) sg (if wide then 64 else 32) (r.val a))
  | .fromInt w sg wide rm d a => r.put d (fFromInt (fmtOf w) (rm.getD cmdRm) sg (if wide then 64 else 32) (r.val a))
  | .sum w rm d xs => r.put d (canonSum (fmtOf w) (rm.getD cmdRm) (xs.map r.val))
  | .dot w rm d xs ys => r.put d (canonDot (fmtOf w) (rm.getD cmdRm) ((xs.map r.val).zip (ys.map r.val)))

/-- One operation of a trace, unless an earlier one failed; a failing one leaves the values as they stood before it. -/
def traceOp (env : Env) (o : Op) (cmdRm : RMode) (r : TraceRun) (op : StudyOp) : TraceRun :=
  if r.acc ≠ .ok then r
  else
    let x := traceOp1 env o cmdRm r op
    if x.acc = .ok then { x with done := r.done + 1 } else { r with st := x.st, acc := x.acc }

/-- A trace from where an item stands. -/
def runTrace (s : State) (env : Env) (o : Op) (rm : RMode) (p : Partway) : TraceRun :=
  p.todo.foldl (traceOp env o rm) ⟨s, .ok, p.vals, p.loads, p.fl, 0⟩

/-- An item at its start, with the operations that it will do. -/
def Partway.start (tr : List StudyOp) : Partway := ⟨tr, tr, [], [], 0⟩

/-- IEEE flags go into the completion record's FLAGS (R206). -/
def addIeee (fl : IFlags) (o : Op) : Op := { o with rflags := o.rflags ||| fl.setWidth 9 }

/-- A kernel item completes; the command is done with its last item (R370). -/
def kernelDone (s : State) (o : Op) (core ni : Nat) (fl : IFlags) : State :=
  modOp (itemDone s core) o.id (fun o =>
    let o := addIeee fl { o with itemsDone := o.itemsDone + 1 }
    if o.itemsDone = ni then { o with done := some .ok } else o)

/-- An earlier item of the same kernel, arguments, RMODE and number, which read from memory what this one reads now: R207 makes
this item do the same (log entry 7). -/
def seenBefore (s : State) (env : Env) (o : Op) (rm : RMode) (n : Nat) : Option (List StudyOp) :=
  (s.study.known.find? (fun k => decide (k.kernel = o.kernel) && decide (k.args = o.args) && decide (k.rmode = rm) && decide (k.item = n) &&
    (let r := runTrace s env o rm (Partway.start k.trace); decide (r.acc = .ok) && decide (r.loads = k.loads)))).map (·.trace)

/-- What an item still has to do: the rest after a fault (R250), what R207 fixes, or the operations given. -/
def itemTodo (s : State) (env : Env) (o : Op) (rm : RMode) (core n : Nat) (trace : List StudyOp) : Partway :=
  match bankFind s.study.partway core with
  | some p => p
  | none => Partway.start ((seenBefore s env o rm n).getD trace)

/-- Record what an item did. -/
def remember (s : State) (o : Op) (rm : RMode) (n : Nat) (tr : List StudyOp) (loads : List Nat) : State :=
  let e : SeenItem := ⟨o.kernel, o.args, rm, n, tr, loads⟩
  if s.study.known.contains e then s else { s with study := { s.study with known := s.study.known ++ [e] } }

/-- Keep how far a faulting item has come (R246, R250). -/
def keepPartway (s : State) (core : Nat) (p : Partway) (r : TraceRun) : State :=
  { s with study := { s.study with partway := bankPut s.study.partway core ⟨p.todo.drop r.done, p.whole, r.vals, r.loads, r.fl⟩ } }

/-- An item runs: all its operations, or up to the first access that fails. -/
def kernelItem (s : State) (env : Env) (o : Op) (rm : RMode) (core n ni : Nat) (trace : List StudyOp) : State :=
  let p := itemTodo s env o rm core n trace
  let r := runTrace s env o rm p
  let t := match r.acc with | .fault _ _ => keepPartway r.st core p r | _ => r.st
  afterAccess s t o core r.acc (fun s => kernelDone (remember s o rm n p.whole r.loads) o core ni r.fl)

/-- WORK_ITEM_COMPLETE (R213): the item's operations, its writes and flags. -/
def execWorkItemComplete (core : Fin 128) (trace : List StudyOp) (env : Env) (s : State) : Host.Outcome State Fault Refusal :=
  .next (match bankFind s.study.busy core.val with
    | some (.kernel id n) =>
      match findOp s id with
      | some o =>
        match o.cmd with
        | .study _ ni _ _ rm =>
          if powered s && o.done.isNone && !(studyHalted s id core.val) then kernelItem s env o rm core.val n ni trace else s
        | _ => s
      | none => s
    | _ => s)

/-! ### The device-side allocator (R381, R382) -/

/-- The next multiple of a size. -/
def alignUp (a n : Nat) : Nat := (a + n - 1) / n * n
/-- The block size of an allocation. -/
def blockSize (b : Nat) : Nat := max 256 (2 ^ clog2 b)
/-- A block at an offset meets no allocated block and not the allocator's state in the first 4 KiB. -/
def blockClear (a : Arena) (off n : Nat) : Bool :=
  decide (4096 ≤ off) && decide (off + n ≤ a.size) &&
  a.blocks.all (fun b => decide (b.1 + b.2 ≤ a.base + off) || decide (a.base + off + n ≤ b.1))
/-- The lowest-addressed free block of a size, as an offset. -/
def freeBlock (a : Arena) (n : Nat) : Option Nat :=
  (((alignUp 4096 n) :: a.blocks.map (fun b => alignUp (b.1 + b.2 - a.base) n)).filter (fun off => blockClear a off n)).min?

/-- ARENA_ALLOC (R382): a context without an arena has no free block. -/
def execArenaAlloc (ctx : Fin 4096) (bytes : Nat) (s : State) : Host.Outcome State Fault Refusal :=
  .next (match ctxOf s ctx.val with
    | some c =>
      if powered s && isReady s then
        match c.arena.bind (fun a => (freeBlock a (blockSize bytes)).map (fun off => (a, off))) with
        | some (a, off) =>
          let a' := { a with blocks := a.blocks ++ [(a.base + off, blockSize bytes)] }
          emit (modCtx s ctx.val (fun c => { c with arena := some a' })) (.device (a.base + off))
        | none => emit (modCtx s ctx.val (fun c => { c with arenaFailed := c.arenaFailed + 1 })) (.device 0)
      else s
    | none => s)

/-- ARENA_FREE (R382). -/
def execArenaFree (ctx : Fin 4096) (addr : Nat) (s : State) : Host.Outcome State Fault Refusal :=
  .next (match ctxOf s ctx.val with
    | some c =>
      if powered s && isReady s then
        match c.arena.bind (fun a => if a.blocks.any (fun b => b.1 = addr) then some a else none) with
        | some a => modCtx s ctx.val (fun c => { c with arena := some { a with blocks := a.blocks.filter (fun b => b.1 ≠ addr) } })
        | none => modCtx s ctx.val (fun c => { c with badFree := c.badFree + 1 })
      else s
    | none => s)

end Sys2Proof.Machine
end

