-- ==== Sys2Proof/Machine/Truss.lean ====
section
/-!
DEFINITION. The Truss (chapters 4 and 11): combination of the partials of split trees, on one part and across chips, and the fused
epilogue with its result tile, metadata and ERRB.
-/

namespace Sys2Proof.Machine

open Sys2Proof

/-! ### Groups and keys (R442 to R444) -/

/-- The Truss group number of a command's queue (R442). -/
def trussGroup (s : State) (o : Op) : Nat := ((queueOf s o.q).bind (·.group)).getD 0
/-- The entries of a group. -/
def groupRanks (s : State) (g : Nat) : List (Nat × Nat) := ((bankFind s.link.groups g).map (·.ranks)).getD []
/-- ADDR of RED messages (Table 11.4). -/
def redAddr (g otrow otcol : Nat) : Nat := otrow % 65536 + otcol % 65536 * 65536 + g * 4294967296
/-- The NODE kind of a command's split (Table 4.2). -/
def splitKind (c : WinCmd) : Nat := if c.unal then 2 else 0
/-- Leaves of the tree that the Truss combines: passes, or ranks (R144, R145). -/
def trussLeaves (c : WinCmd) : Nat := if c.unal then c.splitN + 1 else c.kTotal
/-- Whether the sibling of a node exists. -/
def siblingExists (c : WinCmd) (x : Partial) : Bool := decide ((if x.index % 2 = 0 then x.index + 1 else x.index - 1) * 2 ^ x.level < trussLeaves c)
/-- A node without a sibling equals its parent, with no rounding. -/
def trussLift (c : WinCmd) : Nat → Partial → Partial
  | 0, x => x
  | n + 1, x =>
    if x.level < clog2 (trussLeaves c) ∧ !(siblingExists c x) then trussLift c n { x with level := x.level + 1, index := x.index / 2 } else x
/-- Whether a node is the root. -/
def isRoot (c : WinCmd) (x : Partial) : Bool := decide (clog2 (trussLeaves c) ≤ x.level)

/-- The lowest rank under the parent of a node, where this part can know it (R445): rank 0 under the root (R137), the rank tree
fixes it below, and so do the commands of a group whose ranks all lie on this part. -/
def ownerOf (s : State) (o : Op) (c : WinCmd) (x : Partial) : Option Nat :=
  if clog2 (trussLeaves c) ≤ x.level + 1 then some 0
  else if c.unal then some (x.index / 2 * 2 * 2 ^ x.level)
  else if (groupRanks s (trussGroup s o)).all (fun e => e.1 = s.nodeId.toNat) then
    let lo := x.index / 2 * 2 * 2 ^ x.level
    let hi := lo + 2 * 2 ^ x.level
    (s.ops.filterMap (fun u => match u.cmd with
      | .window d => if u.done.isNone && decide (trussGroup s u = trussGroup s o) && decide (d.otrow = c.otrow) && decide (d.otcol = c.otcol) &&
          decide (d.splitN ≠ 0) && decide (lo ≤ d.kFirst) && decide (d.kFirst < hi) then some d.splitRank else none
      | _ => none)).min?
  else none

/-! ### Sending a partial (R443 to R447) -/

/-- A participant that is not the root is done: the slot holds its partial and the tree closes. -/
def finishSender (s : State) (o : Op) (t : Tree) (x : Partial) : State :=
  modOp (shutTree (putSlot s t.pantry t.lo t.fmt x) t) o.id (fun o => { addRecord o x.flags with done := some .ok })

/-- Whether partials of a key are too late (R448). -/
def keyTimedOut (s : State) (g otrow otcol k : Nat) : Bool := s.link.timedOut.contains (g, otrow * 65536 + otcol, k)

/-- A whole partial enters the Truss of this chip, or comes after its timeout (R448). -/
def takePartial (s : State) (p : RedPartial) : State :=
  if keyTimedOut s p.group p.otrow p.otcol p.kth then { s with link := { s.link with trLate := s.link.trLate + 1 } }
  else { s with link := { s.link with partials := s.link.partials ++ [p] } }

/-- The 256-byte chunks of a partial. -/
def redChunks : Nat → List Byte → List (List Byte)
  | 0, _ => []
  | n + 1, bs => if bs.isEmpty then [] else bs.take 256 :: redChunks n (bs.drop 256)

/-- Send a partial to another chip: REDDESC, then REDDATA; the command waits for the REDACK of the last chunk (R447). -/
def sendRemote (s : State) (o : Op) (c : WinCmd) (t : Tree) (g dst : Nat) (x : Partial) (info bytes : List Byte) (gcrc : Word) : State :=
  let hd : Nat → Nat → List Byte → Msg := fun mt tag data =>
    { mtype := mt, cls := o.cls, atop := 0, status := c.window, src := s.nodeId.toNat, dst := dst, tag := tag,
      addr := redAddr g c.otrow c.otcol, len := data.length, data := data }
  let desc := hd 0x20 0 (info ++ toBytes 4 (nodeId (splitKind c) x.level x.index) ++ toBytes 4 gcrc.toNat ++
    toBytes 8 (c.srows + t.fmt.code * 8))
  let cs := (redChunks (bytes.length / 256 + 1) bytes).zipIdx.map (fun e => hd 0x21 e.2 e.1)
  match cs.getLast? with
  | none => s
  | some last =>
    let tag := freeTag s
    let r : RemReq := { tag := tag, msg := last, door := none, owner := .red o.id, va := 0, ctx := o.ctx, retries := 0, backoff := false }
    let s := audTake { s with link := { s.link with reqs := s.link.reqs ++ [r], nextTag := (tag + 1) % 65536 } } 2 1
    let s := putTree s { t with sent := true }
    let r := (desc :: cs).foldl (fun (a : State × Bool) m => if a.2 then sendMsg a.1 m else a) (s, true)
    if r.2 then r.1 else failReq r.1 tag

/-- A node's partial goes to the rank that computes its parent (R445): the exact sums on this part (R147); on the RED VC in the
slot's format (Table 11.4), once a response buffer is free (R414), where an I32 sum outside its range, which only overlapping ranges give (R563), is limited (R60, log entry 93). -/
def sendPartial (s : State) (o : Op) (c : WinCmd) (t : Tree) (x : Partial) (owner : Nat) : State :=
  let g := trussGroup s o
  match (groupRanks s g)[owner]?, bankFind s.link.groups g with
  | some e, some grp =>
    let y := if e.1 ≠ s.nodeId.toNat ∧ t.fmt = .i32 then (limI32 x).1 else x
    let bytes := y.elems.flatMap (encElem t.fmt)
    let info := metaBytes y.flags false t.fmt x.step t.fmt.code x.esum x.passes x.esum
    if e.1 = s.nodeId.toNat then
      let p : RedPartial :=
        { group := g, otrow := c.otrow, otcol := c.otcol, node := BitVec.ofNat 32 (nodeId (splitKind c) x.level x.index),
          gcrc := grp.gcrc, fmt := t.fmt, srows := c.srows, src := s.nodeId.toNat, win := c.window, kth := o.gkey,
          want := bytes.length, bytes := bytes, descMeta := info, exact := some x.elems, rows := some (t.rowSum, t.kCount, t.farPasses),
          whole := true, dead := false }
      finishSender (takePartial s p) o t x
    else if crspFree s then sendRemote s o c t g e.1 x info bytes grp.gcrc
    else s
  | _, _ => s

/-! ### Combining (R144 to R148, R446) -/

/-- The value of a received partial at a node position. -/
def partialOf (p : RedPartial) (level index : Nat) : Partial :=
  let w := field p.descMeta 0 4
  { level := level, index := index, elems := p.exact.getD (decElems p.fmt p.bytes (srowsOf p.srows * 128)), step := w / 4096 % 8,
    esum := (limF32 (field p.descMeta 12 4, 0)).1, flags := TileFlags.ofBits w, passes := field p.descMeta 8 4 }

/-- A partial of a command's key with its sequence number (R444). -/
def keyed (s : State) (o : Op) (c : WinCmd) (k : Nat) (p : RedPartial) : Bool :=
  p.whole && decide (p.group = trussGroup s o) && decide (p.otrow = c.otrow) && decide (p.otcol = c.otcol) && decide (p.kth = k)

/-- A partial that R446 discards. -/
def badPartial (gcrc : Word) (c : WinCmd) (f : AFmt) (p : RedPartial) : Bool :=
  p.dead || decide (p.gcrc ≠ gcrc) || decide (p.fmt ≠ f) || decide (p.srows ≠ c.srows) || decide (p.node.toNat / 0x40000000 ≠ splitKind c)

/-- TRUSSMIS and TRUSS_MISMATCH (R446); a KX1-S, whose link registers read as 0, raises no event of 0x40 to 0x5F (R6, R450). -/
def trussMismatch (s : State) (g src : Nat) : State :=
  if isS s then s else raiseEvent { s with link := { s.link with flags := s.link.flags ||| 2 } } 0x46 noCtx g src

/-- A partial is discarded and the command for its key ends ABORTED (R446). -/
def discardPartial (s : State) (o : Op) (p : RedPartial) : State :=
  let s := { s with link := { s.link with partials := s.link.partials.erase p } }
  endOp (if p.dead then s else trussMismatch s p.group p.src) o.id .aborted false

/-- Row sums of two partials, the longer one's rows kept where NROWSM1 differs (R75). -/
def addRows (a b : List Int) : List Int := (List.range (max a.length b.length)).map (fun i => a.getD i 0 + b.getD i 0)

/-- One node combines by position (R146 to R148). -/
def combineNode (s : State) (o : Op) (c : WinCmd) (t : Tree) (x : Partial) (p : RedPartial) : State :=
  let y := partialOf p x.level (x.index ^^^ 1)
  let l := if x.index % 2 = 0 then x else y
  let r := if x.index % 2 = 0 then y else x
  let n := nodeOf t.fmt (srKey s o c) (nodeId (splitKind c) (x.level + 1) (x.index / 2)) 0 l r
  let s := countFx { s with
    link := { s.link with
    partials := s.link.partials.erase p, trComb := s.link.trComb + 1,
    trUnal := if c.unal then s.link.trUnal + 1 else s.link.trUnal } } t.pantry n.2
  let z := { n.1 with level := x.level + 1, index := x.index / 2, flags := { n.1.flags with unalign := n.1.flags.unalign || c.unal } }
  let t := match p.rows with
    | some v => { t with rowSum := addRows t.rowSum v.1, kCount := t.kCount + v.2.1, farPasses := t.farPasses + v.2.2 }
    | none => { t with farPasses := t.farPasses + y.passes }
  putTree s { t with root := some z }

/-- The partial for the sibling of a node, if it is present. -/
def siblingOf (s : State) (o : Op) (c : WinCmd) (x : Partial) : Option RedPartial :=
  let node := BitVec.ofNat 32 (nodeId (splitKind c) x.level (x.index ^^^ 1))
  s.link.partials.find? (fun p => keyed s o c o.gkey p && decide (p.node = node))

/-- The requesters of the Truss, as class and queue: trees whose next combination has both its operands (R278 to R280). -/
def combineReqs (s : State) : List (Nat × Nat) :=
  s.trees.filterMap (fun t => match findOp s t.op, t.root with
    | some o, some x =>
      (match o.cmd with
      | .window c =>
        let y := trussLift c 20 x
        if o.done.isNone && decide (c.splitN ≠ 0) && !t.sent && t.final.isNone && !(isRoot c y) && (siblingOf s o c y).isSome
          then some (o.cls, o.q) else none
      | _ => none)
    | _, _ => none)

/-- TRUSS_COMBINE for a participant whose root is complete. -/
def trussStep (s : State) (o : Op) (c : WinCmd) (t : Tree) (x : Partial) (owner : Nat) : State :=
  let g := trussGroup s o
  let gcrc := ((bankFind s.link.groups g).map (·.gcrc)).getD 0
  match s.link.partials.find? (fun p => keyed s o c o.gkey p && badPartial gcrc c t.fmt p) with
  | some p => discardPartial s o p
  | none =>
    let x := trussLift c 20 x
    if isRoot c x then (if c.splitRank = 0 then completeRoot s o c t x else sendPartial s o c t x 0)
    else
      let own := (ownerOf s o c x).getD (min owner c.splitRank)
      if own ≠ c.splitRank then sendPartial s o c t x own
      else
        match siblingOf s o c x with
        | some p =>
          if arbGrants s 48 256 o.cls o.q (combineReqs s) then
            let s' := combineNode s o c t x p
            arbTake s' 48 256 o.cls o.q (combineReqs s) (combineReqs s')
          else s
        | none => s

/-- TRUSS_COMBINE (R146, R278 to R280): combines with a sibling that is present, sends the partial to the rank that computes its parent, or
completes the root at rank 0 (R137). `owner` names that rank, which is no greater than the command's own, where only the other
chips' commands determine it. -/
def execTrussCombine (q : Fin 256) (idx : Fin 65536) (owner : Fin 65536) (s : State) : Host.Outcome State Fault Refusal :=
  .next (match findOp s (q.val, idx.val), findTree s (q.val, idx.val) with
    | some o, some t =>
      match o.cmd, t.root with
      | .window c, some x =>
        if powered s && o.done.isNone && decide (c.splitN ≠ 0) && !t.sent && t.final.isNone then trussStep s o c t x owner.val else s
      | _, _ => s
    | _, _ => s)

/-- TRUSS_TIMEOUT (R448): TRTO is not 0, not on KX1-S, and a partial for a node of this command is missing. -/
def execTrussTimeout (q : Fin 256) (idx : Fin 65536) (s : State) : Host.Outcome State Fault Refusal :=
  .next (match findOp s (q.val, idx.val), findTree s (q.val, idx.val) with
    | some o, some t =>
      match o.cmd, t.root with
      | .window c, some x =>
        let y := trussLift c 20 x
        let mine := match ownerOf s o c y with | some r => decide (r = c.splitRank) | none => decide (y.index % 2 = 0)
        let node := BitVec.ofNat 32 (nodeId (splitKind c) y.level (y.index ^^^ 1))
        let here := s.link.partials.any (fun p => keyed s o c o.gkey p && decide (p.node = node))
        if powered s && !(isS s) && decide (s.link.trto ≠ 0) && o.done.isNone && decide (c.splitN ≠ 0) && !t.sent && t.final.isNone &&
            !(isRoot c y) && mine && !here then
          let g := trussGroup s o
          let s := endOp s o.id .aborted false
          raiseEvent { s with
            link := { s.link with
            flags := s.link.flags ||| 8, timedOut := s.link.timedOut ++ [(g, c.otrow * 65536 + c.otcol, o.gkey)] } } 0x47 noCtx g
            (c.otrow + c.otcol * 65536)
        else s
      | _, _ => s
    | _, _ => s)

/-! ### Partials from other chips (R444, R446 to R448) -/

/-- REDDESC (R444, R446): a partial begins to arrive; a GCRC that differs marks it for discarding. -/
def execReddesc (s : State) : Host.Outcome State Fault Refusal :=
  .next (match takeMsg s 0x20 with
    | none => s
    | some (_, m, s) =>
      let g := m.addr / 4294967296 % 256
      let otrow := m.addr % 65536
      let otcol := m.addr / 65536 % 65536
      let b := field m.data 24 1
      let f := (afmtOf (b / 8 % 16)).getD .i32
      let gcrc := BitVec.ofNat 32 (field m.data 20 4)
      let bad := decide ((bankFind s.link.groups g).map (·.gcrc) ≠ some gcrc)
      let key := kthKey g otrow otcol m.src (m.status % 8)
      let k := bankGet s.link.kths 0 key
      let p : RedPartial :=
        { group := g, otrow := otrow, otcol := otcol, node := BitVec.ofNat 32 (field m.data 16 4), gcrc := gcrc, fmt := f,
          srows := b % 8, src := m.src, win := m.status % 8, kth := k, want := footprint (srowsOf (b % 8)) f, bytes := [],
          descMeta := m.data.take 16, exact := none, rows := none, whole := false, dead := bad }
      let s := { s with link := { s.link with kths := bankPut s.link.kths key (k + 1), partials := s.link.partials ++ [p] } }
      if bad then trussMismatch s g m.src else s)

/-- REDDATA (R444, R447, R448): the next chunk; the last one is acknowledged. -/
def execReddata (s : State) : Host.Outcome State Fault Refusal :=
  .next (match takeMsg s 0x21 with
    | none => s
    | some (_, m, s) =>
      match s.link.partials.find? (fun p => !p.whole && decide (p.src = m.src) && decide (p.win = m.status % 8) &&
          decide (redAddr p.group p.otrow p.otcol = m.addr % 2 ^ 40)) with
      | none => s
      | some p =>
        let bytes := p.bytes ++ m.data
        if bytes.length < p.want then
          { s with link := { s.link with partials := s.link.partials.map (fun u => if u = p then { p with bytes := bytes } else u) } }
        else
          let s := { s with link := { s.link with partials := s.link.partials.erase p } }
          takePartial (answer s m 0x14 0 m.addr []) { p with bytes := bytes, whole := true })

/-- REDACK (R447): the non-root participant's command completes. -/
def execRedack (s : State) : Host.Outcome State Fault Refusal :=
  .next (match takeMsg s 0x14 with
    | none => s
    | some (d, m, s) =>
      match s.link.reqs.find? (fun r => decide (r.msg.mtype = 0x21) && decide (r.msg.dst = m.src) && decide (r.msg.addr = m.addr) && decide (r.msg.tag = m.tag)) with
      | none => lateRsp s d
      | some r =>
        let s := releaseHeld (dropReq s r.tag)
        match r.owner with
        | .red id =>
          (match findOp s id, findTree s id with
          | some o, some t => (match t.root with | some x => finishSender s o t x | none => s)
          | _, _ => s)
        | _ => s)

end Sys2Proof.Machine
end

