-- ==== Sys2Proof/Machine/Epilogue.lean ====
section
/-!
DEFINITION. The fused epilogue (chapter 4, Tables 4.3 to 4.6; chapter 2, R50 to R56, R63 to R77, R561): result tile, row-scale
vector, metadata and ERRB.
-/

namespace Sys2Proof.Machine

open Sys2Proof

/-- A channel-table entry as the epilogue reads it (Table 2.7, R47). -/
structure Chan where
  cs : Word
  bias : Word
  oscr : Word
  csum : Word
  zw : Word
  rsvd : Bool
  deriving DecidableEq, Repr

/-- Whether a command writes Q codes in OMODE 0, reading OSCR (R561). -/
def qStatic (c : WinCmd) : Bool := decide (c.ofmt ≠ 3) && !c.omode

/-- Read an entry: only the fields that the command's modes use can set RSVD or enter a result (R561). -/
def readChan (c : WinCmd) (bs : List Byte) : Chan :=
  let g : Nat → Word × Bool := fun off => readF32 (BitVec.ofNat 32 (field bs off 4))
  let cs := g 0
  let bias := g 4
  let oscr := if qStatic c then g 8 else (0x3F800000, false)
  let csum := if c.zpmode = 2 then g 12 else (0, false)
  let zw := if c.zpmode = 0 then (0, false) else g 16
  ⟨cs.1, bias.1, oscr.1, csum.1, zw.1, cs.2 || bias.2 || oscr.2 || csum.2 || zw.2⟩

/-- An accumulator value as F32 (R48, R51), and whether it was reserved. -/
def accF32 (f : AFmt) (step : Nat) (v : Int) : Word × Bool :=
  match f with
  | .a24 => let a := readA24 v.toNat; (BitVec.ofNat 32 (roundDy f32 .rne false a.1).1, a.2)
  | .i16 => (BitVec.ofNat 32 (roundDy f32 .rne false ⟨v, step⟩).1, false)
  | .i32 => (wInt v, false)

/-- C_ij (R76): zx, K and RS_i as the command's mode takes them. -/
def corrTerm (c : WinCmd) (ch : Chan) (zx rs k : Int) : Word × Bool :=
  if c.zpmode = 0 then (0, false)
  else
    let z := if c.zpmode = 1 then 0 else zx
    let c1 := wMul (wInt z) ch.csum
    let c2 := wMul ch.zw (wInt rs)
    let c3 := wMul ch.zw (wInt (k * z))
    let a := wAdd c1.1 c2.1
    let d := wSub a.1 c3.1
    (d.1, c1.2 || c2.2 || c3.2 || a.2 || d.2)

/-- Steps 1 to 5 of Table 4.3 for one element: v5 and SAT. -/
def epiValue (c : WinCmd) (ch : Chan) (rsc a cij : Word) : Word × Bool :=
  let v1 := wMul a ch.cs
  let v2 := wMul v1.1 rsc
  let m1 := wMul cij ch.cs
  let m2 := wMul m1.1 rsc
  let v3 := wSub v2.1 m2.1
  let v4 := wAdd v3.1 ch.bias
  (activate c.act v4.1, v1.2 || v2.2 || m1.2 || m2.2 || v3.2 || v4.2)

/-- A row after the epilogue: its codes or BF16 patterns, row exponent, the magnitude that M takes, SAT. -/
structure EpiRow where
  codes : List Nat
  exp : Int
  mag : Word
  sat : Bool
  deriving DecidableEq, Repr

/-- The largest magnitude of finite F32 patterns. -/
def maxMag (xs : List Word) : Word := xs.foldl (fun m x => maxF32 m (absF32 x)) 0

/-- Step 6 of Table 4.3: `vs` are the row's values below NVALID (R133). -/
def convertRow (c : WinCmd) (chans : List Chan) (vs : List (Word × Bool)) : EpiRow :=
  let sat := vs.any (·.2)
  let pad : List Nat → List Nat := fun xs => xs ++ List.replicate (128 - xs.length) 0
  if c.ofmt = 3 then
    let b := vs.map (fun v => toBf16 v.1)
    ⟨pad (b.map (·.1)), 0, maxMag (vs.map (·.1)), sat || b.any (·.2)⟩
  else if c.omode then
    let r := rowScale (qmax c.ofmt) (-126) ((vs.map (fun v => dyOf f32 v.1.toNat)) ++ List.replicate (128 - vs.length) ⟨0, 0⟩)
    ⟨r.2.map (storeQ c.ofmt), r.1, maxMag (vs.map (·.1)), sat⟩
  else
    let t := List.zipWith (fun v (ch : Chan) => wMul v.1 ch.oscr) vs chans
    let q := t.map (fun x => toQ c.ofmt x.1)
    ⟨pad (q.map (fun x => storeQ c.ofmt x.1)), 0, maxMag (t.map (·.1)), sat || t.any (·.2) || q.any (·.2)⟩

/-- The bytes of a row of result elements. -/
def rowOut (ofmt : Nat) (xs : List Nat) : List Byte :=
  if ofmt = 0 then packQ4 xs else if ofmt = 3 then xs.flatMap (toBytes 2) else xs.map (BitVec.ofNat 8)

/-- H for BF16: half the ulp at the largest written element (chapter 4, the error bound). -/
def halfUlpBf16 (m : Nat) : Word :=
  let e := m / 128 % 256
  if e = 0 then BitVec.ofNat 32 (roundPack f32 .rup false 1 (-134)).1 else BitVec.ofNat 32 (roundPack f32 .rup false 1 ((e : Int) - 135)).1

/-- ERRB (R138, R560): value and whether a step was limited. -/
def errbOf (c : WinCmd) (esum g s h mag : Word) : Word × Bool :=
  let a := upMul esum g
  let b := upMul a.1 (lambdaOf c.act)
  let d := upMul b.1 s
  let e := upAdd d.1 h
  let m := upMul 0x35800000 mag
  let r := upAdd e.1 m.1
  (r.1, a.2 || b.2 || d.2 || e.2 || m.2 || r.2)

/-- The row scales of a tile (R66) as F32, and whether one was reserved (R47, R49). -/
def rowScales (c : WinCmd) (t : Tree) (rsv : List Byte) : List (Word × Bool) :=
  (List.range c.nrows).map (fun i =>
    if c.rsrc = 0 then readF32 c.sx
    else if c.rsrc = 1 then (pow2F32 (((t.rowScale.getD i 127 : Nat) : Int) - 127), false)
    else let e := readE8 (field rsv i 1); (pow2F32 e.1, e.2))

/-- A free value within ±n. -/
def freeWithin (v n : Nat) : Int := ((v % (2 * n + 1) : Nat) : Int) - n

/-- RS_i and K of a tile (R75): this part's sums, plus free values for the passes of other chips, whose partials carry neither
(log entry 5): at most 128 codes of magnitude 127 enter each row of a pass. -/
def tileSums (s : State) (c : WinCmd) (t : Tree) : State × List Int × Int :=
  if decide (0 < t.farPasses) && decide (c.zpmode ≠ 0) then
    let r := freshNat s
    let k := 128 * t.farPasses
    (r.2, (List.range c.nrows).map (fun i => t.rowSum.getD i 0 + freeWithin (r.1 / 2 ^ (32 * (i + 1))) (127 * k)),
      (t.kCount : Int) + ((r.1 % (k + 1) : Nat) : Int))
  else (s, t.rowSum, (t.kCount : Int))

/-- The result of the epilogue: tile bytes, row-scale bytes, flags, ERRB. -/
structure EpiOut where
  tile : List Byte
  osv : List Byte
  flags : TileFlags
  errb : Word
  deriving DecidableEq, Repr

/-- The whole epilogue of a tile (R133 to R139). -/
def runEpilogue (c : WinCmd) (t : Tree) (x : Partial) (chans : List Chan) (scales : List (Word × Bool)) (sums : List Int) (k : Int) : EpiOut :=
  let zx := (zxOf c).1
  let rows := (List.range c.nrows).map (fun i =>
    let vs := chans.zipIdx.map (fun e =>
      let a := accF32 t.fmt x.step (x.elems.getD (128 * i + e.2) 0)
      let cij := corrTerm c e.1 zx (sums.getD i 0) k
      let v := epiValue c e.1 (scales.getD i (0, false)).1 a.1 cij.1
      (v.1, v.2 || cij.2, a.2))
    (convertRow c chans (vs.map (fun v => (v.1, v.2.1))), vs.any (fun v => v.2.2)))
  let mag := maxMag (rows.map (fun r => r.1.mag))
  let gc := maxMag (chans.map (·.cs))
  let gr := maxMag (scales.map (·.1))
  let g := upMul gc gr
  let sc := if qStatic c then maxMag (chans.map (·.oscr)) else 0x3F800000
  let h := if c.ofmt = 3 then halfUlpBf16 ((rows.map (fun r => r.1.codes.foldl (fun m v => max m (v % 32768)) 0)).foldl max 0)
    else if c.omode then pow2F32 ((rows.map (fun r => r.1.exp)).foldl max (-126) - 1)
    else 0x3F000000
  let e := errbOf c x.esum g.1 sc h mag
  let sat := rows.any (fun r => r.1.sat) || e.2 || g.2
  let rsvd := rows.any (·.2) || chans.any (·.rsvd) || scales.any (·.2)
  { tile := rows.flatMap (fun r => rowOut c.ofmt r.1.codes), osv := rows.map (fun r => BitVec.ofNat 8 ((r.1.exp + 127).toNat)),
    flags := { x.flags with sat := x.flags.sat || sat, rsvd := x.flags.rsvd || rsvd }, errb := e.1 }

/-- The unit number of a halted stream that stands for the epilogue's reads. -/
def epiSlot : Nat := 129

/-- The epilogue of a tree (R137): reads, computes, and hands the tile, the row-scale vector and the metadata to a DRAIN stream. -/
def epilogue (s0 : State) (o : Op) (c : WinCmd) (t : Tree) (x : Partial) (env : Env) : State :=
  let a := readVa s0 env o.ctx c.ctAddr (32 * t.nvalid)
  let b := if a.2.1 = .ok && decide (c.rsrc = 2) then readVa a.1 env o.ctx c.rsvAddr c.nrows else (a.1, a.2.1, [])
  afterAccess s0 b.1 o epiSlot b.2.1 (fun s =>
    let chans := (List.range t.nvalid).map (fun j => readChan c ((a.2.2.drop (32 * j)).take 32))
    let k := tileSums s c t
    let r := runEpilogue c t x chans (rowScales c t b.2.2) k.2.1 k.2.2
    let info := metaBytes r.flags true t.fmt (if t.fmt = .i16 then x.step else 0) c.ofmt r.errb x.passes x.esum
    let segs := [(c.outAddr, r.tile)] ++ (if c.omode then [(c.osvAddr, r.osv)] else []) ++ [(c.metAddr, info)]
    let s := putSlot k.1 t.pantry t.lo t.fmt x
    let s := modOp s o.id (fun o => addRecord o r.flags)
    addStream s { mkStream o .drain with toUnit := false, segs := segs, win := c.window })

/-- EPILOGUE (R137): once the root, with any Truss combination, is complete. -/
def execEpilogue (q : Fin 256) (idx : Fin 65536) (env : Env) (s : State) : Host.Outcome State Fault Refusal :=
  .next (match findOp s (q.val, idx.val), findTree s (q.val, idx.val) with
    | some o, some t =>
      match o.cmd, t.final with
      | .window c, some x =>
        if powered s && o.done.isNone && c.epi && !(s.streams.any (fun e => decide (e.2.op = o.id) && decide (e.2.kind = .drain))) &&
            !(studyHalted s o.id epiSlot) then
          epilogue s o c t x env
        else s
      | _, _ => s
    | _, _ => s)

end Sys2Proof.Machine
end

