-- ==== Sys2Proof/Machine/Refine.lean ====
section
/-!
DEFINITION. The Refine primitive (chapter 6, R216 to R230, R565): its start checks, and its residual, decision and update
work items. Memory is read through the command's translations; a fault halts a STUDY stream and the item runs again.
-/

namespace Sys2Proof.Machine

open Sys2Proof

/-- The F64 element k of an array of bytes. -/
def f64At (bs : List Byte) (k : Nat) : Nat := field (bs.drop (8 * k)) 0 8

/-! ### Start (R228) -/

/-- A tile-list entry (Table 6.4). -/
structure TileEnt where
  trow : Nat
  tcol : Nat
  rsv : Nat
  img : Nat
  scale : Long
  deriving DecidableEq, Repr

/-- The tile list's entries. -/
def tileEnts (bs : List Byte) (m : Nat) : List TileEnt :=
  (List.range m).map (fun i => let e := bs.drop (24 * i)
    ⟨field e 0 2, field e 2 2, field e 4 4, field e 8 8, BitVec.ofNat 64 (field e 16 8)⟩)

/-- Elements of tile row or column t within N. -/
def tileExtent (n t : Nat) : Nat := min 128 (n - 128 * t)

/-- No two entries of one tile. -/
def tilesDistinct : List TileEnt → Bool
  | [] => true
  | e :: t => !(t.any (fun f => decide (f.trow = e.trow) && decide (f.tcol = e.tcol))) && tilesDistinct t

/-- The list itself (R228). -/
def tilesOk (n : Nat) (es : List TileEnt) : Bool :=
  es.all (fun e => decide (e.trow < refBlocks n) && decide (e.tcol < refBlocks n) && decide (e.rsv = 0) && decide (e.img % 256 = 0)) &&
  tilesDistinct es

/-- The images' headers: their IDs, or the access that failed; none where KVALID or NVALID differs (R228). -/
def tileHeads (env : Env) (o : Op) (n : Nat) : List TileEnt → State → State × Acc × Option (List Long)
  | [], s => (s, .ok, some [])
  | e :: t, s =>
    match readOp s env o e.img 24 with
    | (s, .ok, h) =>
      if field h 6 2 ≠ tileExtent n e.tcol ∨ field h 8 2 ≠ tileExtent n e.trow then (s, .ok, none)
      else match tileHeads env o n t s with
        | (s, a, some ids) => (s, a, some (BitVec.ofNat 64 (field h 16 8) :: ids))
        | r => r
    | (s, a, _) => (s, a, none)

/-- Whether row pointers never decrease. -/
def risingPtrs : List Nat → Bool
  | a :: b :: t => decide (a ≤ b) && risingPtrs (b :: t)
  | _ => true

/-- N + 1 row pointers. -/
def rowPtrs (bs : List Byte) (n : Nat) : List Nat := (List.range (n + 1)).map (fun i => field (bs.drop (4 * i)) 0 4)

/-- The CSR arrays (R228): the body offset of the one that is wrong, if any. -/
def csrCheck (s : State) (env : Env) (o : Op) (c : RefCmd) : State × Acc × Option Nat :=
  if !c.csr then (s, .ok, none)
  else match readOp s env o c.rowPtr (4 * (c.n + 1)) with
    | (s, .ok, bs) =>
      let rp := rowPtrs bs c.n
      if !(risingPtrs rp) then (s, .ok, some 32)
      else
        let lo := rp.headD 0
        let nnz := rp.getLastD 0 - lo
        match readOp s env o (c.colIdx + 4 * lo) (4 * nnz) with
        | (s, .ok, cs) => (s, .ok, if (List.range nnz).any (fun k => decide (c.n ≤ field (cs.drop (4 * k)) 0 4)) then some 40 else none)
        | (s, a, _) => (s, a, none)
    | (s, a, _) => (s, a, none)

/-- A Refine begins at iteration 0 with x₀. -/
def refineInit (x : List Long) (n : Nat) (tiles : List (Nat × Nat × Nat × Long × Long)) : RefineSt :=
  { k := 0, stage := .residuals, x := x, r := List.replicate n 0, eps := List.replicate n 0, decided := List.replicate n none,
    ehist := [], rnorm := 0, tiles := tiles, codes := [], exp := 0, accs := [], blocks := [], apps := 0, wpasses := 0,
    ieee := 0, sat := false, rsvd := false, moved := false, noWin := false }

/-- The start of a REFINE command before iteration 0 (R228): it runs, or ends INVALID with the offset of MTADDR (88), ROWPTR
(32) or COLIDX (40). -/
def refineStart (s0 : State) (env : Env) (o : Op) (c : RefCmd) : State :=
  let bad : Nat → State → State := fun d s => modOp s o.id (fun o => { o with started := true, done := some .invalid, detail := d })
  match readOp s0 env o c.mtAddr (24 * c.mTiles) with
  | (s, .ok, bs) =>
    let es := tileEnts bs c.mTiles
    if !(tilesOk c.n es) then bad 88 s
    else match tileHeads env o c.n es s with
      | (s, .ok, none) => bad 88 s
      | (s, .ok, some ids) =>
        (match csrCheck s env o c with
        | (s, .ok, some d) => bad d s
        | (s, .ok, none) =>
          let x0 := if c.x0Addr = 0 then (s, Acc.ok, []) else readOp s env o c.x0Addr (8 * c.n)
          afterAccess s0 x0.1 o startSlot x0.2.1 (fun s =>
            let x := (List.range c.n).map (fun i => BitVec.ofNat 64 (f64At x0.2.2 i))
            let tiles := List.zipWith (fun (e : TileEnt) (i : Long) => (e.trow, e.tcol, e.img, e.scale, i)) es ids
            modOp s o.id (fun o => { o with started := true, refine := some (refineInit x c.n tiles) }))
        | (s, a, _) => afterAccess s0 s o startSlot a id)
      | (s, a, _) => afterAccess s0 s o startSlot a id
  | (s, a, _) => afterAccess s0 s o startSlot a id

/-! ### Residuals (R216, R217) -/

/-- The products of a row: (A_ij, x_j) in order; dense or CSR. -/
def refRow (s : State) (env : Env) (o : Op) (c : RefCmd) (x : List Long) (i : Nat) : State × Acc × List (Nat × Nat) :=
  if c.csr then
    match readOp s env o (c.rowPtr + 4 * i) 8 with
    | (s, .ok, p) =>
      let lo := field p 0 4
      let n := field p 4 4 - lo
      match readOp s env o (c.aAddr + 8 * lo) (8 * n) with
      | (s, .ok, av) =>
        (match readOp s env o (c.colIdx + 4 * lo) (4 * n) with
        | (s, .ok, cs) => (s, .ok, (List.range n).map (fun k => (f64At av k, (x.getD (field (cs.drop (4 * k)) 0 4) 0).toNat)))
        | (s, a, _) => (s, a, []))
      | (s, a, _) => (s, a, [])
    | (s, a, _) => (s, a, [])
  else match readOp s env o (c.aAddr + 8 * (i * c.lda)) (8 * c.n) with
    | (s, .ok, av) => (s, .ok, (List.range c.n).map (fun j => (f64At av j, (x.getD j 0).toNat)))
    | (s, a, _) => (s, a, [])

/-- γ_m rounded toward +∞ (R217). -/
def gammaUp (m : Nat) : Nat × IFlags :=
  let mu := roundPack f64 .rup false m (-53)
  let d := fSub f64 .rup (roundPack f64 .rup false 1 0).1 mu.1
  let q := fDiv f64 .rup mu.1 d.1
  (q.1, mu.2 ||| d.2 ||| q.2)

/-- ε_i of a row (R217): n products, |b_i|. -/
def epsUp (b : Nat) (row : List (Nat × Nat)) : Nat × IFlags :=
  let n := row.length
  let sum := canonDot f64 .rup (row.map (fun e => (fAbs f64 e.1, fAbs f64 e.2)))
  let t := fAdd f64 .rup (fAbs f64 b) sum.1
  let g := gammaUp (n + 1)
  let p := fMul f64 .rup g.1 t.1
  let tiny := roundPack f64 .rup false (n + 1) (-1074)
  let e := fAdd f64 .rup p.1 tiny.1
  (e.1, sum.2 ||| t.2 ||| g.2 ||| p.2 ||| tiny.2 ||| e.2)

/-- One row: r_i and ε_i with flags. -/
def refResidual (b : Nat) (row : List (Nat × Nat)) : Nat × Nat × IFlags :=
  let s := canonDot f64 .rne row
  let r := fSub f64 .rne b s.1
  let e := epsUp b row
  (r.1, e.1, s.2 ||| r.2 ||| e.2)

/-- The rows of a block from row i, k of them. -/
def refRows (env : Env) (o : Op) (c : RefCmd) (x : List Long) : Nat → Nat → State → State × Acc × List (Nat × Nat × IFlags)
  | 0, _, s => (s, .ok, [])
  | k + 1, i, s =>
    match refRow s env o c x i with
    | (s, .ok, row) =>
      (match readOp s env o (c.bAddr + 8 * i) 8 with
      | (s, .ok, b) =>
        let v := refResidual (fromBytes b) row
        match refRows env o c x k (i + 1) s with
        | (s, a, vs) => (s, a, v :: vs)
      | (s, a, _) => (s, a, []))
    | (s, a, _) => (s, a, [])

/-- Replace elements of a list from an index. -/
def putFrom (l : List Long) (i : Nat) (xs : List Long) : List Long := l.take i ++ xs ++ l.drop (i + xs.length)

/-- A block of a stage is done; the last one goes on to the next stage. -/
def blockDone (c : RefCmd) (b : Nat) (next : RefStage) (r : RefineSt) : RefineSt :=
  let bs := r.blocks ++ [b]
  if bs.length = refBlocks c.n then { r with blocks := [], stage := next } else { r with blocks := bs }

/-- The items of a stage that has just begun are all to be dispatched. -/
def freshItems (stage : RefStage) (o : Op) : Op :=
  match o.refine with
  | some r => if r.stage = stage then o else { o with itemsOut := [] }
  | none => o

/-- A residual item's results (R216, R217, R565). -/
def residualDone (s : State) (o : Op) (c : RefCmd) (core b : Nat) (vs : List (Nat × Nat × IFlags)) : State :=
  let upd : RefineSt → RefineSt := fun r => blockDone c b .decide
    { r with r := putFrom r.r (128 * b) (vs.map (fun v => BitVec.ofNat 64 v.1)),
             eps := putFrom r.eps (128 * b) (vs.map (fun v => BitVec.ofNat 64 v.2.1)),
             ieee := vs.foldl (fun f v => f ||| v.2.2) r.ieee }
  modOp (itemDone s core) o.id (fun o => freshItems .residuals { o with refine := o.refine.map upd })

/-- The command and state of a Refine whose item a core runs. -/
def refineOn (s : State) (core : Nat) (it : Item) : Option (Op × RefCmd × RefineSt) :=
  match findOp s it.opId with
  | some o =>
    match o.cmd, o.refine with
    | .refine c, some r => if powered s && o.done.isNone && !(studyHalted s o.id core) then some (o, c, r) else none
    | _, _ => none
  | none => none

/-- REFINE_RESIDUAL (R216, R217, R565). -/
def execRefineResidual (core : Fin 128) (env : Env) (s : State) : Host.Outcome State Fault Refusal :=
  .next (match bankFind s.study.busy core.val with
    | some (.residual id b) =>
      match refineOn s core.val (.residual id b) with
      | some (o, c, r) =>
        let x := refRows env o c r.x (tileExtent c.n b) (128 * b) s
        afterAccess s x.1 o core.val x.2.1 (fun s => residualDone s o c core.val b x.2.2)
      | none => s
    | _ => s)

/-! ### The decision item (R217 to R221, R224) -/

/-- ‖v‖∞ as R217 forms it. -/
def normInf (v : List Long) : Nat :=
  if v.any (fun q => isNan f64 q.toNat) then qnan f64 else v.foldl (fun m q => max m (fAbs f64 q.toNat)) 0

/-- e_k (R217). -/
def errBound (beta : Long) (r eps : List Long) : Nat × IFlags :=
  let a := fAdd f64 .rup (normInf r) (normInf eps)
  let e := fMul f64 .rup beta.toNat a.1
  (e.1, a.2 ||| e.2)

/-- A finite F64 pattern. -/
def fin64 (q : Long) : Bool := isFin f64 q.toNat

/-- The test of one undecided element (R218): the multiple of g that both ends round to, and the flags of the two ends. -/
def decideElem (tolExp : Int) (e : Nat) (x : Long) : Option Int × IFlags :=
  let lo := fSub f64 .rdn x.toNat e
  let hi := fAdd f64 .rup x.toNat e
  let fl := lo.2 ||| hi.2
  if isFin f64 lo.1 && isFin f64 hi.1 then
    let a := dyRne (dyOf f64 lo.1) tolExp
    if a = dyRne (dyOf f64 hi.1) tolExp then (some a, fl) else (none, fl)
  else (none, fl)

/-- The F64 value of a multiple of g; one that no finite F64 holds is a free value (log entry 5). -/
def gridValue (s : State) (tolExp : Int) (n : Int) : State × Long :=
  let v := (roundDy f64 .rne false ⟨n, tolExp⟩).1
  if isFin f64 v then (s, BitVec.ofNat 64 v)
  else let f := freshNat s; (f.2, BitVec.ofNat 64 f.1)

/-- Apply R218 to every undecided element. -/
def decideAll (tolExp : Int) (e : Nat) : List (Option Long × Long) → State → IFlags → State × List (Option Long) × IFlags
  | [], s, fl => (s, [], fl)
  | (some v, _) :: t, s, fl => let r := decideAll tolExp e t s fl; (r.1, some v :: r.2.1, r.2.2)
  | (none, x) :: t, s, fl =>
    let d := decideElem tolExp e x
    match d.1 with
    | some n =>
      let g := gridValue s tolExp n
      let r := decideAll tolExp e t g.1 (fl ||| d.2)
      (r.1, some g.2 :: r.2.1, r.2.2)
    | none => let r := decideAll tolExp e t s (fl ||| d.2); (r.1, none :: r.2.1, r.2.2)

/-- |x| ≥ 2⁵² × g (R220). -/
def gridRange (tolExp : Int) (x : Long) : Bool := dyLe ⟨1, 52 + tolExp⟩ (dyAbs (dyOf f64 x.toNat))

/-- The stop status of Table 6.5, if the iteration stops (R219, R220): `dec` are the decisions of the iteration. -/
def stopStatus (c : RefCmd) (r : RefineSt) (e : Nat) (dec : List (Option Long)) : Option Nat :=
  if !((r.r ++ r.eps ++ r.x).all fin64) || !(isFin f64 e) then some 3
  else if (r.decided.zip r.x).any (fun d => d.1.isNone && gridRange c.tolExp d.2) then some 4
  else if dec.all (·.isSome) then some 0
  else if decide (4 ≤ r.k) && decide ((r.ehist.getD 3 0).toNat ≤ e) then some 2
  else if r.k = c.itMax then some 1
  else none

/-- The bitmap at MAPADDR (Table 6.3). -/
def bitmapOf (dec : List (Option Long)) : List Byte :=
  (List.range ((dec.length + 7) / 8)).map (fun b =>
    BitVec.ofNat 8 (((List.range 8).map (fun k => if ((dec.getD (8 * b + k) none)).isSome then 2 ^ k else 0)).sum))

/-- The report (Table 6.5). -/
def refReport (r : RefineSt) (status : Nat) : List Byte :=
  toBytes 4 status ++ toBytes 4 r.apps ++ toBytes 4 (r.decided.filter (·.isSome)).length ++ toBytes 4 r.wpasses ++
  toBytes 8 r.rnorm.toNat ++ toBytes 8 (r.ehist.headD 0).toNat ++
  toBytes 2 (r.ieee.toNat + (if r.sat then 256 else 0) + (if r.rsvd then 512 else 0) + (if r.moved then 1024 else 0)) ++ toBytes 30 0

/-- YOUT (R224). -/
def youtOf (r : RefineSt) : List Byte := (r.decided.zip r.x).flatMap (fun d => toBytes 8 (d.1.getD d.2).toNat)

/-- Write a list of (address, bytes) on a context's behalf. -/
def writeAll (env : Env) (o : Op) : List (Nat × List Byte) → State → State × Acc
  | [], s => (s, .ok)
  | (va, bs) :: t, s =>
    match writeOp s env o va bs with
    | (s, .ok) => writeAll env o t (testFences s)
    | (s, a) => (testFences s, a)

/-- Refine stops: YOUT, the bitmap, then the report; the command ends OK (R224, R370). What was written before a fault stays, and
the writes are made again after it. -/
def refineStop (s0 s : State) (env : Env) (o : Op) (c : RefCmd) (core : Nat) (r : RefineSt) (status : Nat) : State :=
  let w := writeAll env o [(c.yOut, youtOf r), (c.mapAddr, bitmapOf r.decided), (c.repAddr, refReport r status)] s
  afterAccess s0 w.1 o core w.2 (fun s =>
    let s := itemDone s core
    let s := if status = 1 ∨ status = 2 then { s with study := { s.study with flags := s.study.flags ||| 4 } } else s
    let fl : BitVec 9 := r.ieee.setWidth 9 ||| (if r.sat then 32 else 0) ||| (if r.rsvd then 64 else 0) ||| (if r.moved then 256 else 0)
    modOp s o.id (fun o => { o with refine := some r, done := some .ok, rflags := o.rflags ||| fl }))

/-- The Window input of the next application (R221). -/
def windowInput (r : RefineSt) : RefineSt :=
  let q := rowScale 127 (-1074) (r.r.map (fun v => dyOf f64 v.toNat))
  { r with codes := q.2, exp := q.1, accs := [], stage := .optics, blocks := [] }

/-- The decision of an iteration. -/
def decision (s0 : State) (env : Env) (o : Op) (c : RefCmd) (core : Nat) (r : RefineSt) : State :=
  let e := errBound c.beta r.r r.eps
  let r1 := { r with rnorm := BitVec.ofNat 64 (normInf r.r), ieee := r.ieee ||| e.2 }
  let early := stopStatus c r1 e.1 [some 0]
  if early = some 3 ∨ early = some 4 then
    refineStop s0 s0 env o c core { r1 with ehist := BitVec.ofNat 64 e.1 :: r.ehist } (early.getD 3)
  else
    let d := decideAll c.tolExp e.1 (r.decided.zip r.x) s0 0
    let r2 := { r1 with decided := d.2.1, ieee := r1.ieee ||| d.2.2, ehist := BitVec.ofNat 64 e.1 :: r.ehist }
    match stopStatus c r1 e.1 d.2.1 with
    | some st => refineStop s0 d.1 env o c core r2 st
    | none => modOp (itemDone d.1 core) o.id (fun o => { o with refine := some (windowInput r2), passes := [], itemsOut := [] })

/-- REFINE_DECISION (R218 to R221, R224, R565). -/
def execRefineDecision (core : Fin 128) (env : Env) (s : State) : Host.Outcome State Fault Refusal :=
  .next (match bankFind s.study.busy core.val with
    | some (.decision id) =>
      match refineOn s core.val (.decision id) with
      | some (o, c, r) => if r.noWin then refineStop s s env o c core.val r 5 else decision s env o c core.val r
      | none => s
    | _ => s)

/-! ### Updates (R222, R223) -/

/-- The terms of an output in ascending TCOL order: TSCALE, acc. -/
def zTerms (r : RefineSt) (b j : Nat) : List (Nat × Int) :=
  (List.range 64).flatMap (fun col => (r.tiles.zipIdx).filterMap (fun t =>
    if t.1.1 = b ∧ t.1.2.1 = col then some (t.1.2.2.2.1.toNat, (bankGet r.accs [] t.2).getD j 0) else none))

/-- z of an output (R222): the first term, then additions; +0 with no tile. -/
def zOf (e : Int) (ts : List (Nat × Int)) : Nat × IFlags :=
  let p2 := (roundPack f64 .rne false 1 e).1
  let term : Nat × Int → Nat × IFlags := fun t =>
    let a := fMul f64 .rne t.1 (roundDy f64 .rne false (dyInt t.2)).1
    let m := fMul f64 .rne a.1 p2
    (m.1, a.2 ||| m.2)
  match ts.map term with
  | [] => (0, 0)
  | h :: t => t.foldl (fun a x => let y := fAdd f64 .rne a.1 x.1; (y.1, a.2 ||| x.2 ||| y.2)) h

/-- x_{k+1} of the rows of a block (R223), with flags. -/
def updateBlock (c : RefCmd) (r : RefineSt) (b : Nat) : List (Nat × IFlags) :=
  (List.range (tileExtent c.n b)).map (fun j =>
    let z := zOf r.exp (zTerms r b j)
    let x := fAdd f64 .rne (r.x.getD (128 * b + j) 0).toNat z.1
    (x.1, z.2 ||| x.2))

/-- An update item's results; after the last block the next iteration begins. -/
def updateDone (c : RefCmd) (b : Nat) (r : RefineSt) : RefineSt :=
  let u := updateBlock c r b
  let r := blockDone c b .residuals
    { r with x := putFrom r.x (128 * b) (u.map (fun v => BitVec.ofNat 64 v.1)), ieee := u.foldl (fun f v => f ||| v.2) r.ieee }
  if r.stage = .residuals then { r with k := r.k + 1 } else r

/-- REFINE_UPDATE (R222, R223, R565). -/
def execRefineUpdate (core : Fin 128) (_env : Env) (s : State) : Host.Outcome State Fault Refusal :=
  .next (match bankFind s.study.busy core.val with
    | some (.update id b) =>
      match refineOn s core.val (.update id b) with
      | some (o, c, _) =>
        modOp (itemDone s core.val) o.id (fun o => freshItems .updates { o with refine := o.refine.map (updateDone c b) })
      | none => s
    | _ => s)

end Sys2Proof.Machine
end

