-- ==== Sys2Proof/Machine/Context.lean ====
section
/-!
DEFINITION. Contexts and residency (chapter 10, R352 to R358): Yilium's own accesses through a context's table, eviction into the
save area and back, and the choice of what to evict.
-/

namespace Sys2Proof.Machine

open Sys2Proof

/-! ### Yilium's accesses through a context's table -/

/-- Where the 64 KiB pieces of a range lie, if every one is mapped R (or W). -/
def piecesOf (s : State) (ctx : Nat) (write : Bool) : List (Nat × Nat) → Option (List (Target × Nat))
  | [] => some []
  | (va, n) :: t =>
    match xlTest s ctx va write, piecesOf s ctx write t with
    | .ok m, some r => some ((m.at va, n) :: r)
    | _, _ => none

/-- Where a range of a context lies. -/
def tablePieces (s : State) (ctx va n : Nat) (write : Bool) : Option (List (Target × Nat)) := piecesOf s ctx write (vaChunks va n)

/-- Write bytes into pieces. -/
def putPieces (env : Env) : List (Target × Nat) → List Byte → State → State
  | [], _, s => s
  | (.dev pa, n) :: t, bs, s => putPieces env t (bs.drop n) (writePa s env .dev pa (bs.take n))
  | (.host a, n) :: t, bs, s => putPieces env t (bs.drop n) (putHost s a (bs.take n))
  | (.remote _ _ _, n) :: t, bs, s => putPieces env t (bs.drop n) s

/-- Read pieces in order: the bytes, or the first poisoned granule, or the failed read of the host or of another node (R337, R420, R433;
log entry 36). -/
def getPieces (env : Env) (src : Finder) (who : Option Nat) : List (Target × Nat) → State → State × Acc × List Byte
  | [], s => (s, .ok, [])
  | (.dev pa, n) :: t, s =>
    match readPa s env src who pa n with
    | (s, some g, _) => (s, .poison (64 * g), [])
    | (s, none, bs) => let r := getPieces env src who t s; (r.1, r.2.1, bs ++ r.2.2)
  | (.host a, n) :: t, s =>
    if env.hostSt = .ok then let r := getPieces env src who t s; (r.1, r.2.1, hostBytes env a n ++ r.2.2)
    else (hostFail s env.hostSt none, .host env.hostSt, [])
  | (.remote node _ a, n) :: t, s =>
    match farEnd env node 0x01 a with
    | .ok => let r := getPieces env src who t s; (r.1, r.2.1, hostBytes env a n ++ r.2.2)
    | e => (s, e, [])

/-! ### Regions (R353, R357) -/

/-- Bytes of a context's save area (chapter 10, Objects). -/
def saveLen (c : Context) : Nat := 8 * (c.pregion * 0x10000 + 0x1000)
/-- The contexts that hold hardware slots. -/
def residents (s : State) : List (Nat × Context) := s.ctxs.filter (fun e => e.2.resident)
/-- Units of the Pantries that a context holds while resident: none once it is lost (R390). -/
def regionUnits (c : Context) : Nat := if c.lost then 0 else c.pregion
/-- A context has an open tree (R354, R357). -/
def treeOpenIn (s : State) (n : Nat) : Bool := s.trees.any (fun t => t.open_ && decide (t.ctx = n))
/-- Whether units lo to lo + len meet no region of another resident context. -/
def unitsFree (s : State) (n len lo : Nat) : Bool :=
  decide (lo + len ≤ 32) &&
  (residents s).all (fun e => decide (e.1 = n) || decide (regionUnits e.2 = 0) || decide (lo + len ≤ e.2.base) || decide (e.2.base + regionUnits e.2 ≤ lo))
/-- The place that Yilium takes: the one asked for, or the lowest free one. -/
def placeFor (s : State) (n len want : Nat) : Option Nat :=
  if unitsFree s n len want then some want else (List.range 33).find? (unitsFree s n len)

/-- The cells of a Pantry inside a region, counted from its start. -/
def regionCells (m : Memory) (lo len : Nat) : Memory :=
  ⟨(m.cells.filter (fun c => decide (lo ≤ c.1) && decide (c.1 < lo + len))).map (fun c => (c.1 - lo, c.2))⟩
/-- The slot descriptors of a region, counted from its start. -/
def regionDir (d : Bank SlotDesc) (lo len : Nat) : Bank SlotDesc :=
  (d.filter (fun e => decide (lo ≤ e.1) && decide (e.1 < lo + len))).map (fun e => (e.1 - lo, e.2))
/-- Put cells back at a region's start. -/
def putCells (m : Memory) (lo : Nat) (x : Memory) : Memory := x.cells.foldl (fun m c => m.put (lo + c.1) c.2) m
/-- Put slot descriptors back at a region's start. -/
def putDir (d : Bank SlotDesc) (lo : Nat) (x : Bank SlotDesc) : Bank SlotDesc := x.foldl (fun d e => bankPut d (lo + e.1) e.2) d
/-- What the Pantries hold in a context's region. -/
def regionCopy (s : State) (c : Context) : Bank (Memory × Bank SlotDesc) :=
  (List.range 8).map (fun p => (p, regionCells (pantry s p).sram (c.base * 0x10000) (c.pregion * 0x10000),
    regionDir (pantry s p).dir (c.base * 0x10000) (c.pregion * 0x10000)))
/-- Fill a context's region in every Pantry. -/
def regionFill (s : State) (c : Context) (x : Bank (Memory × Bank SlotDesc)) : State :=
  x.foldl (fun s e => modPantry s e.1 (fun p => { p with
    sram := putCells p.sram (c.base * 0x10000) e.2.1, dir := putDir p.dir (c.base * 0x10000) e.2.2 })) s
/-- Move a resident context's region (R357). -/
def moveRegion (s : State) (n lo : Nat) : State :=
  match ctxOf s n with
  | some c =>
    let x := regionCopy s c
    let s := modCtx (clearRegion s n) n (fun c => { c with base := lo })
    regionFill s { c with base := lo } x
  | none => s
/-- Yilium moves the regions without an open tree together, the lowest first (R357). -/
def compact (s : State) : State :=
  (List.range 33).foldl (fun s b =>
    match (residents s).find? (fun e => decide (e.2.base = b) && decide (0 < regionUnits e.2)) with
    | some e =>
      if treeOpenIn s e.1 then s
      else match (List.range b).find? (unitsFree s e.1 e.2.pregion) with
        | some lo => moveRegion s e.1 lo
        | none => s
    | none => s) s

/-! ### Eviction (R354, R356) -/

/-- A command halted on a stream fault. -/
def opHalted (s : State) (o : Op) : Bool := s.streams.any (fun e => decide (e.2.op = o.id) && decide (e.2.state = .halt))
/-- A resident context is evictable (R354). -/
def evictable (s : State) (n : Nat) (c : Context) : Bool :=
  c.resident && !c.pinned && !(s.queues.any (fun q => decide (q.2.ctx = n) && decide (q.2.cls = 0))) && decide (c.saveVa ≠ 0) &&
  (tablePieces s n c.saveVa (saveLen c) false).isSome && (tablePieces s n c.saveVa (saveLen c) true).isSome &&
  !(treeOpenIn s n) && s.ops.all (fun o => decide (o.ctx ≠ n) || opHalted s o)

/-- Evict a context (R356): its Pantry region and slot directories go to its save area, in a layout that the spec leaves to
Yilium (a free value), and its translations leave the DTC. -/
def evict (s : State) (env : Env) (n : Nat) : State :=
  match ctxOf s n with
  | none => s
  | some c =>
    let x := if c.lost then [] else regionCopy s c
    let k := s.freeIx
    let r := freshNat s
    let s := match tablePieces r.2 n c.saveVa (saveLen c) true with
      | some ps => testFences (putPieces env ps (toBytes (saveLen c) r.1) r.2)
      | none => r.2
    let s := if c.lost then s else clearRegion s n
    releaseSlot (modCtx s n (fun c => { c with saved := x, saveKey := some k })) n

/-- The evictable context that goes first (R355): the least recently doorbelled, the lower CTXID on a tie. -/
def evictFirst (s : State) (but : Nat) : Option Nat :=
  ((s.ctxs.filter (fun e => decide (e.1 ≠ but) && evictable s e.1 e.2)).foldl
    (fun (m : Option (Nat × Nat)) e => match m with
      | some (_, a) => if e.2.bellAge < a then some (e.1, e.2.bellAge) else m
      | none => some (e.1, e.2.bellAge)) none).map (·.1)

/-- Make room for a context: evictions until a slot and Pantry space are free, in one piece (R353, R355); the state and the base. -/
def makeRoom (env : Env) (n len want : Nat) : Nat → State → Option (State × Nat)
  | 0, _ => none
  | k + 1, s =>
    let next : Option (State × Nat) := match evictFirst s n with
      | some v => makeRoom env n len want k (evict s env v)
      | none => none
    if (residents s).length < 48 ∧ ((residents s).map (fun e => regionUnits e.2)).sum + len ≤ 32 then
      match placeFor s n len want with
      | some b => some (s, b)
      | none =>
        match placeFor (compact s) n len want with
        | some b => some (compact s, b)
        | none => next
    else next

/-! ### Making resident (R355, R356) -/

/-- Contents of free value, where something else has written the save area (R356). -/
def freeCopy (s : State) (c : Context) : State × Bank (Memory × Bank SlotDesc) :=
  (List.range 8).foldl (fun (r : State × Bank (Memory × Bank SlotDesc)) p =>
    let a := freshNat r.1
    let b := freshNat a.2
    (b.2, r.2 ++ [(p, Memory.write ⟨[]⟩ 0 (toBytes (c.pregion * 0x10000) a.1),
      ((bankGet c.saved (⟨[]⟩, []) p).2).map (fun e => (e.1, freeDesc (b.1 / 2 ^ (74 * (e.1 / 2048))))))])) (s, [])

/-- Bring back what eviction saved, or clear the region of a context that is resident for the first time; an uncorrectable
error in the save area loses the context (R389, cause 3), at another node with that node plus 1 in ARG2 (R421); a host page of
it that cannot be read, or another node that does not answer (R433), does not (R337, R389) and leaves free values (log entry
36). -/
def restore (s : State) (env : Env) (n : Nat) (c : Context) : State :=
  if c.lost then s
  else match c.saveKey with
  | none => clearRegion s n
  | some k =>
    let s := clearRegion s n
    match tablePieces s n c.saveVa (saveLen c) false with
    | none => let r := freeCopy s c; regionFill r.1 c r.2
    | some ps =>
      match getPieces env .dev (some n) ps s with
      | (s, .poison pa, _) => loseCtx s n 3 pa
      | (s, .fault _ _, _) => let r := freeCopy s c; regionFill r.1 c r.2
      | (s, .host _, _) => let r := freeCopy s c; regionFill r.1 c r.2
      | (s, .farPoison node pa, _) => loseCtx3 s n 3 pa (node + 1)
      | (s, .farTimeout node mt, _) => let r := freeCopy (farTimedOut s node mt) c; regionFill r.1 c r.2
      | (s, .ok, bs) =>
        if bs = toBytes (saveLen c) (Config.freeNat k) then regionFill s c c.saved
        else let r := freeCopy s c; regionFill r.1 c r.2

/-- Make a context resident (R355): the state, or none where room cannot be made. -/
def makeResident (s : State) (env : Env) (n want : Nat) : Option State :=
  match ctxOf s n with
  | none => none
  | some c =>
    if c.resident then some (modCtx s n (fun c => { c with wantRes := false }))
    else match makeRoom env n (regionUnits c) want 49 s with
      | none => none
      | some (s, b) =>
        let s := modCtx s n (fun c => { c with resident := true, base := b, wantRes := false })
        match ctxOf s n with
        | some c => some (modCtx (restore s env n c) n (fun c => { c with saved := [], saveKey := none }))
        | none => some s

/-- CONTEXT_MAKE_RESIDENT (R355): for a kept doorbell, when a slot and Pantry space are free or can be made free. -/
def execContextMakeResident (ctx : Fin 4096) (base : Fin 32) (env : Env) (s : State) : Host.Outcome State Fault Refusal :=
  .next (match ctxOf s ctx.val with
    | some c =>
      if powered s && isReady s && c.wantRes && !c.lost then
        match makeResident s env ctx.val base.val with
        | some t => t
        | none => s
      else s
    | none => s)

end Sys2Proof.Machine
end

