-- ==== Sys2Proof/Machine/Queue.lean ====
section
/-!
DEFINITION. Queues (chapter 10): decoding and validation of ring entries (R360 to R367, R442, R563), the start of commands
(R364), completion records, SIGNAL updates and vectors (R371 to R373), and fence waits (R374 to R376).
-/

namespace Sys2Proof.Machine

open Sys2Proof

/-! ### Fields of a ring entry (Tables 10.2 to 10.4) -/

/-- Bits of a field inside a byte or word. -/
def bitsAt (v lo n : Nat) : Nat := v / 2 ^ lo % 2 ^ n

/-- The command header. -/
def parseHdr (b : List Byte) : CmdHdr :=
  let f := field b 2 2
  { opcode := field b 0 1, level := field b 1 1, barrier := f.testBit 0, signal := f.testBit 1, irq := f.testBit 2,
    sigAdd := f.testBit 3, cookie := BitVec.ofNat 64 (field b 8 8), fenceVa := field b 16 8 }

/-- The WINDOW body. -/
def parseWindow (b : List Byte) : WinCmd :=
  { imgList := field b 24 8, inAddr := field b 32 8, ctAddr := field b 40 8, outAddr := field b 48 8, metAddr := field b 56 8,
    rsvAddr := field b 64 8, osvAddr := field b 72 8, inStride := field b 80 4, sx := BitVec.ofNat 32 (field b 84 4),
    kTotal := field b 88 2, kFirst := field b 90 2, kCount := field b 92 2, splitN := field b 94 2, splitRank := field b 96 2,
    otrow := field b 98 2, otcol := field b 100 2, slot := field b 102 1, zpx := BitVec.ofNat 8 (field b 103 1),
    window := bitsAt (field b 104 1) 0 3, srows := bitsAt (field b 104 1) 3 3, unal := (field b 104 1).testBit 6,
    nrows := field b 105 1 + 1, infmt := bitsAt (field b 106 1) 0 4, afmt := bitsAt (field b 106 1) 4 4,
    ofmt := bitsAt (field b 107 1) 0 4, rsrc := bitsAt (field b 107 1) 4 2, zpmode := bitsAt (field b 107 1) 6 2,
    act := bitsAt (field b 108 1) 0 3, omode := (field b 108 1).testBit 3, pinit := (field b 108 1).testBit 4,
    epi := (field b 108 1).testBit 5, qfmt := bitsAt (field b 108 1) 6 2 }

/-- The REFINE body. -/
def parseRefine (b : List Byte) : RefCmd :=
  { aAddr := field b 24 8, rowPtr := field b 32 8, lda := field b 32 4, colIdx := field b 40 8, bAddr := field b 48 8,
    x0Addr := field b 56 8, yOut := field b 64 8, mapAddr := field b 72 8, repAddr := field b 80 8, mtAddr := field b 88 8,
    beta := BitVec.ofNat 64 (field b 96 8), n := field b 104 2, tolExp := signed 16 (field b 106 2), itMax := field b 108 2,
    mTiles := field b 110 2, csr := decide (bitsAt (field b 112 1) 0 2 = 1), wmask := BitVec.ofNat 8 (field b 113 1) }

/-- Rounding directions of RMODE (R202). -/
def rmodeOf (n : Nat) : RMode := if n = 0 then .rne else if n = 1 then .rtz else if n = 2 then .rup else .rdn

/-- The body of an opcode; a reserved opcode has none and stands as NOP. -/
def parseCmd (b : List Byte) : Cmd :=
  let f := (afmtOf (bitsAt (field b 42 1) 3 4)).getD .i16
  match field b 0 1 with
  | 0x01 => .window (parseWindow b)
  | 0x02 => .imageLoad (field b 24 8) (bitsAt (field b 32 1) 0 3) ((field b 32 1).testBit 3)
  | 0x03 => .slotRead (field b 24 8) (field b 32 8) (bitsAt (field b 40 1) 0 3) (field b 41 1) (bitsAt (field b 42 1) 0 3) f
  | 0x04 => .slotWrite (field b 24 8) (field b 32 8) (bitsAt (field b 40 1) 0 3) (field b 41 1) (bitsAt (field b 42 1) 0 3) f
  | 0x05 => .study (BitVec.ofNat 32 (field b 24 4)) (field b 28 4) (field b 32 8) (field b 40 2) (rmodeOf (bitsAt (field b 42 1) 0 2))
  | 0x06 => .refine (parseRefine b)
  | 0x07 => .copy (field b 24 8) (field b 32 8) (field b 40 4) (field b 44 4) (field b 48 4) (field b 52 4)
  | 0x08 => .fill (field b 32 8) (field b 40 4) (field b 44 4) (field b 52 4)
  | 0x09 => .fenceWait (field b 24 8) (BitVec.ofNat 64 (field b 32 8)) (field b 40 4)
  | _ => .nop

/-- The bits of byte i of an entry that belong to a field (Tables 10.2 to 10.4); AFORM decides bytes [39:32] of REFINE. -/
def usedBits (op aform i : Nat) : Nat :=
  if i < 2 then 255 else if i = 2 then 15 else if i < 8 then 0 else if i < 24 then 255
  else
    match op with
    | 0x01 => if i < 104 then 255 else if i = 104 then 127 else if i < 109 then 255 else 0
    | 0x02 => if i < 32 then 255 else if i = 32 then 15 else 0
    | 0x03 => if i < 40 then 255 else if i = 40 then 7 else if i = 41 then 255 else if i = 42 then 127 else 0
    | 0x04 => if i < 40 then 255 else if i = 40 then 7 else if i = 41 then 255 else if i = 42 then 127 else 0
    | 0x05 => if i < 42 then 255 else if i = 42 then 3 else 0
    | 0x06 => if i < 36 then 255 else if i < 40 then (if aform = 0 then 0 else 255) else if i < 112 then 255 else if i = 112 then 3
        else if i = 113 then 255 else 0
    | 0x07 => if i < 56 then 255 else 0
    | 0x08 => if i < 56 then 255 else 0
    | 0x09 => if i < 44 then 255 else 0
    | _ => 0

/-- Bytes with a reserved bit set (R367). -/
def reservedBad (b : List Byte) : List Nat :=
  (List.range 128).filter (fun i =>
    let v := field b i 1
    decide (v &&& usedBits (field b 0 1) (bitsAt (field b 112 1) 0 2) i ≠ v))

/-! ### Validation (R367): the offsets of the invalid fields -/

/-- An offset that is invalid under a condition. -/
def badIf (c : Bool) (off : Nat) : List Nat := if c then [off] else []

/-- Whether the slots that a command names pass its region or index 255 (R119): `extra` partial slots follow. -/
def spanBad (s : State) (ctx slot srows extra : Nat) (f : AFmt) : Bool :=
  decide (255 < slot + extra) ||
  decide (((ctxOf s ctx).map (fun c => c.pregion * 0x10000)).getD 0 < (slot + 1 + extra) * footprint (srowsOf srows) f)

/-- Whether a range of passes is the leaf set of one canonical node of a tree over K passes (R563). -/
def alignedRange (kFirst kCount kTotal : Nat) : Bool :=
  let n := 2 ^ clog2 kCount
  decide (kFirst % n = 0) && (decide (kCount = n) || decide (kFirst + kCount = kTotal))

/-- The group entry of a split participant does not fit (R442). -/
def groupBad (s : State) (q : Nat) (c : WinCmd) : Bool :=
  match (queueOf s q).bind (·.group) with
  | none => true
  | some g =>
    match bankFind s.link.groups g with
    | none => true
    | some g => decide (g.ranks.length ≠ c.splitN + 1) || decide (g.ranks[c.splitRank]? ≠ some (s.nodeId.toNat, c.window))

/-- IMAGEID and address of the entries of an image list. -/
def imgEntries (bs : List Byte) (k : Nat) : List (Long × Nat) :=
  (List.range k).map (fun i => (BitVec.ofNat 64 (field (bs.drop (16 * i)) 0 8), field (bs.drop (16 * i)) 8 8))

/-- The image list as it stands in device memory, if it can be looked at. -/
def peekList (s : State) (ctx va k : Nat) : List (Long × Nat) :=
  match tablePieces s ctx va (16 * k) false with
  | none => []
  | some ps =>
    if ps.all (fun p => match p.1 with | .dev _ => true | _ => false) then
      imgEntries (ps.flatMap (fun p => match p.1 with | .dev pa => s.mem.data.read pa p.2 | _ => [])) k
    else []

/-- Invalid fields of a WINDOW command. -/
def windowBad (s : State) (q ctx : Nat) (c : WinCmd) : List Nat :=
  let bf := decide (c.infmt = 3)
  badIf (decide (c.kTotal = 0) || decide (32768 < c.kTotal)) 88 ++
  badIf (decide (c.kCount = 0) || decide (32768 < c.kCount)) 92 ++
  badIf (decide (c.kTotal < c.kFirst + c.kCount)) 90 ++
  badIf (decide (c.splitN < c.splitRank)) 96 ++
  (if c.splitN = 0 then badIf (decide (c.kFirst ≠ 0)) 90 ++ badIf (decide (c.kCount ≠ c.kTotal)) 92 ++ badIf c.unal 104
   else badIf (!c.unal && !(alignedRange c.kFirst c.kCount c.kTotal)) 90 ++ badIf (groupBad s q c) 94) ++
  badIf (decide (5 < c.srows)) 104 ++ badIf (decide (c.srows ≤ 5) && decide (srowsOf c.srows < c.nrows)) 105 ++
  badIf (decide (3 < c.infmt) || (afmtOf c.afmt).isNone) 106 ++
  badIf (decide (3 < c.ofmt) || decide (c.rsrc = 3) || decide (c.zpmode = 3) || decide (bf ≠ decide (c.rsrc = 1)) ||
    (decide (c.zpmode = 1) && (decide (c.infmt = 2) || (bf && decide (c.qfmt = 3))))) 107 ++
  badIf (decide (4 < c.act) || decide (bf ≠ decide (c.qfmt ≠ 0)) || (c.omode && decide (c.ofmt = 3))) 108 ++
  (match afmtOf c.afmt with
   | some f => badIf (decide (c.srows ≤ 5) && spanBad s ctx c.slot c.srows (if f = .a24 then clog2 c.kCount else 0) f) 102
   | none => []) ++
  badIf ((peekList s ctx c.imgList c.kCount).any (fun e => decide (e.2 % 256 ≠ 0))) 24

/-- Invalid fields of a slot transfer. -/
def slotBad (s : State) (ctx slot srows afmt : Nat) : List Nat :=
  match afmtOf afmt with
  | none => [42]
  | some f => if 5 < srows then [42] else badIf (spanBad s ctx slot srows 0 f) 41

/-- A finite F64 value above 0. -/
def posF64 (v : Long) : Bool :=
  match unpack f64 v.toNat with
  | .fin neg m _ => !neg && decide (m ≠ 0)
  | _ => false

/-- Invalid fields of a REFINE command (Table 6.3). -/
def refineBad (b : List Byte) (c : RefCmd) : List Nat :=
  let aform := bitsAt (field b 112 1) 0 2
  badIf (decide (c.n = 0) || decide (8192 < c.n)) 104 ++ badIf (decide (1 < aform)) 112 ++
  badIf (decide (aform = 0) && decide (c.lda < c.n)) 32 ++ badIf (decide (c.tolExp < -1022) || decide (1023 < c.tolExp)) 106 ++
  badIf (!(posF64 c.beta)) 96 ++ badIf (decide (1023 < c.itMax)) 108 ++ badIf (decide (c.mTiles = 0) || decide (4096 < c.mTiles)) 110

/-- Invalid fields of a COPY or FILL (R238). -/
def copyBad (fill : Bool) (rowLen nRows sStride dStride : Nat) : List Nat :=
  badIf (decide (rowLen = 0) || decide (2 ^ 24 < rowLen)) 40 ++ badIf (decide (nRows = 0) || decide (2 ^ 24 < nRows)) 44 ++
  badIf (!fill && decide (sStride < rowLen)) 48 ++ badIf (decide (dStride < rowLen)) 52

/-- WAITVA maps an SHO page of the Larder or the Cellar. -/
def waitPage (s : State) (ctx va : Nat) : Bool :=
  match tableFind s ctx va with
  | some m => m.sho && (match m.at va with | .dev pa => paValid s pa | _ => false)
  | none => false

/-- Invalid fields of a command's body. -/
def bodyBad (s : State) (q ctx : Nat) (b : List Byte) : List Nat :=
  match parseCmd b with
  | .window c => windowBad s q ctx c
  | .imageLoad a _ _ => badIf (decide (a % 256 ≠ 0)) 24
  | .slotRead _ _ _ slot srows _ => slotBad s ctx slot srows (bitsAt (field b 42 1) 3 4)
  | .slotWrite _ _ _ slot srows _ => slotBad s ctx slot srows (bitsAt (field b 42 1) 3 4)
  | .study k n _ len _ =>
    badIf (((ctxOf s ctx).bind (fun c => bankFind c.kernels k.toNat)).isNone) 24 ++
    badIf (decide (n = 0) || decide (2 ^ 24 < n)) 28 ++ badIf (decide (4096 < len)) 40
  | .refine c => refineBad b c
  | .copy _ _ rl nr ss ds => copyBad false rl nr ss ds
  | .fill _ rl nr ds => copyBad true rl nr 0 ds
  | .fenceWait va _ _ => badIf (decide (va % 8 ≠ 0) || !(waitPage s ctx va)) 24
  | .nop => []

/-- FENCEVA of a command with SIGNAL. -/
def fenceBad (s : State) (ctx : Nat) (h : CmdHdr) : List Nat :=
  badIf (h.signal && (decide (h.fenceVa = 0) || decide (h.fenceVa % 8 ≠ 0) ||
    (match xlTest s ctx h.fenceVa true with | .ok _ => false | .fault _ => true))) 16

/-- The decode check (R12, R367, R351): the status of a refused command and its DETAIL, the lowest invalid offset. -/
def decodeCheck (s : State) (q ctx : Nat) (b : List Byte) : Option (Status × Nat) :=
  let h := parseHdr b
  if s.ifLevel.toNat < h.level then some (.levelUnsupported, 0)
  else if h.opcode = 0 ∨ 10 < h.opcode then some (.invalid, 0)
  else if h.level = 0 then some (.invalid, 1)
  else ((reservedBad b ++ fenceBad s ctx h ++ bodyBad s q ctx b).min?).map (fun d => (.invalid, d))

/-! ### Starting commands (R364, R369, R370, R374) -/

/-- A STUDY command's start (R370): its kernel, a core in service (R215), and one read of its arguments. -/
def studyStart (s : State) (env : Env) (o : Op) (k : Word) (arg len : Nat) : State :=
  match (ctxOf s o.ctx).bind (fun c => bankFind c.kernels k.toNat) with
  | none => modOp s o.id (fun o => { o with done := some .invalid, detail := 24 })
  | some code =>
    if s.study.coreOk = 0 then modOp s o.id (fun o => { o with done := some .noStudy })
    else
      let r := readOp s env o arg len
      afterAccess s r.1 o startSlot r.2.1 (fun s => modOp s o.id (fun o => { o with args := r.2.2, kernel := code }))

/-- A WINDOW command's start: its image list. -/
def windowStart (s : State) (env : Env) (o : Op) (c : WinCmd) : State :=
  let r := readOp s env o c.imgList (16 * c.kCount)
  let es := imgEntries r.2.2 c.kCount
  afterAccess s r.1 o startSlot r.2.1 (fun s => modOp s o.id (fun o =>
    if es.any (fun e => decide (e.2 % 256 ≠ 0)) then { o with done := some .invalid, detail := 24 } else { o with imgs := es }))

/-- The reads of a started command that are still to be made. -/
def needsBegin (o : Op) : Bool :=
  o.started && o.done.isNone &&
  (match o.cmd with
   | .window _ => o.imgs.isEmpty
   | .study _ _ _ _ _ => o.kernel.isEmpty
   | .refine _ => o.refine.isNone
   | _ => false)

/-- A fence wait starts: it arms and is tested (R374). In a queue that is being destroyed with FORCE it is timed out at once (R387). -/
def armWait (s : State) (o : Op) : State :=
  if (queueOf s o.q).any (fun q => q.dying) then
    let s := audPass (modOp s o.id (endWait .fenceTimeout)) 4 1
    modQueue s o.q (fun q => if q.state = .active then { q with state := .stopped } else q)
  else testFences (audTake (modOp s o.id (fun o => { o with armed := true })) 4 1)

/-- The work of a command begins. -/
def beginOp (s : State) (env : Env) (o : Op) : State :=
  match o.cmd with
  | .window c => windowStart s env o c
  | .imageLoad addr w b => addStream s { mkStream o .image with
      src := addr, rowLen := imageBytes, sStride := imageBytes, dStride := imageBytes, win := w, half := b }
  | .slotRead _ _ w _ _ _ => addStream s { mkStream o .slot with toUnit := false, win := w }
  | .slotWrite tile met w _ srows f =>
    let fp := footprint (srowsOf srows) f
    addStream s { mkStream o .slot with win := w, segs := [(tile, List.replicate fp 0), (met, List.replicate 16 0)] }
  | .study k _ arg len _ => studyStart s env o k arg len
  | .refine c => if s.study.coreOk = 0 then modOp s o.id (fun o => { o with done := some .noStudy }) else refineStart s env o c
  | .copy src dst rl nr ss ds => addStream s { mkStream o .copy with
      src := src, dst := dst, rowLen := rl, nRows := nr, sStride := ss, dStride := ds }
  | .fill dst rl nr ds => addStream s { mkStream o .fill with toUnit := false, dst := dst, rowLen := rl, nRows := nr, dStride := ds }
  | .fenceWait _ _ _ => armWait s o
  | .nop => modOp s o.id (fun o => { o with done := some .ok })

/-- A queue that a fence timeout has stopped starts none of its decoded commands until it is resumed, unless it is being
destroyed (R366, R387; log entry 21). -/
def startsHeld (s : State) (q : Nat) : Bool := (queueOf s q).any (fun x => decide (x.state = .stopped) && !x.dying)

/-- Whether a command may start (R364): its queue is not stopped, no barrier of its own holds it, every earlier fence wait has
ended, and an image load that is not prefetched has no earlier command left (R241). -/
def mayStart (s : State) (o : Op) : Bool :=
  let es := before s o
  !(startsHeld s o.q) &&
  (!o.hdr.barrier || es.isEmpty) &&
  es.all (fun u => match u.cmd with | .fenceWait _ _ _ => u.done.isSome | _ => true) &&
  (match o.cmd with | .imageLoad _ _ _ => es.isEmpty || o.done.isSome | _ => true)

/-- The oldest command of a queue that has not started; one that its decode refused never starts (R367). -/
def nextStart (s : State) (q : Nat) : Option Op :=
  (s.ops.filter (fun o => decide (o.q = q) && !o.started && o.done.isNone)).foldl
    (fun m o => match m with | some x => if idxBefore o.idx x.idx then some o else some x | none => some o) none

/-- Start one command. -/
def startOp (s : State) (env : Env) (o : Op) : State :=
  beginOp (modOp s o.id (fun o => { o with started := true })) env { o with started := true }

/-- Start the commands of a queue in index order, as far as they may. -/
def startGo (q : Nat) (env : Env) : Nat → State → State
  | 0, s => s
  | n + 1, s =>
    match nextStart s q with
    | some o => if mayStart s o then startGo q env n (startOp s env o) else s
    | none => s

/-- Try again the start reads that found no Dumbwaiter or whose fault has been cleared. -/
def retryBegin (q : Nat) (env : Env) (s : State) : State :=
  (s.ops.filter (fun o => decide (o.q = q) && needsBegin o && !(studyHalted s o.id startSlot))).foldl (fun s o => beginOp s env o) s

/-- Start what may start in a queue. -/
def runQueue (q : Nat) (env : Env) (s : State) : State := startGo q env 16 (retryBegin q env s)

/-! ### Decoding (R281, R287, R360 to R363) -/

/-- Pending commands of a queue (R360). -/
def pendingN (q : Queue) : Nat :=
  let p := (q.tail + 65536 - q.head) % 65536
  if p ≤ q.ringN then p else 0
/-- Commands of a queue in flight. -/
def inFlight (s : State) (q : Nat) : Nat := (s.ops.filter (fun o => decide (o.q = q))).length
/-- A fence wait of the queue has not ended: only a C0 queue decodes what stands behind it (R547, worked example 10.1; log
entry 21). -/
def waitAhead (s : State) (n : Nat) (q : Queue) : Bool :=
  decide (q.cls ≠ 0) && s.ops.any (fun o => decide (o.q = n) && o.done.isNone && (match o.cmd with | .fenceWait _ _ _ => true | _ => false))
/-- A queue with a command to decode, tokens apart (R363, R366, Table 10.1). -/
def queueReady (s : State) (n : Nat) (q : Queue) : Bool :=
  decide (q.state = .active) && !(waitAhead s n q) && !q.dying && decide (pendingN q ≠ 0) && decide (inFlight s n < 16) &&
  (match ctxOf s q.ctx with | some c => c.resident && !c.lost | none => false)
/-- A class can take an operation token (R287, R363). -/
def tokenFree (s : State) (cls : Nat) : Bool :=
  decide (s.ops.length < 128) && (decide (cls = 0) || decide (s.corr.opRes.toNat + 1 ≤ 128 - s.ops.length))
/-- A queue that requests a decode at its sequencer. -/
def decodable (s : State) (n : Nat) (q : Queue) : Bool := queueReady s n q && tokenFree s q.cls
/-- The classes that wait at a sequencer. -/
def seqWaits (s : State) (sq cls : Nat) : Bool :=
  s.queues.any (fun e => decide (e.1 % 8 = sq) && decide (e.2.cls = cls) && decodable s e.1 e.2)
/-- The queue next in rotation for a class at a sequencer (R280, R281). -/
def seqPointer (s : State) (sq cls : Nat) : Nat := bankGet s.corr.seqPtr 0 (4 * sq + cls)
/-- The queue that the sequencer picks for a class: its first requester at or after the pointer, with wrap-around. -/
def seqPick (s : State) (sq cls : Nat) : Option Nat :=
  let p := seqPointer s sq cls
  ((List.range 32).map (fun k => ((if p % 8 = sq then p else sq) + 8 * k) % 256)).find? (fun n => match queueOf s n with
    | some q => decide (q.cls = cls) && decodable s n q
    | none => false)

/-- A command in flight, just decoded. -/
def mkOp (n : Nat) (q : Queue) (h : CmdHdr) (c : Cmd) (done : Option (Status × Nat)) : Op :=
  { q := n, idx := q.head, ctx := q.ctx, cls := q.cls, hdr := h, cmd := c, started := false, armed := false,
    done := done.map (·.1), detail := (done.map (·.2)).getD 0, rflags := 0, imgs := [], passes := [],
    args := [], kernel := [], itemsOut := [], moved := [], itemsDone := 0, refine := none, gkey := 0 }

/-- The decode of a command: its token (R363), HEAD (R361), the sequencer's turn. -/
def decoded (s0 s : State) (n : Nat) (q : Queue) (o : Op) : State :=
  let sq := n % 8
  let s := { s with
    ops := s.ops ++ [o],
    corr := { s.corr with seqPtr := bankPut s.corr.seqPtr (4 * sq + q.cls) ((n + 8) % 256) } }
  let s := audTake (modQueue s n (fun q => { q with head := (q.head + 1) % 65536 })) 0 1
  arbCount s sq q.cls (seqWaits s0 sq) (seqWaits s sq)

/-- The header of an entry that cannot be read. -/
def noHdr : CmdHdr := ⟨0, 0, false, false, false, false, 0, 0⟩

/-- The row of a queue command decodes the entry at HEAD when it holds the row's opcode. An entry that cannot be read has no
opcode: the NOP row completes it (log entry 20). -/
def decodeEntry (s0 : State) (env : Env) (n : Nat) (q : Queue) (mine : Nat → Bool) : State :=
  match readVa s0 env q.ctx (q.ringVa + 128 * (q.head % q.ringN)) 128 with
  | (s, .ok, b) =>
    if mine (field b 0 1) then decoded s0 s n q (mkOp n q (parseHdr b) (parseCmd b) (decodeCheck s0 n q.ctx b)) else s0
  | (s, a, _) =>
    if !(mine 0) then s0
    else match a with
      | .poison pa => poisonRead s0 (decoded s0 s n q (mkOp n q noHdr .nop none)) q.ctx pa
      | .host st => decoded s0 s n q (mkOp n q noHdr .nop (some (if st = .poisoned then .hostPoison else .hostError, 0)))
      | .farPoison node pa => farPoisonRead (decoded s0 s n q (mkOp n q noHdr .nop none)) q.ctx node pa
      | .farTimeout node mt => decoded s0 (farTimedOut s node mt) n q (mkOp n q noHdr .nop (some (.aborted, 0)))
      | _ => decoded s0 s n q (mkOp n q noHdr .nop (some (.pageFault, 0)))

/-- OPWAIT: a lower-class command waits for a token (R287). -/
def opWait (s : State) (n : Nat) (q : Queue) : State :=
  if queueReady s n q && !(tokenFree s q.cls) && decide (q.cls ≠ 0) then { s with corr := { s.corr with flags := s.corr.flags ||| 2 } }
  else s

/-- A row of a queue command: one decode by the queue's sequencer if it is due, then the starts of the queue. -/
def queueRow (mine : Nat → Bool) (n : Nat) (env : Env) (s : State) : State :=
  match queueOf s n with
  | none => s
  | some q =>
    if !(powered s && isReady s) || s.power.trip then s
    else
      let s := opWait s n q
      let s := if decodable s n q && arbClass s (n % 8) q.cls (seqWaits s (n % 8)) && decide (seqPick s (n % 8) q.cls = some n)
        then decodeEntry s env n q mine else s
      runQueue n env s

/-- WINDOW (R367, R369). -/
def execWindow (q : Fin 256) (env : Env) (s : State) : Host.Outcome State Fault Refusal := .next (queueRow (fun c => c = 1) q.val env s)
/-- IMAGE_LOAD (R87, R241). -/
def execImageLoad (q : Fin 256) (env : Env) (s : State) : Host.Outcome State Fault Refusal := .next (queueRow (fun c => c = 2) q.val env s)
/-- SLOT_READ (R141). -/
def execSlotRead (q : Fin 256) (env : Env) (s : State) : Host.Outcome State Fault Refusal := .next (queueRow (fun c => c = 3) q.val env s)
/-- SLOT_WRITE (R142). -/
def execSlotWrite (q : Fin 256) (env : Env) (s : State) : Host.Outcome State Fault Refusal := .next (queueRow (fun c => c = 4) q.val env s)
/-- STUDY (R370). -/
def execStudy (q : Fin 256) (env : Env) (s : State) : Host.Outcome State Fault Refusal := .next (queueRow (fun c => c = 5) q.val env s)
/-- REFINE (R228). -/
def execRefine (q : Fin 256) (env : Env) (s : State) : Host.Outcome State Fault Refusal := .next (queueRow (fun c => c = 6) q.val env s)
/-- COPY (R237). -/
def execCopy (q : Fin 256) (env : Env) (s : State) : Host.Outcome State Fault Refusal := .next (queueRow (fun c => c = 7) q.val env s)
/-- FILL (R237). -/
def execFill (q : Fin 256) (env : Env) (s : State) : Host.Outcome State Fault Refusal := .next (queueRow (fun c => c = 8) q.val env s)
/-- FENCE_WAIT (R374). -/
def execFenceWait (q : Fin 256) (env : Env) (s : State) : Host.Outcome State Fault Refusal := .next (queueRow (fun c => c = 9) q.val env s)
/-- NOP (R367): also takes a reserved opcode, which completes INVALID. -/
def execNop (q : Fin 256) (env : Env) (s : State) : Host.Outcome State Fault Refusal :=
  .next (queueRow (fun c => decide (c = 0) || decide (10 ≤ c)) q.val env s)

/-! ### Completion (R371 to R373) -/

/-- Completion-record bytes (Table 10.5). -/
def recordBytes (ringN idx : Nat) (st : Status) (flags : Nat) (cookie : Long) (detail : Nat) : List Byte :=
  toBytes 2 idx ++ toBytes 2 st.ctorIdx ++ toBytes 2 flags ++ [if idx / max 1 ringN % 2 = 0 then 1 else 0, 0] ++
    toBytes 8 cookie.toNat ++ toBytes 4 detail ++ List.replicate 12 0

/-- Write a completion record in its slot; one that cannot be written is dropped (R371, R390). -/
def writeRecord (s : State) (env : Env) (q : Queue) (idx : Nat) (bs : List Byte) : State :=
  testFences (writeVa s env q.ctx (q.cqVa + 32 * (idx % max 1 q.ringN)) bs).1

/-- The new value of a fence word (R373). -/
def signalVal (h : CmdHdr) (old : Nat) : Nat := if h.sigAdd then (old + h.cookie.toNat) % 2 ^ 64 else max old h.cookie.toNat

/-- A SIGNAL update that waits for another node's answer. -/
def signalRemote (s : State) (o : Op) (n e off : Nat) : State :=
  if o.hdr.sigAdd then newReq s 0x03 o.cls 0 n (expAddr e off) 8 (toBytes 8 o.hdr.cookie.toNat) (.signal o.id o.hdr.irq) o.hdr.fenceVa o.ctx
  else newReq s 0x03 o.cls 2 n (expAddr e off) 16 (toBytes 8 o.hdr.cookie.toNat ++ toBytes 8 0) (.signal o.id o.hdr.irq) o.hdr.fenceVa o.ctx

/-- The SIGNAL update of a command (R373), and whether it has ended within the step. -/
def signalUpdate (s : State) (env : Env) (o : Op) : State × Bool :=
  match translate s o.ctx o.hdr.fenceVa true with
  | (s, .fault _) => (dropSignal s o.ctx, true)
  | (s, .ok m) =>
    match m.at o.hdr.fenceVa with
    | .dev pa =>
      if stackOut s pa then (dropSignal (elog s pa (ownerCtx s pa) .dev) o.ctx, true)
      else
        match readPa (countReqs s 1) env .dev (some o.ctx) pa 8 with
        | (s', some g, _) => (poisonRead s s' o.ctx (64 * g), true)
        | (s', none, b) => (putLong s' env .dev pa (signalVal o.hdr (fromBytes b)), true)
    | .host a =>
      let s := countReqs s 2
      if env.hostSt = .ok then (emit s (.hostWrite a (toBytes 8 (signalVal o.hdr (fromBytes (hostBytes env a 8))))), true)
      else (dropSignal (hostFail s env.hostSt none) o.ctx, true)
    | .remote n e off => (signalRemote s o n e off, false)

/-- Whether a status performs the SIGNAL update (R373). -/
def Status.signals : Status → Bool
  | .aborted => false
  | .ctxLost => false
  | _ => true

/-- A SIGNAL on another node's memory waits while no response buffer is free for its answer (R276, R414). -/
def signalWaits (s : State) (o : Op) (st : Status) : Bool :=
  o.hdr.signal && st.signals && !(crspFree s) &&
  (match xlTest s o.ctx o.hdr.fenceVa true with
   | .ok m => (match m.at o.hdr.fenceVa with | .remote _ _ _ => true | _ => false)
   | .fault _ => false)

/-- The record, the SIGNAL update and the vector, in that order (R372). -/
def finishOp (s : State) (env : Env) (q : Queue) (o : Op) (st : Status) : State :=
  let s := writeRecord s env q o.idx (recordBytes q.ringN o.idx st o.rflags.toNat o.hdr.cookie o.detail)
  let r := if o.hdr.signal && st.signals then signalUpdate s env o else (s, true)
  if o.hdr.irq && r.2 then raiseQueueVec r.1 o.q else r.1

/-- A command leaves flight: its token comes back (R363). -/
def leaveFlight (s : State) (id : OpId) : State := audGive { s with ops := s.ops.filter (fun o => o.id ≠ id) } 0 1

/-- A Refine that ran counts in REFCNT (Table 6.7). -/
def countRefine (s : State) (o : Op) (st : Status) : State :=
  match o.cmd with
  | .refine _ => if o.started && decide (st ≠ .invalid) then { s with study := { s.study with refCnt := s.study.refCnt + 1 } } else s
  | _ => s

/-- COMMAND_COMPLETE (R363, R367, R371, R372). -/
def execCommandComplete (q : Fin 256) (idx : Fin 65536) (env : Env) (s : State) : Host.Outcome State Fault Refusal :=
  .next (match findOp s (q.val, idx.val), queueOf s q.val with
    | some o, some x =>
      match o.done with
      | some st =>
        if powered s && !(signalWaits s o st) then
          let s := leaveFlight (finishOp (countRefine s o st) env x o st) o.id
          if s.power.trip then s else runQueue q.val env s
        else s
      | none => s
    | _, _ => s)

/-! ### Fence timeouts (R375, R376) -/

/-- FENCE_TIMEOUT (R375, R376): the wait ends FENCE_TIMEOUT, the queue stops, a losing update counts in LATECNT. -/
def execFenceTimeout (q : Fin 256) (idx : Fin 65536) (lateUpdate : Bool) (s : State) : Host.Outcome State Fault Refusal :=
  .next (match findOp s (q.val, idx.val) with
    | some o =>
      match o.cmd with
      | .fenceWait _ _ t =>
        if powered s && o.armed && decide (t ≠ 0) then
          let s := audGive (modOp s o.id (endWait .fenceTimeout)) 4 1
          let s := modQueue s q.val (fun x => if x.state = .active then { x with state := .stopped } else x)
          if lateUpdate then modCtx s o.ctx (fun c => { c with lateCnt := c.lateCnt + 1 }) else s
        else s
      | _ => s
    | none => s)

end Sys2Proof.Machine
end

