-- ==== Sys2Proof/Machine/Regs.lean ====
section
/-!
DEFINITION. The BAR0 registers (chapter 14): what every register reads as, capture pairs (R533 to R538, R546), and software
writes by access class (Table 9.5, R309, R344, R542).
-/

namespace Sys2Proof.Machine

open Sys2Proof

/-! ### Reading -/

/-- A bit as a number. -/
def bit (b : Bool) : Nat := if b then 1 else 0

/-- A register word from (value, lowest bit) fields. -/
def pack (fs : List (Nat × Nat)) : Word := BitVec.ofNat 32 ((fs.map (fun f => f.1 * 2 ^ f.2)).sum)

/-- STATE codes of WSTAT (Table 3.8). -/
def WState.code : WState → Nat
  | .off => 0 | .idle => 1 | .run => 2 | .quar => 3 | .qual => 4 | .retired => 5
/-- Pane state codes (Table 3.4). -/
def PaneState.code : PaneState → Nat
  | .empty => 0 | .staging => 1 | .settling => 2 | .armed => 3 | .active => 4
/-- Door state codes (Table 11.10). -/
def DoorState.code : DoorState → Nat
  | .absent => 0 | .training => 1 | .trained => 2 | .open_ => 3 | .down => 4 | .disabled => 5
/-- TSTATE codes (Table 13.14). -/
def TState.code : TState → Nat
  | .boot => 0 | .normal => 1 | .recovery => 2 | .test => 3

/-- PILOTA of WSTAT (Table 3.8). -/
def pilotaOf (x : Window) : Nat :=
  match x.active with
  | none => 0
  | some b =>
    match (paneOf x b).image with
    | some i => if (paneOf x b).lastQ6 = some true then i.pilotQ6 else i.pilotQ4
    | none => 0

/-- WSTAT (Table 3.8). -/
def wstat (x : Window) : Word :=
  pack [(x.state.code, 0), (bit (decide (x.active = some true)), 3), (x.paneA.state.code, 4), (x.paneB.state.code, 8),
    (bit x.spare, 12), (bit x.redir, 13), (pilotaOf x, 16)]

/-- Registers of Window w (Table 3.7). -/
def readWindow (s : State) (w o : Nat) : Word :=
  let x := win s w
  match o with
  | 0x00 => wstat x
  | 0x04 => x.flags.setWidth 32
  | 0x08 => pack [(x.wdens.toNat, 0), (x.hist.toNat, 8)]
  | 0x0C => x.blimit
  | 0x10 => x.lastb
  | 0x14 => s.nvm.floorA.getD w 0
  | 0x18 => s.nvm.floorB.getD w 0
  | 0x1C => x.wseed
  | 0x20 => x.symcnt.setWidth 32
  | 0x24 => x.symLatch
  | 0x28 => x.witcnt
  | 0x2C => x.repcnt
  | 0x30 => x.satcnt
  | 0x34 => x.swapcnt
  | 0x38 => x.loadcnt
  | 0x3C => x.quarcnt
  | _ => 0

/-- LAMPSTAT (Table 3.11). -/
def lampstat (s : State) : Word := pack [(s.lamp.lok.toNat, 0), (s.lamp.spareTo % 8, 16), (bit s.lamp.spareUse, 19)]

/-- Open trees of a Pantry (PSTAT.OPEN). -/
def openTrees (s : State) (p : Nat) : Nat := (s.trees.filter (fun t => t.open_ && decide (t.pantry = p))).length

/-- Registers of Pantry p (Tables 4.10 to 4.12). -/
def readPantry (s : State) (p o : Nat) : Word :=
  let x := pantry s p
  match o with
  | 0x00 => pack [(openTrees s p, 0), (bit x.migr, 9), (bit x.out, 10)]
  | 0x04 => x.flags.setWidth 32
  | 0x08 => x.treeOpen
  | 0x0C => x.treeClose
  | 0x10 => x.commitCnt
  | 0x14 => x.rescCnt
  | 0x18 => x.srndCnt
  | _ => 0

/-- Registers of Study (Table 6.7). -/
def readStudy (s : State) (o : Nat) : Word :=
  let y := s.study
  let n := ((List.range 128).filter (fun c => y.coreOk.getLsbD c)).length
  let k := ((List.range 16).filter (fun c => decide ((y.coreOk >>> (8 * c)).setWidth 8 ≠ (0 : BitVec 8)))).length
  match o with
  | 0x00 => pack [(n, 0), (k, 8), (bit y.srdy, 16)]
  | 0x04 => y.flags.setWidth 32
  | 0x10 => y.coreOk.setWidth 32
  | 0x14 => (y.coreOk >>> 32).setWidth 32
  | 0x18 => (y.coreOk >>> 64).setWidth 32
  | 0x1C => (y.coreOk >>> 96).setWidth 32
  | 0x20 => y.itemCnt
  | 0x24 => y.itemRep
  | 0x28 => y.refCnt
  | 0x2C => y.refIter
  | 0x30 => y.corrCnt
  | _ => 0

/-- Registers of Dumbwaiter d (Table 7.9). -/
def readDumb (s : State) (d o : Nat) : Word :=
  let x := dumb s d
  match o with
  | 0x00 => pack [(x.st, 0), (x.kind, 2), (x.cls, 6), (x.ctxId, 8)]
  | 0x04 => x.flags.setWidth 32
  | 0x08 => x.desc.setWidth 32
  | 0x0C => x.descLatch
  | 0x10 => x.byteCnt.setWidth 32
  | 0x14 => x.byteLatch
  | 0x18 => x.mergeCnt
  | 0x1C => x.faultCnt
  | 0x20 => x.prefCnt
  | _ => 0

/-- SWPOS: the Cellar address that the Sweep reads next. -/
def swpos (s : State) : Long := BitVec.ofNat 64 (cellarBase + 64 * s.mem.swCel)
/-- SWON: the Sweep runs. -/
def swon (s : State) : Bool := s.mem.init && (sweepOn s false || sweepOn s true)

/-- Registers of the memory block (Table 7.10). -/
def readMem (s : State) (o : Nat) : Word :=
  let m := s.mem
  match o with
  | 0x00 => pack [(m.stkUp.toNat, 0), ((m.derate.getD 0 0).toNat, 4), ((m.derate.getD 1 0).toNat, 6), ((m.derate.getD 2 0).toNat, 8),
      ((m.derate.getD 3 0).toNat, 10), (bit (swon s), 12)]
  | 0x04 => m.flags.setWidth 32
  | 0x08 => BitVec.ofNat 32 m.deliv
  | 0x0C => BitVec.ofNat 32 (resvSum s (some 0))
  | 0x10 => BitVec.ofNat 32 (resvSum s (some 1))
  | 0x14 => BitVec.ofNat 32 (resvSum s (some 2))
  | 0x18 => BitVec.ofNat 32 (resvSum s (some 3))
  | 0x1C => BitVec.ofNat 32 m.c0cap
  | 0x40 => m.larCe
  | 0x44 => m.larUe
  | 0x48 => m.poisCnt
  | 0x4C => BitVec.ofNat 32 s.nvm.retRows.length
  | 0x50 => BitVec.ofNat 32 s.nvm.retPages.length
  | 0x54 => m.elogAddr.setWidth 32
  | 0x58 => m.elogLatch.setWidth 32
  | 0x5C => (m.elogLatch >>> 32).setWidth 32
  | 0x60 => m.swctrl
  | 0x64 => (swpos s).setWidth 32
  | 0x68 => m.swLatch
  | 0x6C => m.swPass
  | 0x800 => pack [(bit s.xlate.multiHit, 0)]
  | 0x804 => s.xlate.dtcMiss
  | 0x808 => s.xlate.walkCnt
  | 0x80C => s.xlate.mhCnt
  | _ =>
    if 0x20 ≤ o ∧ o < 0x30 then m.ceCnt.getD ((o - 0x20) / 4) 0
    else if 0x30 ≤ o ∧ o < 0x40 then m.ueCnt.getD ((o - 0x30) / 4) 0
    else 0

/-- SEQPTRs: the queue next in rotation of each class. -/
def readSeqPtr (s : State) (sq : Nat) : Word :=
  pack ((List.range 4).map (fun c => (seqPointer s sq c % 256, 8 * c)))

/-- The audit registers of a quantity: captured while FREEZE is 1 (R294). -/
def audNow (s : State) (q : Nat) : Aud × Word :=
  if s.corr.freeze then bankGet s.corr.captured (⟨0, 0, 0⟩, 0) q else (audOf s q, BitVec.ofNat 32 (capOf s q))

/-- Registers of the Corridor (Table 8.6). -/
def readCorr (s : State) (o : Nat) : Word :=
  let c := s.corr
  match o with
  | 0x00 => pack [(bit c.gActive, 0)]
  | 0x04 => c.flags.setWidth 32
  | 0x08 => c.cspeed.setWidth 32
  | 0x0C => c.carb
  | 0x10 => c.opRes.setWidth 32
  | 0x70 => pack [(bit c.freeze, 0)]
  | 0x74 => c.audFail.setWidth 32
  | 0x78 => c.audCap
  | _ =>
    if 0x20 ≤ o ∧ o < 0x40 then readSeqPtr s ((o - 0x20) / 4)
    else if 0x100 ≤ o ∧ o < 0x200 then
      let a := audNow s ((o - 0x100) / 16)
      match o % 16 with
      | 0 => a.1.take
      | 4 => a.1.give
      | 8 => a.1.level
      | _ => a.2
    else 0

/-- A generator's registers (Table 5.9). -/
def readGen (g : Gen) (r : Nat) : Word := match r with | 0 => g.ftw | 1 => g.phoff | 2 => g.amp.setWidth 32 | _ => g.phase

/-- A sensor value word (Table 5.11). -/
def sensorWord (x : Sensor) : Word :=
  pack [(x.temp.toNat, 0), (bit x.valid, 16), (bit x.hold, 17), (bit x.est, 18), (bit x.open_, 19), (bit x.range, 20)]

/-- An AUX output's words (Table 5.12). -/
def readAux (s : State) (a r : Nat) : Word :=
  let x := auxOf s.thermo a
  match r with
  | 0 => pack [(x.code.toNat, 0), (x.prof.toNat, 16), (bit x.den, 19)]
  | 1 => pack [(x.out.toNat, 0), (bit s.thermo.parkAll, 16), (bit x.compl, 17)]
  | 2 => pack [(x.pwrUp.toNat, 0), (x.park.toNat, 16)]
  | _ => 0

/-- A heater word (Table 5.8). -/
def readHeater (s : State) (h : Nat) : Word :=
  let x := heaterOf s.thermo h
  pack [(x.code.toNat, 0), (x.prof.toNat, 16), (bit x.den, 19), (bit x.sc, 20), (bit (x.sc || s.thermo.parkAll), 21), (x.dsel.toNat, 22),
    (x.lostUpd.toNat, 28)]

/-- Windows held (LKHOLD, R181). -/
def lkHold (s : State) : Nat := ((List.range 8).map (fun w => bit (held s w) * 2 ^ w)).sum

/-- Registers of the Thermostat, generators, sensors and AUX outputs (Tables 5.5 to 5.12). -/
def readThermo (s : State) (o : Nat) : Word :=
  let t := s.thermo
  match o with
  | 0x00 => pack [(t.conv.toNat, 0), (lkHold s, 8), (bit t.nvmOk, 16), (bit t.rampDone, 17), (bit t.parkAll, 18)]
  | 0x04 => t.flags.setWidth 32
  | 0x08 => t.tctrl
  | 0x0C => t.lkCyc
  | 0x10 => t.lkUpd
  | 0x14 => t.lkVoid
  | 0x18 => t.lostSum
  | 0x1C => t.scCnt
  | 0x60 => t.hsel.setWidth 32
  | 0x64 => (heaterOf t t.hsel.toNat).out.setWidth 32
  | 0x68 => (heaterOf t t.hsel.toNat).park ++ (heaterOf t t.hsel.toNat).pwrUp
  | 0x6C => t.radPwr.setWidth 32
  | 0x70 => t.sensCnt
  | 0x74 => t.openCnt
  | 0x900 => (sensorOf s 64).type.setWidth 32
  | 0x904 => sensorWord (sensorOf s 64)
  | 0x908 => (sensorOf s 64).res
  | 0x910 => (sensorOf s 65).type.setWidth 32
  | 0x914 => sensorWord (sensorOf s 65)
  | 0x918 => (sensorOf s 65).res
  | _ =>
    if 0x20 ≤ o ∧ o < 0x40 then let p := profOf t ((o - 0x20) / 4); pack [(p.step.toNat, 0), (p.slint.toNat, 16)]
    else if 0x40 ≤ o ∧ o < 0x60 then (bankGet t.lkResid 0 ((o - 0x40) / 4)).setWidth 32
    else if 0x400 ≤ o ∧ o < 0x800 then readGen (bankGet t.sg Gen.reset ((o - 0x400) / 16)) (o % 16 / 4)
    else if 0x800 ≤ o ∧ o < 0x900 then sensorWord (sensorOf s ((o - 0x800) / 4))
    else if 0xC00 ≤ o ∧ o < 0xC40 then readAux s ((o - 0xC00) / 16) (o % 16 / 4)
    else if 0xE00 ≤ o ∧ o < 0xE40 then readGen (bankGet t.ag Gen.reset ((o - 0xE00) / 16)) (o % 16 / 4)
    else 0

/-- The credit registers of a Door's VC: captured while FREEZE is 1 (R294, R416). -/
def doorCredits (s : State) (d v : Nat) : Aud :=
  if s.corr.freeze then (bankGet s.corr.captured (⟨0, 0, 0⟩, 0) (16 + 3 * d + v)).1
  else
    let x := doorOf s d
    ⟨bankGet x.dcGiven 0 v, bankGet x.dcBack 0 v, bankGet x.dcGiven 0 v - bankGet x.dcBack 0 v⟩

/-- Registers of Door d (Table 11.10). -/
def readDoor (s : State) (d o : Nat) : Word :=
  let x := doorOf s d
  match o with
  | 0x00 => pack [(x.state.code, 0), (bit x.cr4, 3), (bit x.onAlt, 4), (x.peer.toNat, 16)]
  | 0x04 => x.flags.setWidth 32
  | 0x08 => x.fecCorr
  | 0x0C => x.fecUnc
  | 0x10 => x.crcCnt
  | 0x14 => x.replayCnt
  | 0x18 => x.txFlit
  | 0x1C => x.rxFlit
  | 0x50 => x.lateRsp
  | 0x54 => x.toutCnt
  | 0x58 => x.retryTx
  | 0x5C => x.retryRx
  | _ =>
    if 0x20 ≤ o ∧ o < 0x50 then
      let v := (o - 0x20) / 16
      match o % 16 with
      | 0 => (doorCredits s d v).take
      | 4 => (doorCredits s d v).give
      | 8 => (doorCredits s d v).level
      | _ => if s.corr.freeze then (bankGet s.corr.captured (⟨0, 0, 0⟩, 0) (16 + 3 * d + v)).2
        else BitVec.ofNat 32 (bankGet x.txCred 0 (2 * v) + bankGet x.txCred 0 (2 * v + 1))
    else 0

/-- Registers of the link block (Table 11.11). -/
def readLink (s : State) (o : Nat) : Word :=
  let k := s.link
  match o with
  | 0x00 => s.nodeId.setWidth 32
  | 0x04 => k.flags.setWidth 32
  | 0x08 => k.rto.setWidth 32
  | 0x0C => k.trto.setWidth 32
  | 0x10 => (match k.topo with | some t => pack [(t.mode, 0), (t.dims, 2), (1, 4)] | none => 0)
  | 0x14 => k.ovrmhCnt
  | 0x18 => k.rpoisCnt
  | 0x1C => k.remRd
  | 0x20 => k.remWr
  | 0x24 => k.remAtom
  | 0x28 => BitVec.ofNat 32 k.atomq.length
  | _ => 0

/-- Registers of the power block (Table 12.11). -/
def readPower (s : State) (o : Nat) : Word :=
  let p := s.power
  match o with
  | 0x00 => BitVec.ofNat 32 (pwrStat p)
  | 0x04 => p.flags.setWidth 32
  | 0x08 => p.pavg.setWidth 32
  | 0x0C => p.plimit.setWidth 32
  | 0x10 => p.tpol.setWidth 32
  | 0x14 => p.rstCause.setWidth 32
  | 0x18 => p.railStat.setWidth 32
  | 0x1C => p.coolMax.setWidth 32
  | 0x20 => p.thRaise
  | 0x24 => p.bootMs.setWidth 32
  | _ => if 0x28 ≤ o ∧ o < 0x38 then (p.stkTemp.getD ((o - 0x28) / 4) 0).setWidth 32 else 0

/-- Revoked key slots as KEYREV. -/
def readThresh (s : State) (o : Nat) : Word :=
  let t := s.thresh
  match o with
  | 0x00 => pack [(t.tstate.code, 0), (bit s.nvm.bank, 3), (bit s.nvm.pend, 4), (bit s.fuses.jtagLock, 5), (s.fuses.svn, 6),
      (s.fuses.keyRev.toNat, 13)]
  | 0x04 => t.flags.setWidth 32
  | 0x08 => s.fuses.serial.setWidth 32
  | 0x0C => t.serialLatch
  | 0x10 => BitVec.ofNat 32 s.fuses.testCnt
  | 0x14 => BitVec.ofNat 32 (s.nvm.frecSum.pos / 3600)
  | 0x18 => BitVec.ofNat 32 s.nvm.frecSum.coldCnt
  | 0x1C => BitVec.ofNat 32 s.nvm.frec.length
  | 0x20 => s.nvm.frecOvf
  | 0x24 => t.jtagCnt
  | 0x28 => pack [(bit t.rcvGo, 0), (t.rcvLost.toNat, 28)]
  | 0x2C => t.rcvData
  | 0x30 => t.rcvLen
  | _ => 0

/-- Registers of the host interface (Tables 9.7 to 9.9). -/
def readHost (s : State) (o : Nat) : Word :=
  let h := s.host
  match o with
  | 0x00 => pack [(h.lspeed.toNat, 0), (h.lwidth.toNat, 3), (bit h.flit, 8)]
  | 0x04 => h.flags.setWidth 32
  | 0x08 => h.dbAcc
  | 0x0C => h.dbRej
  | 0x10 => h.rtmhCnt
  | 0x14 => h.rtmissCnt
  | 0x18 => h.atomCnt
  | 0x1C => h.mbxDrop
  | _ =>
    if 0x100 ≤ o ∧ o < 0x200 then
      let e := bankGet h.ranges RangeEnt.reset ((o - 0x100) / 16)
      match o % 16 with
      | 0 => pack [(bit e.en, 0), (bit e.wen, 1), (bit e.atom, 2)]
      | 4 => e.base.setWidth 32
      | 8 => e.size.setWidth 32
      | _ => e.pa.setWidth 32
    else 0

/-- Words of the MSI-X table and PBA (Tables 9.8, 9.9). -/
def readMsix (s : State) (o : Nat) : Word :=
  if o < 0x8000 then
    let e := msixEnt s (o / 16)
    match o % 16 with
    | 0 => e.addrLo
    | 4 => e.addrHi
    | 8 => e.data
    | _ => pack [(bit e.mask, 0)]
  else if o < 0x8100 then pack ((List.range 32).map (fun b => (bit (msixEnt s ((o - 0x8000) * 8 + b)).pend, b)))
  else 0

/-- IDENT and DOORCAP (Tables 0.6, 0.7). -/
def readIdent (s : State) (o : Nat) : Word :=
  match o with
  | 0 => pack [(s.fuses.ordcode.toNat, 0), (s.fuses.mfgrev.toNat, 8), (s.ifLevel.toNat, 16)]
  | 4 => if isS s then 0 else 0xFFFF
  | _ => 0

/-- The blocks of BAR0 that recovery serves (R509). -/
def recoveryBlock (off : Nat) : Bool := decide (off < 0x2000) || (decide (0x70000 ≤ off) && decide (off < 0x71000))

/-- A mailbox's words (Table 10.10): response words from `resp`. -/
def readMbox (m : Mailbox) (resp o : Nat) : Word :=
  if o = 0 then pack [(bit m.go, 0), (bit m.irq, 1), (m.lostUpd.toNat, 28)]
  else if o = 4 then pack [(bit m.busy, 0), (bit m.done, 1), (bit m.mbovr, 2), (m.seq.toNat, 16)]
  else if o < 0x10 then 0
  else if o < resp then BitVec.ofNat 32 (m.req.nat o 4)
  else if o < 2 * resp then
    let v := m.resp.getD ((o - resp) / 8) 0
    if o % 8 = 0 then v.setWidth 32 else (v >>> 32).setWidth 32
  else 0

/-- Privileged mailbox m. -/
def mboxOf (s : State) (m : Nat) : Mailbox := bankGet s.mboxes Mailbox.reset m

/-- What a 32-bit read of BAR0 returns, capture latches standing (R310, R534 to R536, Table 14.1). -/
def readReg (s : State) (off : Nat) : Word :=
  if inRecovery s && !(recoveryBlock off) then 0
  else if off < 0x1000 then readIdent s off
  else if off < 0x2000 then readHost s (off - 0x1000)
  else if off < 0x20000 then 0
  else if off < 0x20800 then readWindow s ((off - 0x20000) / 256) (off % 256)
  else if off = 0x20800 then lampstat s
  else if off < 0x21000 then 0
  else if off < 0x21800 then readPantry s ((off - 0x21000) / 256) (off % 256)
  else if off = 0x21800 then s.link.trComb
  else if off = 0x21804 then s.link.trUnal
  else if off = 0x21808 then s.link.trLate
  else if off < 0x22000 then 0
  else if off < 0x22100 then readStudy s (off - 0x22000)
  else if off < 0x23000 then 0
  else if off < 0x24000 then readDumb s ((off - 0x23000) / 256) (off % 256)
  else if off < 0x24900 then readMem s (off - 0x24000)
  else if off < 0x25000 then 0
  else if off < 0x25200 then readCorr s (off - 0x25000)
  else if off < 0x30000 then 0
  else if off < 0x31000 then readThermo s (off - 0x30000)
  else if off < 0x40000 then 0
  else if off < 0x50000 then readMbox (mboxOf s ((off - 0x40000) / 4096)) 0x800 (off % 4096)
  else if off < 0x51000 then (if isS s then 0 else readDoor s ((off - 0x50000) / 256) (off % 256))
  else if off < 0x58000 then 0
  else if off < 0x59000 then (if isS s then 0 else readLink s (off - 0x58000))
  else if off < 0x60000 then 0
  else if off < 0x61000 then readPower s (off - 0x60000)
  else if off < 0x70000 then 0
  else if off < 0x71000 then readThresh s (off - 0x70000)
  else if off < 0x80000 then 0
  else if off < 0x90000 then readMsix s (off - 0x80000)
  else match heaterAt off with
    | some h => readHeater s h
    | none => 0

/-- The capture of Table 14.2: what a read of a LO register loads. -/
def captureHi (s : State) (off : Nat) : State :=
  if 0x20000 ≤ off ∧ off < 0x20800 then
    (if off % 256 = 0x20 then modWin s ((off - 0x20000) / 256) (fun x => { x with symLatch := (x.symcnt >>> 32).setWidth 32 }) else s)
  else if 0x23000 ≤ off ∧ off < 0x24000 then
    (if off % 256 = 0x08 then modDumb s ((off - 0x23000) / 256) (fun x => { x with descLatch := (x.desc >>> 32).setWidth 32 })
     else if off % 256 = 0x10 then modDumb s ((off - 0x23000) / 256) (fun x => { x with byteLatch := (x.byteCnt >>> 32).setWidth 32 })
     else s)
  else if off = 0x24054 then
    { s with mem := { s.mem with elogLatch := s.mem.elogCtx ++ (s.mem.elogAddr >>> 32).setWidth 32 } }
  else if off = 0x24064 then { s with mem := { s.mem with swLatch := (swpos s >>> 32).setWidth 32 } }
  else if off = 0x70008 then { s with thresh := { s.thresh with serialLatch := (s.fuses.serial >>> 32).setWidth 32 } }
  else s

/-- What a read of DBq of page n returns (R319). -/
def doorbellRead (s : State) (page slot : Nat) : Word :=
  match queueOf s slot with
  | some q => if q.ctx = page then q.bell else 0
  | none => 0

/-- What a 32-bit read of BAR2 returns (R310, R313, R319, R320; R509 in recovery): a doorbell word, or a word of the context's
mailbox, which reads as 0 while the context is not resident. -/
def readBar2 (s : State) (off : Nat) : Word :=
  let n := off / 4096
  let o := off % 4096
  if inRecovery s then 0
  else if o < 0x400 then doorbellRead s n (o / 4)
  else if o < 0x800 then 0
  else match ctxOf s n with
    | some c => if c.resident then readMbox (bankGet s.umboxes Mailbox.reset n) 0x400 (o - 0x800) else 0
    | none => 0

/-- One 32-bit read of BAR0 or BAR2: the addressed bytes of the word, with the side effect of the whole word (R309, R535). -/
def readWord (s : State) (bar2 : Bool) (off : Nat) (be : BitVec 4) : State × List Byte :=
  let v := if bar2 then readBar2 s off else readReg s off
  let s := if bar2 || (inRecovery s && !(recoveryBlock off)) then s else captureHi s off
  (s, ((toBytes 4 v.toNat).zipIdx.filter (fun e => be.getLsbD e.2)).map (·.1))

/-- CAPTURE_READ_LO (R308, R309, R534, R535): a register read answers the register's value; a LO register of Table 14.2 captures.
A 64-bit read is two 32-bit reads, the lower address first. -/
def execCaptureReadLo (bar2 : Bool) (off : Nat) (be : BitVec 4) (more : Option (BitVec 4)) (s : State) :
    Host.Outcome State Fault Refusal :=
  .next (if barUp s then
    let r := readWord s bar2 off be
    match more with
    | none => emit r.1 (.completion true false r.2)
    | some b => let q := readWord r.1 bar2 (off + 4) b; emit q.1 (.completion true false (r.2 ++ q.2))
  else notUp s (.read (if bar2 then 2 else 0) off (if more.isSome then 8 else 4)) false)

/-! ### Writing (R309, R310, R344 to R346, R542) -/

/-- A range-table register (R323): ignored with RTBUSY while EN is 1, but for EN itself. -/
def writeRange (s : State) (e r : Nat) (val : Word) : State :=
  let x := bankGet s.host.ranges RangeEnt.reset e
  let put : RangeEnt → State := fun y => { s with host := { s.host with ranges := bankPut s.host.ranges e y } }
  let busy : State → State := fun s => { s with host := { s.host with flags := s.host.flags ||| 8 } }
  if x.en then
    match r with
    | 0 =>
      let same := decide (val.getLsbD 1 = x.wen) && decide (val.getLsbD 2 = x.atom)
      let s' := put { x with en := val.getLsbD 0 }
      if same then s' else busy s'
    | _ => busy s
  else
    match r with
    | 0 => put { x with en := val.getLsbD 0, wen := val.getLsbD 1, atom := val.getLsbD 2 }
    | 1 => put { x with base := val.setWidth 14 }
    | 2 => put { x with size := val.setWidth 15 }
    | _ => put { x with pa := val.setWidth 22 }

/-- Send the pending messages that nothing masks any more (R341). -/
def sendPending (s : State) (v : Nat) : State :=
  let e := msixEnt s v
  if e.pend && s.host.msixEn && !s.host.msixMask && !e.mask && !s.host.cfg.d3 then
    emit (modMsix s v (fun e => { e with pend := false })) (.msix v (e.addrHi ++ e.addrLo) e.data)
  else s

/-- An MSI-X table word (Table 9.8); unmasking sends a pending message (R341). -/
def writeMsix (s : State) (v r : Nat) (val : Word) : State :=
  match r with
  | 0 => modMsix s v (fun e => { e with addrLo := val &&& 0xFFFFFFFC })
  | 1 => modMsix s v (fun e => { e with addrHi := val })
  | 2 => modMsix s v (fun e => { e with data := val })
  | _ => sendPending (modMsix s v (fun e => { e with mask := val.getLsbD 0 })) v

/-- A software write of a 64-bit counter's half (R538): the written half stands, and a concurrent increment carries. -/
def write64 (old : Long) (hi : Bool) (val : Word) (inc : Bool) : Long :=
  (if hi then val ++ old.setWidth 32 else (old >>> 32).setWidth 32 ++ val) + (if inc then 1 else 0)

/-- Window registers written (Tables 3.7 to 3.10). -/
def writeWindow (x : Window) (o : Nat) (val : Word) (hw : HwUpd) : Window :=
  match o with
  | 0x04 => { x with flags := hsUpd x.flags val hw.set }
  | 0x08 => { x with wdens := if (val.setWidth 3).toNat ≤ 4 then val.setWidth 3 else x.wdens, hist := (val >>> 8).setWidth 4 }
  | 0x0C => { x with blimit := val }
  | 0x1C => { x with wseed := val }
  | 0x20 => { x with symcnt := write64 x.symcnt false val hw.inc }
  | 0x24 => { x with symcnt := write64 x.symcnt true val hw.inc }
  | 0x28 => { x with witcnt := hcUpd val hw.inc }
  | 0x2C => { x with repcnt := hcUpd val hw.inc }
  | 0x30 => { x with satcnt := hcUpd val hw.inc }
  | 0x34 => { x with swapcnt := hcUpd val hw.inc }
  | 0x38 => { x with loadcnt := hcUpd val hw.inc }
  | 0x3C => { x with quarcnt := hcUpd val hw.inc }
  | _ => x

/-- Pantry registers written (Tables 4.10 to 4.12). -/
def writePantry (x : Pantry) (o : Nat) (val : Word) (hw : HwUpd) : Pantry :=
  match o with
  | 0x04 => { x with flags := hsUpd x.flags val hw.set }
  | 0x08 => { x with treeOpen := hcUpd val hw.inc }
  | 0x0C => { x with treeClose := hcUpd val hw.inc }
  | 0x10 => { x with commitCnt := hcUpd val hw.inc }
  | 0x14 => { x with rescCnt := hcUpd val hw.inc }
  | 0x18 => { x with srndCnt := hcUpd val hw.inc }
  | _ => x

/-- Study registers written (Table 6.7). -/
def writeStudy (x : Study) (o : Nat) (val : Word) (hw : HwUpd) : Study :=
  match o with
  | 0x04 => { x with flags := hsUpd x.flags val hw.set }
  | 0x20 => { x with itemCnt := hcUpd val hw.inc }
  | 0x24 => { x with itemRep := hcUpd val hw.inc }
  | 0x28 => { x with refCnt := hcUpd val hw.inc }
  | 0x2C => { x with refIter := hcUpd val hw.inc }
  | 0x30 => { x with corrCnt := hcUpd val hw.inc }
  | _ => x

/-- Dumbwaiter registers written (Table 7.9). -/
def writeDumb (x : Dumb) (o : Nat) (val : Word) (hw : HwUpd) : Dumb :=
  match o with
  | 0x04 => { x with flags := hsUpd x.flags val hw.set }
  | 0x10 => { x with byteCnt := write64 x.byteCnt false val hw.inc }
  | 0x14 => { x with byteCnt := write64 x.byteCnt true val hw.inc }
  | 0x18 => { x with mergeCnt := hcUpd val hw.inc }
  | 0x1C => { x with faultCnt := hcUpd val hw.inc }
  | 0x20 => { x with prefCnt := hcUpd val hw.inc }
  | _ => x

/-- SWCTRL: a CPER or LPER out of range keeps its value (Table 7.10). -/
def writeSwctrl (old val : Word) : Word :=
  let cper : BitVec 8 := (val >>> 8).setWidth 8
  let lper : BitVec 8 := (val >>> 16).setWidth 8
  let c := if 1 ≤ cper.toNat ∧ cper.toNat ≤ 24 then val &&& 0xFF00 else old &&& 0xFF00
  let l := if 1 ≤ lper.toNat ∧ lper.toNat ≤ 60 then val &&& 0xFF0000 else old &&& 0xFF0000
  (val &&& 3) ||| c ||| l

/-- Memory registers written (Table 7.10). -/
def writeMem (m : Mem) (o : Nat) (val : Word) (hw : HwUpd) : Mem :=
  match o with
  | 0x04 => { m with flags := hsUpd m.flags val hw.set }
  | 0x40 => { m with larCe := hcUpd val hw.inc }
  | 0x44 => { m with larUe := hcUpd val hw.inc }
  | 0x48 => { m with poisCnt := hcUpd val hw.inc }
  | 0x60 => { m with swctrl := writeSwctrl m.swctrl val }
  | 0x6C => { m with swPass := hcUpd val hw.inc }
  | _ =>
    if 0x20 ≤ o ∧ o < 0x30 then { m with ceCnt := m.ceCnt.set ((o - 0x20) / 4) (hcUpd val hw.inc) }
    else if 0x30 ≤ o ∧ o < 0x40 then { m with ueCnt := m.ueCnt.set ((o - 0x30) / 4) (hcUpd val hw.inc) }
    else m

/-- Translation registers written (Table 7.11). -/
def writeXlate (x : Xlate) (o : Nat) (val : Word) (hw : HwUpd) : Xlate :=
  match o with
  | 0x00 => { x with multiHit := (x.multiHit && !(val.getLsbD 0)) || hw.set.getLsbD 0 }
  | 0x04 => { x with dtcMiss := hcUpd val hw.inc }
  | 0x08 => { x with walkCnt := hcUpd val hw.inc }
  | 0x0C => { x with mhCnt := hcUpd val hw.inc }
  | _ => x

/-- Corridor registers written (Table 8.6); AUDCTRL takes or releases a capture (R294). -/
def writeCorr (s : State) (o : Nat) (val : Word) (hw : HwUpd) : State :=
  let c := s.corr
  match o with
  | 0x04 => { s with corr := { c with flags := hsUpd c.flags val hw.set } }
  | 0x0C => { s with corr := { c with carb := val &&& 0xFFFFFF } }
  | 0x10 => if (val.setWidth 8).toNat ≤ 64 then { s with corr := { c with opRes := val.setWidth 8 } } else s
  | 0x70 => if val.getLsbD 0 then freezeCapture s else freezeRelease s
  | 0x74 => { s with corr := { c with audFail := hsUpd c.audFail val hw.set } }
  | 0x78 => { s with corr := { c with audCap := hcUpd val hw.inc } }
  | _ => s

/-- The HS bits of a sensor value word; a break or a value out of range that meets the write is one like any other (R189,
R190). -/
def writeSensor (s : State) (n : Nat) (val : Word) (hw : HwUpd) : State :=
  let x := sensorOf s n
  let s := putSensor s n { x with open_ := x.open_ && !(val.getLsbD 19), range := x.range && !(val.getLsbD 20) }
  let s := if hw.set.getLsbD 20 && chanOn n x then rangeSet s n else s
  if (hw.set.getLsbD 19 || hw.set.getLsbD 20) && chanOn n x then sensorBreak s n else s

/-- RTDxCFG: a TYPE of 3 is ignored (Table 5.10); with TYPE 0 the input is disabled and keeps VALID at 0 (R195). -/
def writeRtdCfg (s : State) (n : Nat) (val : Word) : State :=
  let ty : BitVec 2 := val.setWidth 2
  let x := sensorOf s n
  if ty = 3 then s
  else putSensor s n (if ty = 0 then { x.disabled with type := 0 } else { x with type := ty })

/-- Thermostat, generator, sensor and AUX registers written (Tables 5.5 to 5.12). -/
def writeThermo (s : State) (o : Nat) (val : Word) (hw : HwUpd) : State :=
  let t := s.thermo
  match o with
  | 0x04 => { s with thermo := { t with flags := hsUpd t.flags val hw.set } }
  | 0x08 => startLoops { s with thermo := { t with tctrl := val &&& 0xFFFFF } }
  | 0x0C => { s with thermo := { t with lkCyc := hcUpd val hw.inc } }
  | 0x10 => { s with thermo := { t with lkUpd := hcUpd val hw.inc } }
  | 0x14 => { s with thermo := { t with lkVoid := hcUpd val hw.inc } }
  | 0x18 => { s with thermo := { t with lostSum := hcUpd val hw.inc } }
  | 0x1C => { s with thermo := { t with scCnt := hcUpd val hw.inc } }
  | 0x60 => { s with thermo := { t with hsel := val.setWidth 18 } }
  | 0x70 => { s with thermo := { t with sensCnt := hcUpd val hw.inc } }
  | 0x74 => { s with thermo := { t with openCnt := hcUpd val hw.inc } }
  | 0x900 => writeRtdCfg s 64 val
  | 0x904 => writeSensor s 64 val hw
  | 0x910 => writeRtdCfg s 65 val
  | 0x914 => writeSensor s 65 val hw
  | _ =>
    if 0x20 ≤ o ∧ o < 0x40 then
      writeSlprof s ((o - 0x20) / 4) val
    else if 0x400 ≤ o ∧ o < 0x800 then writeGen s (0x30000 + o) val
    else if 0x800 ≤ o ∧ o < 0x900 then writeSensor s ((o - 0x800) / 4) val hw
    else if 0xC00 ≤ o ∧ o < 0xC40 then
      let a := (o - 0xC00) / 16
      match o % 16 with
      | 0 => writeAux s a val
      | 4 =>
        let s := { s with
          thermo := { t with aux := bankPut t.aux a { auxOf t a with compl := (auxOf t a).compl && !(val.getLsbD 17) } } }
        if hw.set.getLsbD 17 then auxLost s a else s
      | _ => s
    else if 0xE00 ≤ o ∧ o < 0xE40 then
      writeGen s (0x30000 + o) val
    else s

/-- Door registers written (Table 11.10). -/
def writeDoor (x : Door) (o : Nat) (val : Word) (hw : HwUpd) : Door :=
  match o with
  | 0x04 => { x with flags := hsUpd x.flags val hw.set }
  | 0x08 => { x with fecCorr := hcUpd val hw.inc }
  | 0x0C => { x with fecUnc := hcUpd val hw.inc }
  | 0x10 => { x with crcCnt := hcUpd val hw.inc }
  | 0x14 => { x with replayCnt := hcUpd val hw.inc }
  | 0x18 => { x with txFlit := hcUpd val hw.inc }
  | 0x1C => { x with rxFlit := hcUpd val hw.inc }
  | 0x50 => { x with lateRsp := hcUpd val hw.inc }
  | 0x54 => { x with toutCnt := hcUpd val hw.inc }
  | 0x58 => { x with retryTx := hcUpd val hw.inc }
  | 0x5C => { x with retryRx := hcUpd val hw.inc }
  | _ => x

/-- Link registers written (Table 11.11). -/
def writeLink (k : Link) (o : Nat) (val : Word) (hw : HwUpd) : Link :=
  match o with
  | 0x04 => { k with flags := hsUpd k.flags val hw.set }
  | 0x08 => { k with rto := val.setWidth 20 }
  | 0x0C => { k with trto := val.setWidth 16 }
  | 0x14 => { k with ovrmhCnt := hcUpd val hw.inc }
  | 0x18 => { k with rpoisCnt := hcUpd val hw.inc }
  | 0x1C => { k with remRd := hcUpd val hw.inc }
  | 0x20 => { k with remWr := hcUpd val hw.inc }
  | 0x24 => { k with remAtom := hcUpd val hw.inc }
  | _ => k

/-- Power registers written (Table 12.11); ALERT_N follows HOT and RAILF (R494). -/
def writePower (s : State) (o : Nat) (val : Word) (hw : HwUpd) : State :=
  match o with
  | 0x04 => setAlert { s with power := { s.power with flags := hsUpd s.power.flags val hw.set } }
  | 0x20 => { s with power := { s.power with thRaise := hcUpd val hw.inc } }
  | _ => s

/-- RCVDATA in recovery (R510): the word is appended and counted. -/
def writeRcvData (s : State) (val : Word) : State :=
  { s with thresh := { s.thresh with rcvData := val, rcvWords := s.thresh.rcvWords ++ [val], rcvLen := s.thresh.rcvLen + 1 } }

/-- Host-interface registers written (Table 9.7). -/
def writeHostReg (s : State) (o : Nat) (val : Word) (hw : HwUpd) : State :=
  let h := s.host
  match o with
  | 0x04 => { s with host := { h with flags := hsUpd h.flags val hw.set } }
  | 0x08 => { s with host := { h with dbAcc := hcUpd val hw.inc } }
  | 0x0C => { s with host := { h with dbRej := hcUpd val hw.inc } }
  | 0x10 => { s with host := { h with rtmhCnt := hcUpd val hw.inc } }
  | 0x14 => { s with host := { h with rtmissCnt := hcUpd val hw.inc } }
  | 0x18 => { s with host := { h with atomCnt := hcUpd val hw.inc } }
  | 0x1C => { s with host := { h with mbxDrop := hcUpd val hw.inc } }
  | _ => s

/-- Truss counters written (Table 4.13). -/
def writeTruss (k : Link) (o : Nat) (val : Word) (hw : HwUpd) : Link :=
  match o with
  | 0 => { k with trComb := hcUpd val hw.inc }
  | 4 => { k with trUnal := hcUpd val hw.inc }
  | 8 => { k with trLate := hcUpd val hw.inc }
  | _ => k

/-- A heater's hardware update that meets the write (RWH fields, HS bit SC). -/
def writeHeaterReg (s : State) (h : Nat) (val : Word) (hw : HwUpd) : State :=
  let s := writeHeater s h val hw.rwh.isSome
  if hw.set.getLsbD 20 && radiatorOn s then tripHeater s h else s

/-- A 32-bit software write of BAR0 below the mailboxes, with the update that meets it: discarded while a reset clears the
block (R542), without effect where reserved (R310). -/
def writeLow (s : State) (off : Nat) (val : Word) (hw : HwUpd) : State :=
  let all := blockOpen s clrCWIF
  let cwi := blockOpen s clrCWI
  if off < 0x1000 then s
  else if off < 0x1100 then (if writeOpen s clrCWF then writeHostReg s (off - 0x1000) val hw else s)
  else if off < 0x1200 then (if writeOpen s clrCWIF then writeRange s ((off - 0x1100) / 16) (off % 16 / 4) val else s)
  else if off < 0x20000 then s
  else if off < 0x20800 then (if all then modWin s ((off - 0x20000) / 256) (fun x => writeWindow x (off % 256) val hw) else s)
  else if off < 0x21000 then s
  else if off < 0x21800 then (if all then modPantry s ((off - 0x21000) / 256) (fun x => writePantry x (off % 256) val hw) else s)
  else if off < 0x22000 then (if all then { s with link := writeTruss s.link (off - 0x21800) val hw } else s)
  else if off < 0x22100 then (if cwi then { s with study := writeStudy s.study (off - 0x22000) val hw } else s)
  else if off < 0x23000 then s
  else if off < 0x24000 then (if all then modDumb s ((off - 0x23000) / 256) (fun x => writeDumb x (off % 256) val hw) else s)
  else if off < 0x24800 then (if cwi then { s with mem := writeMem s.mem (off - 0x24000) val hw } else s)
  else if off < 0x24900 then (if all then { s with xlate := writeXlate s.xlate (off - 0x24800) val hw } else s)
  else if off < 0x25000 then s
  else if off < 0x25200 then (if all then writeCorr s (off - 0x25000) val hw else s)
  else if off < 0x30000 then s
  else if off < 0x31000 then (if cwi then writeThermo s (off - 0x30000) val hw else s)
  else s

/-- A 32-bit software write of BAR0 above the mailboxes. -/
def writeHigh (s : State) (off : Nat) (val : Word) (hw : HwUpd) : State :=
  let cwi := blockOpen s clrCWI
  if off < 0x51000 then
    (if cwi && !(isS s) then modDoor s ((off - 0x50000) / 256) (fun x => writeDoor x (off % 256) val hw) else s)
  else if off < 0x58000 then s
  else if off < 0x59000 then (if cwi && !(isS s) then { s with link := writeLink s.link (off - 0x58000) val hw } else s)
  else if off < 0x60000 then s
  else if off < 0x61000 then (if cwi then writePower s (off - 0x60000) val hw else s)
  else if off < 0x70000 then s
  else if off < 0x71000 then
    (match off - 0x70000 with
     | 0x04 => if writeOpen s clrC then { s with thresh := { s.thresh with flags := hsUpd s.thresh.flags val hw.set } } else s
     | 0x20 => if barUp s then { s with nvm := { s.nvm with frecOvf := hcUpd val hw.inc } } else s
     | 0x24 => if writeOpen s clrC then { s with thresh := { s.thresh with jtagCnt := hcUpd val hw.inc } } else s
     | 0x28 => if barUp s && inRecovery s && !(val.getLsbD 0) then
         { s with thresh := { s.thresh with rcvGo := false, rcvLost := lostWrite val hw.rwh.isSome } } else s
     | 0x2C => if barUp s && inRecovery s then writeRcvData s val else s
     | 0x30 => if barUp s then { s with thresh := { s.thresh with rcvLen := hcUpd val hw.inc } } else s
     | _ => s)
  else if off < 0x80000 then s
  else if off < 0x88000 then (if blockOpen s clrCWF then writeMsix s ((off - 0x80000) / 16) (off % 16 / 4) val else s)
  else match heaterAt off with
    | some h => if cwi then writeHeaterReg s h val hw else s
    | none => s

/-- A write of which a word has some byte enables sets BADSIZE (R309). -/
def badSize (s : State) : State := { s with host := { s.host with flags := s.host.flags ||| 1 } }

/-- Judge the byte enables of a one- or two-word write word by word (R309), and say whether it is performed: discarded whole with
BADSIZE where a word has some enables; malformed where a word of two has none; a word alone with none is a zero-length write. -/
def judge (s : State) (bar off : Nat) (be : BitVec 4) (more : Option Word2) : State × Bool :=
  let bes := be :: (more.map (·.be)).toList
  let s := if bes.any (fun b => decide (b ≠ 0 ∧ b ≠ 15)) then badSize s else s
  if more.isSome && bes.any (fun b => decide (b = 0)) then (aer s .malformedTlp (some (.write bar off 8)), false)
  else (s, bes.all (fun b => decide (b = 15)))

/-- COUNTER64_WRITE (R538): SYMCNT or BYTECNT. -/
def execCounter64Write (off : Nat) (val : Word) (inc : Bool) (s : State) : Host.Outcome State Fault Refusal :=
  .next (if blockOpen s clrCWIF then
    if 0x20000 ≤ off ∧ off < 0x20800 ∧ (off % 256 = 0x20 ∨ off % 256 = 0x24) then
      modWin s ((off - 0x20000) / 256) (fun x => { x with symcnt := write64 x.symcnt (decide (off % 256 = 0x24)) val inc })
    else if 0x23000 ≤ off ∧ off < 0x24000 ∧ (off % 256 = 0x10 ∨ off % 256 = 0x14) then
      modDumb s ((off - 0x23000) / 256) (fun x => { x with byteCnt := write64 x.byteCnt (decide (off % 256 = 0x14)) val inc })
    else s
  else s)

/-- RANGE_TABLE_WRITE (R323, R542). -/
def execRangeTableWrite (e : Fin 16) (reg : Fin 4) (val : Word) (s : State) : Host.Outcome State Fault Refusal :=
  .next (if writeOpen s clrCWIF then writeRange s e.val reg.val val else s)

/-- Send every pending message that nothing masks any more. -/
def sendAllPending (s : State) : State := ((s.host.msix.filter (fun e => e.2.pend)).map (·.1)).foldl sendPending s

/-- MSIX_UNMASK (R341, R342): a vector, or the function, which also enables MSI-X. -/
def execMsixUnmask (v : Option (Fin 2048)) (s : State) : Host.Outcome State Fault Refusal :=
  .next (match v with
    | some v => if blockOpen s clrCWF then sendPending (modMsix s v.val (fun e => { e with mask := false })) v.val else s
    | none =>
      if linkUp s && s.host.cfgReady then sendAllPending { s with host := { s.host with msixEn := true, msixMask := false } } else s)

end Sys2Proof.Machine
end

