-- ==== Sys2Proof/Machine/Letterbox.lean ====
section
/-!
DEFINITION. The Letterbox protocol (R347 to R350, R461, Table 10.10): posting a request, the order in which Yilium takes them,
the refusals that hold for every command, and the response.
-/

namespace Sys2Proof.Machine

open Sys2Proof

/-! ### Mailboxes -/

/-- A mailbox by reference. -/
def mbGet (s : State) : MbRef → Mailbox
  | .priv m => bankGet s.mboxes Mailbox.reset m.val
  | .unpriv n => bankGet s.umboxes Mailbox.reset n.val
/-- Change a mailbox. -/
def mbMod (s : State) (mb : MbRef) (f : Mailbox → Mailbox) : State :=
  match mb with
  | .priv m => { s with mboxes := bankMod s.mboxes Mailbox.reset m.val f }
  | .unpriv n => { s with umboxes := bankMod s.umboxes Mailbox.reset n.val f }
/-- The place of a mailbox in the rotation: 0 to 15, then the contexts (R349). -/
def mbIx : MbRef → Nat
  | .priv m => m.val
  | .unpriv n => 16 + n.val
/-- Argument words that a request area holds. -/
def mbArgs : MbRef → Nat
  | .priv _ => 253
  | .unpriv _ => 125
/-- CMD of a request. -/
def reqCmd (m : Mailbox) : Nat := m.req.nat 0x10 2
/-- LEVEL of a request. -/
def reqLevel (m : Mailbox) : Nat := m.req.nat 0x12 1
/-- Argument k: 0 at or beyond NARGS (log entry 23). -/
def reqArg (m : Mailbox) (k : Nat) : Nat := if k < m.req.nat 0x14 1 then m.req.nat (0x18 + 8 * k) 8 else 0

/-! ### Taking requests (R347, R349) -/

/-- The mailboxes with a request that waits to be taken, by place. -/
def mbWaiting (s : State) : List Nat :=
  ((List.range 16).filter (fun m => let x := bankGet s.mboxes Mailbox.reset m; x.go && !x.busy)) ++
  (((s.umboxes.filter (fun e => e.2.go && !e.2.busy && (match ctxOf s e.1 with | some c => c.resident | none => false))).map
    (fun e => 16 + e.1)))
/-- The mailbox that Yilium takes next: the first after the last one taken, with wrap-around. -/
def mbNext (s : State) : Option Nat :=
  match (mbWaiting s).find? (fun i => decide (s.lastMbox < i)) with
  | some i => some i
  | none => (mbWaiting s).head?
/-- Take a request: BUSY set and GO cleared in one update. -/
def mbTake (s : State) (mb : MbRef) : State :=
  { mbMod s mb (fun m => { m with busy := true, go := false }) with lastMbox := mbIx mb }
/-- The end of a command: response, BUSY clear, DONE, SEQ, and MAILBOX_DONE or CTXVEC if IRQ is 1 (R347). -/
def mbAnswer (s : State) (mb : MbRef) (st : Status) (vs : List Nat) : State :=
  let hdr := BitVec.ofNat 64 (st.ctorIdx + 65536 * vs.length)
  let s := mbMod s mb (fun m => { m with
    resp := hdr :: (vs.map (BitVec.ofNat 64)) ++ m.resp.drop (vs.length + 1), busy := false, done := true, seq := m.seq + 1 })
  if (mbGet s mb).irq then
    match mb with
    | .priv m => raiseEvent s 0x10 noCtx m.val 0
    | .unpriv n => (match ctxOf s n.val with | some c => raiseVec s c.vec | none => s)
  else s

/-- How a command ends: a status with results, or it waits (R349). -/
inductive Ans where
  | done (st : Status) (vs : List Nat)
  | wait
  deriving DecidableEq, Repr

/-- An OK answer without results. -/
def Ans.ok : Ans := .done .ok []
/-- A refusal. -/
def refuse (s : State) (st : Status) : State × Ans := (s, .done st [])

/-- Every code that Tables 10.6, 11.8, 12.8 and 13.12 give a command. -/
def lbCodes : List Nat :=
  [0x01, 0x02, 0x03, 0x04, 0x05, 0x06, 0x10, 0x11, 0x12, 0x13, 0x14, 0x20, 0x21, 0x22, 0x23, 0x24, 0x30, 0x31, 0x32, 0x33, 0x40, 0x41,
   0x50, 0x51, 0x60, 0x61, 0x62, 0x70, 0x71, 0x72, 0x73, 0x80, 0x90, 0x91, 0x92, 0x93, 0x94, 0x95, 0x96, 0x97, 0x98,
   0x99, 0x9A, 0xB0, 0xB1, 0xB2, 0xB3, 0xB4, 0xB5, 0xB6, 0xB7, 0xB8, 0xB9, 0xD0, 0xD1, 0xD2]

/-- Refusals that come before a command's own (R12, R350): the level, then the code, then level 0. -/
def lbRefusal (s : State) (m : Mailbox) : Option Status :=
  if s.ifLevel.toNat < reqLevel m then some .levelUnsupported
  else if !(lbCodes.contains (reqCmd m)) || decide (reqLevel m = 0) then some .invalid
  else none

/-- A mailbox of a place in the rotation. -/
def mbOfIx (i : Nat) : MbRef := if h : i < 16 then .priv ⟨i, h⟩ else .unpriv (Fin.ofNat 4096 (i - 16))

/-- Yilium answers requests with unknown codes as their turn comes. -/
def lbIdle : Nat → State → State
  | 0, s => s
  | k + 1, s =>
    match mbNext s with
    | none => s
    | some i =>
      let mb := mbOfIx i
      let m := mbGet s mb
      if lbCodes.contains (reqCmd m) then s
      else match lbRefusal s m with
        | some st => lbIdle k (mbAnswer (mbTake s mb) mb st [])
        | none => s

/-- Requests that can wait at once at most. -/
def lbFuel (s : State) : Nat := 16 + s.umboxes.length

/-- Yilium takes Letterbox commands: after READY (R461). -/
def lbOpen (s : State) : Bool := powered s && isReady s

/-- One command of the Letterbox: taken when it is its mailbox's turn and its CMD is `code`, or continued while it waits.
`user` says whether the unprivileged view may issue it (Table 10.6). -/
def lbStep (mb : MbRef) (code : Nat) (user : Bool) (body : State → Mailbox → State × Ans) (s : State) : State :=
  let m := mbGet s mb
  if !(lbOpen s) || decide (reqCmd m ≠ code) || !(m.busy || decide (mbNext s = some (mbIx mb))) then s
  else
    let s := if m.busy then s else mbTake s mb
    let end_ : State → Status → List Nat → State := fun s st vs => let s := mbAnswer s mb st vs; lbIdle (lbFuel s) s
    match lbRefusal s m with
    | some st => end_ s st []
    | none =>
      if (match mb with | .unpriv _ => !user | .priv _ => false) then end_ s .denied []
      else match body s m with
        | (s, .done st vs) => end_ s st vs
        | (s, .wait) => lbIdle (lbFuel s) s

/-- Whether a request of an unprivileged mailbox names its own context (R350). -/
def mbOwns (mb : MbRef) (ctx : Nat) : Bool := match mb with | .priv _ => true | .unpriv n => decide (n.val = ctx)

/-- A body that names a context with A0 (R350). -/
def onCtx (mb : MbRef) (k : State → Mailbox → Nat → Context → State × Ans) (s : State) (m : Mailbox) : State × Ans :=
  if !(mbOwns mb (reqArg m 0)) then refuse s .denied
  else match ctxOf s (reqArg m 0) with
    | some c => k s m (reqArg m 0) c
    | none => refuse s .noObject

/-- A body that names a queue with A0 (R350). -/
def onQueue (mb : MbRef) (k : State → Mailbox → Nat → Queue → State × Ans) (s : State) (m : Mailbox) : State × Ans :=
  match queueOf s (reqArg m 0) with
  | some q => if mbOwns mb q.ctx then k s m (reqArg m 0) q else refuse s .denied
  | none => refuse s .noObject

/-! ### Posting (R320, R347, R348, R542) -/

/-- A request that has just been taken and whose code no command has is answered at once (R350). -/
def answerUnknown (s : State) (mb : MbRef) : State :=
  let m := mbGet s mb
  if lbCodes.contains (reqCmd m) then s
  else match lbRefusal s m with
    | some st => mbAnswer s mb st []
    | none => s

/-- The bits of the request area that are not reserved (R14, Table 10.10): CMD and LEVEL, NARGS, the argument words. -/
def reqMask (off : Nat) : Word := if off = 0x10 then 0x00FFFFFF else if off = 0x14 then 0x000000FF else 0xFFFFFFFF

/-- A write to a mailbox register that is open: MBCTL, MBSTAT or the request area. -/
def mbWrite (s : State) (mb : MbRef) (off : Nat) (val : Word) (hwTake : Bool) : State :=
  let m := mbGet s mb
  let req := match mb with | .priv _ => 0x800 | .unpriv _ => 0x400
  if off = 4 then
    mbMod s mb (fun m => { m with done := m.done && !(val.getLsbD 1), mbovr := m.mbovr && !(val.getLsbD 2), seq := (val >>> 16).setWidth 16 })
  else if off = 0 ∨ (0x10 ≤ off ∧ off < req) then
    if m.busy then mbMod s mb (fun m => { m with mbovr := true })
    else if off = 0 then
      let take := hwTake && m.go && lbOpen s && decide (mbNext s = some (mbIx mb))
      let s := mbMod s mb (fun m => { m with go := val.getLsbD 0, irq := val.getLsbD 1, lostUpd := lostWrite val take, busy := take })
      if take then answerUnknown { s with lastMbox := mbIx mb } mb else s
    else mbMod s mb (fun m => { m with req := m.req.write off (toBytes 4 (val &&& reqMask off).toNat) })
  else s

/-- One 32-bit write to a mailbox (R320, R348, R542). -/
def mailboxWord (s : State) (mb : MbRef) (off : Nat) (val : Word) (hwTake : Bool) : State :=
  let open_ := match mb with
    | .priv _ => blockOpen s clrCWIF || decide (off = 0) || decide (0x10 ≤ off)
    | .unpriv n => blockOpen s clrCWIF && (match ctxOf s n.val with | some c => c.resident | none => false)
  if open_ then let s := mbWrite s mb off val hwTake; if lbOpen s then lbIdle (lbFuel s) s else s
  else match mb with
    | .priv _ => s
    | .unpriv _ => { s with host := { s.host with mbxDrop := s.host.mbxDrop + 1 } }

/-- Bytes of a mailbox: 4 KiB privileged, 2 KiB in BAR2 (Tables 9.3, 9.4). -/
def mbSize : MbRef → Nat
  | .priv _ => 0x1000
  | .unpriv _ => 0x800
/-- Where a mailbox lies: its BAR and offset. -/
def mbAt : MbRef → Nat × Nat
  | .priv m => (0, 0x40000 + 4096 * m.val)
  | .unpriv n => (2, 4096 * n.val + 0x800)

/-- MAILBOX_WRITE (R308, R309, R320, R348, R542): one word, or the two words of a 64-bit write inside the mailbox. -/
def execMailboxWrite (mb : MbRef) (off : Nat) (val : Word) (be : BitVec 4) (hwTake : Bool) (more : Option Word2) (s : State) :
    Host.Outcome State Fault Refusal :=
  .next (if !(barUp s) then notUp s (.write (mbAt mb).1 ((mbAt mb).2 + off) (if more.isSome then 8 else 4)) true
    else if inRecovery s then s
    else match judge s (mbAt mb).1 ((mbAt mb).2 + off) be more with
      | (s, false) => s
      | (s, true) =>
        let s := mailboxWord s mb off val hwTake
        match more with
        | some w => if off + 4 < mbSize mb then mailboxWord s mb (off + 4) w.val w.hw.rwh.isSome else s
        | none => s)

end Sys2Proof.Machine
end

