-- ==== Sys2Proof/Machine/LbObject.lean ====
section
/-!
DEFINITION. Letterbox commands on contexts, queues, streams, reservations, panes, Windows, the Radiator and the event queue
(Table 10.6).
-/

namespace Sys2Proof.Machine

open Sys2Proof

/-! ### Contexts (R352 to R358) -/

/-- A context as CTX_CREATE makes it. -/
def Context.create (cseed pregion saveVa vec : Nat) : Context :=
  { cseed := BitVec.ofNat 64 cseed, pregion := pregion, saveVa := saveVa, vec := vec, resident := false, base := 0, pinned := false,
    lost := false, lossCause := 0, lossAddr := 0, replayed := 0, lateCnt := 0, sigDrop := 0, table := [], arena := none, arenaFailed := 0, badFree := 0,
    kernels := [], bellAge := 0, wantRes := false, saved := [], saveKey := none }

/-- CTX_CREATE (R352). -/
def bodyCtxCreate (s : State) (m : Mailbox) : State × Ans :=
  let n := reqArg m 0
  if 4095 < n ∨ 32 < reqArg m 2 ∨ 2047 < reqArg m 4 then refuse s .invalid
  else if (ctxOf s n).isSome then refuse s .busy
  else ({ s with
    ctxs := bankPut s.ctxs n (Context.create (reqArg m 1) (reqArg m 2) (reqArg m 3) (reqArg m 4)),
    umboxes := bankErase s.umboxes n }, .ok)

/-- CTX_CREATE. -/
def execCtxCreate (mb : MbRef) (s : State) : Host.Outcome State Fault Refusal := .next (lbStep mb 0x01 false bodyCtxCreate s)

/-- CTX_PIN (R355, R358). -/
def bodyCtxPin (mb : MbRef) (base : Nat) (env : Env) : State → Mailbox → State × Ans :=
  onCtx mb (fun s _ n _ => match makeResident s env n base with
    | some s => (modCtx s n (fun c => { c with pinned := true }), .ok)
    | none => refuse s .noSlot)
/-- CTX_PIN. -/
def execCtxPin (mb : MbRef) (base : Fin 32) (env : Env) (s : State) : Host.Outcome State Fault Refusal :=
  .next (lbStep mb 0x03 false (bodyCtxPin mb base.val env) s)

/-- CTX_UNPIN (R358). -/
def execCtxUnpin (mb : MbRef) (s : State) : Host.Outcome State Fault Refusal :=
  .next (lbStep mb 0x04 false (onCtx mb (fun s _ n _ => (modCtx s n (fun c => { c with pinned := false }), .ok))) s)

/-- CTX_EVICT (R354, R358): BUSY unless the context is resident and evictable. -/
def execCtxEvict (mb : MbRef) (env : Env) (s : State) : Host.Outcome State Fault Refusal :=
  .next (lbStep mb 0x05 false (onCtx mb (fun s _ n c =>
    if evictable s n c then (evict s env n, .ok) else refuse s .busy)) s)

/-- V0 of CTX_QUERY. -/
def ctxWord (c : Context) : Nat := bit c.resident + 2 * bit c.lost + 4 * bit c.pinned + 256 * (c.lossCause % 256)
/-- CTX_QUERY. -/
def execCtxQuery (mb : MbRef) (s : State) : Host.Outcome State Fault Refusal :=
  .next (lbStep mb 0x06 true (onCtx mb (fun s _ _ c =>
    (s, .done .ok [ctxWord c, c.replayed.toNat, c.lateCnt.toNat, c.sigDrop.toNat, c.lossAddr.toNat]))) s)

/-! ### Queues (R359, R366, R387) -/

/-- QUEUE_CREATE (R355, R359). -/
def bodyQueueCreate (base : Nat) (env : Env) (s : State) (m : Mailbox) : State × Ans :=
  let n := reqArg m 0
  let q := reqArg m 1
  let a4 := reqArg m 4
  let ringN := a4 % 0x2000
  let cls := a4 / 2 ^ 16 % 4
  let vec := a4 / 2 ^ 32 % 0x800
  match ctxOf s n with
  | none => refuse s .noObject
  | some c =>
    if 255 < q then refuse s .invalid
    else if (queueOf s q).isSome then refuse s .busy
    else if !([64, 128, 256, 512, 1024, 2048, 4096].contains ringN) || decide (reqArg m 2 % 4096 ≠ 0) || decide (reqArg m 3 % 4096 ≠ 0) ||
        decide (vec = 0) then refuse s .invalid
    else
      let x : Queue := { ctx := n, cls := cls, ringVa := reqArg m 2, cqVa := reqArg m 3, ringN := ringN, vector := vec, head := 0, tail := 0,
                         state := .active, ovr := false, bell := 0, group := none, dying := false }
      match (if cls = 0 then makeResident s env n base else some s) with
      | some s => ({ s with queues := bankPut s.queues q x }, .ok)
      | none => refuse s .noSlot
/-- QUEUE_CREATE. -/
def execQueueCreate (mb : MbRef) (base : Fin 32) (env : Env) (s : State) : Host.Outcome State Fault Refusal :=
  .next (lbStep mb 0x10 false (bodyQueueCreate base.val env) s)

/-- The header of a ring entry as Yilium finds it: none where it cannot be looked at. -/
def peekHdr (s : State) (env : Env) (q : Queue) (idx : Nat) : CmdHdr :=
  match tablePieces s q.ctx (q.ringVa + 128 * (idx % max 1 q.ringN)) 128 false with
  | some ((.dev pa, _) :: _) => if (granulesOf pa 128).any (fun g => s.mem.poison.contains g) then noHdr else parseHdr (s.mem.data.read pa 128)
  | some ((.host a, _) :: _) => parseHdr (hostBytes env a 128)
  | _ => noHdr

/-- Complete one pending command with ABORTED: its record, and its vector if IRQ is set (R366, R372, R373). -/
def abortOne (env : Env) (n : Nat) (q : Queue) (s : State) (idx : Nat) : State :=
  let h := peekHdr s env q idx
  let s := writeRecord s env q idx (recordBytes q.ringN idx .aborted 0 h.cookie 0)
  if h.irq then raiseVec s (match queueOf s n with | some x => x.vector | none => q.vector) else s

/-- Complete every pending command of a queue with ABORTED; HEAD becomes the last TAIL (R366, R387). -/
def abortPending (s : State) (env : Env) (n : Nat) : State :=
  match queueOf s n with
  | none => s
  | some q =>
    let s := ((List.range (pendingN q)).map (fun k => (q.head + k) % 65536)).foldl (abortOne env n q) s
    modQueue s n (fun x => { x with head := x.tail })

/-- A destruction with FORCE (R387): pending commands end ABORTED, armed waits as timed out, which stops the queue (R376); a wait
that arms later times out at once, and decoded commands go on. -/
def forceBegin (s : State) (env : Env) (n : Nat) : State :=
  match queueOf s n with
  | none => s
  | some q =>
    let waits := s.ops.filter (fun o => decide (o.q = n) && o.armed)
    let s := if pendingN q = 0 then s else abortPending s env n
    let s := audGive { s with ops := s.ops.map (fun o => if decide (o.q = n) && o.armed then endWait .fenceTimeout o else o) } 4 waits.length
    modQueue s n (fun x => { x with dying := true, state := if x.state = .active ∧ waits ≠ [] then .stopped else x.state })

/-- The queue is gone: the QID is free (R387). -/
def dropQueue (s : State) (n : Nat) : State := { s with queues := bankErase s.queues n }

/-- QUEUE_DESTROY (R387). -/
def bodyQueueDestroy (mb : MbRef) (env : Env) : State → Mailbox → State × Ans :=
  onQueue mb (fun s m n q =>
    if (reqArg m 1).testBit 0 then
      let s := forceBegin s env n
      if inFlight s n = 0 then (dropQueue s n, .ok) else (s, .wait)
    else if pendingN q ≠ 0 ∨ inFlight s n ≠ 0 ∨ q.dying then refuse s .busy
    else (dropQueue s n, .ok))
/-- QUEUE_DESTROY. -/
def execQueueDestroy (mb : MbRef) (env : Env) (s : State) : Host.Outcome State Fault Refusal :=
  .next (lbStep mb 0x11 false (bodyQueueDestroy mb env) s)

/-- QUEUE_RESUME (R366): a STOPPED queue returns to ACTIVE from HEAD. -/
def execQueueResume (mb : MbRef) (s : State) : Host.Outcome State Fault Refusal :=
  .next (lbStep mb 0x12 true (onQueue mb (fun s _ n q =>
    (if q.state = .stopped then modQueue s n (fun x => { x with state := .active }) else s, .ok))) s)

/-- QUEUE_FLUSH (R366). -/
def execQueueFlush (mb : MbRef) (env : Env) (s : State) : Host.Outcome State Fault Refusal :=
  .next (lbStep mb 0x13 true (onQueue mb (fun s _ n q =>
    if q.dying then refuse s .busy
    else
      let s := abortPending s env n
      (modQueue s n (fun x => if x.state = .stopped then { x with state := .active } else x), .done .ok [pendingN q]))) s)

/-- State codes of QUEUE_QUERY. -/
def QState.code : QState → Nat
  | .active => 0 | .stopped => 1 | .lost => 2
/-- QUEUE_QUERY. -/
def execQueueQuery (mb : MbRef) (s : State) : Host.Outcome State Fault Refusal :=
  .next (lbStep mb 0x14 true (onQueue mb (fun s _ _ q => (s, .done .ok [q.state.code + 4 * bit q.ovr, q.head, q.tail]))) s)

/-! ### Halted streams (R250 to R252) -/

/-- The halted streams of a command. -/
def haltedOf (s : State) (id : OpId) : List (Nat × Stream) :=
  s.streams.filter (fun e => decide (e.2.op = id) && decide (e.2.state = .halt))

/-- The command that STREAM_RESUME and STREAM_ABORT name. -/
def onHalted (mb : MbRef) (k : State → OpId → Context → State × Ans) : State → Mailbox → State × Ans :=
  onCtx mb (fun s m n c =>
    let id : OpId := (reqArg m 1 % 256, reqArg m 1 / 65536 % 65536)
    match findOp s id with
    | some o => if o.ctx = n ∧ !(haltedOf s id).isEmpty then k s id c else refuse s .noObject
    | none => refuse s .noObject)

/-- Continue one halted stream; the access of a work item or of a start is then made again. -/
def resumeOne (s : State) (e : Nat × Stream) : State :=
  let s := resumeStream s e.1 e.2
  match findStream s e.1 with
  | some x => if x.kind = .study ∧ x.state = .run ∧ x.rowLen = 0 then dropStudyStream s x.op x.win else s
  | none => s

/-- STREAM_RESUME (R250, R252): it waits until the context is resident. -/
def execStreamResume (mb : MbRef) (s : State) : Host.Outcome State Fault Refusal :=
  .next (lbStep mb 0x50 false (onHalted mb (fun s id c =>
    if c.resident then ((haltedOf s id).foldl resumeOne s, .ok) else (s, .wait))) s)

/-- STREAM_ABORT (R251). -/
def execStreamAbort (mb : MbRef) (_env : Env) (s : State) : Host.Outcome State Fault Refusal :=
  .next (lbStep mb 0x51 false (onHalted mb (fun s id _ => (endOp s id .pageFault true, .ok))) s)

/-! ### Reservations and panes (R267 to R272, R292, R302) -/

/-- RESV_SET (R267, R271, R302). -/
def bodyResvSet (mb : MbRef) : State → Mailbox → State × Ans :=
  onCtx mb (fun s m n _ =>
    let cls := reqArg m 1
    let rate := reqArg m 2
    if 3 < cls then refuse s .invalid
    else
      let old := (s.mem.resvs.find? (fun r => r.ctx = n ∧ r.cls = cls)).getD ⟨n, cls, 0, 0, 0⟩
      if rate = 0 then (checkGuarantee (dropResv s n cls), .ok)
      else if old.rate < rate ∧ (s.mem.deliv < resvSum s none - old.rate + rate ∨
          (cls = 0 ∧ s.mem.c0cap < resvSum s (some 0) - old.rate + rate)) then refuse s .resvRefused
      else
        let keep := min old.tokens (bucketDepth rate)
        let new : Resv := ⟨n, cls, rate, if old.rate < rate then s.mem.resvSeq else old.seq, keep⟩
        let others := s.mem.resvs.filter (fun r => ¬ (r.ctx = n ∧ r.cls = cls))
        let s := audGive { s with mem := { s.mem with resvs := others ++ [new], resvSeq := s.mem.resvSeq + 1 } } 7 (old.tokens - keep)
        (checkGuarantee s, .ok))
/-- RESV_SET. -/
def execResvSet (mb : MbRef) (s : State) : Host.Outcome State Fault Refusal := .next (lbStep mb 0x60 false (bodyResvSet mb) s)

/-- PANE_PIN (R292). -/
def execPanePin (mb : MbRef) (s : State) : Host.Outcome State Fault Refusal :=
  .next (lbStep mb 0x61 false (onCtx mb (fun s m n _ =>
    let w := reqArg m 1 % 8
    let b := (reqArg m 1).testBit 3
    if (paneOf (win s w) b).pin ≠ none ∧ (paneOf (win s w) b).pin ≠ some n then refuse s .busy
    else (modPane s w b (fun p => { p with pin := some n }), .ok))) s)

/-- PANE_UNPIN (R292). -/
def execPaneUnpin (mb : MbRef) (s : State) : Host.Outcome State Fault Refusal :=
  .next (lbStep mb 0x62 false (onCtx mb (fun s m n _ =>
    let w := reqArg m 1 % 8
    let b := (reqArg m 1).testBit 3
    if (paneOf (win s w) b).pin ≠ some n then refuse s .noObject
    else (modPane s w b (fun p => { p with pin := none }), .ok))) s)

/-! ### Windows, Radiator, AUX (R107, R114, R169, R198) -/

/-- WINDOW_QUARANTINE (R107): a Window that is not in service is left as it is. -/
def execWindowQuarantine (mb : MbRef) (s : State) : Host.Outcome State Fault Refusal :=
  .next (lbStep mb 0x70 false (fun s m =>
    let w := reqArg m 0
    if 7 < w then refuse s .noObject
    else if inService s w then (quarantine s w 3, .ok) else (s, .ok)) s)

/-- WINDOW_QUALIFY (R114): a quarantined Window; V0 is the largest B. -/
def bodyWindowQualify (resA resB : List (List Int)) (s : State) (m : Mailbox) : State × Ans :=
  let w := reqArg m 0
  if 7 < w then refuse s .noObject
  else if (win s w).state ≠ .quar then
    refuse s (if (win s w).state = .off ∨ (win s w).state = .retired then .denied else .busy)
  else if !(laserLit s w) then refuse s .busy
  else if !(qualSize resA resB) then (s, .wait)
  else
    let r := qualRun s w resA resB
    (if qualPass s w r.2 then intoService r.1 w else r.1, .done .ok [r.2.toNat])
/-- WINDOW_QUALIFY. -/
def execWindowQualify (mb : MbRef) (resA resB : List (List Int)) (s : State) : Host.Outcome State Fault Refusal :=
  .next (lbStep mb 0x71 false (bodyWindowQualify resA resB) s)

/-- RADIATOR_PARK (R169). -/
def execRadiatorPark (mb : MbRef) (s : State) : Host.Outcome State Fault Refusal :=
  .next (lbStep mb 0x72 false (fun s _ => (parkAll s, .ok)) s)

/-- AUX_SET_DEFAULTS (R198). -/
def execAuxSetDefaults (mb : MbRef) (s : State) : Host.Outcome State Fault Refusal :=
  .next (lbStep mb 0x73 false (fun s m =>
    if 3 < reqArg m 0 then refuse s .noObject
    else if 0xFFFF < reqArg m 1 ∨ 0xFFFF < reqArg m 2 then refuse s .invalid
    else if 1000 ≤ s.nvm.auxWrites then refuse s .nvmWorn
    else ({ s with
      nvm := { s.nvm with
      auxVals := bankPut s.nvm.auxVals (reqArg m 0) (BitVec.ofNat 16 (reqArg m 1), BitVec.ofNat 16 (reqArg m 2)),
      auxWrites := s.nvm.auxWrites + 1 } }, .ok)) s)

/-! ### Events (R392, R393) -/

/-- Write held events into a ring in order. -/
def drainEvents : List Event → State → State
  | [], s => s
  | e :: t, s => drainEvents t (match s.evRing with | some r => writeEvent s r e | none => s)

/-- EVQ_SET (R393). -/
def execEvqSet (mb : MbRef) (s : State) : Host.Outcome State Fault Refusal :=
  .next (lbStep mb 0x80 false (fun s m =>
    let n := reqArg m 1
    if !([64, 128, 256, 512, 1024, 2048, 4096, 8192, 16384, 32768, 65536].contains n) then refuse s .invalid
    else
      let held := s.events
      (drainEvents held { s with evRing := some ⟨reqArg m 0, n, 0⟩, events := [] }, .ok)) s)

end Sys2Proof.Machine
end

