-- ==== Sys2Proof/Machine/LbMemory.lean ====
section
/-!
DEFINITION. Letterbox commands on memory: mapping (R377 to R380), arenas (R381), shared objects (R384 to R386), kernels (R564), and
the destruction of a context (R388).
-/

namespace Sys2Proof.Machine

open Sys2Proof

/-! ### Free memory (R259, R378) -/

/-- Whether a 64 KiB page can be allocated: inside the memory, not owned, not retired, and with no block on a stack out of
service (R265, R378). -/
def pageFree (s : State) (larder : Bool) (page : Nat) : Bool :=
  (if larder then decide ((page + 1) * 0x10000 ≤ larderUserEnd)
   else decide (cellarBase ≤ page * 0x10000) && decide ((page + 1) * 0x10000 ≤ cellarEnd s) &&
     (List.range 16).all (fun b => !(stackOut s (page * 0x10000 + b * 0x1000)))) &&
  !(pageOwned s page) && !(s.nvm.retPages.contains page) && !(pageBad s page)
/-- Whether `units` pages from a page can be allocated together. -/
def runFree (s : State) (larder : Bool) (units page : Nat) : Bool :=
  decide (page % units = 0) && (List.range units).all (fun k => pageFree s larder (page + k))
/-- The lowest k free places at or above a page, within a number of places. -/
def scanFree (s : State) (larder : Bool) (units : Nat) : Nat → Nat → Nat → List Nat
  | 0, _, _ => []
  | _, _, 0 => []
  | fuel + 1, page, k + 1 =>
    if runFree s larder units page then page :: scanFree s larder units fuel (page + units) k
    else scanFree s larder units fuel (page + units) (k + 1)
/-- First page and places of a memory. -/
def pageSpan (s : State) (larder : Bool) (units : Nat) : Nat × Nat :=
  if larder then (0, larderUserEnd / 0x10000 / units) else (cellarBase / 0x10000, (cellarEnd s - cellarBase) / 0x10000 / units)
/-- No two entries are equal. -/
def allDistinct : List Nat → Bool
  | [] => true
  | a :: t => !(t.contains a) && allDistinct t
/-- The k places that Yilium takes: those given, if they are free, or the lowest free ones; none when memory runs out. -/
def pickPages (s : State) (larder : Bool) (units k : Nat) (want : List Nat) : Option (List Nat) :=
  if want.length = k ∧ allDistinct want ∧ want.all (runFree s larder units) then some want
  else
    let sp := pageSpan s larder units
    let found := scanFree s larder units sp.2 sp.1 k
    if found.length = k then some found else none
/-- Give a page to an owner: zero in every byte, no poison (R378). -/
def takePage (s : State) (o : Owner) (page : Nat) : State :=
  { s with
    mem := { s.mem with
      data := s.mem.data.clear (page * 0x10000) 0x10000, owners := bankPut s.mem.owners page o,
      poison := s.mem.poison.filter (fun g => decide (g >>> 10 ≠ page)) } }
/-- Give runs of pages to an owner. -/
def takePages (s : State) (o : Owner) (units : Nat) (ps : List Nat) : State :=
  ps.foldl (fun s p => (List.range units).foldl (fun s k => takePage s o (p + k)) s) s
/-- Translations of every context (the table space, R377). -/
def tableSize (s : State) : Nat := (s.ctxs.map (fun e => e.2.table.length)).sum

/-! ### Mapping (R377 to R380, R418) -/

/-- A range of device addresses meets a translation. -/
def Mapping.meets (m : Mapping) (lo n : Nat) : Bool := decide (m.va < lo + n) && decide (lo < m.va + m.size)
/-- Whether a range of whole pages can take translations: the refusal, if any (R377). -/
def mapRefusal (s : State) (c : Context) (va size n : Nat) : Option Status :=
  if n = 0 ∨ va % size ≠ 0 ∨ 2 ^ 48 < va + n * size then some .invalid
  else if c.table.any (fun m => m.meets va (n * size)) then some .mapped
  else if 786432 < tableSize s + n then some .noMemory
  else none
/-- Enter translations into a table. -/
def addMaps (s : State) (n : Nat) (ms : List Mapping) : State := modCtx s n (fun c => { c with table := c.table ++ ms })

/-- MEM_MAP (R377, R378). -/
def bodyMemMap (mb : MbRef) (want : List Nat) : State → Mailbox → State × Ans :=
  onCtx mb (fun s m n c =>
    let va := reqArg m 1
    let k := reqArg m 2
    let a3 := reqArg m 3
    let large := a3.testBit 0
    let src := a3 / 4 % 4
    let attr : Byte := BitVec.ofNat 8 (a3 / 256 % 16)
    let size := if large then 0x2000000 else 0x10000
    let units := size / 0x10000
    if src = 3 ∨ (attr.getLsbD 2 ∧ src = 2) ∨ (large ∧ src ≠ 0) then refuse s .invalid
    else match mapRefusal s c va size k with
      | some st => refuse s st
      | none =>
        if src = 2 then
          (addMaps s n ((List.range k).map (fun i => ⟨va + i * size, large, .host (reqArg m 4 + i * size), attr, false, none⟩)), .ok)
        else match pickPages s (decide (src = 1)) units k want with
          | none => refuse s .noMemory
          | some ps =>
            let s := takePages s (.ctx n) units ps
            (testFences (addMaps s n ((List.range k).map (fun i =>
              ⟨va + i * size, large, .dev (ps.getD i 0 * 0x10000), attr, true, none⟩))), .ok))
/-- MEM_MAP. -/
def execMemMap (mb : MbRef) (pages : List Nat) (s : State) : Host.Outcome State Fault Refusal :=
  .next (lbStep mb 0x20 false (bodyMemMap mb pages) s)

/-- Whether a range of units names every translation in it whole: the refusal, if any (R380). -/
def unitsRefusal (c : Context) (va n : Nat) : Option Status :=
  let len := n * 0x10000
  let hit := c.table.filter (fun m => m.meets va len)
  if n = 0 ∨ va % 0x10000 ≠ 0 ∨ 2 ^ 48 < va + len then some .invalid
  else if hit.any (fun m => decide (m.va < va) || decide (va + len < m.va + m.size)) then some .invalid
  else if (hit.map Mapping.size).sum < len then some .notMapped
  else none
/-- Whether an access of a context that has been translated has not ended (R379): a read of host memory, a request to another
node, a SIGNAL's atomic among them, or a request that waits at its target port. -/
def accessesOut (s : State) (n : Nat) : Bool :=
  s.host.reqs.any (fun r => decide (r.ctx = n)) ||
  s.link.reqs.any (fun r => decide (r.ctx = n) && (match r.owner with | .red _ => false | _ => true)) ||
  s.streams.any (fun e => decide (e.2.ctx = n) && e.2.held.isSome)
/-- The pages of an allocated translation go back to the pool, or are retired (R259, R379). -/
def freeMap (s : State) (m : Mapping) : State :=
  match m.alloc, m.tgt with
  | true, .dev pa => (List.range (m.size / 0x10000)).foldl (fun s k => freePage s (pa / 0x10000 + k)) s
  | _, _ => s
/-- Remove the translations of a range, their DTC entries first (R379). -/
def unmapRange (s : State) (n lo len : Nat) : State :=
  match ctxOf s n with
  | none => s
  | some c =>
    let gone := c.table.filter (fun m => m.meets lo len)
    let s := dtcFlush (modCtx s n (fun c => { c with table := c.table.filter (fun m => !(m.meets lo len)) })) n lo len
    gone.foldl freeMap s
/-- A range lies in an export of a context. -/
def exported (s : State) (n lo len : Nat) : Bool :=
  s.link.exports.any (fun e => decide (e.2.ctx = n) && decide (e.2.va < lo + len) && decide (lo < e.2.va + e.2.pages * 0x10000))

/-- MEM_UNMAP (R379, R380, R418). -/
def bodyMemUnmap (mb : MbRef) : State → Mailbox → State × Ans :=
  onCtx mb (fun s m n c =>
    let va := reqArg m 1
    let len := reqArg m 2 * 0x10000
    match unitsRefusal c va (reqArg m 2) with
    | some st => refuse s st
    | none =>
      if (match c.arena with | some a => decide (a.base < va + len) && decide (va < a.base + a.size) | none => false) || exported s n va len then
        refuse s .busy
      else if c.table.any (fun x => x.meets va len && x.shid.isSome) then refuse s .denied
      else if accessesOut s n then (s, .wait)
      else (unmapRange s n va len, .ok))
/-- MEM_UNMAP. -/
def execMemUnmap (mb : MbRef) (s : State) : Host.Outcome State Fault Refusal := .next (lbStep mb 0x21 false (bodyMemUnmap mb) s)

/-- A translation re-protected; a page of a shared object keeps SHO (R384). -/
def Mapping.protect (attr : Byte) (m : Mapping) : Mapping := { m with attr := if m.shid.isSome then attr ||| 4 else attr }
/-- MEM_PROTECT (R379, R380). -/
def bodyMemProtect (mb : MbRef) : State → Mailbox → State × Ans :=
  onCtx mb (fun s m n c =>
    let va := reqArg m 1
    let len := reqArg m 2 * 0x10000
    let attr : Byte := BitVec.ofNat 8 (reqArg m 3 % 16)
    match unitsRefusal c va (reqArg m 2) with
    | some st => refuse s st
    | none =>
      if attr.getLsbD 2 && c.table.any (fun x => x.meets va len && (match x.tgt with | .host _ => true | _ => false)) then refuse s .invalid
      else if accessesOut s n then (s, .wait)
      else
        let f : Mapping → Mapping := fun x => if x.meets va len then x.protect attr else x
        (dtcFlush (modCtx s n (fun c => { c with table := c.table.map f })) n va len, .ok))
/-- MEM_PROTECT. -/
def execMemProtect (mb : MbRef) (s : State) : Host.Outcome State Fault Refusal := .next (lbStep mb 0x22 false (bodyMemProtect mb) s)

/-! ### Arenas (R381, R382) -/

/-- A power of two from 1 MiB to 64 GiB. -/
def arenaSize (n : Nat) : Bool := (List.range 17).any (fun k => decide (n = 2 ^ (20 + k)))
/-- ARENA_SET (R381). -/
def bodyArenaSet (mb : MbRef) : State → Mailbox → State × Ans :=
  onCtx mb (fun s m n c =>
    let base := reqArg m 1
    let size := reqArg m 2
    let hit := c.table.filter (fun x => x.meets base size)
    let cover := (hit.map (fun x => min (x.va + x.size) (base + size) - max x.va base)).sum
    if size ≠ 0 ∧ (!(arenaSize size) ∨ base % max 1 size ≠ 0 ∨ 2 ^ 48 < base + size) then refuse s .invalid
    else if size ≠ 0 ∧ cover < size then refuse s .notMapped
    else if size ≠ 0 ∧ hit.any (fun x => !x.r || !x.w || x.sho) then refuse s .invalid
    else if s.ops.any (fun o => decide (o.ctx = n)) then refuse s .busy
    else (modCtx s n (fun c => { c with arena := if size = 0 then none else some ⟨base, size, []⟩ }), .ok))
/-- ARENA_SET. -/
def execArenaSet (mb : MbRef) (s : State) : Host.Outcome State Fault Refusal := .next (lbStep mb 0x23 false (bodyArenaSet mb) s)

/-- ARENA_QUERY (R382). -/
def execArenaQuery (mb : MbRef) (s : State) : Host.Outcome State Fault Refusal :=
  .next (lbStep mb 0x24 true (onCtx mb (fun s _ _ c => (s, .done .ok
    [((c.arena.map (fun a => (a.blocks.map (·.2)).sum)).getD 0), c.arenaFailed, c.badFree]))) s)

/-! ### Shared objects (R384 to R386) -/

/-- A free SHID: the one given, or the lowest. -/
def pickShid (s : State) (want : Nat) : Option Nat :=
  if (bankFind s.shares want).isNone then some want else (List.range 4096).find? (fun k => (bankFind s.shares k).isNone)

/-- SHARE_CREATE (R384). -/
def bodyShareCreate (mb : MbRef) (shid : Nat) (want : List Nat) : State → Mailbox → State × Ans :=
  onCtx mb (fun s m _ _ =>
    if reqArg m 1 = 0 ∨ 1 < reqArg m 2 then refuse s .invalid
    else match pickShid s shid, pickPages s (decide (reqArg m 2 = 1)) 1 (reqArg m 1) want with
      | some k, some ps =>
        let s := takePages s (.share k) 1 ps
        let first := ps.headD 0 * 0x10000
        let s := { s with
          shares := bankPut s.shares k ⟨ps, []⟩,
          mem := { s.mem with data := s.mem.data.write first (toBytes 8 1) } }
        (s, .done .ok [k, first])
      | _, _ => refuse s .noMemory)
/-- SHARE_CREATE. -/
def execShareCreate (mb : MbRef) (shid : Fin 4096) (pages : List Nat) (s : State) : Host.Outcome State Fault Refusal :=
  .next (lbStep mb 0x30 false (bodyShareCreate mb shid.val pages) s)

/-- SHARE_MAP (R384): each mapping holds one REF. -/
def bodyShareMap (mb : MbRef) : State → Mailbox → State × Ans :=
  onCtx mb (fun s m n c =>
    let k := reqArg m 1
    let va := reqArg m 2
    let attr : Byte := BitVec.ofNat 8 (reqArg m 3 % 16) ||| 4
    match bankFind s.shares k with
    | none => refuse s .noObject
    | some x =>
      if x.maps.contains n then refuse s .mapped
      else match mapRefusal s c va 0x10000 x.pages.length with
        | some st => refuse s st
        | none =>
          let ms := (List.range x.pages.length).map (fun i => (⟨va + i * 0x10000, false, .dev (x.pages.getD i 0 * 0x10000), attr, false, some k⟩ : Mapping))
          let s := addMaps s n ms
          (audTake { s with shares := bankPut s.shares k { x with maps := x.maps ++ [n] } } 5 1, .ok))
/-- SHARE_MAP. -/
def execShareMap (mb : MbRef) (s : State) : Host.Outcome State Fault Refusal := .next (lbStep mb 0x31 false (bodyShareMap mb) s)

/-- The count word of a shared object reads 0 (R385); a poisoned one does not. -/
def countZero (s : State) (env : Env) (x : Share) : State × Bool :=
  match readPa s env .sweep none (x.pages.headD 0 * 0x10000) 8 with
  | (s, none, b) => (s, decide (fromBytes b = 0))
  | (s, some _, _) => (s, false)
/-- Free a shared object's pages (R385). -/
def freeShare (s : State) (k : Nat) (x : Share) : State := { x.pages.foldl freePage s with shares := bankErase s.shares k }
/-- A context's mapping of a shared object goes; the object is freed when it was the last and the count is 0 (R385). -/
def unmapShare (s : State) (env : Env) (n k : Nat) : State :=
  match bankFind s.shares k, ctxOf s n with
  | some x, some c =>
    let mine := c.table.filter (fun m => decide (m.shid = some k))
    let s := modCtx s n (fun c => { c with table := c.table.filter (fun m => decide (m.shid ≠ some k)) })
    let s := mine.foldl (fun s m => dtcFlush s n m.va m.size) s
    let x := { x with maps := x.maps.filter (· ≠ n) }
    let s := audGive { s with shares := bankPut s.shares k x } 5 1
    if x.maps.isEmpty then
      let r := countZero s env x
      if r.2 then freeShare r.1 k x else r.1
    else s
  | _, _ => s

/-- SHARE_UNMAP (R379, R385). -/
def execShareUnmap (mb : MbRef) (env : Env) (s : State) : Host.Outcome State Fault Refusal :=
  .next (lbStep mb 0x32 false (onCtx mb (fun s m n _ =>
    match bankFind s.shares (reqArg m 1) with
    | none => refuse s .noObject
    | some x =>
      if !(x.maps.contains n) then refuse s .notMapped
      else if accessesOut s n then (s, .wait)
      else (unmapShare s env n (reqArg m 1), .ok))) s)

/-- SHARE_RELEASE (R385). -/
def execShareRelease (mb : MbRef) (env : Env) (s : State) : Host.Outcome State Fault Refusal :=
  .next (lbStep mb 0x33 false (fun s m =>
    match bankFind s.shares (reqArg m 0) with
    | none => refuse s .noObject
    | some x =>
      if !x.maps.isEmpty then refuse s .busy
      else
        let r := countZero s env x
        if r.2 then (freeShare r.1 (reqArg m 0) x, .ok) else refuse r.1 .busy) s)

/-! ### Kernels (R564) -/

/-- A KHANDLE that is not in use: the one given, or the lowest from 1. -/
def pickHandle (c : Context) (want : Nat) : Nat :=
  if (bankFind c.kernels want).isNone then want
  else (((List.range 257).map (· + 1)).find? (fun h => (bankFind c.kernels h).isNone)).getD 0

/-- KERNEL_LOAD (R564); a read that the host or another node fails refuses it (R337, R421, R433; log entry 36). -/
def bodyKernelLoad (mb : MbRef) (handle : Nat) (env : Env) : State → Mailbox → State × Ans :=
  onCtx mb (fun s m n c =>
    let va := reqArg m 1
    let len := reqArg m 2
    if len = 0 ∨ 2 ^ 48 < va + len then refuse s .invalid
    else match tablePieces s n va len false with
      | none => refuse s .notMapped
      | some ps =>
        match getPieces env .sweep none ps s with
        | (s, .host st, _) => refuse s (if st = .poisoned then .hostPoison else .hostError)
        | (s, .poison _, _) => refuse s .invalid
        | (s, .fault _ _, _) => refuse s .invalid
        | (s, .farPoison _ _, _) => refuse s .invalid
        | (s, .farTimeout node mt, _) => refuse (farTimedOut s node mt) .invalid
        | (s, .ok, bs) =>
          if !(Config.isCodeObject bs s.ifLevel.toNat) then refuse s .invalid
          else if 256 ≤ c.kernels.length then refuse s .noSlot
          else
            let h := pickHandle c handle
            (modCtx s n (fun c => { c with kernels := bankPut c.kernels h bs }), .done .ok [h]))
/-- KERNEL_LOAD. -/
def execKernelLoad (mb : MbRef) (handle : Word) (env : Env) (s : State) : Host.Outcome State Fault Refusal :=
  .next (lbStep mb 0x40 false (bodyKernelLoad mb handle.toNat env) s)

/-- KERNEL_UNLOAD (R350). -/
def execKernelUnload (mb : MbRef) (s : State) : Host.Outcome State Fault Refusal :=
  .next (lbStep mb 0x41 false (onCtx mb (fun s m n c =>
    if (bankFind c.kernels (reqArg m 1)).isNone then refuse s .noObject
    else (modCtx s n (fun c => { c with kernels := bankErase c.kernels (reqArg m 1) }), .ok))) s)

/-! ### CTX_DESTROY (R388) -/

/-- Queues of a context. -/
def queuesOf (s : State) (n : Nat) : List Nat := (s.queues.filter (fun e => decide (e.2.ctx = n))).map (·.1)
/-- Commands of a context with a halted stream. -/
def haltedOps (s : State) (n : Nat) : List OpId := (s.ops.filter (fun o => decide (o.ctx = n) && opHalted s o)).map Op.id
/-- The shared objects that a context maps. -/
def sharesOf (s : State) (n : Nat) : List Nat := (s.shares.filter (fun e => e.2.maps.contains n)).map (·.1)

/-- Steps 1 (its last part) and 3 to 7 of R388. Its exports are withdrawn too (log entry 24). -/
def dropCtx (s : State) (env : Env) (n : Nat) : State :=
  match ctxOf s n with
  | none => s
  | some c =>
    let s := (queuesOf s n).foldl dropQueue s
    let s := unpinPanes (dropResvs s n) n
    let s := if c.resident && !c.lost then clearRegion s n else s
    let s := (sharesOf s n).foldl (fun s k => unmapShare s env n k) s
    let s := unmapRange s n 0 (2 ^ 48)
    let s := dtcFlushAll s n
    { s with
      ctxs := bankErase s.ctxs n, umboxes := bankErase s.umboxes n,
      link := { s.link with exports := s.link.exports.filter (fun e => decide (e.2.ctx ≠ n)) } }

/-- CTX_DESTROY (R388): it waits until every command in flight has completed. -/
def bodyCtxDestroy (mb : MbRef) (env : Env) : State → Mailbox → State × Ans :=
  onCtx mb (fun s _ n _ =>
    let s := (queuesOf s n).foldl (fun s q => forceBegin s env q) s
    let s := endOps .pageFault true (haltedOps s n) s
    if s.ops.any (fun o => decide (o.ctx = n)) ∨ accessesOut s n then (s, .wait)
    else (dropCtx s env n, .ok))
/-- CTX_DESTROY. -/
def execCtxDestroy (mb : MbRef) (env : Env) (s : State) : Host.Outcome State Fault Refusal :=
  .next (lbStep mb 0x02 false (bodyCtxDestroy mb env) s)

end Sys2Proof.Machine
end

