-- ==== Sys2Proof/Machine/LbLink.lean ====
section
/-!
DEFINITION. Letterbox commands on the links and the Truss groups (Table 11.8, R440 to R443, R451, R452).
-/

namespace Sys2Proof.Machine

open Sys2Proof

/-- A link command: a KX1-S refuses it (R8, R450). -/
def onLinks (k : State → Mailbox → State × Ans) (s : State) (m : Mailbox) : State × Ans :=
  if isS s then refuse s .linkAbsent else k s m

/-- A range lies in the Larder below Yilium's own 8 MiB, or in the Cellar (log entry 27). -/
def paSpan (s : State) (pa n : Nat) : Bool :=
  decide (pa + n ≤ larderUserEnd) || (inCellar s pa && decide (pa + n ≤ cellarEnd s))
/-- What Yilium reads at a physical address: none where it cannot be read. -/
def readTable (s : State) (env : Env) (pa n : Nat) : State × Option (List Byte) :=
  if !(paSpan s pa n) then (s, none)
  else match readPa s env .sweep none pa n with
    | (s, none, bs) => (s, some bs)
    | (s, some _, _) => (s, none)

/-! ### Topology and Doors -/

/-- A topology table is loaded: NODEID is set at once and the TRAINED Doors tell it to their peers (R398), and the Doors that R399 permits open (R399, R440). -/
def loadTopo (s : State) (bs : List Byte) : State :=
  let t := parseTopo bs
  tryOpenAll { s with
    nodeId := BitVec.ofNat 16 t.node,
    link := { s.link with
      topo := some t,
      doors := s.link.doors.map (fun e => (e.1, if e.2.state = .trained then { e.2 with linkDue := true } else e.2)) } }

/-- TOPO_LOAD (R440, R452). -/
def bodyTopoLoad (env : Env) : State → Mailbox → State × Ans :=
  onLinks (fun s m =>
    if (List.range 16).any (doorOpen s) then refuse s .busy
    else match readTable s env (reqArg m 0) 704 with
      | (s, none) => refuse s .invalid
      | (s, some bs) =>
        let t := parseTopo bs
        let store := (reqArg m 1).testBit 0
        if !(topoOk bs) ∨ t.nodes ≤ t.node then refuse s .invalid
        else if store ∧ 1000 ≤ s.nvm.topoWrites then refuse s .nvmWorn
        else
          let s := if store then { s with nvm := { s.nvm with topo := some bs, topoWrites := s.nvm.topoWrites + 1 } } else s
          (loadTopo s bs, .ok))
/-- TOPO_LOAD. -/
def execTopoLoad (mb : MbRef) (env : Env) (s : State) : Host.Outcome State Fault Refusal :=
  .next (lbStep mb 0x90 false (bodyTopoLoad env) s)

/-- TOPO_QUERY: MODE and CHECK are 0 while no table is loaded. -/
def execTopoQuery (mb : MbRef) (s : State) : Host.Outcome State Fault Refusal :=
  .next (lbStep mb 0x91 false (onLinks (fun s _ => (s, .done .ok (match s.link.topo with
    | some t => [s.nodeId.toNat, t.mode, t.check.toNat]
    | none => [s.nodeId.toNat, 0, 0])))) s)

/-- Start a Door that a mask names: training after DOWN or DISABLED (R438), opening where it stays TRAINED (R399, R439). -/
def startDoor (mask : Nat) (s : State) (d : Nat) : State :=
  if !(mask.testBit d) then s
  else match (doorOf s d).state with
    | .disabled => modDoor s d (fun x => { x with state := .training, retrains := 0 })
    | .down => modDoor s d (fun x => { x with state := .training, retrains := 0 })
    | .trained => tryOpen s d
    | _ => s
/-- LINK_OPEN (R438). -/
def execLinkOpen (mb : MbRef) (s : State) : Host.Outcome State Fault Refusal :=
  .next (lbStep mb 0x92 false (onLinks (fun s m => ((List.range 16).foldl (startDoor (reqArg m 0)) s, .ok))) s)

/-- A Door is closed (R439): its credits are withdrawn and it stays TRAINED; what it had not sent goes by ALT or fails; LINK_DOWN
names the cause 4 (Table 11.9). Flits stay in the replay buffer until they are acknowledged (R403), and received messages are
still delivered (R406). -/
def closeDoor (s : State) (d : Nat) : State :=
  if doorOpen s d then
    let unsent := [2, 3, 4, 5, 0, 1].flatMap (fun code => bankGet (doorOf s d).sendQ [] code)
    let s := [0, 1, 2].foldl (fun s v => backCred s d v (dcLevel (doorOf s d) v).toNat) s
    let s := { s with link := { s.link with inbox := s.link.inbox.map (fun e => if e.door = d then { e with flits := [] } else e) } }
    let s := modDoor s d (fun x => { x with
      state := .trained, txCred := [], sendQ := [], owed := [], rspFirst := false, rxFlits := [], linkDue := true })
    let s := raiseEvent s 0x41 noCtx d 4
    releaseHeld (unsent.foldl reroute s)
  else s
/-- Doors that a mask names. -/
def maskDoors (mask : Nat) : List Nat := (List.range 16).filter (fun d => mask.testBit d)
/-- LINK_CLOSE (R439): it waits for the answers to what was sent, and for the rest of a message begun. -/
def execLinkClose (mb : MbRef) (s : State) : Host.Outcome State Fault Refusal :=
  .next (lbStep mb 0x93 false (onLinks (fun s m =>
    let ds := (maskDoors (reqArg m 0)).filter (doorOpen s)
    if s.link.reqs.any (fun r => match r.door with | some d => ds.contains d | none => false) ||
        ds.any (fun d => (doorOf s d).partTx.any (fun e => !e.2.isEmpty)) then (s, .wait)
    else (ds.foldl closeDoor s, .ok))) s)

/-- LINK_QUERY. -/
def execLinkQuery (mb : MbRef) (s : State) : Host.Outcome State Fault Refusal :=
  .next (lbStep mb 0x94 false (onLinks (fun s m =>
    let d := reqArg m 0
    if 15 < d then refuse s .invalid
    else (s, .done .ok [(readDoor s d 0).toNat, (doorOf s d).fecCorr.toNat, (doorOf s d).fecUnc.toNat]))) s)

/-! ### Exports and remote translations (R417, R418, R423) -/

/-- What EXPORT_SET refuses in a page: no translation, or one that is not local or has the other SHO (R417). -/
def exportPage (c : Context) (sho : Bool) (va : Nat) : Option Status :=
  match c.table.find? (fun m => m.covers va) with
  | none => some .notMapped
  | some m => match m.tgt with
    | .dev _ => if m.sho = sho then none else some .invalid
    | _ => some .invalid
/-- EXPORT_SET (R417): an ATOM export needs SHO, another export its absence (log entry 25). -/
def execExportSet (mb : MbRef) (s : State) : Host.Outcome State Fault Refusal :=
  .next (lbStep mb 0x95 false (onLinks (fun s m =>
    let k := reqArg m 0
    let va := reqArg m 2
    let n := reqArg m 3
    let a4 := reqArg m 4
    let a5 := reqArg m 5
    match ctxOf s (reqArg m 1) with
    | none => refuse s .noObject
    | some c =>
      if 63 < k ∨ n = 0 ∨ va % 0x10000 ≠ 0 ∨ 2 ^ 48 < va + n * 0x10000 then refuse s .invalid
      else match (List.range n).findSome? (fun i => exportPage c (a4.testBit 2) (va + i * 0x10000)) with
        | some st => refuse s st
        | none =>
          let e : Export := { ctx := reqArg m 1, va := va, pages := n, r := a4.testBit 0, w := a4.testBit 1, atom := a4.testBit 2,
                              lo := a5 % 65536, hi := a5 / 65536 % 65536 }
          ({ s with link := { s.link with exports := bankPut s.link.exports k e } }, .ok))) s)

/-- EXPORT_CLEAR (R418): it waits for the atomics queued through the export. -/
def execExportClear (mb : MbRef) (s : State) : Host.Outcome State Fault Refusal :=
  .next (lbStep mb 0x96 false (onLinks (fun s m =>
    let k := reqArg m 0
    if (bankFind s.link.exports k).isNone then refuse s .noObject
    else if s.link.atomq.any (fun x => decide (x.addr / 2 ^ 42 % 64 = k)) then (s, .wait)
    else ({ s with link := { s.link with exports := bankErase s.link.exports k } }, .ok))) s)

/-- REMOTE_MAP (R423, R377). -/
def bodyRemoteMap (mb : MbRef) : State → Mailbox → State × Ans :=
  onLinks (onCtx mb (fun s m n c =>
    let va := reqArg m 1
    let k := reqArg m 2
    let node := reqArg m 3
    match s.link.topo with
    | none => refuse s .invalid
    | some t =>
      if t.nodes ≤ node ∨ 63 < reqArg m 4 ∨ 2 ^ 26 < reqArg m 5 + k then refuse s .invalid
      else match mapRefusal s c va 0x10000 k with
        | some st => refuse s st
        | none =>
          let attr : Byte := BitVec.ofNat 8 (reqArg m 6 % 16)
          (addMaps s n ((List.range k).map (fun i =>
            ⟨va + i * 0x10000, false, .remote node (reqArg m 4) (reqArg m 5 + i), attr, false, none⟩)), .ok)))
/-- REMOTE_MAP. -/
def execRemoteMap (mb : MbRef) (s : State) : Host.Outcome State Fault Refusal := .next (lbStep mb 0x97 false (bodyRemoteMap mb) s)

/-! ### Truss groups (R442, R443) -/

/-- Whether a group is bound to a queue. -/
def groupBound (s : State) (g : Nat) : Bool := s.queues.any (fun e => decide (e.2.group = some g))
/-- Whether a tree of a group is open. -/
def groupOpen (s : State) (g : Nat) : Bool :=
  s.trees.any (fun t => t.open_ && (match findOp s t.op with
    | some o => (match o.cmd with | .window c => decide (c.splitN ≠ 0) && decide (trussGroup s o = g) | _ => false)
    | none => false))
/-- A group that is bound or has an open tree keeps its table (R443). -/
def groupBusy (s : State) (g : Nat) : Bool := (bankFind s.link.groups g).isSome && (groupBound s g || groupOpen s g)
/-- The ranks of a group table. -/
def parseGroup (bs : List Byte) (n : Nat) : List (Nat × Nat) :=
  (List.range n).map (fun i => (field bs (4 * i) 2, field bs (4 * i + 2) 1 % 8))

/-- TRUSS_GROUP (R443). DEDUCED (log entry 40): R8 and R443 name no order of refusals, and a GROUP above 255 or a count of entries
outside 1 to 65,536 is refused with INVALID first, before the table is read and LINK_ABSENT can be judged. -/
def bodyTrussGroup (env : Env) (s : State) (m : Mailbox) : State × Ans :=
  let g := reqArg m 0
  let n := reqArg m 2
  if 255 < g ∨ n = 0 ∨ 65536 < n then refuse s .invalid
  else match readTable s env (reqArg m 1) (4 * n) with
    | (s, none) => refuse s .invalid
    | (s, some bs) =>
      let rs := parseGroup bs n
      let other := rs.any (fun e => decide (e.1 ≠ s.nodeId.toNat))
      if other && isS s then refuse s .linkAbsent
      else if other && s.link.topo.isNone then refuse s .invalid
      else if groupBusy s g then refuse s .busy
      else
        let crc := crc32 bs
        ({ s with link := { s.link with groups := bankPut s.link.groups g ⟨rs, crc⟩ } }, .done .ok [crc.toNat])
/-- TRUSS_GROUP. -/
def execTrussGroup (mb : MbRef) (env : Env) (s : State) : Host.Outcome State Fault Refusal :=
  .next (lbStep mb 0x98 false (bodyTrussGroup env) s)

/-- A group's partials are counted from its binding (R444). -/
def restartGroup (s : State) (g : Nat) : State :=
  if groupBound s g then s
  else { s with
    link := { s.link with
      kths := s.link.kths.filter (fun e => decide (e.1 / 2251799813685248 ≠ g)),
      timedOut := s.link.timedOut.filter (fun e => decide (e.1 ≠ g)) } }
/-- TRUSS_BIND (R442). -/
def execTrussBind (mb : MbRef) (s : State) : Host.Outcome State Fault Refusal :=
  .next (lbStep mb 0x99 false (onQueue mb (fun s m q _ =>
    let g := reqArg m 1 % 256
    if (reqArg m 1).testBit 8 then (modQueue s q (fun x => { x with group := none }), .ok)
    else if (bankFind s.link.groups g).isNone then refuse s .noObject
    else (modQueue (restartGroup s g) q (fun x => { x with group := some g }), .ok))) s)

/-- TRUSS_CLEAR (Table 11.8). -/
def execTrussClear (mb : MbRef) (s : State) : Host.Outcome State Fault Refusal :=
  .next (lbStep mb 0x9A false (fun s m =>
    let g := reqArg m 0
    if (bankFind s.link.groups g).isNone then refuse s .noObject
    else if groupBusy s g then refuse s .busy
    else ({ s with link := { s.link with groups := bankErase s.link.groups g } }, .ok)) s)

end Sys2Proof.Machine
end

