-- ==== Sys2Proof/Machine/LbService.lean ====
section
/-!
DEFINITION. Letterbox commands of service and security (Table 13.12, R505 to R521, R529) and of power and reset (Table 12.8).
-/

namespace Sys2Proof.Machine

open Sys2Proof

/-! ### Words of an answer -/

/-- Bytes as 64-bit result words, little-endian, the last filled with zeros. -/
def toWords : Nat → List Byte → List Nat
  | 0, _ => []
  | n + 1, bs => if bs.isEmpty then [] else fromBytes (bs.take 8) :: toWords n (bs.drop 8)
/-- Bytes as result words. -/
def resultWords (bs : List Byte) : List Nat := toWords (bs.length / 8 + 1) bs

/-! ### Yilium images (Table 13.6, R506) -/

/-- Body bytes of an image. -/
def imgLen (b : List Byte) : Nat := field b 8 4
/-- Header and body of an image. -/
def imgSigned (b : List Byte) : List Byte := b.take (256 + imgLen b)
/-- SVN of an image. -/
def imgSvn (b : List Byte) : Nat := field b 6 1
/-- Key slot of an image. -/
def imgSlot (b : List Byte) : Nat := field b 7 1 % 4
/-- The slots that an image revokes at its commit: REVOKE without its own slot (R513). -/
def imgRevoke (b : List Byte) : BitVec 4 := BitVec.ofNat 4 (field b 7 1 / 16) &&& ~~~(BitVec.ofNat 4 (2 ^ imgSlot b))
/-- PUBKEY of an image. -/
def imgKey (b : List Byte) : List Byte := (b.drop 12).take 97
/-- SIG of an image. -/
def imgSig (b : List Byte) : List Byte := (b.drop (256 + imgLen b)).take 96
/-- The measurement of an image: SHA-384 of its header and body. -/
def imgMeas (b : List Byte) : BitVec 384 := Config.sha384 (imgSigned b)
/-- The check of R506. -/
def imgAccepted (s : State) (b : List Byte) : Bool :=
  decide (field b 0 4 = 0x4B584631) && decide (field b 4 1 = 1) && decide (imgLen b ≤ 8388096) && decide (256 + imgLen b + 96 ≤ b.length) &&
  !(s.fuses.keyRev.getLsbD (imgSlot b)) && decide (s.fuses.keyHash[imgSlot b]? = some (Config.sha384 (imgKey b))) &&
  Config.ecdsaVerify (imgKey b) (imgSigned b) (imgSig b) && decide (s.fuses.svn ≤ imgSvn b)
/-- The image of a bank: false A, true B. -/
def bankImage (s : State) (b : Bool) : List Byte := if b then s.nvm.bankB else s.nvm.bankA
/-- Write a bank. -/
def writeBank (s : State) (b : Bool) (img : List Byte) : State :=
  { s with nvm := if b then { s.nvm with bankB := img } else { s.nvm with bankA := img } }

/-! ### Attestation (Table 13.7, R516, R517) -/

/-- SHA-384 of a record, 0 where there is none. -/
def recordMeas (r : Option (List Byte)) : Nat :=
  match r with
  | some b => (Config.sha384 b).toNat
  | none => 0
/-- Bytes 0 to 255 of the report. -/
def reportBody (s : State) (nonce : List Byte) : List Byte :=
  let state := bit s.nvm.bank + 2 * bit s.fuses.jtagLock + 4 * bit s.nvm.everTest
  toBytes 4 1 ++ toBytes 4 (readIdent s 0).toNat ++ toBytes 8 s.fuses.serial.toNat ++ toBytes 48 (imgMeas s.thresh.running).toNat ++
  toBytes 1 s.fuses.svn ++ toBytes 1 s.fuses.keyRev.toNat ++ toBytes 1 state ++ toBytes 1 s.fuses.testCnt ++
  toBytes 48 (recordMeas s.nvm.boardCfg) ++ toBytes 48 (recordMeas (s.link.topo.map (·.bytes))) ++ toBytes 8 s.nvm.frecSum.pos ++ nonce ++
  List.replicate 52 0
/-- ATTEST (R516, R517). -/
def execAttest (mb : MbRef) (s : State) : Host.Outcome State Fault Refusal :=
  .next (lbStep mb 0xB0 false (fun s m =>
    if s.thresh.tstate = .test ∨ s.thresh.tstate = .recovery then refuse s .denied
    else
      let nonce := (List.range 4).flatMap (fun i => toBytes 8 (reqArg m i))
      let body := reportBody s nonce
      (s, .done .ok (resultWords (body ++ toBytes 96 (Config.identitySign body).toNat)))) s)

/-- CERT_READ: the chain's length and up to 1,024 bytes from an offset. -/
def execCertRead (mb : MbRef) (s : State) : Host.Outcome State Fault Refusal :=
  .next (lbStep mb 0xB1 false (fun s m =>
    (s, .done .ok (s.nvm.certs.length :: resultWords ((s.nvm.certs.drop (reqArg m 0)).take 1024)))) s)

/-! ### The failure record as stored (Tables 13.3 and 13.4, R505) -/

/-- An entry's bytes. -/
def frecBytes (e : FrecEntry) : List Byte :=
  toBytes 8 e.time ++ toBytes 1 e.kind ++ toBytes 1 e.unit ++ toBytes 1 e.index ++ toBytes 1 e.cause ++ toBytes 8 e.paddr ++ toBytes 2 e.ctx ++
  toBytes 2 e.tpol.toNat ++ toBytes 2 e.pavg.toNat ++ toBytes 2 e.cspeed.toNat ++ toBytes 1 e.thlvl.toNat ++ toBytes 1 e.rstc.toNat ++
  toBytes 2 e.railStat.toNat ++ List.replicate 32 0
/-- The summary's bytes. -/
def sumBytes (x : FrecSum) : List Byte :=
  toBytes 8 x.pos ++ toBytes 4 x.coldCnt ++ (List.range 9).flatMap (fun l => toBytes 4 (x.lampH.getD l 0)) ++ toBytes 2 (unsigned 16 x.tmax) ++
  toBytes 4 x.t95s ++ toBytes 4 x.t100s ++ toBytes 2 x.tripCnt ++ toBytes 4 x.railSecs ++ toBytes 4 x.ceCnt ++ toBytes 2 x.nEntry ++
  toBytes 4 x.ovf ++ List.replicate 182 0
/-- FREC_READ (R505): up to 16 entries from one, or the summary. -/
def execFrecRead (mb : MbRef) (s : State) : Host.Outcome State Fault Refusal :=
  .next (lbStep mb 0xB2 false (fun s m =>
    let body := if reqArg m 0 = 0xFFFFFFFF then sumBytes s.nvm.frecStored else ((s.nvm.frec.drop (reqArg m 0)).take 16).flatMap frecBytes
    (s, .done .ok (s.nvm.frec.length :: resultWords body))) s)

/-! ### Firmware (R511 to R514) -/

/-- FW_STAGE (R511). -/
def execFwStage (mb : MbRef) (env : Env) (s : State) : Host.Outcome State Fault Refusal :=
  .next (lbStep mb 0xB3 false (fun s m =>
    if 8388608 < reqArg m 1 then refuse s .invalid
    else match readTable s env (reqArg m 0) (reqArg m 1) with
      | (s, none) => refuse s .invalid
      | (s, some b) =>
        if imgAccepted s b then (raiseEvent (writeBank s (!s.nvm.bank) b) 0x85 noCtx (imgSvn b) 0, .ok) else refuse s .denied) s)
/-- FW_ACTIVATE (R512). -/
def execFwActivate (mb : MbRef) (s : State) : Host.Outcome State Fault Refusal :=
  .next (lbStep mb 0xB4 false (fun s _ =>
    if imgAccepted s (bankImage s (!s.nvm.bank)) then ({ s with nvm := { s.nvm with pend := true, switchDue := true } }, .ok)
    else refuse s .noObject) s)
/-- The fuses that a commit blows (R513, R514). -/
def blowFuses (s : State) (svn : Nat) (revoke : BitVec 4) : State :=
  { s with fuses := { s.fuses with svn := max s.fuses.svn (min 64 svn), keyRev := s.fuses.keyRev ||| revoke } }
/-- FW_COMMIT (R513): another time it is refused with DENIED (log entry 28). -/
def execFwCommit (mb : MbRef) (s : State) : Host.Outcome State Fault Refusal :=
  .next (lbStep mb 0xB5 false (fun s _ =>
    if !s.nvm.activated then refuse s .denied
    else
      let img := s.thresh.running
      let s := blowFuses s (imgSvn img) (imgRevoke img)
      let s := { s with nvm := { s.nvm with pend := false } }
      (raiseEvent s 0x81 noCtx s.fuses.svn (imgRevoke img).toNat, .ok)) s)
/-- FW_QUERY. -/
def execFwQuery (mb : MbRef) (s : State) : Host.Outcome State Fault Refusal :=
  .next (lbStep mb 0xB6 false (fun s _ =>
    let act := bankImage s s.nvm.bank
    let oth := bankImage s (!s.nvm.bank)
    (s, .done .ok [bit s.nvm.bank + 2 * bit (imgAccepted s oth) + 256 * imgSvn act + 65536 * imgSvn oth + 16777216 * s.fuses.svn,
      field act 5 1])) s)

/-! ### Test modes (Tables 13.8 and 13.9, R519 to R523) -/

/-- TEST_CHALLENGE (R519): `rnd` is the fresh random value. -/
def execTestChallenge (mb : MbRef) (rnd : BitVec 256) (s : State) : Host.Outcome State Fault Refusal :=
  .next (lbStep mb 0xB7 false (fun s _ =>
    ({ s with thresh := { s.thresh with challenge := some rnd } }, .done .ok (resultWords (toBytes 32 rnd.toNat)))) s)
/-- CHALLENGE_EXPIRY (R519). -/
def execChallengeExpiry (s : State) : Host.Outcome State Fault Refusal := .next { s with thresh := { s.thresh with challenge := none } }

/-- The checks of R520 on a token. -/
def tokenOk (s : State) (b : List Byte) : Bool :=
  decide (field b 0 4 = 0x4B585431) && decide (field b 4 8 = s.fuses.serial.toNat) && decide (1 ≤ field b 12 4) && decide (field b 12 4 ≤ 15) &&
  (match s.thresh.challenge with | some c => decide (field b 16 32 = c.toNat) | none => false) &&
  Config.testVerify s.fuses.testHash (b.take 48) ((b.drop 48).take 96) && decide (s.fuses.testCnt < 16)
/-- Every context with its work is destroyed (Table 13.9, step 3). -/
def destroyAll (s : State) (env : Env) : State :=
  let s := endOps .aborted true (s.ops.map Op.id) s
  let s := audGive { s with ops := [] } 0 s.ops.length
  (s.ctxs.map (·.1)).foldl (fun s n => dropCtx s env n) s
/-- Zero with a valid code in the Larder, the Pantries and the Cellar (Table 13.9, step 4); slots hold nothing. -/
def wipeMemory (s : State) : State :=
  { s with
    mem := { s.mem with data := ⟨[]⟩, poison := [] },
    pantries := s.pantries.map (fun e => (e.1, { e.2 with sram := ⟨[]⟩, dir := [] })) }
/-- The customer region at its factory values (Table 13.9, step 5). -/
def eraseCustomer (s : State) : State := { s with nvm := { s.nvm with boardCfg := none, topo := none, auxVals := [] } }
/-- Table 13.9, steps 2 to 6. -/
def enterTest (s : State) (env : Env) : State :=
  let s := { s with
    fuses := { s.fuses with testCnt := s.fuses.testCnt + 1 }, nvm := { s.nvm with wipePending := true, everTest := true },
    thresh := { s.thresh with challenge := none } }
  let s := parkAll (lampOff (destroyAll s env))
  let s := (List.range 16).foldl closeDoor s
  let s := eraseCustomer (wipeMemory s)
  let s := { s with nvm := { s.nvm with wipePending := false }, thresh := { s.thresh with tstate := .test } }
  addFrec s 18 0 0 0 0 noCtx
/-- TEST_UNLOCK (R520, R521). One that is refused changes no state, so that the challenge stays valid (DEDUCED, log entry 105). -/
def execTestUnlock (mb : MbRef) (env : Env) (s : State) : Host.Outcome State Fault Refusal :=
  .next (lbStep mb 0xB8 false (fun s m =>
    if reqArg m 1 ≠ 144 then refuse s .invalid
    else match readTable s env (reqArg m 0) 144 with
      | (s, none) => refuse s .invalid
      | (s, some b) => if tokenOk s b then (enterTest s env, .ok) else refuse s .denied) s)

/-- BOARD_CFG_SET (R529). -/
def execBoardCfgSet (mb : MbRef) (env : Env) (s : State) : Host.Outcome State Fault Refusal :=
  .next (lbStep mb 0xB9 false (fun s m =>
    if 4096 < reqArg m 1 then refuse s .invalid
    else match readTable s env (reqArg m 0) (reqArg m 1) with
      | (s, none) => refuse s .invalid
      | (s, some b) =>
        if 1000 ≤ s.nvm.boardWrites then refuse s .nvmWorn
        else ({ s with nvm := { s.nvm with boardCfg := some b, boardWrites := s.nvm.boardWrites + 1 } }, .ok)) s)

/-! ### Power and reset (Table 12.8) -/

/-- PWR_LIMIT. -/
def execPwrLimit (mb : MbRef) (s : State) : Host.Outcome State Fault Refusal :=
  .next (lbStep mb 0xD0 false (fun s m =>
    if reqArg m 0 < 300 ∨ 480 < reqArg m 0 then refuse s .invalid
    else ({ s with power := { s.power with plimit := BitVec.ofNat 9 (reqArg m 0) } }, .ok)) s)
/-- RESET_PART: the OK response now, an Internal reset 10 ms later (INTERNAL_RESET). -/
def execResetPart (mb : MbRef) (s : State) : Host.Outcome State Fault Refusal :=
  .next (lbStep mb 0xD1 false (fun s _ => ({ s with internalCause := some 6 }, .ok)) s)
/-- COOL_LIMIT. -/
def execCoolLimit (mb : MbRef) (s : State) : Host.Outcome State Fault Refusal :=
  .next (lbStep mb 0xD2 false (fun s m =>
    if reqArg m 0 < 20 ∨ 60 < reqArg m 0 then refuse s .invalid
    else ({ s with power := { s.power with coolMax := BitVec.ofNat 16 (128 * reqArg m 0) } }, .ok)) s)

end Sys2Proof.Machine
end

