-- ==== Sys2Proof/Machine/HostAccess.lean ====
section
/-!
DEFINITION. The host's accesses beside BAR0 registers and mailboxes: doorbells (R313 to R319, R360), BAR4 (R321 to R328),
AtomicOps (R329 to R332), configuration requests (R305, R306) and TLPs that nothing serves (R343, Table 9.6).
-/

namespace Sys2Proof.Machine

open Sys2Proof

/-! ### Doorbells -/

/-- A doorbell write that is discarded (R316). -/
def doorbellRejected (s : State) : State :=
  { s with host := { s.host with dbRej := s.host.dbRej + 1, flags := s.host.flags ||| 16 } }
/-- Commands of a queue decoded and not completed, counted from the oldest (R360): HEAD minus OLDEST. -/
def oldestBack (s : State) (n : Nat) (q : Queue) : Nat :=
  ((s.ops.filter (fun o => decide (o.q = n))).map (fun o => (q.head + 65536 - o.idx) % 65536)).foldl max 0
/-- TAIL of a doorbell would name more than RINGN commands from the oldest incomplete one (R360). -/
def overRing (s : State) (n : Nat) (q : Queue) (tail : Nat) : Bool :=
  decide (q.ringN < (tail + 65536 + oldestBack s n q - q.head) % 65536)
/-- An accepted doorbell (R315, R317, R319, R355, R360). -/
def ringQueue (s : State) (n : Nat) (q : Queue) (val : Word) : State :=
  let tail := val.toNat % 65536
  let s := { s with host := { s.host with dbAcc := s.host.dbAcc + 1 }, bellClock := s.bellClock + 1 }
  let behind := overRing s n q tail
  let s := modQueue s n (fun x => { x with bell := val, ovr := x.ovr || behind, tail := if behind then x.tail else tail })
  modCtx s q.ctx (fun c => { c with bellAge := s.bellClock, wantRes := c.wantRes || (!c.resident && !c.lost) })

/-- One 32-bit write to a doorbell word (R315, R316). A queue that is being destroyed takes no doorbell (log entry 29). -/
def doorbellWord (s : State) (page slot : Nat) (val : Word) : State :=
  match queueOf s slot with
  | some q => if q.ctx = page ∧ ¬ q.dying then ringQueue s slot q val else doorbellRejected s
  | none => doorbellRejected s

/-- DOORBELL_WRITE (R309, R315, R316, R318): a 64-bit write of two doorbell words is two doorbells, the lower address first; past
DB255 lies a reserved offset (R310). -/
def execDoorbellWrite (page : Fin 4096) (slot : Fin 256) (val : Word) (be : BitVec 4) (more : Option Word2) (s : State) :
    Host.Outcome State Fault Refusal :=
  .next (if !(barUp s) then notUp s (.write 2 (4096 * page.val + 4 * slot.val) (if more.isSome then 8 else 4)) true
    else if inRecovery s then s
    else match judge s 2 (4096 * page.val + 4 * slot.val) be more with
      | (s, false) => s
      | (s, true) =>
        let s := doorbellWord s page.val slot.val val
        match more with
        | some w => if slot.val + 1 < 256 then doorbellWord s page.val (slot.val + 1) w.val else s
        | none => s)

/-! ### The range table (R321 to R324) -/

/-- An entry covers a BAR4 offset. -/
def RangeEnt.covers (e : RangeEnt) (off : Nat) : Bool :=
  e.en && decide (e.base.toNat ≤ off / 65536) && decide (off / 65536 < min 16384 (e.base.toNat + e.size.toNat))
/-- Entries that match an offset, lowest number first. -/
def rangeHits (s : State) (off : Nat) : List RangeEnt :=
  ((List.range 16).map (fun k => bankGet s.host.ranges RangeEnt.reset k)).filter (fun e => e.covers off)
/-- The physical address of an offset in an entry. -/
def RangeEnt.addr (e : RangeEnt) (off : Nat) : Nat := e.pa.toNat * 65536 + (off - e.base.toNat * 65536)
/-- Look an offset up; several matches are counted (R303, R321). -/
def rangeLookup (s : State) (off : Nat) : State × Option RangeEnt :=
  let h := rangeHits s off
  (if 2 ≤ h.length then { s with host := { s.host with flags := s.host.flags ||| 2, rtmhCnt := s.host.rtmhCnt + 1 } } else s, h.head?)
/-- Every granule of an access is memory that the host may reach (R322). -/
def hostReach (s : State) (pa n : Nat) : Bool := (granulesOf pa n).all (fun g => paUser s (64 * g))
/-- A refused BAR4 access (R322). -/
def bar4Refused (s : State) (t : Tlp) : State :=
  aer { s with host := { s.host with flags := s.host.flags ||| 4, rtmissCnt := s.host.rtmissCnt + 1 } } .unsupportedRequest (some t)
/-- A read completion with Unsupported Request. -/
def urCompletion (s : State) : State := emit s (.completion false false [])

/-! ### BAR4 (R322, R325, R326, R554) -/

/-- A BAR4 read. -/
def bar4Read (s : State) (env : Env) (off len : Nat) : State :=
  match rangeLookup s off with
  | (s, some e) =>
    if hostReach s (e.addr off) len then
      match readPa s env .host none (e.addr off) len with
      | (s, none, bs) => emit s (.completion true false bs)
      | (s, some _, _) => emit s (.completion true true [])
    else urCompletion (bar4Refused s (.read 4 off len))
  | (s, none) => urCompletion (bar4Refused s (.read 4 off len))
/-- BAR4_READ (R321, R325). -/
def execBar4Read (off : Nat) (len : Nat) (env : Env) (s : State) : Host.Outcome State Fault Refusal :=
  .next (if !(barUp s) then notUp s (.read 4 off len) false
    else if inRecovery s then emit s (.completion true false (List.replicate len 0))
    else bar4Read s env off len)

/-- Poison the granules of a poisoned write (R326): POISCNT counts those that were not poisoned, and R259 applies. -/
def poisonGranules (gs : List Nat) (s : State) : State :=
  gs.foldl (fun s g =>
    if s.mem.poison.contains g then s
    else
      let s := setPoison s g
      poisonedPage { s with mem := { s.mem with poisCnt := s.mem.poisCnt + 1 } } (64 * g)) s
/-- A BAR4 write. -/
def bar4Write (s : State) (env : Env) (off : Nat) (data : List Byte) (poisoned : Bool) : State :=
  match rangeLookup s off with
  | (s, some e) =>
    let pa := e.addr off
    let tlp : Tlp := .write 4 off data.length
    if !(hostReach s pa data.length) || !e.wen then bar4Refused s tlp
    else match firstOut s pa data.length with
      | some g => bar4Refused (elog s (64 * g) (ownerCtx s (64 * g)) .host) tlp
      | none =>
        let s := writePa s env .host pa data
        let s := if poisoned then aer (poisonGranules (granulesOf pa data.length) s) .poisonedTlp (some tlp) else s
        testFences s
  | (s, none) => bar4Refused s (.write 4 off data.length)
/-- BAR4_WRITE (R326). -/
def execBar4Write (off : Nat) (data : List Byte) (poisoned : Bool) (env : Env) (s : State) : Host.Outcome State Fault Refusal :=
  .next (if !(barUp s) then notUp s (.write 4 off data.length) true
    else if inRecovery s then s else bar4Write s env off data poisoned)

/-! ### AtomicOps (R329 to R332) -/

/-- A refused AtomicOp (R330). -/
def atomRefused (s : State) (off size : Nat) : State :=
  urCompletion (aer { s with host := { s.host with flags := s.host.flags ||| 32 } } .unsupportedRequest (some (.atomic off size)))
/-- An AtomicOp at a physical address: `f` gives the new value from the old one; the old one is returned. -/
def hostAtomic (s : State) (env : Env) (pa : Nat) (f : Nat → Nat) : State :=
  match readPa s env .host none pa 8 with
  | (s, some _, _) => emit s (.completion true true [])
  | (s, none, bs) =>
    let s := putLong { s with host := { s.host with atomCnt := s.host.atomCnt + 1 } } env .host pa (f (fromBytes bs))
    emit s (.completion true false bs)
/-- An AtomicOp as received (R329, R330). -/
def atomicOp (s : State) (env : Env) (off size : Nat) (f : Nat → Nat) : State :=
  if !(barUp s) then notUp s (.atomic off size) false
  else if inRecovery s then atomRefused s off size
  else match rangeLookup s off with
    | (s, some e) =>
      if size = 8 ∧ off % 8 = 0 ∧ e.wen ∧ e.atom ∧ hostReach s (e.addr off) 8 then hostAtomic s env (e.addr off) f else atomRefused s off size
    | (s, none) => atomRefused s off size

/-- ATOMIC_FETCHADD (R329). -/
def execAtomicFetchadd (off : Nat) (size : Nat) (operand : Long) (env : Env) (s : State) : Host.Outcome State Fault Refusal :=
  .next (atomicOp s env off size (fun old => atomVal 0 old operand.toNat 0))
/-- ATOMIC_SWAP (R329). -/
def execAtomicSwap (off : Nat) (size : Nat) (operand : Long) (env : Env) (s : State) : Host.Outcome State Fault Refusal :=
  .next (atomicOp s env off size (fun old => atomVal 1 old operand.toNat 0))
/-- ATOMIC_CAS (R329). -/
def execAtomicCas (off : Nat) (size : Nat) (compare : Long) (operand : Long) (env : Env) (s : State) : Host.Outcome State Fault Refusal :=
  .next (atomicOp s env off size (fun old => atomVal 2 old operand.toNat compare.toNat))

/-! ### Configuration and other TLPs -/

/-- Capabilities that the part has: power management, PCI Express and MSI-X, but not MSI (Table 9.1). -/
def capIds : List Nat := [0x01, 0x10, 0x11]
/-- Extended capabilities: AER, and those that the rates of Table 9.1 need; not ATS, SR-IOV, PRI, Resizable BAR, PASID or L1 PM
substates, which Table 9.1 leaves out. -/
def extCapIds : List Nat := [0x0001, 0x0019, 0x0025, 0x0026, 0x0027, 0x002A, 0x0031]

/-- Bits of a BAR that are hard-wired: its size, and whether it is the upper half of one (Table 9.2). -/
def barMask (n : Nat) : Word := match n with | 0 => 0xFC000000 | 2 => 0xFF000000 | 4 => 0xC0000000 | _ => 0xFFFFFFFF
/-- The type bits of a BAR: 64-bit, BAR4 prefetchable. -/
def barType (n : Nat) : Word := match n with | 0 => 4 | 2 => 4 | 4 => 12 | _ => 0

/-- What a read of configuration space returns (Table 9.1, R304; layouts of the standard, log entry 101). -/
def cfgRead (s : State) (r : CfgReg) : CfgAns :=
  let h := s.host
  let c := h.cfg
  match r with
  | .headerType => .value 0
  | .romBar => .value 0
  | .bar n => .value (bankGet c.bars 0 n.val ||| barType n.val)
  | .cap id => .value (BitVec.ofNat 32 (bit (capIds.contains id)))
  | .extCap id => .value (BitVec.ofNat 32 (bit (extCapIds.contains id)))
  | .msixCtl => .value (pack [(2047, 0), (bit h.msixMask, 14), (bit h.msixEn, 15)])
  | .msixTable => .value 0x80000
  | .msixPba => .value 0x88000
  | .pmCap => .value 3
  | .pmCtl => .value (pack [(if c.d3 then 3 else 0, 0), (1, 3)])
  | .devCap => .value (pack [(2, 0), (1, 5), (1, 15), (1, 28)])
  | .devCtl => .value (c.devCtl.setWidth 32)
  | .linkCap => .value (pack [(6, 0), (16, 4)])
  | .linkStatus => .value (pack [(h.lspeed.toNat, 0), (h.lwidth.toNat, 4)])
  | .devCap2 => .value (pack [(15, 0), (1, 4), (1, 8), (1, 16), (1, 17)])
  | .devCtl2 => .value (c.devCtl2.setWidth 32)
  | .devCap3 => .value (pack [(1, 1), (1, 2)])
  | .aerStatus => .value c.aerStatus
  | .aerSeverity => .value c.aerSev
  | .aerHeader => .header (c.hdrLog.head?.map (·.2))

/-- Writable bits of the AER severity register: the errors of Table 9.6 and the link's (log entry 101). -/
def aerSevMask : Word := 0x00577030

/-- A write of configuration space. Device Control's FLR bit is FUNCTION_LEVEL_RESET, a row of its own; clearing an error's
status bit drops its entries of the header log; of the power states only D0 and D3hot exist. -/
def cfgWrite (s : State) (r : CfgReg) (v : Word) : State :=
  let put : PcieCfg → State := fun c => { s with host := { s.host with cfg := c } }
  let c := s.host.cfg
  match r with
  | .bar n => put { c with bars := bankPut c.bars n.val (v &&& barMask n.val) }
  | .msixCtl => sendAllPending { s with host := { s.host with msixMask := v.getLsbD 14, msixEn := v.getLsbD 15 } }
  | .pmCtl =>
    if v.setWidth 2 = (0 : BitVec 2) then sendAllPending (put { c with d3 := false })
    else if v.setWidth 2 = (3 : BitVec 2) then put { c with d3 := true } else s
  | .devCtl => put { c with devCtl := v.setWidth 16 &&& 0x7FFF }
  | .devCtl2 => put { c with devCtl2 := v.setWidth 16 }
  | .aerStatus => put { c with aerStatus := c.aerStatus &&& ~~~v, hdrLog := c.hdrLog.filter (fun e => !(v.getLsbD e.1)) }
  | .aerSeverity => put { c with aerSev := v &&& aerSevMask }
  | _ => s

/-- CONFIG_REQUEST (R304 to R306): Request Retry Status until the part is ready for configuration, then the request is served. -/
def execConfigRequest (req : CfgReq) (s : State) : Host.Outcome State Fault Refusal :=
  .next (if linkUp s then
    if s.host.cfgReady || s.host.cfgDone then
      let s := { s with host := { s.host with cfgDone := true } }
      match req with
      | .read r => emit s (.config (cfgRead s r))
      | .write r v => emit (cfgWrite s r v) (.config .written)
    else emit s (.config .retry)
  else s)
/-- PCIE_LINK_IN_L0 (R477, Table 9.7). -/
def execPcieLinkInL0 (speed : Fin 7) (width : Fin 32) (flitMode : Bool) (s : State) : Host.Outcome State Fault Refusal :=
  .next (if linkUp s then
    { s with host := { s.host with lspeed := BitVec.ofNat 3 speed.val, lwidth := BitVec.ofNat 5 width.val, flit := flitMode } }
  else s)
/-- REQUEST_TO_NO_BAR (R326, R343, Table 9.6). -/
def execRequestToNoBar (kind : BadTlp) (s : State) : Host.Outcome State Fault Refusal :=
  .next (if linkUp s then
    match kind with
    | .unsupportedNonPosted => urCompletion (aer s .unsupportedRequest (some (.bad kind)))
    | .unsupportedPosted => aer s .unsupportedRequest (some (.bad kind))
    | .malformed => aer s .malformedTlp (some (.bad kind))
    | .unexpectedCompletion => aer s .unexpectedCompletion (some (.bad kind))
    | .poisonedWrite => aer s .poisonedTlp (some (.bad kind))
  else s)

end Sys2Proof.Machine
end

