-- ==== Sys2Proof/Machine/Startup.lean ====
section
/-!
DEFINITION. Resets and start-up (chapter 12, Tables 12.3, 12.4, 14.1, 14.13, 14.14; R305, R457 to R477, R506 to R510, R522,
R525, R540 to R546): one shared reset operation, what each pin and fault starts, and the steps that lead to READY.
-/

namespace Sys2Proof.Machine

open Sys2Proof

/-! ### What a reset clears (Table 12.3, Table 14.1) -/

/-- Rank of a reset type: Cold is the greatest (Table 12.3). -/
def ResetKind.rank : ResetKind → Nat
  | .flr => 0 | .internal => 1 | .warm => 2 | .cold => 3
/-- The greater of two reset types. -/
def ResetKind.max (a b : ResetKind) : ResetKind := if a.rank < b.rank then b else a

/-- A Window after a reset: OFF, or still RETIRED (R115, R496, R497: until service); the Lamp keeps feeding it L8 where it did. -/
def Window.cleared (x : Window) : Window :=
  if x.gone then { Window.reset with state := .retired, gone := true, redir := x.redir, spare := x.spare } else { Window.reset with spare := x.spare }
/-- A Pantry after a reset: one out of service stays out (Table 13.2). -/
def Pantry.cleared (p : Pantry) : Pantry := { Pantry.reset with out := p.out }
/-- The Pantry of a Window that is still RETIRED and redirected keeps MIGR (R151). -/
def keepMigr (s : State) : State :=
  (s.windows.filter (fun e => e.2.gone && e.2.redir)).foldl (fun s e => modPantry s e.1 (fun p => { p with migr := !p.out })) s

/-- What every reset type clears: Yilium objects, event queue, range table, Windows and Pantries, Dumbwaiters, translation,
Corridor, mailboxes (Table 14.1); IFLEVEL (R461). CSPEED is a measurement (R542). Pages with poison retire as they are
freed (R259). -/
def clearCommon (s : State) : State :=
  let s := s.mem.owners.foldl (fun s e => freePage s e.1) s
  { s with
    ifLevel := 0, ctxs := [], queues := [], ops := [], shares := [], mboxes := [], umboxes := [], lastMbox := 0, events := [], evSeq := 0,
    evRing := none, bellClock := 0, streams := [], nextSid := 0, dumbs := [], trees := [], xlate := Xlate.reset,
    corr := { Corridor.reset with cspeed := s.corr.cspeed },
    windows := s.windows.map (fun e => (e.1, e.2.cleared)), pantries := s.pantries.map (fun e => (e.1, e.2.cleared)),
    study := { s.study with busy := [] }, mem := { s.mem with owners := [], resvs := [] },
    host := { s.host with ranges := [], reqs := [] },
    link := { s.link with
      exports := [], reqs := [], inbox := [], atomq := [], held := [], groups := [], partials := [], kths := [], trComb := 0, trUnal := 0,
      trLate := 0, timedOut := [] } }
/-- Configuration space after an FLR: AER's registers and Max Payload Size stand (the standard's sticky fields, log entry 101). -/
def PcieCfg.flr (c : PcieCfg) : PcieCfg :=
  { PcieCfg.reset with aerStatus := c.aerStatus, aerSev := c.aerSev, hdrLog := c.hdrLog, devCtl := (0x2810 : BitVec 16) ||| (c.devCtl &&& 0xE0) }
/-- The PCIe endpoint: host registers, MSI-X, configuration (C, W, F); the link stays in L0 across an FLR. `forget`: no
configuration request counts as completed any more (R306: power good and FLR). -/
def clearEndpoint (keepLink forget : Bool) (s : State) : State :=
  { s with
    host := { HostIf.reset with
      lspeed := if keepLink then s.host.lspeed else 0, lwidth := if keepLink then s.host.lwidth else 0, flit := keepLink && s.host.flit,
      cfgDone := s.host.cfgDone && !forget, cfg := if keepLink then s.host.cfg.flr else PcieCfg.reset } }
/-- Stacks in service at a clearing reset: those that have not stopped responding (R231, R265). -/
def upStacks (s : State) : List Nat := [0, 1, 2, 3].filter (fun k => !(s.nvm.stkDown.getLsbD k))
/-- Study, retested later; removed cores are remembered for the record (R214). -/
def clearStudy (s : State) : State := { s with study := { Study.reset with removed := s.study.removed } }
/-- The memory block and the stacks; the contents stand until they are initialised (CELLAR_INIT). -/
def clearMem (s : State) : State :=
  let up : BitVec 4 := ~~~s.nvm.stkDown
  { s with mem := { Mem.reset up (upStacks s) ([0, 1, 2, 3].map (fun k => if up.getLsbD k then 0 else 3)) with
                    data := s.mem.data, poison := s.mem.poison } }
/-- A Window's NVM record is good (R173). -/
def recordGood (s : State) (w : Nat) : Bool :=
  s.nvm.recOk.getLsbD w && posFinF32 (floorOf s w false) && posFinF32 (floorOf s w true)
/-- A heater with its NVM values, before its ramp (R171, R541): CODE shows PWRUP, OUT and u are 0. -/
def nvmHeater (v : BitVec 16 × BitVec 16) : Heater := { Heater.reset with code := v.1, pwrUp := v.1, park := v.2 }
/-- A Window's heaters with their NVM values; 0 where the record fails its check (R173). -/
def nvmBank (s : State) (w : Nat) : HeaterBank :=
  if recordGood s w then
    ⟨nvmHeater (s.nvm.pwrUp, s.nvm.park),
     (s.nvm.heaterVals.filter (fun e => decide (e.1 / 32768 = w))).map (fun e => (e.1 % 32768, nvmHeater e.2))⟩
  else ⟨nvmHeater (0, 0), []⟩
/-- An AUX output with its NVM values. -/
def nvmAux (s : State) (a : Nat) : Aux :=
  let v := bankGet s.nvm.auxVals (0, 0) a
  { Aux.reset with code := v.1, pwrUp := v.1, park := v.2 }
/-- Radiator, Thermostat, sensors and AUX outputs; every heater reloads from NVM, which ends a part-level park (R464). TYPE of
the RTDs comes from the board record (R195). -/
def clearThermo (s : State) : State :=
  { s with
    thermo := { Thermo.reset with
      heaters := (List.range 8).map (fun w => (w, nvmBank s w)), aux := (List.range 4).map (fun a => (a, nvmAux s a)),
      sensors := [64, 65].map (fun n => (n, { Sensor.reset with type := s.nvm.rtdType.getD (n - 64) 0 })) } }
/-- The Doors retrain (none on a KX1-S) and the link block clears (R397, Table 14.1). -/
def clearLinks (s : State) : State :=
  { s with
    nodeId := 0,
    link := { Link.reset with
      doors := if isS s then [] else (List.range 16).map (fun d => (d, Door.reset (s.nvm.pmdCr4.getLsbD d) .training)) } }
/-- The power block as Table 14.13 lists it: measurements stay, COOLMAX only at Cold, TRIP ends only at Warm or Cold (R486). -/
def clearPower (k : ResetKind) (s : State) : State :=
  let p := s.power
  let endTrip := decide (2 ≤ k.rank)
  let s := { s with
    power := { p with
      thlvl := 0, byTemp := false, byPwr := false, byCool := false, byEst := false, trip := p.trip && !endTrip, flags := 0, plimit := 480,
      thRaise := 0, coolMax := if k = .cold then 0x1680 else p.coolMax, sinceChange := 10, calm := 0, coolAbove := false, noTempFor := 0,
      pavgValid := p.pavgValid && decide (k ≠ .cold), tpolValid := p.tpolValid && decide (k ≠ .cold) } }
  let s := if endTrip ∧ ¬ s.thermTripN then emit { s with thermTripN := true } (.pin "THERMTRIP_N" true) else s
  setAlert s
/-- Threshold at a reset that starts Hearth: TSTATE BOOT; a test mode ends only at Cold (R523). -/
def clearThresh (k : ResetKind) (s : State) : State :=
  { s with
    thresh := { s.thresh with
      hearthRun := false, tstate := if s.thresh.tstate = .test ∧ k ≠ .cold then .test else .boot,
      flags := if k = .cold then 0 else s.thresh.flags, jtagCnt := if k = .cold then 0 else s.thresh.jtagCnt } }
/-- The board configuration record takes effect at a Warm or Cold reset (R529); without one the factory values do (Table 13.9;
log entry 26). -/
def loadBoard (s : State) : State :=
  match s.nvm.boardCfg with
  | some b => { s with nvm := { s.nvm with pmdCr4 := Config.boardPmd b, rtdType := [Config.boardRtd b 0, Config.boardRtd b 1] } }
  | none => { s with nvm := { s.nvm with pmdCr4 := Nvm.initial.pmdCr4, rtdType := Nvm.initial.rtdType } }

/-- An FLR closes every OPEN Door at once: what was sent through it fails (R465, R436), its credits are withdrawn, and the Door
stays TRAINED with its flit sequence (R403, R439). -/
def flrDoor (s : State) (d : Nat) : State :=
  if doorOpen s d then ((s.link.reqs.filter (fun r => r.door = some d)).map (·.tag)).foldl failReq (closeDoor s d) else s

/-- The Lamp after a Cold reset: dark, before a full warm-up; failed lasers, and L8 with the Window it is assigned to, stay as they
are until service (R113, R115, Table 14.1: LAMPSTAT is never cleared). -/
def Lamp.cleared (l : Lamp) : Lamp := { l with lok := 0, enabled := 0 }

/-- Yilium's 8 MiB of the Larder (Table 7.1), which it rewrites at an FLR: poison there ends (R256, R459). -/
def rewriteYilium (s : State) : State :=
  { s with mem := { s.mem with poison := s.mem.poison.filter (fun g => decide (64 * g < 0xF800000 ∨ larderEnd ≤ 64 * g)) } }

/-- What each reset type clears beyond clearCommon. -/
def clearKind (k : ResetKind) (s : State) : State :=
  match k with
  | .flr => rewriteYilium (clearEndpoint true true s)
  | .internal => clearThresh k (clearPower k (clearLinks (clearThermo (clearMem (clearStudy s)))))
  | .warm => clearThresh k (clearPower k (clearLinks (clearThermo (clearMem (clearStudy (clearEndpoint false false (loadBoard s)))))))
  | .cold =>
    let s := clearThresh k (clearPower k (clearLinks (clearThermo (clearMem (clearStudy (clearEndpoint false true (loadBoard s)))))))
    { s with lamp := s.lamp.cleared }

/-- A reset with its RSTCAUSE code (R459, R460, R540). While it runs, and until READY, its blocks take no software writes (R542);
`lampWasLit` holds from READY, where the Lamp was lit (R464, R476). -/
def doReset (k : ResetKind) (cause : BitVec 3) (s : State) : State :=
  let lit := match s.resetting with
    | some _ => s.lampWasLit
    | none => decide (s.lamp.enabled ≠ 0)
  let s := if k = .flr then (List.range 16).foldl flrDoor s else s
  let s := clearKind k (keepMigr (clearCommon s))
  { s with
    resetting := some (match s.resetting with | some o => o.max k | none => k), lampWasLit := lit && decide (k ≠ .cold),
    internalCause := if k = .flr then s.internalCause else none, pastDeadline := false,
    power := { s.power with rstCause := cause } }

/-! ### What starts a reset -/

/-- PWRGOOD_ASSERT (R466): a Cold reset; cold starts are counted (Table 13.3). -/
def execPwrgoodAssert (s : State) : Host.Outcome State Fault Refusal :=
  .next (if s.pwrGood then s
    else
      let s := doReset .cold 0 { s with pwrGood := true }
      { s with
        warmHeld := false,
        nvm := { s.nvm with frecSum := { s.nvm.frecSum with coldCnt := s.nvm.frecSum.coldCnt + 1 } } })
/-- PWRGOOD_DEASSERT (R457): every block but Threshold, NVM and SMBus is held in reset, the Lamp dark, every channel at u = 0. -/
def execPwrgoodDeassert (s : State) : Host.Outcome State Fault Refusal :=
  .next (if s.pwrGood then
    let cause := s.power.rstCause
    let s := doReset .cold cause s
    { s with pwrGood := false, warmHeld := false }
  else s)

/-- The failure-record summary is written at an orderly reset (R503; log entry 104). -/
def storeSummary (s : State) : State :=
  { s with nvm := { s.nvm with frecStored := { s.nvm.frecSum with nEntry := s.nvm.frec.length } } }

/-- A Warm reset: absorbed while a greater or equal one is held (R460); it waits for PERST_N (R476). -/
def warmReset (s : State) (cause : BitVec 3) : State :=
  if !(powered s) || s.warmHeld then s else { doReset .warm cause (storeSummary s) with warmHeld := !s.perstN }
/-- PERST_N_ASSERT (R459, R460, R476). -/
def execPerstNAssert (s : State) : Host.Outcome State Fault Refusal :=
  .next (if s.perstN then warmReset { s with perstN := false } 1 else s)
/-- PERST_N_DEASSERT (R476, R477): the start-up steps run from here. -/
def execPerstNDeassert (s : State) : Host.Outcome State Fault Refusal := .next { s with perstN := true, warmHeld := false }
/-- SMBUS_RESET (R492, Table 12.10). -/
def execSmbusReset (s : State) : Host.Outcome State Fault Refusal := .next (if s.smbusUp then warmReset s 2 else s)

/-- A lesser reset is absorbed while PWRGOOD or PERST_N holds a greater one (R460). -/
def lesserReset (k : ResetKind) (cause : BitVec 3) (s : State) : State :=
  if !(powered s) || s.warmHeld then { s with internalCause := none } else doReset k cause (storeSummary s)
/-- FUNCTION_LEVEL_RESET (R465): a configuration write, so the part must serve configuration; Threshold serves it in recovery
(R509). -/
def execFunctionLevelReset (s : State) : Host.Outcome State Fault Refusal :=
  .next (if linkUp s && s.host.cfgReady then lesserReset .flr 3 s else s)
/-- INTERNAL_RESET (Table 12.8): the one that RESET_PART has asked for. -/
def execInternalReset (s : State) : Host.Outcome State Fault Refusal :=
  .next (match s.internalCause with
    | some c => lesserReset .internal c s
    | none => s)
/-- A lockstep mismatch or a watchdog expiry (R169, R462, R463, R508): the Radiator is parked, Uncorrectable Internal Error
reported, the entry written and the count of R508 raised before READY; then the Internal reset. -/
def hearthFault (s : State) (kind : Nat) (cause : BitVec 3) : State :=
  let s := addFrec (aer (parkAll s) .internalError none) kind 0 0 0 0 noCtx
  let s := if isReady s then s
    else { s with nvm := { s.nvm with fwFails := s.nvm.fwFails + 1, fwAct := s.nvm.fwAct || decide (3 ≤ s.nvm.fwFails + 1) } }
  doReset .internal cause s
/-- Hearth runs: Yilium has been started and no recovery holds. -/
def hearthUp (s : State) : Bool := powered s && s.thresh.hearthRun && !s.warmHeld
/-- HEARTH_LOCKSTEP_MISMATCH (R462). -/
def execHearthLockstepMismatch (s : State) : Host.Outcome State Fault Refusal := .next (if hearthUp s then hearthFault s 11 4 else s)
/-- YILIUM_WATCHDOG_EXPIRY (R462). -/
def execYiliumWatchdogExpiry (s : State) : Host.Outcome State Fault Refusal := .next (if hearthUp s then hearthFault s 12 5 else s)

/-! ### Firmware check (R506 to R509, R512, R514, R522) -/

/-- Threshold runs an image: TSTATE NORMAL, or TEST while a test mode lasts (R523). -/
def runImage (s : State) : State :=
  { s with
    thresh := { s.thresh with
      running := bankImage s s.nvm.bank, hearthRun := true, tstate := if s.thresh.tstate = .test then .test else .normal } }
/-- A fallback to the other bank (R507, R508): FWFALL, FW_FALLBACK due at READY, one record entry. -/
def fallBack (s : State) : State :=
  let s := { s with
    nvm := { s.nvm with bank := !s.nvm.bank, activated := false, switchDue := false }, fwFallback := true,
    thresh := { s.thresh with flags := s.thresh.flags ||| 1 } }
  runImage (addFrec s 16 0 0 (bit s.nvm.bank) 0 noCtx)
/-- The recovery state (R509): its registers are cleared on entry (Table 14.14). -/
def enterRecovery (s : State) : State :=
  { s with
    thresh := { s.thresh with
      tstate := .recovery, rcvGo := false, rcvLost := 0, rcvData := 0, rcvLen := 0, rcvWords := [], hearthRun := false } }
/-- What Threshold completes before it checks any image: fuse blows recorded as pending (R514), and at a Cold reset the wipe
of a test-mode entry that was cut short (R522). -/
def finishPending (s : State) : State :=
  let s := match s.nvm.fuseTodo with
    | some t => blowFuses { s with nvm := { s.nvm with fuseTodo := none } } t.1 t.2
    | none => s
  if s.nvm.wipePending ∧ s.resetting = some .cold then
    let s := eraseCustomer (wipeMemory s)
    { s with nvm := { s.nvm with wipePending := false } }
  else s
/-- Threshold's check (R506 to R508): an activation due takes effect first (R512). -/
def firmwareCheck (s : State) : State :=
  let s := finishPending s
  if s.nvm.fwAct then
    let s := { s with nvm := { s.nvm with fwAct := false } }
    if imgAccepted s (bankImage s (!s.nvm.bank)) then
      fallBack { s with nvm := { s.nvm with pend := false, fwFails := 0 } }
    else enterRecovery s
  else
    let s := if s.nvm.switchDue then
        { s with nvm := { s.nvm with bank := !s.nvm.bank, switchDue := false, activated := true } }
      else s
    if imgAccepted s (bankImage s s.nvm.bank) then runImage s
    else if imgAccepted s (bankImage s (!s.nvm.bank)) then fallBack s
    else enterRecovery s
/-- FIRMWARE_CHECK (R506): once after each reset that starts Hearth. -/
def execFirmwareCheck (s : State) : Host.Outcome State Fault Refusal :=
  .next (if starting s && !s.thresh.hearthRun && decide (s.thresh.tstate = .boot ∨ s.thresh.tstate = .test) then firmwareCheck s else s)

/-! ### The other steps of Table 12.4 -/

/-- Lasers that step 3 enables: L0 to L7, and L8 where it is switched to a Window; a laser known to have failed stays dark. -/
def startLasers (s : State) : BitVec 9 := (if s.lamp.spareUse then 0x1FF else 0xFF) &&& ~~~s.lamp.failed
/-- Every heater and AUX output takes its NVM values; under a part-level park it goes to PARK (R169, R171). -/
def loadHeaters (s : State) : State :=
  let t := { s.thermo with
    nvmOk := true,
    heaters := (List.range 8).map (fun w => (w, nvmBank s w)), aux := (List.range 4).map (fun a => (a, nvmAux s a)) }
  { s with thermo := if t.parkAll then mapAux Aux.parked (mapHeaters Heater.parked t) else t }
/-- A Window that stays OFF for a bad NVM record is redirected for the session; its Pantry stays in service (R151, R173, R559). -/
def badRecords (bad : List Nat) (s : State) : State :=
  (bad.filter (fun w => decide ((win s w).state = .off))).foldl (fun s w =>
    modPantry (modWin s w (fun x => { x with redir := !(pantry s w).out })) w (fun p => { p with migr := !p.out })) s
/-- NVM_LOAD_COMPLETE (R171 to R173, R467): heaters and AUX outputs start their ramp, NVMOK; a bad record sets NVMERR; RAMPDONE at
once where every channel is at its CODE (R172). The Lamp stays as it is while a trip holds. -/
def execNvmLoadComplete (s : State) : Host.Outcome State Fault Refusal :=
  .next (if starting s && !s.thermo.nvmOk then
    let s := loadHeaters s
    let bad := (List.range 8).filter (fun w => !(recordGood s w))
    let s := { s with
      nvm := { s.nvm with recOk := bad.foldl (fun b w => b &&& ~~~(BitVec.ofNat 8 (2 ^ w))) s.nvm.recOk },
      lamp := if s.power.trip then s.lamp else { s.lamp with enabled := s.lamp.enabled ||| startLasers s },
      thermo := { s.thermo with flags := if bad.isEmpty then s.thermo.flags else s.thermo.flags ||| 2 } }
    checkRamp (badRecords bad s)
  else s)

/-- CONFIG_READY (R305, R475, R509): Yilium is ready for configuration, or Threshold serves it in recovery. -/
def execConfigReady (s : State) : Host.Outcome State Fault Refusal :=
  .next (if powered s && s.perstN && !s.warmHeld && (s.thresh.hearthRun || inRecovery s) && !s.host.cfgReady then
    { s with host := { s.host with cfgReady := true } }
  else s)
/-- CELLAR_INIT (R459, Table 12.4 step 8): after a reset that clears the memories; every granule zero and valid. -/
def execCellarInit (s : State) : Host.Outcome State Fault Refusal :=
  .next (if starting s && !s.mem.init then { s with mem := { s.mem with data := ⟨[]⟩, poison := [], init := true } } else s)

/-- Every condition of R471 but the Windows'. -/
def readyOthers (s : State) : Bool :=
  starting s && !(isReady s) && s.thresh.hearthRun && s.host.cfgReady && s.study.srdy && s.mem.init && s.thermo.rampDone && !s.power.trip
/-- A Window that READY does not wait for (R471): IDLE, RETIRED, OFF because of NVMERR, or quarantined at the deadline (R472). -/
def windowSettled (s : State) (w : Nat) : Bool :=
  match (win s w).state with
  | .idle => true
  | .retired => true
  | .quar => s.pastDeadline
  | .off => !(s.nvm.recOk.getLsbD w)
  | _ => false
/-- The stored topology table is loaded, or the table in force opens its Doors again (R402, R543). -/
def openLinks (s : State) : State :=
  if isS s then s
  else match s.link.topo, s.nvm.topo with
    | none, some bs => loadTopo s bs
    | _, _ => tryOpenAll s
/-- READY (R393, R402, R471, R474, R508): `ms` since the start of the reset. -/
def execReady (ms : BitVec 16) (s : State) : Host.Outcome State Fault Refusal :=
  .next (if readyOthers s && (List.range 8).all (windowSettled s) then
    let s := openLinks s
    let s := recomputeDeliv { s with
      ifLevel := 3, resetting := none, pastDeadline := false, corr := { s.corr with gActive := true } }
    let s := { s with
      power := { s.power with bootMs := ms }, nvm := { s.nvm with fwFails := 0, fwAct := false } }
    let s := raiseEvent s 0x01 noCtx 3 0
    let s := if s.fwFallback then raiseEvent { s with fwFallback := false } 0x80 noCtx (bit s.nvm.bank) 0 else s
    lbIdle (lbFuel s) s
  else s)
/-- READY_DEADLINE (R472): Windows that are not yet IDLE, RETIRED or OFF for NVMERR are quarantined. -/
def execReadyDeadline (s : State) : Host.Outcome State Fault Refusal :=
  .next (if readyOthers s then (deadlineWindows s).foldl (fun s w => quarantine s w 4) { s with pastDeadline := true } else s)

/-! ### Rails and SMBus (R458, R492 to R494) -/

/-- RAIL_FAULT (R458). Without VSTBY the SMBus port falls silent (R492). -/
def execRailFault (rail : Fin 10) (s : State) : Host.Outcome State Fault Refusal :=
  .next (if s.pwrGood && s.power.railStat.getLsbD rail.val then
    let stat := s.power.railStat &&& ~~~(BitVec.ofNat 10 (2 ^ rail.val))
    let s := { s with
      power := { s.power with railStat := stat, flags := s.power.flags ||| 8 }, smbusUp := s.smbusUp && decide (rail.val ≠ 0) }
    addFrec (setAlert (raiseEvent s 0x64 noCtx stat.toNat 0)) 14 0 rail.val (stat.toNat % 256) 0 noCtx
  else s)
/-- RAIL_RETURNS_TO_TOLERANCE (R458). -/
def execRailReturnsToTolerance (rail : Fin 10) (s : State) : Host.Outcome State Fault Refusal :=
  .next { s with power := { s.power with railStat := s.power.railStat ||| BitVec.ofNat 10 (2 ^ rail.val) } }
/-- VSTBY_WITHIN_TOLERANCE (R492). -/
def execVstbyWithinTolerance (s : State) : Host.Outcome State Fault Refusal := .next { s with smbusUp := true, power := { s.power with railStat := s.power.railStat ||| 1 } }

/-- An SMBus answer, while the port answers. -/
def smbusSay (s : State) (v : Nat) : State := if s.smbusUp then emit s (.smbus v) else s
/-- A word that may not be valid yet (R493). -/
def smbusWord (valid : Bool) (v : BitVec 16) : Nat := if valid then v.toNat else 0x8000
/-- SMBUS_READ_STATUS (Table 12.10). -/
def execSmbusReadStatus (s : State) : Host.Outcome State Fault Refusal :=
  .next (smbusSay s (bit (isReady s) + 2 * bit s.power.trip + 4 * s.power.thlvl.toNat + 32 * s.power.rstCause.toNat))
/-- SMBUS_READ_PAVG. -/
def execSmbusReadPavg (s : State) : Host.Outcome State Fault Refusal := .next (smbusSay s (smbusWord s.power.pavgValid s.power.pavg))
/-- SMBUS_READ_TPOL. -/
def execSmbusReadTpol (s : State) : Host.Outcome State Fault Refusal := .next (smbusSay s (smbusWord s.power.tpolValid s.power.tpol))
/-- SMBUS_READ_RTD. -/
def execSmbusReadRtd (n : Fin 2) (s : State) : Host.Outcome State Fault Refusal :=
  let x := sensorOf s (64 + n.val)
  .next (smbusSay s (smbusWord (x.valid || x.hold || x.est) x.temp))
/-- SMBUS_READ_RAILSTAT. -/
def execSmbusReadRailstat (s : State) : Host.Outcome State Fault Refusal := .next (smbusSay s s.power.railStat.toNat)

/-! ### Recovery (R510) -/

/-- RECOVERY_DATA_WRITE (R510): elsewhere the write has no effect. -/
def execRecoveryDataWrite (val : Word) (s : State) : Host.Outcome State Fault Refusal :=
  .next (if barUp s && inRecovery s then writeRcvData s val else s)
/-- RSTCAUSE of the Internal reset of R510, which the spec does not name: one of the Internal codes, left free. -/
def anyInternalCause (s : State) : BitVec 3 × State := let r := freshNat s; (BitVec.ofNat 3 (4 + r.1 % 3), r.2)
/-- RCVGO written with 1 in recovery, as a value of RCVCTL (R344, R510): the image is checked, written into bank A and made
active with an Internal reset, or refused with RCVERR; `hwDropped` says that Threshold's clearing of RCVGO met this write and
was dropped (Table 9.5). -/
def recoveryGo (s : State) (val : Word) (hwDropped : Bool) : State :=
  let img := s.thresh.rcvWords.flatMap (fun w => toBytes 4 w.toNat)
  let s := { s with thresh := { s.thresh with rcvGo := hwDropped, rcvLost := lostWrite val hwDropped } }
  if imgAccepted s img then
    let s := writeBank s false img
    let r := anyInternalCause { s with nvm := { s.nvm with bank := false, switchDue := false, activated := false } }
    doReset .internal r.1 r.2
  else { s with thresh := { s.thresh with flags := s.thresh.flags ||| 16, rcvLen := 0, rcvWords := [] } }

/-- RECOVERY_GO (R344, R510): a write of RCVCTL whose bit 0 is 1. -/
def execRecoveryGo (val : Word) (hwDropped : Bool) (s : State) : Host.Outcome State Fault Refusal :=
  .next (if barUp s && inRecovery s && val.getLsbD 0 then recoveryGo s val hwDropped else s)

/-! ### JTAG (R524, R525) -/

/-- A locked instruction: treated as BYPASS, counted, flagged and recorded; JTAG_ATTEMPT at most once a second (R524). -/
def jtagLocked (s : State) (quietSecond : Bool) : State :=
  let s := { s with
    thresh := { s.thresh with jtagIns := .bypass, jtagCnt := s.thresh.jtagCnt + 1, flags := s.thresh.flags ||| 2 } }
  let s := addFrec s 19 0 0 (s.thresh.jtagCnt.toNat % 256) 0 noCtx
  if quietSecond then raiseEvent s 0x82 noCtx s.thresh.jtagCnt.toNat 0 else s
/-- Zero with a valid code into the Larder and the Pantries (R525). -/
def zeroOnDie (s : State) : State :=
  { s with
    mem := { s.mem with data := s.mem.data.clear 0 larderEnd, poison := s.mem.poison.filter (fun g => decide (larderEnd ≤ 64 * g)) },
    pantries := s.pantries.map (fun e => (e.1, { e.2 with sram := ⟨[]⟩, dir := [] })) }
/-- RSTCAUSE of the Warm reset of R525, which the spec does not name: one of the Warm codes, left free. -/
def anyWarmCause (s : State) : BitVec 3 × State := let r := freshNat s; (BitVec.ofNat 3 (1 + r.1 % 2), r.2)
/-- Boundary scan is left (R525). -/
def leaveBoundary (s : State) : State :=
  let s := zeroOnDie { s with thresh := { s.thresh with jtagIns := .bypass } }
  if s.pwrGood then
    let r := anyWarmCause s
    { doReset .warm r.1 r.2 with warmHeld := !s.perstN }
  else s
/-- Boundary scan is selected: the blocks are held in reset, the Lamp dark (R525). -/
def enterBoundary (s : State) (ins : JtagInstr) : State :=
  let s := if boundary s ∨ ¬ s.pwrGood then s else { doReset .warm s.power.rstCause s with lampWasLit := false, lamp := { s.lamp with lok := 0, enabled := 0 } }
  { s with thresh := { s.thresh with jtagIns := ins } }
/-- JTAG_INSTRUCTION (R524, R525). -/
def execJtagInstruction (ins : JtagInstr) (quietSecond : Bool) (s : State) : Host.Outcome State Fault Refusal :=
  let scan := decide (ins = .samplePreload ∨ ins = .extest)
  let s := if boundary s && (!scan || s.perstN) then leaveBoundary s else s
  .next (if scan && !s.perstN then enterBoundary s ins
    else if scan then (if s.fuses.jtagLock then jtagLocked s quietSecond else { s with thresh := { s.thresh with jtagIns := .bypass } })
    else if decide (ins = .other) && s.fuses.jtagLock then jtagLocked s quietSecond
    else { s with thresh := { s.thresh with jtagIns := ins } })
/-- JTAG_LEAVE_BOUNDARY (R525). -/
def execJtagLeaveBoundary (s : State) : Host.Outcome State Fault Refusal := .next (if boundary s then leaveBoundary s else s)

/-! ### The failure-record summary (R503) -/

/-- FREC_SUMMARY_UPDATE (R503, Table 13.3): `seconds` of power and `lampSeconds` of light since the last update; written whole.
The temperature and rail seconds count the whole interval at what holds at its end. -/
def execFrecSummaryUpdate (seconds : Nat) (lampSeconds : Nat) (s : State) : Host.Outcome State Fault Refusal :=
  let x := s.nvm.frecSum
  let t := s.power.tpol.toInt
  let hot (v : Int) : Nat := if s.power.tpolValid ∧ v ≤ t then seconds else 0
  let y : FrecSum := { x with
    pos := x.pos + seconds, lampH := x.lampH.zipIdx.map (fun e => if s.lamp.lok.getLsbD e.2 then e.1 + lampSeconds else e.1),
    t95s := x.t95s + hot 12160, t100s := x.t100s + hot 12800,
    railSecs := x.railSecs + (if s.power.railStat = 0x3FF then 0 else seconds), nEntry := s.nvm.frec.length }
  .next (if powered s then { s with nvm := { s.nvm with frecSum := y, frecStored := y } } else s)

end Sys2Proof.Machine
end

