-- ==== Sys2Proof/Machine/HostWrite.lean ====
section
/-!
DEFINITION. REGISTER_WRITE: a software write of BAR0 of one word or two (R308 to R310, R344 to R346), wherever its words lie.
-/

namespace Sys2Proof.Machine

open Sys2Proof

/-- One 32-bit write of BAR0 with the update that meets it: registers below and above the privileged mailboxes, the mailboxes
themselves, and RCVGO (R344, R348, R510). -/
def bar0Word (s : State) (off : Nat) (val : Word) (hw : HwUpd) : State :=
  if off < 0x40000 then writeLow s off val hw
  else if h : off < 0x50000 then
    if inRecovery s then s else mailboxWord s (.priv ⟨(off - 0x40000) / 4096, by omega⟩) (off % 4096) val hw.rwh.isSome
  else if off = 0x70028 ∧ inRecovery s ∧ val.getLsbD 0 then recoveryGo s val hw.rwh.isSome
  else writeHigh s off val hw

/-- REGISTER_WRITE (R308 to R310, R344 to R346, R542): a 64-bit write is two 32-bit writes, the lower address first. -/
def execRegisterWrite (off : Nat) (val : Word) (be : BitVec 4) (hw : HwUpd) (more : Option Word2) (s : State) :
    Host.Outcome State Fault Refusal :=
  .next (if !(barUp s) then notUp s (.write 0 off (if more.isSome then 8 else 4)) true
    else match judge s 0 off be more with
      | (s, false) => s
      | (s, true) =>
        let s := bar0Word s off val hw
        match more with
        | some w => bar0Word s (off + 4) w.val w.hw
        | none => s)

end Sys2Proof.Machine
end

