-- ==== Sys2Proof/Machine/Dispatch.lean ====
section
/-! DEFINITION. The meaning of each command: one arm per constructor. -/

namespace Sys2Proof.Machine

open Sys2Proof

/-- The effect of a command on everything but the queue. -/
def exec (i : Instr) (s : State) : Host.Outcome State Fault Refusal :=
  match i with
  | .pwrgoodAssert => Sys2Proof.Machine.execPwrgoodAssert s
  | .pwrgoodDeassert => Sys2Proof.Machine.execPwrgoodDeassert s
  | .perstNAssert => Sys2Proof.Machine.execPerstNAssert s
  | .perstNDeassert => Sys2Proof.Machine.execPerstNDeassert s
  | .functionLevelReset => Sys2Proof.Machine.execFunctionLevelReset s
  | .hearthLockstepMismatch => Sys2Proof.Machine.execHearthLockstepMismatch s
  | .yiliumWatchdogExpiry => Sys2Proof.Machine.execYiliumWatchdogExpiry s
  | .internalReset => Sys2Proof.Machine.execInternalReset s
  | .railFault rail => Sys2Proof.Machine.execRailFault rail s
  | .firmwareCheck => Sys2Proof.Machine.execFirmwareCheck s
  | .nvmLoadComplete => Sys2Proof.Machine.execNvmLoadComplete s
  | .configReady => Sys2Proof.Machine.execConfigReady s
  | .configRequest req => Sys2Proof.Machine.execConfigRequest req s
  | .studyCoreTest pass => Sys2Proof.Machine.execStudyCoreTest pass s
  | .cellarInit => Sys2Proof.Machine.execCellarInit s
  | .laserDarkTimeout => Sys2Proof.Machine.execLaserDarkTimeout s
  | .windowStartupCheck w resA resB => Sys2Proof.Machine.execWindowStartupCheck w resA resB s
  | .ready ms => Sys2Proof.Machine.execReady ms s
  | .readyDeadline => Sys2Proof.Machine.execReadyDeadline s
  | .registerWrite off val be hw more => Sys2Proof.Machine.execRegisterWrite off val be hw more s
  | .captureReadLo bar2 off be more => Sys2Proof.Machine.execCaptureReadLo bar2 off be more s
  | .counter64Write off val inc => Sys2Proof.Machine.execCounter64Write off val inc s
  | .doorbellWrite page slot val be more => Sys2Proof.Machine.execDoorbellWrite page slot val be more s
  | .contextMakeResident ctx base env => Sys2Proof.Machine.execContextMakeResident ctx base env s
  | .mailboxWrite mb off val be hwTake more => Sys2Proof.Machine.execMailboxWrite mb off val be hwTake more s
  | .bar4Read off len env => Sys2Proof.Machine.execBar4Read off len env s
  | .bar4Write off data poisoned env => Sys2Proof.Machine.execBar4Write off data poisoned env s
  | .atomicFetchadd off size operand env => Sys2Proof.Machine.execAtomicFetchadd off size operand env s
  | .atomicSwap off size operand env => Sys2Proof.Machine.execAtomicSwap off size operand env s
  | .atomicCas off size compare operand env => Sys2Proof.Machine.execAtomicCas off size compare operand env s
  | .rangeTableWrite e reg val => Sys2Proof.Machine.execRangeTableWrite e reg val s
  | .msixUnmask v => Sys2Proof.Machine.execMsixUnmask v s
  | .hostCompletion tag st data => Sys2Proof.Machine.execHostCompletion tag st data s
  | .hostCompletionTimeout tag => Sys2Proof.Machine.execHostCompletionTimeout tag s
  | .window q env => Sys2Proof.Machine.execWindow q env s
  | .imageLoad q env => Sys2Proof.Machine.execImageLoad q env s
  | .slotRead q env => Sys2Proof.Machine.execSlotRead q env s
  | .slotWrite q env => Sys2Proof.Machine.execSlotWrite q env s
  | .study q env => Sys2Proof.Machine.execStudy q env s
  | .refine q env => Sys2Proof.Machine.execRefine q env s
  | .copy q env => Sys2Proof.Machine.execCopy q env s
  | .fill q env => Sys2Proof.Machine.execFill q env s
  | .fenceWait q env => Sys2Proof.Machine.execFenceWait q env s
  | .nop q env => Sys2Proof.Machine.execNop q env s
  | .commandComplete q idx env => Sys2Proof.Machine.execCommandComplete q idx env s
  | .fenceTimeout q idx lateUpdate => Sys2Proof.Machine.execFenceTimeout q idx lateUpdate s
  | .passStart w q idx p half codes env => Sys2Proof.Machine.execPassStart w q idx p half codes env s
  | .witnessResult w codes => Sys2Proof.Machine.execWitnessResult w codes s
  | .clipRepeatRound w codes => Sys2Proof.Machine.execClipRepeatRound w codes s
  | .passCommit w => Sys2Proof.Machine.execPassCommit w s
  | .commitAfterOverlap q idx => Sys2Proof.Machine.execCommitAfterOverlap q idx s
  | .trussCombine q idx owner => Sys2Proof.Machine.execTrussCombine q idx owner s
  | .epilogue q idx env => Sys2Proof.Machine.execEpilogue q idx env s
  | .laserLost l => Sys2Proof.Machine.execLaserLost l s
  | .spareSwitchIn => Sys2Proof.Machine.execSpareSwitchIn s
  | .qualification w resA resB => Sys2Proof.Machine.execQualification w resA resB s
  | .lampWear l => Sys2Proof.Machine.execLampWear l s
  | .imageCheck w pane => Sys2Proof.Machine.execImageCheck w pane s
  | .paneArmed w pane => Sys2Proof.Machine.execPaneArmed w pane s
  | .paneSwap w pane => Sys2Proof.Machine.execPaneSwap w pane s
  | .swapComplete w => Sys2Proof.Machine.execSwapComplete w s
  | .pantryUncorrectable w => Sys2Proof.Machine.execPantryUncorrectable w s
  | .pantryCorrected w => Sys2Proof.Machine.execPantryCorrected w s
  | .workItemDispatch q idx item core => Sys2Proof.Machine.execWorkItemDispatch q idx item core s
  | .workItemComplete core trace env => Sys2Proof.Machine.execWorkItemComplete core trace env s
  | .coreFault core => Sys2Proof.Machine.execCoreFault core s
  | .coreCorrected core => Sys2Proof.Machine.execCoreCorrected core s
  | .refineResidual core env => Sys2Proof.Machine.execRefineResidual core env s
  | .refineDecision core env => Sys2Proof.Machine.execRefineDecision core env s
  | .refineUpdate core env => Sys2Proof.Machine.execRefineUpdate core env s
  | .arenaAlloc ctx bytes => Sys2Proof.Machine.execArenaAlloc ctx bytes s
  | .arenaFree ctx addr => Sys2Proof.Machine.execArenaFree ctx addr s
  | .streamStart sid d => Sys2Proof.Machine.execStreamStart sid d s
  | .feedPrefetch w q idx p half d => Sys2Proof.Machine.execFeedPrefetch w q idx p half d s
  | .imagePrefetch q idx d => Sys2Proof.Machine.execImagePrefetch q idx d s
  | .streamTransaction sid rd env => Sys2Proof.Machine.execStreamTransaction sid rd env s
  | .translationWalk ctx page tableError => Sys2Proof.Machine.execTranslationWalk ctx page tableError s
  | .translationFault sid => Sys2Proof.Machine.execTranslationFault sid s
  | .streamDone sid => Sys2Proof.Machine.execStreamDone sid s
  | .scrubQueued larder => Sys2Proof.Machine.execScrubQueued larder s
  | .sweepGranule larder env => Sys2Proof.Machine.execSweepGranule larder env s
  | .rowRetire stack row pages => Sys2Proof.Machine.execRowRetire stack row pages s
  | .stackDown stack => Sys2Proof.Machine.execStackDown stack s
  | .stackDerate stack temp => Sys2Proof.Machine.execStackDerate stack temp s
  | .rtokMint ctx cls => Sys2Proof.Machine.execRtokMint ctx cls s
  | .freezeCapture => Sys2Proof.Machine.execFreezeCapture s
  | .freezeRelease => Sys2Proof.Machine.execFreezeRelease s
  | .auditTimer => Sys2Proof.Machine.execAuditTimer s
  | .radiatorTick => Sys2Proof.Machine.execRadiatorTick s
  | .heaterCodeWrite off val hwDropped => Sys2Proof.Machine.execHeaterCodeWrite off val hwDropped s
  | .heaterScClear h retrip => Sys2Proof.Machine.execHeaterScClear h retrip s
  | .slprofWrite p val => Sys2Proof.Machine.execSlprofWrite p val s
  | .generatorWrite off val => Sys2Proof.Machine.execGeneratorWrite off val s
  | .heaterShortOnset h => Sys2Proof.Machine.execHeaterShortOnset h s
  | .heaterShort h => Sys2Proof.Machine.execHeaterShort h s
  | .lockinCycleStart dither => Sys2Proof.Machine.execLockinCycleStart dither s
  | .lockinCycleEnd deltas => Sys2Proof.Machine.execLockinCycleEnd deltas s
  | .sweepEnd w => Sys2Proof.Machine.execSweepEnd w s
  | .sensorConversion period => Sys2Proof.Machine.execSensorConversion period s
  | .sensorHoldExpiry n => Sys2Proof.Machine.execSensorHoldExpiry n s
  | .throttleLower => Sys2Proof.Machine.execThrottleLower s
  | .thermalTrip => Sys2Proof.Machine.execThermalTrip s
  | .auxComplianceLost out => Sys2Proof.Machine.execAuxComplianceLost out s
  | .doorTrained d peer => Sys2Proof.Machine.execDoorTrained d peer s
  | .flitReceive d fecCorr fecUnc flit => Sys2Proof.Machine.execFlitReceive d fecCorr fecUnc flit s
  | .flitTransmit d => Sys2Proof.Machine.execFlitTransmit d s
  | .nullFlitTimer d => Sys2Proof.Machine.execNullFlitTimer d s
  | .doorDown d cause => Sys2Proof.Machine.execDoorDown d cause s
  | .doorRetrain d fails => Sys2Proof.Machine.execDoorRetrain d fails s
  | .linkDegraded d rate => Sys2Proof.Machine.execLinkDegraded d rate s
  | .rd env => Sys2Proof.Machine.execRd env s
  | .wr env => Sys2Proof.Machine.execWr env s
  | .atom contended env => Sys2Proof.Machine.execAtom contended env s
  | .atomq => Sys2Proof.Machine.execAtomq s
  | .atomqPerform env => Sys2Proof.Machine.execAtomqPerform env s
  | .rdrsp env => Sys2Proof.Machine.execRdrsp env s
  | .wrack => Sys2Proof.Machine.execWrack s
  | .atrsp => Sys2Proof.Machine.execAtrsp s
  | .retry => Sys2Proof.Machine.execRetry s
  | .atomResend tag => Sys2Proof.Machine.execAtomResend tag s
  | .reddesc => Sys2Proof.Machine.execReddesc s
  | .reddata => Sys2Proof.Machine.execReddata s
  | .redack => Sys2Proof.Machine.execRedack s
  | .remoteTimeout tag => Sys2Proof.Machine.execRemoteTimeout tag s
  | .trussTimeout q idx => Sys2Proof.Machine.execTrussTimeout q idx s
  | .ctxCreate mb => Sys2Proof.Machine.execCtxCreate mb s
  | .ctxDestroy mb env => Sys2Proof.Machine.execCtxDestroy mb env s
  | .ctxPin mb base env => Sys2Proof.Machine.execCtxPin mb base env s
  | .ctxUnpin mb => Sys2Proof.Machine.execCtxUnpin mb s
  | .ctxEvict mb env => Sys2Proof.Machine.execCtxEvict mb env s
  | .ctxQuery mb => Sys2Proof.Machine.execCtxQuery mb s
  | .queueCreate mb base env => Sys2Proof.Machine.execQueueCreate mb base env s
  | .queueDestroy mb env => Sys2Proof.Machine.execQueueDestroy mb env s
  | .queueResume mb => Sys2Proof.Machine.execQueueResume mb s
  | .queueFlush mb env => Sys2Proof.Machine.execQueueFlush mb env s
  | .queueQuery mb => Sys2Proof.Machine.execQueueQuery mb s
  | .memMap mb pages => Sys2Proof.Machine.execMemMap mb pages s
  | .memUnmap mb => Sys2Proof.Machine.execMemUnmap mb s
  | .memProtect mb => Sys2Proof.Machine.execMemProtect mb s
  | .arenaSet mb => Sys2Proof.Machine.execArenaSet mb s
  | .arenaQuery mb => Sys2Proof.Machine.execArenaQuery mb s
  | .shareCreate mb shid pages => Sys2Proof.Machine.execShareCreate mb shid pages s
  | .shareMap mb => Sys2Proof.Machine.execShareMap mb s
  | .shareUnmap mb env => Sys2Proof.Machine.execShareUnmap mb env s
  | .shareRelease mb env => Sys2Proof.Machine.execShareRelease mb env s
  | .kernelLoad mb handle env => Sys2Proof.Machine.execKernelLoad mb handle env s
  | .kernelUnload mb => Sys2Proof.Machine.execKernelUnload mb s
  | .streamResume mb => Sys2Proof.Machine.execStreamResume mb s
  | .streamAbort mb env => Sys2Proof.Machine.execStreamAbort mb env s
  | .resvSet mb => Sys2Proof.Machine.execResvSet mb s
  | .panePin mb => Sys2Proof.Machine.execPanePin mb s
  | .paneUnpin mb => Sys2Proof.Machine.execPaneUnpin mb s
  | .windowQuarantine mb => Sys2Proof.Machine.execWindowQuarantine mb s
  | .windowQualify mb resA resB => Sys2Proof.Machine.execWindowQualify mb resA resB s
  | .radiatorPark mb => Sys2Proof.Machine.execRadiatorPark mb s
  | .auxSetDefaults mb => Sys2Proof.Machine.execAuxSetDefaults mb s
  | .evqSet mb => Sys2Proof.Machine.execEvqSet mb s
  | .topoLoad mb env => Sys2Proof.Machine.execTopoLoad mb env s
  | .topoQuery mb => Sys2Proof.Machine.execTopoQuery mb s
  | .linkOpen mb => Sys2Proof.Machine.execLinkOpen mb s
  | .linkClose mb => Sys2Proof.Machine.execLinkClose mb s
  | .linkQuery mb => Sys2Proof.Machine.execLinkQuery mb s
  | .exportSet mb => Sys2Proof.Machine.execExportSet mb s
  | .exportClear mb => Sys2Proof.Machine.execExportClear mb s
  | .remoteMap mb => Sys2Proof.Machine.execRemoteMap mb s
  | .trussGroup mb env => Sys2Proof.Machine.execTrussGroup mb env s
  | .trussBind mb => Sys2Proof.Machine.execTrussBind mb s
  | .trussClear mb => Sys2Proof.Machine.execTrussClear mb s
  | .attest mb => Sys2Proof.Machine.execAttest mb s
  | .certRead mb => Sys2Proof.Machine.execCertRead mb s
  | .frecRead mb => Sys2Proof.Machine.execFrecRead mb s
  | .fwStage mb env => Sys2Proof.Machine.execFwStage mb env s
  | .fwActivate mb => Sys2Proof.Machine.execFwActivate mb s
  | .fwCommit mb => Sys2Proof.Machine.execFwCommit mb s
  | .fwQuery mb => Sys2Proof.Machine.execFwQuery mb s
  | .testChallenge mb rnd => Sys2Proof.Machine.execTestChallenge mb rnd s
  | .challengeExpiry => Sys2Proof.Machine.execChallengeExpiry s
  | .testUnlock mb env => Sys2Proof.Machine.execTestUnlock mb env s
  | .boardCfgSet mb env => Sys2Proof.Machine.execBoardCfgSet mb env s
  | .pwrLimit mb => Sys2Proof.Machine.execPwrLimit mb s
  | .resetPart mb => Sys2Proof.Machine.execResetPart mb s
  | .coolLimit mb => Sys2Proof.Machine.execCoolLimit mb s
  | .recoveryDataWrite val => Sys2Proof.Machine.execRecoveryDataWrite val s
  | .recoveryGo val hwDropped => Sys2Proof.Machine.execRecoveryGo val hwDropped s
  | .jtagInstruction ins quietSecond => Sys2Proof.Machine.execJtagInstruction ins quietSecond s
  | .jtagLeaveBoundary => Sys2Proof.Machine.execJtagLeaveBoundary s
  | .frecSummaryUpdate seconds lampSeconds => Sys2Proof.Machine.execFrecSummaryUpdate seconds lampSeconds s
  | .smbusReadStatus => Sys2Proof.Machine.execSmbusReadStatus s
  | .smbusReadPavg => Sys2Proof.Machine.execSmbusReadPavg s
  | .smbusReadTpol => Sys2Proof.Machine.execSmbusReadTpol s
  | .smbusReadRtd n => Sys2Proof.Machine.execSmbusReadRtd n s
  | .smbusReadRailstat => Sys2Proof.Machine.execSmbusReadRailstat s
  | .smbusReset => Sys2Proof.Machine.execSmbusReset s
  | .laserInLok l => Sys2Proof.Machine.execLaserInLok l s
  | .pcieLinkInL0 speed width flitMode => Sys2Proof.Machine.execPcieLinkInL0 speed width flitMode s
  | .railReturnsToTolerance rail => Sys2Proof.Machine.execRailReturnsToTolerance rail s
  | .vstbyWithinTolerance => Sys2Proof.Machine.execVstbyWithinTolerance s
  | .requestToNoBar kind => Sys2Proof.Machine.execRequestToNoBar kind s

end Sys2Proof.Machine
end

