-- ==== Sys2Proof/Safety.lean ====
section
/-!
DEFINITION. What counts as a sound part, in the terms the statements use: the canonical form of its memories, the bounds
the spec sets on its queues and records, the conservation of its audited quantities, and the fuses, which only blow; then the conditions
and results that statements about single commands share.
-/

namespace Sys2Proof.Machine

/-- The audited quantities are conserved: LEVEL is TAKE less GIVE (Table 8.5). -/
def Conserved (a : Bank Aud) : Prop := ∀ e ∈ a, e.2.level = e.2.take - e.2.give

/-- Every Pantry's SRAM is in canonical form. -/
def SramsWf (p : Bank Pantry) : Prop := ∀ e ∈ p, e.2.sram.wf = true

/-- What every step keeps: canonical memories, granules poisoned once, at most 64 granules in each scrub queue (R254), at
most 64 held events (R393), at most 1,024 failure-record entries (R501), conserved quantities (Table 8.5), at most 64 SVN and 16 TESTCNT fuses (R520). -/
structure Tidy (s : State) : Prop where
  mem : s.mem.data.wf = true
  srams : SramsWf s.pantries
  poison : s.mem.poison.Nodup
  scrubC : s.mem.scrubC.length ≤ 64
  scrubL : s.mem.scrubL.length ≤ 64
  events : s.events.length ≤ 64
  frec : s.nvm.frec.length ≤ 1024
  aud : Conserved s.corr.aud
  svn : s.fuses.svn ≤ 64
  testCnt : s.fuses.testCnt ≤ 16

/-- Fuses only blow: identity, key hashes and the JTAG lock never change, the SVN and the test count never fall, and a
revoked key stays revoked (chapter 13). -/
structure OneWay (f g : Fuses) : Prop where
  ordcode : g.ordcode = f.ordcode
  mfgrev : g.mfgrev = f.mfgrev
  serial : g.serial = f.serial
  keyHash : g.keyHash = f.keyHash
  testHash : g.testHash = f.testHash
  jtagLock : g.jtagLock = f.jtagLock
  svn : f.svn ≤ g.svn
  keyRev : g.keyRev &&& f.keyRev = f.keyRev
  testCnt : f.testCnt ≤ g.testCnt

/-- What every reset clears, whatever its type (Table 12.3, Table 14.1, R461): IFLEVEL, Yilium's objects, commands in flight,
mailboxes, streams, trees, events, the translation and Corridor blocks but for the live CSPEED, reservations, exports, remote
requests, Truss groups, the range table; every Window is OFF, or still RETIRED (R115), its panes EMPTY and its other registers
as after reset but SPARE and REDIR, which show the Lamp and the service state; every Pantry holds nothing. -/
structure Cleared (t : State) : Prop where
  mboxes : t.mboxes = [] ∧ t.umboxes = []
  dumbs : t.dumbs = []
  corr : t.corr = { Corridor.reset with cspeed := t.corr.cspeed }
  links : t.link.reqs = [] ∧ t.link.groups = [] ∧ t.link.partials = [] ∧ t.link.inbox = [] ∧ t.link.atomq = []
  windows : ∀ e ∈ t.windows, (e.2.state = .off ∨ e.2.state = .retired) ∧
    e.2 = { Window.reset with state := e.2.state, gone := e.2.gone, redir := e.2.redir, spare := e.2.spare }
  pantries : ∀ e ∈ t.pantries, e.2 = { Pantry.reset with out := e.2.out, migr := e.2.migr }
  ifLevel : t.ifLevel = 0
  ctxs : t.ctxs = []
  queues : t.queues = []
  ops : t.ops = []
  shares : t.shares = []
  streams : t.streams = []
  trees : t.trees = []
  events : t.events = []
  evRing : t.evRing = none
  xlate : t.xlate = Xlate.reset
  resvs : t.mem.resvs = []
  owners : t.mem.owners = []
  exports : t.link.exports = []
  ranges : t.host.ranges = []

/-- The host's answer is clean and no granule of n bytes at an address delivers poison. -/
def CleanRead (s : State) (env : Env) (pa n : Nat) : Prop :=
  env.ue = [] ∧ env.ce = [] ∧ ∀ g ∈ granulesOf pa n, g ∉ s.mem.poison ∧ stackOut s (64 * g) = false

/-- Queue n's sequencer may decode the entry b at HEAD now (R280, R281, R287, R360 to R363): the queue, the state after the
entry is read, the entry. -/
structure Due (s : State) (env : Env) (n : Nat) (q : Queue) (s1 : State) (b : List Byte) : Prop where
  queue : queueOf s n = some q
  up : powered s = true
  ready : isReady s = true
  noTrip : s.power.trip = false
  dec : decodable s n q = true
  grant : arbClass s (n % 8) q.cls (seqWaits s (n % 8)) = true
  turn : seqPick s (n % 8) q.cls = some n
  entry : readVa s env q.ctx (q.ringVa + 128 * (q.head % q.ringN)) 128 = (s1, .ok, b)

/-- A decode took the entry (R361, R363, R367): the command is in flight under the index of HEAD with the entry's header and body, refused with the
status and DETAIL of the decode check if it fails, HEAD is one further, and one operation token is taken. -/
structure Decoded (s : State) (n : Nat) (q : Queue) (b : List Byte) (t : State) : Prop where
  op : ∃ o, findOp t (n, q.head) = some o ∧ o.hdr = parseHdr b ∧ o.cmd = parseCmd b ∧ o.ctx = q.ctx ∧ o.cls = q.cls ∧
    ∀ st d, decodeCheck s n q.ctx b = some (st, d) → o.done = some st ∧ o.detail = d
  head : (queueOf t n).map (·.head) = some ((q.head + 1) % 65536)
  token : (audOf t 0).take = (audOf s 0).take + 1
  mem : t.mem.data = s.mem.data

/-- A mailbox holds a request with a code that Yilium executes now: Yilium answers, the request is taken already or next in turn, and
nothing refuses it beforehand (R347, R349, R350, R461). -/
structure Taken (s : State) (mb : MbRef) (code : Nat) : Prop where
  up : lbOpen s = true
  cmd : reqCmd (mbGet s mb) = code
  turn : (mbGet s mb).busy = true ∨ mbNext s = some (mbIx mb)
  pass : lbRefusal s (mbGet s mb) = none

/-- Argument k of a mailbox's request. -/
def argOf (s : State) (mb : MbRef) (k : Nat) : Nat := reqArg (mbGet s mb) k

/-- A mailbox's command ended in t with a status and results, its effect being u (R347): the response, BUSY, DONE and SEQ; beyond u only
mailboxes, events, interrupts and the log of what is sent differ (the answer's own event, and Yilium's answers to unknown
codes). -/
structure Ran (s t : State) (mb : MbRef) (st : Status) (vs : List Nat) (u : State) : Prop where
  resp : (mbGet t mb).resp.take (vs.length + 1) = BitVec.ofNat 64 (st.ctorIdx + 65536 * vs.length) :: vs.map (BitVec.ofNat 64)
  busy : (mbGet t mb).busy = false
  done : (mbGet t mb).done = true
  seq : (mbGet t mb).seq = (mbGet s mb).seq + 1
  same : t = { u with
    mboxes := t.mboxes, umboxes := t.umboxes, lastMbox := t.lastMbox, events := t.events, evSeq := t.evSeq, evRing := t.evRing,
    out := t.out, host := { u.host with msix := t.host.msix } }

/-- What a command that waits leaves: its request is taken; beyond that only mailboxes, events, interrupts and the log of what is
sent differ, by Yilium's answers to unknown codes (R349, R350). -/
def LbWaits (s t : State) (mb : MbRef) : Prop :=
  (mbGet t mb).busy = true ∧ t = { s with
    mboxes := t.mboxes, umboxes := t.umboxes, lastMbox := t.lastMbox, events := t.events, evSeq := t.evSeq, evRing := t.evRing,
    out := t.out, host := { s.host with msix := t.host.msix } }


/-- What a Cold, a Warm and an Internal reset of s clear beyond that (Table 12.3, Table 14.1): Study, the memory block (the
memories are still to be initialised), Radiator, Thermostat and AUX outputs, the Doors, which train again where the part has
any, the link block and the power block. -/
structure Restarted (s t : State) : Prop where
  study : t.study = { Study.reset with removed := s.study.removed }
  mem : t.mem.init = false ∧ t.mem.swctrl = 0x000A0803 ∧ t.mem.flags = 0 ∧ t.mem.poisCnt = 0
  thermo : t.thermo.nvmOk = false ∧ t.thermo.rampDone = false ∧ t.thermo.parkAll = false ∧ t.thermo.conv = 0 ∧
    t.thermo.tctrl = 0x000210FF ∧ t.thermo.loopOn = 0
  heaters : ∀ e ∈ t.thermo.heaters, ∀ x ∈ e.2.dflt :: e.2.chans.map (·.2), x.out = 0 ∧ x.u = 0
  aux : ∀ e ∈ t.thermo.aux, e.2.out = 0 ∧ e.2.u = 0
  doors : if isS s then t.link.doors = [] else ∀ d < 16, (doorOf t d).state = .training ∧ (doorOf t d).replay = []
  link : t.link.topo = none ∧ t.nodeId = 0 ∧ t.link.rto = 0x64 ∧ t.link.trto = 0x64
  power : t.power.plimit = 480 ∧ t.power.thlvl = 0 ∧ t.power.flags = 0 ∧ t.power.thRaise = 0

/-- What no reset touches (Table 12.3, R504): fuses, the images and certificates, the customer region, the retired rows; a
retired page stays retired. -/
structure ResetKeeps (s t : State) : Prop where
  fuses : t.fuses = s.fuses
  banks : t.nvm.bankA = s.nvm.bankA ∧ t.nvm.bankB = s.nvm.bankB ∧ t.nvm.certs = s.nvm.certs
  customer : t.nvm.boardCfg = s.nvm.boardCfg ∧ t.nvm.topo = s.nvm.topo ∧ t.nvm.auxVals = s.nvm.auxVals
  rows : t.nvm.retRows = s.nvm.retRows
  pages : ∀ p ∈ s.nvm.retPages, p ∈ t.nvm.retPages


/-- An error was reported under AER (R343): t is s with its status bit set, a header log entry at most, and these sent. -/
def Reported (s t : State) (e : AerErr) (sent : List Out) : Prop :=
  t.out = s.out ++ sent ∧ t.host.cfg.aerStatus = s.host.cfg.aerStatus ||| BitVec.ofNat 32 (2 ^ e.bit) ∧
    (∃ h, t.host.cfg.hdrLog = s.host.cfg.hdrLog ++ h ∧ ∀ x ∈ h, x.1 = e.bit) ∧
    t = { s with
      out := t.out,
      host := { s.host with cfg := { s.host.cfg with aerStatus := t.host.cfg.aerStatus, hdrLog := t.host.cfg.hdrLog } } }

/-- t is u with a grant of its turn counted: only rounds and rotating pointers differ (R279, R280). -/
def Turned (u t : State) : Prop := t = { u with corr := { u.corr with arb := t.corr.arb, ptr := t.corr.ptr } }

end Sys2Proof.Machine
end

