-- ==== Sys2Proof/Certificates/Slice0/Obligations.lean ====
section
/-!
DEFINITION. The statements for the provers. Each docstring names the rules of spec/ it formalises, and the log entry where a clause
is the model's choice. Every statement about a command concludes that exec answers a next state, under hypotheses on the
state and the operands alone.
-/

open Sys2Proof Sys2Proof.Machine

/-- A step takes the command at the front of the queue (the model's own form; the idle step is log entry 1). -/
def Obligations.StepRunsCommand : Prop :=
  ∀ s : State, (∀ c rest, s.pending = c :: rest → step s = exec c { s with pending := rest }) ∧ (s.pending = [] → step s = .next s)

/-- No command ends in a fault or a refusal, and none touches the commands that wait (log entry 1 says what an event does that
cannot happen). -/
def Obligations.StepTakesFront : Prop :=
  ∀ (s : State) (c : Instr) (rest : List Instr), s.pending = c :: rest → ∃ t, step s = .next t ∧ t.pending = rest

/-- The invariant of the whole part, kept by every step from every state (R254, R293, R393, R501, R520 give the bounds). -/
def Obligations.StepsKeepTidy : Prop := ∀ s t : State, step s = .next t → Tidy s → Tidy t

/-- Fuses only blow (chapter 13). -/
def Obligations.FusesOnlyBlow : Prop := ∀ s t : State, step s = .next t → OneWay s.fuses t.fuses

/-- The state right after a Cold reset cleared the part (R459, Table 12.3). -/
def Obligations.ResetTidy : Prop :=
  Tidy State.reset ∧ Cleared State.reset ∧ State.reset.pending = [] ∧ State.reset.pwrGood = true ∧
    State.reset.power.rstCause = 0 ∧ State.reset.mem.poison = [] ∧ State.reset.lamp.lok = 0

/-- A rise of PWRGOOD is a Cold reset, a PERST_N assertion and an SMBus RESET are Warm resets: each clears the units Table 12.3
marks and keeps the others; while PWRGOOD is low every block is cleared, the Lamp dark and every channel at u = 0. R457, R459,
R464, R476, R492, R540, Table 12.3. The summary of the failure record is written at a Warm reset: log entry 104. -/
def Obligations.PinResetsClearThePart : Prop :=
  ∀ s : State,
    (s.pwrGood = false → ∃ t, exec .pwrgoodAssert s = .next t ∧ Cleared t ∧ Restarted s t ∧ ResetKeeps s t ∧ t.pwrGood = true ∧
      t.resetting = some .cold ∧ t.power.rstCause = 0 ∧ t.power.coolMax = 0x1680 ∧ t.power.trip = false ∧ t.lamp.lok = 0 ∧
      t.lamp.enabled = 0 ∧ t.host.cfgReady = false ∧ t.host.cfgDone = false ∧ t.host.msix = [] ∧ t.thresh.hearthRun = false ∧
      t.thresh.tstate = .boot ∧ t.nvm.frec = s.nvm.frec ∧ t.nvm.frecSum.coldCnt = s.nvm.frecSum.coldCnt + 1) ∧
    (s.pwrGood = true → ∃ t, exec .pwrgoodDeassert s = .next t ∧ Cleared t ∧ Restarted s t ∧ ResetKeeps s t ∧ t.pwrGood = false ∧
      t.lamp.lok = 0 ∧ t.lamp.enabled = 0 ∧ t.host.cfgReady = false ∧ t.nvm.frec = s.nvm.frec) ∧
    (powered s = true → s.warmHeld = false → s.perstN = true → ∃ t, exec .perstNAssert s = .next t ∧ Cleared t ∧ Restarted s t ∧
      ResetKeeps s t ∧ t.perstN = false ∧ t.warmHeld = true ∧ t.power.rstCause = 1 ∧ t.power.trip = false ∧ t.lamp = s.lamp ∧
      t.power.coolMax = s.power.coolMax ∧ t.host.cfgReady = false ∧ t.host.msix = [] ∧ t.thresh.hearthRun = false ∧
      t.nvm.frec = s.nvm.frec ∧ t.nvm.frecStored = { s.nvm.frecSum with nEntry := s.nvm.frec.length }) ∧
    (powered s = true → s.warmHeld = false → s.smbusUp = true → ∃ t, exec .smbusReset s = .next t ∧ Cleared t ∧ Restarted s t ∧
      ResetKeeps s t ∧ t.perstN = s.perstN ∧ t.warmHeld = !s.perstN ∧ t.power.rstCause = 2 ∧ t.power.trip = false ∧
      t.lamp = s.lamp ∧ t.power.coolMax = s.power.coolMax ∧ t.host.cfgReady = false ∧ t.host.msix = [] ∧
      t.thresh.hearthRun = false ∧ t.nvm.frec = s.nvm.frec ∧
      t.nvm.frecStored = { s.nvm.frecSum with nEntry := s.nvm.frec.length })

/-- A Function Level Reset clears the endpoint and Yilium's objects, closes every Door and keeps Study, the memories' contents but
Yilium's 8 MiB, Radiator, Lamp, power and link blocks; an Internal reset, asked for or after a lockstep mismatch or a watchdog
expiry, keeps the endpoint and the Lamp, and the latter two are reported under AER and recorded first. R459, R462, R463, R464,
R465, R500, R540, R543, Table 12.3. -/
def Obligations.LesserResetsClearThePart : Prop :=
  ∀ s : State, s.warmHeld = false →
    (linkUp s = true → s.host.cfgReady = true → ∃ t, exec .functionLevelReset s = .next t ∧ Cleared t ∧ ResetKeeps s t ∧
      t.power = { s.power with rstCause := 3 } ∧ t.host.cfgReady = false ∧ t.host.msix = [] ∧ t.host.lspeed = s.host.lspeed ∧
      t.thermo = s.thermo ∧ t.lamp = s.lamp ∧ t.study.coreOk = s.study.coreOk ∧ t.study.srdy = s.study.srdy ∧
      t.mem.data = s.mem.data ∧ t.mem.swctrl = s.mem.swctrl ∧
      t.mem.poison = s.mem.poison.filter (fun g => decide (64 * g < 0xF800000 ∨ 0x10000000 ≤ 64 * g)) ∧
      (∀ d < 16, doorOpen t d = false) ∧ t.link.topo = s.link.topo ∧ t.nodeId = s.nodeId) ∧
    (∀ c, powered s = true → s.internalCause = some c → ∃ t, exec .internalReset s = .next t ∧ Cleared t ∧ Restarted s t ∧
      ResetKeeps s t ∧ t.power.rstCause = c ∧ t.host.msix = s.host.msix ∧ t.host.cfgReady = s.host.cfgReady ∧
      t.host.cfg = s.host.cfg ∧ t.lamp = s.lamp ∧ t.internalCause = none ∧ t.power.trip = s.power.trip) ∧
    (powered s = true → s.thresh.hearthRun = true →
      (∃ t, exec .hearthLockstepMismatch s = .next t ∧ Cleared t ∧ Restarted s t ∧ ResetKeeps s t ∧ t.power.rstCause = 4 ∧
        t.lamp = s.lamp ∧ t.host.cfgReady = s.host.cfgReady ∧
        .aer .internalError (s.host.cfg.aerSev.getLsbD 22) ∈ t.out ∧
        (s.nvm.frec.length < 1024 → t.host.msix = s.host.msix ∧ ∃ e, t.nvm.frec = s.nvm.frec ++ [e] ∧ e.kind = 11)) ∧
      (∃ t, exec .yiliumWatchdogExpiry s = .next t ∧ Cleared t ∧ Restarted s t ∧ ResetKeeps s t ∧ t.power.rstCause = 5 ∧
        t.lamp = s.lamp ∧ t.host.cfgReady = s.host.cfgReady ∧
        .aer .internalError (s.host.cfg.aerSev.getLsbD 22) ∈ t.out ∧
        (s.nvm.frec.length < 1024 → t.host.msix = s.host.msix ∧ ∃ e, t.nvm.frec = s.nvm.frec ++ [e] ∧ e.kind = 12)))

/-- Each start-up step has its effect: NVM load, configuration, Cellar, link and PERST_N. R171, R173, R304, R305, R306, R466, R467,
R477, R541, R559, Table 12.4. A configuration read returns what log entry 101 says; CONFIG_REQUEST keeps its answer over a Warm
reset: log entry 30. -/
def Obligations.StartUpStepsTakeEffect : Prop :=
  ∀ s : State,
    exec .perstNDeassert s = .next { s with perstN := true, warmHeld := false } ∧
    (starting s = true → s.thermo.nvmOk = false → ∃ t, exec .nvmLoadComplete s = .next t ∧ t.thermo.nvmOk = true ∧
      t.lamp.enabled = (if s.power.trip then s.lamp.enabled
        else s.lamp.enabled ||| ((if s.lamp.spareUse then 0x1FF else 0xFF) &&& ~~~s.lamp.failed)) ∧
      (∀ w < 8, ∃ b, bankFind t.thermo.heaters w = some b ∧ ∀ x ∈ b.dflt :: b.chans.map (·.2),
        x.out = (if s.thermo.parkAll then x.park else 0) ∧ x.u = x.out ∧ x.code = x.pwrUp ∧ x.prof = 6 ∧ x.den = false ∧
          x.dsel = 0 ∧ (recordGood s w = false → x.pwrUp = 0 ∧ x.park = 0)) ∧
      ((∃ w < 8, recordGood s w = false) → t.thermo.flags.getLsbD 1 = true) ∧
      (∀ w < 8, recordGood s w = false → (win s w).state = .off → (win t w).state = .off ∧
        (win t w).redir = !(pantry s w).out) ∧
      t.mem = s.mem ∧ t.host = s.host ∧ t.ifLevel = s.ifLevel) ∧
    (powered s = true → s.perstN = true → s.warmHeld = false → s.thresh.hearthRun = true →
      exec .configReady s = .next { s with host := { s.host with cfgReady := true } }) ∧
    (∀ (r : CfgReg) (v : Word), linkUp s = true → s.host.cfgReady = false → s.host.cfgDone = false →
      exec (.configRequest (.read r)) s = .next { s with out := s.out ++ [.config .retry] } ∧
      exec (.configRequest (.write r v)) s = .next { s with out := s.out ++ [.config .retry] }) ∧
    (∀ r : CfgReg, linkUp s = true → s.host.cfgReady = true → ∃ t, exec (.configRequest (.read r)) s = .next t ∧
      t.out = s.out ++ [.config (cfgRead s r)] ∧ t = { s with out := t.out, host := { s.host with cfgDone := true } }) ∧
    (∀ v : Word, linkUp s = true → s.host.cfgReady = true →
      ∃ t, exec (.configRequest (.write .aerSeverity v)) s = .next t ∧ t.out = s.out ++ [.config .written] ∧
        t = { s with out := t.out, host := { s.host with cfgDone := true, cfg := { s.host.cfg with aerSev := v &&& aerSevMask } } }) ∧
    (starting s = true → s.mem.init = false → ∃ t, exec .cellarInit s = .next t ∧ (∀ a, t.mem.data.get a = 0) ∧
      t.mem.poison = [] ∧ t.mem.init = true ∧
      t = { s with mem := { s.mem with data := t.mem.data, poison := [], init := true } }) ∧
    (∀ (speed : Fin 7) (width : Fin 32) (flit : Bool), powered s = true → s.perstN = true →
      exec (.pcieLinkInL0 speed width flit) s = .next { s with
        host := { s.host with lspeed := BitVec.ofNat 3 speed.val, lwidth := BitVec.ofNat 5 width.val, flit := flit } })

/-- Only an image that passes the check runs; recovery takes one over RCVDATA and RCVGO. R506 to R510; R344 and Table 9.5 for
LOSTUPD of RCVCTL. -/
def Obligations.FirmwareIsCheckedBeforeItRuns : Prop :=
  ∀ s : State,
    (starting s = true → s.thresh.hearthRun = false → s.thresh.tstate = .boot → s.nvm.fuseTodo = none → s.nvm.wipePending = false →
      s.nvm.fwAct = false → s.nvm.switchDue = false → ∃ t, exec .firmwareCheck s = .next t ∧ t.fuses = s.fuses ∧
      (if imgAccepted s (bankImage s s.nvm.bank) then
        t.thresh.tstate = .normal ∧ t.thresh.hearthRun = true ∧ t.thresh.running = bankImage s s.nvm.bank ∧ t.nvm = s.nvm
      else if imgAccepted s (bankImage s (!s.nvm.bank)) then
        t.thresh.tstate = .normal ∧ t.thresh.hearthRun = true ∧ t.thresh.running = bankImage s (!s.nvm.bank) ∧
          t.nvm.bank = !s.nvm.bank ∧ t.fwFallback = true ∧ t.thresh.flags.getLsbD 0 = true
      else t.thresh.tstate = .recovery ∧ t.thresh.hearthRun = false ∧ t.thresh.rcvLen = 0 ∧ t.nvm = s.nvm)) ∧
    (barUp s = true → inRecovery s = true →
      (∀ val : Word, ∃ t, exec (.recoveryDataWrite val) s = .next t ∧ t.thresh.rcvWords = s.thresh.rcvWords ++ [val] ∧
        t.thresh.rcvLen = s.thresh.rcvLen + 1 ∧ t.thresh.rcvData = val ∧ t = { s with thresh := t.thresh }) ∧
      (∀ (val : Word) (drop : Bool), val.getLsbD 0 = true → ∃ t, exec (.recoveryGo val drop) s = .next t ∧ t.fuses = s.fuses ∧
        (let img := s.thresh.rcvWords.flatMap (fun w => toBytes 4 w.toNat)
         if imgAccepted s img then Cleared t ∧ t.nvm.bankA = img ∧ t.nvm.bank = false ∧ t.nvm.bankB = s.nvm.bankB
         else t.thresh.flags.getLsbD 4 = true ∧ t.thresh.rcvGo = drop ∧ t.thresh.rcvLost = lostWrite val drop ∧
           t.thresh.rcvLen = 0 ∧ t.thresh.rcvWords = [] ∧ t.nvm = s.nvm)))

/-- Start-up tests put cores and Windows into service. R211, R214, R470. -/
def Obligations.CoresAndWindowsComeIntoService : Prop :=
  ∀ s : State, starting s = true → s.thresh.hearthRun = true → isReady s = false →
    (∀ pass : BitVec 128, s.study.srdy = false → ∃ t, exec (.studyCoreTest pass) s = .next t ∧ t.study.coreOk = pass ∧
      t.study.srdy = true ∧ t.study.removed = s.study.removed &&& ~~~pass ∧ t.mem = s.mem ∧ t.windows = s.windows) ∧
    (∀ (w : Fin 8) (resA resB : List (List Int)), ((win s w.val).state = .off ∨ (win s w.val).state = .qual) →
      s.thermo.rampDone = true → s.nvm.recOk.getLsbD w.val = true → s.power.trip = false → laserLit s w.val = true →
      2 ≤ (win s w.val).convRun → resA.length = 4096 → resB.length = 4096 →
      ∃ t, exec (.windowStartupCheck w resA resB) s = .next t ∧
        (win t w.val).witcnt = (win s w.val).witcnt + 8192 ∧
        ((win t w.val).state = if qualPass s w.val (qualRun s w.val resA resB).2 then .idle else .qual) ∧
        t = { s with windows := t.windows })

/-- A laser in lock lights its Window; one that stays dark is failed and replaced by the spare. R113, R467 to R469, R499. -/
def Obligations.LasersAndDarkLasers : Prop :=
  ∀ s : State,
    (∀ l : Fin 9, powered s = true → s.lamp.enabled.getLsbD l.val = true → s.lamp.failed.getLsbD l.val = false →
      s.power.trip = false → ∃ t, exec (.laserInLok l) s = .next t ∧
        t.lamp = { s.lamp with lok := s.lamp.lok ||| BitVec.ofNat 9 (2 ^ l.val) } ∧
        (s.thermo.rampDone = false → t.thermo = s.thermo) ∧
        (s.thermo.rampDone = true → ∀ w < 8, laserLit t w = true → s.thermo.tctrl.getLsbD w = true →
          t.thermo.loopOn.getLsbD w = true) ∧
        t = { s with lamp := t.lamp, thermo := { s.thermo with loopOn := t.thermo.loopOn } }) ∧
    (starting s = true → s.lampWasLit = false → s.lamp.spareUse = false → s.lamp.failed = 0 →
      ∀ l < 8, s.lamp.enabled.getLsbD l = true → s.lamp.lok.getLsbD l = false →
        (∀ k < l, s.lamp.enabled.getLsbD k = true → s.lamp.lok.getLsbD k = true) →
        ∃ t, exec .laserDarkTimeout s = .next t ∧ t.lamp.failed.getLsbD l = true ∧ t.lamp.spareUse = true ∧
          t.lamp.spareTo = l ∧ (win t l).spare = true ∧ t.mem.data = s.mem.data) ∧
    (∀ l : Fin 9, powered s = true → s.lamp.lok.getLsbD l.val = true → s.lamp.worn.getLsbD l.val = false →
      ∃ t, exec (.lampWear l) s = .next t ∧ t.lamp.worn.getLsbD l.val = true ∧ t.lamp.lok = s.lamp.lok ∧
        t.thresh = { s.thresh with flags := s.thresh.flags ||| 8 } ∧ t.evSeq = s.evSeq + 1 ∧ t.windows = s.windows)

/-- READY raises IFLEVEL; its deadline quarantines Windows that have not settled. R471 to R474, Table 12.7; log entry 60. -/
def Obligations.ReadyRaisesTheInterface : Prop :=
  ∀ s : State, readyOthers s = true →
    (∀ ms : BitVec 16, (∀ w < 8, windowSettled s w = true) → ∃ t, exec (.ready ms) s = .next t ∧ t.ifLevel = 3 ∧
      t.resetting = none ∧ t.power.bootMs = ms ∧ t.nvm.fwFails = 0 ∧ t.fuses = s.fuses) ∧
    (∃ t, exec .readyDeadline s = .next t ∧ t.pastDeadline = true ∧
      (∀ w < 8, (win s w).state = .qual ∨ (win s w).state = .off ∧ s.nvm.recOk.getLsbD w = true →
        (win t w).state = .quar) ∧
      (∀ w < 8, (win s w).state = .idle → (win t w).state = .idle) ∧ t.fuses = s.fuses)

/-- Rails set RAILSTAT, RAILF, ALERT_N and a record; SMBus reads answer and change nothing. R458, R492 to R494, Table 12.10; the
RTD word is 0x8000 when the sensor shows neither a reading, a held value nor an estimate (log entry 56). -/
def Obligations.SidebandReportsRailsAndAnswers : Prop :=
  ∀ (s : State) (rail : Fin 10),
    (s.pwrGood = true → s.power.railStat.getLsbD rail.val = true → ∃ t, exec (.railFault rail) s = .next t ∧
      t.power = { s.power with railStat := s.power.railStat &&& ~~~(BitVec.ofNat 10 (2 ^ rail.val)), flags := s.power.flags ||| 8 } ∧
      t.alertN = false ∧ t.smbusUp = (s.smbusUp && decide (rail.val ≠ 0)) ∧
      (s.nvm.frec.length < 1024 → t.evSeq = s.evSeq + 1 ∧
        ∃ e, t.nvm.frec = s.nvm.frec ++ [e] ∧ e.kind = 14 ∧ e.index = rail.val) ∧
      t.mem = s.mem ∧ t.windows = s.windows ∧ t.ifLevel = s.ifLevel) ∧
    exec (.railReturnsToTolerance rail) s = .next { s with
      power := { s.power with railStat := s.power.railStat ||| BitVec.ofNat 10 (2 ^ rail.val) } } ∧
    exec .vstbyWithinTolerance s = .next { s with
      smbusUp := true, power := { s.power with railStat := s.power.railStat ||| 1 } } ∧
    (s.smbusUp = true →
      exec .smbusReadStatus s = .next { s with
        out := s.out ++ [.smbus ((if s.ifLevel = 0 then 0 else 1) +
        (if s.power.trip then 2 else 0) + 4 * s.power.thlvl.toNat + 32 * s.power.rstCause.toNat)] } ∧
      exec .smbusReadPavg s = .next { s with out := s.out ++ [.smbus (if s.power.pavgValid then s.power.pavg.toNat else 0x8000)] } ∧
      exec .smbusReadTpol s = .next { s with out := s.out ++ [.smbus (if s.power.tpolValid then s.power.tpol.toNat else 0x8000)] } ∧
      (∀ n : Fin 2, exec (.smbusReadRtd n) s = .next { s with
        out := s.out ++ [.smbus (
        let x := sensorOf s (64 + n.val)
        if x.valid || x.hold || x.est then x.temp.toNat else 0x8000)] }) ∧
      exec .smbusReadRailstat s = .next { s with out := s.out ++ [.smbus s.power.railStat.toNat] })

/-- A locked JTAG port admits BYPASS and IDCODE only; boundary scan clears the part. R524, R525. -/
def Obligations.JtagIsGuarded : Prop :=
  ∀ s : State,
    (∀ (q : Bool), boundary s = false → ∀ ins, ins = .bypass ∨ ins = .idcode →
      exec (.jtagInstruction ins q) s = .next { s with thresh := { s.thresh with jtagIns := ins } }) ∧
    (∀ q : Bool, boundary s = false → s.fuses.jtagLock = true → ∃ t, exec (.jtagInstruction .other q) s = .next t ∧
      t.thresh.jtagIns = .bypass ∧ t.thresh.jtagCnt = s.thresh.jtagCnt + 1 ∧ t.thresh.flags.getLsbD 1 = true ∧
      (s.nvm.frec.length < 1024 → t.evSeq = (if q then s.evSeq + 1 else s.evSeq)) ∧ t.mem = s.mem ∧ t.windows = s.windows ∧ t.ifLevel = s.ifLevel ∧ t.fuses = s.fuses) ∧
    (∀ (q : Bool) (ins : JtagInstr), ins = .samplePreload ∨ ins = .extest → boundary s = false → s.pwrGood = true →
      s.perstN = false → ∃ t, exec (.jtagInstruction ins q) s = .next t ∧ boundary t = true ∧ powered t = false ∧ Cleared t ∧
        t.lamp.lok = 0 ∧ t.lamp.enabled = 0) ∧
    (boundary s = true → s.pwrGood = true → ∃ t, exec .jtagLeaveBoundary s = .next t ∧ boundary t = false ∧ Cleared t ∧
      (∀ a < 0x10000000, t.mem.data.get a = 0) ∧ (∀ e ∈ t.pantries, e.2.sram.cells = []) ∧
      (∀ a, 0x10000000 ≤ a → t.mem.data.get a = s.mem.data.get a))

/-- The failure-record summary advances its hours and counts and is stored whole. R503, Table 13.3; log entry 55. -/
def Obligations.FailureRecordSummaryIsWrittenWhole : Prop :=
  ∀ (s : State) (sec lampSec : Nat), powered s = true → ∃ t, exec (.frecSummaryUpdate sec lampSec) s = .next t ∧
    t.nvm.frecStored = t.nvm.frecSum ∧ t.nvm.frecSum.pos = s.nvm.frecSum.pos + sec ∧
    t.nvm.frecSum.nEntry = s.nvm.frec.length ∧ t.nvm.frecSum.coldCnt = s.nvm.frecSum.coldCnt ∧
    (∀ l h, s.nvm.frecSum.lampH[l]? = some h →
      t.nvm.frecSum.lampH[l]? = some (if s.lamp.lok.getLsbD l then h + lampSec else h)) ∧
    t.nvm.frecSum.railSecs = s.nvm.frecSum.railSecs + (if s.power.railStat = 0x3FF then 0 else sec) ∧
    t = { s with nvm := { s.nvm with frecSum := t.nvm.frecSum, frecStored := t.nvm.frecSum } }

/-- Register writes follow byte enables and access class, a 64-bit write is its two words in order, and is discarded whole where one
of them is partial; a LO read captures its HI; BAR2 reads as its doorbells and its reserved offsets. R308 to R310, R319, R344, R534
to R538, Tables 9.5 and 14.2. -/
def Obligations.RegistersFollowTheirAccessClass : Prop :=
  ∀ (s : State) (val : Word) (hw : HwUpd),
    (∀ off, barUp s = true → exec (.registerWrite off val 0 hw none) s = .next s) ∧
    (∀ off be, barUp s = true → be ≠ 0 → be ≠ 15 → exec (.registerWrite off val be hw none) s =
      .next { s with host := { s.host with flags := s.host.flags ||| 1 } }) ∧
    (∀ off be b val' hw', barUp s = true → be ≠ 0 → b ≠ 0 → be ≠ 15 ∨ b ≠ 15 →
      exec (.registerWrite off val be hw (some ⟨val', b, hw'⟩)) s =
        .next { s with host := { s.host with flags := s.host.flags ||| 1 } }) ∧
    (∀ off val' hw', barUp s = true → exec (.registerWrite off val 15 hw (some ⟨val', 15, hw'⟩)) s =
      .next (bar0Word (bar0Word s off val hw) (off + 4) val' hw')) ∧
    (blockOpen s clrCWIF = true → ∀ w : Fin 8,
      (∃ t, exec (.registerWrite (0x20000 + 256 * w.val) val 15 hw none) s = .next t ∧ t = { s with windows := t.windows } ∧
        ∀ v, win t v = win s v) ∧
      (∃ t, exec (.registerWrite (0x20004 + 256 * w.val) val 15 hw none) s = .next t ∧
        t = { s with windows := t.windows } ∧ (∀ v, v ≠ w.val → win t v = win s v) ∧
        win t w.val = { win s w.val with
          flags := ((win s w.val).flags &&& ~~~(val.setWidth 6)) ||| hw.set.setWidth 6 }) ∧
      (∃ t, exec (.registerWrite (0x20028 + 256 * w.val) val 15 hw none) s = .next t ∧
        t = { s with windows := t.windows } ∧ (∀ v, v ≠ w.val → win t v = win s v) ∧
        win t w.val = { win s w.val with witcnt := val + (if hw.inc then 1 else 0) }) ∧
      (∃ t, exec (.registerWrite (0x2000C + 256 * w.val) val 15 hw none) s = .next t ∧
        t = { s with windows := t.windows } ∧ (∀ v, v ≠ w.val → win t v = win s v) ∧
        win t w.val = { win s w.val with blimit := val }) ∧
      (∀ inc : Bool, ∃ t, exec (.counter64Write (0x20020 + 256 * w.val) val inc) s = .next t ∧
        t = { s with windows := t.windows } ∧ (∀ v, v ≠ w.val → win t v = win s v) ∧
        (win t w.val).symcnt =
          ((win s w.val).symcnt >>> 32).setWidth 32 ++ val + (if inc then 1 else 0)) ∧
      (∀ inc : Bool, ∃ t, exec (.counter64Write (0x20024 + 256 * w.val) val inc) s = .next t ∧
        t = { s with windows := t.windows } ∧ (∀ v, v ≠ w.val → win t v = win s v) ∧
        (win t w.val).symcnt = val ++ (win s w.val).symcnt.setWidth 32 + (if inc then 1 else 0))) ∧
    (blockOpen s clrCWIF = true → ∀ d : Fin 16, ∀ inc : Bool,
      (∃ t, exec (.counter64Write (0x23010 + 256 * d.val) val inc) s = .next t ∧ t = { s with dumbs := t.dumbs } ∧
        (dumb t d.val).byteCnt = ((dumb s d.val).byteCnt >>> 32).setWidth 32 ++ val + (if inc then 1 else 0)) ∧
      (∃ t, exec (.counter64Write (0x23014 + 256 * d.val) val inc) s = .next t ∧ t = { s with dumbs := t.dumbs } ∧
        (dumb t d.val).byteCnt = val ++ (dumb s d.val).byteCnt.setWidth 32 + (if inc then 1 else 0))) ∧
    (barUp s = true →
      (∀ off, ∃ t, exec (.captureReadLo false off 15 none) s = .next t ∧
        t.out = s.out ++ [.completion true false (toBytes 4 (readReg s off).toNat)] ∧
        t = { s with
          out := t.out, windows := t.windows, dumbs := t.dumbs,
          mem := { s.mem with elogLatch := t.mem.elogLatch, swLatch := t.mem.swLatch },
          thresh := { s.thresh with serialLatch := t.thresh.serialLatch } }) ∧
      (inRecovery s = false → ∀ w : Fin 8, ∃ t, exec (.captureReadLo false (0x20020 + 256 * w.val) 15 none) s = .next t ∧
        (win t w.val).symLatch = ((win s w.val).symcnt >>> 32).setWidth 32 ∧
        readReg t (0x20024 + 256 * w.val) = ((win s w.val).symcnt >>> 32).setWidth 32) ∧
      (inRecovery s = false → ∃ t, exec (.captureReadLo false 0x24054 15 none) s = .next t ∧
        readReg t 0x24058 = (s.mem.elogAddr >>> 32).setWidth 32 ∧ readReg t 0x2405C = s.mem.elogCtx) ∧
      (∃ t, exec (.captureReadLo false 0x70008 15 none) s = .next t ∧
        t.thresh.serialLatch = (s.fuses.serial >>> 32).setWidth 32) ∧
      (inRecovery s = false → ∀ (page : Fin 4096) (slot : Fin 256),
        exec (.captureReadLo true (4096 * page.val + 4 * slot.val) 15 none) s = .next { s with
          out := s.out ++ [.completion true false (toBytes 4 (match queueOf s slot.val with
            | some q => if q.ctx = page.val then q.bell else 0
            | none => 0).toNat)] }) ∧
      (∀ (page : Fin 4096) (o : Nat), 0x400 ≤ o → o < 0x800 → exec (.captureReadLo true (4096 * page.val + o) 15 none) s =
        .next { s with out := s.out ++ [.completion true false [0, 0, 0, 0]] }))

/-- Range entries are writable only while disabled, but for EN; unmasking sends a pending vector; stray TLPs are reported under AER
with the severity that software set. R323, R341, R343, Table 9.6; the bits of AER's registers: log entry 101. -/
def Obligations.RangeTableVectorsAndStrayTlps : Prop :=
  ∀ s : State,
    (writeOpen s clrCWIF = true → ∀ (e : Fin 16) (val : Word),
      let x := bankGet s.host.ranges RangeEnt.reset e.val
      (x.en = false →
        (∃ t, exec (.rangeTableWrite e 0 val) s = .next t ∧ t = { s with host := { s.host with ranges := t.host.ranges } } ∧
          bankGet t.host.ranges RangeEnt.reset e.val =
            { x with en := val.getLsbD 0, wen := val.getLsbD 1, atom := val.getLsbD 2 }) ∧
        (∃ t, exec (.rangeTableWrite e 1 val) s = .next t ∧ t = { s with host := { s.host with ranges := t.host.ranges } } ∧
          bankGet t.host.ranges RangeEnt.reset e.val = { x with base := val.setWidth 14 }) ∧
        (∃ t, exec (.rangeTableWrite e 2 val) s = .next t ∧ t = { s with host := { s.host with ranges := t.host.ranges } } ∧
          bankGet t.host.ranges RangeEnt.reset e.val = { x with size := val.setWidth 15 }) ∧
        (∃ t, exec (.rangeTableWrite e 3 val) s = .next t ∧ t = { s with host := { s.host with ranges := t.host.ranges } } ∧
          bankGet t.host.ranges RangeEnt.reset e.val = { x with pa := val.setWidth 22 })) ∧
      (x.en = true → val.getLsbD 0 = false → val.getLsbD 1 = x.wen → val.getLsbD 2 = x.atom → ∃ t,
        exec (.rangeTableWrite e 0 val) s = .next t ∧ t = { s with host := { s.host with ranges := t.host.ranges } } ∧
          bankGet t.host.ranges RangeEnt.reset e.val = { x with en := false }) ∧
      (x.en = true → ∀ r : Fin 4, r ≠ 0 → exec (.rangeTableWrite e r val) s =
        .next { s with host := { s.host with flags := s.host.flags ||| 8 } })) ∧
    (blockOpen s clrCWF = true → s.host.msixEn = true → s.host.msixMask = false → ∀ v : Fin 2048,
      let x := bankGet s.host.msix Msix.reset v.val
      ∃ t, exec (.msixUnmask (some v)) s = .next t ∧
        t.out = (if x.pend then s.out ++ [.msix v.val (x.addrHi ++ x.addrLo) x.data] else s.out) ∧
        bankGet t.host.msix Msix.reset v.val = { x with mask := false, pend := false } ∧
        (∀ u, u ≠ v.val → bankGet t.host.msix Msix.reset u = bankGet s.host.msix Msix.reset u) ∧
        t = { s with out := t.out, host := { s.host with msix := t.host.msix } }) ∧
    (powered s = true → s.perstN = true →
      (∃ t, exec (.requestToNoBar .unsupportedNonPosted) s = .next t ∧ Reported s t .unsupportedRequest
        [.aer .unsupportedRequest (s.host.cfg.aerSev.getLsbD 20), .completion false false []]) ∧
      (∃ t, exec (.requestToNoBar .unsupportedPosted) s = .next t ∧ Reported s t .unsupportedRequest
        [.aer .unsupportedRequest (s.host.cfg.aerSev.getLsbD 20)]) ∧
      (∃ t, exec (.requestToNoBar .malformed) s = .next t ∧ Reported s t .malformedTlp
        [.aer .malformedTlp (s.host.cfg.aerSev.getLsbD 18)]) ∧
      (∃ t, exec (.requestToNoBar .unexpectedCompletion) s = .next t ∧ Reported s t .unexpectedCompletion
        [.aer .unexpectedCompletion (s.host.cfg.aerSev.getLsbD 16)]) ∧
      (∃ t, exec (.requestToNoBar .poisonedWrite) s = .next t ∧ Reported s t .poisonedTlp
        [.aer .poisonedTlp (s.host.cfg.aerSev.getLsbD 12)]))

/-- A doorbell of the owning context is accepted; any other is discarded and counted. R315 to R319, R360; a queue that is being
destroyed takes no doorbell (log entry 29), and that case is outside this statement. -/
def Obligations.DoorbellsAreTakenOrCounted : Prop :=
  ∀ (s : State) (page : Fin 4096) (slot : Fin 256) (val : Word), barUp s = true → inRecovery s = false →
    (∀ q, queueOf s slot.val = some q → q.ctx = page.val → q.dying = false →
      ∃ t, exec (.doorbellWrite page slot val 15 none) s = .next t ∧
        queueOf t slot.val = some { q with
          bell := val, ovr := q.ovr || overRing s slot.val q (val.toNat % 65536),
          tail := if overRing s slot.val q (val.toNat % 65536) then q.tail else val.toNat % 65536 } ∧
        doorbellRead t page.val slot.val = val ∧ t.host = { s.host with dbAcc := s.host.dbAcc + 1 } ∧
        (∀ k, k ≠ slot.val → queueOf t k = queueOf s k) ∧
        (∀ c, ctxOf s q.ctx = some c → ctxOf t q.ctx = some { c with
          bellAge := s.bellClock + 1, wantRes := c.wantRes || (!c.resident && !c.lost) }) ∧
        t = { s with queues := t.queues, host := t.host, bellClock := s.bellClock + 1, ctxs := t.ctxs }) ∧
    ((∀ q, queueOf s slot.val = some q → q.ctx ≠ page.val) →
      exec (.doorbellWrite page slot val 15 none) s = .next { s with
        host := { s.host with dbRej := s.host.dbRej + 1, flags := s.host.flags ||| 16 } } ∧
      doorbellRead s page.val slot.val = 0)

/-- Mailbox writes post a request, and are discarded with MBOVR while BUSY. R347, R348, R320. -/
def Obligations.MailboxWritesPostOrAreDiscarded : Prop :=
  ∀ (s : State) (m : Fin 16) (val : Word), barUp s = true → inRecovery s = false →
    (∀ hw : Bool, (mbGet s (.priv m)).busy = true → ∀ off, off = 0 ∨ (0x10 ≤ off ∧ off < 0x800) →
      ∃ t, exec (.mailboxWrite (.priv m) off val 15 hw none) s = .next t ∧
        mbGet t (.priv m) = { mbGet s (.priv m) with mbovr := true }) ∧
    (∀ (hw : Bool) (n : Fin 4096) c, ctxOf s n.val = some c → c.resident = true → blockOpen s clrCWIF = true →
      (mbGet s (.unpriv n)).busy = true → ∀ off, off = 0 ∨ (0x10 ≤ off ∧ off < 0x400) →
      ∃ t, exec (.mailboxWrite (.unpriv n) off val 15 hw none) s = .next t ∧
        mbGet t (.unpriv n) = { mbGet s (.unpriv n) with mbovr := true }) ∧
    ((mbGet s (.priv m)).busy = false → ∀ off, 0x10 ≤ off → off < 0x800 →
      ∃ t, exec (.mailboxWrite (.priv m) off val 15 false none) s = .next t ∧
        (mbGet t (.priv m)).req = (mbGet s (.priv m)).req.write off (toBytes 4 (val &&& reqMask off).toNat)) ∧
    ((mbGet s (.priv m)).busy = false → lbOpen s = false →
      ∃ t, exec (.mailboxWrite (.priv m) 0 val 15 false none) s = .next t ∧ t = { s with mboxes := t.mboxes } ∧
        mbGet t (.priv m) = { mbGet s (.priv m) with
          go := val.getLsbD 0, irq := val.getLsbD 1, lostUpd := lostWrite val false, busy := false }) ∧
    ((mbGet s (.priv m)).busy = false → lbOpen s = true → lbCodes.contains (reqCmd (mbGet s (.priv m))) = true →
      ∃ t, exec (.mailboxWrite (.priv m) 0 val 15 false none) s = .next t ∧
        mbGet t (.priv m) = { mbGet s (.priv m) with
          go := val.getLsbD 0, irq := val.getLsbD 1, lostUpd := lostWrite val false, busy := false })

/-- BAR4 reads and writes reach exactly the bytes their range entry maps. R256, R321, R322, R325, R326. -/
def Obligations.HostReadsAndWritesReachMemory : Prop :=
  ∀ (s : State) (env : Env) (off : Nat), barUp s = true → inRecovery s = false →
    (∀ e len, rangeHits s off = [e] → hostReach s (e.addr off) len = true → CleanRead s env (e.addr off) len →
      exec (.bar4Read off len env) s = .next { s with
        out := s.out ++ [.completion true false (s.mem.data.read (e.addr off) len)] }) ∧
    (∀ e len g, rangeHits s off = [e] → hostReach s (e.addr off) len = true → env.ue = [] → env.ce = [] →
      g ∈ granulesOf (e.addr off) len → g ∈ s.mem.poison →
      ∃ t, exec (.bar4Read off len env) s = .next t ∧ t.out = s.out ++ [.completion true true []] ∧
        t.mem.data = s.mem.data ∧ t.mem.poison = s.mem.poison) ∧
    (∀ len, rangeHits s off = [] → ∃ t, exec (.bar4Read off len env) s = .next t ∧
      Reported { s with host := { s.host with flags := s.host.flags ||| 4, rtmissCnt := s.host.rtmissCnt + 1 } } t .unsupportedRequest
        [.aer .unsupportedRequest (s.host.cfg.aerSev.getLsbD 20), .completion false false []]) ∧
    (∀ e data, rangeHits s off = [e] → hostReach s (e.addr off) data.length = true → e.wen = true →
      firstOut s (e.addr off) data.length = none → env.ue = [] → env.ce = [] →
      s.mem.data.wf = true →
      ∃ t, exec (.bar4Write off data false env) s = .next t ∧
        (∀ i b, data[i]? = some b → t.mem.data.get (e.addr off + i) = b) ∧
        (∀ a, a < e.addr off ∨ e.addr off + data.length ≤ a → t.mem.data.get a = s.mem.data.get a) ∧
        (∀ g, g ∈ t.mem.poison ↔ g ∈ s.mem.poison ∧ coversGranule (e.addr off) data.length g = false)) ∧
    (∀ data, rangeHits s off = [] → ∃ t, exec (.bar4Write off data false env) s = .next t ∧
      Reported { s with host := { s.host with flags := s.host.flags ||| 4, rtmissCnt := s.host.rtmissCnt + 1 } } t .unsupportedRequest
        [.aer .unsupportedRequest (s.host.cfg.aerSev.getLsbD 20)])

/-- FetchAdd, Swap and CAS read and write 8 aligned bytes once and answer the old value. R329, R331. -/
def Obligations.HostAtomicsReadAndWriteOnce : Prop :=
  ∀ (s : State) (env : Env) (off : Nat) (e : RangeEnt) (rest : List RangeEnt) (x y : Long), barUp s = true → inRecovery s = false →
    rangeHits s off = e :: rest → off % 8 = 0 → e.wen = true → e.atom = true → hostReach s (e.addr off) 8 = true →
    CleanRead s env (e.addr off) 8 → s.mem.data.wf = true →
    let pa := e.addr off
    let old := s.mem.data.nat pa 8
    (∃ t, exec (.atomicFetchadd off 8 x env) s = .next t ∧ t.mem.data.nat pa 8 = (old + x.toNat) % 2 ^ 64 ∧
      (∀ a, a < pa ∨ pa + 8 ≤ a → t.mem.data.get a = s.mem.data.get a) ∧
      t.out = s.out ++ [.completion true false (s.mem.data.read pa 8)] ∧ t.host.atomCnt = s.host.atomCnt + 1) ∧
    (∃ t, exec (.atomicSwap off 8 x env) s = .next t ∧ t.mem.data.nat pa 8 = x.toNat ∧
      (∀ a, a < pa ∨ pa + 8 ≤ a → t.mem.data.get a = s.mem.data.get a) ∧
      t.out = s.out ++ [.completion true false (s.mem.data.read pa 8)] ∧ t.host.atomCnt = s.host.atomCnt + 1) ∧
    (∃ t, exec (.atomicCas off 8 y x env) s = .next t ∧
      t.mem.data.nat pa 8 = (if old = y.toNat then x.toNat else old) ∧
      (∀ a, a < pa ∨ pa + 8 ≤ a → t.mem.data.get a = s.mem.data.get a) ∧
      t.out = s.out ++ [.completion true false (s.mem.data.read pa 8)] ∧ t.host.atomCnt = s.host.atomCnt + 1)

/-- A host completion extends its stream; a poisoned, refused or missing one ends its command. R334 to R338, Table 9.6. -/
def Obligations.HostAnswersReachTheirStream : Prop :=
  ∀ (s : State) (tag : Nat) (r : HostReq), powered s = true → s.host.reqs.find? (fun r => r.tag = tag) = some r →
    (∀ (x : Stream) (data : List Byte), findStream s r.sid = some x → x.kind = .copy → data.length = r.len →
      ∃ t, exec (.hostCompletion tag .ok data) s = .next t ∧
        findStream t r.sid = some { x with buf := x.buf ++ data, rpos := x.rpos + r.len } ∧
        t.host.reqs = s.host.reqs.filter (fun r => r.tag ≠ tag) ∧ t.mem = s.mem) ∧
    (∀ (x : Stream) (o : Op) (data : List Byte), findStream s r.sid = some x → findOp s x.op = some o → o.done = none →
      (∃ t o', exec (.hostCompletion tag .poisoned data) s = .next t ∧ findOp t x.op = some o' ∧ o'.done = some .hostPoison ∧
        t.host.flags.getLsbD 6 = true ∧ .aer .poisonedTlp (s.host.cfg.aerSev.getLsbD 12) ∈ t.out ∧ t.mem = s.mem) ∧
      (∃ t o', exec (.hostCompletion tag .ur data) s = .next t ∧ findOp t x.op = some o' ∧ o'.done = some .hostError ∧
        t.host.flags.getLsbD 6 = true ∧ t.mem = s.mem) ∧
      (s.host.cfg.devCtl2.getLsbD 4 = false → ∃ t o', exec (.hostCompletionTimeout tag) s = .next t ∧ findOp t x.op = some o' ∧ o'.done = some .hostError ∧
        .aer .completionTimeout (s.host.cfg.aerSev.getLsbD 14) ∈ t.out ∧ t.mem = s.mem))

/-- Each queue command row decodes the ring entry at HEAD into a command in flight. R281, R287, R361 to R368, Tables 10.2 to
10.4. -/
def Obligations.QueueRowsDecodeTheirEntry : Prop :=
  ∀ (s : State) (env : Env) (n : Fin 256) (q : Queue) (s1 : State) (b : List Byte), Due s env n.val q s1 b →
    findOp s (n.val, q.head) = none →
    (field b 0 1 = 1 → ∃ t, exec (.window n env) s = .next t ∧ Decoded s n.val q b t) ∧
    (field b 0 1 = 2 → ∃ t, exec (.imageLoad n env) s = .next t ∧ Decoded s n.val q b t) ∧
    (field b 0 1 = 3 → ∃ t, exec (.slotRead n env) s = .next t ∧ Decoded s n.val q b t) ∧
    (field b 0 1 = 4 → ∃ t, exec (.slotWrite n env) s = .next t ∧ Decoded s n.val q b t) ∧
    (field b 0 1 = 5 → ∃ t, exec (.study n env) s = .next t ∧ Decoded s n.val q b t) ∧
    (field b 0 1 = 6 → ∃ t, exec (.refine n env) s = .next t ∧ Decoded s n.val q b t) ∧
    (field b 0 1 = 7 → ∃ t, exec (.copy n env) s = .next t ∧ Decoded s n.val q b t) ∧
    (field b 0 1 = 8 → ∃ t, exec (.fill n env) s = .next t ∧ Decoded s n.val q b t) ∧
    (field b 0 1 = 9 → ∃ t, exec (.fenceWait n env) s = .next t ∧ Decoded s n.val q b t) ∧
    (field b 0 1 = 0 ∨ 10 ≤ field b 0 1 → ∃ t, exec (.nop n env) s = .next t ∧ Decoded s n.val q b t)

/-- An accepted transfer command on an idle queue starts a stream with its parameters. R141, R142, R237 to R241, R364, Table
10.3. -/
def Obligations.AcceptedTransfersGetTheirStream : Prop :=
  ∀ (s : State) (env : Env) (n : Fin 256) (q : Queue) (s1 : State) (b : List Byte), Due s env n.val q s1 b →
    (∀ u ∈ s.ops, u.q ≠ n.val) → decodeCheck s n.val q.ctx b = none →
    (∀ addr w p, parseCmd b = .imageLoad addr w p → ∃ t x, exec (.imageLoad n env) s = .next t ∧
      findStream t s.nextSid = some x ∧ x.op = (n.val, q.head) ∧ x.kind = .image ∧ x.state = .ready ∧ x.src = addr ∧
        x.total = 0x18100 ∧ x.win = w ∧ x.half = p ∧ x.cls = q.cls ∧ x.ctx = q.ctx) ∧
    (∀ tile met w slot sr f, parseCmd b = .slotRead tile met w slot sr f → ∃ t x, exec (.slotRead n env) s = .next t ∧
      findStream t s.nextSid = some x ∧ x.op = (n.val, q.head) ∧ x.kind = .slot ∧ x.toUnit = false ∧ x.state = .ready ∧ x.win = w) ∧
    (∀ tile met w slot sr f, parseCmd b = .slotWrite tile met w slot sr f → ∃ t x, exec (.slotWrite n env) s = .next t ∧
      findStream t s.nextSid = some x ∧ x.op = (n.val, q.head) ∧ x.kind = .slot ∧ x.toUnit = true ∧ x.state = .ready ∧ x.win = w ∧
        x.segs.map (fun g => (g.1, g.2.length)) = [(tile, footprint (srowsOf sr) f), (met, 16)]) ∧
    (∀ src dst rl nr ss ds, parseCmd b = .copy src dst rl nr ss ds → ∃ t x, exec (.copy n env) s = .next t ∧
      findStream t s.nextSid = some x ∧ x.op = (n.val, q.head) ∧ x.kind = .copy ∧ x.state = .ready ∧ x.src = src ∧ x.dst = dst ∧
        x.rowLen = rl ∧ x.nRows = nr ∧ x.sStride = ss ∧ x.dStride = ds ∧ x.pos = 0) ∧
    (∀ dst rl nr ds, parseCmd b = .fill dst rl nr ds → ∃ t x, exec (.fill n env) s = .next t ∧
      findStream t s.nextSid = some x ∧ x.op = (n.val, q.head) ∧ x.kind = .fill ∧ x.state = .ready ∧ x.dst = dst ∧
        x.rowLen = rl ∧ x.nRows = nr ∧ x.dStride = ds ∧ x.pos = 0)

/-- Accepted NOP, FENCE_WAIT, STUDY, REFINE and WINDOW commands begin as Table 10.3 says. R215, R364, R369, R370, R374, Table
10.3; that an unreadable fence word leaves the wait armed is the model's choice (log entry 62). -/
def Obligations.AcceptedCommandsBegin : Prop :=
  ∀ (s : State) (env : Env) (n : Fin 256) (q : Queue) (s1 : State) (b : List Byte), Due s env n.val q s1 b →
    (∀ u ∈ s.ops, u.q ≠ n.val) → decodeCheck s n.val q.ctx b = none →
    (parseCmd b = .nop → field b 0 1 = 10 → ∃ t o, exec (.nop n env) s = .next t ∧ findOp t (n.val, q.head) = some o ∧
      o.done = some .ok ∧ t.streams = s.streams ∧ t.windows = s.windows) ∧
    (∀ va val lim, parseCmd b = .fenceWait va val lim → ∃ t o, exec (.fenceWait n env) s = .next t ∧
      findOp t (n.val, q.head) = some o ∧
      (if (match fenceWord s q.ctx va with | some v => decide (val.toNat ≤ v) | none => false) = true
        then o.done = some .ok ∧ o.armed = false else o.done = none ∧ o.armed = true) ∧
      t.streams = s.streams ∧ t.windows = s.windows) ∧
    (∀ k ni arg len rm, parseCmd b = .study k ni arg len rm → ∃ t o, exec (.study n env) s = .next t ∧
      findOp t (n.val, q.head) = some o ∧ o.started = true ∧
      (s.study.coreOk = 0 → o.done = some .noStudy) ∧
      (∀ code c s2 args, s.study.coreOk ≠ 0 → ctxOf s q.ctx = some c → bankFind c.kernels k.toNat = some code →
        readOp (modOp (decoded s s1 n.val q (mkOp n.val q (parseHdr b) (parseCmd b) none)) (n.val, q.head)
          (fun o => { o with started := true })) env
          { mkOp n.val q (parseHdr b) (parseCmd b) none with started := true } arg len = (s2, .ok, args) →
        o.done = none ∧ o.kernel = code ∧ o.args = args)) ∧
    (∀ c, parseCmd b = .refine c → ∃ t o, exec (.refine n env) s = .next t ∧ findOp t (n.val, q.head) = some o ∧
      o.started = true ∧ (s.study.coreOk = 0 → o.done = some .noStudy) ∧
      (∀ r, o.refine = some r → r.k = 0 ∧ r.stage = .residuals ∧ r.x.length = c.n ∧ r.apps = 0)) ∧
    (∀ c, parseCmd b = .window c → ∃ t o, exec (.window n env) s = .next t ∧ findOp t (n.val, q.head) = some o ∧
      o.started = true ∧ (∀ s2 bs, readOp (modOp (decoded s s1 n.val q (mkOp n.val q (parseHdr b) (parseCmd b) none)) (n.val, q.head)
          (fun o => { o with started := true })) env
          { mkOp n.val q (parseHdr b) (parseCmd b) none with started := true } c.imgList (16 * c.kCount) = (s2, .ok, bs) →
        if (imgEntries bs c.kCount).any (fun e => decide (e.2 % 256 ≠ 0)) then o.done = some .invalid ∧ o.detail = 24
        else o.done = none ∧ o.imgs = imgEntries bs c.kCount))

/-- Completion writes the record to its ring slot, performs SIGNAL and returns the token. R363, R371 to R373, Table 10.5. -/
def Obligations.CompletionWritesRecordThenSignal : Prop :=
  ∀ (s : State) (env : Env) (n : Fin 256) (idx : Fin 65536) (o : Op) (x : Queue) (st : Status), powered s = true →
    findOp s (n.val, idx.val) = some o → queueOf s n.val = some x → o.done = some st → signalWaits s o st = false →
    (∃ t, exec (.commandComplete n idx env) s = .next t ∧ findOp t (n.val, idx.val) = none ∧
      (audOf t 0).give = (audOf s 0).give + 1) ∧
    (∀ m a, let va := x.cqVa + 32 * (o.idx % max 1 x.ringN)
      tableFind s x.ctx va = some m → dtcHits s x.ctx va = [] → va < 2 ^ 48 → va % 0x10000 + 32 ≤ 0x10000 → m.w = true →
      m.at va = .host a → ∃ t, exec (.commandComplete n idx env) s = .next t ∧
        .hostWrite a (recordBytes x.ringN o.idx st o.rflags.toNat o.hdr.cookie o.detail) ∈ t.out ∧
        (∀ mf pa, o.hdr.signal = true → st.signals = true → tableFind s o.ctx o.hdr.fenceVa = some mf →
          dtcHits s o.ctx o.hdr.fenceVa = [] → o.hdr.fenceVa < 2 ^ 48 → mf.w = true → mf.at o.hdr.fenceVa = .dev pa →
          paValid s pa = true → stackOut s pa = false → CleanRead s env pa 8 → s.mem.data.wf = true →
          t.mem.data.nat pa 8 = (if o.hdr.sigAdd then (s.mem.data.nat pa 8 + o.hdr.cookie.toNat) % 2 ^ 64
            else max (s.mem.data.nat pa 8) o.hdr.cookie.toNat) ∧
          (∀ b, b < pa ∨ pa + 8 ≤ b → t.mem.data.get b = s.mem.data.get b)))

/-- A fence timeout ends the FENCE_WAIT, stops its queue and counts if it was late. R366, R375, R376; log entry 21. -/
def Obligations.FenceTimeoutStopsItsQueue : Prop :=
  ∀ (s : State) (n : Fin 256) (idx : Fin 65536) (o : Op) (x : Queue) (va lim : Nat) (val : Long) (late : Bool), powered s = true →
    findOp s (n.val, idx.val) = some o → o.cmd = .fenceWait va val lim → lim ≠ 0 → o.armed = true →
    queueOf s n.val = some x → x.state = .active →
    ∃ t o', exec (.fenceTimeout n idx late) s = .next t ∧ findOp t (n.val, idx.val) = some o' ∧ o'.armed = false ∧
      o'.done = some .fenceTimeout ∧ queueOf t n.val = some { x with state := .stopped } ∧
      (∀ c, ctxOf s o.ctx = some c → (ctxOf t o.ctx).map (·.lateCnt) = some (if late then c.lateCnt + 1 else c.lateCnt)) ∧
      (∀ id, id ≠ (n.val, idx.val) → findOp t id = findOp s id) ∧
      (x.dying = false → ∀ u ∈ t.ops, u.q = n.val → mayStart t u = false) ∧
      decodable t n.val { x with state := .stopped } = false ∧
      t.mem = s.mem ∧ t.shares = s.shares

/-- A pass starts on an IDLE Window with its pane and feed, and commits within BLIMIT. R88 to R99, R111, R112, R120, R123. -/
def Obligations.PassesStartAndCommit : Prop :=
  ∀ (s : State) (w : Fin 8) (o : Op) (c : WinCmd), powered s = true → findOp s o.id = some o → o.cmd = .window c → o.done = none →
    (∀ (q : Fin 256) (idx : Fin 65536) (p : Nat) (half b : Bool) (h : FeedHalf) (img : Image) (addr : Nat)
        (codes : List (List Int)) (env : Env), o.id = (q.val, idx.val) → o.started = true → passTodo s o p = true →
      runWindow s c.window = some w.val → imgOfPass o p = some (img.id, addr) → paneWith (win s w.val) img.id = some b →
      (paneOf (win s w.val) b).image = some img → (win s w.val).state = .idle → (win s w.val).pass = none →
      (win s w.val).swap = none → (win s w.val).active = some b → (paneOf (win s w.val) b).state = .active →
      paneHeld o (paneOf (win s w.val) b) = true → paced s o.cls = false →
      arbGrants s (8 + w.val) 256 o.cls o.q (passReqs s w.val) = true →
      halfOf (win s w.val) half = some h → h.ready = true → h.op = o.id → h.p = p →
      ∃ t pass, exec (.passStart w q idx p half codes env) s = .next t ∧ (win t w.val).state = .run ∧
        (win t w.val).pass = some pass ∧ pass.op = o.id ∧ pass.p = p ∧ pass.pane = b ∧ pass.home = c.window ∧
        pass.fmt = modFmt c.infmt c.qfmt c.zpmode ∧ pass.rows.length = c.nrows ∧
        pass.slots.length = (if modFmt c.infmt c.qfmt c.zpmode = .q8 then 2 * c.nrows else c.nrows) ∧
        pass.blimit = blimitUsed (win s w.val).blimit ∧ pass.round = 0 ∧ pass.sat = env.inFlags.getLsbD 0 ∧
        (env.inFlags.getLsbD 1 = true → pass.rsvd = true) ∧ t.mem = s.mem ∧ t.pantries = s.pantries ∧
        (∀ v, v ≠ w.val → win t v = win s v)) ∧
    (∀ (q : Fin 256) (idx : Fin 65536) (p : Nat) (half : Bool) (codes : List (List Int)) (env : Env),
      o.id = (q.val, idx.val) → o.started = true → passTodo s o p = true → runWindow s c.window = none →
      ∃ t o', exec (.passStart w q idx p half codes env) s = .next t ∧ findOp t o.id = some o' ∧ o'.done = some .noWindow) ∧
    (∀ p : Pass, (win s w.val).pass = some p → p.op = o.id → p.plan = [] → p.pendWit = [] →
      (p.round = 3 ∨ toRepeat (passNvalid (win s w.val) p) p.round p.slots = []) → leF32 p.bound p.blimit = true →
      ∃ t o', exec (.passCommit w) s = .next t ∧ (win t w.val).pass = none ∧ (win t w.val).state = .idle ∧
        (win t w.val).lastb = p.bound ∧ findOp t o.id = some o' ∧ o'.passes = o.passes ++ [p.p] ∧ t.mem = s.mem ∧
        (∀ v, v ≠ w.val → win t v = win s v) ∧
        (findTree s o.id = none → overlapped s (newTree s o c 128) = false → p.p = c.kFirst →
          1 < c.kCount → ∃ tr, findTree t o.id = some tr ∧ tr.open_ = true ∧ tr.next = c.kFirst + 1 ∧
            (pantry t c.window).treeOpen = (pantry s c.window).treeOpen + 1 ∧
            (pantry t c.window).commitCnt = (pantry s c.window).commitCnt + 1))

/-- Each witness recomputes the bound, and quarantines beyond BLIMIT; clipped slots repeat up to three rounds. R92, R96, R101 to
R105, R108. -/
def Obligations.WitnessesAndRepeatRounds : Prop :=
  ∀ (s : State) (w : Fin 8) (p : Pass), (win s w.val).pass = some p →
    (∀ (e : PendWit) (rest : List PendWit) (img : Image) (codes : List Int), p.pendWit = e :: rest →
      (paneOf (win s w.val) p.pane).image = some img → (win s w.val).state = .run →
      let res := residual img (pilotSigns e.seed e.cnt) (pilotOf img p.fmt) codes
      let own := p.own ++ [upDy res.1]
      let b := boundB (largestE own (paneOf (win s w.val) p.pane).hist p.hist) p.fmt.qm (pilotOf img p.fmt)
        (floorOf s w.val p.pane)
      ∃ t, exec (.witnessResult w codes) s = .next t ∧ (p.round ≠ 3 → (win t w.val).satcnt = (win s w.val).satcnt) ∧
        (if leF32 b p.blimit then ∃ p', (win t w.val).pass = some p' ∧ p'.own = own ∧ p'.bound = b ∧ (win t w.val).state = .run
         else (win t w.val).state = .quar ∧ (win t w.val).pass = none ∧ (win t w.val).flags.getLsbD 0 = true ∧
          (win t w.val).paneA.state = .empty ∧ (win t w.val).paneB.state = .empty ∧
          (win t w.val).quarcnt = (win s w.val).quarcnt + 1 ∧ (pantry t w.val).migr = !(pantry s w.val).out)) ∧
    (∀ codes : List (List Int), p.plan = [] → p.pendWit = [] → p.round < 3 →
      toRepeat (passNvalid (win s w.val) p) p.round p.slots ≠ [] → ∃ t p', exec (.clipRepeatRound w codes) s = .next t ∧
        (win t w.val).pass = some p' ∧ p'.round = p.round + 1 ∧ p'.clipRep = true ∧ p'.slots.length = p.slots.length ∧
        p'.op = p.op ∧ t.mem = s.mem ∧ t.pantries = s.pantries ∧ ∀ v, v ≠ w.val → win t v = win s v)

/-- Pane images are checked, settle, arm and swap. R81 to R86. -/
def Obligations.PanesLoadArmAndSwap : Prop :=
  ∀ (s : State) (w : Fin 8) (b : Bool),
    ((paneOf (win s w.val) b).state = .staging → (paneOf (win s w.val) b).staged.length = 0x18100 →
      ∃ t, exec (.imageCheck w b) s = .next t ∧
        (if imageOk (paneOf (win s w.val) b).staged s.ifLevel.toNat then
          paneOf (win t w.val) b = { paneOf (win s w.val) b with
            state := .settling, image := some (parseImage (paneOf (win s w.val) b).staged),
            drive := driveOf s w.val b (parseImage (paneOf (win s w.val) b).staged).cells, staged := [], hist := [], lastQ6 := none } ∧
          (win t w.val).loadcnt = (win s w.val).loadcnt + 1 ∧
          paneOf (win t w.val) (!b) = paneOf (win s w.val) (!b) ∧ t = { s with windows := t.windows }
         else (paneOf (win t w.val) b).state = .empty ∧ (paneOf (win t w.val) b).image = none ∧
          (win t w.val).flags.getLsbD 2 = true ∧
          ∀ id o, (paneOf (win s w.val) b).loader = some id → findOp s id = some o → o.done = none →
            (findOp t id).bind (·.done) = some .imageInvalid)) ∧
    ((paneOf (win s w.val) b).state = .settling → ∃ t, exec (.paneArmed w b) s = .next t ∧
      (paneOf (win t w.val) b).state = .armed ∧ (paneOf (win t w.val) b).image = (paneOf (win s w.val) b).image ∧
      (∀ id o a v c, (paneOf (win s w.val) b).loader = some id → findOp s id = some o → o.cmd = .imageLoad a v c →
        (findOp t id).bind (·.done) = some .ok) ∧ t = { s with windows := t.windows, ops := t.ops }) ∧
    (inService s w.val = true → slotsOver (win s w.val) = true → (win s w.val).swap = none →
      (paneOf (win s w.val) b).state = .armed → (win s w.val).active ≠ some b →
      ∃ t, exec (.paneSwap w b) s = .next t ∧ win t w.val = { win s w.val with swap := some b } ∧
        (∀ v, v ≠ w.val → win t v = win s v) ∧ t = { s with windows := t.windows }) ∧
    ((win s w.val).swap = some b → ∃ t, exec (.swapComplete w) s = .next t ∧ (win t w.val).active = some b ∧
      (win t w.val).swap = none ∧ (win t w.val).swapcnt = (win s w.val).swapcnt + 1 ∧
      (paneOf (win t w.val) b).state = .active ∧
      (paneOf (win t w.val) (!b)).state = (if (paneOf (win s w.val) (!b)).state = .active then .armed else (paneOf (win s w.val) (!b)).state) ∧
      (∀ v, v ≠ w.val → win t v = win s v) ∧ t = { s with windows := t.windows })

/-- A lost laser quarantines its Window; the spare switches in; qualification returns or retires it. R106, R108, R111 to R115. -/
def Obligations.LasersPairsAndQualification : Prop :=
  ∀ s : State, powered s = true →
    (∀ l : Fin 9, s.lamp.lok.getLsbD l.val = true → ∃ t, exec (.laserLost l) s = .next t ∧ t.lamp.lok.getLsbD l.val = false ∧
      t.lamp.enabled.getLsbD l.val = false ∧ t.lamp.failed.getLsbD l.val = true ∧
      (l.val < 8 → (win s l.val).spare = false → inService s l.val = true → s.lamp.spareUse = false → s.lamp.failed.getLsbD 8 = false →
        (win t l.val).state = .quar ∧ (win t l.val).flags.getLsbD 1 = true ∧
        (win t l.val).quarcnt = (win s l.val).quarcnt + 1 ∧ (win t l.val).redir = !(pantry s l.val).out) ∧
      t.mem.data = s.mem.data ∧ t.fuses = s.fuses) ∧
    (∀ w, s.lamp.spareUse = false → s.lamp.failed.getLsbD 8 = false → spareTarget s = some w → ∃ t, exec .spareSwitchIn s = .next t ∧
      t.lamp = { s.lamp with spareUse := true, spareTo := w, enabled := s.lamp.enabled ||| 0x100 } ∧ (win t w).spare = true ∧
      (∀ v, v ≠ w → win t v = win s v) ∧ t.mem = s.mem) ∧
    (∀ (w : Fin 8) (a b : List (List Int)), (win s w.val).state = .quar → (win s w.val).requal = true → 2 ≤ (win s w.val).convRun →
      laserLit s w.val = true → (pantry s w.val).out = false → a.length = 4096 → b.length = 4096 →
      ∃ t, exec (.qualification w a b) s = .next t ∧ (win t w.val).witcnt = (win s w.val).witcnt + 8192 ∧
        (if qualPass s w.val (qualRun s w.val a b).2 then (win t w.val).state = .idle ∧ (win t w.val).redir = false ∧
            (pantry t w.val).migr = false
         else if 8 ≤ (win s w.val).qualTries then (win t w.val).state = .retired
         else (win t w.val).state = .quar ∧ (win t w.val).qualTries = (win s w.val).qualTries + 1) ∧ t.mem = s.mem)

/-- An uncorrectable Pantry error retires the Pantry and loses exactly its slot holders; a corrected one is counted. R153, R496. -/
def Obligations.PantryErrorsAreContained : Prop :=
  ∀ (s : State) (w : Fin 8), powered s = true →
    ((pantry s w.val).out = false → ∃ t, exec (.pantryUncorrectable w) s = .next t ∧ (pantry t w.val).out = true ∧
      (pantry t w.val).flags.getLsbD 4 = true ∧ (win t w.val).state = .retired ∧
      (∀ n ∈ slotHolders s w.val, (ctxOf t n).map (·.lost) = some true) ∧ t.mem.data = s.mem.data ∧ t.fuses = s.fuses) ∧
    (∃ t, exec (.pantryCorrected w) s = .next t ∧
      pantry t w.val = { pantry s w.val with flags := (pantry s w.val).flags ||| 8 } ∧
      (∀ v, v ≠ w.val → pantry t v = pantry s v) ∧
      t.nvm.frecSum = { s.nvm.frecSum with ceCnt := min 0xFFFFFFFF (s.nvm.frecSum.ceCnt + 1) } ∧
      t = { s with nvm := { s.nvm with frecSum := t.nvm.frecSum }, pantries := t.pantries })

/-- Held leaves enter when overlap ends; combined roots and epilogues close the tree with the result. R119 to R125, R133 to
R149. -/
def Obligations.TreesCloseWithTheirResult : Prop :=
  ∀ (s : State) (q : Fin 256) (idx : Fin 65536) (o : Op) (c : WinCmd) (tr : Tree), findOp s (q.val, idx.val) = some o →
    o.cmd = .window c → o.done = none → findTree s (q.val, idx.val) = some tr → tr.op = o.id → powered s = true →
    (∀ l, tr.waiting = true → tr.open_ = false → overlapped s tr = false → tr.held = [l] → l.p = tr.next →
      tr.next + 1 < c.kFirst + c.kCount → ∃ t tr', exec (.commitAfterOverlap q idx) s = .next t ∧
        findTree t (q.val, idx.val) = some tr' ∧ tr'.open_ = true ∧ tr'.waiting = false ∧ tr'.held = [] ∧ tr'.next = tr.next + 1 ∧
        (pantry t tr.pantry).treeOpen = (pantry s tr.pantry).treeOpen + 1 ∧
        (pantry t tr.pantry).commitCnt = (pantry s tr.pantry).commitCnt + 1) ∧
    (∀ (owner : Fin 65536) (x : Partial), c.splitN ≠ 0 → c.splitRank = 0 → tr.sent = false → tr.final = none → tr.root = some x →
      isRoot c (trussLift c 20 x) = true → s.link.partials = [] → ∃ t, exec (.trussCombine q idx owner) s = .next t ∧
        (if c.epi then ∃ tr' y, findTree t (q.val, idx.val) = some tr' ∧ tr'.final = some y ∧ y.flags.unalign = (y.flags.unalign || c.unal)
         else findTree t (q.val, idx.val) = none ∧ (findOp t (q.val, idx.val)).bind (·.done) = some .ok ∧
          (pantry t tr.pantry).treeClose = (pantry s tr.pantry).treeClose + 1)) ∧
    (∀ (env : Env) (x : Partial) (s1 : State) (bs : List Byte), tr.final = some x → c.epi = true → c.rsrc ≠ 2 → tr.farPasses = 0 →
      s.streams = [] → readVa s env o.ctx c.ctAddr (32 * tr.nvalid) = (s1, .ok, bs) →
      let r := runEpilogue c tr x ((List.range tr.nvalid).map (fun j => readChan c ((bs.drop (32 * j)).take 32))) (rowScales c tr [])
        tr.rowSum tr.kCount
      ∃ t y met, exec (.epilogue q idx env) s = .next t ∧ findStream t s.nextSid = some y ∧ y.kind = .drain ∧ y.op = o.id ∧
        y.state = .ready ∧ met.length = 16 ∧
        y.segs = [(c.outAddr, r.tile)] ++ (if c.omode then [(c.osvAddr, r.osv)] else []) ++ [(c.metAddr, met)] ∧
        (pantry t tr.pantry).sram = (pantry s tr.pantry).sram.write tr.lo (x.elems.flatMap (encElem tr.fmt)) ∧ t.mem.data = s.mem.data)

/-- Work items dispatch, complete and repeat on another core after a core fault. R201 to R214, R370; log entry 7. -/
def Obligations.StudyItemsRunAndRepeat : Prop :=
  (∀ (s : State) (q : Fin 256) (idx : Fin 65536) (item : Nat) (core : Fin 128) (o : Op) (it : Item), powered s = true →
    findOp s (q.val, idx.val) = some o → o.started = true → o.done = none → itemAt o item = some it → item ∉ o.itemsOut →
    coreUp s core.val = true → bankFind s.study.busy core.val = none → paced s o.cls = false →
    arbGrants s (clusterOf core.val) 256 o.cls o.q (itemReqs s) = true → ∃ t, exec (.workItemDispatch q idx item core) s = .next t ∧
      bankFind t.study.busy core.val = some it ∧
      findOp t (q.val, idx.val) = some { o with itemsOut := o.itemsOut ++ [item] } ∧ t.mem = s.mem ∧
      t.study = { s.study with busy := t.study.busy } ∧
      (∀ k, k ≠ core.val → bankFind t.study.busy k = bankFind s.study.busy k)) ∧
  (∀ (s : State) (env : Env) (core : Fin 128) (trace : List StudyOp) (id : OpId) (n ni aa al : Nat) (kh : Word) (rm : RMode) (o : Op),
    powered s = true → bankFind s.study.busy core.val = some (.kernel id n) → findOp s id = some o → o.done = none →
    o.cmd = .study kh ni aa al rm → studyHalted s id core.val = false →
    let r := runTrace s env o rm (itemTodo s env o rm core.val n trace)
    r.acc = .ok → ∃ t, exec (.workItemComplete core trace env) s = .next t ∧ t.mem = r.st.mem ∧ bankFind t.study.busy core.val = none ∧
      t.study.itemCnt = s.study.itemCnt + 1 ∧ ∃ o', findOp t id = some o' ∧ o'.itemsDone = o.itemsDone + 1 ∧
        o'.rflags = o.rflags ||| r.fl.setWidth 9 ∧
        o'.done = (if o.itemsDone + 1 = ni then some .ok else none)) ∧
  (∀ (s : State) (core : Fin 128), powered s = true → coreUp s core.val = true →
    exec (.coreCorrected core) s = .next { s with
      study := { s.study with flags := s.study.flags ||| 2, corrCnt := s.study.corrCnt + 1 } } ∧
    ∃ t, exec (.coreFault core) s = .next t ∧ coreUp t core.val = false ∧
      (∀ k, k ≠ core.val → coreUp t k = coreUp s k) ∧ bankFind t.study.busy core.val = none ∧
      t.study.itemRep = (if (bankFind s.study.busy core.val).isSome then s.study.itemRep + 1 else s.study.itemRep) ∧
      t.study.flags = s.study.flags ||| 1 ∧ t.mem.data = s.mem.data ∧
      (s.nvm.frec.length < 1024 → ∃ e, t.nvm.frec = s.nvm.frec ++ [e] ∧ e.kind = 4 ∧ e.unit = 2 ∧ e.index = core.val) ∧
      ∀ it o, bankFind s.study.busy core.val = some it → findOp s it.opId = some o →
        (findOp t it.opId).map (·.itemsOut) = some (o.itemsOut.filter (· ≠ it.num)))

/-- Refine items compute residuals, updates and decisions, and stop with the report. R216 to R224, R230, R565. -/
def Obligations.RefineItemsAdvanceTheIteration : Prop :=
  ∀ (s : State) (env : Env) (core : Fin 128) (id : OpId) (o : Op) (c : RefCmd) (r : RefineSt), findOp s id = some o →
    (∀ b, bankFind s.study.busy core.val = some (.residual id b) → refineOn s core.val (.residual id b) = some (o, c, r) →
      (refRows env o c r.x (tileExtent c.n b) (128 * b) s).2.1 = .ok →
      let vs := (refRows env o c r.x (tileExtent c.n b) (128 * b) s).2.2
      ∃ t o' r', exec (.refineResidual core env) s = .next t ∧ findOp t id = some o' ∧ o'.refine = some r' ∧ r'.x = r.x ∧
        r'.r = putFrom r.r (128 * b) (vs.map (fun v => BitVec.ofNat 64 v.1)) ∧
        r'.eps = putFrom r.eps (128 * b) (vs.map (fun v => BitVec.ofNat 64 v.2.1)) ∧
        r'.stage = (if r.blocks.length + 1 = refBlocks c.n then .decide else r.stage) ∧
        t.study.itemCnt = s.study.itemCnt + 1 ∧ bankFind t.study.busy core.val = none ∧ t.mem.data = s.mem.data) ∧
    (∀ b, bankFind s.study.busy core.val = some (.update id b) → refineOn s core.val (.update id b) = some (o, c, r) →
      ∃ t o' r', exec (.refineUpdate core env) s = .next t ∧ findOp t id = some o' ∧ o'.refine = some r' ∧
        r'.x = putFrom r.x (128 * b) ((updateBlock c r b).map (fun v => BitVec.ofNat 64 v.1)) ∧ r'.r = r.r ∧
        r'.decided = r.decided ∧ t.mem = s.mem ∧ t.study.itemCnt = s.study.itemCnt + 1 ∧
        bankFind t.study.busy core.val = none ∧
        (r.stage = .updates → r'.stage = (if r.blocks.length + 1 = refBlocks c.n then .residuals else .updates) ∧
          r'.k = (if r.blocks.length + 1 = refBlocks c.n then r.k + 1 else r.k))) ∧
    (bankFind s.study.busy core.val = some (.decision id) → refineOn s core.val (.decision id) = some (o, c, r) →
      r.noWin = false →
      let e := errBound c.beta r.r r.eps
      let r1 := { r with rnorm := BitVec.ofNat 64 (normInf r.r), ieee := r.ieee ||| e.2 }
      let d := decideAll c.tolExp e.1 (r.decided.zip r.x) s 0
      let r2 := { r1 with decided := d.2.1, ieee := r1.ieee ||| d.2.2, ehist := BitVec.ofNat 64 e.1 :: r.ehist }
      (stopStatus c r1 e.1 d.2.1 = none →
        ∃ t o' r', exec (.refineDecision core env) s = .next t ∧ findOp t id = some o' ∧ o'.refine = some r' ∧
          o'.done = none ∧ r'.stage = .optics ∧ r'.decided = d.2.1 ∧ r'.x = r.x ∧ r'.ehist = r2.ehist ∧
          (r'.exp, r'.codes) = rowScale 127 (-1074) (r.r.map (fun v => dyOf f64 v.toNat)) ∧ t.mem = s.mem ∧
          t.study.itemCnt = s.study.itemCnt + 1) ∧
      (∀ st, stopStatus c r1 e.1 d.2.1 = some st → st ≠ 3 → st ≠ 4 →
        let w := writeAll env o [(c.yOut, youtOf r2), (c.mapAddr, bitmapOf d.2.1), (c.repAddr, refReport r2 st)] d.1
        w.2 = .ok → ∃ t o', exec (.refineDecision core env) s = .next t ∧ findOp t id = some o' ∧ o'.done = some .ok ∧
          t.mem = w.1.mem ∧ t.study.itemCnt = s.study.itemCnt + 1 ∧
          t.study.flags = (if st = 1 ∨ st = 2 then s.study.flags ||| 4 else s.study.flags)))

/-- ARENA_ALLOC takes the lowest free block of its size, or counts; ARENA_FREE returns it or counts; a context without an arena
has no free block. R381, R382. -/
def Obligations.ArenaCallsTakeTheLowestFreeBlock : Prop :=
  ∀ (s : State) (n : Fin 4096) (c : Context), powered s = true → isReady s = true → ctxOf s n.val = some c →
    (∀ a bytes off, c.arena = some a → off % blockSize bytes = 0 → blockClear a off (blockSize bytes) = true →
      (∀ k < off, k % blockSize bytes = 0 → blockClear a k (blockSize bytes) = false) →
      exec (.arenaAlloc n bytes) s = .next { s with
        ctxs := bankPut s.ctxs n.val { c with arena := some { a with blocks := a.blocks ++ [(a.base + off, blockSize bytes)] } },
        out := s.out ++ [.device (a.base + off)] }) ∧
    (∀ bytes, (∀ a k, c.arena = some a → k % blockSize bytes = 0 → blockClear a k (blockSize bytes) = false) →
      exec (.arenaAlloc n bytes) s = .next { s with
        ctxs := bankPut s.ctxs n.val { c with arenaFailed := c.arenaFailed + 1 }, out := s.out ++ [.device 0] }) ∧
    (∀ a addr, c.arena = some a → (∃ b ∈ a.blocks, b.1 = addr) → exec (.arenaFree n addr) s = .next { s with
      ctxs := bankPut s.ctxs n.val { c with arena := some { a with blocks := a.blocks.filter (fun b => b.1 ≠ addr) } } }) ∧
    (∀ addr, (∀ a, c.arena = some a → ∀ b ∈ a.blocks, b.1 ≠ addr) → exec (.arenaFree n addr) s = .next { s with
      ctxs := bankPut s.ctxs n.val { c with badFree := c.badFree + 1 } })

/-- Ready streams, feeds and image loads take a free Dumbwaiter. R237 to R241, R285, R286. -/
def Obligations.StreamsTakeADumbwaiter : Prop :=
  ∀ (s : State) (d : Fin 16), powered s = true →
    (∀ (sid : Nat) (x : Stream) (o : Op), findStream s sid = some x → findOp s x.op = some o → x.state = .ready → x.dw = none →
      o.started = true → o.done = none → dwFree s d.val x.cls = true →
      (x.kind ≠ .image → x.kind ≠ .slot → ∃ t, exec (.streamStart sid d) s = .next t ∧
        findStream t sid = some { x with dw := some d.val, slot := (dwSlot s d.val x.cls).getD 0, state := .run } ∧ (audOf t 3).take = (audOf s 3).take + 1 ∧
        (dumb t d.val).st = 1 ∧ (dumb t d.val).kind = x.kind.code ∧ (dumb t d.val).cls = x.cls ∧
        (dumb t d.val).ctxId = x.ctx ∧ t.mem = s.mem ∧ t.ops = s.ops ∧ t.windows = s.windows) ∧
      (∀ tile met w slot sr f, x.kind = .slot →
        (o.cmd = .slotRead tile met w slot sr f ∨ o.cmd = .slotWrite tile met w slot sr f) →
        exec (.streamStart sid d) s = .next s ∧ treeOver s w (slotRange s o.ctx slot sr f) = true ∨
        ∃ t y, exec (.streamStart sid d) s = .next t ∧ findStream t sid = some y ∧ y.dw = some d.val ∧ y.state = .run ∧
          t.mem = s.mem ∧ t.pantries = s.pantries) ∧
      (∀ w b, x.kind = .image → imageTarget s o x = some (w, b) → (paneOf (win s w) b).loader ≠ some o.id →
        ∃ t, exec (.streamStart sid d) s = .next t ∧
          findStream t sid = some { x with
            win := w, half := b, dw := some d.val, slot := (dwSlot s d.val x.cls).getD 0, state := .run } ∧
          (paneOf (win t w) b).state = .staging ∧ (paneOf (win t w) b).loader = some o.id ∧ (win t w).active ≠ some b ∧
          (∀ v, v ≠ w → win t v = win s v) ∧ t.mem = s.mem)) ∧
    (∀ (w : Fin 8) (q : Fin 256) (idx : Fin 65536) (p : Nat) (half : Bool) (o : Op) (c : WinCmd),
      findOp s (q.val, idx.val) = some o → o.cmd = .window c → o.done = none → lookahead s o = true →
      allowedOn s o p w.val = true → (o.started = true ∨ o.cls ≠ 0) → nextFeed s o c = some p → dwFree s d.val o.cls = true →
      halfOf (win s w.val) half = none → ∃ t y, exec (.feedPrefetch w q idx p half d) s = .next t ∧
        findStream t s.nextSid = some y ∧ y.kind = .feed ∧ y.state = .run ∧ y.dw = some d.val ∧ y.op = o.id ∧
        y.src = c.inAddr + (p - c.kFirst) * c.inStride ∧ y.nRows = c.nrows ∧ y.rowLen = rowBytes c.infmt ∧
        halfOf (win t w.val) half = some ⟨o.id, p, s.nextSid, [], false⟩ ∧ t.mem = s.mem ∧ t.ops = s.ops ∧
        (dumb t d.val).prefCnt = (dumb s d.val).prefCnt + (if (before s o).isEmpty then 0 else 1)) ∧
    (∀ (q : Fin 256) (idx : Fin 65536) (o : Op) (addr w : Nat) (b : Bool), findOp s (q.val, idx.val) = some o →
      o.cmd = .imageLoad addr w b → o.started = false → o.done = none → prefetchOk s o w b = true →
      dwFree s d.val o.cls = true → mayStage s o w b = true → ∃ t y, exec (.imagePrefetch q idx d) s = .next t ∧
        findStream t s.nextSid = some y ∧ y.kind = .image ∧ y.state = .run ∧ y.dw = some d.val ∧ y.src = addr ∧
        findOp t (q.val, idx.val) = some { o with started := true } ∧ (paneOf (win t w) b).state = .staging ∧
        (paneOf (win t w) b).loader = some o.id ∧ t.mem = s.mem)

/-- A stream transaction moves its bytes, or records a fault, poison or host read. R233 to R247, R255, R256. -/
def Obligations.StreamTransactionsMoveBytes : Prop :=
  ∀ (s : State) (sid : Nat) (env : Env) (x : Stream) (o : Op), findStream s sid = some x → findOp s x.op = some o →
    (∀ s1 m pa, txnServed s sid x false = true → translate s x.ctx (x.addrAt false x.pos).1 true = (s1, .ok m) →
      m.at (x.addrAt false x.pos).1 = .dev pa →
      let n := (txnOf x false m x.pos x.writeLimit).1
      firstOut s pa n = none → ∃ t, exec (.streamTransaction sid false env) s = .next t ∧
        t.mem.data = s.mem.data.write pa (x.outBytes n) ∧
        findStream t sid = some { x with held := none, pos := x.pos + n, buf := x.buf.drop n } ∧ t.windows = s.windows ∧
        t.pantries = s.pantries ∧ t.fuses = s.fuses) ∧
    (∀ s1 c, txnServed s sid x false = true → translate s x.ctx (x.addrAt false x.pos).1 true = (s1, .fault c) →
      ∃ t y, exec (.streamTransaction sid false env) s = .next t ∧ findStream t sid = some y ∧
        y.pending = some (c, (x.addrAt false x.pos).1) ∧ y.pos = x.pos ∧ t.mem = s.mem) ∧
    (txnServed s sid x true = true →
      let va := (x.addrAt true x.rpos).1
      (∀ s1 c, translate s x.ctx va false = (s1, .fault c) → ∃ t y, exec (.streamTransaction sid true env) s = .next t ∧
        findStream t sid = some y ∧ y.pending = some (c, va) ∧ y.pos = x.pos ∧ y.state = .run ∧ t.mem = s.mem) ∧
      (∀ s1 m, translate s x.ctx va false = (s1, .ok m) →
        let n := (txnOf x true m x.rpos x.total).1
        (∀ pa, m.at va = .dev pa → CleanRead s env pa n →
          ∃ t, exec (.streamTransaction sid true env) s = .next t ∧ t.mem.data = s.mem.data ∧ t.mem.poison = s.mem.poison ∧
            t.pantries = s.pantries ∧
            (x.kind = .copy → t.windows = s.windows ∧
              findStream t sid = some { x with held := none, buf := x.buf ++ s.mem.data.read pa n, rpos := x.rpos + n }) ∧
            (∀ h, x.kind = .feed → halfOf (win s x.win) x.half = some h →
              halfOf (win t x.win) x.half = some { h with bytes := h.bytes ++ s.mem.data.read pa n }) ∧
            (x.kind = .image → (paneOf (win t x.win) x.half).staged =
              (paneOf (win s x.win) x.half).staged ++ s.mem.data.read pa n)) ∧
        (∀ pa c, m.at va = .dev pa → ctxOf s x.ctx = some c → c.lost = false →
          (∃ g ∈ granulesOf pa n, g ∈ s.mem.poison ∨ stackOut s (64 * g) = true ∨ g ∈ env.ue) →
          ∃ t c', exec (.streamTransaction sid true env) s = .next t ∧ ctxOf t x.ctx = some c' ∧ c'.lost = true ∧
            c'.lossCause = 1 ∧ (o.ctx = x.ctx → ∃ u, findOp t x.op = some u ∧ u.done.isSome = true)) ∧
        (∀ a, m.at va = .host a → ∃ t, exec (.streamTransaction sid true env) s = .next t ∧
          t.host.reqs = s.host.reqs ++ [⟨hostTag s, sid, min n (maxRead s), x.ctx⟩] ∧
          t.out = s.out ++ [.hostRead (hostTag s) a (min n (maxRead s))] ∧ findStream t sid = some { x with held := none } ∧ t.mem.data = s.mem.data)))

/-- Faults halt a stream with its event, walks fill the DTC, and finished streams end their command. R233, R234, R246 to R253,
R389, R555. -/
def Obligations.StreamFaultsWalksAndEnds : Prop :=
  ∀ s : State, powered s = true →
    (∀ (sid : Nat) (x : Stream) (c : FCode) (va d : Nat), findStream s sid = some x → x.pending = some (c, va) →
      waiting s sid = false → x.canWrite = false → x.dw = some d → ∃ t y, exec (.translationFault sid) s = .next t ∧
        findStream t sid = some y ∧ y.state = .halt ∧ y.fcode = c ∧ y.faultVa = va ∧ y.pending = none ∧
        y.pos = (if x.kind = .feed ∨ x.kind = .image then 0 else x.pos) ∧ (dumb t d).faultCnt = (dumb s d).faultCnt + 1 ∧
        (dumb t d).st = 2 ∧ (dumb t d).flags = (dumb s d).flags ||| 1 ∧ t.evSeq = s.evSeq + 1 ∧ t.mem = s.mem ∧
        t.ops = s.ops ∧ t.ctxs = s.ctxs) ∧
    (∀ (n : Fin 4096) (page : Nat) (c : Context), (n.val, page) ∈ s.xlate.walks → ctxOf s n.val = some c →
      (∀ m, c.resident = true → tableFind s n.val (page * 0x10000) = some m → ∃ t k,
        exec (.translationWalk n page false) s = .next t ∧ t.xlate.walkCnt = s.xlate.walkCnt + 1 ∧
        bankFind t.xlate.dtc k = some ⟨n.val, m, s.xlate.clock⟩ ∧ (n.val, page) ∉ t.xlate.walks ∧
        t = { s with xlate := t.xlate }) ∧
      (c.lost = false → ∃ t c', exec (.translationWalk n page true) s = .next t ∧ ctxOf t n.val = some c' ∧
        c'.lost = true ∧ c'.lossCause = 3 ∧
        ∀ id o, findOp s id = some o → o.ctx = n.val → ∃ u, findOp t id = some u ∧ u.done.isSome = true)) ∧
    (∀ (sid : Nat) (x : Stream) (o : Op), findStream s sid = some x → findOp s x.op = some o → x.finished = true →
      waiting s sid = false → slotHeld s x o = false → ∃ t, exec (.streamDone sid) s = .next t ∧ findStream t sid = none ∧
        (audOf t 3).give = (audOf s 3).give + 1 ∧ t.mem = s.mem ∧
        (x.kind = .copy ∨ x.kind = .fill → (∀ e ∈ s.streams, e.2.op = x.op → e.1 = sid) →
          findOp t x.op = some { o with done := some .ok }) ∧
        (∀ h, x.kind = .feed → halfOf (win s x.win) x.half = some h →
          halfOf (win t x.win) x.half = some { h with ready := true } ∧ t.ops = s.ops))

/-- The Sweep scrubs queued granules, walks both memories and poisons what it finds uncorrectable. R254, R258, R261, R266. -/
def Obligations.TheSweepWalksAndScrubs : Prop :=
  ∀ (s : State) (larder : Bool), powered s = true → s.mem.init = true → sweepOn s larder = true →
    exec (.scrubQueued larder) s = .next { s with
      mem := { s.mem with
      scrubL := if larder then s.mem.scrubL.drop 1 else s.mem.scrubL,
      scrubC := if larder then s.mem.scrubC else s.mem.scrubC.drop 1 } } ∧
    ∀ env : Env, ∃ t, exec (.sweepGranule larder env) s = .next t ∧
      (larder = true → t.mem.swLar = (if s.mem.swLar + 1 < 0x10000000 / 64 then s.mem.swLar + 1 else 0) ∧
        t.mem.swCel = s.mem.swCel ∧ t.mem.swPass = s.mem.swPass) ∧
      (larder = false → t.mem.swLar = s.mem.swLar ∧
        if s.mem.swCel + 1 < s.mem.stacksIn.length * 0x600000000 / 64
          then t.mem.swCel = s.mem.swCel + 1 ∧ t.mem.swPass = s.mem.swPass
          else t.mem.swCel = 0 ∧ t.mem.swPass = s.mem.swPass + 1) ∧
      t.mem.data = s.mem.data ∧ t.ctxs = s.ctxs ∧ t.windows = s.windows ∧
      (if stackOut s (64 * sweepAt s larder) = false ∧ sweepAt s larder ∉ s.mem.poison ∧ sweepAt s larder ∈ env.ue then
        t.mem.poison = s.mem.poison ++ [sweepAt s larder] ∧ t.mem.poisCnt = s.mem.poisCnt + 1 ∧ t.evSeq ≠ s.evSeq
      else t.mem.poison = s.mem.poison ∧ t.mem.poisCnt = s.mem.poisCnt ∧ t.evSeq = s.evSeq)

/-- Failing rows retire into spares or by page; a stack that goes down or derates changes DELIV. R262 to R265, R269, R270, R488. -/
def Obligations.RowsAndStacksLeaveService : Prop :=
  ∀ s : State, powered s = true →
    (∀ (k : Fin 4) (row r : Nat) (pages : List Nat), r = rowOf s (row * 1024) → rowDue s r = true → inLarder (row * 1024) = false →
      inCellar s (row * 1024) = true → stackOf s (row * 1024) = k.val → ∃ t, exec (.rowRetire k row pages) s = .next t ∧
        rowDue t r = false ∧ t.mem.data = s.mem.data ∧
        (if (s.nvm.retRows.filter (fun e => e.1 = k.val)).length < 256 then
          t.nvm.retRows = s.nvm.retRows ++ [(k.val, r)] ∧ t.mem.flags = s.mem.flags ||| 8 ∧ t.nvm.retPages = s.nvm.retPages
        else t.nvm.retRows = s.nvm.retRows ∧ t.mem.flags = s.mem.flags ||| 16 ∧
          (pageOwned s (row >>> 6) = false → row >>> 6 ∈ t.nvm.retPages))) ∧
    (∀ (k : Fin 4) (row r : Nat) (pages : List Nat), r = rowOf s (row * 1024) → rowDue s r = true → inLarder (row * 1024) = true →
      ∃ t, exec (.rowRetire k row pages) s = .next t ∧ rowDue t r = false ∧ t.nvm.retRows = s.nvm.retRows ∧
        t.mem.data = s.mem.data ∧ (pageOwned s (row >>> 6) = false → row >>> 6 ∈ t.nvm.retPages)) ∧
    (∀ k : Fin 4, s.mem.stkUp.getLsbD k.val = true → k.val ∈ s.mem.stacksIn → ∃ t, exec (.stackDown k) s = .next t ∧
      t.mem.stkUp = s.mem.stkUp &&& ~~~(BitVec.ofNat 4 (2 ^ k.val)) ∧ t.nvm.stkDown.getLsbD k.val = true ∧
      t.mem.derate = s.mem.derate.set k.val 3 ∧ t.mem.data = s.mem.data ∧
      (isReady s = true → t.mem.deliv = delivNow t ∧ t.mem.c0cap = 4 * t.mem.deliv / 10 ∧
        (resvSum t none ≤ t.mem.deliv ∨ ∀ r ∈ t.mem.resvs, r.cls = 0 ∨ 3 < r.cls))) ∧
    (∀ (k : Fin 4) (temp : Int), s.mem.stkUp.getLsbD k.val = true → k.val ∈ s.mem.stacksIn →
      ∃ t, exec (.stackDerate k temp) s = .next t ∧ t.power = { s.power with
          stkTemp := s.power.stkTemp.set k.val (BitVec.ofInt 16 temp) } ∧
        t.mem.derate = s.mem.derate.set k.val (BitVec.ofNat 2 (derateLevel (s.mem.derate.getD k.val 0).toNat temp)) ∧
        t.mem.stkUp = s.mem.stkUp ∧ t.mem.data = s.mem.data ∧
        (derateLevel (s.mem.derate.getD k.val 0).toNat temp ≠ (s.mem.derate.getD k.val 0).toNat → isReady s = true →
          t.mem.deliv = delivNow t ∧ (resvSum t none ≤ t.mem.deliv ∨ ∀ r ∈ t.mem.resvs, r.cls = 0 ∨ 3 < r.cls)))

/-- Reservation tokens mint to their limit; a capture checks conservation and reports what fails. R293 to R297, R300; the event
is counted while the failure record has room for its entry; a capture first counts the words that crossed the PCIe FIFOs, a
free value (log entry 96). -/
def Obligations.TokensAndAuditCaptures : Prop :=
  ∀ s : State,
    (∀ (n : Fin 4096) (cls : Fin 4) (r : Resv), s.mem.resvs.find? (fun r => r.ctx = n.val ∧ r.cls = cls.val) = some r →
      ∃ t, exec (.rtokMint n cls) s = .next t ∧ (audOf t 7).take = (audOf s 7).take + 1 ∧
        if r.tokens < r.rate * 10000 / 64 then
          t.mem.resvs.find? (fun r => r.ctx = n.val ∧ r.cls = cls.val) = some { r with tokens := r.tokens + 1 } ∧
            (audOf t 7).give = (audOf s 7).give
        else t.mem = s.mem ∧ (audOf t 7).give = (audOf s 7).give + 1) ∧
    (blockOpen s clrCWIF = true → s.corr.freeze = false → ∃ t, exec .freezeCapture s = .next t ∧ t.corr.freeze = true ∧
      t.corr.captured = captureRegs (phyWords s) ∧ t.corr.audCap = s.corr.audCap + 1 ∧ t.corr.aud = (phyWords s).corr.aud ∧
      (∀ q < 16, q ≠ 9 → audOf t q = audOf s q) ∧ (audOf t 9).level = (audOf s 9).level ∧
      (∀ q < 16, t.corr.audFail.getLsbD q = (s.corr.audFail.getLsbD q || !(audHolds s q))) ∧
      ((∃ q < 16, audHolds s q = false) → t.corr.flags.getLsbD 0 = true ∧ (s.nvm.frec.length < 1024 → t.evSeq = s.evSeq + 1 ∧
        (s.evRing = none → s.events.length < 64 → ∃ e, t.events = s.events ++ [e] ∧ e.type = 0x0B ∧
          e.arg0 = t.corr.audFail.setWidth 64))) ∧
      ((∀ q < 16, audHolds s q = true) → t = { s with corr := t.corr, freeIx := s.freeIx + 1 })) ∧
    (blockOpen s clrCWIF = true → s.corr.freeze = true → exec .freezeCapture s = .next s) ∧
    (blockOpen s clrCWIF = true → exec .freezeRelease s = .next { s with
      corr := { s.corr with freeze := false, captured := [] } }) ∧
    (powered s = true → isReady s = true → ∃ t, exec .auditTimer s = .next t ∧ t.corr.freeze = s.corr.freeze ∧
      t.corr.captured = s.corr.captured ∧ t.corr.audCap = s.corr.audCap + 1 ∧
      (∀ q < 16, q ≠ 9 → audOf t q = audOf s q) ∧ (audOf t 9).level = (audOf s 9).level ∧
      (∀ q < 16, t.corr.audFail.getLsbD q = (s.corr.audFail.getLsbD q || !(audHolds s q))) ∧
      ((∃ q < 16, audHolds s q = false) → t.corr.flags.getLsbD 0 = true ∧ (s.nvm.frec.length < 1024 → t.evSeq = s.evSeq + 1 ∧
        (s.evRing = none → s.events.length < 64 → ∃ e, t.events = s.events ++ [e] ∧ e.type = 0x0B ∧
          e.arg0 = t.corr.audFail.setWidth 64))))

/-- Every Radiator tick moves OUT towards CODE, forms u with dither, and steps every generator and modulator. R156, R157, R161 to
R163, R175; the bits that R156 leaves open are free values (log entry 99). -/
def Obligations.RadiatorTicksMoveEveryChannel : Prop :=
  (∀ s : State, radiatorOn s = true → ∃ t, exec .radiatorTick s = .next t ∧ t.thermo.tick = s.thermo.tick + 1 ∧
    (∀ h < 262144, ∀ x y, x = heaterOf s.thermo h → y = heaterOf t.thermo h →
      y.code = x.code ∧ y.park = x.park ∧ y.sc = x.sc ∧ y.den = x.den ∧ y.prof = x.prof ∧ y.dsel = x.dsel ∧
      y.modu = x.modu.tick s.thermo.tick y.u ∧
      (if x.sc || s.thermo.parkAll then y.out = x.park ∧ y.u = x.park
       else y.out = (let p := profOf s.thermo x.prof.toNat
          if p.step = 0 then x.code else if s.thermo.tick % (p.slint.toNat + 1) ≠ 0 then x.out
          else if x.out.toNat < x.code.toNat then BitVec.ofNat 16 (min (x.out.toNat + p.step.toNat) x.code.toNat)
          else BitVec.ofNat 16 (max (x.out.toNat - p.step.toNat) x.code.toNat)) ∧
        (x.den = false → y.u = y.out) ∧
        (x.den = true →
          let g := sgOf s.thermo x.dsel.toNat
          let d := sineT ((g.phase + g.phoff) >>> 22).toNat * (g.amp.toNat : Int) / 32768
          (y.u.toNat : Int) = max 0 (min 65535 ((y.out.toNat : Int) + d)) ∧
          ((y.out.toNat : Int) + d < 0 ∨ 65535 < (y.out.toNat : Int) + d → t.thermo.flags.getLsbD 2 = true)))) ∧
    (∀ a < 4, ∀ x y, x = auxOf s.thermo a → y = auxOf t.thermo a → y.code = x.code ∧ y.compl = x.compl ∧
      (if s.thermo.parkAll then y.out = x.park ∧ y.u = x.park
       else y.out = (let p := profOf s.thermo x.prof.toNat
          if p.step = 0 then x.code else if s.thermo.tick % (p.slint.toNat + 1) ≠ 0 then x.out
          else if x.out.toNat < x.code.toNat then BitVec.ofNat 16 (min (x.out.toNat + p.step.toNat) x.code.toNat)
          else BitVec.ofNat 16 (max (x.out.toNat - p.step.toNat) x.code.toNat)) ∧
        (x.den = false → y.u = y.out) ∧
        (x.den = true →
          let g := agOf s.thermo a
          let d := sineT ((g.phase + g.phoff) >>> 22).toNat * (g.amp.toNat : Int) / 32768
          (y.u.toNat : Int) = max 0 (min 65535 ((y.out.toNat : Int) + d)) ∧
          ((y.out.toNat : Int) + d < 0 ∨ 65535 < (y.out.toNat : Int) + d → t.thermo.flags.getLsbD 2 = true)))) ∧
    (∀ p, profNow t.thermo p = profOf s.thermo p ∧ profOf t.thermo p = profOf s.thermo p) ∧
    (∀ g, sgOf t.thermo g = { sgOf s.thermo g with
      phase := (sgOf s.thermo g).phase + (sgOf s.thermo g).ftw, d := genOut (sgOf s.thermo g) }) ∧
    (∀ a, agOf t.thermo a = { agOf s.thermo a with
      phase := (agOf s.thermo a).phase + (agOf s.thermo a).ftw, d := genOut (agOf s.thermo a) }) ∧
    (s.thermo.rampDone = true → t.thermo.rampDone = true) ∧ t = { s with thermo := t.thermo }) ∧
  (∀ (m : Modulator) (k : Nat) (u : BitVec 16),
    (u = 0 → (m.tick k u).ones = 0) ∧
    (m.u = u → (m.tick k u).acc = m.acc + 32 * (u.toNat : Int) - 65536 * ((m.tick k u).ones : Int)) ∧
    (m.lo ≤ m.acc → m.acc ≤ m.hi → m.hi - m.lo ≤ 262144 → (m.tick k u).lo ≤ (m.tick k u).acc ∧
      (m.tick k u).acc ≤ (m.tick k u).hi ∧ (m.tick k u).hi - (m.tick k u).lo ≤ 262144))

/-- Heater, AUX, profile and generator writes change exactly their register, u, and the count of words to the Radiator. R157, R158,
R160 to R170, R176; log entries 92 and 96. -/
def Obligations.RadiatorRegistersAreWritten : Prop :=
  ∀ s : State, blockOpen s clrCWI = true →
    (∀ (off h : Nat) (val : Word) (dropped : Bool), heaterAt off = some h → ∃ t y, exec (.heaterCodeWrite off val dropped) s = .next t ∧
      y = heaterOf t.thermo h ∧ y.code = val.setWidth 16 ∧ y.prof = (val >>> 16).setWidth 3 ∧ y.den = val.getLsbD 19 ∧
      y.dsel = (val >>> 22).setWidth 6 ∧ y.sc = ((heaterOf s.thermo h).sc && !(val.getLsbD 20)) ∧
      y.limiting = (heaterOf s.thermo h).limiting ∧ y.park = (heaterOf s.thermo h).park ∧
      y.out = (if s.thermo.nvmOk = false then 0 else if y.sc || s.thermo.parkAll then y.park
        else if (profNow s.thermo y.prof.toNat).step = 0 then y.code else (heaterOf s.thermo h).out) ∧
      (y.den = false → y.u = y.out) ∧
      (s.thermo.nvmOk = true → y.sc = false → s.thermo.parkAll = false → y.den = true →
        y.u = (clampU y.out (sgOf s.thermo y.dsel.toNat).d).1 ∧
        ((clampU y.out (sgOf s.thermo y.dsel.toNat).d).2 = true → t.thermo.flags.getLsbD 2 = true)) ∧
      t.thermo.lostSum = (if dropped then s.thermo.lostSum + 1 else s.thermo.lostSum) ∧
      (∀ k, k ≠ h → heaterOf t.thermo k = heaterOf s.thermo k) ∧ t = { s with thermo := t.thermo, corr := { s.corr with aud := t.corr.aud } }) ∧
    (∀ (off a : Nat) (val : Word) (dropped : Bool), heaterAt off = none → auxAt off = some a →
      ∃ t y, exec (.heaterCodeWrite off val dropped) s = .next t ∧ y = auxOf t.thermo a ∧ y.code = val.setWidth 16 ∧
        y.prof = (val >>> 16).setWidth 3 ∧ y.den = val.getLsbD 19 ∧ y.compl = (auxOf s.thermo a).compl ∧
        y.out = (if s.thermo.nvmOk = false then 0 else if s.thermo.parkAll then y.park
          else if (profNow s.thermo y.prof.toNat).step = 0 then y.code else (auxOf s.thermo a).out) ∧
        (y.den = false → y.u = y.out) ∧
        (s.thermo.nvmOk = true → s.thermo.parkAll = false → y.den = true → y.u = (clampU y.out (agOf s.thermo a).d).1 ∧
          ((clampU y.out (agOf s.thermo a).d).2 = true → t.thermo.flags.getLsbD 2 = true)) ∧
        (∀ k, k ≠ a → auxOf t.thermo k = auxOf s.thermo k) ∧ (∀ k, heaterOf t.thermo k = heaterOf s.thermo k) ∧
        t = { s with thermo := t.thermo, corr := { s.corr with aud := t.corr.aud } }) ∧
    (∀ h, h < 262144 → (heaterOf s.thermo h).sc = true →
      (∃ t y, exec (.heaterScClear h false) s = .next t ∧ y = heaterOf t.thermo h ∧ y.sc = false ∧
        y.limiting = (heaterOf s.thermo h).limiting ∧ y.code = (heaterOf s.thermo h).code ∧
        (s.thermo.nvmOk = true → s.thermo.parkAll = false → y.out = (heaterOf s.thermo h).out) ∧
        (∀ k, k ≠ h → heaterOf t.thermo k = heaterOf s.thermo k) ∧ t = { s with thermo := t.thermo }) ∧
      (∃ t, exec (.heaterScClear h true) s = .next t ∧ (heaterOf t.thermo h).sc = true ∧
        t.thermo.scCnt = s.thermo.scCnt + 1 ∧ t.thermo.flags = s.thermo.flags ||| 1)) ∧
    (∀ (p : Fin 8) (val : Word), ∃ t, exec (.slprofWrite p val) s = .next t ∧
      profOf t.thermo p.val = ⟨val.setWidth 16, (val >>> 16).setWidth 8⟩ ∧
      (∀ k, k ≠ p.val → profOf t.thermo k = profOf s.thermo k) ∧ (∀ k, profNow t.thermo k = profNow s.thermo k) ∧
      t = { s with thermo := t.thermo, corr := { s.corr with aud := t.corr.aud } }) ∧
    (∀ (g : Fin 64) (r : Fin 3) (val : Word), ∃ t, exec (.generatorWrite (0x30400 + 16 * g.val + 4 * r.val) val) s = .next t ∧
      sgOf t.thermo g.val = (let x := sgOf s.thermo g.val
        match r with | 0 => { x with ftw := val } | 1 => { x with phoff := val } | 2 => { x with amp := val.setWidth 12 }) ∧
      (∀ k, k ≠ g.val → sgOf t.thermo k = sgOf s.thermo k) ∧
      t.thermo.lkVoid = (if s.thermo.cycleOn = true ∧ r ≠ 1 then s.thermo.lkVoid + 1 else s.thermo.lkVoid) ∧
      t = { s with thermo := t.thermo, corr := { s.corr with aud := t.corr.aud } }) ∧
    (∀ (a : Fin 4) (r : Fin 3) (val : Word), ∃ t, exec (.generatorWrite (0x30E00 + 16 * a.val + 4 * r.val) val) s = .next t ∧
      agOf t.thermo a.val = (let x := agOf s.thermo a.val
        match r with | 0 => { x with ftw := val } | 1 => { x with phoff := val } | 2 => { x with amp := val.setWidth 12 }) ∧
      (∀ k, k ≠ a.val → agOf t.thermo k = agOf s.thermo k) ∧ t = { s with
        thermo := { s.thermo with ag := t.thermo.ag }, corr := { s.corr with aud := t.corr.aud } })

/-- A heater short begins limiting; after its time the channel parks, sets SC and is recorded. R166, R167. -/
def Obligations.HeaterShortsPark : Prop :=
  ∀ (s : State) (h : Nat), radiatorOn s = true → h < 262144 →
    (∃ t, exec (.heaterShortOnset h) s = .next t ∧ heaterOf t.thermo h = { heaterOf s.thermo h with limiting := true } ∧
      (∀ k, k ≠ h → heaterOf t.thermo k = heaterOf s.thermo k) ∧ t = { s with thermo := t.thermo }) ∧
    ((heaterOf s.thermo h).limiting = true → (heaterOf s.thermo h).sc = false → ∃ t, exec (.heaterShort h) s = .next t ∧
      (heaterOf t.thermo h).sc = true ∧ (heaterOf t.thermo h).out = (heaterOf s.thermo h).park ∧
      (heaterOf t.thermo h).u = (heaterOf s.thermo h).park ∧ (heaterOf t.thermo h).code = (heaterOf s.thermo h).code ∧
      (∀ k, k ≠ h → heaterOf t.thermo k = heaterOf s.thermo k) ∧ t.thermo.scCnt = s.thermo.scCnt + 1 ∧
      t.thermo.flags = s.thermo.flags ||| 1 ∧ t.mem = s.mem ∧ t.windows = s.windows ∧
      (s.nvm.frec.length < 1024 → t.evSeq = s.evSeq + 1 ∧ ∃ e, t.nvm.frec = s.nvm.frec ++ [e] ∧ e.kind = 9))

/-- Lock-in cycles dither cells that the sweep has not dithered, at most 256 a Window, correct by at most LSTEP and settle CONV.
R178 to R184; which Window that is OFF is held follows the model's reading of R181 beside R469 (log entry 70), and the cells and
tones that the command does not name are the model's choice (log entry 98). -/
def Obligations.LockinCyclesDitherAndCorrect : Prop :=
  ∀ s : State, radiatorOn s = true →
    (∀ dither : List (Nat × Fin 64), s.thermo.cycleOn = false → s.thermo.tick % 1024 = 0 → s.thermo.cycleAt ≠ some s.thermo.tick →
      ∃ t, exec (.lockinCycleStart dither) s = .next t ∧ t.thermo.cycleOn = true ∧ t.thermo.cycleAt = some s.thermo.tick ∧
        (∀ h, (heaterOf t.thermo h).code = (heaterOf s.thermo h).code ∧ ((heaterOf s.thermo h).sc = false → s.thermo.parkAll = false →
          (heaterOf t.thermo h).out = (heaterOf s.thermo h).out)) ∧
        (∀ h ∈ t.thermo.dithered, (heaterOf t.thermo h).den = true ∧ held s (h / 32768) = false ∧
          s.thermo.loopOn.getLsbD (h / 32768) = true ∧
          (bankGet s.thermo.visited 0 (h / 32768)).testBit (h % 32768) = false ∧
          (bankGet t.thermo.visited 0 (h / 32768)).testBit (h % 32768) = true ∧
          ((∃ g, (h, g) ∈ dither) → ∃ g, (h, g) ∈ dither ∧ (heaterOf t.thermo h).dsel = BitVec.ofNat 6 g.val)) ∧
        t.thermo.dithered.Nodup ∧ (∀ w, (t.thermo.dithered.filter (fun h => h / 32768 = w)).length ≤ 256) ∧
        (∀ w < 8, looping s w = true → bankGet s.thermo.visited 0 w = 0 →
          (t.thermo.dithered.filter (fun h => h / 32768 = w)).length = 256) ∧
        (∀ h, h < 262144 → held s (h / 32768) = true → (heaterOf t.thermo h).den = false) ∧
        t = { s with thermo := t.thermo, corr := { s.corr with aud := t.corr.aud } }) ∧
    (∀ deltas : List (Nat × Int), s.thermo.cycleOn = true → s.thermo.cycleAt.getD 0 + 1024 ≤ s.thermo.tick →
      s.thermo.dithered.Nodup → ∃ t, exec (.lockinCycleEnd deltas) s = .next t ∧ t.thermo.cycleOn = false ∧
        t.thermo.lkCyc = s.thermo.lkCyc + 1 ∧ (∀ h, h ∉ s.thermo.dithered → heaterOf t.thermo h = heaterOf s.thermo h) ∧
        (∀ h, h ∈ s.thermo.dithered → ((heaterOf t.thermo h).code.toNat : Int) =
          if held s (h / 32768) = false ∧ (heaterOf s.thermo h).sc = false ∧ (heaterOf s.thermo h).dsel.toNat ∉ s.thermo.voided
          then max 0 (min 65535 (((heaterOf s.thermo h).code.toNat : Int) +
            max (-(lstep s.thermo : Int)) (min (lstep s.thermo : Int) (deltaOf deltas h))))
          else ((heaterOf s.thermo h).code.toNat : Int)) ∧
        (∀ w < 8, looping s w = true → s.thermo.swept.getLsbD w = true →
          (if bankGet s.thermo.cycles 0 w + 1 < 128 then bankGet t.thermo.cycles 0 w = bankGet s.thermo.cycles 0 w + 1
           else bankGet t.thermo.cycles 0 w = 0 ∧ bankGet t.thermo.visited 0 w = 0 ∧
             ∃ m, bankGet t.thermo.sweepDue none w = some m)) ∧
        t = { s with thermo := t.thermo, corr := { s.corr with aud := t.corr.aud } }) ∧
    (∀ (w : Fin 8) (m : Nat), bankGet s.thermo.sweepDue none w.val = some m → ∃ t, exec (.sweepEnd w) s = .next t ∧
      t.thermo.conv.getLsbD w.val = decide (m ≤ cthr s.thermo) ∧ bankGet t.thermo.lkResid 0 w.val = BitVec.ofNat 16 m ∧
      (∀ k, k ≠ w.val → t.thermo.conv.getLsbD k = s.thermo.conv.getLsbD k) ∧ bankGet t.thermo.sweepDue none w.val = none ∧
      (win t w.val).convRun = (if m ≤ cthr s.thermo then (win s w.val).convRun + 1 else 0) ∧
      t = { s with thermo := t.thermo, windows := t.windows })

/-- Conversions update sensors and the throttle; holds expire; trips darken and park everything. R187 to R197, R478 to R486. -/
def Obligations.SensorsThrottleAndTrip : Prop :=
  ∀ s : State, powered s = true →
    (∀ p : Period, ∃ t, exec (.sensorConversion p) s = .next t ∧ t.thermo.sensCnt = s.thermo.sensCnt + 1 ∧
      t.power.pavg = p.pavg ∧ t.corr.cspeed = p.cspeed ∧ t.mem = s.mem ∧ t.windows = s.windows ∧ t.lamp = s.lamp ∧
      (∀ n < 64, ∀ k r, p.reads.find? (fun e => e.1 = n) = some (k, r) → (sensorOf s n).recovering = false →
        (sensorOf s n).est = false → (sensorOf s n).chkOk.getD r.ownOk = true → r.wireOk = true →
        (-3276800 ≤ r.val ∧ r.val ≤ 10485760 → (sensorOf t n).temp = BitVec.ofInt 16 (dieTemp r.val) ∧ (sensorOf t n).valid = true) ∧
        (r.val < -3276800 ∨ 10485760 < r.val → (sensorOf t n).temp = (sensorOf s n).temp ∧ (sensorOf t n).valid = false ∧
          (sensorOf t n).hold = true ∧ (sensorOf t n).range = true ∧ (sensorOf t n).recovering = true)) ∧
      (t.power.tpol.toInt < 12800 → t.power.thlvl =
        if raiseCond t = true ∧ 9 ≤ s.power.sinceChange ∧ s.power.thlvl ≠ 7 then s.power.thlvl + 1 else s.power.thlvl)) ∧
    (∀ n : Fin 66, chanOn n.val (sensorOf s n.val) = true → (sensorOf s n.val).recovering = true → (sensorOf s n.val).hold = true → 100 ≤ (sensorOf s n.val).lostFor →
      ∃ t, exec (.sensorHoldExpiry n) s = .next t ∧ (sensorOf t n.val).hold = false ∧ (sensorOf t n.val).est = true ∧
        (∀ k, k ≠ n.val → sensorOf t k = sensorOf s k) ∧ t = { s with thermo := { s.thermo with sensors := t.thermo.sensors } }) ∧
    (100 ≤ s.power.calm → s.power.thlvl ≠ 0 → ∃ t, exec .throttleLower s = .next t ∧ t.power.thlvl = s.power.thlvl - 1 ∧
      t.power.calm = 0 ∧ t.power.sinceChange = 0 ∧ t.mem = s.mem ∧ t.windows = s.windows ∧
      t.evSeq = (if s.power.thlvl = 1 then s.evSeq + 1 else s.evSeq)) ∧
    (∀ c, s.power.trip = false → tripCause s = some c → ∃ t, exec .thermalTrip s = .next t ∧ t.power.trip = true ∧
      t.thermTripN = false ∧ t.alertN = false ∧ t.lamp.lok = 0 ∧ t.lamp.enabled = 0 ∧ t.thermo.parkAll = true ∧
      (∀ w < 8, (win t w).state = .off ∧ (win t w).pass = none) ∧
      (s.thermo.nvmOk = true → ∀ h < 262144, (heaterOf t.thermo h).out = (heaterOf s.thermo h).park) ∧
      (∀ id o, findOp s id = some o → ∃ u, findOp t id = some u ∧ u.done.isSome = true) ∧ t.mem.data = s.mem.data ∧
      t.fuses = s.fuses ∧ (s.nvm.frec.length < 1024 → ∃ e, t.nvm.frec = s.nvm.frec ++ [e] ∧ e.kind = 13 ∧ e.cause = c)) ∧
    (∀ a : Fin 4, s.thermo.nvmOk = true → ∃ t, exec (.auxComplianceLost a) s = .next t ∧
      auxOf t.thermo a.val = { auxOf s.thermo a.val with compl := true } ∧ t.thermo.flags = s.thermo.flags ||| 32 ∧
      t.evSeq = s.evSeq + 1 ∧ (∀ k, heaterOf t.thermo k = heaterOf s.thermo k) ∧ t.mem = s.mem)

/-- Doors train, open with the expected peer, go down, retrain, disable and report degradation. R397 to R402, R407, R408, R435,
R438. -/
def Obligations.DoorsTrainFailAndRecover : Prop :=
  ∀ (s : State) (d : Fin 16) (x : Door), powered s = true → doorOf s d.val = x →
    (∀ peer : Half, x.state = .training → ∃ t, exec (.doorTrained d peer) s = .next t ∧ (doorOf t d.val).peer = peer ∧
      (∀ k, k ≠ d.val → doorOf t k = doorOf s k) ∧ t.mem = s.mem ∧
      (match s.link.topo with
       | none => (doorOf t d.val).state = .trained
       | some tp => if isReady s = true then
          (if tp.expected s.nodeId.toNat d.val = some peer.toNat
           then (doorOf t d.val).state = .open_ ∧ (audOf t 8).take = (audOf s 8).take + 640
           else (doorOf t d.val).state = .trained ∧ (doorOf t d.val).flags = x.flags ||| 2) ∧ t.evSeq = s.evSeq + 1
         else (doorOf t d.val).state = .trained)) ∧
    (∀ cause : Fin 5, x.state = .open_ ∨ x.state = .trained → cause.val = 1 ∨ cause.val = 3 ∨ cause.val = 2 ∧ (∃ g ∈ x.replay, 8 ≤ g.2) →
      ∃ t, exec (.doorDown d cause) s = .next t ∧ (doorOf t d.val).state = .down ∧ (doorOf t d.val).sendQ = [] ∧
        (doorOf t d.val).replay = [] ∧ (doorOf t d.val).flags.getLsbD 0 = true ∧ (∀ r ∈ t.link.reqs, r.door ≠ some d.val) ∧
        (∀ v < 3, dcLevel (doorOf t d.val) v = 0) ∧ t.mem.data = s.mem.data ∧ t.fuses = s.fuses) ∧
    (x.state = .down ∨ x.state = .training ∧ x.retry = true → ∃ t, exec (.doorRetrain d false) s = .next t ∧
      doorOf t d.val = { x with state := .training, retry := true } ∧
      (∀ k, k ≠ d.val → doorOf t k = doorOf s k) ∧ t = { s with link := { s.link with doors := t.link.doors } }) ∧
    (x.state = .down ∨ x.state = .training ∧ x.retry = true → ∃ t, exec (.doorRetrain d true) s = .next t ∧ (doorOf t d.val).retrains = x.retrains + 1 ∧
      (∀ k, k ≠ d.val → doorOf t k = doorOf s k) ∧ t.mem = s.mem ∧
      (if 2 ≤ x.retrains then (doorOf t d.val).state = .disabled ∧
        (s.nvm.frec.length < 1024 → ∃ e, t.nvm.frec = s.nvm.frec ++ [e] ∧ e.kind = 17 ∧ e.index = d.val)
       else (doorOf t d.val).state = .down)) ∧
    (∀ rate : Long, x.state = .open_ ∨ x.state = .trained → ∃ t, exec (.linkDegraded d rate) s = .next t ∧
      (∀ k, k ≠ d.val → doorOf t k = doorOf s k) ∧ t.mem = s.mem ∧
      (if rate.toNat < 100000 then doorOf t d.val = { x with degraded := false } ∧ t.evSeq = s.evSeq
       else if rate.toNat = 100000 ∨ x.degraded = true then t = s
       else doorOf t d.val = { x with degraded := true, flags := x.flags ||| 16 } ∧ t.evSeq = s.evSeq + 1))

/-- Flits are taken in sequence or NAKed; a Door sends a due LINK flit, the lane's flit whose turn it is, or a null flit. R398, R403 to
R413, Tables 11.2 and 11.10; the layout of a LINK flit is log entry 102. -/
def Obligations.FlitsAreCheckedAndSent : Prop :=
  ∀ (s : State) (d : Fin 16) (x : Door), powered s = true → doorOf s d.val = x →
    (∀ (corr unc : Nat) (bytes : List Byte), x.state = .open_ ∨ x.state = .trained → ∃ t, exec (.flitReceive d corr unc bytes) s = .next t ∧
      t.mem = s.mem ∧ t.ctxs = s.ctxs ∧
      (doorOf t d.val).fecCorr = x.fecCorr + BitVec.ofNat 32 corr ∧ (doorOf t d.val).fecUnc = x.fecUnc + BitVec.ofNat 32 unc ∧
      (parseFlit bytes = none → (doorOf t d.val).crcCnt = x.crcCnt + 1 ∧ (doorOf t d.val).flags = x.flags ||| 4 ∧
        (doorOf t d.val).nakSent = true ∧ (doorOf t d.val).expSeq = x.expSeq ∧ t.link.inbox = s.link.inbox) ∧
      (∀ f, parseFlit bytes = some f → f.seq ≠ x.expSeq → (doorOf t d.val).nakSent = true ∧
        (doorOf t d.val).expSeq = x.expSeq ∧ (doorOf t d.val).rxFlit = x.rxFlit ∧ t.link.inbox = s.link.inbox) ∧
      (∀ f, parseFlit bytes = some f → f.seq = x.expSeq → (doorOf t d.val).expSeq = (x.expSeq + 1) % 4096 ∧
        (doorOf t d.val).rxFlit = x.rxFlit + 1 ∧ (doorOf t d.val).nakSent = false ∧
        (f.vc = 3 → t.link.inbox = s.link.inbox) ∧
        (∀ m, f.vc ≠ 3 → x.state = .open_ → s.link.topo = none → m.dst = s.nodeId.toNat →
          bankGet x.rxBuf [] (2 * f.vc + f.lane) = [] → splitMsgs 240 f.payload = ([m], []) →
          t.link.inbox = s.link.inbox ++ [⟨d.val, 2 * f.vc + f.lane, [x.rxIx], m⟩]))) ∧
    (x.replay.length < 512 →
      (∀ y code o cred, y = sendable s d.val x → x.linkDue = false → x.state = .open_ → pickLane s d.val y = some code →
        laneStart y code = some (o, cred) → ∃ t f, exec (.flitTransmit d) s = .next t ∧ t.out = s.out ++ [.flit d.val f] ∧
          f.vc = code / 2 ∧ f.lane = code % 2 ∧ f.null = false ∧ f.seq = x.nextSeq ∧
          f.payload = (fillFlit d.val code ((bankGet y.sendQ [] code).length + 1) s y (bankGet y.partTx [] code) cred []).2.1.take 240 ∧
          (doorOf t d.val).replay = x.replay ++ [(f, 0)] ∧
          (doorOf t d.val).nextSeq = (x.nextSeq + 1) % 4096 ∧ (doorOf t d.val).txFlit = x.txFlit + 1 ∧
          bankGet (doorOf t d.val).txCred 0 code = bankGet x.txCred 0 code - 1 ∧ t.mem = s.mem) ∧
      (∀ c, c = .flitTransmit d ∧ (x.state = .open_ ∨ x.state = .trained) ∧ x.linkDue = true ∨
          c = .nullFlitTimer d ∧ (x.state = .trained ∨ x.state = .open_ ∧ x.linkDue = true) →
        ∃ t f, exec c s = .next t ∧ t.out = s.out ++ [.flit d.val f] ∧ f.vc = 3 ∧ f.null = false ∧
          f.payload = linkIdentity s d.val ∧ f.seq = x.nextSeq ∧ (doorOf t d.val).replay = x.replay ++ [(f, 0)] ∧
          (doorOf t d.val).linkDue = false ∧ (∀ k, k ≠ d.val → doorOf t k = doorOf s k) ∧ t.mem = s.mem) ∧
      (x.state = .open_ → x.linkDue = false → pickLane s d.val (sendable s d.val x) = none →
        ∃ t f, exec (.nullFlitTimer d) s = .next t ∧ t.out = s.out ++ [.flit d.val f] ∧ f.vc = 3 ∧ f.null = true ∧
          f.payload = [] ∧ f.seq = x.nextSeq ∧ f.ack = (x.expSeq + 4095) % 4096 ∧ (doorOf t d.val).replay = x.replay ++ [(f, 0)] ∧
          (doorOf t d.val).nextSeq = (x.nextSeq + 1) % 4096 ∧ (∀ k, k ≠ d.val → doorOf t k = doorOf s k) ∧ t.mem = s.mem))

/-- Remote reads, writes and atomics whose turn it is at their port reach the exported pages or answer why not. R411, R417 to R429,
Table 11.5. -/
def Obligations.RemoteRequestsAreServed : Prop :=
  ∀ (s s1 : State) (d : Nat) (m : Msg) (env : Env), powered s = true →
    (∀ e, farNext s 0x01 = some e → takeIn s e = (d, m, s1) → ∃ t, exec (.rd env) s = .next t ∧ t.mem.data = s.mem.data ∧
      (∀ c, exportAt s m m.len false false = .inl c → t = answer s1 m 0x10 c 0 []) ∧
      (∀ n va ps, exportAt s m m.len false false = .inr (n, va) → targetPieces s n false (vaChunks va m.len) = .inr ps →
        (∀ p ∈ ps, CleanRead s env p.1 p.2) →
        Turned (answer { s1 with link := { s1.link with remRd := s1.link.remRd + 1 } } m 0x10 0 0
          (ps.flatMap (fun p => s.mem.data.read p.1 p.2))) t)) ∧
    (∀ e, farNext s 0x02 = some e → takeIn s e = (d, m, s1) → ∃ t, exec (.wr env) s = .next t ∧
      (∀ c, exportAt s m m.data.length true false = .inl c → t = answer s1 m 0x11 c 0 [] ∧ t.mem = s.mem) ∧
      (∀ n va ps, exportAt s m m.data.length true false = .inr (n, va) →
        targetPieces s n true (vaChunks va m.data.length) = .inr ps → targetOut s ps = none →
        t.link.remWr = s.link.remWr + 1 ∧
        (∀ pa k, ps = [(pa, k)] → t.mem.data = s.mem.data.write pa (m.data.take k)) ∧
        (∀ pa k pb l, ps = [(pa, k), (pb, l)] →
          t.mem.data = (s.mem.data.write pa (m.data.take k)).write pb ((m.data.drop k).take l)))) ∧
    (∀ e, farNext s 0x03 = some e → takeIn s e = (d, m, s1) →
      (∀ b c, exportAt s m 8 true true = .inl c → exec (.atom b env) s = .next (answer s1 m 0x12 c 0 [])) ∧
      (∀ n va pa, exportAt s m 8 true true = .inr (n, va) → targetPieces s n true [(va / 8 * 8, 8)] = .inr [(pa, 8)] →
        CleanRead s env pa 8 →
        (∃ t, exec (.atom true env) s = .next t ∧ t.mem = s.mem ∧ t.link.remAtom = s.link.remAtom ∧
          (d < 16 → (doorOf t d).retryTx = (doorOf s d).retryTx + 1)) ∧
        (∃ t, exec (.atom false env) s = .next t ∧ t.link.remAtom = s.link.remAtom + 1 ∧
          t.mem.data = s.mem.data.write pa (toBytes 8 (atomVal m.atop (fromBytes (s.mem.data.read pa 8)) (field m.data 0 8)
            (field m.data 8 8)))))) ∧
    (256 ≤ s.link.atomq.length → exec .atomq s = .next s) ∧
    (s.link.atomq.length < 256 → takeMsg s 0x04 = some (d, m, s1) →
      exec .atomq s = .next { s1 with link := { s1.link with atomq := s1.link.atomq ++ [m] } }) ∧
    (∀ rest, s.link.atomq = m :: rest → ∃ t, exec (.atomqPerform env) s = .next t ∧ t.link.atomq = rest ∧
      (∀ c, exportAt s m 8 true true = .inl c →
        t = answer { s with link := { s.link with atomq := rest } } m 0x12 c 0 []) ∧
      (∀ n va pa, exportAt s m 8 true true = .inr (n, va) → targetPieces s n true [(va / 8 * 8, 8)] = .inr [(pa, 8)] →
        CleanRead s env pa 8 → t.link.remAtom = s.link.remAtom + 1 ∧
        t.mem.data = s.mem.data.write pa (toBytes 8 (atomVal m.atop (fromBytes (s.mem.data.read pa 8)) (field m.data 0 8)
          (field m.data 8 8)))))

/-- Responses end the request they answer, RETRY sends it again, and a timeout ends its command. R420, R427 to R434. -/
def Obligations.AnswersEndTheirRequest : Prop :=
  ∀ (s s1 : State) (d : Nat) (m : Msg) (env : Env), powered s = true →
    (∀ c mt, (c, mt) ∈ [(Instr.rdrsp env, 0x10), (.wrack, 0x11), (.atrsp, 0x12), (.retry, 0x13)] →
      takeMsg s mt = some (d, m, s1) → findReq s m.tag = none → d < 16 → ∃ t, exec c s = .next t ∧
        (doorOf t d).lateRsp = (doorOf s d).lateRsp + 1 ∧ t.link.reqs = s.link.reqs ∧ t.streams = s.streams ∧ t.mem = s.mem) ∧
    (∀ r sid b x, s.link.held = [] → findReq s m.tag = some r → r.owner = .stream sid b → findStream s sid = some x →
      (takeMsg s 0x10 = some (d, m, s1) → x.kind = .copy → m.status ≠ 5 → ∃ t, exec (.rdrsp env) s = .next t ∧
        findReq t m.tag = none ∧ t.mem = s.mem ∧ findStream t sid = some (if m.status = 0
          then { x with buf := x.buf ++ m.data, rpos := x.rpos + m.data.length }
          else { x with pending := some (fcodeOf m.status, r.va), held := none })) ∧
      (takeMsg s 0x11 = some (d, m, s1) → ∃ t y, exec .wrack s = .next t ∧ findReq t m.tag = none ∧ t.mem = s.mem ∧
        findStream t sid = some y ∧ (if m.status = 0
          then y = { x with pos := x.pos + r.msg.data.length, buf := x.buf.drop r.msg.data.length }
          else y.pending = some (fcodeOf m.status, r.va) ∧ y.pos = x.pos))) ∧
    (∀ r op irq, s.link.held = [] → findReq s m.tag = some r → r.owner = .signal op irq → takeMsg s 0x12 = some (d, m, s1) →
      (m.status ≠ 0 ∨ signalAgain r (fromBytes m.data) = false) → ∃ t, exec .atrsp s = .next t ∧ findReq t m.tag = none ∧
        t.mem = s.mem ∧ ∀ c, ctxOf s r.ctx = some c →
          ctxOf t r.ctx = some (if m.status = 0 then c else { c with sigDrop := c.sigDrop + 1 })) ∧
    (∀ r, findReq s m.tag = some r → takeMsg s 0x13 = some (d, m, s1) → ∃ t, exec .retry s = .next t ∧
      findReq t m.tag = some { r with retries := r.retries + 1, backoff := true } ∧ t.mem = s.mem ∧ t.streams = s.streams) ∧
    (∀ tag r, s.link.held = [] → findReq s tag = some r → r.backoff = true → (routeOf s r.msg.dst none).2 ≠ .down →
      ∃ t, exec (.atomResend tag) s = .next t ∧ t.mem = s.mem ∧ findReq t tag = some { r with
        backoff := false, door := none, msg := { r.msg with mtype := if 32 ≤ r.retries then 0x04 else 0x03 } }) ∧
    (∀ tag r, s.link.held = [] → findReq s tag = some r → timerRuns s r = true → ∃ t, exec (.remoteTimeout tag) s = .next t ∧
      findReq t tag = none ∧ t.mem.data = s.mem.data ∧ t.evSeq = s.evSeq + 1 ∧
      ∀ sid b x o, r.owner = .stream sid b → findStream s sid = some x → findOp s x.op = some o → o.done = none →
        (findOp t x.op).map (·.done) = some (some .aborted))

/-- Partials of a Truss arrive piece by piece, are acknowledged, and time out. R443 to R448. -/
def Obligations.TrussPartialsTravel : Prop :=
  ∀ (s s1 : State) (d : Nat) (m : Msg), powered s = true →
    (takeMsg s 0x20 = some (d, m, s1) → ∃ t p, exec .reddesc s = .next t ∧ t.link.partials = s.link.partials ++ [p] ∧
      p.group = m.addr / 4294967296 % 256 ∧ p.otrow = m.addr % 65536 ∧ p.otcol = m.addr / 65536 % 65536 ∧ p.src = m.src ∧
      p.node = BitVec.ofNat 32 (field m.data 16 4) ∧ p.bytes = [] ∧ p.whole = false ∧ p.descMeta = m.data.take 16 ∧
      p.dead = decide ((bankFind s.link.groups p.group).map (·.gcrc) ≠ some (BitVec.ofNat 32 (field m.data 20 4))) ∧
      (if p.dead = true ∧ isS s = false then t.link.flags = s.link.flags ||| 2 ∧ t.evSeq = s.evSeq + 1
       else t.link.flags = s.link.flags ∧ t.evSeq = s.evSeq) ∧ t.mem = s.mem ∧ t.pantries = s.pantries) ∧
    (∀ p, takeMsg s 0x21 = some (d, m, s1) → s.link.partials = [p] → p.whole = false → p.src = m.src →
      p.win = m.status % 8 → redAddr p.group p.otrow p.otcol = m.addr % 2 ^ 40 → ∃ t, exec .reddata s = .next t ∧
        t.mem = s.mem ∧ t.pantries = s.pantries ∧
        (if p.bytes.length + m.data.length < p.want then t.link.partials = [{ p with bytes := p.bytes ++ m.data }]
         else if keyTimedOut s p.group p.otrow p.otcol p.kth then t.link.partials = [] ∧ t.link.trLate = s.link.trLate + 1
         else t.link.partials = [{ p with bytes := p.bytes ++ m.data, whole := true }] ∧ t.link.trLate = s.link.trLate)) ∧
    (∀ r id o tr x, s.link.held = [] → takeMsg s 0x14 = some (d, m, s1) →
      s.link.reqs.find? (fun r => decide (r.msg.mtype = 0x21) && decide (r.msg.dst = m.src) && decide (r.msg.addr = m.addr) &&
        decide (r.msg.tag = m.tag)) = some r → r.owner = .red id → findOp s id = some o → findTree s id = some tr →
      tr.root = some x → ∃ t, exec .redack s = .next t ∧ (findOp t id).map (·.done) = some (some .ok) ∧
        findTree t id = none ∧ findReq t r.tag = none ∧ t.mem = s.mem ∧
        (pantry t tr.pantry).treeClose = (pantry s tr.pantry).treeClose + 1) ∧
    (∀ (q : Fin 256) (idx : Fin 65536) (o : Op) (c : WinCmd) (tr : Tree) (x : Partial), findOp s (q.val, idx.val) = some o →
      o.cmd = .window c → o.done = none → findTree s (q.val, idx.val) = some tr → tr.root = some x → isS s = false →
      s.link.trto ≠ 0 → c.splitN ≠ 0 → tr.sent = false → tr.final = none → isRoot c (trussLift c 20 x) = false →
      ownerOf s o c (trussLift c 20 x) = some c.splitRank → s.link.partials = [] → ∃ t, exec (.trussTimeout q idx) s = .next t ∧
        (findOp t (q.val, idx.val)).map (·.done) = some (some .aborted) ∧ findTree t (q.val, idx.val) = none ∧
        t.link.flags = s.link.flags ||| 8 ∧ t.evSeq = s.evSeq + 1 ∧ t.mem.data = s.mem.data ∧
        keyTimedOut t (trussGroup s o) c.otrow c.otcol o.gkey = true)

/-- Every Letterbox command waits its turn and is refused by level, level 0 and view. R12, R347, R349, R350; the order in which
refusals are checked is log entry 40. -/
def Obligations.LetterboxRefusesAndWaits : Prop :=
  ∀ (s : State) (mb : MbRef) (env : Env) (b : Fin 32) (k : Fin 4096) (ps : List Nat) (h : Word) (ra rb : List (List Int))
    (rnd : BitVec 256) (c : Instr) (code : Nat) (user : Bool),
    (c, code, user) ∈ [(Instr.ctxCreate mb, 0x01, false), (.ctxDestroy mb env, 0x02, false), (.ctxPin mb b env, 0x03, false),
      (.ctxUnpin mb, 0x04, false), (.ctxEvict mb env, 0x05, false), (.ctxQuery mb, 0x06, true), (.queueCreate mb b env, 0x10, false),
      (.queueDestroy mb env, 0x11, false), (.queueResume mb, 0x12, true), (.queueFlush mb env, 0x13, true),
      (.queueQuery mb, 0x14, true), (.memMap mb ps, 0x20, false), (.memUnmap mb, 0x21, false), (.memProtect mb, 0x22, false),
      (.arenaSet mb, 0x23, false), (.arenaQuery mb, 0x24, true), (.shareCreate mb k ps, 0x30, false), (.shareMap mb, 0x31, false),
      (.shareUnmap mb env, 0x32, false), (.shareRelease mb env, 0x33, false), (.kernelLoad mb h env, 0x40, false),
      (.kernelUnload mb, 0x41, false), (.streamResume mb, 0x50, false), (.streamAbort mb env, 0x51, false),
      (.resvSet mb, 0x60, false), (.panePin mb, 0x61, false), (.paneUnpin mb, 0x62, false), (.windowQuarantine mb, 0x70, false),
      (.windowQualify mb ra rb, 0x71, false), (.radiatorPark mb, 0x72, false), (.auxSetDefaults mb, 0x73, false),
      (.evqSet mb, 0x80, false), (.topoLoad mb env, 0x90, false), (.topoQuery mb, 0x91, false), (.linkOpen mb, 0x92, false),
      (.linkClose mb, 0x93, false), (.linkQuery mb, 0x94, false), (.exportSet mb, 0x95, false), (.exportClear mb, 0x96, false),
      (.remoteMap mb, 0x97, false), (.trussGroup mb env, 0x98, false), (.trussBind mb, 0x99, false), (.trussClear mb, 0x9A, false),
      (.attest mb, 0xB0, false), (.certRead mb, 0xB1, false), (.frecRead mb, 0xB2, false), (.fwStage mb env, 0xB3, false),
      (.fwActivate mb, 0xB4, false), (.fwCommit mb, 0xB5, false), (.fwQuery mb, 0xB6, false), (.testChallenge mb rnd, 0xB7, false),
      (.testUnlock mb env, 0xB8, false), (.boardCfgSet mb env, 0xB9, false), (.pwrLimit mb, 0xD0, false),
      (.resetPart mb, 0xD1, false), (.coolLimit mb, 0xD2, false)] →
    (lbOpen s = false ∨ reqCmd (mbGet s mb) ≠ code ∨ (mbGet s mb).busy = false ∧ mbNext s ≠ some (mbIx mb) → exec c s = .next s) ∧
    (lbOpen s = true → reqCmd (mbGet s mb) = code → ((mbGet s mb).busy = true ∨ mbNext s = some (mbIx mb)) →
      (s.ifLevel.toNat < reqLevel (mbGet s mb) → ∃ t, exec c s = .next t ∧ Ran s t mb .levelUnsupported [] s) ∧
      (reqLevel (mbGet s mb) = 0 → ∃ t, exec c s = .next t ∧ Ran s t mb .invalid [] s) ∧
      (∀ n, mb = .unpriv n → user = false → 1 ≤ reqLevel (mbGet s mb) → reqLevel (mbGet s mb) ≤ s.ifLevel.toNat →
        ∃ t, exec c s = .next t ∧ Ran s t mb .denied [] s))

/-- CTX_CREATE to CTX_QUERY and making a context resident have the effects of Table 10.6. R352 to R358, R388; log entries 19 and
24. -/
def Obligations.ContextCommandsAnswer : Prop :=
  ∀ (s : State) (k : Fin 16) (env : Env) (base : Fin 32) (n : Nat), n = argOf s (.priv k) 0 →
    (Taken s (.priv k) 0x01 → n ≤ 4095 → argOf s (.priv k) 2 ≤ 32 → argOf s (.priv k) 4 ≤ 2047 →
      (ctxOf s n = none → ∃ t c, exec (.ctxCreate (.priv k)) s = .next t ∧
        Ran s t (.priv k) .ok [] { s with ctxs := bankPut s.ctxs n c } ∧ c.cseed = BitVec.ofNat 64 (argOf s (.priv k) 1) ∧
        c.pregion = argOf s (.priv k) 2 ∧ c.saveVa = argOf s (.priv k) 3 ∧ c.vec = argOf s (.priv k) 4 ∧ c.resident = false ∧
        c.lost = false ∧ c.table = [] ∧ c.arena = none ∧ c.kernels = []) ∧
      (ctxOf s n ≠ none → ∃ t, exec (.ctxCreate (.priv k)) s = .next t ∧ Ran s t (.priv k) .busy [] s)) ∧
    (Taken s (.priv k) 0x01 → 4095 < n ∨ 32 < argOf s (.priv k) 2 ∨ 2047 < argOf s (.priv k) 4 →
      ∃ t, exec (.ctxCreate (.priv k)) s = .next t ∧ Ran s t (.priv k) .invalid [] s) ∧
    (∀ c, ctxOf s n = some c →
      (Taken s (.priv k) 0x02 → (∀ o ∈ s.ops, o.ctx ≠ n) → accessesOut s n = false →
        ∃ t, exec (.ctxDestroy (.priv k) env) s = .next t ∧ Ran s t (.priv k) .ok [] t ∧ ctxOf t n = none ∧
          (∀ e ∈ t.queues, e.2.ctx ≠ n) ∧ (∀ e ∈ t.link.exports, e.2.ctx ≠ n) ∧
          (∀ r ∈ t.mem.resvs, r.ctx = n → 3 < r.cls) ∧ t.fuses = s.fuses) ∧
      (Taken s (.priv k) 0x03 → c.resident = true → ∃ t, exec (.ctxPin (.priv k) base env) s = .next t ∧
        Ran s t (.priv k) .ok [] { s with ctxs := bankPut s.ctxs n { c with wantRes := false, pinned := true } }) ∧
      (Taken s (.priv k) 0x03 → c.resident = false → c.lost = false → c.saveKey = none → (residents s).length < 48 →
        ((residents s).map (fun e => regionUnits e.2)).sum + c.pregion ≤ 32 → unitsFree s n c.pregion base.val = true →
        ∃ t c', exec (.ctxPin (.priv k) base env) s = .next t ∧ Ran s t (.priv k) .ok [] { s with
            ctxs := t.ctxs, pantries := t.pantries } ∧ ctxOf t n = some c' ∧ c'.resident = true ∧ c'.pinned = true ∧
          c'.base = base.val ∧ c'.wantRes = false ∧ c'.table = c.table) ∧
      (Taken s (.priv k) 0x04 → ∃ t, exec (.ctxUnpin (.priv k)) s = .next t ∧
        Ran s t (.priv k) .ok [] { s with ctxs := bankPut s.ctxs n { c with pinned := false } }) ∧
      (Taken s (.priv k) 0x05 → (c.resident = false → ∃ t, exec (.ctxEvict (.priv k) env) s = .next t ∧ Ran s t (.priv k) .busy [] s) ∧
        (c.resident = true → evictable s n c = true → ∃ t c', exec (.ctxEvict (.priv k) env) s = .next t ∧
          Ran s t (.priv k) .ok [] t ∧ ctxOf t n = some c' ∧ c'.resident = false ∧ c'.table = c.table ∧
          (c.lost = false → c'.saved = regionCopy s c) ∧ t.queues = s.queues) ∧
        (c.resident = true → evictable s n c = false → ∃ t, exec (.ctxEvict (.priv k) env) s = .next t ∧
          Ran s t (.priv k) .busy [] s))) ∧
    (∀ (m : Fin 4096) c, ctxOf s m.val = some c → powered s = true → isReady s = true → c.wantRes = true → c.lost = false →
      c.resident = false → c.saveKey = none → (residents s).length < 48 →
      ((residents s).map (fun e => regionUnits e.2)).sum + c.pregion ≤ 32 → unitsFree s m.val c.pregion base.val = true →
      ∃ t c', exec (.contextMakeResident m base env) s = .next t ∧ ctxOf t m.val = some c' ∧ c'.resident = true ∧
        c'.wantRes = false ∧ c'.base = base.val ∧ c'.table = c.table ∧ t = { s with ctxs := t.ctxs, pantries := t.pantries }) ∧
    (∀ (mb : MbRef) c, Taken s mb 0x06 → mbOwns mb (argOf s mb 0) = true → ctxOf s (argOf s mb 0) = some c →
      ∃ t, exec (.ctxQuery mb) s = .next t ∧ Ran s t mb .ok [(if c.resident then 1 else 0) + 2 * (if c.lost then 1 else 0) +
        4 * (if c.pinned then 1 else 0) + 256 * (c.lossCause % 256), c.replayed.toNat, c.lateCnt.toNat, c.sigDrop.toNat,
        c.lossAddr.toNat] s)

/-- QUEUE_CREATE to QUEUE_QUERY, STREAM_RESUME and STREAM_ABORT have the effects of Table 10.6. R250, R251, R359, R366, R387;
log entry 34. -/
def Obligations.QueueAndStreamCommandsAnswer : Prop :=
  ∀ (s : State) (k : Fin 16) (env : Env) (base : Fin 32),
    (∀ c q, Taken s (.priv k) 0x10 → ctxOf s (argOf s (.priv k) 0) = some c → q = argOf s (.priv k) 1 → q ≤ 255 →
      (queueOf s q ≠ none → ∃ t, exec (.queueCreate (.priv k) base env) s = .next t ∧ Ran s t (.priv k) .busy [] s) ∧
      (queueOf s q = none → argOf s (.priv k) 2 % 4096 = 0 → argOf s (.priv k) 3 % 4096 = 0 →
        argOf s (.priv k) 4 % 0x2000 ∈ [64, 128, 256, 512, 1024, 2048, 4096] → argOf s (.priv k) 4 / 2 ^ 32 % 0x800 ≠ 0 →
        (argOf s (.priv k) 4 / 2 ^ 16 % 4 = 0 → c.resident = true) →
        ∃ t x, exec (.queueCreate (.priv k) base env) s = .next t ∧ queueOf t q = some x ∧
          Ran s t (.priv k) .ok [] { s with queues := t.queues, ctxs := t.ctxs } ∧ x.ctx = argOf s (.priv k) 0 ∧
          x.cls = argOf s (.priv k) 4 / 2 ^ 16 % 4 ∧ x.ringVa = argOf s (.priv k) 2 ∧ x.cqVa = argOf s (.priv k) 3 ∧
          x.ringN = argOf s (.priv k) 4 % 0x2000 ∧ x.vector = argOf s (.priv k) 4 / 2 ^ 32 % 0x800 ∧ x.head = 0 ∧ x.tail = 0 ∧
          x.state = .active ∧ (∀ i, i ≠ q → queueOf t i = queueOf s i))) ∧
    (∀ q n, Taken s (.priv k) 0x11 → n = argOf s (.priv k) 0 → queueOf s n = some q →
      ((argOf s (.priv k) 1).testBit 0 = false → pendingN q ≠ 0 ∨ inFlight s n ≠ 0 ∨ q.dying = true →
        ∃ t, exec (.queueDestroy (.priv k) env) s = .next t ∧ Ran s t (.priv k) .busy [] s) ∧
      ((argOf s (.priv k) 1).testBit 0 = false → pendingN q = 0 → inFlight s n = 0 → q.dying = false →
        ∃ t, exec (.queueDestroy (.priv k) env) s = .next t ∧
          Ran s t (.priv k) .ok [] { s with queues := bankErase s.queues n }) ∧
      ((argOf s (.priv k) 1).testBit 0 = true → inFlight s n = 0 → ∃ t, exec (.queueDestroy (.priv k) env) s = .next t ∧
        Ran s t (.priv k) .ok [] t ∧ queueOf t n = none)) ∧
    (∀ (mb : MbRef) (n : Nat) (q : Queue), n = argOf s mb 0 → queueOf s n = some q → mbOwns mb q.ctx = true →
      (Taken s mb 0x12 → ∃ t, exec (.queueResume mb) s = .next t ∧ Ran s t mb .ok [] { s with queues := t.queues } ∧
        queueOf t n = some (if q.state = .stopped then { q with state := .active } else q)) ∧
      (Taken s mb 0x13 → q.dying = false → ∃ t x, exec (.queueFlush mb env) s = .next t ∧ Ran s t mb .ok [pendingN q] t ∧
        queueOf t n = some x ∧ x.head = q.tail ∧ x.tail = q.tail ∧ x.state ≠ .stopped) ∧
      (Taken s mb 0x14 → ∃ t, exec (.queueQuery mb) s = .next t ∧
        Ran s t mb .ok [(match q.state with | .active => 0 | .stopped => 1 | .lost => 2) + 4 * (if q.ovr then 1 else 0), q.head,
          q.tail] s)) ∧
    (∀ (n : Nat) (c : Context) (id : OpId) (o : Op), n = argOf s (.priv k) 0 → ctxOf s n = some c →
      id = (argOf s (.priv k) 1 % 256, argOf s (.priv k) 1 / 65536 % 65536) → findOp s id = some o → o.ctx = n →
      (Taken s (.priv k) 0x50 → c.resident = false → haltedOf s id ≠ [] →
        ∃ t, exec (.streamResume (.priv k)) s = .next t ∧ LbWaits s t (.priv k)) ∧
      (∀ sid x, Taken s (.priv k) 0x50 → c.resident = true → haltedOf s id = [(sid, x)] → findStream s sid = some x →
        x.kind = .copy → ∃ t, exec (.streamResume (.priv k)) s = .next t ∧ Ran s t (.priv k) .ok [] t ∧ t.mem = s.mem ∧
          (stillFaults s x = none → findStream t sid = some { x with state := .run, fcode := .none }) ∧
          (∀ f, stillFaults s x = some f → ∃ y, findStream t sid = some y ∧ y.state = .halt ∧ y.fcode = f ∧ y.pos = x.pos)) ∧
      (Taken s (.priv k) 0x51 → haltedOf s id ≠ [] → o.done = none → ∃ t u, exec (.streamAbort (.priv k) env) s = .next t ∧
        Ran s t (.priv k) .ok [] t ∧ findOp t id = some u ∧ u.done = some .pageFault ∧ haltedOf t id = [] ∧ t.mem = s.mem))

/-- MEM_MAP, MEM_UNMAP, MEM_PROTECT, ARENA_SET, ARENA_QUERY and REMOTE_MAP have their effects. R377 to R382, R423; log entry 33. -/
def Obligations.MappingCommandsAnswer : Prop :=
  ∀ (s : State) (k : Fin 16) (n : Nat) (c : Context), n = argOf s (.priv k) 0 → ctxOf s n = some c →
    (∀ pages : List Nat, Taken s (.priv k) 0x20 → ∀ (va cnt src size : Nat) (large : Bool), va = argOf s (.priv k) 1 →
      cnt = argOf s (.priv k) 2 → large = (argOf s (.priv k) 3).testBit 0 → src = argOf s (.priv k) 3 / 4 % 4 →
      size = (if large then 0x2000000 else 0x10000) → src ≠ 3 → (large = true → src = 0) →
      (src = 2 → (argOf s (.priv k) 3).testBit 10 = false) → cnt ≠ 0 → va % size = 0 → va + cnt * size ≤ 2 ^ 48 →
      ((c.table.any (fun m => m.meets va (cnt * size)) = true →
        ∃ t, exec (.memMap (.priv k) pages) s = .next t ∧ Ran s t (.priv k) .mapped [] s) ∧
      (c.table.any (fun m => m.meets va (cnt * size)) = false → tableSize s + cnt ≤ 786432 →
        (src = 2 → ∃ t, exec (.memMap (.priv k) pages) s = .next t ∧ Ran s t (.priv k) .ok [] { s with
          ctxs := bankPut s.ctxs n { c with
            table := c.table ++ (List.range cnt).map (fun i => ⟨va + i * size, false,
            .host (argOf s (.priv k) 4 + i * size), BitVec.ofNat 8 (argOf s (.priv k) 3 / 256 % 16), false, none⟩) } }) ∧
        (src ≠ 2 → pages.length = cnt → allDistinct pages = true →
          pages.all (runFree s (decide (src = 1)) (size / 0x10000)) = true →
          ∃ t c', exec (.memMap (.priv k) pages) s = .next t ∧ Ran s t (.priv k) .ok [] { s with
              ctxs := t.ctxs, mem := t.mem, ops := t.ops, corr := t.corr } ∧ ctxOf t n = some c' ∧
            c'.table = c.table ++ (List.range cnt).map (fun i => ⟨va + i * size, large, .dev (pages.getD i 0 * 0x10000),
              BitVec.ofNat 8 (argOf s (.priv k) 3 / 256 % 16), true, none⟩) ∧
            (∀ p ∈ pages, ∀ j < size / 0x10000, bankFind t.mem.owners (p + j) = some (.ctx n)) ∧
            (∀ p ∈ pages, ∀ a, p * 0x10000 ≤ a → a < p * 0x10000 + size → t.mem.data.get a = 0) ∧
            (s.mem.data.wf = true → ∀ a, (∀ p ∈ pages, a < p * 0x10000 ∨ p * 0x10000 + size ≤ a) → t.mem.data.get a = s.mem.data.get a))))) ∧
    (∀ va len, va = argOf s (.priv k) 1 → len = argOf s (.priv k) 2 * 0x10000 →
      unitsRefusal c va (argOf s (.priv k) 2) = none → accessesOut s n = false →
      (Taken s (.priv k) 0x21 → c.arena = none → exported s n va len = false →
        c.table.any (fun x => x.meets va len && x.shid.isSome) = false → ∃ t c', exec (.memUnmap (.priv k)) s = .next t ∧
          Ran s t (.priv k) .ok [] { s with ctxs := t.ctxs, xlate := t.xlate, mem := t.mem, nvm := t.nvm } ∧ ctxOf t n = some c' ∧
          c'.table = c.table.filter (fun m => !(m.meets va len)) ∧ t.mem.data = s.mem.data ∧
          (∀ e ∈ t.xlate.dtc, e.2.ctx = n → e.2.map.meets va len = false)) ∧
      (Taken s (.priv k) 0x22 → (argOf s (.priv k) 3).testBit 2 = false → ∃ t c', exec (.memProtect (.priv k)) s = .next t ∧
        Ran s t (.priv k) .ok [] { s with ctxs := t.ctxs, xlate := t.xlate } ∧ ctxOf t n = some c' ∧
        c'.table = c.table.map (fun m => if m.meets va len then
          { m with attr := if m.shid.isSome then BitVec.ofNat 8 (argOf s (.priv k) 3 % 16) ||| 4
                           else BitVec.ofNat 8 (argOf s (.priv k) 3 % 16) } else m) ∧
        (∀ e ∈ t.xlate.dtc, e.2.ctx = n → e.2.map.meets va len = false))) ∧
    (Taken s (.priv k) 0x23 → (∀ o ∈ s.ops, o.ctx ≠ n) → argOf s (.priv k) 2 = 0 → ∃ t, exec (.arenaSet (.priv k)) s = .next t ∧
      Ran s t (.priv k) .ok [] { s with ctxs := bankPut s.ctxs n { c with arena := none } }) ∧
    (∀ (base size : Nat) (hit : List Mapping), Taken s (.priv k) 0x23 → base = argOf s (.priv k) 1 → size = argOf s (.priv k) 2 →
      hit = c.table.filter (fun x => x.meets base size) → arenaSize size = true → base % size = 0 → base + size ≤ 2 ^ 48 →
      size ≤ (hit.map (fun x => min (x.va + x.size) (base + size) - max x.va base)).sum →
      (∀ x ∈ hit, x.r = true ∧ x.w = true ∧ x.sho = false) → (∀ o ∈ s.ops, o.ctx ≠ n) →
      ∃ t, exec (.arenaSet (.priv k)) s = .next t ∧ Ran s t (.priv k) .ok []
        { s with ctxs := bankPut s.ctxs n { c with arena := some ⟨base, size, []⟩ } }) ∧
    (Taken s (.priv k) 0x24 → ∃ t, exec (.arenaQuery (.priv k)) s = .next t ∧ Ran s t (.priv k) .ok [(match c.arena with
      | some a => (a.blocks.map (·.2)).sum | none => 0), c.arenaFailed, c.badFree] s) ∧
    (∀ tp, Taken s (.priv k) 0x97 → isS s = false → s.link.topo = some tp → argOf s (.priv k) 3 < tp.nodes →
      argOf s (.priv k) 4 ≤ 63 → argOf s (.priv k) 5 + argOf s (.priv k) 2 ≤ 2 ^ 26 →
      mapRefusal s c (argOf s (.priv k) 1) 0x10000 (argOf s (.priv k) 2) = none → ∃ t, exec (.remoteMap (.priv k)) s = .next t ∧
        Ran s t (.priv k) .ok [] { s with
          ctxs := bankPut s.ctxs n { c with
          table := c.table ++ (List.range (argOf s (.priv k) 2)).map (fun i => ⟨argOf s (.priv k) 1 + i * 0x10000, false,
            .remote (argOf s (.priv k) 3) (argOf s (.priv k) 4) (argOf s (.priv k) 5 + i),
            BitVec.ofNat 8 (argOf s (.priv k) 6 % 16), false, none⟩) } })

/-- Shared-object and kernel commands have the effects of Table 10.6. R378, R384 to R386, R564; log entry 7. -/
def Obligations.ShareAndKernelCommandsAnswer : Prop :=
  ∀ (s : State) (k : Fin 16) (env : Env),
    (∀ (n : Nat) (c : Context), n = argOf s (.priv k) 0 → ctxOf s n = some c →
      (∀ (shid : Fin 4096) (pages : List Nat) (cnt : Nat), Taken s (.priv k) 0x30 → cnt = argOf s (.priv k) 1 → cnt ≠ 0 →
        argOf s (.priv k) 2 ≤ 1 → bankFind s.shares shid.val = none → pages.length = cnt → allDistinct pages = true →
        pages.all (runFree s (decide (argOf s (.priv k) 2 = 1)) 1) = true → s.mem.data.wf = true →
        ∃ t, exec (.shareCreate (.priv k) shid pages) s = .next t ∧
          Ran s t (.priv k) .ok [shid.val, pages.headD 0 * 0x10000] { s with shares := t.shares, mem := t.mem } ∧
          bankFind t.shares shid.val = some ⟨pages, []⟩ ∧ t.mem.data.nat (pages.headD 0 * 0x10000) 8 = 1 ∧
          (∀ p ∈ pages, bankFind t.mem.owners p = some (.share shid.val))) ∧
      (∀ (x : Share) (va sh : Nat), Taken s (.priv k) 0x31 → sh = argOf s (.priv k) 1 → va = argOf s (.priv k) 2 →
        bankFind s.shares sh = some x → n ∉ x.maps → mapRefusal s c va 0x10000 x.pages.length = none →
        ∃ t, exec (.shareMap (.priv k)) s = .next t ∧ Ran s t (.priv k) .ok [] { s with
            ctxs := bankPut s.ctxs n { c with
              table := c.table ++ (List.range x.pages.length).map (fun i =>
              ⟨va + i * 0x10000, false, .dev (x.pages.getD i 0 * 0x10000), BitVec.ofNat 8 (argOf s (.priv k) 3 % 16) ||| 4, false,
                some sh⟩) },
            shares := bankPut s.shares sh { x with maps := x.maps ++ [n] }, corr := t.corr } ∧
          (audOf t 5).take = (audOf s 5).take + 1) ∧
      (∀ (x : Share) (sh : Nat), Taken s (.priv k) 0x32 → sh = argOf s (.priv k) 1 → bankFind s.shares sh = some x → n ∈ x.maps →
        accessesOut s n = false → ∃ t c', exec (.shareUnmap (.priv k) env) s = .next t ∧ Ran s t (.priv k) .ok [] t ∧
          ctxOf t n = some c' ∧ c'.table = c.table.filter (fun m => decide (m.shid ≠ some sh)) ∧
          (audOf t 5).give = (audOf s 5).give + 1 ∧ t.mem.data = s.mem.data ∧
          (x.maps.filter (· ≠ n) ≠ [] → bankFind t.shares sh = some { x with maps := x.maps.filter (· ≠ n) })) ∧
      (∀ (handle : Word) (va len pa : Nat), Taken s (.priv k) 0x40 → va = argOf s (.priv k) 1 → len = argOf s (.priv k) 2 → len ≠ 0 →
        va + len ≤ 2 ^ 48 → tablePieces s n va len false = some [(.dev pa, len)] → CleanRead s env pa len →
        c.kernels.length < 256 → bankFind c.kernels handle.toNat = none →
        ∃ t, exec (.kernelLoad (.priv k) handle env) s = .next t ∧
          (if Config.isCodeObject (s.mem.data.read pa len) s.ifLevel.toNat then
            Ran s t (.priv k) .ok [handle.toNat] { s with
              ctxs := bankPut s.ctxs n { c with kernels := bankPut c.kernels handle.toNat (s.mem.data.read pa len) } }
           else Ran s t (.priv k) .invalid [] s)) ∧
      (Taken s (.priv k) 0x41 → (bankFind c.kernels (argOf s (.priv k) 1)).isSome = true →
        ∃ t, exec (.kernelUnload (.priv k)) s = .next t ∧ Ran s t (.priv k) .ok [] { s with
          ctxs := bankPut s.ctxs n { c with kernels := bankErase c.kernels (argOf s (.priv k) 1) } })) ∧
    (∀ (x : Share) (sh : Nat), Taken s (.priv k) 0x33 → sh = argOf s (.priv k) 0 → bankFind s.shares sh = some x →
      (x.maps ≠ [] → ∃ t, exec (.shareRelease (.priv k) env) s = .next t ∧ Ran s t (.priv k) .busy [] s) ∧
      (x.maps = [] → CleanRead s env (x.pages.headD 0 * 0x10000) 8 → s.mem.data.nat (x.pages.headD 0 * 0x10000) 8 ≠ 0 →
        ∃ t, exec (.shareRelease (.priv k) env) s = .next t ∧ Ran s t (.priv k) .busy [] s) ∧
      (x.maps = [] → CleanRead s env (x.pages.headD 0 * 0x10000) 8 → s.mem.data.nat (x.pages.headD 0 * 0x10000) 8 = 0 →
        ∃ t, exec (.shareRelease (.priv k) env) s = .next t ∧ bankFind t.shares sh = none ∧
          Ran s t (.priv k) .ok [] { s with shares := t.shares, mem := t.mem, nvm := t.nvm } ∧ t.mem.data = s.mem.data ∧
          (∀ p ∈ x.pages, bankFind t.mem.owners p = none)))

/-- Reservation, pane, Window, Radiator, event-ring, power and reset commands have their effects. R107, R114, R169, R198, R267,
R272, R292, R392, Table 12.8; log entry 37. -/
def Obligations.ResourceCommandsAnswer : Prop :=
  ∀ (s : State) (k : Fin 16),
    (∀ (n cls rate : Nat) (c : Context) (old : Resv), Taken s (.priv k) 0x60 → n = argOf s (.priv k) 0 → ctxOf s n = some c →
      cls = argOf s (.priv k) 1 → rate = argOf s (.priv k) 2 → cls ≤ 3 →
      old = (s.mem.resvs.find? (fun r => r.ctx = n ∧ r.cls = cls)).getD ⟨n, cls, 0, 0, 0⟩ →
      (rate = 0 → ∃ t, exec (.resvSet (.priv k)) s = .next t ∧ Ran s t (.priv k) .ok [] { s with mem := t.mem, corr := t.corr } ∧
        (∀ r ∈ t.mem.resvs, ¬ (r.ctx = n ∧ r.cls = cls)) ∧ t.mem.data = s.mem.data) ∧
      (old.rate < rate → s.mem.deliv < resvSum s none - old.rate + rate ∨
          cls = 0 ∧ s.mem.c0cap < resvSum s (some 0) - old.rate + rate →
        ∃ t, exec (.resvSet (.priv k)) s = .next t ∧ Ran s t (.priv k) .resvRefused [] s) ∧
      (rate ≠ 0 → rate ≤ old.rate ∨ resvSum s none - old.rate + rate ≤ s.mem.deliv ∧
          (cls = 0 → resvSum s (some 0) - old.rate + rate ≤ s.mem.c0cap) →
        ∃ t r, exec (.resvSet (.priv k)) s = .next t ∧ Ran s t (.priv k) .ok [] { s with mem := t.mem, corr := t.corr } ∧
          t.mem.resvs.find? (fun r => r.ctx = n ∧ r.cls = cls) = some r ∧ r.rate = rate ∧
          r.tokens = min old.tokens (rate * 10000 / 64) ∧ t.mem.data = s.mem.data)) ∧
    (∀ (n w : Nat) (b : Bool) (c : Context), n = argOf s (.priv k) 0 → ctxOf s n = some c → w = argOf s (.priv k) 1 % 8 →
      b = (argOf s (.priv k) 1).testBit 3 →
      (Taken s (.priv k) 0x61 → (∀ i, (paneOf (win s w) b).pin = some i → i ≠ n →
          ∃ t, exec (.panePin (.priv k)) s = .next t ∧ Ran s t (.priv k) .busy [] s) ∧
        ((paneOf (win s w) b).pin = none ∨ (paneOf (win s w) b).pin = some n → ∃ t, exec (.panePin (.priv k)) s = .next t ∧
          Ran s t (.priv k) .ok [] { s with windows := t.windows } ∧
          paneOf (win t w) b = { paneOf (win s w) b with pin := some n } ∧ (∀ v, v ≠ w → win t v = win s v))) ∧
      (Taken s (.priv k) 0x62 → ((paneOf (win s w) b).pin = some n → ∃ t, exec (.paneUnpin (.priv k)) s = .next t ∧
          Ran s t (.priv k) .ok [] { s with windows := t.windows } ∧
          paneOf (win t w) b = { paneOf (win s w) b with pin := none } ∧ (∀ v, v ≠ w → win t v = win s v)) ∧
        ((paneOf (win s w) b).pin ≠ some n → ∃ t, exec (.paneUnpin (.priv k)) s = .next t ∧
          Ran s t (.priv k) .noObject [] s))) ∧
    (∀ w, Taken s (.priv k) 0x70 → w = argOf s (.priv k) 0 →
      (7 < w → ∃ t, exec (.windowQuarantine (.priv k)) s = .next t ∧ Ran s t (.priv k) .noObject [] s) ∧
      (w ≤ 7 → inService s w = false → ∃ t, exec (.windowQuarantine (.priv k)) s = .next t ∧ Ran s t (.priv k) .ok [] s) ∧
      (w ≤ 7 → inService s w = true → ∃ t, exec (.windowQuarantine (.priv k)) s = .next t ∧ Ran s t (.priv k) .ok [] t ∧
        (win t w).state = .quar ∧ (win t w).quarcnt = (win s w).quarcnt + 1 ∧ (win t w).pass = none ∧
        (pantry t w).migr = !(pantry s w).out ∧ t.mem.data = s.mem.data)) ∧
    (∀ w resA resB, Taken s (.priv k) 0x71 → w = argOf s (.priv k) 0 → w ≤ 7 → (win s w).state = .quar → laserLit s w = true →
      resA.length = 4096 → resB.length = 4096 → ∃ t, exec (.windowQualify (.priv k) resA resB) s = .next t ∧
        Ran s t (.priv k) .ok [(qualRun s w resA resB).2.toNat] t ∧ (win t w).witcnt = (win s w).witcnt + 8192 ∧
        (win t w).state = (if qualPass s w (qualRun s w resA resB).2 then .idle else .quar)) ∧
    (Taken s (.priv k) 0x72 → ∃ t, exec (.radiatorPark (.priv k)) s = .next t ∧
      Ran s t (.priv k) .ok [] { s with thermo := t.thermo } ∧ t.thermo.parkAll = true ∧
      (∀ h < 262144, (heaterOf t.thermo h).code = (heaterOf s.thermo h).code) ∧
      (s.thermo.nvmOk = true → (∀ h < 262144, (heaterOf t.thermo h).out = (heaterOf s.thermo h).park) ∧
        (∀ a < 4, (auxOf t.thermo a).out = (auxOf s.thermo a).park))) ∧
    (Taken s (.priv k) 0x73 → argOf s (.priv k) 0 ≤ 3 → argOf s (.priv k) 1 ≤ 0xFFFF → argOf s (.priv k) 2 ≤ 0xFFFF →
      ∃ t, exec (.auxSetDefaults (.priv k)) s = .next t ∧
        (if 1000 ≤ s.nvm.auxWrites then Ran s t (.priv k) .nvmWorn [] s
         else Ran s t (.priv k) .ok [] { s with
          nvm := { s.nvm with
            auxVals := (bankPut s.nvm.auxVals (argOf s (.priv k) 0) (BitVec.ofNat 16 (argOf s (.priv k) 1), BitVec.ofNat 16 (argOf s (.priv k) 2))),
            auxWrites := s.nvm.auxWrites + 1 } })) ∧
    (Taken s (.priv k) 0x80 → (∃ j < 11, argOf s (.priv k) 1 = 64 * 2 ^ j) → ∃ t r, exec (.evqSet (.priv k)) s = .next t ∧
      Ran s t (.priv k) .ok [] s ∧ t.events = [] ∧ t.evRing = some r ∧ r.addr = argOf s (.priv k) 0 ∧
      r.entries = argOf s (.priv k) 1 ∧ (∀ e ∈ s.events, ∃ a, .hostWrite a (eventBytes e) ∈ t.out)) ∧
    (Taken s (.priv k) 0xD0 → ∃ t, exec (.pwrLimit (.priv k)) s = .next t ∧
      (if 300 ≤ argOf s (.priv k) 0 ∧ argOf s (.priv k) 0 ≤ 480 then
        Ran s t (.priv k) .ok [] { s with power := { s.power with plimit := BitVec.ofNat 9 (argOf s (.priv k) 0) } }
       else Ran s t (.priv k) .invalid [] s)) ∧
    (Taken s (.priv k) 0xD1 → ∃ t, exec (.resetPart (.priv k)) s = .next t ∧
      Ran s t (.priv k) .ok [] { s with internalCause := some 6 }) ∧
    (Taken s (.priv k) 0xD2 → ∃ t, exec (.coolLimit (.priv k)) s = .next t ∧
      (if 20 ≤ argOf s (.priv k) 0 ∧ argOf s (.priv k) 0 ≤ 60 then
        Ran s t (.priv k) .ok [] { s with power := { s.power with coolMax := BitVec.ofNat 16 (128 * argOf s (.priv k) 0) } }
       else Ran s t (.priv k) .invalid [] s))

/-- Link and Truss commands have the effects of Table 11.8; on KX1-S they answer LINK_ABSENT. R8, R399, R417, R418, R439, R440,
R443, R444, Table 11.8; log entries 25 and 46. -/
def Obligations.LinkAndTrussCommandsAnswer : Prop :=
  ∀ (s : State) (k : Fin 16) (env : Env),
    (∀ c code, (c, code) ∈ [(Instr.topoLoad (.priv k) env, 0x90), (.topoQuery (.priv k), 0x91), (.linkOpen (.priv k), 0x92),
        (.linkClose (.priv k), 0x93), (.linkQuery (.priv k), 0x94), (.exportSet (.priv k), 0x95), (.exportClear (.priv k), 0x96),
        (.remoteMap (.priv k), 0x97)] → isS s = true → Taken s (.priv k) code →
      ∃ t, exec c s = .next t ∧ Ran s t (.priv k) .linkAbsent [] s) ∧
    (∀ n bs, isS s = true → Taken s (.priv k) 0x98 → n = argOf s (.priv k) 2 → argOf s (.priv k) 0 ≤ 255 → 1 ≤ n → n ≤ 65536 →
      paSpan s (argOf s (.priv k) 1) (4 * n) = true → CleanRead s env (argOf s (.priv k) 1) (4 * n) →
      bs = s.mem.data.read (argOf s (.priv k) 1) (4 * n) → (∃ e ∈ parseGroup bs n, e.1 ≠ s.nodeId.toNat) →
      ∃ t, exec (.trussGroup (.priv k) env) s = .next t ∧ Ran s t (.priv k) .linkAbsent [] s) ∧
    (isS s = false →
      (Taken s (.priv k) 0x90 → (∃ d < 16, doorOpen s d = true) → ∃ t, exec (.topoLoad (.priv k) env) s = .next t ∧
        Ran s t (.priv k) .busy [] s) ∧
      (∀ pa bs, Taken s (.priv k) 0x90 → (∀ d < 16, doorOpen s d = false) → pa = argOf s (.priv k) 0 → paSpan s pa 704 = true →
        CleanRead s env pa 704 → bs = s.mem.data.read pa 704 → (argOf s (.priv k) 1).testBit 0 = false →
        ∃ t, exec (.topoLoad (.priv k) env) s = .next t ∧
          (if topoOk bs = true ∧ (parseTopo bs).node < (parseTopo bs).nodes then Ran s t (.priv k) .ok [] t ∧
            t.link.topo = some (parseTopo bs) ∧ t.nodeId = BitVec.ofNat 16 (parseTopo bs).node ∧ t.nvm.topo = s.nvm.topo ∧
            (∀ d < 16, doorOpen t d = decide ((doorOf s d).state = .trained ∧
              (parseTopo bs).expected (parseTopo bs).node d = some (doorOf s d).peer.toNat))
           else Ran s t (.priv k) .invalid [] s)) ∧
      (Taken s (.priv k) 0x91 → ∃ t, exec (.topoQuery (.priv k)) s = .next t ∧ Ran s t (.priv k) .ok (match s.link.topo with
        | some tp => [s.nodeId.toNat, tp.mode, tp.check.toNat] | none => [s.nodeId.toNat, 0, 0]) s) ∧
      (Taken s (.priv k) 0x92 → ∃ t, exec (.linkOpen (.priv k)) s = .next t ∧ Ran s t (.priv k) .ok [] { s with
          link := { s.link with doors := t.link.doors }, corr := t.corr } ∧
        (∀ d < 16, (argOf s (.priv k) 0).testBit d = false → doorOf t d = doorOf s d) ∧
        (∀ d < 16, (argOf s (.priv k) 0).testBit d = true → (doorOf s d).state = .down ∨ (doorOf s d).state = .disabled →
          doorOf t d = { doorOf s d with state := .training, retrains := 0 })) ∧
      (∀ ds, Taken s (.priv k) 0x93 → ds = (maskDoors (argOf s (.priv k) 0)).filter (doorOpen s) →
        ((∃ r ∈ s.link.reqs, ∃ d ∈ ds, r.door = some d) ∨ (∃ d ∈ ds, ∃ e ∈ (doorOf s d).partTx, e.2 ≠ []) → ∃ t, exec (.linkClose (.priv k)) s = .next t ∧ LbWaits s t (.priv k)) ∧
        ((∀ r ∈ s.link.reqs, ∀ d ∈ ds, r.door ≠ some d) → (∀ d ∈ ds, ∀ e ∈ (doorOf s d).partTx, e.2 = []) → ∃ t, exec (.linkClose (.priv k)) s = .next t ∧
          Ran s t (.priv k) .ok [] t ∧ (∀ d ∈ ds, (doorOf t d).state = .trained ∧ (doorOf t d).sendQ = [] ∧ (doorOf t d).replay = (doorOf s d).replay) ∧
          t.mem.data = s.mem.data)) ∧
      (Taken s (.priv k) 0x94 → ∃ t, exec (.linkQuery (.priv k)) s = .next t ∧
        (if argOf s (.priv k) 0 ≤ 15 then Ran s t (.priv k) .ok [(readDoor s (argOf s (.priv k) 0) 0).toNat,
          (doorOf s (argOf s (.priv k) 0)).fecCorr.toNat, (doorOf s (argOf s (.priv k) 0)).fecUnc.toNat] s
         else Ran s t (.priv k) .invalid [] s)) ∧
      (∀ c va n, Taken s (.priv k) 0x95 → ctxOf s (argOf s (.priv k) 1) = some c → argOf s (.priv k) 0 ≤ 63 →
        va = argOf s (.priv k) 2 → n = argOf s (.priv k) 3 → n ≠ 0 → va % 0x10000 = 0 → va + n * 0x10000 ≤ 2 ^ 48 →
        (∀ i < n, exportPage c ((argOf s (.priv k) 4).testBit 2) (va + i * 0x10000) = none) →
        ∃ t, exec (.exportSet (.priv k)) s = .next t ∧ Ran s t (.priv k) .ok [] { s with
          link := { s.link with
            exports := bankPut s.link.exports (argOf s (.priv k) 0) ⟨argOf s (.priv k) 1, va, n,
            (argOf s (.priv k) 4).testBit 0, (argOf s (.priv k) 4).testBit 1, (argOf s (.priv k) 4).testBit 2,
            argOf s (.priv k) 5 % 65536, argOf s (.priv k) 5 / 65536 % 65536⟩ } }) ∧
      (∀ x, Taken s (.priv k) 0x96 → bankFind s.link.exports (argOf s (.priv k) 0) = some x →
        ((∃ m ∈ s.link.atomq, m.addr / 2 ^ 42 % 64 = argOf s (.priv k) 0) →
          ∃ t, exec (.exportClear (.priv k)) s = .next t ∧ LbWaits s t (.priv k)) ∧
        ((∀ m ∈ s.link.atomq, m.addr / 2 ^ 42 % 64 ≠ argOf s (.priv k) 0) →
          ∃ t, exec (.exportClear (.priv k)) s = .next t ∧ Ran s t (.priv k) .ok [] { s with
            link := { s.link with exports := bankErase s.link.exports (argOf s (.priv k) 0) } }))) ∧
    (∀ g n bs, Taken s (.priv k) 0x98 → g = argOf s (.priv k) 0 → n = argOf s (.priv k) 2 → g ≤ 255 → 1 ≤ n → n ≤ 65536 →
      paSpan s (argOf s (.priv k) 1) (4 * n) = true → CleanRead s env (argOf s (.priv k) 1) (4 * n) →
      bs = s.mem.data.read (argOf s (.priv k) 1) (4 * n) →
      (∀ e ∈ parseGroup bs n, e.1 = s.nodeId.toNat) → groupBusy s g = false →
      ∃ t, exec (.trussGroup (.priv k) env) s = .next t ∧ Ran s t (.priv k) .ok [(crc32 bs).toNat] { s with
        link := { s.link with groups := bankPut s.link.groups g ⟨parseGroup bs n, crc32 bs⟩ } }) ∧
    (∀ q n, Taken s (.priv k) 0x99 → n = argOf s (.priv k) 0 → queueOf s n = some q →
      ((argOf s (.priv k) 1).testBit 8 = true → ∃ t, exec (.trussBind (.priv k)) s = .next t ∧
        Ran s t (.priv k) .ok [] { s with queues := bankPut s.queues n { q with group := none } }) ∧
      ((argOf s (.priv k) 1).testBit 8 = false → bankFind s.link.groups (argOf s (.priv k) 1 % 256) = none →
        ∃ t, exec (.trussBind (.priv k)) s = .next t ∧ Ran s t (.priv k) .noObject [] s) ∧
      (∀ x, (argOf s (.priv k) 1).testBit 8 = false → bankFind s.link.groups (argOf s (.priv k) 1 % 256) = some x →
        ∃ t, exec (.trussBind (.priv k)) s = .next t ∧ Ran s t (.priv k) .ok [] { s with
          queues := bankPut s.queues n { q with group := some (argOf s (.priv k) 1 % 256) },
          link := { s.link with kths := t.link.kths, timedOut := t.link.timedOut } })) ∧
    (∀ x, Taken s (.priv k) 0x9A → bankFind s.link.groups (argOf s (.priv k) 0) = some x →
      ∃ t, exec (.trussClear (.priv k)) s = .next t ∧
        (if groupBusy s (argOf s (.priv k) 0) then Ran s t (.priv k) .busy [] s
         else Ran s t (.priv k) .ok [] { s with link := { s.link with groups := bankErase s.link.groups (argOf s (.priv k) 0) } }))

/-- Attestation, firmware, test-mode and board commands have the effects of Table 13.12. R505 to R522, R529, Table 13.12; log
entries 6, 28 and 54. -/
def Obligations.ServiceCommandsAnswer : Prop :=
  ∀ (s : State) (k : Fin 16) (env : Env),
    (Taken s (.priv k) 0xB0 → ∃ t, exec (.attest (.priv k)) s = .next t ∧
      (if s.thresh.tstate = .test ∨ s.thresh.tstate = .recovery then Ran s t (.priv k) .denied [] s
       else let body := reportBody s ((List.range 4).flatMap (fun i => toBytes 8 (argOf s (.priv k) i)))
        Ran s t (.priv k) .ok (resultWords (body ++ toBytes 96 (Config.identitySign body).toNat)) s)) ∧
    (Taken s (.priv k) 0xB1 → ∃ t, exec (.certRead (.priv k)) s = .next t ∧ Ran s t (.priv k) .ok
      (s.nvm.certs.length :: resultWords ((s.nvm.certs.drop (argOf s (.priv k) 0)).take 1024)) s) ∧
    (Taken s (.priv k) 0xB2 → ∃ t, exec (.frecRead (.priv k)) s = .next t ∧ Ran s t (.priv k) .ok (s.nvm.frec.length ::
      resultWords (if argOf s (.priv k) 0 = 0xFFFFFFFF then sumBytes s.nvm.frecStored
        else ((s.nvm.frec.drop (argOf s (.priv k) 0)).take 16).flatMap frecBytes)) s) ∧
    (∀ pa n img, pa = argOf s (.priv k) 0 → n = argOf s (.priv k) 1 → paSpan s pa n = true → CleanRead s env pa n →
      img = s.mem.data.read pa n →
      (Taken s (.priv k) 0xB3 → n ≤ 8388608 → ∃ t, exec (.fwStage (.priv k) env) s = .next t ∧
        (if imgAccepted s img then Ran s t (.priv k) .ok [] { s with nvm := t.nvm } ∧
          t.nvm = (if s.nvm.bank then { s.nvm with bankA := img } else { s.nvm with bankB := img })
         else Ran s t (.priv k) .denied [] s)) ∧
      (Taken s (.priv k) 0xB8 → n = 144 → ∃ t, exec (.testUnlock (.priv k) env) s = .next t ∧
        (if tokenOk s img then Ran s t (.priv k) .ok [] t ∧ t.thresh.tstate = .test ∧ t.ctxs = [] ∧ t.ops = [] ∧
          t.mem.data = ⟨[]⟩ ∧ t.mem.poison = [] ∧ (∀ e ∈ t.pantries, e.2.sram = ⟨[]⟩ ∧ e.2.dir = []) ∧ t.lamp.lok = 0 ∧
          t.lamp.enabled = 0 ∧ t.thermo.parkAll = true ∧ t.fuses = { s.fuses with testCnt := s.fuses.testCnt + 1 } ∧
          t.nvm.boardCfg = none ∧ t.nvm.topo = none ∧ t.nvm.everTest = true
         else Ran s t (.priv k) .denied [] s)) ∧
      (Taken s (.priv k) 0xB9 → n ≤ 4096 → ∃ t, exec (.boardCfgSet (.priv k) env) s = .next t ∧
        (if 1000 ≤ s.nvm.boardWrites then Ran s t (.priv k) .nvmWorn [] s
         else Ran s t (.priv k) .ok [] { s with
          nvm := { s.nvm with boardCfg := some img, boardWrites := s.nvm.boardWrites + 1 } }))) ∧
    (Taken s (.priv k) 0xB4 → ∃ t, exec (.fwActivate (.priv k)) s = .next t ∧
      (if imgAccepted s (bankImage s (!s.nvm.bank)) then
        Ran s t (.priv k) .ok [] { s with nvm := { s.nvm with pend := true, switchDue := true } }
       else Ran s t (.priv k) .noObject [] s)) ∧
    (Taken s (.priv k) 0xB5 → ∃ t, exec (.fwCommit (.priv k)) s = .next t ∧
      (if s.nvm.activated then Ran s t (.priv k) .ok [] { s with
        nvm := { s.nvm with pend := false },
        fuses := { s.fuses with svn := max s.fuses.svn (min 64 (field s.thresh.running 6 1)),
                                keyRev := s.fuses.keyRev ||| imgRevoke s.thresh.running } }
       else Ran s t (.priv k) .denied [] s)) ∧
    (Taken s (.priv k) 0xB6 → ∃ t v, exec (.fwQuery (.priv k)) s = .next t ∧
      Ran s t (.priv k) .ok [v, field (bankImage s s.nvm.bank) 5 1] s ∧ v % 2 = (if s.nvm.bank then 1 else 0) ∧
      v / 2 % 2 = (if imgAccepted s (bankImage s (!s.nvm.bank)) then 1 else 0) ∧
      v / 256 % 256 = field (bankImage s s.nvm.bank) 6 1 ∧ v / 65536 % 256 = field (bankImage s (!s.nvm.bank)) 6 1 ∧
      v / 16777216 = s.fuses.svn) ∧
    (∀ rnd, Taken s (.priv k) 0xB7 → ∃ t, exec (.testChallenge (.priv k) rnd) s = .next t ∧
      Ran s t (.priv k) .ok (resultWords (toBytes 32 rnd.toNat)) { s with
        thresh := { s.thresh with challenge := some rnd } }) ∧
    exec .challengeExpiry s = .next { s with thresh := { s.thresh with challenge := none } }
end

