-- ==== Sys2Proof/Laws/Bank.lean ====
section
/-!
SUPPORT. Banks: an entry after a change is the new one, every other stays; what holds of every entry; the failure record's oldest entry.
-/

namespace Sys2Proof.Machine
open Sys2Proof

/-- The changed entry. -/
theorem bankFind_put_same {α : Type} (b : Bank α) (i : Nat) (x : α) : bankFind (bankPut b i x) i = some x := by
  induction b with
  | nil => simp [bankPut, bankFind]
  | cons c t ih =>
    obtain ⟨k, v⟩ := c
    simp only [bankPut]
    split
    · simp [bankFind]
    · split
      · simp [bankFind]
      · rename_i h1 h2
        have h : ¬ k = i := fun e => h2 e.symm
        simp only [bankFind, h, if_false]; exact ih
/-- Every other entry. -/
theorem bankFind_put_other {α : Type} (b : Bank α) {i j : Nat} (x : α) (h : j ≠ i) : bankFind (bankPut b i x) j = bankFind b j := by
  induction b with
  | nil => simp [bankPut, bankFind, h.symm]
  | cons c t ih =>
    obtain ⟨k, v⟩ := c
    simp only [bankPut]
    split
    · simp [bankFind, h.symm]
    · split
      · rename_i h1 h2; simp [bankFind, h.symm, h2.symm]
      · simp only [bankFind, ih]
/-- What a changed entry brings holds of every entry of a changed bank. -/
theorem bankPut_all {α : Type} {P : α → Prop} {b : Bank α} {i : Nat} {x : α} (hb : ∀ e ∈ b, P e.2) (hx : P x) :
    ∀ e ∈ bankPut b i x, P e.2 := by
  induction b with
  | nil => intro e he; simp only [bankPut, List.mem_singleton] at he; subst he; exact hx
  | cons c t ih =>
    obtain ⟨k, v⟩ := c
    have ht : ∀ e ∈ t, P e.2 := fun e he => hb e (List.mem_cons_of_mem _ he)
    intro e he
    simp only [bankPut] at he
    split at he
    · rcases List.mem_cons.1 he with rfl | he
      · exact hx
      · exact hb e he
    · split at he
      · rcases List.mem_cons.1 he with rfl | he
        · exact hx
        · exact ht e he
      · rcases List.mem_cons.1 he with rfl | he
        · exact hb _ (List.mem_cons_self ..)
        · exact ih ht e he
theorem bankFind_mem {α : Type} {b : Bank α} {i : Nat} {x : α} (h : bankFind b i = some x) : (i, x) ∈ b := by
  induction b with
  | nil => simp [bankFind] at h
  | cons c t ih =>
    obtain ⟨k, v⟩ := c
    simp only [bankFind] at h
    split at h
    · simp_all
    · exact List.mem_cons_of_mem _ (ih h)
theorem bankMod_all {α : Type} {P : α → Prop} {b : Bank α} {d : α} {i : Nat} {f : α → α} (hb : ∀ e ∈ b, P e.2) (hd : P d)
    (hf : ∀ x, P x → P (f x)) : ∀ e ∈ bankMod b d i f, P e.2 := by
  refine bankPut_all hb (hf _ ?_)
  unfold bankGet
  cases h : bankFind b i with
  | none => exact hd
  | some x => exact hb _ (bankFind_mem h)
theorem dropOldest_length : ∀ {l t : List FrecEntry}, dropOldest l = some t → t.length + 1 = l.length
  | e :: l, t, h => by
    simp only [dropOldest] at h
    split at h
    · simp_all
    · simp only [Option.map_eq_some_iff] at h
      obtain ⟨u, hu, rfl⟩ := h
      have := dropOldest_length hu
      simp only [List.length_cons]; omega
end Sys2Proof.Machine
end

