-- ==== Sys2Proof/Laws/Kept.lean ====
section
/-!
SUPPORT. `Kept`: what every operation keeps (the commands that wait, fuses that only blow, the invariant Tidy), and how it passes through folds,
pairs and choices.
-/

namespace Sys2Proof.Machine
open Sys2Proof

theorem OneWay.refl (f : Fuses) : OneWay f f :=
  ⟨rfl, rfl, rfl, rfl, rfl, rfl, Nat.le_refl _, by simp, Nat.le_refl _⟩

/-- A state keeps the commands that wait, has fuses that only blew since f, and is Tidy if T. -/
structure Kept (q : List Instr) (f : Fuses) (T : Prop) (s : State) : Prop where
  pend : s.pending = q
  fuse : OneWay f s.fuses
  tidy : T → Tidy s

theorem Kept.upd {q : List Instr} {f : Fuses} {T : Prop} {s : State}
    {x_out x_freeIx nvm_floorA nvm_floorB nvm_cellCal nvm_recOk nvm_pwrUp nvm_park nvm_heaterVals
    nvm_auxVals nvm_auxWrites nvm_bankA nvm_bankB nvm_bank nvm_pend nvm_switchDue nvm_activated
    nvm_fwFails nvm_fwAct nvm_fuseTodo nvm_frecSum nvm_frecStored nvm_frecOvf nvm_retRows nvm_retPages
    nvm_rowUe nvm_rowsOver nvm_boardCfg nvm_boardWrites nvm_topo nvm_topoWrites nvm_certs
    nvm_wipePending nvm_everTest nvm_stkDown nvm_rtdType nvm_pmdCr4 x_pwrGood x_perstN x_thermTripN
    x_alertN x_smbusUp x_ifLevel x_nodeId x_resetting x_lampWasLit x_warmHeld x_pastDeadline
    x_internalCause x_fwFallback x_host x_windows x_lamp x_trees x_study x_dumbs x_streams x_nextSid
    mem_owners mem_badPages mem_stacksIn mem_stkUp mem_derate mem_flags mem_deliv mem_c0cap mem_ceCnt
    mem_ueCnt mem_larCe mem_larUe mem_poisCnt mem_elogAddr mem_elogCtx mem_elogLatch mem_swctrl
    mem_swCel mem_swLar mem_swLatch mem_swPass mem_rowCe mem_resvs mem_resvSeq mem_init x_xlate
    corr_gActive corr_flags corr_cspeed corr_carb corr_opRes corr_seqPtr corr_arb corr_ptr corr_freeze
    corr_captured corr_audFail corr_audCap x_thermo x_ctxs x_queues x_ops x_shares x_mboxes x_umboxes
    x_lastMbox x_evSeq x_evRing x_bellClock x_link x_power x_thresh}
    (h : Kept q f T s) : Kept q f T (State.mk
      s.pending x_out x_freeIx s.fuses (Nvm.mk nvm_floorA nvm_floorB nvm_cellCal nvm_recOk nvm_pwrUp
      nvm_park nvm_heaterVals nvm_auxVals nvm_auxWrites nvm_bankA nvm_bankB nvm_bank nvm_pend
      nvm_switchDue nvm_activated nvm_fwFails nvm_fwAct nvm_fuseTodo s.nvm.frec nvm_frecSum
      nvm_frecStored nvm_frecOvf nvm_retRows nvm_retPages nvm_rowUe nvm_rowsOver nvm_boardCfg
      nvm_boardWrites nvm_topo nvm_topoWrites nvm_certs nvm_wipePending nvm_everTest nvm_stkDown
      nvm_rtdType nvm_pmdCr4) x_pwrGood x_perstN x_thermTripN x_alertN x_smbusUp x_ifLevel x_nodeId
      x_resetting x_lampWasLit x_warmHeld x_pastDeadline x_internalCause x_fwFallback x_host x_windows
      x_lamp s.pantries x_trees x_study x_dumbs x_streams x_nextSid (Mem.mk s.mem.data s.mem.poison
      mem_owners mem_badPages mem_stacksIn mem_stkUp mem_derate mem_flags mem_deliv mem_c0cap mem_ceCnt
      mem_ueCnt mem_larCe mem_larUe mem_poisCnt mem_elogAddr mem_elogCtx mem_elogLatch mem_swctrl
      mem_swCel mem_swLar mem_swLatch mem_swPass s.mem.scrubC s.mem.scrubL mem_rowCe mem_resvs
      mem_resvSeq mem_init) x_xlate (Corridor.mk corr_gActive corr_flags corr_cspeed corr_carb
      corr_opRes corr_seqPtr corr_arb corr_ptr corr_freeze corr_captured corr_audFail corr_audCap
      s.corr.aud) x_thermo x_ctxs x_queues x_ops x_shares x_mboxes x_umboxes x_lastMbox s.events x_evSeq
      x_evRing x_bellClock x_link x_power x_thresh) :=
  ⟨h.pend, h.fuse, fun t => let k := h.tidy t; ⟨k.mem, k.srams, k.poison, k.scrubC, k.scrubL, k.events, k.frec, k.aud, k.svn, k.testCnt⟩⟩


theorem Kept.fst {q : List Instr} {f : Fuses} {T : Prop} {α : Type} {s : State} {a : α} {r : State × α} (e : r = (s, a))
    (h : Kept q f T r.1) : Kept q f T s := by rw [e] at h; exact h
theorem Kept.snd {q : List Instr} {f : Fuses} {T : Prop} {α : Type} {s : State} {a : α} {r : α × State} (e : r = (a, s))
    (h : Kept q f T r.2) : Kept q f T s := by rw [e] at h; exact h
theorem Kept.foldl {q : List Instr} {f : Fuses} {T : Prop} {α : Type} {g : State → α → State}
    (hg : ∀ s a, Kept q f T s → Kept q f T (g s a)) : ∀ (l : List α) {s : State}, Kept q f T s → Kept q f T (l.foldl g s)
  | [], _, h => h
  | a :: l, _, h => Kept.foldl hg l (hg _ a h)
theorem Kept.foldl1 {q : List Instr} {f : Fuses} {T : Prop} {α β : Type} {g : State × β → α → State × β}
    (hg : ∀ s a, Kept q f T s.1 → Kept q f T (g s a).1) : ∀ (l : List α) {s : State × β}, Kept q f T s.1 → Kept q f T (l.foldl g s).1
  | [], _, h => h
  | a :: l, _, h => Kept.foldl1 hg l (hg _ a h)
theorem Kept.ite {q : List Instr} {f : Fuses} {T : Prop} {c : Prop} [Decidable c] {a b : State} (ha : Kept q f T a)
    (hb : Kept q f T b) : Kept q f T (if c then a else b) := by split <;> assumption
end Sys2Proof.Machine
end

