-- ==== Sys2Proof/Laws/Memory.lean ====
section
/-!
SUPPORT. Memory: every operation keeps the canonical form; a byte read after a write.
-/
namespace Sys2Proof.Machine
open Sys2Proof

/-- A canonical list stays canonical below a lower bound. -/
theorem wfFrom_none : ∀ {l : Option Nat} {cs : List Host.Cell}, Memory.wfFrom l cs = true → Memory.wfFrom none cs = true
  | _, [], _ => rfl
  | _, (_, _) :: _, h => by simp only [Memory.wfFrom, Bool.and_eq_true] at h ⊢; exact ⟨⟨trivial, h.1.2⟩, h.2⟩

theorem cellsPut_wfFrom (a : Nat) (b : Byte) : ∀ (lo : Option Nat) (cs : List Host.Cell),
    (∀ l, lo = some l → l < a) → Memory.wfFrom lo cs = true → Memory.wfFrom lo (cellsPut cs a b) = true := by
  intro lo cs
  induction cs generalizing lo with
  | nil =>
    intro hlo _
    unfold cellsPut
    split
    · rfl
    · rename_i hb
      cases lo <;> simp_all [Memory.wfFrom]
  | cons c t ih =>
    obtain ⟨k, v⟩ := c
    intro hlo h
    simp only [Memory.wfFrom, Bool.and_eq_true, decide_eq_true_eq] at h
    unfold cellsPut
    split
    · rename_i hk
      split
      · simp only [Memory.wfFrom, Bool.and_eq_true, decide_eq_true_eq]; exact h
      · rename_i hb
        simp only [Memory.wfFrom, Bool.and_eq_true, decide_eq_true_eq]
        refine ⟨⟨?_, hb⟩, ⟨hk, h.1.2⟩, h.2⟩
        cases lo <;> simp_all
    · split
      · rename_i hk
        subst hk
        split
        · have := h.2
          cases t with
          | nil => cases lo <;> rfl
          | cons d t =>
            obtain ⟨k2, v2⟩ := d
            simp only [Memory.wfFrom, Bool.and_eq_true, decide_eq_true_eq] at this ⊢
            refine ⟨⟨?_, this.1.2⟩, this.2⟩
            cases lo with
            | none => rfl
            | some l => have h1 := hlo l rfl; have h2 := this.1.1; simp at h2 ⊢; omega
        · rename_i hb
          simp only [Memory.wfFrom, Bool.and_eq_true, decide_eq_true_eq]
          exact ⟨⟨by cases lo <;> simp_all, hb⟩, h.2⟩
      · rename_i h1 h2
        simp only [Memory.wfFrom, Bool.and_eq_true, decide_eq_true_eq]
        refine ⟨h.1, ih (some k) (fun l e => ?_) h.2⟩
        cases e; omega

theorem wfFrom_filter (p : Host.Cell → Bool) : ∀ (cs : List Host.Cell) (lo : Option Nat),
    Memory.wfFrom lo cs = true → Memory.wfFrom lo (cs.filter p) = true := by
  intro cs
  induction cs with
  | nil => intro lo h; exact h
  | cons c t ih =>
    obtain ⟨k, v⟩ := c
    intro lo h
    simp only [Memory.wfFrom, Bool.and_eq_true, decide_eq_true_eq] at h
    simp only [List.filter_cons]
    split
    · simp only [Memory.wfFrom, Bool.and_eq_true, decide_eq_true_eq]; exact ⟨h.1, ih _ h.2⟩
    · have := ih _ h.2
      cases hf : t.filter p with
      | nil => cases lo <;> rfl
      | cons d u =>
        obtain ⟨k2, v2⟩ := d
        rw [hf] at this
        simp only [Memory.wfFrom, Bool.and_eq_true, decide_eq_true_eq] at this ⊢
        refine ⟨⟨?_, this.1.2⟩, this.2⟩
        cases lo with
        | none => rfl
        | some l => have a := h.1.1; have b := this.1.1; simp at a b ⊢; omega

theorem Memory.put_wf {m : Memory} (h : m.wf = true) (a : Nat) (b : Byte) : (m.put a b).wf = true :=
  cellsPut_wfFrom a b none m.cells (by simp) h
theorem Memory.write_wf : ∀ (bs : List Byte) {m : Memory} (_ : m.wf = true) (a : Nat), (m.write a bs).wf = true
  | [], _, h, _ => h
  | b :: t, _, h, a => Memory.write_wf t (Memory.put_wf h a b) (a + 1)
theorem Memory.clear_wf {m : Memory} (h : m.wf = true) (a n : Nat) : (m.clear a n).wf = true := wfFrom_filter _ _ _ h
theorem Memory.empty_wf : Memory.wf ⟨[]⟩ = true := rfl
theorem putCells_wf {m : Memory} (h : m.wf = true) (lo : Nat) (x : Memory) : (putCells m lo x).wf = true := by
  unfold putCells
  generalize x.cells = cs
  induction cs generalizing m with
  | nil => exact h
  | cons c t ih => exact ih (Memory.put_wf h _ _)

theorem cellsGet_put (a : Nat) (b : Byte) (x : Nat) : ∀ (lo : Option Nat) (cs : List Host.Cell),
    Memory.wfFrom lo cs = true → cellsGet (cellsPut cs a b) x = if x = a then b else cellsGet cs x := by
  intro lo cs
  induction cs generalizing lo with
  | nil =>
    intro _
    unfold cellsPut
    split
    · simp_all [cellsGet]
    · simp only [cellsGet]; (repeat' split) <;> first | rfl | omega
  | cons c t ih =>
    obtain ⟨k, v⟩ := c
    intro h
    simp only [Memory.wfFrom, Bool.and_eq_true, decide_eq_true_eq] at h
    have tl : ∀ y, y ≤ k → cellsGet t y = 0 := by
      intro y hy
      cases t with
      | nil => rfl
      | cons d u =>
        obtain ⟨k2, v2⟩ := d
        have := h.2
        simp only [Memory.wfFrom, Bool.and_eq_true, decide_eq_true_eq] at this
        simp only [cellsGet]
        (repeat' split) <;> first | rfl | omega
    unfold cellsPut
    split
    · split
      · simp only [cellsGet]; (repeat' split) <;> first | rfl | omega | simp_all
      · simp only [cellsGet]; (repeat' split) <;> first | rfl | omega | simp_all
    · split
      · split
        · simp only [cellsGet]; (repeat' split) <;> first | rfl | omega | (simp_all; done) | exact tl x (by omega)
        · simp only [cellsGet]; (repeat' split) <;> first | rfl | omega | (simp_all; done) 
      · have := ih _ h.2
        simp only [cellsGet, this]; (repeat' split) <;> first | rfl | omega
theorem Memory.get_put {m : Memory} (h : m.wf = true) (a : Nat) (b : Byte) (x : Nat) :
    (m.put a b).get x = if x = a then b else m.get x := cellsGet_put a b x none m.cells h
/-- A write leaves every other byte alone. -/
theorem Memory.get_write_other : ∀ (bs : List Byte) {m : Memory} (_ : m.wf = true) (a x : Nat),
    (x < a ∨ a + bs.length ≤ x) → (m.write a bs).get x = m.get x
  | [], _, _, _, _, _ => rfl
  | b :: t, m, h, a, x, hx => by
    simp only [List.length_cons] at hx
    have := Memory.get_write_other t (Memory.put_wf h a b) (a + 1) x (by omega)
    rw [Memory.write, this, Memory.get_put h, if_neg (by omega)]
/-- A write stores its bytes. -/
theorem Memory.get_write : ∀ (bs : List Byte) {m : Memory} (_ : m.wf = true) (a i : Nat), i < bs.length →
    (m.write a bs).get (a + i) = bs.getD i 0
  | b :: t, m, h, a, i, hi => by
    cases i with
    | zero =>
      have := Memory.get_write_other t (Memory.put_wf h a b) (a + 1) a (by omega)
      simp only [Memory.write, Nat.add_zero, this, Memory.get_put h, List.getD_cons_zero]; simp
    | succ n =>
      simp only [List.length_cons] at hi
      have := Memory.get_write t (Memory.put_wf h a b) (a + 1) n (by omega)
      rw [Memory.write, show a + (n + 1) = a + 1 + n by omega, this, List.getD_cons_succ]

end Sys2Proof.Machine
end

