-- ==== Sys2Proof/Laws/KeptOps.lean ====
section
/-!
SUPPORT. What the operations of Machine/Ops.lean and Machine/Reach.lean keep.
-/

namespace Sys2Proof.Machine

open Sys2Proof

theorem kept_modWin {q₀ : List Instr} {f₀ : Fuses} {T₀ : Prop} {s : State} {w : Nat} {f : Window → Window}
    (h_s : Kept q₀ f₀ T₀ s) : Kept q₀ f₀ T₀ (modWin s w f) := by
  unfold modWin
  repeat' first
    | (with_reducible apply Kept.upd; with_reducible assumption)

theorem kept_modPantry {q₀ : List Instr} {f₀ : Fuses} {T₀ : Prop} {s : State} {p : Nat} {f : Pantry → Pantry}
    (h : Kept q₀ f₀ T₀ s) (hf : ∀ x, x.sram.wf = true → (f x).sram.wf = true) : Kept q₀ f₀ T₀ (modPantry s p f) :=
  ⟨h.pend, h.fuse, fun t => let k := h.tidy t; { k with srams := bankMod_all (P := fun x : Pantry => x.sram.wf = true) (b := s.pantries) (d := Pantry.reset) k.srams rfl hf }⟩

theorem kept_modDumb {q₀ : List Instr} {f₀ : Fuses} {T₀ : Prop} {s : State} {d : Nat} {f : Dumb → Dumb}
    (h_s : Kept q₀ f₀ T₀ s) : Kept q₀ f₀ T₀ (modDumb s d f) := by
  unfold modDumb
  repeat' first
    | (with_reducible apply Kept.upd; with_reducible assumption)

theorem kept_modCtx {q₀ : List Instr} {f₀ : Fuses} {T₀ : Prop} {s : State} {n : Nat} {f : Context → Context}
    (h_s : Kept q₀ f₀ T₀ s) : Kept q₀ f₀ T₀ (modCtx s n f) := by
  unfold modCtx
  repeat' first
    | (with_reducible apply Kept.upd; with_reducible assumption)
    | split

theorem kept_modQueue {q₀ : List Instr} {f₀ : Fuses} {T₀ : Prop} {s : State} {q : Nat} {f : Queue → Queue}
    (h_s : Kept q₀ f₀ T₀ s) : Kept q₀ f₀ T₀ (modQueue s q f) := by
  unfold modQueue
  repeat' first
    | (with_reducible apply Kept.upd; with_reducible assumption)
    | split

theorem kept_modOp {q₀ : List Instr} {f₀ : Fuses} {T₀ : Prop} {s : State} {id : OpId} {f : Op → Op}
    (h_s : Kept q₀ f₀ T₀ s) : Kept q₀ f₀ T₀ (modOp s id f) := by
  unfold modOp
  repeat' first
    | (with_reducible apply Kept.upd; with_reducible assumption)

theorem kept_modStream {q₀ : List Instr} {f₀ : Fuses} {T₀ : Prop} {s : State} {sid : Nat} {f : Stream → Stream}
    (h_s : Kept q₀ f₀ T₀ s) : Kept q₀ f₀ T₀ (modStream s sid f) := by
  unfold modStream
  repeat' first
    | (with_reducible apply Kept.upd; with_reducible assumption)
    | split

theorem kept_emit {q₀ : List Instr} {f₀ : Fuses} {T₀ : Prop} {s : State} {o : Out}
    (h_s : Kept q₀ f₀ T₀ s) : Kept q₀ f₀ T₀ (emit s o) := by
  unfold emit
  repeat' first
    | (with_reducible apply Kept.upd; with_reducible assumption)

theorem kept_freshNat {q₀ : List Instr} {f₀ : Fuses} {T₀ : Prop} {s : State}
    (h_s : Kept q₀ f₀ T₀ s) : Kept q₀ f₀ T₀ (freshNat s).2 := by
  unfold freshNat
  repeat' first
    | (with_reducible apply Kept.upd; with_reducible assumption)

theorem kept_modMsix {q₀ : List Instr} {f₀ : Fuses} {T₀ : Prop} {s : State} {v : Nat} {f : Msix → Msix}
    (h_s : Kept q₀ f₀ T₀ s) : Kept q₀ f₀ T₀ (modMsix s v f) := by
  unfold modMsix
  repeat' first
    | (with_reducible apply Kept.upd; with_reducible assumption)

theorem kept_raiseVec {q₀ : List Instr} {f₀ : Fuses} {T₀ : Prop} {s : State} {v : Nat}
    (h_s : Kept q₀ f₀ T₀ s) : Kept q₀ f₀ T₀ (raiseVec s v) := by
  unfold raiseVec
  repeat' first
    | (with_reducible apply Kept.upd; first | with_reducible assumption | with_reducible apply kept_emit | with_reducible apply kept_modMsix)
    | split
    | dsimp only

theorem kept_writeEvent {q₀ : List Instr} {f₀ : Fuses} {T₀ : Prop} {s : State} {r : EventRing} {e : Event}
    (h_s : Kept q₀ f₀ T₀ s) : Kept q₀ f₀ T₀ (writeEvent s r e) := by
  unfold writeEvent
  repeat' first
    | (with_reducible apply Kept.upd; first | with_reducible assumption | with_reducible apply kept_emit | with_reducible apply kept_raiseVec)

theorem kept_raiseEvent3 {q₀ : List Instr} {f₀ : Fuses} {T₀ : Prop} {s : State} {type ctx a0 a1 a2 : Nat} (h : Kept q₀ f₀ T₀ s) :
    Kept q₀ f₀ T₀ (raiseEvent3 s type ctx a0 a1 a2) := by
  unfold raiseEvent3
  dsimp only
  split
  · with_reducible apply kept_writeEvent; with_reducible apply Kept.upd; exact h
  · split
    · refine ⟨h.pend, h.fuse, fun t => ?_⟩
      have k := h.tidy t
      exact { k with events := by simp only [List.length_append, List.length_singleton]; omega }
    · with_reducible apply Kept.upd; exact h

theorem kept_raiseEvent {q₀ : List Instr} {f₀ : Fuses} {T₀ : Prop} {s : State} {type : Nat} {ctx : Nat} {a0 : Nat} {a1 : Nat}
    (h_s : Kept q₀ f₀ T₀ s) : Kept q₀ f₀ T₀ (raiseEvent s type ctx a0 a1) := by
  unfold raiseEvent
  repeat' first
    | (with_reducible apply Kept.upd; first | with_reducible assumption | with_reducible apply kept_raiseEvent3)

theorem kept_capacity {q₀ : List Instr} {f₀ : Fuses} {T₀ : Prop} {s : State} {kind : Nat} {index : Nat} {inService : Bool}
    (h_s : Kept q₀ f₀ T₀ s) : Kept q₀ f₀ T₀ (capacity s kind index inService) := by
  unfold capacity
  repeat' first
    | (with_reducible apply Kept.upd; first | with_reducible assumption | with_reducible apply kept_raiseEvent)

theorem kept_aer {q₀ : List Instr} {f₀ : Fuses} {T₀ : Prop} {s : State} {e : AerErr} {t : Option Tlp}
    (h_s : Kept q₀ f₀ T₀ s) : Kept q₀ f₀ T₀ (aer s e t) := by
  unfold aer
  repeat' first
    | (with_reducible apply Kept.upd; first | with_reducible assumption | with_reducible apply kept_emit)

theorem kept_hostWrites {q₀ : List Instr} {f₀ : Fuses} {T₀ : Prop} {y0 : Nat} {y1 : Nat} {y2 : Nat} {y3 : List Byte} {y4 : State}
    (h_y4 : Kept q₀ f₀ T₀ y4) : Kept q₀ f₀ T₀ (hostWrites y0 y1 y2 y3 y4) := by
  unfold hostWrites
  repeat' first
    | (with_reducible apply Kept.upd; first | with_reducible assumption | with_reducible apply kept_emit | with_reducible apply kept_hostWrites)
    | split

theorem kept_putHost {q₀ : List Instr} {f₀ : Fuses} {T₀ : Prop} {s : State} {a : Nat} {bs : List Byte}
    (h_s : Kept q₀ f₀ T₀ s) : Kept q₀ f₀ T₀ (putHost s a bs) := by
  unfold putHost
  repeat' first
    | (with_reducible apply Kept.upd; first | with_reducible assumption | with_reducible apply kept_hostWrites)

theorem kept_setAlert {q₀ : List Instr} {f₀ : Fuses} {T₀ : Prop} {s : State}
    (h_s : Kept q₀ f₀ T₀ s) : Kept q₀ f₀ T₀ (setAlert s) := by
  unfold setAlert
  repeat' first
    | (with_reducible apply Kept.upd; first | with_reducible assumption | with_reducible apply kept_emit)
    | split
    | dsimp only

theorem kept_addFrec {q₀ : List Instr} {f₀ : Fuses} {T₀ : Prop} {s : State} {kind unit index cause paddr ctx : Nat} (h : Kept q₀ f₀ T₀ s) :
    Kept q₀ f₀ T₀ (addFrec s kind unit index cause paddr ctx) := by
  unfold addFrec
  repeat' split
  · exact ⟨h.pend, h.fuse, fun t => let k := h.tidy t; { k with frec := by simp_all <;> omega }⟩
  · exact ⟨h.pend, h.fuse, fun t => let k := h.tidy t; { k with frec := by have := k.frec; have := dropOldest_length ‹_›; simp; omega }⟩
  · with_reducible apply kept_raiseEvent; with_reducible apply Kept.upd; exact h

theorem kept_audTake {q₀ : List Instr} {f₀ : Fuses} {T₀ : Prop} {s : State} {q n : Nat} (h : Kept q₀ f₀ T₀ s) : Kept q₀ f₀ T₀ (audTake s q n) := by
  refine ⟨h.pend, h.fuse, fun t => ?_⟩
  have k := h.tidy t
  refine { k with aud := ?_ }
  have hf : ∀ x : Aud, x.level = x.take - x.give → x.level + BitVec.ofNat 32 n = x.take + BitVec.ofNat 32 n - x.give := by intro x hx; rw [hx]; bv_omega
  exact bankMod_all (P := fun x : Aud => x.level = x.take - x.give) (b := s.corr.aud) (d := ⟨0, 0, 0⟩)
    (f := fun a => { a with take := a.take + BitVec.ofNat 32 n, level := a.level + BitVec.ofNat 32 n }) k.aud rfl hf

theorem kept_audGive {q₀ : List Instr} {f₀ : Fuses} {T₀ : Prop} {s : State} {q n : Nat} (h : Kept q₀ f₀ T₀ s) : Kept q₀ f₀ T₀ (audGive s q n) := by
  refine ⟨h.pend, h.fuse, fun t => ?_⟩
  have k := h.tidy t
  refine { k with aud := ?_ }
  have hf : ∀ x : Aud, x.level = x.take - x.give → x.level - BitVec.ofNat 32 n = x.take - (x.give + BitVec.ofNat 32 n) := by intro x hx; rw [hx]; bv_omega
  exact bankMod_all (P := fun x : Aud => x.level = x.take - x.give) (b := s.corr.aud) (d := ⟨0, 0, 0⟩)
    (f := fun a => { a with give := a.give + BitVec.ofNat 32 n, level := a.level - BitVec.ofNat 32 n }) k.aud rfl hf

theorem kept_audPass {q₀ : List Instr} {f₀ : Fuses} {T₀ : Prop} {s : State} {q : Nat} {n : Nat}
    (h_s : Kept q₀ f₀ T₀ s) : Kept q₀ f₀ T₀ (audPass s q n) := by
  unfold audPass
  repeat' first
    | (with_reducible apply Kept.upd; first | with_reducible assumption | with_reducible apply kept_audTake | with_reducible apply kept_audGive)

theorem kept_arbCount {q₀ : List Instr} {f₀ : Fuses} {T₀ : Prop} {s : State} {place : Nat} {cls : Nat} {waits : Nat → Bool} {left : Nat → Bool}
    (h_s : Kept q₀ f₀ T₀ s) : Kept q₀ f₀ T₀ (arbCount s place cls waits left) := by
  unfold arbCount
  repeat' first
    | (with_reducible apply Kept.upd; with_reducible assumption)

theorem kept_arbTake {q₀ : List Instr} {f₀ : Fuses} {T₀ : Prop} {s : State} {place : Nat} {n : Nat} {cls : Nat} {idx : Nat} {others : List (Nat × Nat)} {left : List (Nat × Nat)}
    (h_s : Kept q₀ f₀ T₀ s) : Kept q₀ f₀ T₀ (arbTake s place n cls idx others left) := by
  unfold arbTake
  repeat' first
    | (with_reducible apply Kept.upd; first | with_reducible assumption | with_reducible apply kept_arbCount)

theorem kept_checkGuarantee {q₀ : List Instr} {f₀ : Fuses} {T₀ : Prop} {s : State}
    (h_s : Kept q₀ f₀ T₀ s) : Kept q₀ f₀ T₀ (checkGuarantee s) := by
  unfold checkGuarantee
  repeat' first
    | (with_reducible apply Kept.upd; first | with_reducible assumption | with_reducible apply kept_raiseEvent)
    | split

theorem kept_dropResv {q₀ : List Instr} {f₀ : Fuses} {T₀ : Prop} {s : State} {ctx : Nat} {cls : Nat}
    (h_s : Kept q₀ f₀ T₀ s) : Kept q₀ f₀ T₀ (dropResv s ctx cls) := by
  unfold dropResv
  repeat' first
    | (with_reducible apply Kept.upd; first | with_reducible assumption | with_reducible apply kept_audGive)

theorem kept_dropResvs {q₀ : List Instr} {f₀ : Fuses} {T₀ : Prop} {s : State} {ctx : Nat} (h : Kept q₀ f₀ T₀ s) : Kept q₀ f₀ T₀ (dropResvs s ctx) :=
  kept_checkGuarantee (Kept.foldl (fun _ _ hs => kept_dropResv hs) _ h)

theorem kept_revokeGo {q₀ : List Instr} {f₀ : Fuses} {T₀ : Prop} {y0 : Nat} {y1 : State}
    (h_y1 : Kept q₀ f₀ T₀ y1) : Kept q₀ f₀ T₀ (revokeGo y0 y1) := by
  unfold revokeGo
  repeat' first
    | (with_reducible apply Kept.upd; first | with_reducible assumption | with_reducible apply kept_raiseEvent | with_reducible apply kept_dropResv | with_reducible apply kept_revokeGo)
    | split

theorem kept_recomputeDeliv {q₀ : List Instr} {f₀ : Fuses} {T₀ : Prop} {s : State}
    (h_s : Kept q₀ f₀ T₀ s) : Kept q₀ f₀ T₀ (recomputeDeliv s) := by
  unfold recomputeDeliv
  repeat' first
    | (with_reducible apply Kept.upd; first | with_reducible assumption | with_reducible apply kept_raiseEvent | with_reducible apply kept_checkGuarantee | with_reducible apply kept_revokeGo)
    | split
    | dsimp only

theorem kept_retirePage {q₀ : List Instr} {f₀ : Fuses} {T₀ : Prop} {s : State} {page : Nat}
    (h_s : Kept q₀ f₀ T₀ s) : Kept q₀ f₀ T₀ (retirePage s page) := by
  unfold retirePage
  repeat' first
    | (with_reducible apply Kept.upd; with_reducible assumption)
    | split

theorem kept_poisonedPage {q₀ : List Instr} {f₀ : Fuses} {T₀ : Prop} {s : State} {pa : Nat}
    (h_s : Kept q₀ f₀ T₀ s) : Kept q₀ f₀ T₀ (poisonedPage s pa) := by
  unfold poisonedPage
  repeat' first
    | (with_reducible apply Kept.upd; first | with_reducible assumption | with_reducible apply kept_retirePage)
    | split

theorem kept_freePage {q₀ : List Instr} {f₀ : Fuses} {T₀ : Prop} {s : State} {page : Nat}
    (h_s : Kept q₀ f₀ T₀ s) : Kept q₀ f₀ T₀ (freePage s page) := by
  unfold freePage
  repeat' first
    | (with_reducible apply Kept.upd; first | with_reducible assumption | with_reducible apply kept_retirePage)
    | split
    | dsimp only

theorem kept_elog {q₀ : List Instr} {f₀ : Fuses} {T₀ : Prop} {s : State} {pa : Nat} {ctx : Option Nat} {src : Finder}
    (h_s : Kept q₀ f₀ T₀ s) : Kept q₀ f₀ T₀ (elog s pa ctx src) := by
  unfold elog
  repeat' first
    | (with_reducible apply Kept.upd; with_reducible assumption)

theorem kept_countUe {q₀ : List Instr} {f₀ : Fuses} {T₀ : Prop} {s : State} {pa : Nat}
    (h_s : Kept q₀ f₀ T₀ s) : Kept q₀ f₀ T₀ (countUe s pa) := by
  unfold countUe
  repeat' first
    | (with_reducible apply Kept.upd; with_reducible assumption)

theorem kept_countCe {q₀ : List Instr} {f₀ : Fuses} {T₀ : Prop} {s : State} {pa : Nat}
    (h_s : Kept q₀ f₀ T₀ s) : Kept q₀ f₀ T₀ (countCe s pa) := by
  unfold countCe
  repeat' first
    | (with_reducible apply Kept.upd; with_reducible assumption)

theorem kept_queueScrub {q₀ : List Instr} {f₀ : Fuses} {T₀ : Prop} {s : State} {g : Nat} (h : Kept q₀ f₀ T₀ s) : Kept q₀ f₀ T₀ (queueScrub s g) := by
  unfold queueScrub
  repeat' split
  · exact h
  · exact ⟨h.pend, h.fuse, fun t => let k := h.tidy t; { k with scrubL := by simp_all <;> omega }⟩
  · exact h
  · exact ⟨h.pend, h.fuse, fun t => let k := h.tidy t; { k with scrubC := by simp_all <;> omega }⟩

theorem kept_setPoison {q₀ : List Instr} {f₀ : Fuses} {T₀ : Prop} {s : State} {g : Nat} (h : Kept q₀ f₀ T₀ s) : Kept q₀ f₀ T₀ (setPoison s g) := by
  unfold setPoison
  split
  · exact h
  · rename_i hg
    refine ⟨h.pend, h.fuse, fun t => ?_⟩
    have k := h.tidy t
    refine { k with poison := ?_ }
    rw [List.nodup_append]
    refine ⟨k.poison, by simp, ?_⟩
    intro a ha b hb e
    simp only [List.mem_singleton] at hb
    simp_all

theorem kept_clearPoison {q₀ : List Instr} {f₀ : Fuses} {T₀ : Prop} {s : State} {g : Nat} (h : Kept q₀ f₀ T₀ s) : Kept q₀ f₀ T₀ (clearPoison s g) :=
  ⟨h.pend, h.fuse, fun t => let k := h.tidy t; { k with poison := k.poison.filter _ }⟩

theorem kept_foundUe {q₀ : List Instr} {f₀ : Fuses} {T₀ : Prop} {s : State} {g : Nat} {src : Finder} {who : Option Nat} {event : Bool}
    (h_s : Kept q₀ f₀ T₀ s) : Kept q₀ f₀ T₀ (foundUe s g src who event) := by
  unfold foundUe
  repeat' first
    | (with_reducible apply Kept.upd; first | with_reducible assumption | with_reducible apply kept_raiseEvent | with_reducible apply kept_addFrec | with_reducible apply kept_poisonedPage | with_reducible apply kept_elog | with_reducible apply kept_countUe | with_reducible apply kept_setPoison)
    | split

theorem kept_readGranule {q₀ : List Instr} {f₀ : Fuses} {T₀ : Prop} {s : State} {env : Env} {src : Finder} {who : Option Nat} {g : Nat} (h : Kept q₀ f₀ T₀ s) :
    Kept q₀ f₀ T₀ (readGranule s env src who g).1 := by
  unfold readGranule
  dsimp only
  split
  · exact kept_elog h
  · split
    · exact kept_foundUe h
    · split
      · exact kept_queueScrub (kept_countCe h)
      · exact h

theorem kept_readGranules {q₀ : List Instr} {f₀ : Fuses} {T₀ : Prop} {env : Env} {src : Finder} {who : Option Nat} : ∀ {l : List Nat} {s : State},
    Kept q₀ f₀ T₀ s → Kept q₀ f₀ T₀ (readGranules env src who l s).1
  | [], _, h => h
  | g :: t, s, h => by
    unfold readGranules
    dsimp only
    split
    · exact kept_readGranule h
    · exact kept_readGranules (kept_readGranule h)

theorem kept_readPa {q₀ : List Instr} {f₀ : Fuses} {T₀ : Prop} {s : State} {env : Env} {src : Finder} {who : Option Nat} {pa : Nat} {n : Nat}
    (h_s : Kept q₀ f₀ T₀ s) : Kept q₀ f₀ T₀ (readPa s env src who pa n).1 := by
  unfold readPa
  repeat' first
    | (with_reducible apply Kept.upd; first | with_reducible assumption | with_reducible apply kept_readGranules)

theorem kept_partialGranule {q₀ : List Instr} {f₀ : Fuses} {T₀ : Prop} {s : State} {env : Env} {src : Finder} {g : Nat}
    (h_s : Kept q₀ f₀ T₀ s) : Kept q₀ f₀ T₀ (partialGranule s env src g) := by
  unfold partialGranule
  repeat' first
    | (with_reducible apply Kept.upd; first | with_reducible assumption | with_reducible apply kept_countCe | with_reducible apply kept_foundUe)
    | split

theorem kept_writeGranules {q₀ : List Instr} {f₀ : Fuses} {T₀ : Prop} {env : Env} {src : Finder} {pa : Nat} {n : Nat} {y0 : List Nat} {y1 : State}
    (h_y1 : Kept q₀ f₀ T₀ y1) : Kept q₀ f₀ T₀ (writeGranules env src pa n y0 y1) := by
  unfold writeGranules
  repeat' first
    | (with_reducible apply Kept.upd; first | with_reducible assumption | with_reducible apply kept_clearPoison | with_reducible apply kept_partialGranule | with_reducible apply kept_writeGranules)
    | split

theorem kept_writePa {q₀ : List Instr} {f₀ : Fuses} {T₀ : Prop} {s : State} {env : Env} {src : Finder} {pa : Nat} {bs : List Byte} (h : Kept q₀ f₀ T₀ s) :
    Kept q₀ f₀ T₀ (writePa s env src pa bs) := by
  unfold writePa
  dsimp only
  have h' := kept_writeGranules (env := env) (src := src) (pa := pa) (n := bs.length) (y0 := granulesOf pa bs.length) h
  refine ⟨h'.pend, h'.fuse, fun t => ?_⟩
  have k := h'.tidy t
  exact { k with mem := Memory.write_wf _ k.mem _ }

theorem kept_lookup {q₀ : List Instr} {f₀ : Fuses} {T₀ : Prop} {s : State} {ctx : Nat} {va : Nat}
    (h_s : Kept q₀ f₀ T₀ s) : Kept q₀ f₀ T₀ (lookup s ctx va).1 := by
  unfold lookup
  repeat' first
    | (with_reducible apply Kept.upd; with_reducible assumption)
    | split

theorem kept_translate {q₀ : List Instr} {f₀ : Fuses} {T₀ : Prop} {s : State} {ctx : Nat} {va : Nat} {write : Bool}
    (h_s : Kept q₀ f₀ T₀ s) : Kept q₀ f₀ T₀ (translate s ctx va write).1 := by
  unfold translate
  repeat' first
    | (with_reducible apply Kept.upd; first | with_reducible assumption | with_reducible apply kept_lookup)
    | split

theorem kept_farTimedOut {q₀ : List Instr} {f₀ : Fuses} {T₀ : Prop} {s : State} {node : Nat} {mtype : Nat}
    (h_s : Kept q₀ f₀ T₀ s) : Kept q₀ f₀ T₀ (farTimedOut s node mtype) := by
  unfold farTimedOut
  repeat' first
    | (with_reducible apply Kept.upd; first | with_reducible assumption | with_reducible apply kept_raiseEvent)

theorem kept_hostFail {q₀ : List Instr} {f₀ : Fuses} {T₀ : Prop} {s : State} {st : HostStatus} {tag : Option Nat}
    (h_s : Kept q₀ f₀ T₀ s) : Kept q₀ f₀ T₀ (hostFail s st tag) := by
  unfold hostFail
  repeat' first
    | (with_reducible apply Kept.upd; first | with_reducible assumption | with_reducible apply kept_aer)
    | split

theorem kept_countReqs {q₀ : List Instr} {f₀ : Fuses} {T₀ : Prop} {s : State} {k : Nat}
    (h_s : Kept q₀ f₀ T₀ s) : Kept q₀ f₀ T₀ (countReqs s k) := by
  unfold countReqs
  repeat' first
    | (with_reducible apply Kept.upd; first | with_reducible assumption | with_reducible apply kept_audPass)

theorem kept_spendCls {q₀ : List Instr} {f₀ : Fuses} {T₀ : Prop} {s : State} {ctx : Nat} {cls : Nat} {pa : Nat} {n : Nat}
    (h_s : Kept q₀ f₀ T₀ s) : Kept q₀ f₀ T₀ (spendCls s ctx cls pa n) := by
  unfold spendCls
  repeat' first
    | (with_reducible apply Kept.upd; first | with_reducible assumption | with_reducible apply kept_audGive)
    | split

theorem kept_readPiece {q₀ : List Instr} {f₀ : Fuses} {T₀ : Prop} {s : State} {env : Env} {ctx : Nat} {va : Nat} {n : Nat}
    (h_s : Kept q₀ f₀ T₀ s) : Kept q₀ f₀ T₀ (readPiece s env ctx va n).1 := by
  unfold readPiece
  repeat' first
    | (with_reducible apply Kept.upd; first | with_reducible assumption | with_reducible apply kept_readPa | with_reducible apply kept_translate | with_reducible apply kept_hostFail | with_reducible apply kept_countReqs | (with_reducible apply Kept.fst; assumption))
    | split

theorem kept_readPieces {q₀ : List Instr} {f₀ : Fuses} {T₀ : Prop} {env : Env} {ctx : Nat} {y0 : List (Nat × Nat)} {y1 : State} {y2 : List Byte}
    (h_y1 : Kept q₀ f₀ T₀ y1) : Kept q₀ f₀ T₀ (readPieces env ctx y0 y1 y2).1 := by
  unfold readPieces
  repeat' first
    | (with_reducible apply Kept.upd; first | with_reducible assumption | with_reducible apply kept_readPiece | with_reducible apply kept_readPieces | (with_reducible apply Kept.fst; assumption))
    | split

theorem kept_readVa {q₀ : List Instr} {f₀ : Fuses} {T₀ : Prop} {s : State} {env : Env} {ctx : Nat} {va : Nat} {n : Nat}
    (h_s : Kept q₀ f₀ T₀ s) : Kept q₀ f₀ T₀ (readVa s env ctx va n).1 := by
  unfold readVa
  repeat' first
    | (with_reducible apply Kept.upd; first | with_reducible assumption | with_reducible apply kept_readPieces)

theorem kept_writePiece {q₀ : List Instr} {f₀ : Fuses} {T₀ : Prop} {s : State} {env : Env} {ctx : Nat} {va : Nat} {bs : List Byte}
    (h_s : Kept q₀ f₀ T₀ s) : Kept q₀ f₀ T₀ (writePiece s env ctx va bs).1 := by
  unfold writePiece
  repeat' first
    | (with_reducible apply Kept.upd; first | with_reducible assumption | with_reducible apply kept_putHost | with_reducible apply kept_elog | with_reducible apply kept_writePa | with_reducible apply kept_translate | with_reducible apply kept_countReqs | (with_reducible apply Kept.fst; assumption))
    | split

theorem kept_writePieces {q₀ : List Instr} {f₀ : Fuses} {T₀ : Prop} {env : Env} {ctx : Nat} {y0 : List (Nat × Nat)} {y1 : List Byte} {y2 : State}
    (h_y2 : Kept q₀ f₀ T₀ y2) : Kept q₀ f₀ T₀ (writePieces env ctx y0 y1 y2).1 := by
  unfold writePieces
  repeat' first
    | (with_reducible apply Kept.upd; first | with_reducible assumption | with_reducible apply kept_writePiece | with_reducible apply kept_writePieces | (with_reducible apply Kept.fst; assumption))
    | split

theorem kept_writeVa {q₀ : List Instr} {f₀ : Fuses} {T₀ : Prop} {s : State} {env : Env} {ctx : Nat} {va : Nat} {bs : List Byte}
    (h_s : Kept q₀ f₀ T₀ s) : Kept q₀ f₀ T₀ (writeVa s env ctx va bs).1 := by
  unfold writeVa
  repeat' first
    | (with_reducible apply Kept.upd; first | with_reducible assumption | with_reducible apply kept_writePieces)

theorem kept_spendVa {q₀ : List Instr} {f₀ : Fuses} {T₀ : Prop} {s : State} {o : Op} {va : Nat} {n : Nat}
    (h_s : Kept q₀ f₀ T₀ s) : Kept q₀ f₀ T₀ (spendVa s o va n) := by
  unfold spendVa
  repeat' first
    | intro _
    | (with_reducible apply Kept.upd; first | with_reducible assumption | with_reducible apply kept_spendCls | with_reducible apply Kept.foldl)
    | split

theorem kept_readOp {q₀ : List Instr} {f₀ : Fuses} {T₀ : Prop} {s : State} {env : Env} {o : Op} {va : Nat} {n : Nat}
    (h_s : Kept q₀ f₀ T₀ s) : Kept q₀ f₀ T₀ (readOp s env o va n).1 := by
  unfold readOp
  repeat' first
    | (with_reducible apply Kept.upd; first | with_reducible assumption | with_reducible apply kept_readVa | with_reducible apply kept_spendVa)

theorem kept_writeOp {q₀ : List Instr} {f₀ : Fuses} {T₀ : Prop} {s : State} {env : Env} {o : Op} {va : Nat} {bs : List Byte}
    (h_s : Kept q₀ f₀ T₀ s) : Kept q₀ f₀ T₀ (writeOp s env o va bs).1 := by
  unfold writeOp
  repeat' first
    | (with_reducible apply Kept.upd; first | with_reducible assumption | with_reducible apply kept_writeVa | with_reducible apply kept_spendVa)

theorem kept_dtcFlush {q₀ : List Instr} {f₀ : Fuses} {T₀ : Prop} {s : State} {ctx : Nat} {lo : Nat} {n : Nat}
    (h_s : Kept q₀ f₀ T₀ s) : Kept q₀ f₀ T₀ (dtcFlush s ctx lo n) := by
  unfold dtcFlush
  repeat' first
    | (with_reducible apply Kept.upd; with_reducible assumption)

theorem kept_dtcFlushAll {q₀ : List Instr} {f₀ : Fuses} {T₀ : Prop} {s : State} {ctx : Nat}
    (h_s : Kept q₀ f₀ T₀ s) : Kept q₀ f₀ T₀ (dtcFlushAll s ctx) := by
  unfold dtcFlushAll
  repeat' first
    | (with_reducible apply Kept.upd; first | with_reducible assumption | with_reducible apply kept_dtcFlush)

theorem kept_testFences {q₀ : List Instr} {f₀ : Fuses} {T₀ : Prop} {s : State}
    (h_s : Kept q₀ f₀ T₀ s) : Kept q₀ f₀ T₀ (testFences s) := by
  unfold testFences
  repeat' first
    | (with_reducible apply Kept.upd; first | with_reducible assumption | with_reducible apply kept_audGive)
    | split
    | dsimp only

theorem kept_parkAll {q₀ : List Instr} {f₀ : Fuses} {T₀ : Prop} {s : State}
    (h_s : Kept q₀ f₀ T₀ s) : Kept q₀ f₀ T₀ (parkAll s) := by
  unfold parkAll
  repeat' first
    | (with_reducible apply Kept.upd; with_reducible assumption)

theorem kept_closeTrees {q₀ : List Instr} {f₀ : Fuses} {T₀ : Prop} {s : State} {id : OpId} (h : Kept q₀ f₀ T₀ s) : Kept q₀ f₀ T₀ (closeTrees s id) := by
  unfold closeTrees
  dsimp only
  refine Kept.foldl (fun s t hs => ?_) _ (by with_reducible apply Kept.upd; exact h)
  split
  · apply kept_audGive
    refine kept_modPantry ?_ (fun x hx => Memory.write_wf _ hx _)
    exact kept_freshNat (kept_freshNat (kept_modPantry hs (fun _ hx => hx)))
  · exact hs

theorem kept_freeHeld {q₀ : List Instr} {f₀ : Fuses} {T₀ : Prop} {s : State} {x : Stream}
    (h_s : Kept q₀ f₀ T₀ s) : Kept q₀ f₀ T₀ (freeHeld s x) := by
  unfold freeHeld
  repeat' first
    | (with_reducible apply Kept.upd; first | with_reducible assumption | with_reducible apply kept_audGive)
    | split

theorem kept_dropStreams {q₀ : List Instr} {f₀ : Fuses} {T₀ : Prop} {s : State} {id : OpId} {aborted : Bool}
    (h_s : Kept q₀ f₀ T₀ s) : Kept q₀ f₀ T₀ (dropStreams s id aborted) := by
  unfold dropStreams
  repeat' first
    | intro _
    | (with_reducible apply Kept.upd; first | with_reducible assumption | with_reducible apply kept_modDumb | with_reducible apply kept_audGive | with_reducible apply kept_freeHeld | with_reducible apply Kept.foldl)
    | split

theorem kept_endOp {q₀ : List Instr} {f₀ : Fuses} {T₀ : Prop} {s : State} {id : OpId} {st : Status} {aborted : Bool}
    (h_s : Kept q₀ f₀ T₀ s) : Kept q₀ f₀ T₀ (endOp s id st aborted) := by
  unfold endOp
  repeat' first
    | (with_reducible apply Kept.upd; first | with_reducible assumption | with_reducible apply kept_modOp | with_reducible apply kept_audGive | with_reducible apply kept_closeTrees | with_reducible apply kept_dropStreams)
    | split

theorem kept_endOps {q₀ : List Instr} {f₀ : Fuses} {T₀ : Prop} {st : Status} {aborted : Bool} {ids : List OpId} {s : State}
    (h_s : Kept q₀ f₀ T₀ s) : Kept q₀ f₀ T₀ (endOps st aborted ids s) := by
  unfold endOps
  repeat' first
    | intro _
    | (with_reducible apply Kept.upd; first | with_reducible assumption | with_reducible apply kept_endOp | with_reducible apply Kept.foldl)

theorem kept_releaseSlot {q₀ : List Instr} {f₀ : Fuses} {T₀ : Prop} {s : State} {n : Nat}
    (h_s : Kept q₀ f₀ T₀ s) : Kept q₀ f₀ T₀ (releaseSlot s n) := by
  unfold releaseSlot
  repeat' first
    | (with_reducible apply Kept.upd; first | with_reducible assumption | with_reducible apply kept_modCtx | with_reducible apply kept_dtcFlushAll)

theorem kept_unpinPanes {q₀ : List Instr} {f₀ : Fuses} {T₀ : Prop} {s : State} {n : Nat}
    (h_s : Kept q₀ f₀ T₀ s) : Kept q₀ f₀ T₀ (unpinPanes s n) := by
  unfold unpinPanes
  repeat' first
    | (with_reducible apply Kept.upd; with_reducible assumption)

theorem kept_clearRegion {q₀ : List Instr} {f₀ : Fuses} {T₀ : Prop} {s : State} {n : Nat} (h : Kept q₀ f₀ T₀ s) : Kept q₀ f₀ T₀ (clearRegion s n) := by
  unfold clearRegion
  split
  · exact h
  · refine ⟨h.pend, h.fuse, fun t => let k := h.tidy t; { k with srams := ?_ }⟩
    intro e he
    simp only [List.mem_map] at he
    obtain ⟨x, hx, rfl⟩ := he
    exact Memory.clear_wf (k.srams x hx) _ _

theorem kept_loseCtx3 {q₀ : List Instr} {f₀ : Fuses} {T₀ : Prop} {s : State} {n : Nat} {cause : Nat} {addr : Nat} {node : Nat}
    (h_s : Kept q₀ f₀ T₀ s) : Kept q₀ f₀ T₀ (loseCtx3 s n cause addr node) := by
  unfold loseCtx3
  repeat' first
    | (with_reducible apply Kept.upd; first | with_reducible assumption | with_reducible apply kept_modCtx | with_reducible apply kept_raiseEvent3 | with_reducible apply kept_dropResvs | with_reducible apply kept_endOps | with_reducible apply kept_unpinPanes | with_reducible apply kept_clearRegion)
    | split

theorem kept_loseCtx {q₀ : List Instr} {f₀ : Fuses} {T₀ : Prop} {s : State} {n : Nat} {cause : Nat} {addr : Nat}
    (h_s : Kept q₀ f₀ T₀ s) : Kept q₀ f₀ T₀ (loseCtx s n cause addr) := by
  unfold loseCtx
  repeat' first
    | (with_reducible apply Kept.upd; first | with_reducible assumption | with_reducible apply kept_loseCtx3)

theorem kept_poisonRead {q₀ : List Instr} {f₀ : Fuses} {T₀ : Prop} {s0 : State} {s : State} {n : Nat} {pa : Nat}
    (h_s0 : Kept q₀ f₀ T₀ s0) (h_s : Kept q₀ f₀ T₀ s) : Kept q₀ f₀ T₀ (poisonRead s0 s n pa) := by
  unfold poisonRead
  repeat' first
    | (with_reducible apply Kept.upd; first | with_reducible assumption | with_reducible apply kept_addFrec | with_reducible apply kept_loseCtx)
    | split

theorem kept_farPoisonRead {q₀ : List Instr} {f₀ : Fuses} {T₀ : Prop} {s : State} {n : Nat} {node : Nat} {pa : Nat}
    (h_s : Kept q₀ f₀ T₀ s) : Kept q₀ f₀ T₀ (farPoisonRead s n node pa) := by
  unfold farPoisonRead
  repeat' first
    | (with_reducible apply Kept.upd; first | with_reducible assumption | with_reducible apply kept_addFrec | with_reducible apply kept_loseCtx3)

theorem kept_putLong {q₀ : List Instr} {f₀ : Fuses} {T₀ : Prop} {s : State} {env : Env} {src : Finder} {pa : Nat} {v : Nat}
    (h_s : Kept q₀ f₀ T₀ s) : Kept q₀ f₀ T₀ (putLong s env src pa v) := by
  unfold putLong
  repeat' first
    | (with_reducible apply Kept.upd; first | with_reducible assumption | with_reducible apply kept_writePa | with_reducible apply kept_testFences)

theorem kept_notUp {q₀ : List Instr} {f₀ : Fuses} {T₀ : Prop} {s : State} {t : Tlp} {posted : Bool}
    (h_s : Kept q₀ f₀ T₀ s) : Kept q₀ f₀ T₀ (notUp s t posted) := by
  unfold notUp
  repeat' first
    | (with_reducible apply Kept.upd; first | with_reducible assumption | with_reducible apply kept_emit | with_reducible apply kept_aer)
    | split

end Sys2Proof.Machine
end

