-- ==== Sys2Proof/Laws/KeptMemEcc.lean ====
section
/-!
SUPPORT. What the operations of Machine/MemEcc.lean keep.
-/

namespace Sys2Proof.Machine

open Sys2Proof

theorem kept_sweepNext {q₀ : List Instr} {f₀ : Fuses} {T₀ : Prop} {s : State} {larder : Bool}
    (h_s : Kept q₀ f₀ T₀ s) : Kept q₀ f₀ T₀ (sweepNext s larder) := by
  unfold sweepNext
  repeat' first
    | (with_reducible apply Kept.upd; with_reducible assumption)
    | split

theorem kept_sweepRead {q₀ : List Instr} {f₀ : Fuses} {T₀ : Prop} {s : State} {env : Env} {g : Nat}
    (h_s : Kept q₀ f₀ T₀ s) : Kept q₀ f₀ T₀ (sweepRead s env g) := by
  unfold sweepRead
  repeat' first
    | (with_reducible apply Kept.upd; first | with_reducible assumption | with_reducible apply kept_countCe | with_reducible apply kept_foundUe)
    | split

theorem kept_rowOver {q₀ : List Instr} {f₀ : Fuses} {T₀ : Prop} {s : State} {row : Nat} {page : Nat}
    (h_s : Kept q₀ f₀ T₀ s) : Kept q₀ f₀ T₀ (rowOver s row page) := by
  unfold rowOver
  repeat' first
    | (with_reducible apply Kept.upd; first | with_reducible assumption | with_reducible apply kept_retirePage)
    | split
    | dsimp only

theorem kept_retireRow {q₀ : List Instr} {f₀ : Fuses} {T₀ : Prop} {s : State} {stack : Nat} {pa : Nat}
    (h_s : Kept q₀ f₀ T₀ s) : Kept q₀ f₀ T₀ (retireRow s stack pa) := by
  unfold retireRow
  repeat' first
    | (with_reducible apply Kept.upd; first | with_reducible assumption | with_reducible apply kept_raiseEvent | with_reducible apply kept_addFrec | with_reducible apply kept_rowOver)
    | split

theorem kept_stackDown {q₀ : List Instr} {f₀ : Fuses} {T₀ : Prop} {s : State} {k : Nat}
    (h_s : Kept q₀ f₀ T₀ s) : Kept q₀ f₀ T₀ (stackDown s k) :=
  by
  unfold stackDown
  with_reducible apply kept_recomputeDeliv
  with_reducible apply kept_addFrec
  with_reducible apply kept_capacity
  with_reducible apply kept_raiseEvent
  refine ⟨h_s.pend, h_s.fuse, fun t => ?_⟩
  have k := h_s.tidy t
  exact { k with scrubC := Nat.le_trans (List.length_filter_le _ _) k.scrubC }

theorem kept_auditCheck {q₀ : List Instr} {f₀ : Fuses} {T₀ : Prop} {s : State}
    (h_s : Kept q₀ f₀ T₀ s) : Kept q₀ f₀ T₀ (auditCheck s) := by
  unfold auditCheck
  repeat' first
    | (with_reducible apply Kept.upd; first | with_reducible assumption | with_reducible apply kept_raiseEvent | with_reducible apply kept_addFrec)
    | split
    | dsimp only

theorem kept_phyWords {q₀ : List Instr} {f₀ : Fuses} {T₀ : Prop} {s : State}
    (h_s : Kept q₀ f₀ T₀ s) : Kept q₀ f₀ T₀ (phyWords s) := by
  unfold phyWords
  repeat' first
    | (with_reducible apply Kept.upd; first | with_reducible assumption | with_reducible apply kept_freshNat | with_reducible apply kept_audPass)

theorem kept_freezeCapture {q₀ : List Instr} {f₀ : Fuses} {T₀ : Prop} {s : State}
    (h_s : Kept q₀ f₀ T₀ s) : Kept q₀ f₀ T₀ (freezeCapture s) := by
  unfold freezeCapture
  repeat' first
    | (with_reducible apply Kept.upd; first | with_reducible assumption | with_reducible apply kept_auditCheck | with_reducible apply kept_phyWords)
    | split

theorem kept_freezeRelease {q₀ : List Instr} {f₀ : Fuses} {T₀ : Prop} {s : State}
    (h_s : Kept q₀ f₀ T₀ s) : Kept q₀ f₀ T₀ (freezeRelease s) := by
  unfold freezeRelease
  repeat' first
    | (with_reducible apply Kept.upd; with_reducible assumption)

end Sys2Proof.Machine
end

