-- ==== Sys2Proof/Laws/KeptLink.lean ====
section
/-!
SUPPORT. What the operations of Machine/Link.lean keep.
-/

namespace Sys2Proof.Machine

open Sys2Proof

theorem kept_modDoor {q₀ : List Instr} {f₀ : Fuses} {T₀ : Prop} {s : State} {d : Nat} {f : Door → Door}
    (h_s : Kept q₀ f₀ T₀ s) : Kept q₀ f₀ T₀ (modDoor s d f) := by
  unfold modDoor
  repeat' first
    | (with_reducible apply Kept.upd; with_reducible assumption)

theorem kept_grantCred {q₀ : List Instr} {f₀ : Fuses} {T₀ : Prop} {s : State} {d : Nat} {code : Nat} {n : Nat}
    (h_s : Kept q₀ f₀ T₀ s) : Kept q₀ f₀ T₀ (grantCred s d code n) := by
  unfold grantCred
  repeat' first
    | (with_reducible apply Kept.upd; first | with_reducible assumption | with_reducible apply kept_audTake | with_reducible apply kept_modDoor)

theorem kept_backCred {q₀ : List Instr} {f₀ : Fuses} {T₀ : Prop} {s : State} {d : Nat} {v : Nat} {n : Nat}
    (h_s : Kept q₀ f₀ T₀ s) : Kept q₀ f₀ T₀ (backCred s d v n) := by
  unfold backCred
  repeat' first
    | (with_reducible apply Kept.upd; first | with_reducible assumption | with_reducible apply kept_audGive | with_reducible apply kept_modDoor)

theorem kept_openDoor {q₀ : List Instr} {f₀ : Fuses} {T₀ : Prop} {s : State} {d : Nat}
    (h_s : Kept q₀ f₀ T₀ s) : Kept q₀ f₀ T₀ (openDoor s d) :=
  by
  unfold openDoor
  exact kept_raiseEvent (kept_modDoor (Kept.foldl (fun _ _ h => kept_grantCred h) _ h_s))

theorem kept_tryOpen {q₀ : List Instr} {f₀ : Fuses} {T₀ : Prop} {s : State} {d : Nat}
    (h_s : Kept q₀ f₀ T₀ s) : Kept q₀ f₀ T₀ (tryOpen s d) := by
  unfold tryOpen
  repeat' first
    | (with_reducible apply Kept.upd; first | with_reducible assumption | with_reducible apply kept_raiseEvent3 | with_reducible apply kept_modDoor | with_reducible apply kept_openDoor)
    | split
    | dsimp only

theorem kept_tryOpenAll {q₀ : List Instr} {f₀ : Fuses} {T₀ : Prop} {s : State}
    (h_s : Kept q₀ f₀ T₀ s) : Kept q₀ f₀ T₀ (tryOpenAll s) := by
  unfold tryOpenAll
  repeat' first
    | intro _
    | (with_reducible apply Kept.upd; first | with_reducible assumption | with_reducible apply kept_tryOpen | with_reducible apply Kept.foldl)

theorem kept_countOvr {q₀ : List Instr} {f₀ : Fuses} {T₀ : Prop} {s : State} {dst : Nat}
    (h_s : Kept q₀ f₀ T₀ s) : Kept q₀ f₀ T₀ (countOvr s dst) := by
  unfold countOvr
  repeat' first
    | (with_reducible apply Kept.upd; with_reducible assumption)
    | split

theorem kept_goAlt {q₀ : List Instr} {f₀ : Fuses} {T₀ : Prop} {s : State} {a : Nat} {b : Nat}
    (h_s : Kept q₀ f₀ T₀ s) : Kept q₀ f₀ T₀ (goAlt s a b) := by
  unfold goAlt
  repeat' first
    | (with_reducible apply Kept.upd; first | with_reducible assumption | with_reducible apply kept_raiseEvent | with_reducible apply kept_modDoor)
    | split

theorem kept_routeOf {q₀ : List Instr} {f₀ : Fuses} {T₀ : Prop} {s : State} {dst : Nat} {arrival : Option (Nat × Nat)}
    (h_s : Kept q₀ f₀ T₀ s) : Kept q₀ f₀ T₀ (routeOf s dst arrival).1 := by
  unfold routeOf
  repeat' first
    | (with_reducible apply Kept.upd; first | with_reducible assumption | with_reducible apply kept_countOvr | with_reducible apply kept_goAlt)
    | split
    | dsimp only

theorem kept_enqueue {q₀ : List Instr} {f₀ : Fuses} {T₀ : Prop} {s : State} {d : Nat} {lane : Nat} {m : Msg}
    (h_s : Kept q₀ f₀ T₀ s) : Kept q₀ f₀ T₀ (enqueue s d lane m) := by
  unfold enqueue
  repeat' first
    | (with_reducible apply Kept.upd; first | with_reducible assumption | with_reducible apply kept_modDoor)

theorem kept_deliver {q₀ : List Instr} {f₀ : Fuses} {T₀ : Prop} {s : State} {d : Nat} {code : Nat} {flits : List Nat} {m : Msg}
    (h_s : Kept q₀ f₀ T₀ s) : Kept q₀ f₀ T₀ (deliver s d code flits m) := by
  unfold deliver
  repeat' first
    | (with_reducible apply Kept.upd; with_reducible assumption)

theorem kept_sendMsg {q₀ : List Instr} {f₀ : Fuses} {T₀ : Prop} {s : State} {m : Msg}
    (h_s : Kept q₀ f₀ T₀ s) : Kept q₀ f₀ T₀ (sendMsg s m).1 := by
  unfold sendMsg
  repeat' first
    | (with_reducible apply Kept.upd; first | with_reducible assumption | with_reducible apply kept_modDoor | with_reducible apply kept_routeOf | with_reducible apply kept_enqueue | with_reducible apply kept_deliver | (with_reducible apply Kept.fst; assumption))
    | split

theorem kept_modReq {q₀ : List Instr} {f₀ : Fuses} {T₀ : Prop} {s : State} {tag : Nat} {f : RemReq → RemReq}
    (h_s : Kept q₀ f₀ T₀ s) : Kept q₀ f₀ T₀ (modReq s tag f) := by
  unfold modReq
  repeat' first
    | (with_reducible apply Kept.upd; with_reducible assumption)

theorem kept_dropReq {q₀ : List Instr} {f₀ : Fuses} {T₀ : Prop} {s : State} {tag : Nat}
    (h_s : Kept q₀ f₀ T₀ s) : Kept q₀ f₀ T₀ (dropReq s tag) := by
  unfold dropReq
  repeat' first
    | (with_reducible apply Kept.upd; first | with_reducible assumption | with_reducible apply kept_audGive)

theorem kept_raiseQueueVec {q₀ : List Instr} {f₀ : Fuses} {T₀ : Prop} {s : State} {q : Nat}
    (h_s : Kept q₀ f₀ T₀ s) : Kept q₀ f₀ T₀ (raiseQueueVec s q) := by
  unfold raiseQueueVec
  repeat' first
    | (with_reducible apply Kept.upd; first | with_reducible assumption | with_reducible apply kept_raiseVec)
    | split

theorem kept_dropSignal {q₀ : List Instr} {f₀ : Fuses} {T₀ : Prop} {s : State} {ctx : Nat}
    (h_s : Kept q₀ f₀ T₀ s) : Kept q₀ f₀ T₀ (dropSignal s ctx) := by
  unfold dropSignal
  repeat' first
    | (with_reducible apply Kept.upd; first | with_reducible assumption | with_reducible apply kept_modCtx)

theorem kept_failReq {q₀ : List Instr} {f₀ : Fuses} {T₀ : Prop} {s : State} {tag : Nat}
    (h_s : Kept q₀ f₀ T₀ s) : Kept q₀ f₀ T₀ (failReq s tag) := by
  unfold failReq
  repeat' first
    | (with_reducible apply Kept.upd; first | with_reducible assumption | with_reducible apply kept_raiseEvent | with_reducible apply kept_endOp | with_reducible apply kept_modDoor | with_reducible apply kept_dropReq | with_reducible apply kept_raiseQueueVec | with_reducible apply kept_dropSignal)
    | split
    | dsimp only

theorem kept_sendReq {q₀ : List Instr} {f₀ : Fuses} {T₀ : Prop} {s : State} {tag : Nat} {m : Msg}
    (h_s : Kept q₀ f₀ T₀ s) : Kept q₀ f₀ T₀ (sendReq s tag m) := by
  unfold sendReq
  repeat' first
    | (with_reducible apply Kept.upd; first | with_reducible assumption | with_reducible apply kept_sendMsg | with_reducible apply kept_failReq | (with_reducible apply Kept.fst; assumption))
    | split

theorem kept_failMsg {q₀ : List Instr} {f₀ : Fuses} {T₀ : Prop} {s : State} {m : Msg}
    (h_s : Kept q₀ f₀ T₀ s) : Kept q₀ f₀ T₀ (failMsg s m) := by
  unfold failMsg
  repeat' first
    | (with_reducible apply Kept.upd; first | with_reducible assumption | with_reducible apply kept_failReq)
    | split

theorem kept_sendHeld {q₀ : List Instr} {f₀ : Fuses} {T₀ : Prop} {s : State} {e : Nat × Msg}
    (h_s : Kept q₀ f₀ T₀ s) : Kept q₀ f₀ T₀ (sendHeld s e) := by
  unfold sendHeld
  repeat' first
    | (with_reducible apply Kept.upd; first | with_reducible assumption | with_reducible apply kept_sendMsg | with_reducible apply kept_failMsg | (with_reducible apply Kept.fst; assumption))
    | split

theorem kept_releaseHeld {q₀ : List Instr} {f₀ : Fuses} {T₀ : Prop} {s : State}
    (h_s : Kept q₀ f₀ T₀ s) : Kept q₀ f₀ T₀ (releaseHeld s) := by
  unfold releaseHeld
  repeat' first
    | intro _
    | (with_reducible apply Kept.upd; first | with_reducible assumption | with_reducible apply kept_sendHeld | with_reducible apply Kept.foldl)

theorem kept_newReq {q₀ : List Instr} {f₀ : Fuses} {T₀ : Prop} {s : State} {mt : Nat} {cls : Nat} {atop : Nat} {dst : Nat} {addr : Nat} {len : Nat} {data : List Byte} {owner : RemOwner} {va : Nat} {ctx : Nat}
    (h_s : Kept q₀ f₀ T₀ s) : Kept q₀ f₀ T₀ (newReq s mt cls atop dst addr len data owner va ctx) := by
  unfold newReq
  repeat' first
    | (with_reducible apply Kept.upd; first | with_reducible assumption | with_reducible apply kept_audTake | with_reducible apply kept_sendReq)

theorem kept_arrive {q₀ : List Instr} {f₀ : Fuses} {T₀ : Prop} {d : Nat} {code : Nat} {s : State} {e : List Nat × Msg}
    (h_s : Kept q₀ f₀ T₀ s) : Kept q₀ f₀ T₀ (arrive d code s e) := by
  unfold arrive
  repeat' first
    | (with_reducible apply Kept.upd; first | with_reducible assumption | with_reducible apply kept_routeOf | with_reducible apply kept_enqueue | with_reducible apply kept_deliver | (with_reducible apply Kept.fst; assumption))
    | split

theorem kept_freeFlits {q₀ : List Instr} {f₀ : Fuses} {T₀ : Prop} {s : State} {d : Nat} {code : Nat} {ids : List Nat}
    (h_s : Kept q₀ f₀ T₀ s) : Kept q₀ f₀ T₀ (freeFlits s d code ids) := by
  unfold freeFlits
  repeat' first
    | (with_reducible apply Kept.upd; first | with_reducible assumption | with_reducible apply kept_grantCred)
    | split
    | dsimp only

theorem kept_handOver {q₀ : List Instr} {f₀ : Fuses} {T₀ : Prop} {s : State} {d : Nat} {code : Nat} {f : Flit} {credit : Bool}
    (h_s : Kept q₀ f₀ T₀ s) : Kept q₀ f₀ T₀ (handOver s d code f credit) := by
  unfold handOver
  repeat' first
    | intro _
    | (with_reducible apply Kept.upd; first | with_reducible assumption | with_reducible apply kept_modDoor | with_reducible apply kept_arrive | with_reducible apply kept_freeFlits | with_reducible apply Kept.foldl)

theorem kept_takeAck {q₀ : List Instr} {f₀ : Fuses} {T₀ : Prop} {s : State} {d : Nat} {f : Flit}
    (h_s : Kept q₀ f₀ T₀ s) : Kept q₀ f₀ T₀ (takeAck s d f) := by
  unfold takeAck
  repeat' first
    | intro _
    | (with_reducible apply Kept.upd; first | with_reducible assumption | with_reducible apply kept_modDoor)

theorem kept_doReplay {q₀ : List Instr} {f₀ : Fuses} {T₀ : Prop} {s : State} {d : Nat}
    (h_s : Kept q₀ f₀ T₀ s) : Kept q₀ f₀ T₀ (doReplay s d) := by
  unfold doReplay
  repeat' first
    | intro _
    | (with_reducible apply Kept.upd; first | with_reducible assumption | with_reducible apply kept_emit | with_reducible apply kept_modDoor | with_reducible apply Kept.foldl)
    | split
    | dsimp only

theorem kept_takeLink {q₀ : List Instr} {f₀ : Fuses} {T₀ : Prop} {s : State} {d : Nat} {f : Flit}
    (h_s : Kept q₀ f₀ T₀ s) : Kept q₀ f₀ T₀ (takeLink s d f) := by
  unfold takeLink
  repeat' first
    | (with_reducible apply Kept.upd; first | with_reducible assumption | with_reducible apply kept_modDoor)
    | split

theorem kept_acceptFlit {q₀ : List Instr} {f₀ : Fuses} {T₀ : Prop} {s : State} {d : Nat} {f : Flit}
    (h_s : Kept q₀ f₀ T₀ s) : Kept q₀ f₀ T₀ (acceptFlit s d f) := by
  unfold acceptFlit
  repeat' first
    | (with_reducible apply Kept.upd; first | with_reducible assumption | with_reducible apply kept_modDoor | with_reducible apply kept_backCred | with_reducible apply kept_handOver | with_reducible apply kept_takeAck | with_reducible apply kept_doReplay | with_reducible apply kept_takeLink)
    | split
    | dsimp only

theorem kept_discardFlit {q₀ : List Instr} {f₀ : Fuses} {T₀ : Prop} {s : State} {d : Nat}
    (h_s : Kept q₀ f₀ T₀ s) : Kept q₀ f₀ T₀ (discardFlit s d) := by
  unfold discardFlit
  repeat' first
    | (with_reducible apply Kept.upd; first | with_reducible assumption | with_reducible apply kept_modDoor)

theorem kept_countFec {q₀ : List Instr} {f₀ : Fuses} {T₀ : Prop} {s : State} {d corr unc : Nat}
    (h_s : Kept q₀ f₀ T₀ s) : Kept q₀ f₀ T₀ (countFec s d corr unc) := by
  unfold countFec
  exact kept_modDoor (by with_reducible apply Kept.upd; with_reducible assumption)

theorem kept_fillFlit {q₀ : List Instr} {f₀ : Fuses} {T₀ : Prop} {d : Nat} {code : Nat} {y0 : Nat} {y1 : State} {y2 : Door} {y3 : List Byte} {y4 : Nat} {y5 : List Msg}
    (h_y1 : Kept q₀ f₀ T₀ y1) : Kept q₀ f₀ T₀ (fillFlit d code y0 y1 y2 y3 y4 y5).1 := by
  unfold fillFlit
  repeat' first
    | (with_reducible apply Kept.upd; first | with_reducible assumption | with_reducible apply kept_arbTake | with_reducible apply kept_fillFlit)
    | split
    | dsimp only

theorem kept_sendFlit {q₀ : List Instr} {f₀ : Fuses} {T₀ : Prop} {s : State} {d : Nat} {vc : Nat} {lane : Nat} {null : Bool} {payload : List Byte}
    (h_s : Kept q₀ f₀ T₀ s) : Kept q₀ f₀ T₀ (sendFlit s d vc lane null payload) := by
  unfold sendFlit
  repeat' first
    | intro _
    | (with_reducible apply Kept.upd; first | with_reducible assumption | with_reducible apply kept_emit | with_reducible apply kept_audPass | with_reducible apply kept_modDoor)

theorem kept_sendLink {q₀ : List Instr} {f₀ : Fuses} {T₀ : Prop} {s : State} {d : Nat}
    (h_s : Kept q₀ f₀ T₀ s) : Kept q₀ f₀ T₀ (sendLink s d) := by
  unfold sendLink
  repeat' first
    | (with_reducible apply Kept.upd; first | with_reducible assumption | with_reducible apply kept_modDoor | with_reducible apply kept_sendFlit)

theorem kept_markSent {q₀ : List Instr} {f₀ : Fuses} {T₀ : Prop} {d : Nat} {s : State} {m : Msg}
    (h_s : Kept q₀ f₀ T₀ s) : Kept q₀ f₀ T₀ (markSent d s m) := by
  unfold markSent
  repeat' first
    | (with_reducible apply Kept.upd; first | with_reducible assumption | with_reducible apply kept_modReq)
    | split

theorem kept_sendLane {q₀ : List Instr} {f₀ : Fuses} {T₀ : Prop} {s : State} {d : Nat} {code : Nat} {y : Door}
    (h_s : Kept q₀ f₀ T₀ s) : Kept q₀ f₀ T₀ (sendLane s d code y) := by
  unfold sendLane
  repeat' first
    | intro _
    | (with_reducible apply Kept.upd; first | with_reducible assumption | with_reducible apply kept_modDoor | with_reducible apply kept_fillFlit | with_reducible apply kept_sendFlit | with_reducible apply kept_markSent | with_reducible apply Kept.foldl)
    | split

theorem kept_clearDoor {q₀ : List Instr} {f₀ : Fuses} {T₀ : Prop} {s : State} {d : Nat}
    (h_s : Kept q₀ f₀ T₀ s) : Kept q₀ f₀ T₀ (clearDoor s d) :=
  by
  unfold clearDoor
  have h := Kept.foldl (g := fun s v => backCred s d v (dcLevel (doorOf s d) v).toNat) (fun _ _ h => kept_backCred h) [0, 1, 2] h_s
  exact kept_modDoor (Kept.upd h)

theorem kept_reroute {q₀ : List Instr} {f₀ : Fuses} {T₀ : Prop} {s : State} {m : Msg}
    (h_s : Kept q₀ f₀ T₀ s) : Kept q₀ f₀ T₀ (reroute s m) := by
  unfold reroute
  repeat' first
    | (with_reducible apply Kept.upd; first | with_reducible assumption | with_reducible apply kept_routeOf | with_reducible apply kept_enqueue | with_reducible apply kept_deliver | with_reducible apply kept_failMsg | (with_reducible apply Kept.fst; assumption))
    | split

theorem kept_downDoor {q₀ : List Instr} {f₀ : Fuses} {T₀ : Prop} {s : State} {d : Nat} {cause : Nat}
    (h_s : Kept q₀ f₀ T₀ s) : Kept q₀ f₀ T₀ (downDoor s d cause) := by
  unfold downDoor
  repeat' first
    | intro _
    | (with_reducible apply Kept.upd; first | with_reducible assumption | with_reducible apply kept_raiseEvent | with_reducible apply kept_modDoor | with_reducible apply kept_failReq | with_reducible apply kept_releaseHeld | with_reducible apply kept_clearDoor | with_reducible apply kept_reroute | with_reducible apply Kept.foldl)

theorem kept_takeIn {q₀ : List Instr} {f₀ : Fuses} {T₀ : Prop} {s : State} {e : InMsg}
    (h_s : Kept q₀ f₀ T₀ s) : Kept q₀ f₀ T₀ (takeIn s e).2.2 := by
  unfold takeIn
  repeat' first
    | (with_reducible apply Kept.upd; first | with_reducible assumption | with_reducible apply kept_freeFlits)
    | split

theorem kept_takeMsg {q₀ : List Instr} {f₀ : Fuses} {T₀ : Prop} {s : State} {mt : Nat}
    (h_s : Kept q₀ f₀ T₀ s) : ∀ r, (takeMsg s mt) = some r → Kept q₀ f₀ T₀ r.2.2 := by
  intro r e
  unfold takeMsg at e
  obtain ⟨x, _, rfl⟩ := Option.map_eq_some_iff.1 e
  exact kept_takeIn h_s

theorem kept_answer {q₀ : List Instr} {f₀ : Fuses} {T₀ : Prop} {s : State} {m : Msg} {mt : Nat} {st : Nat} {addr : Nat} {data : List Byte}
    (h_s : Kept q₀ f₀ T₀ s) : Kept q₀ f₀ T₀ (answer s m mt st addr data) := by
  unfold answer
  repeat' first
    | (with_reducible apply Kept.upd; first | with_reducible assumption | with_reducible apply kept_sendMsg)

theorem kept_lateRsp {q₀ : List Instr} {f₀ : Fuses} {T₀ : Prop} {s : State} {d : Nat}
    (h_s : Kept q₀ f₀ T₀ s) : Kept q₀ f₀ T₀ (lateRsp s d) := by
  unfold lateRsp
  repeat' first
    | (with_reducible apply Kept.upd; first | with_reducible assumption | with_reducible apply kept_modDoor)
    | split

end Sys2Proof.Machine
end

