-- ==== Sys2Proof/Laws/KeptRadiator.lean ====
section
/-!
SUPPORT. What the operations of Machine/Radiator.lean keep.
-/

namespace Sys2Proof.Machine

open Sys2Proof

theorem kept_startLoops {q₀ : List Instr} {f₀ : Fuses} {T₀ : Prop} {s : State}
    (h_s : Kept q₀ f₀ T₀ s) : Kept q₀ f₀ T₀ (startLoops s) := by
  unfold startLoops
  repeat' first
    | intro _
    | (with_reducible apply Kept.upd; first | with_reducible assumption | with_reducible apply Kept.foldl)
    | split

theorem kept_checkRamp {q₀ : List Instr} {f₀ : Fuses} {T₀ : Prop} {s : State}
    (h_s : Kept q₀ f₀ T₀ s) : Kept q₀ f₀ T₀ (checkRamp s) := by
  unfold checkRamp
  repeat' first
    | (with_reducible apply Kept.upd; first | with_reducible assumption | with_reducible apply kept_startLoops)
    | split

theorem kept_radTick {q₀ : List Instr} {f₀ : Fuses} {T₀ : Prop} {s : State}
    (h_s : Kept q₀ f₀ T₀ s) : Kept q₀ f₀ T₀ (radTick s) := by
  unfold radTick
  repeat' first
    | (with_reducible apply Kept.upd; first | with_reducible assumption | with_reducible apply kept_checkRamp)

theorem kept_tripHeater {q₀ : List Instr} {f₀ : Fuses} {T₀ : Prop} {s : State} {h : Nat}
    (h_s : Kept q₀ f₀ T₀ s) : Kept q₀ f₀ T₀ (tripHeater s h) := by
  unfold tripHeater
  repeat' first
    | (with_reducible apply Kept.upd; first | with_reducible assumption | with_reducible apply kept_raiseEvent | with_reducible apply kept_addFrec)

theorem kept_writeHeater {q₀ : List Instr} {f₀ : Fuses} {T₀ : Prop} {s : State} {h : Nat} {val : Word} {dropped : Bool}
    (h_s : Kept q₀ f₀ T₀ s) : Kept q₀ f₀ T₀ (writeHeater s h val dropped) := by
  unfold writeHeater
  repeat' first
    | (with_reducible apply Kept.upd; first | with_reducible assumption | with_reducible apply kept_audPass)

theorem kept_writeAux {q₀ : List Instr} {f₀ : Fuses} {T₀ : Prop} {s : State} {a : Nat} {val : Word}
    (h_s : Kept q₀ f₀ T₀ s) : Kept q₀ f₀ T₀ (writeAux s a val) := by
  unfold writeAux
  repeat' first
    | (with_reducible apply Kept.upd; first | with_reducible assumption | with_reducible apply kept_audPass)

theorem kept_writeSlprof {q₀ : List Instr} {f₀ : Fuses} {T₀ : Prop} {s : State} {p : Nat} {val : Word}
    (h_s : Kept q₀ f₀ T₀ s) : Kept q₀ f₀ T₀ (writeSlprof s p val) := by
  unfold writeSlprof
  repeat' first
    | (with_reducible apply Kept.upd; first | with_reducible assumption | with_reducible apply kept_audPass)

theorem kept_writeGen {q₀ : List Instr} {f₀ : Fuses} {T₀ : Prop} {s : State} {off : Nat} {val : Word}
    (h_s : Kept q₀ f₀ T₀ s) : Kept q₀ f₀ T₀ (writeGen s off val) := by
  unfold writeGen
  repeat' first
    | (with_reducible apply Kept.upd; first | with_reducible assumption | with_reducible apply kept_audPass)
    | split

theorem kept_cycleStart {q₀ : List Instr} {f₀ : Fuses} {T₀ : Prop} {s : State} {dither : List (Nat × Fin 64)}
    (h_s : Kept q₀ f₀ T₀ s) : Kept q₀ f₀ T₀ (cycleStart s dither) := by
  unfold cycleStart
  repeat' first
    | intro _
    | (with_reducible apply Kept.upd; first | with_reducible assumption | with_reducible apply kept_audPass)

theorem kept_cycleEnd {q₀ : List Instr} {f₀ : Fuses} {T₀ : Prop} {s : State} {deltas : List (Nat × Int)}
    (h_s : Kept q₀ f₀ T₀ s) : Kept q₀ f₀ T₀ (cycleEnd s deltas) := by
  unfold cycleEnd
  repeat' first
    | intro _
    | (with_reducible apply Kept.upd; first | with_reducible assumption | with_reducible apply kept_audPass)

theorem kept_sweepEnd {q₀ : List Instr} {f₀ : Fuses} {T₀ : Prop} {s : State} {w : Nat} {m : Nat}
    (h_s : Kept q₀ f₀ T₀ s) : Kept q₀ f₀ T₀ (sweepEnd s w m) := by
  unfold sweepEnd
  repeat' first
    | (with_reducible apply Kept.upd; first | with_reducible assumption | with_reducible apply kept_modWin)

theorem kept_auxLost {q₀ : List Instr} {f₀ : Fuses} {T₀ : Prop} {s : State} {a : Nat}
    (h_s : Kept q₀ f₀ T₀ s) : Kept q₀ f₀ T₀ (auxLost s a) := by
  unfold auxLost
  repeat' first
    | (with_reducible apply Kept.upd; first | with_reducible assumption | with_reducible apply kept_raiseEvent)

end Sys2Proof.Machine
end

