-- ==== Sys2Proof/Laws/KeptSensor.lean ====
section
/-!
SUPPORT. What the operations of Machine/Sensor.lean keep.
-/

namespace Sys2Proof.Machine

open Sys2Proof

theorem kept_putSensor {q₀ : List Instr} {f₀ : Fuses} {T₀ : Prop} {s : State} {n : Nat} {x : Sensor}
    (h_s : Kept q₀ f₀ T₀ s) : Kept q₀ f₀ T₀ (putSensor s n x) := by
  unfold putSensor
  repeat' first
    | (with_reducible apply Kept.upd; with_reducible assumption)

theorem kept_writeEstimate {q₀ : List Instr} {f₀ : Fuses} {T₀ : Prop} {s : State} {n : Nat}
    (h_s : Kept q₀ f₀ T₀ s) : Kept q₀ f₀ T₀ (writeEstimate s n) := by
  unfold writeEstimate
  repeat' first
    | (with_reducible apply Kept.upd; first | with_reducible assumption | with_reducible apply kept_putSensor)
    | split

theorem kept_sensorBreak {q₀ : List Instr} {f₀ : Fuses} {T₀ : Prop} {s : State} {n : Nat}
    (h_s : Kept q₀ f₀ T₀ s) : Kept q₀ f₀ T₀ (sensorBreak s n) := by
  unfold sensorBreak
  repeat' first
    | (with_reducible apply Kept.upd; first | with_reducible assumption | with_reducible apply kept_raiseEvent | with_reducible apply kept_addFrec | with_reducible apply kept_putSensor)

theorem kept_rangeSet {q₀ : List Instr} {f₀ : Fuses} {T₀ : Prop} {s : State} {n : Nat}
    (h_s : Kept q₀ f₀ T₀ s) : Kept q₀ f₀ T₀ (rangeSet s n) := by
  unfold rangeSet
  repeat' first
    | (with_reducible apply Kept.upd; first | with_reducible assumption | with_reducible apply kept_putSensor)

theorem kept_publish {q₀ : List Instr} {f₀ : Fuses} {T₀ : Prop} {s : State} {n : Nat} {v : Int}
    (h_s : Kept q₀ f₀ T₀ s) : Kept q₀ f₀ T₀ (publish s n v) := by
  unfold publish
  repeat' first
    | (with_reducible apply Kept.upd; first | with_reducible assumption | with_reducible apply kept_raiseEvent | with_reducible apply kept_putSensor)
    | split
    | dsimp only

theorem kept_discard {q₀ : List Instr} {f₀ : Fuses} {T₀ : Prop} {s : State} {n : Nat}
    (h_s : Kept q₀ f₀ T₀ s) : Kept q₀ f₀ T₀ (discard s n) := by
  unfold discard
  repeat' first
    | (with_reducible apply Kept.upd; first | with_reducible assumption | with_reducible apply kept_putSensor | with_reducible apply kept_writeEstimate)
    | split
    | dsimp only

theorem kept_channelEnd {q₀ : List Instr} {f₀ : Fuses} {T₀ : Prop} {reads : List (Nat × SensorRead)} {s : State} {n : Nat}
    (h_s : Kept q₀ f₀ T₀ s) : Kept q₀ f₀ T₀ (channelEnd reads s n) := by
  unfold channelEnd
  repeat' first
    | (with_reducible apply Kept.upd; first | with_reducible assumption | with_reducible apply kept_audPass | with_reducible apply kept_putSensor | with_reducible apply kept_writeEstimate | with_reducible apply kept_sensorBreak | with_reducible apply kept_rangeSet | with_reducible apply kept_publish | with_reducible apply kept_discard)
    | split
    | dsimp only

theorem kept_setThlvl {q₀ : List Instr} {f₀ : Fuses} {T₀ : Prop} {s : State} {l : BitVec 3}
    (h_s : Kept q₀ f₀ T₀ s) : Kept q₀ f₀ T₀ (setThlvl s l) := by
  unfold setThlvl
  repeat' first
    | (with_reducible apply Kept.upd; first | with_reducible assumption | with_reducible apply kept_raiseEvent)
    | split
    | dsimp only

theorem kept_throttleRaise {q₀ : List Instr} {f₀ : Fuses} {T₀ : Prop} {s : State}
    (h_s : Kept q₀ f₀ T₀ s) : Kept q₀ f₀ T₀ (throttleRaise s) := by
  unfold throttleRaise
  repeat' first
    | (with_reducible apply Kept.upd; first | with_reducible assumption | with_reducible apply kept_setThlvl)
    | split
    | dsimp only

theorem kept_thermalHot {q₀ : List Instr} {f₀ : Fuses} {T₀ : Prop} {s : State} {before : Int}
    (h_s : Kept q₀ f₀ T₀ s) : Kept q₀ f₀ T₀ (thermalHot s before) := by
  unfold thermalHot
  repeat' first
    | (with_reducible apply Kept.upd; first | with_reducible assumption | with_reducible apply kept_raiseEvent | with_reducible apply kept_setAlert | with_reducible apply kept_setThlvl)
    | split

theorem kept_coolantHot {q₀ : List Instr} {f₀ : Fuses} {T₀ : Prop} {s : State}
    (h_s : Kept q₀ f₀ T₀ s) : Kept q₀ f₀ T₀ (coolantHot s) := by
  unfold coolantHot
  repeat' first
    | (with_reducible apply Kept.upd; first | with_reducible assumption | with_reducible apply kept_raiseEvent)
    | split
    | dsimp only

theorem kept_policyInputs {q₀ : List Instr} {f₀ : Fuses} {T₀ : Prop} {s : State} {p : Period}
    (h_s : Kept q₀ f₀ T₀ s) : Kept q₀ f₀ T₀ (policyInputs s p) := by
  unfold policyInputs
  repeat' first
    | (with_reducible apply Kept.upd; with_reducible assumption)
    | split
    | dsimp only

theorem kept_sensorPeriod {q₀ : List Instr} {f₀ : Fuses} {T₀ : Prop} {s : State} {p : Period}
    (h_s : Kept q₀ f₀ T₀ s) : Kept q₀ f₀ T₀ (sensorPeriod s p) :=
  by
  unfold sensorPeriod
  have h := Kept.foldl (g := channelEnd p.reads) (fun _ _ h => kept_channelEnd h) (List.range 66) h_s
  generalize (List.range 66).foldl (channelEnd p.reads) s = s2 at h ⊢
  exact kept_coolantHot (kept_thermalHot (kept_throttleRaise (kept_policyInputs (Kept.upd h))))

theorem kept_lampOff {q₀ : List Instr} {f₀ : Fuses} {T₀ : Prop} {s : State}
    (h_s : Kept q₀ f₀ T₀ s) : Kept q₀ f₀ T₀ (lampOff s) := by
  unfold lampOff
  repeat' first
    | (with_reducible apply Kept.upd; with_reducible assumption)

theorem kept_thermalTrip {q₀ : List Instr} {f₀ : Fuses} {T₀ : Prop} {s : State} {cause : Nat}
    (h_s : Kept q₀ f₀ T₀ s) : Kept q₀ f₀ T₀ (thermalTrip s cause) := by
  unfold thermalTrip
  repeat' first
    | (with_reducible apply Kept.upd; first | with_reducible assumption | with_reducible apply kept_emit | with_reducible apply kept_raiseEvent | with_reducible apply kept_setAlert | with_reducible apply kept_addFrec | with_reducible apply kept_parkAll | with_reducible apply kept_endOps | with_reducible apply kept_lampOff)
    | split
    | dsimp only

end Sys2Proof.Machine
end

