-- ==== Sys2Proof/Laws/KeptPantry.lean ====
section
/-!
SUPPORT. What the operations of Machine/Pantry.lean keep.
-/

namespace Sys2Proof.Machine

open Sys2Proof

theorem kept_countFx {q₀ : List Instr} {f₀ : Fuses} {T₀ : Prop} {s : State} {p : Nat} {x : NodeFx}
    (h_s : Kept q₀ f₀ T₀ s) : Kept q₀ f₀ T₀ (countFx s p x) := by
  unfold countFx
  repeat' first
    | with_reducible assumption
    | exact fun _ hx => hx
    | exact fun _ hx => Memory.write_wf _ hx _
    | exact Memory.write_wf _ (by assumption) _
    | with_reducible apply Kept.ite
    | with_reducible apply kept_modPantry

theorem kept_countFxs {q₀ : List Instr} {f₀ : Fuses} {T₀ : Prop} {s : State} {p : Nat} {xs : List NodeFx}
    (h_s : Kept q₀ f₀ T₀ s) : Kept q₀ f₀ T₀ (countFxs s p xs) := by
  unfold countFxs
  repeat' first
    | intro _
    | (with_reducible apply Kept.upd; first | with_reducible assumption | with_reducible apply kept_countFx | with_reducible apply Kept.foldl)

theorem kept_putSlot {q₀ : List Instr} {f₀ : Fuses} {T₀ : Prop} {s : State} {p : Nat} {lo : Nat} {f : AFmt} {x : Partial}
    (h_s : Kept q₀ f₀ T₀ s) : Kept q₀ f₀ T₀ (putSlot s p lo f x) := by
  unfold putSlot
  repeat' first
    | with_reducible assumption
    | exact fun _ hx => hx
    | exact fun _ hx => Memory.write_wf _ hx _
    | exact Memory.write_wf _ (by assumption) _
    | with_reducible apply Kept.ite
    | with_reducible apply kept_modPantry

theorem kept_putTree {q₀ : List Instr} {f₀ : Fuses} {T₀ : Prop} {s : State} {t : Tree}
    (h_s : Kept q₀ f₀ T₀ s) : Kept q₀ f₀ T₀ (putTree s t) := by
  unfold putTree
  repeat' first
    | (with_reducible apply Kept.upd; with_reducible assumption)

theorem kept_openTree {q₀ : List Instr} {f₀ : Fuses} {T₀ : Prop} {s : State} {c : WinCmd} {t : Tree}
    (h_s : Kept q₀ f₀ T₀ s) : Kept q₀ f₀ T₀ (openTree s c t).1 := by
  unfold openTree
  repeat' first
    | with_reducible assumption
    | exact fun _ hx => hx
    | exact fun _ hx => Memory.write_wf _ hx _
    | exact Memory.write_wf _ (by assumption) _
    | with_reducible apply Kept.ite
    | with_reducible apply kept_modPantry
    | with_reducible apply kept_audTake

theorem kept_shutTree {q₀ : List Instr} {f₀ : Fuses} {T₀ : Prop} {s : State} {t : Tree}
    (h_s : Kept q₀ f₀ T₀ s) : Kept q₀ f₀ T₀ (shutTree s t) := by
  unfold shutTree
  repeat' first
    | with_reducible assumption
    | exact fun _ hx => hx
    | exact fun _ hx => Memory.write_wf _ hx _
    | exact Memory.write_wf _ (by assumption) _
    | with_reducible apply Kept.ite
    | with_reducible apply kept_modPantry
    | with_reducible apply kept_freshNat
    | with_reducible apply kept_audGive
    | with_reducible apply Kept.foldl
    | with_reducible apply Kept.foldl1
    | intro _
    | (with_reducible apply Kept.fst; assumption)
    | (with_reducible apply Kept.snd; assumption)
    | (with_reducible apply Kept.upd; with_reducible assumption)

theorem kept_finalValue {q₀ : List Instr} {f₀ : Fuses} {T₀ : Prop} {s : State} {o : Op} {c : WinCmd} {t : Tree} {root : Partial}
    (h_s : Kept q₀ f₀ T₀ s) : Kept q₀ f₀ T₀ (finalValue s o c t root).1 := by
  unfold finalValue
  repeat' first
    | with_reducible assumption
    | exact fun _ hx => hx
    | exact fun _ hx => Memory.write_wf _ hx _
    | exact Memory.write_wf _ (by assumption) _
    | with_reducible apply Kept.ite
    | with_reducible apply kept_modPantry
    | with_reducible apply kept_countFx
    | with_reducible apply Kept.foldl
    | with_reducible apply Kept.foldl1
    | intro _
    | (with_reducible apply Kept.fst; assumption)
    | (with_reducible apply Kept.snd; assumption)
    | (with_reducible apply Kept.upd; first | with_reducible assumption | exact fun _ hx => hx | exact fun _ hx => Memory.write_wf _ hx _ | exact Memory.write_wf _ (by assumption) _ | with_reducible apply Kept.ite | with_reducible apply kept_modPantry | with_reducible apply kept_countFx | with_reducible apply Kept.foldl | with_reducible apply Kept.foldl1 | intro _)
    | split

theorem kept_completeRoot {q₀ : List Instr} {f₀ : Fuses} {T₀ : Prop} {s : State} {o : Op} {c : WinCmd} {t : Tree} {root : Partial}
    (h_s : Kept q₀ f₀ T₀ s) : Kept q₀ f₀ T₀ (completeRoot s o c t root) := by
  unfold completeRoot
  repeat' first
    | (with_reducible apply Kept.upd; first | with_reducible assumption | with_reducible apply kept_modOp | with_reducible apply kept_putSlot | with_reducible apply kept_putTree | with_reducible apply kept_shutTree | with_reducible apply kept_finalValue)
    | split

theorem kept_admitLeaves {q₀ : List Instr} {f₀ : Fuses} {T₀ : Prop} {k : SrKey} {c : WinCmd} {y0 : Nat} {y1 : State} {y2 : Tree}
    (h_y1 : Kept q₀ f₀ T₀ y1) : Kept q₀ f₀ T₀ (admitLeaves k c y0 y1 y2).1 := by
  unfold admitLeaves
  repeat' first
    | with_reducible assumption
    | exact fun _ hx => hx
    | exact fun _ hx => Memory.write_wf _ hx _
    | exact Memory.write_wf _ (by assumption) _
    | with_reducible apply Kept.ite
    | with_reducible apply kept_modPantry
    | with_reducible apply kept_countFxs
    | with_reducible apply kept_admitLeaves
    | with_reducible apply Kept.foldl
    | with_reducible apply Kept.foldl1
    | intro _
    | (with_reducible apply Kept.fst; assumption)
    | (with_reducible apply Kept.snd; assumption)
    | (with_reducible apply Kept.upd; first | with_reducible assumption | exact fun _ hx => hx | exact fun _ hx => Memory.write_wf _ hx _ | exact Memory.write_wf _ (by assumption) _ | with_reducible apply Kept.ite | with_reducible apply kept_modPantry | with_reducible apply kept_countFxs | with_reducible apply kept_admitLeaves | with_reducible apply Kept.foldl | with_reducible apply Kept.foldl1 | intro _)
    | split

theorem kept_numberRoot {q₀ : List Instr} {f₀ : Fuses} {T₀ : Prop} {s : State} {o : Op} {c : WinCmd}
    (h_s : Kept q₀ f₀ T₀ s) : Kept q₀ f₀ T₀ (numberRoot s o c) := by
  unfold numberRoot
  repeat' first
    | (with_reducible apply Kept.upd; first | with_reducible assumption | with_reducible apply kept_modOp)
    | split

theorem kept_runTree {q₀ : List Instr} {f₀ : Fuses} {T₀ : Prop} {s : State} {o : Op} {c : WinCmd} {t : Tree}
    (h_s : Kept q₀ f₀ T₀ s) : Kept q₀ f₀ T₀ (runTree s o c t) := by
  unfold runTree
  repeat' first
    | (with_reducible apply Kept.upd; first | with_reducible assumption | with_reducible apply kept_countFxs | with_reducible apply kept_putTree | with_reducible apply kept_completeRoot | with_reducible apply kept_admitLeaves | with_reducible apply kept_numberRoot)
    | split
    | dsimp only

theorem kept_commitLeaf {q₀ : List Instr} {f₀ : Fuses} {T₀ : Prop} {s : State} {o : Op} {c : WinCmd} {t : Tree} {l : Leaf}
    (h_s : Kept q₀ f₀ T₀ s) : Kept q₀ f₀ T₀ (commitLeaf s o c t l) := by
  unfold commitLeaf
  repeat' first
    | with_reducible assumption
    | exact fun _ hx => hx
    | exact fun _ hx => Memory.write_wf _ hx _
    | exact Memory.write_wf _ (by assumption) _
    | with_reducible apply Kept.ite
    | with_reducible apply kept_modPantry
    | with_reducible apply kept_putTree
    | with_reducible apply kept_openTree
    | with_reducible apply kept_runTree

end Sys2Proof.Machine
end

