-- ==== Sys2Proof/Laws/KeptWindow.lean ====
section
/-!
SUPPORT. What the operations of Machine/Window.lean keep.
-/

namespace Sys2Proof.Machine

open Sys2Proof

theorem kept_modPane {q₀ : List Instr} {f₀ : Fuses} {T₀ : Prop} {s : State} {w : Nat} {b : Bool} {f : Pane → Pane}
    (h_s : Kept q₀ f₀ T₀ s) : Kept q₀ f₀ T₀ (modPane s w b f) := by
  unfold modPane
  repeat' first
    | (with_reducible apply Kept.upd; first | with_reducible assumption | with_reducible apply kept_modWin)

theorem kept_repeatPass {q₀ : List Instr} {f₀ : Fuses} {T₀ : Prop} {s : State} {w : Nat}
    (h_s : Kept q₀ f₀ T₀ s) : Kept q₀ f₀ T₀ (repeatPass s w) := by
  unfold repeatPass
  repeat' first
    | (with_reducible apply Kept.upd; first | with_reducible assumption | with_reducible apply kept_modCtx | with_reducible apply kept_modOp)
    | split
    | dsimp only

theorem kept_offDw {q₀ : List Instr} {f₀ : Fuses} {T₀ : Prop} {s : State} {x : Stream}
    (h_s : Kept q₀ f₀ T₀ s) : Kept q₀ f₀ T₀ (offDw s x) := by
  unfold offDw
  repeat' first
    | (with_reducible apply Kept.upd; first | with_reducible assumption | with_reducible apply kept_modDumb | with_reducible apply kept_audGive | with_reducible apply kept_freeHeld)
    | split

theorem kept_addStream {q₀ : List Instr} {f₀ : Fuses} {T₀ : Prop} {s : State} {x : Stream}
    (h_s : Kept q₀ f₀ T₀ s) : Kept q₀ f₀ T₀ (addStream s x) := by
  unfold addStream
  repeat' first
    | (with_reducible apply Kept.upd; with_reducible assumption)

theorem kept_rerouteStreams {q₀ : List Instr} {f₀ : Fuses} {T₀ : Prop} {s : State} {w : Nat}
    (h_s : Kept q₀ f₀ T₀ s) : Kept q₀ f₀ T₀ (rerouteStreams s w) := by
  unfold rerouteStreams
  repeat' first
    | intro _
    | (with_reducible apply Kept.upd; first | with_reducible assumption | with_reducible apply kept_endOps | with_reducible apply kept_offDw | with_reducible apply kept_addStream | with_reducible apply Kept.foldl)
    | split
    | dsimp only

theorem kept_quarantine {q₀ : List Instr} {f₀ : Fuses} {T₀ : Prop} {s : State} {w : Nat} {cause : Nat}
    (h_s : Kept q₀ f₀ T₀ s) : Kept q₀ f₀ T₀ (quarantine s w cause) := by
  unfold quarantine
  repeat' first
    | with_reducible assumption
    | with_reducible apply Kept.ite
    | with_reducible apply kept_modWin
    | with_reducible apply kept_modPantry
    | with_reducible apply kept_capacity
    | with_reducible apply kept_addFrec
    | with_reducible apply kept_repeatPass
    | with_reducible apply kept_rerouteStreams
    | with_reducible apply Kept.foldl
    | with_reducible apply Kept.foldl1
    | intro _

theorem kept_retire {q₀ : List Instr} {f₀ : Fuses} {T₀ : Prop} {s : State} {w : Nat}
    (h_s : Kept q₀ f₀ T₀ s) : Kept q₀ f₀ T₀ (retire s w) := by
  unfold retire
  repeat' first
    | with_reducible assumption
    | with_reducible apply Kept.ite
    | with_reducible apply kept_modWin
    | with_reducible apply kept_modPantry
    | with_reducible apply Kept.foldl
    | with_reducible apply Kept.foldl1
    | intro _

theorem kept_imageCheck {q₀ : List Instr} {f₀ : Fuses} {T₀ : Prop} {s : State} {w : Nat} {b : Bool}
    (h_s : Kept q₀ f₀ T₀ s) : Kept q₀ f₀ T₀ (imageCheck s w b) := by
  unfold imageCheck
  repeat' first
    | (with_reducible apply Kept.upd; first | with_reducible assumption | with_reducible apply kept_modWin | with_reducible apply kept_endOp)
    | split
    | dsimp only

theorem kept_issue {q₀ : List Instr} {f₀ : Fuses} {T₀ : Prop} {s : State} {w : Nat} {p : Pass}
    (h_s : Kept q₀ f₀ T₀ s) : Kept q₀ f₀ T₀ (issue s w p) := by
  unfold issue
  repeat' first
    | (with_reducible apply Kept.upd; first | with_reducible assumption | with_reducible apply kept_modWin | with_reducible apply kept_audPass)

theorem kept_witnessResult {q₀ : List Instr} {f₀ : Fuses} {T₀ : Prop} {s : State} {w : Nat} {p : Pass} {e : PendWit} {rest : List PendWit} {img : Image} {codes : List Int}
    (h_s : Kept q₀ f₀ T₀ s) : Kept q₀ f₀ T₀ (witnessResult s w p e rest img codes) := by
  unfold witnessResult
  repeat' first
    | (with_reducible apply Kept.upd; first | with_reducible assumption | with_reducible apply kept_modWin | with_reducible apply kept_quarantine | with_reducible apply kept_issue)
    | split
    | dsimp only

theorem kept_clipRound {q₀ : List Instr} {f₀ : Fuses} {T₀ : Prop} {s : State} {w : Nat} {p : Pass} {codes : List (List Int)}
    (h_s : Kept q₀ f₀ T₀ s) : Kept q₀ f₀ T₀ (clipRound s w p codes) := by
  unfold clipRound
  repeat' first
    | (with_reducible apply Kept.upd; first | with_reducible assumption | with_reducible apply kept_issue)

theorem kept_startPass {q₀ : List Instr} {f₀ : Fuses} {T₀ : Prop} {s : State} {w : Nat} {o : Op} {p : Nat} {home : Nat} {pane : Bool} {half : Option Bool} {fmt : SlotFmt} {rows : List (List Int)} {rowSc : List Nat} {sat : Bool} {rsvd : Bool} {codes : List (List Int)}
    (h_s : Kept q₀ f₀ T₀ s) : Kept q₀ f₀ T₀ (startPass s w o p home pane half fmt rows rowSc sat rsvd codes) := by
  unfold startPass
  repeat' first
    | intro _
    | (with_reducible apply Kept.upd; first | with_reducible assumption | with_reducible apply kept_modWin | with_reducible apply kept_issue)

theorem kept_loadPane {q₀ : List Instr} {f₀ : Fuses} {T₀ : Prop} {s : State} {o : Op} {w : Nat} {b : Bool} {addr : Nat}
    (h_s : Kept q₀ f₀ T₀ s) : Kept q₀ f₀ T₀ (loadPane s o w b addr) := by
  unfold loadPane
  repeat' first
    | (with_reducible apply Kept.upd; first | with_reducible assumption | with_reducible apply kept_modWin | with_reducible apply kept_addStream)

theorem kept_fetchImage {q₀ : List Instr} {f₀ : Fuses} {T₀ : Prop} {s : State} {o : Op} {w : Nat} {addr : Nat}
    (h_s : Kept q₀ f₀ T₀ s) : Kept q₀ f₀ T₀ (fetchImage s o w addr) := by
  unfold fetchImage
  repeat' first
    | (with_reducible apply Kept.upd; first | with_reducible assumption | with_reducible apply kept_loadPane)
    | split
    | dsimp only

theorem kept_paneArmed {q₀ : List Instr} {f₀ : Fuses} {T₀ : Prop} {s : State} {w : Nat} {b : Bool}
    (h_s : Kept q₀ f₀ T₀ s) : Kept q₀ f₀ T₀ (paneArmed s w b) := by
  unfold paneArmed
  repeat' first
    | (with_reducible apply Kept.upd; first | with_reducible assumption | with_reducible apply kept_modWin | with_reducible apply kept_modOp)
    | split
    | dsimp only

theorem kept_beginPass {q₀ : List Instr} {f₀ : Fuses} {T₀ : Prop} {s : State} {env : Env} {w : Nat} {o : Op} {p : Nat} {half : Bool} {pane : Bool} {img : Image} {codes : List (List Int)}
    (h_s : Kept q₀ f₀ T₀ s) : Kept q₀ f₀ T₀ (beginPass s env w o p half pane img codes) := by
  unfold beginPass
  repeat' first
    | (with_reducible apply Kept.upd; first | with_reducible assumption | with_reducible apply kept_startPass)
    | split

theorem kept_passStart {q₀ : List Instr} {f₀ : Fuses} {T₀ : Prop} {s : State} {env : Env} {w : Nat} {o : Op} {p : Nat} {half : Bool} {codes : List (List Int)}
    (h_s : Kept q₀ f₀ T₀ s) : Kept q₀ f₀ T₀ (passStart s env w o p half codes) := by
  unfold passStart
  repeat' first
    | (with_reducible apply Kept.upd; first | with_reducible assumption | with_reducible apply kept_modOp | with_reducible apply kept_arbTake | with_reducible apply kept_endOp | with_reducible apply kept_fetchImage | with_reducible apply kept_beginPass)
    | split
    | dsimp only

theorem kept_leavePass {q₀ : List Instr} {f₀ : Fuses} {T₀ : Prop} {s : State} {w : Nat} {p : Pass}
    (h_s : Kept q₀ f₀ T₀ s) : Kept q₀ f₀ T₀ (leavePass s w p) := by
  unfold leavePass
  repeat' first
    | (with_reducible apply Kept.upd; first | with_reducible assumption | with_reducible apply kept_modWin)

theorem kept_refineCommit {q₀ : List Instr} {f₀ : Fuses} {T₀ : Prop} {s : State} {o : Op} {p : Pass} {nvalid : Nat}
    (h_s : Kept q₀ f₀ T₀ s) : Kept q₀ f₀ T₀ (refineCommit s o p nvalid) := by
  unfold refineCommit
  repeat' first
    | (with_reducible apply Kept.upd; first | with_reducible assumption | with_reducible apply kept_modOp)
    | split
    | dsimp only

theorem kept_passCommit {q₀ : List Instr} {f₀ : Fuses} {T₀ : Prop} {s : State} {w : Nat} {p : Pass} {o : Op}
    (h_s : Kept q₀ f₀ T₀ s) : Kept q₀ f₀ T₀ (passCommit s w p o) := by
  unfold passCommit
  repeat' first
    | (with_reducible apply Kept.upd; first | with_reducible assumption | with_reducible apply kept_modOp | with_reducible apply kept_commitLeaf | with_reducible apply kept_leavePass | with_reducible apply kept_refineCommit)
    | split

theorem kept_lastClips {q₀ : List Instr} {f₀ : Fuses} {T₀ : Prop} {s : State} {w : Nat} {p : Pass}
    (h_s : Kept q₀ f₀ T₀ s) : Kept q₀ f₀ T₀ (lastClips s w p).1 := by
  unfold lastClips
  repeat' first
    | (with_reducible apply Kept.upd; first | with_reducible assumption | with_reducible apply kept_modWin)

theorem kept_laserFail {q₀ : List Instr} {f₀ : Fuses} {T₀ : Prop} {s : State} {l : Nat}
    (h_s : Kept q₀ f₀ T₀ s) : Kept q₀ f₀ T₀ (laserFail s l) := by
  unfold laserFail
  repeat' first
    | (with_reducible apply Kept.upd; first | with_reducible assumption | with_reducible apply kept_modWin | with_reducible apply kept_capacity | with_reducible apply kept_addFrec | with_reducible apply kept_quarantine | with_reducible apply kept_retire)
    | split
    | dsimp only

theorem kept_spareLost {q₀ : List Instr} {f₀ : Fuses} {T₀ : Prop} {s : State} {l : Nat}
    (h_s : Kept q₀ f₀ T₀ s) : Kept q₀ f₀ T₀ (spareLost s l) := by
  unfold spareLost
  repeat' first
    | intro _
    | (with_reducible apply Kept.upd; first | with_reducible assumption | with_reducible apply kept_retire | with_reducible apply Kept.foldl)
    | split

theorem kept_spareTo {q₀ : List Instr} {f₀ : Fuses} {T₀ : Prop} {s : State} {w : Nat}
    (h_s : Kept q₀ f₀ T₀ s) : Kept q₀ f₀ T₀ (spareTo s w) := by
  unfold spareTo
  repeat' first
    | (with_reducible apply Kept.upd; first | with_reducible assumption | with_reducible apply kept_modWin | with_reducible apply kept_addFrec)
    | split
    | dsimp only

theorem kept_darkLaser {q₀ : List Instr} {f₀ : Fuses} {T₀ : Prop} {s : State} {l : Nat}
    (h_s : Kept q₀ f₀ T₀ s) : Kept q₀ f₀ T₀ (darkLaser s l) := by
  unfold darkLaser
  repeat' first
    | (with_reducible apply Kept.upd; first | with_reducible assumption | with_reducible apply kept_modWin | with_reducible apply kept_capacity | with_reducible apply kept_addFrec | with_reducible apply kept_retire | with_reducible apply kept_spareTo)
    | split
    | dsimp only

theorem kept_qualRun {q₀ : List Instr} {f₀ : Fuses} {T₀ : Prop} {s : State} {w : Nat} {resA : List (List Int)} {resB : List (List Int)}
    (h_s : Kept q₀ f₀ T₀ s) : Kept q₀ f₀ T₀ (qualRun s w resA resB).1 := by
  unfold qualRun
  repeat' first
    | (with_reducible apply Kept.upd; first | with_reducible assumption | with_reducible apply kept_modWin)

theorem kept_intoService {q₀ : List Instr} {f₀ : Fuses} {T₀ : Prop} {s : State} {w : Nat}
    (h_s : Kept q₀ f₀ T₀ s) : Kept q₀ f₀ T₀ (intoService s w) := by
  unfold intoService
  repeat' first
    | with_reducible assumption
    | with_reducible apply Kept.ite
    | with_reducible apply kept_modWin
    | with_reducible apply kept_modPantry
    | with_reducible apply kept_capacity
    | with_reducible apply kept_addFrec
    | with_reducible apply Kept.foldl
    | with_reducible apply Kept.foldl1
    | intro _

theorem kept_pantryFail {q₀ : List Instr} {f₀ : Fuses} {T₀ : Prop} {s : State} {w : Nat}
    (h_s : Kept q₀ f₀ T₀ s) : Kept q₀ f₀ T₀ (pantryFail s w) := by
  unfold pantryFail
  repeat' first
    | with_reducible assumption
    | with_reducible apply Kept.ite
    | with_reducible apply kept_modPantry
    | with_reducible apply kept_capacity
    | with_reducible apply kept_addFrec
    | with_reducible apply kept_loseCtx
    | with_reducible apply kept_quarantine
    | with_reducible apply kept_retire
    | with_reducible apply Kept.foldl
    | with_reducible apply Kept.foldl1
    | intro _

end Sys2Proof.Machine
end

