-- ==== Sys2Proof/Laws/KeptStream.lean ====
section
/-!
SUPPORT. What the operations of Machine/Stream.lean keep.
-/

namespace Sys2Proof.Machine

open Sys2Proof

theorem kept_showDw {q₀ : List Instr} {f₀ : Fuses} {T₀ : Prop} {s : State} {x : Stream} {st : Nat}
    (h_s : Kept q₀ f₀ T₀ s) : Kept q₀ f₀ T₀ (showDw s x st) := by
  unfold showDw
  repeat' first
    | (with_reducible apply Kept.upd; first | with_reducible assumption | with_reducible apply kept_modDumb)
    | split

theorem kept_startOn {q₀ : List Instr} {f₀ : Fuses} {T₀ : Prop} {s : State} {sid : Nat} {d : Nat}
    (h_s : Kept q₀ f₀ T₀ s) : Kept q₀ f₀ T₀ (startOn s sid d) := by
  unfold startOn
  repeat' first
    | (with_reducible apply Kept.upd; first | with_reducible assumption | with_reducible apply kept_modDumb | with_reducible apply kept_modStream | with_reducible apply kept_freshNat | with_reducible apply kept_audTake | with_reducible apply kept_showDw)
    | split
    | dsimp only

theorem kept_slotWriteDone {q₀ : List Instr} {f₀ : Fuses} {T₀ : Prop} {s : State} {o : Op} {bs : List Byte} {window : Nat} {slot : Nat} {srows : Nat} {f : AFmt}
    (h_s : Kept q₀ f₀ T₀ s) : Kept q₀ f₀ T₀ (slotWriteDone s o bs window slot srows f) := by
  unfold slotWriteDone
  repeat' first
    | with_reducible assumption
    | exact fun _ hx => hx
    | exact fun _ hx => Memory.write_wf _ hx _
    | exact Memory.write_wf _ (by assumption) _
    | with_reducible apply Kept.ite
    | with_reducible apply kept_modPantry
    | with_reducible apply kept_modOp

theorem kept_stagePane {q₀ : List Instr} {f₀ : Fuses} {T₀ : Prop} {s : State} {o : Op} {w : Nat} {b : Bool}
    (h_s : Kept q₀ f₀ T₀ s) : Kept q₀ f₀ T₀ (stagePane s o w b) := by
  unfold stagePane
  repeat' first
    | (with_reducible apply Kept.upd; first | with_reducible assumption | with_reducible apply kept_modWin)

theorem kept_startImage {q₀ : List Instr} {f₀ : Fuses} {T₀ : Prop} {s : State} {o : Op} {sid : Nat} {d : Nat} {t : Nat × Bool}
    (h_s : Kept q₀ f₀ T₀ s) : Kept q₀ f₀ T₀ (startImage s o sid d t) := by
  unfold startImage
  repeat' first
    | (with_reducible apply Kept.upd; first | with_reducible assumption | with_reducible apply kept_modStream | with_reducible apply kept_startOn | with_reducible apply kept_stagePane)
    | split

theorem kept_streamStart {q₀ : List Instr} {f₀ : Fuses} {T₀ : Prop} {s : State} {sid : Nat} {d : Nat} {x : Stream} {o : Op}
    (h_s : Kept q₀ f₀ T₀ s) : Kept q₀ f₀ T₀ (streamStart s sid d x o) := by
  unfold streamStart
  repeat' first
    | (with_reducible apply Kept.upd; first | with_reducible assumption | with_reducible apply kept_modOp | with_reducible apply kept_modStream | with_reducible apply kept_endOp | with_reducible apply kept_startOn | with_reducible apply kept_startImage)
    | split

theorem kept_discardFeed {q₀ : List Instr} {f₀ : Fuses} {T₀ : Prop} {s : State} {w : Nat} {b : Bool}
    (h_s : Kept q₀ f₀ T₀ s) : Kept q₀ f₀ T₀ (discardFeed s w b) := by
  unfold discardFeed
  repeat' first
    | (with_reducible apply Kept.upd; first | with_reducible assumption | with_reducible apply kept_modWin | with_reducible apply kept_modDumb | with_reducible apply kept_audGive)
    | split

theorem kept_takeHalf {q₀ : List Instr} {f₀ : Fuses} {T₀ : Prop} {s : State} {w : Nat} {b : Bool} {cls : Nat}
    (h_s : Kept q₀ f₀ T₀ s) : ∀ r, (takeHalf s w b cls) = some r → Kept q₀ f₀ T₀ r :=
  by
  intro r e
  unfold takeHalf at e
  split at e
  · cases e; exact h_s
  · split at e
    · split at e
      · split at e
        · cases e; exact kept_discardFeed h_s
        · cases e
      · cases e
    · cases e

theorem kept_feedPrefetch {q₀ : List Instr} {f₀ : Fuses} {T₀ : Prop} {s : State} {w : Nat} {o : Op} {c : WinCmd} {p : Nat} {half : Bool} {d : Nat}
    (h_s : Kept q₀ f₀ T₀ s) : Kept q₀ f₀ T₀ (feedPrefetch s w o c p half d) :=
  by
  unfold feedPrefetch
  split
  · exact h_s
  · have hk := kept_takeHalf h_s _ ‹takeHalf _ _ _ _ = some _›
    dsimp only
    split
    · exact kept_startOn (kept_modWin (kept_addStream hk))
    · exact kept_startOn (kept_modDumb (kept_modWin (kept_addStream hk)))

theorem kept_takeTxn {q₀ : List Instr} {f₀ : Fuses} {T₀ : Prop} {s : State} {sid : Nat} {x : Stream} {pieces : Nat} {later : Bool}
    (h_s : Kept q₀ f₀ T₀ s) : Kept q₀ f₀ T₀ (takeTxn s sid x pieces later) := by
  unfold takeTxn
  repeat' first
    | (with_reducible apply Kept.upd; first | with_reducible assumption | with_reducible apply kept_modDumb | with_reducible apply kept_modStream | with_reducible apply kept_audGive | with_reducible apply kept_audPass | with_reducible apply kept_showDw)
    | split

theorem kept_countBytes {q₀ : List Instr} {f₀ : Fuses} {T₀ : Prop} {s : State} {x : Stream} {n : Nat}
    (h_s : Kept q₀ f₀ T₀ s) : Kept q₀ f₀ T₀ (countBytes s x n) := by
  unfold countBytes
  repeat' first
    | (with_reducible apply Kept.upd; first | with_reducible assumption | with_reducible apply kept_modDumb)
    | split

theorem kept_takeBytes {q₀ : List Instr} {f₀ : Fuses} {T₀ : Prop} {s : State} {sid : Nat} {x : Stream} {bs : List Byte}
    (h_s : Kept q₀ f₀ T₀ s) : Kept q₀ f₀ T₀ (takeBytes s sid x bs) := by
  unfold takeBytes
  repeat' first
    | (with_reducible apply Kept.upd; first | with_reducible assumption | with_reducible apply kept_modWin | with_reducible apply kept_modStream | with_reducible apply kept_modPane | with_reducible apply kept_countBytes)
    | split

theorem kept_setFault {q₀ : List Instr} {f₀ : Fuses} {T₀ : Prop} {s : State} {sid : Nat} {dst : Bool} {c : FCode} {va : Nat}
    (h_s : Kept q₀ f₀ T₀ s) : Kept q₀ f₀ T₀ (setFault s sid dst c va) := by
  unfold setFault
  repeat' first
    | (with_reducible apply Kept.upd; first | with_reducible assumption | with_reducible apply kept_modStream | with_reducible apply kept_freeHeld)
    | split

theorem kept_writeTxn {q₀ : List Instr} {f₀ : Fuses} {T₀ : Prop} {s : State} {sid : Nat} {x : Stream} {env : Env}
    (h_s : Kept q₀ f₀ T₀ s) : Kept q₀ f₀ T₀ (writeTxn s sid x env) := by
  unfold writeTxn
  repeat' first
    | (with_reducible apply Kept.upd; first | with_reducible assumption | with_reducible apply kept_modStream | with_reducible apply kept_putHost | with_reducible apply kept_elog | with_reducible apply kept_writePa | with_reducible apply kept_translate | with_reducible apply kept_spendCls | with_reducible apply kept_testFences | with_reducible apply kept_newReq | with_reducible apply kept_takeTxn | with_reducible apply kept_countBytes | with_reducible apply kept_setFault | (with_reducible apply Kept.fst; assumption))
    | split
    | dsimp only

theorem kept_flushOut {q₀ : List Instr} {f₀ : Fuses} {T₀ : Prop} {sid : Nat} {y0 : Nat} {y1 : State}
    (h_y1 : Kept q₀ f₀ T₀ y1) : Kept q₀ f₀ T₀ (flushOut sid y0 y1) := by
  unfold flushOut
  repeat' first
    | (with_reducible apply Kept.upd; first | with_reducible assumption | with_reducible apply kept_writeTxn | with_reducible apply kept_flushOut)
    | split

theorem kept_streamPoison {q₀ : List Instr} {f₀ : Fuses} {T₀ : Prop} {s0 : State} {s : State} {sid : Nat} {x : Stream} {pa : Nat} {node : Nat}
    (h_s0 : Kept q₀ f₀ T₀ s0) (h_s : Kept q₀ f₀ T₀ s) : Kept q₀ f₀ T₀ (streamPoison s0 s sid x pa node) := by
  unfold streamPoison
  repeat' first
    | (with_reducible apply Kept.upd; first | with_reducible assumption | with_reducible apply kept_modDumb | with_reducible apply kept_poisonRead | with_reducible apply kept_farPoisonRead | with_reducible apply kept_flushOut)
    | split

theorem kept_readTxn {q₀ : List Instr} {f₀ : Fuses} {T₀ : Prop} {s : State} {sid : Nat} {x : Stream} {env : Env}
    (h_s : Kept q₀ f₀ T₀ s) : Kept q₀ f₀ T₀ (readTxn s sid x env) := by
  unfold readTxn
  repeat' first
    | (with_reducible apply Kept.upd; first | with_reducible assumption | with_reducible apply kept_emit | with_reducible apply kept_audTake | with_reducible apply kept_readPa | with_reducible apply kept_translate | with_reducible apply kept_spendCls | with_reducible apply kept_newReq | with_reducible apply kept_takeTxn | with_reducible apply kept_takeBytes | with_reducible apply kept_setFault | with_reducible apply kept_streamPoison | (with_reducible apply Kept.fst; assumption))
    | split
    | dsimp only

theorem kept_takeDw {q₀ : List Instr} {f₀ : Fuses} {T₀ : Prop} {s : State} {t : State} {x : Stream}
    (h_s : Kept q₀ f₀ T₀ s) (h_t : Kept q₀ f₀ T₀ t) : Kept q₀ f₀ T₀ (takeDw s t x) := by
  unfold takeDw
  repeat' first
    | (with_reducible apply Kept.upd; first | with_reducible assumption | with_reducible apply kept_arbTake)
    | split

theorem kept_takePort {q₀ : List Instr} {f₀ : Fuses} {T₀ : Prop} {s : State} {t : State} {x : Stream} {rd : Bool}
    (h_s : Kept q₀ f₀ T₀ s) (h_t : Kept q₀ f₀ T₀ t) : Kept q₀ f₀ T₀ (takePort s t x rd) := by
  unfold takePort
  repeat' first
    | (with_reducible apply Kept.upd; first | with_reducible assumption | with_reducible apply kept_arbTake)
    | split

theorem kept_pageFault {q₀ : List Instr} {f₀ : Fuses} {T₀ : Prop} {s : State} {x : Stream}
    (h_s : Kept q₀ f₀ T₀ s) : Kept q₀ f₀ T₀ (pageFault s x) := by
  unfold pageFault
  repeat' first
    | (with_reducible apply Kept.upd; first | with_reducible assumption | with_reducible apply kept_raiseEvent)

theorem kept_haltStream {q₀ : List Instr} {f₀ : Fuses} {T₀ : Prop} {s : State} {sid : Nat} {c : FCode} {va : Nat}
    (h_s : Kept q₀ f₀ T₀ s) : Kept q₀ f₀ T₀ (haltStream s sid c va) := by
  unfold haltStream
  repeat' first
    | (with_reducible apply Kept.upd; first | with_reducible assumption | with_reducible apply kept_modWin | with_reducible apply kept_modDumb | with_reducible apply kept_modStream | with_reducible apply kept_modPane | with_reducible apply kept_showDw | with_reducible apply kept_pageFault)
    | split
    | dsimp only

theorem kept_resumeStream {q₀ : List Instr} {f₀ : Fuses} {T₀ : Prop} {s : State} {sid : Nat} {x : Stream}
    (h_s : Kept q₀ f₀ T₀ s) : Kept q₀ f₀ T₀ (resumeStream s sid x) := by
  unfold resumeStream
  repeat' first
    | (with_reducible apply Kept.upd; first | with_reducible assumption | with_reducible apply kept_modStream | with_reducible apply kept_offDw | with_reducible apply kept_showDw | with_reducible apply kept_stagePane | with_reducible apply kept_haltStream)
    | split

theorem kept_streamEnd {q₀ : List Instr} {f₀ : Fuses} {T₀ : Prop} {s : State} {x : Stream} {o : Op}
    (h_s : Kept q₀ f₀ T₀ s) : Kept q₀ f₀ T₀ (streamEnd s x o) := by
  unfold streamEnd
  repeat' first
    | (with_reducible apply Kept.upd; first | with_reducible assumption | with_reducible apply kept_modWin | with_reducible apply kept_modOp | with_reducible apply kept_shutTree | with_reducible apply kept_slotWriteDone)
    | split
    | dsimp only

theorem kept_dropHostReq {q₀ : List Instr} {f₀ : Fuses} {T₀ : Prop} {s : State} {tag : Nat}
    (h_s : Kept q₀ f₀ T₀ s) : Kept q₀ f₀ T₀ (dropHostReq s tag) := by
  unfold dropHostReq
  repeat' first
    | (with_reducible apply Kept.upd; first | with_reducible assumption | with_reducible apply kept_audGive)

theorem kept_hostReadFails {q₀ : List Instr} {f₀ : Fuses} {T₀ : Prop} {s : State} {r : HostReq} {st : HostStatus}
    (h_s : Kept q₀ f₀ T₀ s) : Kept q₀ f₀ T₀ (hostReadFails s r st) := by
  unfold hostReadFails
  repeat' first
    | (with_reducible apply Kept.upd; first | with_reducible assumption | with_reducible apply kept_hostFail | with_reducible apply kept_endOp | with_reducible apply kept_dropHostReq)
    | split
    | dsimp only

end Sys2Proof.Machine
end

