-- ==== Sys2Proof/Laws/KeptRemote.lean ====
section
/-!
SUPPORT. What the operations of Machine/Remote.lean keep.
-/

namespace Sys2Proof.Machine

open Sys2Proof

theorem kept_readTarget {q₀ : List Instr} {f₀ : Fuses} {T₀ : Prop} {env : Env} {y0 : List (Nat × Nat)} {y1 : State} {y2 : List Byte}
    (h_y1 : Kept q₀ f₀ T₀ y1) : Kept q₀ f₀ T₀ (readTarget env y0 y1 y2).1 := by
  unfold readTarget
  repeat' first
    | (with_reducible apply Kept.upd; first | with_reducible assumption | with_reducible apply kept_readPa | with_reducible apply kept_readTarget | (with_reducible apply Kept.fst; assumption))
    | split

theorem kept_serveRd {q₀ : List Instr} {f₀ : Fuses} {T₀ : Prop} {s : State} {m : Msg} {env : Env}
    (h_s : Kept q₀ f₀ T₀ s) : Kept q₀ f₀ T₀ (serveRd s m env) := by
  unfold serveRd
  repeat' first
    | (with_reducible apply Kept.upd; first | with_reducible assumption | with_reducible apply kept_answer | with_reducible apply kept_readTarget | (with_reducible apply Kept.fst; assumption))
    | split

theorem kept_serveFar {q₀ : List Instr} {f₀ : Fuses} {T₀ : Prop} {s : State} {mt : Nat} {k : State → Nat → Msg → State}
    (h_s : Kept q₀ f₀ T₀ s) (hk : ∀ s d m, Kept q₀ f₀ T₀ s → Kept q₀ f₀ T₀ (k s d m)) : Kept q₀ f₀ T₀ (serveFar s mt k) := by
  unfold serveFar
  split
  · exact h_s
  · dsimp only
    split
    · exact hk _ _ _ (kept_takeIn h_s)
    · exact kept_arbTake (hk _ _ _ (kept_takeIn h_s))

theorem kept_writeTarget {q₀ : List Instr} {f₀ : Fuses} {T₀ : Prop} {env : Env} {y0 : List (Nat × Nat)} {y1 : List Byte} {y2 : State}
    (h_y2 : Kept q₀ f₀ T₀ y2) : Kept q₀ f₀ T₀ (writeTarget env y0 y1 y2) := by
  unfold writeTarget
  repeat' first
    | (with_reducible apply Kept.upd; first | with_reducible assumption | with_reducible apply kept_writePa | with_reducible apply kept_writeTarget)
    | split

theorem kept_serveWr {q₀ : List Instr} {f₀ : Fuses} {T₀ : Prop} {s : State} {m : Msg} {env : Env}
    (h_s : Kept q₀ f₀ T₀ s) : Kept q₀ f₀ T₀ (serveWr s m env) := by
  unfold serveWr
  repeat' first
    | (with_reducible apply Kept.upd; first | with_reducible assumption | with_reducible apply kept_elog | with_reducible apply kept_testFences | with_reducible apply kept_answer | with_reducible apply kept_writeTarget)
    | split

theorem kept_answerRetry {q₀ : List Instr} {f₀ : Fuses} {T₀ : Prop} {s : State} {d : Nat} {m : Msg}
    (h_s : Kept q₀ f₀ T₀ s) : Kept q₀ f₀ T₀ (answerRetry s d m) := by
  unfold answerRetry
  repeat' first
    | (with_reducible apply Kept.upd; first | with_reducible assumption | with_reducible apply kept_modDoor | with_reducible apply kept_answer)
    | split

theorem kept_performAtom {q₀ : List Instr} {f₀ : Fuses} {T₀ : Prop} {s : State} {m : Msg} {env : Env} {retry : Option Nat}
    (h_s : Kept q₀ f₀ T₀ s) : Kept q₀ f₀ T₀ (performAtom s m env retry) := by
  unfold performAtom
  repeat' first
    | (with_reducible apply Kept.upd; first | with_reducible assumption | with_reducible apply kept_elog | with_reducible apply kept_readPa | with_reducible apply kept_putLong | with_reducible apply kept_answer | with_reducible apply kept_answerRetry | (with_reducible apply Kept.fst; assumption))
    | split
    | dsimp only

end Sys2Proof.Machine
end

