-- ==== Sys2Proof/Laws/KeptStudy.lean ====
section
/-!
SUPPORT. What the operations of Machine/Study.lean keep.
-/

namespace Sys2Proof.Machine

open Sys2Proof

theorem kept_studyFault {q₀ : List Instr} {f₀ : Fuses} {T₀ : Prop} {s : State} {o : Op} {slot : Nat} {c : FCode} {va : Nat}
    (h_s : Kept q₀ f₀ T₀ s) : Kept q₀ f₀ T₀ (studyFault s o slot c va) := by
  unfold studyFault
  repeat' first
    | (with_reducible apply Kept.upd; first | with_reducible assumption | with_reducible apply kept_addStream | with_reducible apply kept_startOn | with_reducible apply kept_haltStream)
    | split

theorem kept_dropStudyStream {q₀ : List Instr} {f₀ : Fuses} {T₀ : Prop} {s : State} {id : OpId} {slot : Nat}
    (h_s : Kept q₀ f₀ T₀ s) : Kept q₀ f₀ T₀ (dropStudyStream s id slot) := by
  unfold dropStudyStream
  repeat' first
    | intro _
    | (with_reducible apply Kept.upd; first | with_reducible assumption | with_reducible apply kept_offDw | with_reducible apply Kept.foldl)

theorem kept_afterAccess {q₀ : List Instr} {f₀ : Fuses} {T₀ : Prop} {s0 : State} {s : State} {o : Op} {slot : Nat} {a : Acc} {k : State → State}
    (h_s0 : Kept q₀ f₀ T₀ s0) (h_s : Kept q₀ f₀ T₀ s) (h_k : ∀ s, Kept q₀ f₀ T₀ s → Kept q₀ f₀ T₀ (k s)) : Kept q₀ f₀ T₀ (afterAccess s0 s o slot a k) := by
  unfold afterAccess
  split
  · exact h_k _ h_s
  · exact kept_studyFault h_s
  · exact kept_poisonRead h_s0 h_s
  · exact kept_endOp h_s
  · exact kept_farPoisonRead h_s
  · exact kept_endOp (kept_farTimedOut h_s)

theorem kept_itemDone {q₀ : List Instr} {f₀ : Fuses} {T₀ : Prop} {s : State} {core : Nat}
    (h_s : Kept q₀ f₀ T₀ s) : Kept q₀ f₀ T₀ (itemDone s core) := by
  unfold itemDone
  repeat' first
    | (with_reducible apply Kept.upd; with_reducible assumption)

theorem kept_noStudyLeft {q₀ : List Instr} {f₀ : Fuses} {T₀ : Prop} {s : State}
    (h_s : Kept q₀ f₀ T₀ s) : Kept q₀ f₀ T₀ (noStudyLeft s) := by
  unfold noStudyLeft
  repeat' first
    | (with_reducible apply Kept.upd; first | with_reducible assumption | with_reducible apply kept_endOps)
    | split

theorem kept_removeCore {q₀ : List Instr} {f₀ : Fuses} {T₀ : Prop} {s : State} {core : Nat}
    (h_s : Kept q₀ f₀ T₀ s) : Kept q₀ f₀ T₀ (removeCore s core) := by
  unfold removeCore
  repeat' first
    | (with_reducible apply Kept.upd; first | with_reducible assumption | with_reducible apply kept_modCtx | with_reducible apply kept_modOp | with_reducible apply kept_capacity | with_reducible apply kept_addFrec | with_reducible apply kept_dropStudyStream | with_reducible apply kept_noStudyLeft)
    | split
    | dsimp only

theorem kept_coreRecords {q₀ : List Instr} {f₀ : Fuses} {T₀ : Prop} {pass : BitVec 128} {s : State}
    (h_s : Kept q₀ f₀ T₀ s) : Kept q₀ f₀ T₀ (coreRecords pass s) := by
  unfold coreRecords
  repeat' first
    | intro _
    | (with_reducible apply Kept.upd; first | with_reducible assumption | with_reducible apply kept_addFrec | with_reducible apply Kept.foldl)
    | split

theorem kept_deviceFetchAdd {q₀ : List Instr} {f₀ : Fuses} {T₀ : Prop} {s : State} {env : Env} {o : Op} {va : Nat} {v : Nat}
    (h_s : Kept q₀ f₀ T₀ s) : Kept q₀ f₀ T₀ (deviceFetchAdd s env o va v).1 := by
  unfold deviceFetchAdd
  repeat' first
    | (with_reducible apply Kept.upd; first | with_reducible assumption | with_reducible apply kept_readOp | with_reducible apply kept_writeOp | (with_reducible apply Kept.fst; assumption))
    | split
    | dsimp only

theorem kept_kernelDone {q₀ : List Instr} {f₀ : Fuses} {T₀ : Prop} {s : State} {o : Op} {core : Nat} {ni : Nat} {fl : IFlags}
    (h_s : Kept q₀ f₀ T₀ s) : Kept q₀ f₀ T₀ (kernelDone s o core ni fl) := by
  unfold kernelDone
  repeat' first
    | (with_reducible apply Kept.upd; first | with_reducible assumption | with_reducible apply kept_modOp | with_reducible apply kept_itemDone)

theorem kept_remember {q₀ : List Instr} {f₀ : Fuses} {T₀ : Prop} {s : State} {o : Op} {rm : RMode} {n : Nat} {tr : List StudyOp} {loads : List Nat}
    (h_s : Kept q₀ f₀ T₀ s) : Kept q₀ f₀ T₀ (remember s o rm n tr loads) := by
  unfold remember
  repeat' first
    | (with_reducible apply Kept.upd; with_reducible assumption)
    | split
    | dsimp only

theorem kept_keepPartway {q₀ : List Instr} {f₀ : Fuses} {T₀ : Prop} {s : State} {core : Nat} {p : Partway} {r : TraceRun}
    (h_s : Kept q₀ f₀ T₀ s) : Kept q₀ f₀ T₀ (keepPartway s core p r) := by
  unfold keepPartway
  repeat' first
    | (with_reducible apply Kept.upd; with_reducible assumption)

/-- One operation of a trace. -/
theorem traceOp1_kept {q₀ : List Instr} {f₀ : Fuses} {T₀ : Prop} {env : Env} {o : Op} {rm : RMode} {r : TraceRun} {op : StudyOp}
    (h : Kept q₀ f₀ T₀ r.st) : Kept q₀ f₀ T₀ (traceOp1 env o rm r op).st := by
  cases op <;> first
    | exact h
    | exact kept_readOp h
    | exact kept_testFences (kept_writeOp h)
    | exact kept_testFences (kept_deviceFetchAdd h)
/-- An operation that is skipped after a failure changes nothing. -/
theorem traceOp_kept {q₀ : List Instr} {f₀ : Fuses} {T₀ : Prop} {env : Env} {o : Op} {rm : RMode} {r : TraceRun} {op : StudyOp}
    (h : Kept q₀ f₀ T₀ r.st) : Kept q₀ f₀ T₀ (traceOp env o rm r op).st := by
  unfold traceOp
  dsimp only
  split
  · exact h
  · split <;> exact traceOp1_kept h
/-- A whole trace. -/
theorem runTrace_kept {q₀ : List Instr} {f₀ : Fuses} {T₀ : Prop} {env : Env} {o : Op} {rm : RMode} {s : State} {p : Partway}
    (h : Kept q₀ f₀ T₀ s) : Kept q₀ f₀ T₀ (runTrace s env o rm p).st := by
  unfold runTrace
  exact List.foldlRecOn (motive := fun r : TraceRun => Kept q₀ f₀ T₀ r.st) _ _ h (fun _ hb _ _ => traceOp_kept hb)

theorem kept_kernelItem {q₀ : List Instr} {f₀ : Fuses} {T₀ : Prop} {s : State} {env : Env} {o : Op} {rm : RMode} {core n ni : Nat} {trace : List StudyOp}
    (h_s : Kept q₀ f₀ T₀ s) : Kept q₀ f₀ T₀ (kernelItem s env o rm core n ni trace) := by
  have hr : Kept q₀ f₀ T₀ (runTrace s env o rm (itemTodo s env o rm core n trace)).st := runTrace_kept h_s
  unfold kernelItem
  dsimp only
  refine kept_afterAccess h_s ?_ (fun _ h => kept_kernelDone (kept_remember h))
  split
  · exact kept_keepPartway hr
  · exact hr

end Sys2Proof.Machine
end

