-- ==== Sys2Proof/Laws/KeptTruss.lean ====
section
/-!
SUPPORT. What the operations of Machine/Truss.lean keep.
-/

namespace Sys2Proof.Machine

open Sys2Proof

theorem kept_finishSender {q₀ : List Instr} {f₀ : Fuses} {T₀ : Prop} {s : State} {o : Op} {t : Tree} {x : Partial}
    (h_s : Kept q₀ f₀ T₀ s) : Kept q₀ f₀ T₀ (finishSender s o t x) := by
  unfold finishSender
  repeat' first
    | (with_reducible apply Kept.upd; first | with_reducible assumption | with_reducible apply kept_modOp | with_reducible apply kept_putSlot | with_reducible apply kept_shutTree)

theorem kept_takePartial {q₀ : List Instr} {f₀ : Fuses} {T₀ : Prop} {s : State} {p : RedPartial}
    (h_s : Kept q₀ f₀ T₀ s) : Kept q₀ f₀ T₀ (takePartial s p) := by
  unfold takePartial
  repeat' first
    | (with_reducible apply Kept.upd; with_reducible assumption)
    | split

theorem kept_sendRemote {q₀ : List Instr} {f₀ : Fuses} {T₀ : Prop} {s : State} {o : Op} {c : WinCmd} {t : Tree} {g : Nat} {dst : Nat} {x : Partial} {info : List Byte} {bytes : List Byte} {gcrc : Word}
    (h_s : Kept q₀ f₀ T₀ s) : Kept q₀ f₀ T₀ (sendRemote s o c t g dst x info bytes gcrc) :=
  by
  unfold sendRemote
  dsimp only
  split
  · exact h_s
  · have hk : ∀ (l : List Msg) (a : State × Bool), Kept q₀ f₀ T₀ a.1 →
        Kept q₀ f₀ T₀ (l.foldl (fun (a : State × Bool) m => if a.2 then sendMsg a.1 m else a) a).1 :=
      fun l a h => Kept.foldl1 (fun a m h => by
        split
        · exact kept_sendMsg h
        · exact h) l h
    split
    · refine hk _ _ (kept_putTree (kept_audTake (Kept.upd h_s)))
    · refine kept_failReq (hk _ _ (kept_putTree (kept_audTake (Kept.upd h_s))))

theorem kept_sendPartial {q₀ : List Instr} {f₀ : Fuses} {T₀ : Prop} {s : State} {o : Op} {c : WinCmd} {t : Tree} {x : Partial} {owner : Nat}
    (h_s : Kept q₀ f₀ T₀ s) : Kept q₀ f₀ T₀ (sendPartial s o c t x owner) := by
  unfold sendPartial
  repeat' first
    | (with_reducible apply Kept.upd; first | with_reducible assumption | with_reducible apply kept_finishSender | with_reducible apply kept_takePartial | with_reducible apply kept_sendRemote)
    | split
    | dsimp only

theorem kept_trussMismatch {q₀ : List Instr} {f₀ : Fuses} {T₀ : Prop} {s : State} {g : Nat} {src : Nat}
    (h_s : Kept q₀ f₀ T₀ s) : Kept q₀ f₀ T₀ (trussMismatch s g src) := by
  unfold trussMismatch
  repeat' first
    | (with_reducible apply Kept.upd; first | with_reducible assumption | with_reducible apply kept_raiseEvent)
    | split

theorem kept_discardPartial {q₀ : List Instr} {f₀ : Fuses} {T₀ : Prop} {s : State} {o : Op} {p : RedPartial}
    (h_s : Kept q₀ f₀ T₀ s) : Kept q₀ f₀ T₀ (discardPartial s o p) := by
  unfold discardPartial
  repeat' first
    | (with_reducible apply Kept.upd; first | with_reducible assumption | with_reducible apply kept_endOp | with_reducible apply kept_trussMismatch)
    | split

theorem kept_combineNode {q₀ : List Instr} {f₀ : Fuses} {T₀ : Prop} {s : State} {o : Op} {c : WinCmd} {t : Tree} {x : Partial} {p : RedPartial}
    (h_s : Kept q₀ f₀ T₀ s) : Kept q₀ f₀ T₀ (combineNode s o c t x p) := by
  unfold combineNode
  repeat' first
    | (with_reducible apply Kept.upd; first | with_reducible assumption | with_reducible apply kept_countFx | with_reducible apply kept_putTree)

theorem kept_trussStep {q₀ : List Instr} {f₀ : Fuses} {T₀ : Prop} {s : State} {o : Op} {c : WinCmd} {t : Tree} {x : Partial} {owner : Nat}
    (h_s : Kept q₀ f₀ T₀ s) : Kept q₀ f₀ T₀ (trussStep s o c t x owner) := by
  unfold trussStep
  repeat' first
    | (with_reducible apply Kept.upd; first | with_reducible assumption | with_reducible apply kept_arbTake | with_reducible apply kept_completeRoot | with_reducible apply kept_sendPartial | with_reducible apply kept_discardPartial | with_reducible apply kept_combineNode)
    | split
    | dsimp only

end Sys2Proof.Machine
end

