-- ==== Sys2Proof/Laws/KeptEpilogue.lean ====
section
/-!
SUPPORT. What the operations of Machine/Epilogue.lean keep.
-/

namespace Sys2Proof.Machine

open Sys2Proof

theorem kept_tileSums {q₀ : List Instr} {f₀ : Fuses} {T₀ : Prop} {s : State} {c : WinCmd} {t : Tree}
    (h_s : Kept q₀ f₀ T₀ s) : Kept q₀ f₀ T₀ (tileSums s c t).1 := by
  unfold tileSums
  repeat' first
    | (with_reducible apply Kept.upd; first | with_reducible assumption | with_reducible apply kept_freshNat)
    | split

theorem kept_epilogue {q₀ : List Instr} {f₀ : Fuses} {T₀ : Prop} {s0 : State} {o : Op} {c : WinCmd} {t : Tree} {x : Partial} {env : Env}
    (h_s0 : Kept q₀ f₀ T₀ s0) : Kept q₀ f₀ T₀ (epilogue s0 o c t x env) := by
  unfold epilogue
  repeat' first
    | with_reducible assumption
    | with_reducible apply Kept.ite
    | with_reducible apply kept_modOp
    | with_reducible apply kept_readVa
    | with_reducible apply kept_putSlot
    | with_reducible apply kept_addStream
    | with_reducible apply kept_afterAccess
    | with_reducible apply kept_tileSums
    | with_reducible apply Kept.foldl
    | with_reducible apply Kept.foldl1
    | intro _
    | (with_reducible apply Kept.fst; assumption)
    | (with_reducible apply Kept.snd; assumption)
    | (with_reducible apply Kept.upd; first | with_reducible assumption | with_reducible apply Kept.ite | with_reducible apply kept_modOp | with_reducible apply kept_readVa | with_reducible apply kept_putSlot | with_reducible apply kept_addStream | with_reducible apply kept_afterAccess | with_reducible apply kept_tileSums | with_reducible apply Kept.foldl | with_reducible apply Kept.foldl1 | intro _)
    | split

end Sys2Proof.Machine
end

