-- ==== Sys2Proof/Laws/KeptRefine.lean ====
section
/-!
SUPPORT. What the operations of Machine/Refine.lean keep.
-/

namespace Sys2Proof.Machine

open Sys2Proof

theorem kept_tileHeads {q₀ : List Instr} {f₀ : Fuses} {T₀ : Prop} {env : Env} {o : Op} {n : Nat} {y0 : List TileEnt} {y1 : State}
    (h_y1 : Kept q₀ f₀ T₀ y1) : Kept q₀ f₀ T₀ (tileHeads env o n y0 y1).1 := by
  unfold tileHeads
  repeat' first
    | (with_reducible apply Kept.upd; first | with_reducible assumption | with_reducible apply kept_readOp | with_reducible apply kept_tileHeads | (with_reducible apply Kept.fst; assumption))
    | split

theorem kept_csrCheck {q₀ : List Instr} {f₀ : Fuses} {T₀ : Prop} {s : State} {env : Env} {o : Op} {c : RefCmd}
    (h_s : Kept q₀ f₀ T₀ s) : Kept q₀ f₀ T₀ (csrCheck s env o c).1 := by
  unfold csrCheck
  repeat' first
    | (with_reducible apply Kept.upd; first | with_reducible assumption | with_reducible apply kept_readOp | (with_reducible apply Kept.fst; assumption))
    | split
    | dsimp only

theorem kept_refineStart {q₀ : List Instr} {f₀ : Fuses} {T₀ : Prop} {s0 : State} {env : Env} {o : Op} {c : RefCmd}
    (h_s0 : Kept q₀ f₀ T₀ s0) : Kept q₀ f₀ T₀ (refineStart s0 env o c) := by
  unfold refineStart
  repeat' first
    | with_reducible assumption
    | exact fun _ hx => hx
    | exact fun _ hx => Memory.write_wf _ hx _
    | exact Memory.write_wf _ (by assumption) _
    | with_reducible apply Kept.ite
    | with_reducible apply kept_modOp
    | with_reducible apply kept_readOp
    | with_reducible apply kept_afterAccess
    | with_reducible apply kept_tileHeads
    | with_reducible apply kept_csrCheck
    | with_reducible apply Kept.foldl
    | with_reducible apply Kept.foldl1
    | intro _
    | (with_reducible apply Kept.fst; assumption)
    | (with_reducible apply Kept.snd; assumption)
    | (with_reducible apply Kept.upd; first | with_reducible assumption | exact fun _ hx => hx | exact fun _ hx => Memory.write_wf _ hx _ | exact Memory.write_wf _ (by assumption) _ | with_reducible apply Kept.ite | with_reducible apply kept_modOp | with_reducible apply kept_readOp | with_reducible apply kept_afterAccess | with_reducible apply kept_tileHeads | with_reducible apply kept_csrCheck | with_reducible apply Kept.foldl | with_reducible apply Kept.foldl1 | intro _)
    | split

theorem kept_refRow {q₀ : List Instr} {f₀ : Fuses} {T₀ : Prop} {s : State} {env : Env} {o : Op} {c : RefCmd} {x : List Long} {i : Nat}
    (h_s : Kept q₀ f₀ T₀ s) : Kept q₀ f₀ T₀ (refRow s env o c x i).1 := by
  unfold refRow
  repeat' first
    | (with_reducible apply Kept.upd; first | with_reducible assumption | with_reducible apply kept_readOp | (with_reducible apply Kept.fst; assumption))
    | split
    | dsimp only

theorem kept_refRows {q₀ : List Instr} {f₀ : Fuses} {T₀ : Prop} {env : Env} {o : Op} {c : RefCmd} {x : List Long} {y0 : Nat} {y1 : Nat} {y2 : State}
    (h_y2 : Kept q₀ f₀ T₀ y2) : Kept q₀ f₀ T₀ (refRows env o c x y0 y1 y2).1 := by
  unfold refRows
  repeat' first
    | (with_reducible apply Kept.upd; first | with_reducible assumption | with_reducible apply kept_readOp | with_reducible apply kept_refRow | with_reducible apply kept_refRows | (with_reducible apply Kept.fst; assumption))
    | split

theorem kept_residualDone {q₀ : List Instr} {f₀ : Fuses} {T₀ : Prop} {s : State} {o : Op} {c : RefCmd} {core : Nat} {b : Nat} {vs : List (Nat × Nat × IFlags)}
    (h_s : Kept q₀ f₀ T₀ s) : Kept q₀ f₀ T₀ (residualDone s o c core b vs) := by
  unfold residualDone
  repeat' first
    | intro _
    | (with_reducible apply Kept.upd; first | with_reducible assumption | with_reducible apply kept_modOp | with_reducible apply kept_itemDone)

theorem kept_gridValue {q₀ : List Instr} {f₀ : Fuses} {T₀ : Prop} {s : State} {tolExp : Int} {n : Int}
    (h_s : Kept q₀ f₀ T₀ s) : Kept q₀ f₀ T₀ (gridValue s tolExp n).1 := by
  unfold gridValue
  repeat' first
    | (with_reducible apply Kept.upd; first | with_reducible assumption | with_reducible apply kept_freshNat)
    | split
    | dsimp only

theorem kept_decideAll {q₀ : List Instr} {f₀ : Fuses} {T₀ : Prop} {tolExp : Int} {e : Nat} {y0 : List (Option Long × Long)} {y1 : State} {y2 : IFlags}
    (h_y1 : Kept q₀ f₀ T₀ y1) : Kept q₀ f₀ T₀ (decideAll tolExp e y0 y1 y2).1 := by
  unfold decideAll
  repeat' first
    | (with_reducible apply Kept.upd; first | with_reducible assumption | with_reducible apply kept_gridValue | with_reducible apply kept_decideAll)
    | split
    | dsimp only

theorem kept_writeAll {q₀ : List Instr} {f₀ : Fuses} {T₀ : Prop} {env : Env} {o : Op} {y0 : List (Nat × List Byte)} {y1 : State}
    (h_y1 : Kept q₀ f₀ T₀ y1) : Kept q₀ f₀ T₀ (writeAll env o y0 y1).1 := by
  unfold writeAll
  repeat' first
    | (with_reducible apply Kept.upd; first | with_reducible assumption | with_reducible apply kept_writeOp | with_reducible apply kept_testFences | with_reducible apply kept_writeAll | (with_reducible apply Kept.fst; assumption))
    | split

theorem kept_refineStop {q₀ : List Instr} {f₀ : Fuses} {T₀ : Prop} {s0 : State} {s : State} {env : Env} {o : Op} {c : RefCmd} {core : Nat} {r : RefineSt} {status : Nat}
    (h_s0 : Kept q₀ f₀ T₀ s0) (h_s : Kept q₀ f₀ T₀ s) : Kept q₀ f₀ T₀ (refineStop s0 s env o c core r status) := by
  unfold refineStop
  repeat' first
    | with_reducible assumption
    | with_reducible apply Kept.ite
    | with_reducible apply kept_modOp
    | with_reducible apply kept_afterAccess
    | with_reducible apply kept_itemDone
    | with_reducible apply kept_writeAll
    | with_reducible apply Kept.foldl
    | with_reducible apply Kept.foldl1
    | intro _
    | (with_reducible apply Kept.fst; assumption)
    | (with_reducible apply Kept.snd; assumption)
    | (with_reducible apply Kept.upd; first | with_reducible assumption | with_reducible apply Kept.ite | with_reducible apply kept_modOp | with_reducible apply kept_afterAccess | with_reducible apply kept_itemDone)

theorem kept_decision {q₀ : List Instr} {f₀ : Fuses} {T₀ : Prop} {s0 : State} {env : Env} {o : Op} {c : RefCmd} {core : Nat} {r : RefineSt}
    (h_s0 : Kept q₀ f₀ T₀ s0) : Kept q₀ f₀ T₀ (decision s0 env o c core r) := by
  unfold decision
  repeat' first
    | (with_reducible apply Kept.upd; first | with_reducible assumption | with_reducible apply kept_modOp | with_reducible apply kept_itemDone | with_reducible apply kept_decideAll | with_reducible apply kept_refineStop)
    | split
    | dsimp only

end Sys2Proof.Machine
end

