-- ==== Sys2Proof/Laws/KeptContext.lean ====
section
/-!
SUPPORT. What the operations of Machine/Context.lean keep.
-/

namespace Sys2Proof.Machine

open Sys2Proof

theorem kept_putPieces {q₀ : List Instr} {f₀ : Fuses} {T₀ : Prop} {env : Env} {y0 : List (Target × Nat)} {y1 : List Byte} {y2 : State}
    (h_y2 : Kept q₀ f₀ T₀ y2) : Kept q₀ f₀ T₀ (putPieces env y0 y1 y2) := by
  unfold putPieces
  repeat' first
    | (with_reducible apply Kept.upd; first | with_reducible assumption | with_reducible apply kept_putHost | with_reducible apply kept_writePa | with_reducible apply kept_putPieces)
    | split

theorem kept_getPieces {q₀ : List Instr} {f₀ : Fuses} {T₀ : Prop} {env : Env} {src : Finder} {who : Option Nat} {y0 : List (Target × Nat)} {y1 : State}
    (h_y1 : Kept q₀ f₀ T₀ y1) : Kept q₀ f₀ T₀ (getPieces env src who y0 y1).1 := by
  unfold getPieces
  repeat' first
    | (with_reducible apply Kept.upd; first | with_reducible assumption | with_reducible apply kept_readPa | with_reducible apply kept_hostFail | with_reducible apply kept_getPieces | (with_reducible apply Kept.fst; assumption))
    | split

theorem kept_regionFill {q₀ : List Instr} {f₀ : Fuses} {T₀ : Prop} {s : State} {c : Context} {x : Bank (Memory × Bank SlotDesc)}
    (h_s : Kept q₀ f₀ T₀ s) : Kept q₀ f₀ T₀ (regionFill s c x) :=
  by
  unfold regionFill
  exact Kept.foldl (fun _ e h => kept_modPantry h (fun _ hx => putCells_wf hx _ e.2.1)) _ h_s

theorem kept_moveRegion {q₀ : List Instr} {f₀ : Fuses} {T₀ : Prop} {s : State} {n : Nat} {lo : Nat}
    (h_s : Kept q₀ f₀ T₀ s) : Kept q₀ f₀ T₀ (moveRegion s n lo) := by
  unfold moveRegion
  repeat' first
    | (with_reducible apply Kept.upd; first | with_reducible assumption | with_reducible apply kept_modCtx | with_reducible apply kept_clearRegion | with_reducible apply kept_regionFill)
    | split

theorem kept_compact {q₀ : List Instr} {f₀ : Fuses} {T₀ : Prop} {s : State}
    (h_s : Kept q₀ f₀ T₀ s) : Kept q₀ f₀ T₀ (compact s) :=
  by
  unfold compact
  refine Kept.foldl (fun s b h => ?_) _ h_s
  split
  · split
    · exact h
    · split
      · exact kept_moveRegion h
      · exact h
  · exact h

theorem kept_evict {q₀ : List Instr} {f₀ : Fuses} {T₀ : Prop} {s : State} {env : Env} {n : Nat}
    (h_s : Kept q₀ f₀ T₀ s) : Kept q₀ f₀ T₀ (evict s env n) := by
  unfold evict
  repeat' first
    | (with_reducible apply Kept.upd; first | with_reducible assumption | with_reducible apply kept_modCtx | with_reducible apply kept_freshNat | with_reducible apply kept_testFences | with_reducible apply kept_releaseSlot | with_reducible apply kept_clearRegion | with_reducible apply kept_putPieces)
    | split

theorem kept_makeRoom {q₀ : List Instr} {f₀ : Fuses} {T₀ : Prop} {env : Env} {n len want : Nat} : ∀ {k : Nat} {s : State}, Kept q₀ f₀ T₀ s →
    ∀ r, makeRoom env n len want k s = some r → Kept q₀ f₀ T₀ r.1
  | 0, _, _, _, e => by cases e
  | k + 1, s, h, r, e => by
    have hn : ∀ r, (match evictFirst s n with | some v => makeRoom env n len want k (evict s env v) | none => none) = some r → Kept q₀ f₀ T₀ r.1 := by
      intro r e
      split at e
      · exact kept_makeRoom (kept_evict h) r e
      · cases e
    have hc := kept_compact h
    unfold makeRoom at e
    dsimp only at e
    generalize compact s = s2 at e hc
    split at e
    · cases hp : placeFor s n len want with
      | some b => rw [hp] at e; cases e; exact h
      | none =>
        rw [hp] at e
        cases hp2 : placeFor s2 n len want with
        | some b => rw [hp2] at e; cases e; exact hc
        | none => rw [hp2] at e; exact hn r e
    · exact hn r e

theorem kept_freeCopy {q₀ : List Instr} {f₀ : Fuses} {T₀ : Prop} {s : State} {c : Context}
    (h_s : Kept q₀ f₀ T₀ s) : Kept q₀ f₀ T₀ (freeCopy s c).1 :=
  by
  unfold freeCopy
  refine Kept.foldl1 (fun r p h => ?_) _ h_s
  dsimp only
  exact kept_freshNat (kept_freshNat h)

theorem kept_restore {q₀ : List Instr} {f₀ : Fuses} {T₀ : Prop} {s : State} {env : Env} {n : Nat} {c : Context}
    (h_s : Kept q₀ f₀ T₀ s) : Kept q₀ f₀ T₀ (restore s env n c) := by
  unfold restore
  repeat' first
    | (with_reducible apply Kept.upd; first | with_reducible assumption | with_reducible apply kept_farTimedOut | with_reducible apply kept_clearRegion | with_reducible apply kept_loseCtx3 | with_reducible apply kept_loseCtx | with_reducible apply kept_getPieces | with_reducible apply kept_regionFill | with_reducible apply kept_freeCopy | (with_reducible apply Kept.fst; assumption))
    | split
    | dsimp only

theorem kept_makeResident {q₀ : List Instr} {f₀ : Fuses} {T₀ : Prop} {s : State} {env : Env} {n : Nat} {want : Nat}
    (h_s : Kept q₀ f₀ T₀ s) : ∀ r, (makeResident s env n want) = some r → Kept q₀ f₀ T₀ r :=
  by
  intro r e
  unfold makeResident at e
  split at e
  · cases e
  · split at e
    · cases e; exact kept_modCtx h_s
    · split at e
      · cases e
      · have hk := kept_makeRoom h_s _ ‹makeRoom _ _ _ _ _ _ = some _›
        dsimp only at e hk
        split at e
        · cases e; exact kept_modCtx (kept_restore (kept_modCtx hk))
        · cases e; exact kept_modCtx hk

end Sys2Proof.Machine
end

