-- ==== Sys2Proof/Laws/KeptQueue.lean ====
section
/-!
SUPPORT. What the operations of Machine/Queue.lean keep.
-/

namespace Sys2Proof.Machine

open Sys2Proof

theorem kept_studyStart {q₀ : List Instr} {f₀ : Fuses} {T₀ : Prop} {s : State} {env : Env} {o : Op} {k : Word} {arg : Nat} {len : Nat}
    (h_s : Kept q₀ f₀ T₀ s) : Kept q₀ f₀ T₀ (studyStart s env o k arg len) := by
  unfold studyStart
  repeat' first
    | with_reducible assumption
    | with_reducible apply Kept.ite
    | with_reducible apply kept_modOp
    | with_reducible apply kept_readOp
    | with_reducible apply kept_afterAccess
    | with_reducible apply Kept.foldl
    | with_reducible apply Kept.foldl1
    | intro _
    | (with_reducible apply Kept.fst; assumption)
    | (with_reducible apply Kept.snd; assumption)
    | (with_reducible apply Kept.upd; first | with_reducible assumption | with_reducible apply Kept.ite | with_reducible apply kept_modOp | with_reducible apply kept_readOp | with_reducible apply kept_afterAccess | with_reducible apply Kept.foldl | with_reducible apply Kept.foldl1 | intro _)
    | split

theorem kept_windowStart {q₀ : List Instr} {f₀ : Fuses} {T₀ : Prop} {s : State} {env : Env} {o : Op} {c : WinCmd}
    (h_s : Kept q₀ f₀ T₀ s) : Kept q₀ f₀ T₀ (windowStart s env o c) := by
  unfold windowStart
  repeat' first
    | with_reducible assumption
    | with_reducible apply Kept.ite
    | with_reducible apply kept_modOp
    | with_reducible apply kept_readOp
    | with_reducible apply kept_afterAccess
    | with_reducible apply Kept.foldl
    | with_reducible apply Kept.foldl1
    | intro _

theorem kept_armWait {q₀ : List Instr} {f₀ : Fuses} {T₀ : Prop} {s : State} {o : Op}
    (h_s : Kept q₀ f₀ T₀ s) : Kept q₀ f₀ T₀ (armWait s o) := by
  unfold armWait
  repeat' first
    | (with_reducible apply Kept.upd; first | with_reducible assumption | with_reducible apply kept_modQueue | with_reducible apply kept_modOp | with_reducible apply kept_audTake | with_reducible apply kept_audPass | with_reducible apply kept_testFences)
    | split

theorem kept_beginOp {q₀ : List Instr} {f₀ : Fuses} {T₀ : Prop} {s : State} {env : Env} {o : Op}
    (h_s : Kept q₀ f₀ T₀ s) : Kept q₀ f₀ T₀ (beginOp s env o) := by
  unfold beginOp
  repeat' first
    | (with_reducible apply Kept.upd; first | with_reducible assumption | with_reducible apply kept_modOp | with_reducible apply kept_addStream | with_reducible apply kept_refineStart | with_reducible apply kept_studyStart | with_reducible apply kept_windowStart | with_reducible apply kept_armWait)
    | split

theorem kept_startOp {q₀ : List Instr} {f₀ : Fuses} {T₀ : Prop} {s : State} {env : Env} {o : Op}
    (h_s : Kept q₀ f₀ T₀ s) : Kept q₀ f₀ T₀ (startOp s env o) := by
  unfold startOp
  repeat' first
    | (with_reducible apply Kept.upd; first | with_reducible assumption | with_reducible apply kept_modOp | with_reducible apply kept_beginOp)

theorem kept_startGo {q₀ : List Instr} {f₀ : Fuses} {T₀ : Prop} {q : Nat} {env : Env} {y0 : Nat} {y1 : State}
    (h_y1 : Kept q₀ f₀ T₀ y1) : Kept q₀ f₀ T₀ (startGo q env y0 y1) := by
  unfold startGo
  repeat' first
    | (with_reducible apply Kept.upd; first | with_reducible assumption | with_reducible apply kept_startOp | with_reducible apply kept_startGo)
    | split

theorem kept_retryBegin {q₀ : List Instr} {f₀ : Fuses} {T₀ : Prop} {q : Nat} {env : Env} {s : State}
    (h_s : Kept q₀ f₀ T₀ s) : Kept q₀ f₀ T₀ (retryBegin q env s) := by
  unfold retryBegin
  repeat' first
    | intro _
    | (with_reducible apply Kept.upd; first | with_reducible assumption | with_reducible apply kept_beginOp | with_reducible apply Kept.foldl)

theorem kept_runQueue {q₀ : List Instr} {f₀ : Fuses} {T₀ : Prop} {q : Nat} {env : Env} {s : State}
    (h_s : Kept q₀ f₀ T₀ s) : Kept q₀ f₀ T₀ (runQueue q env s) := by
  unfold runQueue
  repeat' first
    | (with_reducible apply Kept.upd; first | with_reducible assumption | with_reducible apply kept_startGo | with_reducible apply kept_retryBegin)

theorem kept_decoded {q₀ : List Instr} {f₀ : Fuses} {T₀ : Prop} {s0 : State} {s : State} {n : Nat} {q : Queue} {o : Op}
    (h_s0 : Kept q₀ f₀ T₀ s0) (h_s : Kept q₀ f₀ T₀ s) : Kept q₀ f₀ T₀ (decoded s0 s n q o) := by
  unfold decoded
  repeat' first
    | (with_reducible apply Kept.upd; first | with_reducible assumption | with_reducible apply kept_modQueue | with_reducible apply kept_audTake | with_reducible apply kept_arbCount)

theorem kept_decodeEntry {q₀ : List Instr} {f₀ : Fuses} {T₀ : Prop} {s0 : State} {env : Env} {n : Nat} {q : Queue} {mine : Nat → Bool}
    (h_s0 : Kept q₀ f₀ T₀ s0) : Kept q₀ f₀ T₀ (decodeEntry s0 env n q mine) := by
  unfold decodeEntry
  repeat' first
    | (with_reducible apply Kept.upd; first | with_reducible assumption | with_reducible apply kept_farTimedOut | with_reducible apply kept_readVa | with_reducible apply kept_poisonRead | with_reducible apply kept_farPoisonRead | with_reducible apply kept_decoded | (with_reducible apply Kept.fst; assumption))
    | split

theorem kept_opWait {q₀ : List Instr} {f₀ : Fuses} {T₀ : Prop} {s : State} {n : Nat} {q : Queue}
    (h_s : Kept q₀ f₀ T₀ s) : Kept q₀ f₀ T₀ (opWait s n q) := by
  unfold opWait
  repeat' first
    | (with_reducible apply Kept.upd; with_reducible assumption)
    | split

theorem kept_queueRow {q₀ : List Instr} {f₀ : Fuses} {T₀ : Prop} {mine : Nat → Bool} {n : Nat} {env : Env} {s : State}
    (h_s : Kept q₀ f₀ T₀ s) : Kept q₀ f₀ T₀ (queueRow mine n env s) := by
  unfold queueRow
  repeat' first
    | (with_reducible apply Kept.upd; first | with_reducible assumption | with_reducible apply kept_runQueue | with_reducible apply kept_decodeEntry | with_reducible apply kept_opWait)
    | split

theorem kept_writeRecord {q₀ : List Instr} {f₀ : Fuses} {T₀ : Prop} {s : State} {env : Env} {q : Queue} {idx : Nat} {bs : List Byte}
    (h_s : Kept q₀ f₀ T₀ s) : Kept q₀ f₀ T₀ (writeRecord s env q idx bs) := by
  unfold writeRecord
  repeat' first
    | (with_reducible apply Kept.upd; first | with_reducible assumption | with_reducible apply kept_writeVa | with_reducible apply kept_testFences)

theorem kept_signalRemote {q₀ : List Instr} {f₀ : Fuses} {T₀ : Prop} {s : State} {o : Op} {n : Nat} {e : Nat} {off : Nat}
    (h_s : Kept q₀ f₀ T₀ s) : Kept q₀ f₀ T₀ (signalRemote s o n e off) := by
  unfold signalRemote
  repeat' first
    | (with_reducible apply Kept.upd; first | with_reducible assumption | with_reducible apply kept_newReq)
    | split

theorem kept_signalUpdate {q₀ : List Instr} {f₀ : Fuses} {T₀ : Prop} {s : State} {env : Env} {o : Op}
    (h_s : Kept q₀ f₀ T₀ s) : Kept q₀ f₀ T₀ (signalUpdate s env o).1 := by
  unfold signalUpdate
  repeat' first
    | (with_reducible apply Kept.upd; first | with_reducible assumption | with_reducible apply kept_emit | with_reducible apply kept_elog | with_reducible apply kept_readPa | with_reducible apply kept_translate | with_reducible apply kept_hostFail | with_reducible apply kept_countReqs | with_reducible apply kept_poisonRead | with_reducible apply kept_putLong | with_reducible apply kept_dropSignal | with_reducible apply kept_signalRemote | (with_reducible apply Kept.fst; assumption))
    | split

theorem kept_finishOp {q₀ : List Instr} {f₀ : Fuses} {T₀ : Prop} {s : State} {env : Env} {q : Queue} {o : Op} {st : Status}
    (h_s : Kept q₀ f₀ T₀ s) : Kept q₀ f₀ T₀ (finishOp s env q o st) := by
  unfold finishOp
  repeat' first
    | (with_reducible apply Kept.upd; first | with_reducible assumption | with_reducible apply kept_raiseQueueVec | with_reducible apply kept_writeRecord | with_reducible apply kept_signalUpdate)
    | split
    | dsimp only

theorem kept_leaveFlight {q₀ : List Instr} {f₀ : Fuses} {T₀ : Prop} {s : State} {id : OpId}
    (h_s : Kept q₀ f₀ T₀ s) : Kept q₀ f₀ T₀ (leaveFlight s id) := by
  unfold leaveFlight
  repeat' first
    | (with_reducible apply Kept.upd; first | with_reducible assumption | with_reducible apply kept_audGive)

theorem kept_countRefine {q₀ : List Instr} {f₀ : Fuses} {T₀ : Prop} {s : State} {o : Op} {st : Status}
    (h_s : Kept q₀ f₀ T₀ s) : Kept q₀ f₀ T₀ (countRefine s o st) := by
  unfold countRefine
  repeat' first
    | (with_reducible apply Kept.upd; with_reducible assumption)
    | split

end Sys2Proof.Machine
end

