-- ==== Sys2Proof/Laws/KeptRegs.lean ====
section
/-!
SUPPORT. What the operations of Machine/Regs.lean keep.
-/

namespace Sys2Proof.Machine

open Sys2Proof

theorem kept_captureHi {q₀ : List Instr} {f₀ : Fuses} {T₀ : Prop} {s : State} {off : Nat}
    (h_s : Kept q₀ f₀ T₀ s) : Kept q₀ f₀ T₀ (captureHi s off) := by
  unfold captureHi
  repeat' first
    | (with_reducible apply Kept.upd; first | with_reducible assumption | with_reducible apply kept_modWin | with_reducible apply kept_modDumb)
    | split

theorem kept_readWord {q₀ : List Instr} {f₀ : Fuses} {T₀ : Prop} {s : State} {bar2 : Bool} {off : Nat} {be : BitVec 4}
    (h_s : Kept q₀ f₀ T₀ s) : Kept q₀ f₀ T₀ (readWord s bar2 off be).1 := by
  unfold readWord
  repeat' first
    | (with_reducible apply Kept.upd; first | with_reducible assumption | with_reducible apply kept_captureHi)
    | split

theorem kept_writeRange {q₀ : List Instr} {f₀ : Fuses} {T₀ : Prop} {s : State} {e : Nat} {r : Nat} {val : Word}
    (h_s : Kept q₀ f₀ T₀ s) : Kept q₀ f₀ T₀ (writeRange s e r val) := by
  unfold writeRange
  repeat' first
    | (with_reducible apply Kept.upd; with_reducible assumption)
    | split
    | dsimp only

theorem kept_sendPending {q₀ : List Instr} {f₀ : Fuses} {T₀ : Prop} {s : State} {v : Nat}
    (h_s : Kept q₀ f₀ T₀ s) : Kept q₀ f₀ T₀ (sendPending s v) := by
  unfold sendPending
  repeat' first
    | (with_reducible apply Kept.upd; first | with_reducible assumption | with_reducible apply kept_emit | with_reducible apply kept_modMsix)
    | split
    | dsimp only

theorem kept_writeMsix {q₀ : List Instr} {f₀ : Fuses} {T₀ : Prop} {s : State} {v : Nat} {r : Nat} {val : Word}
    (h_s : Kept q₀ f₀ T₀ s) : Kept q₀ f₀ T₀ (writeMsix s v r val) := by
  unfold writeMsix
  repeat' first
    | (with_reducible apply Kept.upd; first | with_reducible assumption | with_reducible apply kept_modMsix | with_reducible apply kept_sendPending)
    | split

theorem kept_writeCorr {q₀ : List Instr} {f₀ : Fuses} {T₀ : Prop} {s : State} {o : Nat} {val : Word} {hw : HwUpd}
    (h_s : Kept q₀ f₀ T₀ s) : Kept q₀ f₀ T₀ (writeCorr s o val hw) := by
  unfold writeCorr
  repeat' first
    | (with_reducible apply Kept.upd; first | with_reducible assumption | with_reducible apply kept_freezeCapture | with_reducible apply kept_freezeRelease)
    | split

theorem kept_writeSensor {q₀ : List Instr} {f₀ : Fuses} {T₀ : Prop} {s : State} {n : Nat} {val : Word} {hw : HwUpd}
    (h_s : Kept q₀ f₀ T₀ s) : Kept q₀ f₀ T₀ (writeSensor s n val hw) := by
  unfold writeSensor
  repeat' first
    | (with_reducible apply Kept.upd; first | with_reducible assumption | with_reducible apply kept_putSensor | with_reducible apply kept_sensorBreak | with_reducible apply kept_rangeSet)
    | split
    | dsimp only

theorem kept_writeRtdCfg {q₀ : List Instr} {f₀ : Fuses} {T₀ : Prop} {s : State} {n : Nat} {val : Word}
    (h_s : Kept q₀ f₀ T₀ s) : Kept q₀ f₀ T₀ (writeRtdCfg s n val) := by
  unfold writeRtdCfg
  repeat' first
    | (with_reducible apply Kept.upd; first | with_reducible assumption | with_reducible apply kept_putSensor)
    | split
    | dsimp only

theorem kept_writeThermo {q₀ : List Instr} {f₀ : Fuses} {T₀ : Prop} {s : State} {o : Nat} {val : Word} {hw : HwUpd}
    (h_s : Kept q₀ f₀ T₀ s) : Kept q₀ f₀ T₀ (writeThermo s o val hw) := by
  unfold writeThermo
  repeat' first
    | (with_reducible apply Kept.upd; first | with_reducible assumption | with_reducible apply kept_startLoops | with_reducible apply kept_writeAux | with_reducible apply kept_writeSlprof | with_reducible apply kept_writeGen | with_reducible apply kept_auxLost | with_reducible apply kept_writeSensor | with_reducible apply kept_writeRtdCfg)
    | split

theorem kept_writePower {q₀ : List Instr} {f₀ : Fuses} {T₀ : Prop} {s : State} {o : Nat} {val : Word} {hw : HwUpd}
    (h_s : Kept q₀ f₀ T₀ s) : Kept q₀ f₀ T₀ (writePower s o val hw) := by
  unfold writePower
  repeat' first
    | (with_reducible apply Kept.upd; first | with_reducible assumption | with_reducible apply kept_setAlert)
    | split

theorem kept_writeRcvData {q₀ : List Instr} {f₀ : Fuses} {T₀ : Prop} {s : State} {val : Word}
    (h_s : Kept q₀ f₀ T₀ s) : Kept q₀ f₀ T₀ (writeRcvData s val) := by
  unfold writeRcvData
  repeat' first
    | (with_reducible apply Kept.upd; with_reducible assumption)

theorem kept_writeHostReg {q₀ : List Instr} {f₀ : Fuses} {T₀ : Prop} {s : State} {o : Nat} {val : Word} {hw : HwUpd}
    (h_s : Kept q₀ f₀ T₀ s) : Kept q₀ f₀ T₀ (writeHostReg s o val hw) := by
  unfold writeHostReg
  repeat' first
    | (with_reducible apply Kept.upd; with_reducible assumption)
    | split

theorem kept_writeHeaterReg {q₀ : List Instr} {f₀ : Fuses} {T₀ : Prop} {s : State} {h : Nat} {val : Word} {hw : HwUpd}
    (h_s : Kept q₀ f₀ T₀ s) : Kept q₀ f₀ T₀ (writeHeaterReg s h val hw) := by
  unfold writeHeaterReg
  repeat' first
    | (with_reducible apply Kept.upd; first | with_reducible assumption | with_reducible apply kept_tripHeater | with_reducible apply kept_writeHeater)
    | split
    | dsimp only

/-- A register write of a Pantry leaves its bytes. -/
theorem writePantry_sram (x : Pantry) (o : Nat) (val : Word) (hw : HwUpd) : (writePantry x o val hw).sram = x.sram := by
  unfold writePantry; split <;> rfl
/-- A register write of device memory leaves its bytes, poison and scrub queues. -/
theorem writeMem_data (m : Mem) (o : Nat) (val : Word) (hw : HwUpd) : (writeMem m o val hw).data = m.data ∧
    (writeMem m o val hw).poison = m.poison ∧ (writeMem m o val hw).scrubC = m.scrubC ∧ (writeMem m o val hw).scrubL = m.scrubL := by
  unfold writeMem
  split
  case h_7 => split <;> first | exact ⟨rfl, rfl, rfl, rfl⟩ | (split <;> exact ⟨rfl, rfl, rfl, rfl⟩)
  all_goals exact ⟨rfl, rfl, rfl, rfl⟩
theorem writeMem_kept {q₀ : List Instr} {f₀ : Fuses} {T₀ : Prop} {s : State} {o : Nat} {val : Word} {hw : HwUpd} (h : Kept q₀ f₀ T₀ s) :
    Kept q₀ f₀ T₀ { s with mem := writeMem s.mem o val hw } := by
  obtain ⟨h1, h2, h3, h4⟩ := writeMem_data s.mem o val hw
  refine ⟨h.pend, h.fuse, fun t => ?_⟩
  have k := h.tidy t
  exact { k with mem := by rw [h1]; exact k.mem, poison := by rw [h2]; exact k.poison, scrubC := by rw [h3]; exact k.scrubC, scrubL := by rw [h4]; exact k.scrubL }

theorem kept_writeLow {q₀ : List Instr} {f₀ : Fuses} {T₀ : Prop} {s : State} {off : Nat} {val : Word} {hw : HwUpd} (h : Kept q₀ f₀ T₀ s) :
    Kept q₀ f₀ T₀ (writeLow s off val hw) := by
  unfold writeLow
  dsimp only
  repeat' first
    | with_reducible apply Kept.ite
    | with_reducible assumption
    | with_reducible apply kept_modWin
    | with_reducible apply kept_modDumb
    | with_reducible apply kept_writeRange
    | with_reducible apply kept_writeCorr
    | with_reducible apply kept_writeThermo
    | with_reducible apply kept_writeHostReg
    | exact kept_modPantry h (fun _ hx => by rw [writePantry_sram]; exact hx)
    | with_reducible exact writeMem_kept h
    | (with_reducible apply Kept.upd; with_reducible assumption)

theorem kept_writeHigh {q₀ : List Instr} {f₀ : Fuses} {T₀ : Prop} {s : State} {off : Nat} {val : Word} {hw : HwUpd}
    (h_s : Kept q₀ f₀ T₀ s) : Kept q₀ f₀ T₀ (writeHigh s off val hw) := by
  unfold writeHigh
  repeat' first
    | with_reducible assumption
    | with_reducible apply Kept.ite
    | with_reducible apply kept_modDoor
    | with_reducible apply kept_writeMsix
    | with_reducible apply kept_writePower
    | with_reducible apply kept_writeRcvData
    | with_reducible apply kept_writeHeaterReg
    | with_reducible apply Kept.foldl
    | with_reducible apply Kept.foldl1
    | intro _
    | (with_reducible apply Kept.fst; assumption)
    | (with_reducible apply Kept.snd; assumption)
    | (with_reducible apply Kept.upd; first | with_reducible assumption | with_reducible apply Kept.ite | with_reducible apply kept_modDoor | with_reducible apply kept_writeMsix | with_reducible apply kept_writePower | with_reducible apply kept_writeRcvData | with_reducible apply kept_writeHeaterReg | with_reducible apply Kept.foldl | with_reducible apply Kept.foldl1 | intro _)
    | split

theorem kept_badSize {q₀ : List Instr} {f₀ : Fuses} {T₀ : Prop} {s : State}
    (h_s : Kept q₀ f₀ T₀ s) : Kept q₀ f₀ T₀ (badSize s) := by
  unfold badSize
  repeat' first
    | (with_reducible apply Kept.upd; with_reducible assumption)

theorem kept_judge {q₀ : List Instr} {f₀ : Fuses} {T₀ : Prop} {s : State} {bar : Nat} {off : Nat} {be : BitVec 4} {more : Option Word2}
    (h_s : Kept q₀ f₀ T₀ s) : Kept q₀ f₀ T₀ (judge s bar off be more).1 := by
  unfold judge
  repeat' first
    | (with_reducible apply Kept.upd; first | with_reducible assumption | with_reducible apply kept_aer | with_reducible apply kept_badSize)
    | split
    | dsimp only

theorem kept_sendAllPending {q₀ : List Instr} {f₀ : Fuses} {T₀ : Prop} {s : State}
    (h_s : Kept q₀ f₀ T₀ s) : Kept q₀ f₀ T₀ (sendAllPending s) := by
  unfold sendAllPending
  repeat' first
    | intro _
    | (with_reducible apply Kept.upd; first | with_reducible assumption | with_reducible apply kept_sendPending | with_reducible apply Kept.foldl)

end Sys2Proof.Machine
end

