-- ==== Sys2Proof/Laws/KeptLetterbox.lean ====
section
/-!
SUPPORT. What the operations of Machine/Letterbox.lean keep.
-/

namespace Sys2Proof.Machine

open Sys2Proof

theorem kept_mbMod {q₀ : List Instr} {f₀ : Fuses} {T₀ : Prop} {s : State} {mb : MbRef} {f : Mailbox → Mailbox}
    (h_s : Kept q₀ f₀ T₀ s) : Kept q₀ f₀ T₀ (mbMod s mb f) := by
  unfold mbMod
  repeat' first
    | (with_reducible apply Kept.upd; with_reducible assumption)
    | split

theorem kept_mbTake {q₀ : List Instr} {f₀ : Fuses} {T₀ : Prop} {s : State} {mb : MbRef}
    (h_s : Kept q₀ f₀ T₀ s) : Kept q₀ f₀ T₀ (mbTake s mb) := by
  unfold mbTake
  repeat' first
    | (with_reducible apply Kept.upd; first | with_reducible assumption | with_reducible apply kept_mbMod)

theorem kept_mbAnswer {q₀ : List Instr} {f₀ : Fuses} {T₀ : Prop} {s : State} {mb : MbRef} {st : Status} {vs : List Nat}
    (h_s : Kept q₀ f₀ T₀ s) : Kept q₀ f₀ T₀ (mbAnswer s mb st vs) := by
  unfold mbAnswer
  repeat' first
    | (with_reducible apply Kept.upd; first | with_reducible assumption | with_reducible apply kept_raiseVec | with_reducible apply kept_raiseEvent | with_reducible apply kept_mbMod)
    | split
    | dsimp only

theorem kept_refuse {q₀ : List Instr} {f₀ : Fuses} {T₀ : Prop} {s : State} {st : Status}
    (h_s : Kept q₀ f₀ T₀ s) : Kept q₀ f₀ T₀ (refuse s st).1 := by
  unfold refuse
  repeat' first
    | (with_reducible apply Kept.upd; with_reducible assumption)

theorem kept_lbIdle {q₀ : List Instr} {f₀ : Fuses} {T₀ : Prop} {y0 : Nat} {y1 : State}
    (h_y1 : Kept q₀ f₀ T₀ y1) : Kept q₀ f₀ T₀ (lbIdle y0 y1) := by
  unfold lbIdle
  repeat' first
    | (with_reducible apply Kept.upd; first | with_reducible assumption | with_reducible apply kept_mbTake | with_reducible apply kept_mbAnswer | with_reducible apply kept_lbIdle)
    | split
    | dsimp only

theorem kept_lbStep {q₀ : List Instr} {f₀ : Fuses} {T₀ : Prop} {mb : MbRef} {code : Nat} {user : Bool} {body : State → Mailbox → State × Ans} {s : State}
    (h_body : ∀ x0 x1, Kept q₀ f₀ T₀ x0 → Kept q₀ f₀ T₀ (body x0 x1).1) (h_s : Kept q₀ f₀ T₀ s) : Kept q₀ f₀ T₀ (lbStep mb code user body s) := by
  unfold lbStep
  repeat' first
    | (with_reducible apply Kept.upd; first | with_reducible assumption | with_reducible apply kept_mbTake | with_reducible apply kept_mbAnswer | with_reducible apply kept_lbIdle | (with_reducible apply Kept.fst; assumption))
    | split
    | apply h_body
    | dsimp only

theorem kept_onCtx {q₀ : List Instr} {f₀ : Fuses} {T₀ : Prop} {mb : MbRef} {k : State →   Mailbox → Nat → Context → State × Ans} {s : State} {m : Mailbox}
    (h_k : ∀ x0 x1 x2 x3, Kept q₀ f₀ T₀ x0 → Kept q₀ f₀ T₀ (k x0 x1 x2 x3).1) (h_s : Kept q₀ f₀ T₀ s) : Kept q₀ f₀ T₀ (onCtx mb k s m).1 := by
  unfold onCtx
  repeat' first
    | (with_reducible apply Kept.upd; first | with_reducible assumption | with_reducible apply kept_refuse)
    | split
    | apply h_k

theorem kept_onQueue {q₀ : List Instr} {f₀ : Fuses} {T₀ : Prop} {mb : MbRef} {k : State →   Mailbox → Nat → Queue → State × Ans} {s : State} {m : Mailbox}
    (h_k : ∀ x0 x1 x2 x3, Kept q₀ f₀ T₀ x0 → Kept q₀ f₀ T₀ (k x0 x1 x2 x3).1) (h_s : Kept q₀ f₀ T₀ s) : Kept q₀ f₀ T₀ (onQueue mb k s m).1 := by
  unfold onQueue
  repeat' first
    | (with_reducible apply Kept.upd; first | with_reducible assumption | with_reducible apply kept_refuse)
    | split
    | apply h_k

theorem kept_answerUnknown {q₀ : List Instr} {f₀ : Fuses} {T₀ : Prop} {s : State} {mb : MbRef}
    (h_s : Kept q₀ f₀ T₀ s) : Kept q₀ f₀ T₀ (answerUnknown s mb) := by
  unfold answerUnknown
  repeat' first
    | (with_reducible apply Kept.upd; first | with_reducible assumption | with_reducible apply kept_mbAnswer)
    | split
    | dsimp only

theorem kept_mbWrite {q₀ : List Instr} {f₀ : Fuses} {T₀ : Prop} {s : State} {mb : MbRef} {off : Nat} {val : Word} {hwTake : Bool}
    (h_s : Kept q₀ f₀ T₀ s) : Kept q₀ f₀ T₀ (mbWrite s mb off val hwTake) := by
  unfold mbWrite
  repeat' first
    | (with_reducible apply Kept.upd; first | with_reducible assumption | with_reducible apply kept_mbMod | with_reducible apply kept_answerUnknown)
    | split
    | dsimp only

theorem kept_mailboxWord {q₀ : List Instr} {f₀ : Fuses} {T₀ : Prop} {s : State} {mb : MbRef} {off : Nat} {val : Word} {hwTake : Bool}
    (h_s : Kept q₀ f₀ T₀ s) : Kept q₀ f₀ T₀ (mailboxWord s mb off val hwTake) := by
  unfold mailboxWord
  repeat' first
    | (with_reducible apply Kept.upd; first | with_reducible assumption | with_reducible apply kept_lbIdle | with_reducible apply kept_mbWrite)
    | split
    | dsimp only

end Sys2Proof.Machine
end

