-- ==== Sys2Proof/Laws/KeptLbObject.lean ====
section
/-!
SUPPORT. What the operations of Machine/LbObject.lean keep.
-/

namespace Sys2Proof.Machine

open Sys2Proof

theorem kept_bodyCtxCreate {q₀ : List Instr} {f₀ : Fuses} {T₀ : Prop} {s : State} {m : Mailbox}
    (h_s : Kept q₀ f₀ T₀ s) : Kept q₀ f₀ T₀ (bodyCtxCreate s m).1 := by
  unfold bodyCtxCreate
  repeat' first
    | (with_reducible apply Kept.upd; first | with_reducible assumption | with_reducible apply kept_refuse)
    | split
    | dsimp only

theorem kept_bodyCtxPin {q₀ : List Instr} {f₀ : Fuses} {T₀ : Prop} {mb : MbRef} {base : Nat} {env : Env} {y0 : State} {y1 : Mailbox}
    (h_y0 : Kept q₀ f₀ T₀ y0) : Kept q₀ f₀ T₀ (bodyCtxPin mb base env y0 y1).1 := by
  unfold bodyCtxPin
  repeat' first
    | with_reducible assumption
    | with_reducible apply Kept.ite
    | with_reducible apply kept_modCtx
    | (refine kept_makeResident ?_ _ (by assumption))
    | with_reducible apply kept_refuse
    | with_reducible apply kept_onCtx
    | with_reducible apply Kept.foldl
    | with_reducible apply Kept.foldl1
    | intro _
    | (with_reducible apply Kept.fst; assumption)
    | (with_reducible apply Kept.snd; assumption)
    | (with_reducible apply Kept.upd; first | with_reducible assumption | with_reducible apply Kept.ite | with_reducible apply kept_modCtx | (refine kept_makeResident ?_ _ (by assumption)) | with_reducible apply kept_refuse | with_reducible apply kept_onCtx | with_reducible apply Kept.foldl | with_reducible apply Kept.foldl1 | intro _)
    | split

theorem kept_bodyQueueCreate {q₀ : List Instr} {f₀ : Fuses} {T₀ : Prop} {base : Nat} {env : Env} {s : State} {m : Mailbox}
    (h_s : Kept q₀ f₀ T₀ s) : Kept q₀ f₀ T₀ (bodyQueueCreate base env s m).1 :=
  by
  unfold bodyQueueCreate
  dsimp only
  split
  · exact kept_refuse h_s
  · split
    · exact kept_refuse h_s
    · split
      · exact kept_refuse h_s
      · split
        · exact kept_refuse h_s
        · split
          · rename_i hq
            have hk : Kept q₀ f₀ T₀ ‹State› := by
              split at hq
              · exact kept_makeResident h_s _ hq
              · cases hq; exact h_s
            exact Kept.upd hk
          · exact kept_refuse h_s

theorem kept_abortOne {q₀ : List Instr} {f₀ : Fuses} {T₀ : Prop} {env : Env} {n : Nat} {q : Queue} {s : State} {idx : Nat}
    (h_s : Kept q₀ f₀ T₀ s) : Kept q₀ f₀ T₀ (abortOne env n q s idx) := by
  unfold abortOne
  repeat' first
    | (with_reducible apply Kept.upd; first | with_reducible assumption | with_reducible apply kept_raiseVec | with_reducible apply kept_writeRecord)
    | split
    | dsimp only

theorem kept_abortPending {q₀ : List Instr} {f₀ : Fuses} {T₀ : Prop} {s : State} {env : Env} {n : Nat}
    (h_s : Kept q₀ f₀ T₀ s) : Kept q₀ f₀ T₀ (abortPending s env n) := by
  unfold abortPending
  repeat' first
    | intro _
    | (with_reducible apply Kept.upd; first | with_reducible assumption | with_reducible apply kept_modQueue | with_reducible apply kept_abortOne | with_reducible apply Kept.foldl)
    | split

theorem kept_forceBegin {q₀ : List Instr} {f₀ : Fuses} {T₀ : Prop} {s : State} {env : Env} {n : Nat}
    (h_s : Kept q₀ f₀ T₀ s) : Kept q₀ f₀ T₀ (forceBegin s env n) := by
  unfold forceBegin
  repeat' first
    | (with_reducible apply Kept.upd; first | with_reducible assumption | with_reducible apply kept_modQueue | with_reducible apply kept_audGive | with_reducible apply kept_abortPending)
    | split

theorem kept_dropQueue {q₀ : List Instr} {f₀ : Fuses} {T₀ : Prop} {s : State} {n : Nat}
    (h_s : Kept q₀ f₀ T₀ s) : Kept q₀ f₀ T₀ (dropQueue s n) := by
  unfold dropQueue
  repeat' first
    | (with_reducible apply Kept.upd; with_reducible assumption)

theorem kept_bodyQueueDestroy {q₀ : List Instr} {f₀ : Fuses} {T₀ : Prop} {mb : MbRef} {env : Env} {y0 : State} {y1 : Mailbox}
    (h_y0 : Kept q₀ f₀ T₀ y0) : Kept q₀ f₀ T₀ (bodyQueueDestroy mb env y0 y1).1 := by
  unfold bodyQueueDestroy
  repeat' first
    | with_reducible assumption
    | with_reducible apply Kept.ite
    | with_reducible apply kept_refuse
    | with_reducible apply kept_onQueue
    | with_reducible apply kept_forceBegin
    | with_reducible apply kept_dropQueue
    | with_reducible apply Kept.foldl
    | with_reducible apply Kept.foldl1
    | intro _
    | (with_reducible apply Kept.fst; assumption)
    | (with_reducible apply Kept.snd; assumption)
    | (with_reducible apply Kept.upd; first | with_reducible assumption | with_reducible apply Kept.ite | with_reducible apply kept_refuse | with_reducible apply kept_onQueue | with_reducible apply kept_forceBegin | with_reducible apply kept_dropQueue | with_reducible apply Kept.foldl | with_reducible apply Kept.foldl1 | intro _)
    | split
    | dsimp only

theorem kept_onHalted {q₀ : List Instr} {f₀ : Fuses} {T₀ : Prop} {mb : MbRef} {k : State →   OpId → Context → State × Ans} {y0 : State} {y1 : Mailbox}
    (h_k : ∀ x0 x1 x2, Kept q₀ f₀ T₀ x0 → Kept q₀ f₀ T₀ (k x0 x1 x2).1) (h_y0 : Kept q₀ f₀ T₀ y0) : Kept q₀ f₀ T₀ (onHalted mb k y0 y1).1 := by
  unfold onHalted
  repeat' first
    | with_reducible assumption
    | with_reducible apply Kept.ite
    | with_reducible apply kept_refuse
    | with_reducible apply kept_onCtx
    | with_reducible apply Kept.foldl
    | with_reducible apply Kept.foldl1
    | intro _
    | (with_reducible apply Kept.fst; assumption)
    | (with_reducible apply Kept.snd; assumption)
    | (with_reducible apply Kept.upd; first | with_reducible assumption | with_reducible apply Kept.ite | with_reducible apply kept_refuse | with_reducible apply kept_onCtx | with_reducible apply Kept.foldl | with_reducible apply Kept.foldl1 | intro _)
    | split
    | apply h_k
    | dsimp only

theorem kept_resumeOne {q₀ : List Instr} {f₀ : Fuses} {T₀ : Prop} {s : State} {e : Nat × Stream}
    (h_s : Kept q₀ f₀ T₀ s) : Kept q₀ f₀ T₀ (resumeOne s e) := by
  unfold resumeOne
  repeat' first
    | (with_reducible apply Kept.upd; first | with_reducible assumption | with_reducible apply kept_resumeStream | with_reducible apply kept_dropStudyStream)
    | split
    | dsimp only

theorem kept_bodyResvSet {q₀ : List Instr} {f₀ : Fuses} {T₀ : Prop} {mb : MbRef} {y0 : State} {y1 : Mailbox}
    (h_y0 : Kept q₀ f₀ T₀ y0) : Kept q₀ f₀ T₀ (bodyResvSet mb y0 y1).1 := by
  unfold bodyResvSet
  repeat' first
    | with_reducible assumption
    | with_reducible apply Kept.ite
    | with_reducible apply kept_audGive
    | with_reducible apply kept_checkGuarantee
    | with_reducible apply kept_dropResv
    | with_reducible apply kept_refuse
    | with_reducible apply kept_onCtx
    | with_reducible apply Kept.foldl
    | with_reducible apply Kept.foldl1
    | intro _
    | (with_reducible apply Kept.fst; assumption)
    | (with_reducible apply Kept.snd; assumption)
    | (with_reducible apply Kept.upd; first | with_reducible assumption | with_reducible apply Kept.ite | with_reducible apply kept_audGive | with_reducible apply kept_checkGuarantee | with_reducible apply kept_dropResv | with_reducible apply kept_refuse | with_reducible apply kept_onCtx | with_reducible apply Kept.foldl | with_reducible apply Kept.foldl1 | intro _)
    | split
    | dsimp only

theorem kept_bodyWindowQualify {q₀ : List Instr} {f₀ : Fuses} {T₀ : Prop} {resA : List (List Int)} {resB : List (List Int)} {s : State} {m : Mailbox}
    (h_s : Kept q₀ f₀ T₀ s) : Kept q₀ f₀ T₀ (bodyWindowQualify resA resB s m).1 := by
  unfold bodyWindowQualify
  repeat' first
    | (with_reducible apply Kept.upd; first | with_reducible assumption | with_reducible apply kept_qualRun | with_reducible apply kept_intoService | with_reducible apply kept_refuse)
    | split
    | dsimp only

theorem kept_drainEvents {q₀ : List Instr} {f₀ : Fuses} {T₀ : Prop} {y0 : List Event} {y1 : State}
    (h_y1 : Kept q₀ f₀ T₀ y1) : Kept q₀ f₀ T₀ (drainEvents y0 y1) := by
  unfold drainEvents
  repeat' first
    | (with_reducible apply Kept.upd; first | with_reducible assumption | with_reducible apply kept_writeEvent | with_reducible apply kept_drainEvents)
    | split

end Sys2Proof.Machine
end

