-- ==== Sys2Proof/Laws/KeptLbMemory.lean ====
section
/-!
SUPPORT. What the operations of Machine/LbMemory.lean keep.
-/

namespace Sys2Proof.Machine

open Sys2Proof

theorem kept_takePage {q₀ : List Instr} {f₀ : Fuses} {T₀ : Prop} {s : State} {o : Owner} {page : Nat}
    (h_s : Kept q₀ f₀ T₀ s) : Kept q₀ f₀ T₀ (takePage s o page) :=
  by
  unfold takePage
  refine ⟨h_s.pend, h_s.fuse, fun t => ?_⟩
  have k := h_s.tidy t
  exact { k with mem := Memory.clear_wf k.mem _ _, poison := k.poison.filter _ }

theorem kept_takePages {q₀ : List Instr} {f₀ : Fuses} {T₀ : Prop} {s : State} {o : Owner} {units : Nat} {ps : List Nat}
    (h_s : Kept q₀ f₀ T₀ s) : Kept q₀ f₀ T₀ (takePages s o units ps) := by
  unfold takePages
  repeat' first
    | intro _
    | (with_reducible apply Kept.upd; first | with_reducible assumption | with_reducible apply kept_takePage | with_reducible apply Kept.foldl)

theorem kept_addMaps {q₀ : List Instr} {f₀ : Fuses} {T₀ : Prop} {s : State} {n : Nat} {ms : List Mapping}
    (h_s : Kept q₀ f₀ T₀ s) : Kept q₀ f₀ T₀ (addMaps s n ms) := by
  unfold addMaps
  repeat' first
    | (with_reducible apply Kept.upd; first | with_reducible assumption | with_reducible apply kept_modCtx)

theorem kept_bodyMemMap {q₀ : List Instr} {f₀ : Fuses} {T₀ : Prop} {mb : MbRef} {want : List Nat} {y0 : State} {y1 : Mailbox}
    (h_y0 : Kept q₀ f₀ T₀ y0) : Kept q₀ f₀ T₀ (bodyMemMap mb want y0 y1).1 := by
  unfold bodyMemMap
  repeat' first
    | with_reducible assumption
    | with_reducible apply Kept.ite
    | with_reducible apply kept_testFences
    | with_reducible apply kept_refuse
    | with_reducible apply kept_onCtx
    | with_reducible apply kept_takePages
    | with_reducible apply kept_addMaps
    | with_reducible apply Kept.foldl
    | with_reducible apply Kept.foldl1
    | intro _
    | (with_reducible apply Kept.fst; assumption)
    | (with_reducible apply Kept.snd; assumption)
    | (with_reducible apply Kept.upd; first | with_reducible assumption | with_reducible apply Kept.ite | with_reducible apply kept_testFences | with_reducible apply kept_refuse | with_reducible apply kept_onCtx | with_reducible apply kept_takePages | with_reducible apply kept_addMaps | with_reducible apply Kept.foldl | with_reducible apply Kept.foldl1 | intro _)
    | split
    | dsimp only

theorem kept_freeMap {q₀ : List Instr} {f₀ : Fuses} {T₀ : Prop} {s : State} {m : Mapping}
    (h_s : Kept q₀ f₀ T₀ s) : Kept q₀ f₀ T₀ (freeMap s m) := by
  unfold freeMap
  repeat' first
    | intro _
    | (with_reducible apply Kept.upd; first | with_reducible assumption | with_reducible apply kept_freePage | with_reducible apply Kept.foldl)
    | split

theorem kept_unmapRange {q₀ : List Instr} {f₀ : Fuses} {T₀ : Prop} {s : State} {n : Nat} {lo : Nat} {len : Nat}
    (h_s : Kept q₀ f₀ T₀ s) : Kept q₀ f₀ T₀ (unmapRange s n lo len) := by
  unfold unmapRange
  repeat' first
    | intro _
    | (with_reducible apply Kept.upd; first | with_reducible assumption | with_reducible apply kept_modCtx | with_reducible apply kept_dtcFlush | with_reducible apply kept_freeMap | with_reducible apply Kept.foldl)
    | split

theorem kept_bodyMemUnmap {q₀ : List Instr} {f₀ : Fuses} {T₀ : Prop} {mb : MbRef} {y0 : State} {y1 : Mailbox}
    (h_y0 : Kept q₀ f₀ T₀ y0) : Kept q₀ f₀ T₀ (bodyMemUnmap mb y0 y1).1 := by
  unfold bodyMemUnmap
  repeat' first
    | with_reducible assumption
    | with_reducible apply Kept.ite
    | with_reducible apply kept_refuse
    | with_reducible apply kept_onCtx
    | with_reducible apply kept_unmapRange
    | with_reducible apply Kept.foldl
    | with_reducible apply Kept.foldl1
    | intro _
    | (with_reducible apply Kept.fst; assumption)
    | (with_reducible apply Kept.snd; assumption)
    | (with_reducible apply Kept.upd; first | with_reducible assumption | with_reducible apply Kept.ite | with_reducible apply kept_refuse | with_reducible apply kept_onCtx | with_reducible apply kept_unmapRange | with_reducible apply Kept.foldl | with_reducible apply Kept.foldl1 | intro _)
    | split
    | dsimp only

theorem kept_bodyMemProtect {q₀ : List Instr} {f₀ : Fuses} {T₀ : Prop} {mb : MbRef} {y0 : State} {y1 : Mailbox}
    (h_y0 : Kept q₀ f₀ T₀ y0) : Kept q₀ f₀ T₀ (bodyMemProtect mb y0 y1).1 := by
  unfold bodyMemProtect
  repeat' first
    | with_reducible assumption
    | with_reducible apply Kept.ite
    | with_reducible apply kept_modCtx
    | with_reducible apply kept_dtcFlush
    | with_reducible apply kept_refuse
    | with_reducible apply kept_onCtx
    | with_reducible apply Kept.foldl
    | with_reducible apply Kept.foldl1
    | intro _
    | (with_reducible apply Kept.fst; assumption)
    | (with_reducible apply Kept.snd; assumption)
    | (with_reducible apply Kept.upd; first | with_reducible assumption | with_reducible apply Kept.ite | with_reducible apply kept_modCtx | with_reducible apply kept_dtcFlush | with_reducible apply kept_refuse | with_reducible apply kept_onCtx | with_reducible apply Kept.foldl | with_reducible apply Kept.foldl1 | intro _)
    | split
    | dsimp only

theorem kept_bodyArenaSet {q₀ : List Instr} {f₀ : Fuses} {T₀ : Prop} {mb : MbRef} {y0 : State} {y1 : Mailbox}
    (h_y0 : Kept q₀ f₀ T₀ y0) : Kept q₀ f₀ T₀ (bodyArenaSet mb y0 y1).1 := by
  unfold bodyArenaSet
  repeat' first
    | with_reducible assumption
    | with_reducible apply Kept.ite
    | with_reducible apply kept_modCtx
    | with_reducible apply kept_refuse
    | with_reducible apply kept_onCtx
    | with_reducible apply Kept.foldl
    | with_reducible apply Kept.foldl1
    | intro _
    | (with_reducible apply Kept.fst; assumption)
    | (with_reducible apply Kept.snd; assumption)
    | (with_reducible apply Kept.upd; first | with_reducible assumption | with_reducible apply Kept.ite | with_reducible apply kept_modCtx | with_reducible apply kept_refuse | with_reducible apply kept_onCtx | with_reducible apply Kept.foldl | with_reducible apply Kept.foldl1 | intro _)
    | split
    | dsimp only

theorem kept_bodyShareCreate {q₀ : List Instr} {f₀ : Fuses} {T₀ : Prop} {mb : MbRef} {shid : Nat} {want : List Nat} {y0 : State} {y1 : Mailbox}
    (h_y0 : Kept q₀ f₀ T₀ y0) : Kept q₀ f₀ T₀ (bodyShareCreate mb shid want y0 y1).1 :=
  by
  unfold bodyShareCreate
  refine kept_onCtx (fun s m n c h => ?_) h_y0
  split
  · exact kept_refuse h
  · split
    · have h' := kept_takePages (o := .share ‹Nat›) (units := 1) (ps := ‹List Nat›) h
      refine ⟨h'.pend, h'.fuse, fun t => ?_⟩
      have k := h'.tidy t
      exact { k with mem := Memory.write_wf _ k.mem _ }
    · exact kept_refuse h

theorem kept_bodyShareMap {q₀ : List Instr} {f₀ : Fuses} {T₀ : Prop} {mb : MbRef} {y0 : State} {y1 : Mailbox}
    (h_y0 : Kept q₀ f₀ T₀ y0) : Kept q₀ f₀ T₀ (bodyShareMap mb y0 y1).1 := by
  unfold bodyShareMap
  repeat' first
    | with_reducible assumption
    | with_reducible apply Kept.ite
    | with_reducible apply kept_audTake
    | with_reducible apply kept_refuse
    | with_reducible apply kept_onCtx
    | with_reducible apply kept_addMaps
    | with_reducible apply Kept.foldl
    | with_reducible apply Kept.foldl1
    | intro _
    | (with_reducible apply Kept.fst; assumption)
    | (with_reducible apply Kept.snd; assumption)
    | (with_reducible apply Kept.upd; first | with_reducible assumption | with_reducible apply Kept.ite | with_reducible apply kept_audTake | with_reducible apply kept_refuse | with_reducible apply kept_onCtx | with_reducible apply kept_addMaps | with_reducible apply Kept.foldl | with_reducible apply Kept.foldl1 | intro _)
    | split
    | dsimp only

theorem kept_countZero {q₀ : List Instr} {f₀ : Fuses} {T₀ : Prop} {s : State} {env : Env} {x : Share}
    (h_s : Kept q₀ f₀ T₀ s) : Kept q₀ f₀ T₀ (countZero s env x).1 := by
  unfold countZero
  repeat' first
    | (with_reducible apply Kept.upd; first | with_reducible assumption | with_reducible apply kept_readPa | (with_reducible apply Kept.fst; assumption))
    | split

theorem kept_freeShare {q₀ : List Instr} {f₀ : Fuses} {T₀ : Prop} {s : State} {k : Nat} {x : Share}
    (h_s : Kept q₀ f₀ T₀ s) : Kept q₀ f₀ T₀ (freeShare s k x) := by
  unfold freeShare
  repeat' first
    | intro _
    | (with_reducible apply Kept.upd; first | with_reducible assumption | with_reducible apply kept_freePage | with_reducible apply Kept.foldl)

theorem kept_unmapShare {q₀ : List Instr} {f₀ : Fuses} {T₀ : Prop} {s : State} {env : Env} {n : Nat} {k : Nat}
    (h_s : Kept q₀ f₀ T₀ s) : Kept q₀ f₀ T₀ (unmapShare s env n k) := by
  unfold unmapShare
  repeat' first
    | intro _
    | (with_reducible apply Kept.upd; first | with_reducible assumption | with_reducible apply kept_modCtx | with_reducible apply kept_audGive | with_reducible apply kept_dtcFlush | with_reducible apply kept_countZero | with_reducible apply kept_freeShare | with_reducible apply Kept.foldl)
    | split
    | dsimp only

theorem kept_bodyKernelLoad {q₀ : List Instr} {f₀ : Fuses} {T₀ : Prop} {mb : MbRef} {handle : Nat} {env : Env} {y0 : State} {y1 : Mailbox}
    (h_y0 : Kept q₀ f₀ T₀ y0) : Kept q₀ f₀ T₀ (bodyKernelLoad mb handle env y0 y1).1 := by
  unfold bodyKernelLoad
  repeat' first
    | with_reducible assumption
    | with_reducible apply Kept.ite
    | with_reducible apply kept_modCtx
    | with_reducible apply kept_farTimedOut
    | with_reducible apply kept_getPieces
    | with_reducible apply kept_refuse
    | with_reducible apply kept_onCtx
    | with_reducible apply Kept.foldl
    | with_reducible apply Kept.foldl1
    | intro _
    | (with_reducible apply Kept.fst; assumption)
    | (with_reducible apply Kept.snd; assumption)
    | (with_reducible apply Kept.upd; first | with_reducible assumption | with_reducible apply Kept.ite | with_reducible apply kept_modCtx | with_reducible apply kept_farTimedOut | with_reducible apply kept_getPieces | with_reducible apply kept_refuse | with_reducible apply kept_onCtx | with_reducible apply Kept.foldl | with_reducible apply Kept.foldl1 | intro _)
    | split
    | dsimp only

theorem kept_dropCtx {q₀ : List Instr} {f₀ : Fuses} {T₀ : Prop} {s : State} {env : Env} {n : Nat}
    (h_s : Kept q₀ f₀ T₀ s) : Kept q₀ f₀ T₀ (dropCtx s env n) := by
  unfold dropCtx
  repeat' first
    | intro _
    | (with_reducible apply Kept.upd; first | with_reducible assumption | with_reducible apply kept_dropResvs | with_reducible apply kept_dtcFlushAll | with_reducible apply kept_unpinPanes | with_reducible apply kept_clearRegion | with_reducible apply kept_dropQueue | with_reducible apply kept_unmapRange | with_reducible apply kept_unmapShare | with_reducible apply Kept.foldl)
    | split

theorem kept_bodyCtxDestroy {q₀ : List Instr} {f₀ : Fuses} {T₀ : Prop} {mb : MbRef} {env : Env} {y0 : State} {y1 : Mailbox}
    (h_y0 : Kept q₀ f₀ T₀ y0) : Kept q₀ f₀ T₀ (bodyCtxDestroy mb env y0 y1).1 := by
  unfold bodyCtxDestroy
  repeat' first
    | intro _
    | (with_reducible apply Kept.upd; first | with_reducible assumption | with_reducible apply kept_endOps | with_reducible apply kept_onCtx | with_reducible apply kept_forceBegin | with_reducible apply kept_dropCtx | with_reducible apply Kept.foldl)
    | split
    | dsimp only

end Sys2Proof.Machine
end

