-- ==== Sys2Proof/Laws/KeptLbLink.lean ====
section
/-!
SUPPORT. What the operations of Machine/LbLink.lean keep.
-/

namespace Sys2Proof.Machine

open Sys2Proof

theorem kept_onLinks {q₀ : List Instr} {f₀ : Fuses} {T₀ : Prop} {k : State → Mailbox → State × Ans} {s : State} {m : Mailbox}
    (h_k : ∀ x0 x1, Kept q₀ f₀ T₀ x0 → Kept q₀ f₀ T₀ (k x0 x1).1) (h_s : Kept q₀ f₀ T₀ s) : Kept q₀ f₀ T₀ (onLinks k s m).1 := by
  unfold onLinks
  repeat' first
    | (with_reducible apply Kept.upd; first | with_reducible assumption | with_reducible apply kept_refuse)
    | split
    | apply h_k

theorem kept_readTable {q₀ : List Instr} {f₀ : Fuses} {T₀ : Prop} {s : State} {env : Env} {pa : Nat} {n : Nat}
    (h_s : Kept q₀ f₀ T₀ s) : Kept q₀ f₀ T₀ (readTable s env pa n).1 := by
  unfold readTable
  repeat' first
    | (with_reducible apply Kept.upd; first | with_reducible assumption | with_reducible apply kept_readPa | (with_reducible apply Kept.fst; assumption))
    | split

theorem kept_loadTopo {q₀ : List Instr} {f₀ : Fuses} {T₀ : Prop} {s : State} {bs : List Byte}
    (h_s : Kept q₀ f₀ T₀ s) : Kept q₀ f₀ T₀ (loadTopo s bs) := by
  unfold loadTopo
  repeat' first
    | (with_reducible apply Kept.upd; first | with_reducible assumption | with_reducible apply kept_tryOpenAll)

theorem kept_bodyTopoLoad {q₀ : List Instr} {f₀ : Fuses} {T₀ : Prop} {env : Env} {y0 : State} {y1 : Mailbox}
    (h_y0 : Kept q₀ f₀ T₀ y0) : Kept q₀ f₀ T₀ (bodyTopoLoad env y0 y1).1 := by
  unfold bodyTopoLoad
  repeat' first
    | with_reducible assumption
    | with_reducible apply Kept.ite
    | with_reducible apply kept_refuse
    | with_reducible apply kept_onLinks
    | with_reducible apply kept_readTable
    | with_reducible apply kept_loadTopo
    | with_reducible apply Kept.foldl
    | with_reducible apply Kept.foldl1
    | intro _
    | (with_reducible apply Kept.fst; assumption)
    | (with_reducible apply Kept.snd; assumption)
    | (with_reducible apply Kept.upd; first | with_reducible assumption | with_reducible apply Kept.ite | with_reducible apply kept_refuse | with_reducible apply kept_onLinks | with_reducible apply kept_readTable | with_reducible apply kept_loadTopo | with_reducible apply Kept.foldl | with_reducible apply Kept.foldl1 | intro _ | (with_reducible apply Kept.fst; assumption))
    | split
    | dsimp only

theorem kept_startDoor {q₀ : List Instr} {f₀ : Fuses} {T₀ : Prop} {mask : Nat} {s : State} {d : Nat}
    (h_s : Kept q₀ f₀ T₀ s) : Kept q₀ f₀ T₀ (startDoor mask s d) := by
  unfold startDoor
  repeat' first
    | (with_reducible apply Kept.upd; first | with_reducible assumption | with_reducible apply kept_modDoor | with_reducible apply kept_tryOpen)
    | split

theorem kept_closeDoor {q₀ : List Instr} {f₀ : Fuses} {T₀ : Prop} {s : State} {d : Nat}
    (h_s : Kept q₀ f₀ T₀ s) : Kept q₀ f₀ T₀ (closeDoor s d) := by
  unfold closeDoor
  repeat' first
    | intro _
    | (with_reducible apply Kept.upd; first | with_reducible assumption | with_reducible apply kept_raiseEvent | with_reducible apply kept_modDoor | with_reducible apply kept_backCred | with_reducible apply kept_releaseHeld | with_reducible apply kept_reroute | with_reducible apply Kept.foldl)
    | split

theorem kept_bodyRemoteMap {q₀ : List Instr} {f₀ : Fuses} {T₀ : Prop} {mb : MbRef} {y0 : State} {y1 : Mailbox}
    (h_y0 : Kept q₀ f₀ T₀ y0) : Kept q₀ f₀ T₀ (bodyRemoteMap mb y0 y1).1 := by
  unfold bodyRemoteMap
  repeat' first
    | with_reducible assumption
    | with_reducible apply Kept.ite
    | with_reducible apply kept_refuse
    | with_reducible apply kept_onCtx
    | with_reducible apply kept_addMaps
    | with_reducible apply kept_onLinks
    | with_reducible apply Kept.foldl
    | with_reducible apply Kept.foldl1
    | intro _
    | (with_reducible apply Kept.fst; assumption)
    | (with_reducible apply Kept.snd; assumption)
    | (with_reducible apply Kept.upd; first | with_reducible assumption | with_reducible apply Kept.ite | with_reducible apply kept_refuse | with_reducible apply kept_onCtx | with_reducible apply kept_addMaps | with_reducible apply kept_onLinks | with_reducible apply Kept.foldl | with_reducible apply Kept.foldl1 | intro _)
    | split
    | dsimp only

theorem kept_bodyTrussGroup {q₀ : List Instr} {f₀ : Fuses} {T₀ : Prop} {env : Env} {s : State} {m : Mailbox}
    (h_s : Kept q₀ f₀ T₀ s) : Kept q₀ f₀ T₀ (bodyTrussGroup env s m).1 := by
  unfold bodyTrussGroup
  repeat' first
    | (with_reducible apply Kept.upd; first | with_reducible assumption | with_reducible apply kept_refuse | with_reducible apply kept_readTable | (with_reducible apply Kept.fst; assumption))
    | split
    | dsimp only

theorem kept_restartGroup {q₀ : List Instr} {f₀ : Fuses} {T₀ : Prop} {s : State} {g : Nat}
    (h_s : Kept q₀ f₀ T₀ s) : Kept q₀ f₀ T₀ (restartGroup s g) := by
  unfold restartGroup
  repeat' first
    | (with_reducible apply Kept.upd; with_reducible assumption)
    | split

end Sys2Proof.Machine
end

