-- ==== Sys2Proof/Laws/KeptLbService.lean ====
section
/-!
SUPPORT. What the operations of Machine/LbService.lean keep.
-/

namespace Sys2Proof.Machine

open Sys2Proof

theorem kept_writeBank {q₀ : List Instr} {f₀ : Fuses} {T₀ : Prop} {s : State} {b : Bool} {img : List Byte}
    (h_s : Kept q₀ f₀ T₀ s) : Kept q₀ f₀ T₀ (writeBank s b img) := by
  unfold writeBank
  repeat' first
    | (with_reducible apply Kept.upd; with_reducible assumption)
    | split

theorem kept_blowFuses {q₀ : List Instr} {f₀ : Fuses} {T₀ : Prop} {s : State} {svn : Nat} {revoke : BitVec 4}
    (h_s : Kept q₀ f₀ T₀ s) : Kept q₀ f₀ T₀ (blowFuses s svn revoke) :=
  by
  unfold blowFuses
  have ho := h_s.fuse
  refine ⟨h_s.pend, { ho with svn := Nat.le_trans ho.svn (Nat.le_max_left _ _), keyRev := ?_ }, fun t => ?_⟩
  · have := ho.keyRev
    rw [BitVec.and_comm]
    rw [← this]
    ext i hi
    simp only [BitVec.getElem_and, BitVec.getElem_or]
    cases f₀.keyRev[i] <;> cases s.fuses.keyRev[i] <;> cases revoke[i] <;> rfl
  · have k := h_s.tidy t
    exact { k with svn := Nat.max_le.2 ⟨k.svn, Nat.min_le_left _ _⟩ }

theorem kept_destroyAll {q₀ : List Instr} {f₀ : Fuses} {T₀ : Prop} {s : State} {env : Env}
    (h_s : Kept q₀ f₀ T₀ s) : Kept q₀ f₀ T₀ (destroyAll s env) := by
  unfold destroyAll
  repeat' first
    | intro _
    | (with_reducible apply Kept.upd; first | with_reducible assumption | with_reducible apply kept_audGive | with_reducible apply kept_endOps | with_reducible apply kept_dropCtx | with_reducible apply Kept.foldl)

theorem kept_wipeMemory {q₀ : List Instr} {f₀ : Fuses} {T₀ : Prop} {s : State}
    (h_s : Kept q₀ f₀ T₀ s) : Kept q₀ f₀ T₀ (wipeMemory s) :=
  by
  unfold wipeMemory
  refine ⟨h_s.pend, h_s.fuse, fun t => ?_⟩
  have k := h_s.tidy t
  refine { k with mem := rfl, poison := List.nodup_nil, srams := ?_ }
  intro e he
  obtain ⟨x, _, rfl⟩ := List.mem_map.1 he
  rfl

theorem kept_eraseCustomer {q₀ : List Instr} {f₀ : Fuses} {T₀ : Prop} {s : State}
    (h_s : Kept q₀ f₀ T₀ s) : Kept q₀ f₀ T₀ (eraseCustomer s) := by
  unfold eraseCustomer
  repeat' first
    | (with_reducible apply Kept.upd; with_reducible assumption)

theorem kept_enterTest {q₀ : List Instr} {f₀ : Fuses} {T₀ : Prop} {s : State} {env : Env} (h : Kept q₀ f₀ T₀ s) (hc : s.fuses.testCnt < 16) :
    Kept q₀ f₀ T₀ (enterTest s env) := by
  unfold enterTest
  have h1 : Kept q₀ f₀ T₀ { s with
      fuses := { s.fuses with testCnt := s.fuses.testCnt + 1 }, nvm := { s.nvm with wipePending := true, everTest := true },
      thresh := { s.thresh with challenge := none } } := by
    have ho := h.fuse
    refine ⟨h.pend, { ho with testCnt := Nat.le_succ_of_le ho.testCnt }, fun t => ?_⟩
    have k := h.tidy t
    exact { k with testCnt := hc }
  have h2 := kept_parkAll (kept_lampOff (kept_destroyAll (env := env) h1))
  have h3 := Kept.foldl (g := closeDoor) (fun _ _ h => kept_closeDoor h) (List.range 16) h2
  have h4 := kept_eraseCustomer (kept_wipeMemory h3)
  dsimp only
  generalize eraseCustomer _ = s3 at h4 ⊢
  exact kept_addFrec (Kept.upd h4)

end Sys2Proof.Machine
end

