-- ==== Sys2Proof/Laws/KeptHostAccess.lean ====
section
/-!
SUPPORT. What the operations of Machine/HostAccess.lean keep.
-/

namespace Sys2Proof.Machine

open Sys2Proof

theorem kept_doorbellRejected {q₀ : List Instr} {f₀ : Fuses} {T₀ : Prop} {s : State}
    (h_s : Kept q₀ f₀ T₀ s) : Kept q₀ f₀ T₀ (doorbellRejected s) := by
  unfold doorbellRejected
  repeat' first
    | (with_reducible apply Kept.upd; with_reducible assumption)

theorem kept_ringQueue {q₀ : List Instr} {f₀ : Fuses} {T₀ : Prop} {s : State} {n : Nat} {q : Queue} {val : Word}
    (h_s : Kept q₀ f₀ T₀ s) : Kept q₀ f₀ T₀ (ringQueue s n q val) := by
  unfold ringQueue
  repeat' first
    | (with_reducible apply Kept.upd; first | with_reducible assumption | with_reducible apply kept_modCtx | with_reducible apply kept_modQueue)

theorem kept_doorbellWord {q₀ : List Instr} {f₀ : Fuses} {T₀ : Prop} {s : State} {page : Nat} {slot : Nat} {val : Word}
    (h_s : Kept q₀ f₀ T₀ s) : Kept q₀ f₀ T₀ (doorbellWord s page slot val) := by
  unfold doorbellWord
  repeat' first
    | (with_reducible apply Kept.upd; first | with_reducible assumption | with_reducible apply kept_doorbellRejected | with_reducible apply kept_ringQueue)
    | split

theorem kept_rangeLookup {q₀ : List Instr} {f₀ : Fuses} {T₀ : Prop} {s : State} {off : Nat}
    (h_s : Kept q₀ f₀ T₀ s) : Kept q₀ f₀ T₀ (rangeLookup s off).1 := by
  unfold rangeLookup
  repeat' first
    | (with_reducible apply Kept.upd; with_reducible assumption)
    | split
    | dsimp only

theorem kept_bar4Refused {q₀ : List Instr} {f₀ : Fuses} {T₀ : Prop} {s : State} {t : Tlp}
    (h_s : Kept q₀ f₀ T₀ s) : Kept q₀ f₀ T₀ (bar4Refused s t) := by
  unfold bar4Refused
  repeat' first
    | (with_reducible apply Kept.upd; first | with_reducible assumption | with_reducible apply kept_aer)

theorem kept_urCompletion {q₀ : List Instr} {f₀ : Fuses} {T₀ : Prop} {s : State}
    (h_s : Kept q₀ f₀ T₀ s) : Kept q₀ f₀ T₀ (urCompletion s) := by
  unfold urCompletion
  repeat' first
    | (with_reducible apply Kept.upd; first | with_reducible assumption | with_reducible apply kept_emit)

theorem kept_bar4Read {q₀ : List Instr} {f₀ : Fuses} {T₀ : Prop} {s : State} {env : Env} {off : Nat} {len : Nat}
    (h_s : Kept q₀ f₀ T₀ s) : Kept q₀ f₀ T₀ (bar4Read s env off len) := by
  unfold bar4Read
  repeat' first
    | (with_reducible apply Kept.upd; first | with_reducible assumption | with_reducible apply kept_emit | with_reducible apply kept_readPa | with_reducible apply kept_rangeLookup | with_reducible apply kept_bar4Refused | with_reducible apply kept_urCompletion | (with_reducible apply Kept.fst; assumption))
    | split

theorem kept_poisonGranules {q₀ : List Instr} {f₀ : Fuses} {T₀ : Prop} {gs : List Nat} {s : State}
    (h_s : Kept q₀ f₀ T₀ s) : Kept q₀ f₀ T₀ (poisonGranules gs s) := by
  unfold poisonGranules
  repeat' first
    | intro _
    | (with_reducible apply Kept.upd; first | with_reducible assumption | with_reducible apply kept_poisonedPage | with_reducible apply kept_setPoison | with_reducible apply Kept.foldl)
    | split

theorem kept_bar4Write {q₀ : List Instr} {f₀ : Fuses} {T₀ : Prop} {s : State} {env : Env} {off : Nat} {data : List Byte} {poisoned : Bool}
    (h_s : Kept q₀ f₀ T₀ s) : Kept q₀ f₀ T₀ (bar4Write s env off data poisoned) := by
  unfold bar4Write
  repeat' first
    | (with_reducible apply Kept.upd; first | with_reducible assumption | with_reducible apply kept_aer | with_reducible apply kept_elog | with_reducible apply kept_writePa | with_reducible apply kept_testFences | with_reducible apply kept_rangeLookup | with_reducible apply kept_bar4Refused | with_reducible apply kept_poisonGranules | (with_reducible apply Kept.fst; assumption))
    | split
    | dsimp only

theorem kept_atomRefused {q₀ : List Instr} {f₀ : Fuses} {T₀ : Prop} {s : State} {off : Nat} {size : Nat}
    (h_s : Kept q₀ f₀ T₀ s) : Kept q₀ f₀ T₀ (atomRefused s off size) := by
  unfold atomRefused
  repeat' first
    | (with_reducible apply Kept.upd; first | with_reducible assumption | with_reducible apply kept_aer | with_reducible apply kept_urCompletion)

theorem kept_hostAtomic {q₀ : List Instr} {f₀ : Fuses} {T₀ : Prop} {s : State} {env : Env} {pa : Nat} {f : Nat → Nat}
    (h_s : Kept q₀ f₀ T₀ s) : Kept q₀ f₀ T₀ (hostAtomic s env pa f) := by
  unfold hostAtomic
  repeat' first
    | (with_reducible apply Kept.upd; first | with_reducible assumption | with_reducible apply kept_emit | with_reducible apply kept_readPa | with_reducible apply kept_putLong | (with_reducible apply Kept.fst; assumption))
    | split

theorem kept_atomicOp {q₀ : List Instr} {f₀ : Fuses} {T₀ : Prop} {s : State} {env : Env} {off : Nat} {size : Nat} {f : Nat → Nat}
    (h_s : Kept q₀ f₀ T₀ s) : Kept q₀ f₀ T₀ (atomicOp s env off size f) := by
  unfold atomicOp
  repeat' first
    | (with_reducible apply Kept.upd; first | with_reducible assumption | with_reducible apply kept_notUp | with_reducible apply kept_rangeLookup | with_reducible apply kept_atomRefused | with_reducible apply kept_hostAtomic | (with_reducible apply Kept.fst; assumption))
    | split

theorem kept_cfgWrite {q₀ : List Instr} {f₀ : Fuses} {T₀ : Prop} {s : State} {r : CfgReg} {v : Word}
    (h_s : Kept q₀ f₀ T₀ s) : Kept q₀ f₀ T₀ (cfgWrite s r v) := by
  unfold cfgWrite
  repeat' first
    | (with_reducible apply Kept.upd; first | with_reducible assumption | with_reducible apply kept_sendAllPending)
    | split

end Sys2Proof.Machine
end

