-- ==== Sys2Proof/Laws/KeptStartup.lean ====
section
/-!
SUPPORT. What the operations of Machine/Startup.lean and Machine/HostWrite.lean keep.
-/

namespace Sys2Proof.Machine

open Sys2Proof

theorem kept_keepMigr {q₀ : List Instr} {f₀ : Fuses} {T₀ : Prop} {s : State}
    (h_s : Kept q₀ f₀ T₀ s) : Kept q₀ f₀ T₀ (keepMigr s) := by
  unfold keepMigr
  repeat' first
    | with_reducible assumption
    | with_reducible apply Kept.ite
    | with_reducible apply kept_modPantry
    | with_reducible apply Kept.foldl
    | with_reducible apply Kept.foldl1
    | intro _

theorem kept_clearCommon {q₀ : List Instr} {f₀ : Fuses} {T₀ : Prop} {s : State}
    (h_s : Kept q₀ f₀ T₀ s) : Kept q₀ f₀ T₀ (clearCommon s) :=
  by
  unfold clearCommon
  have h := Kept.foldl (g := fun s e => freePage s e.1) (fun _ _ h => kept_freePage h) s.mem.owners h_s
  dsimp only
  generalize s.mem.owners.foldl (fun s e => freePage s e.1) s = s2 at h ⊢
  refine ⟨h.pend, h.fuse, fun t => ?_⟩
  have k := h.tidy t
  refine { k with srams := ?_, events := Nat.zero_le _, aud := fun e he => by simp [Corridor.reset] at he }
  intro e he
  obtain ⟨x, _, rfl⟩ := List.mem_map.1 he
  rfl

theorem kept_clearEndpoint {q₀ : List Instr} {f₀ : Fuses} {T₀ : Prop} {keepLink : Bool} {forget : Bool} {s : State}
    (h_s : Kept q₀ f₀ T₀ s) : Kept q₀ f₀ T₀ (clearEndpoint keepLink forget s) := by
  unfold clearEndpoint
  repeat' first
    | (with_reducible apply Kept.upd; with_reducible assumption)

theorem kept_clearStudy {q₀ : List Instr} {f₀ : Fuses} {T₀ : Prop} {s : State}
    (h_s : Kept q₀ f₀ T₀ s) : Kept q₀ f₀ T₀ (clearStudy s) := by
  unfold clearStudy
  repeat' first
    | (with_reducible apply Kept.upd; with_reducible assumption)

theorem kept_clearMem {q₀ : List Instr} {f₀ : Fuses} {T₀ : Prop} {s : State}
    (h_s : Kept q₀ f₀ T₀ s) : Kept q₀ f₀ T₀ (clearMem s) :=
  by
  unfold clearMem
  refine ⟨h_s.pend, h_s.fuse, fun t => ?_⟩
  have k := h_s.tidy t
  exact { k with scrubC := Nat.zero_le _, scrubL := Nat.zero_le _ }

theorem kept_clearThermo {q₀ : List Instr} {f₀ : Fuses} {T₀ : Prop} {s : State}
    (h_s : Kept q₀ f₀ T₀ s) : Kept q₀ f₀ T₀ (clearThermo s) := by
  unfold clearThermo
  repeat' first
    | (with_reducible apply Kept.upd; with_reducible assumption)

theorem kept_clearLinks {q₀ : List Instr} {f₀ : Fuses} {T₀ : Prop} {s : State}
    (h_s : Kept q₀ f₀ T₀ s) : Kept q₀ f₀ T₀ (clearLinks s) := by
  unfold clearLinks
  repeat' first
    | (with_reducible apply Kept.upd; with_reducible assumption)

theorem kept_clearPower {q₀ : List Instr} {f₀ : Fuses} {T₀ : Prop} {k : ResetKind} {s : State}
    (h_s : Kept q₀ f₀ T₀ s) : Kept q₀ f₀ T₀ (clearPower k s) := by
  unfold clearPower
  repeat' first
    | (with_reducible apply Kept.upd; first | with_reducible assumption | with_reducible apply kept_emit | with_reducible apply kept_setAlert)
    | split
    | dsimp only

theorem kept_clearThresh {q₀ : List Instr} {f₀ : Fuses} {T₀ : Prop} {k : ResetKind} {s : State}
    (h_s : Kept q₀ f₀ T₀ s) : Kept q₀ f₀ T₀ (clearThresh k s) := by
  unfold clearThresh
  repeat' first
    | (with_reducible apply Kept.upd; with_reducible assumption)

theorem kept_loadBoard {q₀ : List Instr} {f₀ : Fuses} {T₀ : Prop} {s : State}
    (h_s : Kept q₀ f₀ T₀ s) : Kept q₀ f₀ T₀ (loadBoard s) := by
  unfold loadBoard
  repeat' first
    | (with_reducible apply Kept.upd; with_reducible assumption)
    | split

theorem kept_flrDoor {q₀ : List Instr} {f₀ : Fuses} {T₀ : Prop} {s : State} {d : Nat}
    (h_s : Kept q₀ f₀ T₀ s) : Kept q₀ f₀ T₀ (flrDoor s d) := by
  unfold flrDoor
  repeat' first
    | intro _
    | (with_reducible apply Kept.upd; first | with_reducible assumption | with_reducible apply kept_failReq | with_reducible apply kept_closeDoor | with_reducible apply Kept.foldl)
    | split

theorem kept_rewriteYilium {q₀ : List Instr} {f₀ : Fuses} {T₀ : Prop} {s : State}
    (h_s : Kept q₀ f₀ T₀ s) : Kept q₀ f₀ T₀ (rewriteYilium s) := by
  unfold rewriteYilium
  refine ⟨h_s.pend, h_s.fuse, fun t => ?_⟩
  have k := h_s.tidy t
  exact { k with poison := k.poison.filter _ }

theorem kept_clearKind {q₀ : List Instr} {f₀ : Fuses} {T₀ : Prop} {k : ResetKind} {s : State}
    (h_s : Kept q₀ f₀ T₀ s) : Kept q₀ f₀ T₀ (clearKind k s) := by
  unfold clearKind
  repeat' first
    | (with_reducible apply Kept.upd; first | with_reducible assumption | with_reducible apply kept_clearEndpoint | with_reducible apply kept_clearStudy | with_reducible apply kept_clearMem | with_reducible apply kept_clearThermo | with_reducible apply kept_clearLinks | with_reducible apply kept_clearPower | with_reducible apply kept_clearThresh | with_reducible apply kept_loadBoard | with_reducible apply kept_rewriteYilium)
    | split

theorem kept_doReset {q₀ : List Instr} {f₀ : Fuses} {T₀ : Prop} {k : ResetKind} {cause : BitVec 3} {s : State}
    (h_s : Kept q₀ f₀ T₀ s) : Kept q₀ f₀ T₀ (doReset k cause s) := by
  unfold doReset
  repeat' first
    | intro _
    | (with_reducible apply Kept.upd; first | with_reducible assumption | with_reducible apply kept_keepMigr | with_reducible apply kept_clearCommon | with_reducible apply kept_flrDoor | with_reducible apply kept_clearKind | with_reducible apply Kept.foldl)
    | split

theorem kept_storeSummary {q₀ : List Instr} {f₀ : Fuses} {T₀ : Prop} {s : State}
    (h_s : Kept q₀ f₀ T₀ s) : Kept q₀ f₀ T₀ (storeSummary s) := by
  unfold storeSummary
  repeat' first
    | (with_reducible apply Kept.upd; with_reducible assumption)

theorem kept_warmReset {q₀ : List Instr} {f₀ : Fuses} {T₀ : Prop} {s : State} {cause : BitVec 3}
    (h_s : Kept q₀ f₀ T₀ s) : Kept q₀ f₀ T₀ (warmReset s cause) := by
  unfold warmReset
  repeat' first
    | (with_reducible apply Kept.upd; first | with_reducible assumption | with_reducible apply kept_doReset | with_reducible apply kept_storeSummary)
    | split

theorem kept_lesserReset {q₀ : List Instr} {f₀ : Fuses} {T₀ : Prop} {k : ResetKind} {cause : BitVec 3} {s : State}
    (h_s : Kept q₀ f₀ T₀ s) : Kept q₀ f₀ T₀ (lesserReset k cause s) := by
  unfold lesserReset
  repeat' first
    | (with_reducible apply Kept.upd; first | with_reducible assumption | with_reducible apply kept_doReset | with_reducible apply kept_storeSummary)
    | split

theorem kept_hearthFault {q₀ : List Instr} {f₀ : Fuses} {T₀ : Prop} {s : State} {kind : Nat} {cause : BitVec 3}
    (h_s : Kept q₀ f₀ T₀ s) : Kept q₀ f₀ T₀ (hearthFault s kind cause) := by
  unfold hearthFault
  repeat' first
    | (with_reducible apply Kept.upd; first | with_reducible assumption | with_reducible apply kept_aer | with_reducible apply kept_addFrec | with_reducible apply kept_parkAll | with_reducible apply kept_doReset)
    | split

theorem kept_runImage {q₀ : List Instr} {f₀ : Fuses} {T₀ : Prop} {s : State}
    (h_s : Kept q₀ f₀ T₀ s) : Kept q₀ f₀ T₀ (runImage s) := by
  unfold runImage
  repeat' first
    | (with_reducible apply Kept.upd; with_reducible assumption)

theorem kept_fallBack {q₀ : List Instr} {f₀ : Fuses} {T₀ : Prop} {s : State}
    (h_s : Kept q₀ f₀ T₀ s) : Kept q₀ f₀ T₀ (fallBack s) := by
  unfold fallBack
  repeat' first
    | (with_reducible apply Kept.upd; first | with_reducible assumption | with_reducible apply kept_addFrec | with_reducible apply kept_runImage)

theorem kept_enterRecovery {q₀ : List Instr} {f₀ : Fuses} {T₀ : Prop} {s : State}
    (h_s : Kept q₀ f₀ T₀ s) : Kept q₀ f₀ T₀ (enterRecovery s) := by
  unfold enterRecovery
  repeat' first
    | (with_reducible apply Kept.upd; with_reducible assumption)

theorem kept_finishPending {q₀ : List Instr} {f₀ : Fuses} {T₀ : Prop} {s : State}
    (h_s : Kept q₀ f₀ T₀ s) : Kept q₀ f₀ T₀ (finishPending s) := by
  unfold finishPending
  repeat' first
    | with_reducible assumption
    | with_reducible apply Kept.ite
    | with_reducible apply kept_blowFuses
    | with_reducible apply kept_wipeMemory
    | with_reducible apply kept_eraseCustomer
    | with_reducible apply Kept.foldl
    | with_reducible apply Kept.foldl1
    | intro _
    | (with_reducible apply Kept.fst; assumption)
    | (with_reducible apply Kept.snd; assumption)
    | (with_reducible apply Kept.upd; first | with_reducible assumption | with_reducible apply Kept.ite | with_reducible apply kept_blowFuses | with_reducible apply kept_wipeMemory | with_reducible apply kept_eraseCustomer | with_reducible apply Kept.foldl | with_reducible apply Kept.foldl1 | intro _)
    | split

theorem kept_firmwareCheck {q₀ : List Instr} {f₀ : Fuses} {T₀ : Prop} {s : State}
    (h_s : Kept q₀ f₀ T₀ s) : Kept q₀ f₀ T₀ (firmwareCheck s) := by
  unfold firmwareCheck
  repeat' first
    | (with_reducible apply Kept.upd; first | with_reducible assumption | with_reducible apply kept_runImage | with_reducible apply kept_fallBack | with_reducible apply kept_enterRecovery | with_reducible apply kept_finishPending)
    | split
    | dsimp only

theorem kept_loadHeaters {q₀ : List Instr} {f₀ : Fuses} {T₀ : Prop} {s : State}
    (h_s : Kept q₀ f₀ T₀ s) : Kept q₀ f₀ T₀ (loadHeaters s) := by
  unfold loadHeaters
  repeat' first
    | (with_reducible apply Kept.upd; with_reducible assumption)

theorem kept_badRecords {q₀ : List Instr} {f₀ : Fuses} {T₀ : Prop} {bad : List Nat} {s : State}
    (h_s : Kept q₀ f₀ T₀ s) : Kept q₀ f₀ T₀ (badRecords bad s) := by
  unfold badRecords
  repeat' first
    | with_reducible assumption
    | with_reducible apply Kept.ite
    | with_reducible apply kept_modWin
    | with_reducible apply kept_modPantry
    | with_reducible apply Kept.foldl
    | with_reducible apply Kept.foldl1
    | intro _

theorem kept_openLinks {q₀ : List Instr} {f₀ : Fuses} {T₀ : Prop} {s : State}
    (h_s : Kept q₀ f₀ T₀ s) : Kept q₀ f₀ T₀ (openLinks s) := by
  unfold openLinks
  repeat' first
    | (with_reducible apply Kept.upd; first | with_reducible assumption | with_reducible apply kept_tryOpenAll | with_reducible apply kept_loadTopo)
    | split

theorem kept_smbusSay {q₀ : List Instr} {f₀ : Fuses} {T₀ : Prop} {s : State} {v : Nat}
    (h_s : Kept q₀ f₀ T₀ s) : Kept q₀ f₀ T₀ (smbusSay s v) := by
  unfold smbusSay
  repeat' first
    | (with_reducible apply Kept.upd; first | with_reducible assumption | with_reducible apply kept_emit)
    | split

theorem kept_anyInternalCause {q₀ : List Instr} {f₀ : Fuses} {T₀ : Prop} {s : State}
    (h_s : Kept q₀ f₀ T₀ s) : Kept q₀ f₀ T₀ (anyInternalCause s).2 := by
  unfold anyInternalCause
  repeat' first
    | (with_reducible apply Kept.upd; first | with_reducible assumption | with_reducible apply kept_freshNat)

theorem kept_recoveryGo {q₀ : List Instr} {f₀ : Fuses} {T₀ : Prop} {s : State} {val : Word} {hwDropped : Bool}
    (h_s : Kept q₀ f₀ T₀ s) : Kept q₀ f₀ T₀ (recoveryGo s val hwDropped) := by
  unfold recoveryGo
  repeat' first
    | (with_reducible apply Kept.upd; first | with_reducible assumption | with_reducible apply kept_writeBank | with_reducible apply kept_doReset | with_reducible apply kept_anyInternalCause)
    | split
    | dsimp only

theorem kept_jtagLocked {q₀ : List Instr} {f₀ : Fuses} {T₀ : Prop} {s : State} {quietSecond : Bool}
    (h_s : Kept q₀ f₀ T₀ s) : Kept q₀ f₀ T₀ (jtagLocked s quietSecond) := by
  unfold jtagLocked
  repeat' first
    | (with_reducible apply Kept.upd; first | with_reducible assumption | with_reducible apply kept_raiseEvent | with_reducible apply kept_addFrec)
    | split

theorem kept_zeroOnDie {q₀ : List Instr} {f₀ : Fuses} {T₀ : Prop} {s : State}
    (h_s : Kept q₀ f₀ T₀ s) : Kept q₀ f₀ T₀ (zeroOnDie s) :=
  by
  unfold zeroOnDie
  refine ⟨h_s.pend, h_s.fuse, fun t => ?_⟩
  have k := h_s.tidy t
  refine { k with mem := Memory.clear_wf k.mem _ _, poison := k.poison.filter _, srams := ?_ }
  intro e he
  obtain ⟨x, _, rfl⟩ := List.mem_map.1 he
  rfl

theorem kept_anyWarmCause {q₀ : List Instr} {f₀ : Fuses} {T₀ : Prop} {s : State}
    (h_s : Kept q₀ f₀ T₀ s) : Kept q₀ f₀ T₀ (anyWarmCause s).2 := by
  unfold anyWarmCause
  repeat' first
    | (with_reducible apply Kept.upd; first | with_reducible assumption | with_reducible apply kept_freshNat)

theorem kept_leaveBoundary {q₀ : List Instr} {f₀ : Fuses} {T₀ : Prop} {s : State}
    (h_s : Kept q₀ f₀ T₀ s) : Kept q₀ f₀ T₀ (leaveBoundary s) := by
  unfold leaveBoundary
  repeat' first
    | (with_reducible apply Kept.upd; first | with_reducible assumption | with_reducible apply kept_doReset | with_reducible apply kept_zeroOnDie | with_reducible apply kept_anyWarmCause)
    | split
    | dsimp only

theorem kept_enterBoundary {q₀ : List Instr} {f₀ : Fuses} {T₀ : Prop} {s : State} {ins : JtagInstr}
    (h_s : Kept q₀ f₀ T₀ s) : Kept q₀ f₀ T₀ (enterBoundary s ins) := by
  unfold enterBoundary
  repeat' first
    | (with_reducible apply Kept.upd; first | with_reducible assumption | with_reducible apply kept_doReset)
    | split
    | dsimp only

theorem kept_bar0Word {q₀ : List Instr} {f₀ : Fuses} {T₀ : Prop} {s : State} {off : Nat} {val : Word} {hw : HwUpd}
    (h_s : Kept q₀ f₀ T₀ s) : Kept q₀ f₀ T₀ (bar0Word s off val hw) := by
  unfold bar0Word
  repeat' first
    | (with_reducible apply Kept.upd; first | with_reducible assumption | with_reducible apply kept_writeLow | with_reducible apply kept_writeHigh | with_reducible apply kept_mailboxWord | with_reducible apply kept_recoveryGo)
    | split

end Sys2Proof.Machine
end

