-- ==== Sys2Proof/Laws/State.lean ====
section
/-!
SUPPORT. What each update of State leaves alone: one lemma per field per update. The updates are those of Machine/Ops.lean that change one named
part of the state.
-/

namespace Sys2Proof.Machine

open Sys2Proof

/-! ### modWin changes windows -/

@[simp] theorem modWin_pending (s : State) (w : Nat) (f : Window → Window) : (modWin s w f).pending = s.pending := rfl
@[simp] theorem modWin_out (s : State) (w : Nat) (f : Window → Window) : (modWin s w f).out = s.out := rfl
@[simp] theorem modWin_freeIx (s : State) (w : Nat) (f : Window → Window) : (modWin s w f).freeIx = s.freeIx := rfl
@[simp] theorem modWin_fuses (s : State) (w : Nat) (f : Window → Window) : (modWin s w f).fuses = s.fuses := rfl
@[simp] theorem modWin_nvm (s : State) (w : Nat) (f : Window → Window) : (modWin s w f).nvm = s.nvm := rfl
@[simp] theorem modWin_pwrGood (s : State) (w : Nat) (f : Window → Window) : (modWin s w f).pwrGood = s.pwrGood := rfl
@[simp] theorem modWin_perstN (s : State) (w : Nat) (f : Window → Window) : (modWin s w f).perstN = s.perstN := rfl
@[simp] theorem modWin_thermTripN (s : State) (w : Nat) (f : Window → Window) : (modWin s w f).thermTripN = s.thermTripN := rfl
@[simp] theorem modWin_alertN (s : State) (w : Nat) (f : Window → Window) : (modWin s w f).alertN = s.alertN := rfl
@[simp] theorem modWin_smbusUp (s : State) (w : Nat) (f : Window → Window) : (modWin s w f).smbusUp = s.smbusUp := rfl
@[simp] theorem modWin_ifLevel (s : State) (w : Nat) (f : Window → Window) : (modWin s w f).ifLevel = s.ifLevel := rfl
@[simp] theorem modWin_nodeId (s : State) (w : Nat) (f : Window → Window) : (modWin s w f).nodeId = s.nodeId := rfl
@[simp] theorem modWin_resetting (s : State) (w : Nat) (f : Window → Window) : (modWin s w f).resetting = s.resetting := rfl
@[simp] theorem modWin_lampWasLit (s : State) (w : Nat) (f : Window → Window) : (modWin s w f).lampWasLit = s.lampWasLit := rfl
@[simp] theorem modWin_warmHeld (s : State) (w : Nat) (f : Window → Window) : (modWin s w f).warmHeld = s.warmHeld := rfl
@[simp] theorem modWin_pastDeadline (s : State) (w : Nat) (f : Window → Window) : (modWin s w f).pastDeadline = s.pastDeadline := rfl
@[simp] theorem modWin_internalCause (s : State) (w : Nat) (f : Window → Window) : (modWin s w f).internalCause = s.internalCause := rfl
@[simp] theorem modWin_fwFallback (s : State) (w : Nat) (f : Window → Window) : (modWin s w f).fwFallback = s.fwFallback := rfl
@[simp] theorem modWin_host (s : State) (w : Nat) (f : Window → Window) : (modWin s w f).host = s.host := rfl
@[simp] theorem modWin_lamp (s : State) (w : Nat) (f : Window → Window) : (modWin s w f).lamp = s.lamp := rfl
@[simp] theorem modWin_pantries (s : State) (w : Nat) (f : Window → Window) : (modWin s w f).pantries = s.pantries := rfl
@[simp] theorem modWin_trees (s : State) (w : Nat) (f : Window → Window) : (modWin s w f).trees = s.trees := rfl
@[simp] theorem modWin_study (s : State) (w : Nat) (f : Window → Window) : (modWin s w f).study = s.study := rfl
@[simp] theorem modWin_dumbs (s : State) (w : Nat) (f : Window → Window) : (modWin s w f).dumbs = s.dumbs := rfl
@[simp] theorem modWin_streams (s : State) (w : Nat) (f : Window → Window) : (modWin s w f).streams = s.streams := rfl
@[simp] theorem modWin_nextSid (s : State) (w : Nat) (f : Window → Window) : (modWin s w f).nextSid = s.nextSid := rfl
@[simp] theorem modWin_mem (s : State) (w : Nat) (f : Window → Window) : (modWin s w f).mem = s.mem := rfl
@[simp] theorem modWin_xlate (s : State) (w : Nat) (f : Window → Window) : (modWin s w f).xlate = s.xlate := rfl
@[simp] theorem modWin_corr (s : State) (w : Nat) (f : Window → Window) : (modWin s w f).corr = s.corr := rfl
@[simp] theorem modWin_thermo (s : State) (w : Nat) (f : Window → Window) : (modWin s w f).thermo = s.thermo := rfl
@[simp] theorem modWin_ctxs (s : State) (w : Nat) (f : Window → Window) : (modWin s w f).ctxs = s.ctxs := rfl
@[simp] theorem modWin_queues (s : State) (w : Nat) (f : Window → Window) : (modWin s w f).queues = s.queues := rfl
@[simp] theorem modWin_ops (s : State) (w : Nat) (f : Window → Window) : (modWin s w f).ops = s.ops := rfl
@[simp] theorem modWin_shares (s : State) (w : Nat) (f : Window → Window) : (modWin s w f).shares = s.shares := rfl
@[simp] theorem modWin_mboxes (s : State) (w : Nat) (f : Window → Window) : (modWin s w f).mboxes = s.mboxes := rfl
@[simp] theorem modWin_umboxes (s : State) (w : Nat) (f : Window → Window) : (modWin s w f).umboxes = s.umboxes := rfl
@[simp] theorem modWin_lastMbox (s : State) (w : Nat) (f : Window → Window) : (modWin s w f).lastMbox = s.lastMbox := rfl
@[simp] theorem modWin_events (s : State) (w : Nat) (f : Window → Window) : (modWin s w f).events = s.events := rfl
@[simp] theorem modWin_evSeq (s : State) (w : Nat) (f : Window → Window) : (modWin s w f).evSeq = s.evSeq := rfl
@[simp] theorem modWin_evRing (s : State) (w : Nat) (f : Window → Window) : (modWin s w f).evRing = s.evRing := rfl
@[simp] theorem modWin_bellClock (s : State) (w : Nat) (f : Window → Window) : (modWin s w f).bellClock = s.bellClock := rfl
@[simp] theorem modWin_link (s : State) (w : Nat) (f : Window → Window) : (modWin s w f).link = s.link := rfl
@[simp] theorem modWin_power (s : State) (w : Nat) (f : Window → Window) : (modWin s w f).power = s.power := rfl
@[simp] theorem modWin_thresh (s : State) (w : Nat) (f : Window → Window) : (modWin s w f).thresh = s.thresh := rfl

/-! ### modPantry changes pantries -/

@[simp] theorem modPantry_pending (s : State) (p : Nat) (f : Pantry → Pantry) : (modPantry s p f).pending = s.pending := rfl
@[simp] theorem modPantry_out (s : State) (p : Nat) (f : Pantry → Pantry) : (modPantry s p f).out = s.out := rfl
@[simp] theorem modPantry_freeIx (s : State) (p : Nat) (f : Pantry → Pantry) : (modPantry s p f).freeIx = s.freeIx := rfl
@[simp] theorem modPantry_fuses (s : State) (p : Nat) (f : Pantry → Pantry) : (modPantry s p f).fuses = s.fuses := rfl
@[simp] theorem modPantry_nvm (s : State) (p : Nat) (f : Pantry → Pantry) : (modPantry s p f).nvm = s.nvm := rfl
@[simp] theorem modPantry_pwrGood (s : State) (p : Nat) (f : Pantry → Pantry) : (modPantry s p f).pwrGood = s.pwrGood := rfl
@[simp] theorem modPantry_perstN (s : State) (p : Nat) (f : Pantry → Pantry) : (modPantry s p f).perstN = s.perstN := rfl
@[simp] theorem modPantry_thermTripN (s : State) (p : Nat) (f : Pantry → Pantry) : (modPantry s p f).thermTripN = s.thermTripN := rfl
@[simp] theorem modPantry_alertN (s : State) (p : Nat) (f : Pantry → Pantry) : (modPantry s p f).alertN = s.alertN := rfl
@[simp] theorem modPantry_smbusUp (s : State) (p : Nat) (f : Pantry → Pantry) : (modPantry s p f).smbusUp = s.smbusUp := rfl
@[simp] theorem modPantry_ifLevel (s : State) (p : Nat) (f : Pantry → Pantry) : (modPantry s p f).ifLevel = s.ifLevel := rfl
@[simp] theorem modPantry_nodeId (s : State) (p : Nat) (f : Pantry → Pantry) : (modPantry s p f).nodeId = s.nodeId := rfl
@[simp] theorem modPantry_resetting (s : State) (p : Nat) (f : Pantry → Pantry) : (modPantry s p f).resetting = s.resetting := rfl
@[simp] theorem modPantry_lampWasLit (s : State) (p : Nat) (f : Pantry → Pantry) : (modPantry s p f).lampWasLit = s.lampWasLit := rfl
@[simp] theorem modPantry_warmHeld (s : State) (p : Nat) (f : Pantry → Pantry) : (modPantry s p f).warmHeld = s.warmHeld := rfl
@[simp] theorem modPantry_pastDeadline (s : State) (p : Nat) (f : Pantry → Pantry) : (modPantry s p f).pastDeadline = s.pastDeadline := rfl
@[simp] theorem modPantry_internalCause (s : State) (p : Nat) (f : Pantry → Pantry) : (modPantry s p f).internalCause = s.internalCause := rfl
@[simp] theorem modPantry_fwFallback (s : State) (p : Nat) (f : Pantry → Pantry) : (modPantry s p f).fwFallback = s.fwFallback := rfl
@[simp] theorem modPantry_host (s : State) (p : Nat) (f : Pantry → Pantry) : (modPantry s p f).host = s.host := rfl
@[simp] theorem modPantry_windows (s : State) (p : Nat) (f : Pantry → Pantry) : (modPantry s p f).windows = s.windows := rfl
@[simp] theorem modPantry_lamp (s : State) (p : Nat) (f : Pantry → Pantry) : (modPantry s p f).lamp = s.lamp := rfl
@[simp] theorem modPantry_trees (s : State) (p : Nat) (f : Pantry → Pantry) : (modPantry s p f).trees = s.trees := rfl
@[simp] theorem modPantry_study (s : State) (p : Nat) (f : Pantry → Pantry) : (modPantry s p f).study = s.study := rfl
@[simp] theorem modPantry_dumbs (s : State) (p : Nat) (f : Pantry → Pantry) : (modPantry s p f).dumbs = s.dumbs := rfl
@[simp] theorem modPantry_streams (s : State) (p : Nat) (f : Pantry → Pantry) : (modPantry s p f).streams = s.streams := rfl
@[simp] theorem modPantry_nextSid (s : State) (p : Nat) (f : Pantry → Pantry) : (modPantry s p f).nextSid = s.nextSid := rfl
@[simp] theorem modPantry_mem (s : State) (p : Nat) (f : Pantry → Pantry) : (modPantry s p f).mem = s.mem := rfl
@[simp] theorem modPantry_xlate (s : State) (p : Nat) (f : Pantry → Pantry) : (modPantry s p f).xlate = s.xlate := rfl
@[simp] theorem modPantry_corr (s : State) (p : Nat) (f : Pantry → Pantry) : (modPantry s p f).corr = s.corr := rfl
@[simp] theorem modPantry_thermo (s : State) (p : Nat) (f : Pantry → Pantry) : (modPantry s p f).thermo = s.thermo := rfl
@[simp] theorem modPantry_ctxs (s : State) (p : Nat) (f : Pantry → Pantry) : (modPantry s p f).ctxs = s.ctxs := rfl
@[simp] theorem modPantry_queues (s : State) (p : Nat) (f : Pantry → Pantry) : (modPantry s p f).queues = s.queues := rfl
@[simp] theorem modPantry_ops (s : State) (p : Nat) (f : Pantry → Pantry) : (modPantry s p f).ops = s.ops := rfl
@[simp] theorem modPantry_shares (s : State) (p : Nat) (f : Pantry → Pantry) : (modPantry s p f).shares = s.shares := rfl
@[simp] theorem modPantry_mboxes (s : State) (p : Nat) (f : Pantry → Pantry) : (modPantry s p f).mboxes = s.mboxes := rfl
@[simp] theorem modPantry_umboxes (s : State) (p : Nat) (f : Pantry → Pantry) : (modPantry s p f).umboxes = s.umboxes := rfl
@[simp] theorem modPantry_lastMbox (s : State) (p : Nat) (f : Pantry → Pantry) : (modPantry s p f).lastMbox = s.lastMbox := rfl
@[simp] theorem modPantry_events (s : State) (p : Nat) (f : Pantry → Pantry) : (modPantry s p f).events = s.events := rfl
@[simp] theorem modPantry_evSeq (s : State) (p : Nat) (f : Pantry → Pantry) : (modPantry s p f).evSeq = s.evSeq := rfl
@[simp] theorem modPantry_evRing (s : State) (p : Nat) (f : Pantry → Pantry) : (modPantry s p f).evRing = s.evRing := rfl
@[simp] theorem modPantry_bellClock (s : State) (p : Nat) (f : Pantry → Pantry) : (modPantry s p f).bellClock = s.bellClock := rfl
@[simp] theorem modPantry_link (s : State) (p : Nat) (f : Pantry → Pantry) : (modPantry s p f).link = s.link := rfl
@[simp] theorem modPantry_power (s : State) (p : Nat) (f : Pantry → Pantry) : (modPantry s p f).power = s.power := rfl
@[simp] theorem modPantry_thresh (s : State) (p : Nat) (f : Pantry → Pantry) : (modPantry s p f).thresh = s.thresh := rfl

/-! ### modDumb changes dumbs -/

@[simp] theorem modDumb_pending (s : State) (d : Nat) (f : Dumb → Dumb) : (modDumb s d f).pending = s.pending := rfl
@[simp] theorem modDumb_out (s : State) (d : Nat) (f : Dumb → Dumb) : (modDumb s d f).out = s.out := rfl
@[simp] theorem modDumb_freeIx (s : State) (d : Nat) (f : Dumb → Dumb) : (modDumb s d f).freeIx = s.freeIx := rfl
@[simp] theorem modDumb_fuses (s : State) (d : Nat) (f : Dumb → Dumb) : (modDumb s d f).fuses = s.fuses := rfl
@[simp] theorem modDumb_nvm (s : State) (d : Nat) (f : Dumb → Dumb) : (modDumb s d f).nvm = s.nvm := rfl
@[simp] theorem modDumb_pwrGood (s : State) (d : Nat) (f : Dumb → Dumb) : (modDumb s d f).pwrGood = s.pwrGood := rfl
@[simp] theorem modDumb_perstN (s : State) (d : Nat) (f : Dumb → Dumb) : (modDumb s d f).perstN = s.perstN := rfl
@[simp] theorem modDumb_thermTripN (s : State) (d : Nat) (f : Dumb → Dumb) : (modDumb s d f).thermTripN = s.thermTripN := rfl
@[simp] theorem modDumb_alertN (s : State) (d : Nat) (f : Dumb → Dumb) : (modDumb s d f).alertN = s.alertN := rfl
@[simp] theorem modDumb_smbusUp (s : State) (d : Nat) (f : Dumb → Dumb) : (modDumb s d f).smbusUp = s.smbusUp := rfl
@[simp] theorem modDumb_ifLevel (s : State) (d : Nat) (f : Dumb → Dumb) : (modDumb s d f).ifLevel = s.ifLevel := rfl
@[simp] theorem modDumb_nodeId (s : State) (d : Nat) (f : Dumb → Dumb) : (modDumb s d f).nodeId = s.nodeId := rfl
@[simp] theorem modDumb_resetting (s : State) (d : Nat) (f : Dumb → Dumb) : (modDumb s d f).resetting = s.resetting := rfl
@[simp] theorem modDumb_lampWasLit (s : State) (d : Nat) (f : Dumb → Dumb) : (modDumb s d f).lampWasLit = s.lampWasLit := rfl
@[simp] theorem modDumb_warmHeld (s : State) (d : Nat) (f : Dumb → Dumb) : (modDumb s d f).warmHeld = s.warmHeld := rfl
@[simp] theorem modDumb_pastDeadline (s : State) (d : Nat) (f : Dumb → Dumb) : (modDumb s d f).pastDeadline = s.pastDeadline := rfl
@[simp] theorem modDumb_internalCause (s : State) (d : Nat) (f : Dumb → Dumb) : (modDumb s d f).internalCause = s.internalCause := rfl
@[simp] theorem modDumb_fwFallback (s : State) (d : Nat) (f : Dumb → Dumb) : (modDumb s d f).fwFallback = s.fwFallback := rfl
@[simp] theorem modDumb_host (s : State) (d : Nat) (f : Dumb → Dumb) : (modDumb s d f).host = s.host := rfl
@[simp] theorem modDumb_windows (s : State) (d : Nat) (f : Dumb → Dumb) : (modDumb s d f).windows = s.windows := rfl
@[simp] theorem modDumb_lamp (s : State) (d : Nat) (f : Dumb → Dumb) : (modDumb s d f).lamp = s.lamp := rfl
@[simp] theorem modDumb_pantries (s : State) (d : Nat) (f : Dumb → Dumb) : (modDumb s d f).pantries = s.pantries := rfl
@[simp] theorem modDumb_trees (s : State) (d : Nat) (f : Dumb → Dumb) : (modDumb s d f).trees = s.trees := rfl
@[simp] theorem modDumb_study (s : State) (d : Nat) (f : Dumb → Dumb) : (modDumb s d f).study = s.study := rfl
@[simp] theorem modDumb_streams (s : State) (d : Nat) (f : Dumb → Dumb) : (modDumb s d f).streams = s.streams := rfl
@[simp] theorem modDumb_nextSid (s : State) (d : Nat) (f : Dumb → Dumb) : (modDumb s d f).nextSid = s.nextSid := rfl
@[simp] theorem modDumb_mem (s : State) (d : Nat) (f : Dumb → Dumb) : (modDumb s d f).mem = s.mem := rfl
@[simp] theorem modDumb_xlate (s : State) (d : Nat) (f : Dumb → Dumb) : (modDumb s d f).xlate = s.xlate := rfl
@[simp] theorem modDumb_corr (s : State) (d : Nat) (f : Dumb → Dumb) : (modDumb s d f).corr = s.corr := rfl
@[simp] theorem modDumb_thermo (s : State) (d : Nat) (f : Dumb → Dumb) : (modDumb s d f).thermo = s.thermo := rfl
@[simp] theorem modDumb_ctxs (s : State) (d : Nat) (f : Dumb → Dumb) : (modDumb s d f).ctxs = s.ctxs := rfl
@[simp] theorem modDumb_queues (s : State) (d : Nat) (f : Dumb → Dumb) : (modDumb s d f).queues = s.queues := rfl
@[simp] theorem modDumb_ops (s : State) (d : Nat) (f : Dumb → Dumb) : (modDumb s d f).ops = s.ops := rfl
@[simp] theorem modDumb_shares (s : State) (d : Nat) (f : Dumb → Dumb) : (modDumb s d f).shares = s.shares := rfl
@[simp] theorem modDumb_mboxes (s : State) (d : Nat) (f : Dumb → Dumb) : (modDumb s d f).mboxes = s.mboxes := rfl
@[simp] theorem modDumb_umboxes (s : State) (d : Nat) (f : Dumb → Dumb) : (modDumb s d f).umboxes = s.umboxes := rfl
@[simp] theorem modDumb_lastMbox (s : State) (d : Nat) (f : Dumb → Dumb) : (modDumb s d f).lastMbox = s.lastMbox := rfl
@[simp] theorem modDumb_events (s : State) (d : Nat) (f : Dumb → Dumb) : (modDumb s d f).events = s.events := rfl
@[simp] theorem modDumb_evSeq (s : State) (d : Nat) (f : Dumb → Dumb) : (modDumb s d f).evSeq = s.evSeq := rfl
@[simp] theorem modDumb_evRing (s : State) (d : Nat) (f : Dumb → Dumb) : (modDumb s d f).evRing = s.evRing := rfl
@[simp] theorem modDumb_bellClock (s : State) (d : Nat) (f : Dumb → Dumb) : (modDumb s d f).bellClock = s.bellClock := rfl
@[simp] theorem modDumb_link (s : State) (d : Nat) (f : Dumb → Dumb) : (modDumb s d f).link = s.link := rfl
@[simp] theorem modDumb_power (s : State) (d : Nat) (f : Dumb → Dumb) : (modDumb s d f).power = s.power := rfl
@[simp] theorem modDumb_thresh (s : State) (d : Nat) (f : Dumb → Dumb) : (modDumb s d f).thresh = s.thresh := rfl

/-! ### modOp changes ops -/

@[simp] theorem modOp_pending (s : State) (id : OpId) (f : Op → Op) : (modOp s id f).pending = s.pending := rfl
@[simp] theorem modOp_out (s : State) (id : OpId) (f : Op → Op) : (modOp s id f).out = s.out := rfl
@[simp] theorem modOp_freeIx (s : State) (id : OpId) (f : Op → Op) : (modOp s id f).freeIx = s.freeIx := rfl
@[simp] theorem modOp_fuses (s : State) (id : OpId) (f : Op → Op) : (modOp s id f).fuses = s.fuses := rfl
@[simp] theorem modOp_nvm (s : State) (id : OpId) (f : Op → Op) : (modOp s id f).nvm = s.nvm := rfl
@[simp] theorem modOp_pwrGood (s : State) (id : OpId) (f : Op → Op) : (modOp s id f).pwrGood = s.pwrGood := rfl
@[simp] theorem modOp_perstN (s : State) (id : OpId) (f : Op → Op) : (modOp s id f).perstN = s.perstN := rfl
@[simp] theorem modOp_thermTripN (s : State) (id : OpId) (f : Op → Op) : (modOp s id f).thermTripN = s.thermTripN := rfl
@[simp] theorem modOp_alertN (s : State) (id : OpId) (f : Op → Op) : (modOp s id f).alertN = s.alertN := rfl
@[simp] theorem modOp_smbusUp (s : State) (id : OpId) (f : Op → Op) : (modOp s id f).smbusUp = s.smbusUp := rfl
@[simp] theorem modOp_ifLevel (s : State) (id : OpId) (f : Op → Op) : (modOp s id f).ifLevel = s.ifLevel := rfl
@[simp] theorem modOp_nodeId (s : State) (id : OpId) (f : Op → Op) : (modOp s id f).nodeId = s.nodeId := rfl
@[simp] theorem modOp_resetting (s : State) (id : OpId) (f : Op → Op) : (modOp s id f).resetting = s.resetting := rfl
@[simp] theorem modOp_lampWasLit (s : State) (id : OpId) (f : Op → Op) : (modOp s id f).lampWasLit = s.lampWasLit := rfl
@[simp] theorem modOp_warmHeld (s : State) (id : OpId) (f : Op → Op) : (modOp s id f).warmHeld = s.warmHeld := rfl
@[simp] theorem modOp_pastDeadline (s : State) (id : OpId) (f : Op → Op) : (modOp s id f).pastDeadline = s.pastDeadline := rfl
@[simp] theorem modOp_internalCause (s : State) (id : OpId) (f : Op → Op) : (modOp s id f).internalCause = s.internalCause := rfl
@[simp] theorem modOp_fwFallback (s : State) (id : OpId) (f : Op → Op) : (modOp s id f).fwFallback = s.fwFallback := rfl
@[simp] theorem modOp_host (s : State) (id : OpId) (f : Op → Op) : (modOp s id f).host = s.host := rfl
@[simp] theorem modOp_windows (s : State) (id : OpId) (f : Op → Op) : (modOp s id f).windows = s.windows := rfl
@[simp] theorem modOp_lamp (s : State) (id : OpId) (f : Op → Op) : (modOp s id f).lamp = s.lamp := rfl
@[simp] theorem modOp_pantries (s : State) (id : OpId) (f : Op → Op) : (modOp s id f).pantries = s.pantries := rfl
@[simp] theorem modOp_trees (s : State) (id : OpId) (f : Op → Op) : (modOp s id f).trees = s.trees := rfl
@[simp] theorem modOp_study (s : State) (id : OpId) (f : Op → Op) : (modOp s id f).study = s.study := rfl
@[simp] theorem modOp_dumbs (s : State) (id : OpId) (f : Op → Op) : (modOp s id f).dumbs = s.dumbs := rfl
@[simp] theorem modOp_streams (s : State) (id : OpId) (f : Op → Op) : (modOp s id f).streams = s.streams := rfl
@[simp] theorem modOp_nextSid (s : State) (id : OpId) (f : Op → Op) : (modOp s id f).nextSid = s.nextSid := rfl
@[simp] theorem modOp_mem (s : State) (id : OpId) (f : Op → Op) : (modOp s id f).mem = s.mem := rfl
@[simp] theorem modOp_xlate (s : State) (id : OpId) (f : Op → Op) : (modOp s id f).xlate = s.xlate := rfl
@[simp] theorem modOp_corr (s : State) (id : OpId) (f : Op → Op) : (modOp s id f).corr = s.corr := rfl
@[simp] theorem modOp_thermo (s : State) (id : OpId) (f : Op → Op) : (modOp s id f).thermo = s.thermo := rfl
@[simp] theorem modOp_ctxs (s : State) (id : OpId) (f : Op → Op) : (modOp s id f).ctxs = s.ctxs := rfl
@[simp] theorem modOp_queues (s : State) (id : OpId) (f : Op → Op) : (modOp s id f).queues = s.queues := rfl
@[simp] theorem modOp_shares (s : State) (id : OpId) (f : Op → Op) : (modOp s id f).shares = s.shares := rfl
@[simp] theorem modOp_mboxes (s : State) (id : OpId) (f : Op → Op) : (modOp s id f).mboxes = s.mboxes := rfl
@[simp] theorem modOp_umboxes (s : State) (id : OpId) (f : Op → Op) : (modOp s id f).umboxes = s.umboxes := rfl
@[simp] theorem modOp_lastMbox (s : State) (id : OpId) (f : Op → Op) : (modOp s id f).lastMbox = s.lastMbox := rfl
@[simp] theorem modOp_events (s : State) (id : OpId) (f : Op → Op) : (modOp s id f).events = s.events := rfl
@[simp] theorem modOp_evSeq (s : State) (id : OpId) (f : Op → Op) : (modOp s id f).evSeq = s.evSeq := rfl
@[simp] theorem modOp_evRing (s : State) (id : OpId) (f : Op → Op) : (modOp s id f).evRing = s.evRing := rfl
@[simp] theorem modOp_bellClock (s : State) (id : OpId) (f : Op → Op) : (modOp s id f).bellClock = s.bellClock := rfl
@[simp] theorem modOp_link (s : State) (id : OpId) (f : Op → Op) : (modOp s id f).link = s.link := rfl
@[simp] theorem modOp_power (s : State) (id : OpId) (f : Op → Op) : (modOp s id f).power = s.power := rfl
@[simp] theorem modOp_thresh (s : State) (id : OpId) (f : Op → Op) : (modOp s id f).thresh = s.thresh := rfl

/-! ### emit changes out -/

@[simp] theorem emit_pending (s : State) (o : Out) : (emit s o).pending = s.pending := rfl
@[simp] theorem emit_freeIx (s : State) (o : Out) : (emit s o).freeIx = s.freeIx := rfl
@[simp] theorem emit_fuses (s : State) (o : Out) : (emit s o).fuses = s.fuses := rfl
@[simp] theorem emit_nvm (s : State) (o : Out) : (emit s o).nvm = s.nvm := rfl
@[simp] theorem emit_pwrGood (s : State) (o : Out) : (emit s o).pwrGood = s.pwrGood := rfl
@[simp] theorem emit_perstN (s : State) (o : Out) : (emit s o).perstN = s.perstN := rfl
@[simp] theorem emit_thermTripN (s : State) (o : Out) : (emit s o).thermTripN = s.thermTripN := rfl
@[simp] theorem emit_alertN (s : State) (o : Out) : (emit s o).alertN = s.alertN := rfl
@[simp] theorem emit_smbusUp (s : State) (o : Out) : (emit s o).smbusUp = s.smbusUp := rfl
@[simp] theorem emit_ifLevel (s : State) (o : Out) : (emit s o).ifLevel = s.ifLevel := rfl
@[simp] theorem emit_nodeId (s : State) (o : Out) : (emit s o).nodeId = s.nodeId := rfl
@[simp] theorem emit_resetting (s : State) (o : Out) : (emit s o).resetting = s.resetting := rfl
@[simp] theorem emit_lampWasLit (s : State) (o : Out) : (emit s o).lampWasLit = s.lampWasLit := rfl
@[simp] theorem emit_warmHeld (s : State) (o : Out) : (emit s o).warmHeld = s.warmHeld := rfl
@[simp] theorem emit_pastDeadline (s : State) (o : Out) : (emit s o).pastDeadline = s.pastDeadline := rfl
@[simp] theorem emit_internalCause (s : State) (o : Out) : (emit s o).internalCause = s.internalCause := rfl
@[simp] theorem emit_fwFallback (s : State) (o : Out) : (emit s o).fwFallback = s.fwFallback := rfl
@[simp] theorem emit_host (s : State) (o : Out) : (emit s o).host = s.host := rfl
@[simp] theorem emit_windows (s : State) (o : Out) : (emit s o).windows = s.windows := rfl
@[simp] theorem emit_lamp (s : State) (o : Out) : (emit s o).lamp = s.lamp := rfl
@[simp] theorem emit_pantries (s : State) (o : Out) : (emit s o).pantries = s.pantries := rfl
@[simp] theorem emit_trees (s : State) (o : Out) : (emit s o).trees = s.trees := rfl
@[simp] theorem emit_study (s : State) (o : Out) : (emit s o).study = s.study := rfl
@[simp] theorem emit_dumbs (s : State) (o : Out) : (emit s o).dumbs = s.dumbs := rfl
@[simp] theorem emit_streams (s : State) (o : Out) : (emit s o).streams = s.streams := rfl
@[simp] theorem emit_nextSid (s : State) (o : Out) : (emit s o).nextSid = s.nextSid := rfl
@[simp] theorem emit_mem (s : State) (o : Out) : (emit s o).mem = s.mem := rfl
@[simp] theorem emit_xlate (s : State) (o : Out) : (emit s o).xlate = s.xlate := rfl
@[simp] theorem emit_corr (s : State) (o : Out) : (emit s o).corr = s.corr := rfl
@[simp] theorem emit_thermo (s : State) (o : Out) : (emit s o).thermo = s.thermo := rfl
@[simp] theorem emit_ctxs (s : State) (o : Out) : (emit s o).ctxs = s.ctxs := rfl
@[simp] theorem emit_queues (s : State) (o : Out) : (emit s o).queues = s.queues := rfl
@[simp] theorem emit_ops (s : State) (o : Out) : (emit s o).ops = s.ops := rfl
@[simp] theorem emit_shares (s : State) (o : Out) : (emit s o).shares = s.shares := rfl
@[simp] theorem emit_mboxes (s : State) (o : Out) : (emit s o).mboxes = s.mboxes := rfl
@[simp] theorem emit_umboxes (s : State) (o : Out) : (emit s o).umboxes = s.umboxes := rfl
@[simp] theorem emit_lastMbox (s : State) (o : Out) : (emit s o).lastMbox = s.lastMbox := rfl
@[simp] theorem emit_events (s : State) (o : Out) : (emit s o).events = s.events := rfl
@[simp] theorem emit_evSeq (s : State) (o : Out) : (emit s o).evSeq = s.evSeq := rfl
@[simp] theorem emit_evRing (s : State) (o : Out) : (emit s o).evRing = s.evRing := rfl
@[simp] theorem emit_bellClock (s : State) (o : Out) : (emit s o).bellClock = s.bellClock := rfl
@[simp] theorem emit_link (s : State) (o : Out) : (emit s o).link = s.link := rfl
@[simp] theorem emit_power (s : State) (o : Out) : (emit s o).power = s.power := rfl
@[simp] theorem emit_thresh (s : State) (o : Out) : (emit s o).thresh = s.thresh := rfl

/-! ### audTake changes corr -/

@[simp] theorem audTake_pending (s : State) (q n : Nat) : (audTake s q n).pending = s.pending := rfl
@[simp] theorem audTake_out (s : State) (q n : Nat) : (audTake s q n).out = s.out := rfl
@[simp] theorem audTake_freeIx (s : State) (q n : Nat) : (audTake s q n).freeIx = s.freeIx := rfl
@[simp] theorem audTake_fuses (s : State) (q n : Nat) : (audTake s q n).fuses = s.fuses := rfl
@[simp] theorem audTake_nvm (s : State) (q n : Nat) : (audTake s q n).nvm = s.nvm := rfl
@[simp] theorem audTake_pwrGood (s : State) (q n : Nat) : (audTake s q n).pwrGood = s.pwrGood := rfl
@[simp] theorem audTake_perstN (s : State) (q n : Nat) : (audTake s q n).perstN = s.perstN := rfl
@[simp] theorem audTake_thermTripN (s : State) (q n : Nat) : (audTake s q n).thermTripN = s.thermTripN := rfl
@[simp] theorem audTake_alertN (s : State) (q n : Nat) : (audTake s q n).alertN = s.alertN := rfl
@[simp] theorem audTake_smbusUp (s : State) (q n : Nat) : (audTake s q n).smbusUp = s.smbusUp := rfl
@[simp] theorem audTake_ifLevel (s : State) (q n : Nat) : (audTake s q n).ifLevel = s.ifLevel := rfl
@[simp] theorem audTake_nodeId (s : State) (q n : Nat) : (audTake s q n).nodeId = s.nodeId := rfl
@[simp] theorem audTake_resetting (s : State) (q n : Nat) : (audTake s q n).resetting = s.resetting := rfl
@[simp] theorem audTake_lampWasLit (s : State) (q n : Nat) : (audTake s q n).lampWasLit = s.lampWasLit := rfl
@[simp] theorem audTake_warmHeld (s : State) (q n : Nat) : (audTake s q n).warmHeld = s.warmHeld := rfl
@[simp] theorem audTake_pastDeadline (s : State) (q n : Nat) : (audTake s q n).pastDeadline = s.pastDeadline := rfl
@[simp] theorem audTake_internalCause (s : State) (q n : Nat) : (audTake s q n).internalCause = s.internalCause := rfl
@[simp] theorem audTake_fwFallback (s : State) (q n : Nat) : (audTake s q n).fwFallback = s.fwFallback := rfl
@[simp] theorem audTake_host (s : State) (q n : Nat) : (audTake s q n).host = s.host := rfl
@[simp] theorem audTake_windows (s : State) (q n : Nat) : (audTake s q n).windows = s.windows := rfl
@[simp] theorem audTake_lamp (s : State) (q n : Nat) : (audTake s q n).lamp = s.lamp := rfl
@[simp] theorem audTake_pantries (s : State) (q n : Nat) : (audTake s q n).pantries = s.pantries := rfl
@[simp] theorem audTake_trees (s : State) (q n : Nat) : (audTake s q n).trees = s.trees := rfl
@[simp] theorem audTake_study (s : State) (q n : Nat) : (audTake s q n).study = s.study := rfl
@[simp] theorem audTake_dumbs (s : State) (q n : Nat) : (audTake s q n).dumbs = s.dumbs := rfl
@[simp] theorem audTake_streams (s : State) (q n : Nat) : (audTake s q n).streams = s.streams := rfl
@[simp] theorem audTake_nextSid (s : State) (q n : Nat) : (audTake s q n).nextSid = s.nextSid := rfl
@[simp] theorem audTake_mem (s : State) (q n : Nat) : (audTake s q n).mem = s.mem := rfl
@[simp] theorem audTake_xlate (s : State) (q n : Nat) : (audTake s q n).xlate = s.xlate := rfl
@[simp] theorem audTake_thermo (s : State) (q n : Nat) : (audTake s q n).thermo = s.thermo := rfl
@[simp] theorem audTake_ctxs (s : State) (q n : Nat) : (audTake s q n).ctxs = s.ctxs := rfl
@[simp] theorem audTake_queues (s : State) (q n : Nat) : (audTake s q n).queues = s.queues := rfl
@[simp] theorem audTake_ops (s : State) (q n : Nat) : (audTake s q n).ops = s.ops := rfl
@[simp] theorem audTake_shares (s : State) (q n : Nat) : (audTake s q n).shares = s.shares := rfl
@[simp] theorem audTake_mboxes (s : State) (q n : Nat) : (audTake s q n).mboxes = s.mboxes := rfl
@[simp] theorem audTake_umboxes (s : State) (q n : Nat) : (audTake s q n).umboxes = s.umboxes := rfl
@[simp] theorem audTake_lastMbox (s : State) (q n : Nat) : (audTake s q n).lastMbox = s.lastMbox := rfl
@[simp] theorem audTake_events (s : State) (q n : Nat) : (audTake s q n).events = s.events := rfl
@[simp] theorem audTake_evSeq (s : State) (q n : Nat) : (audTake s q n).evSeq = s.evSeq := rfl
@[simp] theorem audTake_evRing (s : State) (q n : Nat) : (audTake s q n).evRing = s.evRing := rfl
@[simp] theorem audTake_bellClock (s : State) (q n : Nat) : (audTake s q n).bellClock = s.bellClock := rfl
@[simp] theorem audTake_link (s : State) (q n : Nat) : (audTake s q n).link = s.link := rfl
@[simp] theorem audTake_power (s : State) (q n : Nat) : (audTake s q n).power = s.power := rfl
@[simp] theorem audTake_thresh (s : State) (q n : Nat) : (audTake s q n).thresh = s.thresh := rfl

/-! ### audGive changes corr -/

@[simp] theorem audGive_pending (s : State) (q n : Nat) : (audGive s q n).pending = s.pending := rfl
@[simp] theorem audGive_out (s : State) (q n : Nat) : (audGive s q n).out = s.out := rfl
@[simp] theorem audGive_freeIx (s : State) (q n : Nat) : (audGive s q n).freeIx = s.freeIx := rfl
@[simp] theorem audGive_fuses (s : State) (q n : Nat) : (audGive s q n).fuses = s.fuses := rfl
@[simp] theorem audGive_nvm (s : State) (q n : Nat) : (audGive s q n).nvm = s.nvm := rfl
@[simp] theorem audGive_pwrGood (s : State) (q n : Nat) : (audGive s q n).pwrGood = s.pwrGood := rfl
@[simp] theorem audGive_perstN (s : State) (q n : Nat) : (audGive s q n).perstN = s.perstN := rfl
@[simp] theorem audGive_thermTripN (s : State) (q n : Nat) : (audGive s q n).thermTripN = s.thermTripN := rfl
@[simp] theorem audGive_alertN (s : State) (q n : Nat) : (audGive s q n).alertN = s.alertN := rfl
@[simp] theorem audGive_smbusUp (s : State) (q n : Nat) : (audGive s q n).smbusUp = s.smbusUp := rfl
@[simp] theorem audGive_ifLevel (s : State) (q n : Nat) : (audGive s q n).ifLevel = s.ifLevel := rfl
@[simp] theorem audGive_nodeId (s : State) (q n : Nat) : (audGive s q n).nodeId = s.nodeId := rfl
@[simp] theorem audGive_resetting (s : State) (q n : Nat) : (audGive s q n).resetting = s.resetting := rfl
@[simp] theorem audGive_lampWasLit (s : State) (q n : Nat) : (audGive s q n).lampWasLit = s.lampWasLit := rfl
@[simp] theorem audGive_warmHeld (s : State) (q n : Nat) : (audGive s q n).warmHeld = s.warmHeld := rfl
@[simp] theorem audGive_pastDeadline (s : State) (q n : Nat) : (audGive s q n).pastDeadline = s.pastDeadline := rfl
@[simp] theorem audGive_internalCause (s : State) (q n : Nat) : (audGive s q n).internalCause = s.internalCause := rfl
@[simp] theorem audGive_fwFallback (s : State) (q n : Nat) : (audGive s q n).fwFallback = s.fwFallback := rfl
@[simp] theorem audGive_host (s : State) (q n : Nat) : (audGive s q n).host = s.host := rfl
@[simp] theorem audGive_windows (s : State) (q n : Nat) : (audGive s q n).windows = s.windows := rfl
@[simp] theorem audGive_lamp (s : State) (q n : Nat) : (audGive s q n).lamp = s.lamp := rfl
@[simp] theorem audGive_pantries (s : State) (q n : Nat) : (audGive s q n).pantries = s.pantries := rfl
@[simp] theorem audGive_trees (s : State) (q n : Nat) : (audGive s q n).trees = s.trees := rfl
@[simp] theorem audGive_study (s : State) (q n : Nat) : (audGive s q n).study = s.study := rfl
@[simp] theorem audGive_dumbs (s : State) (q n : Nat) : (audGive s q n).dumbs = s.dumbs := rfl
@[simp] theorem audGive_streams (s : State) (q n : Nat) : (audGive s q n).streams = s.streams := rfl
@[simp] theorem audGive_nextSid (s : State) (q n : Nat) : (audGive s q n).nextSid = s.nextSid := rfl
@[simp] theorem audGive_mem (s : State) (q n : Nat) : (audGive s q n).mem = s.mem := rfl
@[simp] theorem audGive_xlate (s : State) (q n : Nat) : (audGive s q n).xlate = s.xlate := rfl
@[simp] theorem audGive_thermo (s : State) (q n : Nat) : (audGive s q n).thermo = s.thermo := rfl
@[simp] theorem audGive_ctxs (s : State) (q n : Nat) : (audGive s q n).ctxs = s.ctxs := rfl
@[simp] theorem audGive_queues (s : State) (q n : Nat) : (audGive s q n).queues = s.queues := rfl
@[simp] theorem audGive_ops (s : State) (q n : Nat) : (audGive s q n).ops = s.ops := rfl
@[simp] theorem audGive_shares (s : State) (q n : Nat) : (audGive s q n).shares = s.shares := rfl
@[simp] theorem audGive_mboxes (s : State) (q n : Nat) : (audGive s q n).mboxes = s.mboxes := rfl
@[simp] theorem audGive_umboxes (s : State) (q n : Nat) : (audGive s q n).umboxes = s.umboxes := rfl
@[simp] theorem audGive_lastMbox (s : State) (q n : Nat) : (audGive s q n).lastMbox = s.lastMbox := rfl
@[simp] theorem audGive_events (s : State) (q n : Nat) : (audGive s q n).events = s.events := rfl
@[simp] theorem audGive_evSeq (s : State) (q n : Nat) : (audGive s q n).evSeq = s.evSeq := rfl
@[simp] theorem audGive_evRing (s : State) (q n : Nat) : (audGive s q n).evRing = s.evRing := rfl
@[simp] theorem audGive_bellClock (s : State) (q n : Nat) : (audGive s q n).bellClock = s.bellClock := rfl
@[simp] theorem audGive_link (s : State) (q n : Nat) : (audGive s q n).link = s.link := rfl
@[simp] theorem audGive_power (s : State) (q n : Nat) : (audGive s q n).power = s.power := rfl
@[simp] theorem audGive_thresh (s : State) (q n : Nat) : (audGive s q n).thresh = s.thresh := rfl

/-! ### modMsix changes host -/

@[simp] theorem modMsix_pending (s : State) (v : Nat) (f : Msix → Msix) : (modMsix s v f).pending = s.pending := rfl
@[simp] theorem modMsix_out (s : State) (v : Nat) (f : Msix → Msix) : (modMsix s v f).out = s.out := rfl
@[simp] theorem modMsix_freeIx (s : State) (v : Nat) (f : Msix → Msix) : (modMsix s v f).freeIx = s.freeIx := rfl
@[simp] theorem modMsix_fuses (s : State) (v : Nat) (f : Msix → Msix) : (modMsix s v f).fuses = s.fuses := rfl
@[simp] theorem modMsix_nvm (s : State) (v : Nat) (f : Msix → Msix) : (modMsix s v f).nvm = s.nvm := rfl
@[simp] theorem modMsix_pwrGood (s : State) (v : Nat) (f : Msix → Msix) : (modMsix s v f).pwrGood = s.pwrGood := rfl
@[simp] theorem modMsix_perstN (s : State) (v : Nat) (f : Msix → Msix) : (modMsix s v f).perstN = s.perstN := rfl
@[simp] theorem modMsix_thermTripN (s : State) (v : Nat) (f : Msix → Msix) : (modMsix s v f).thermTripN = s.thermTripN := rfl
@[simp] theorem modMsix_alertN (s : State) (v : Nat) (f : Msix → Msix) : (modMsix s v f).alertN = s.alertN := rfl
@[simp] theorem modMsix_smbusUp (s : State) (v : Nat) (f : Msix → Msix) : (modMsix s v f).smbusUp = s.smbusUp := rfl
@[simp] theorem modMsix_ifLevel (s : State) (v : Nat) (f : Msix → Msix) : (modMsix s v f).ifLevel = s.ifLevel := rfl
@[simp] theorem modMsix_nodeId (s : State) (v : Nat) (f : Msix → Msix) : (modMsix s v f).nodeId = s.nodeId := rfl
@[simp] theorem modMsix_resetting (s : State) (v : Nat) (f : Msix → Msix) : (modMsix s v f).resetting = s.resetting := rfl
@[simp] theorem modMsix_lampWasLit (s : State) (v : Nat) (f : Msix → Msix) : (modMsix s v f).lampWasLit = s.lampWasLit := rfl
@[simp] theorem modMsix_warmHeld (s : State) (v : Nat) (f : Msix → Msix) : (modMsix s v f).warmHeld = s.warmHeld := rfl
@[simp] theorem modMsix_pastDeadline (s : State) (v : Nat) (f : Msix → Msix) : (modMsix s v f).pastDeadline = s.pastDeadline := rfl
@[simp] theorem modMsix_internalCause (s : State) (v : Nat) (f : Msix → Msix) : (modMsix s v f).internalCause = s.internalCause := rfl
@[simp] theorem modMsix_fwFallback (s : State) (v : Nat) (f : Msix → Msix) : (modMsix s v f).fwFallback = s.fwFallback := rfl
@[simp] theorem modMsix_windows (s : State) (v : Nat) (f : Msix → Msix) : (modMsix s v f).windows = s.windows := rfl
@[simp] theorem modMsix_lamp (s : State) (v : Nat) (f : Msix → Msix) : (modMsix s v f).lamp = s.lamp := rfl
@[simp] theorem modMsix_pantries (s : State) (v : Nat) (f : Msix → Msix) : (modMsix s v f).pantries = s.pantries := rfl
@[simp] theorem modMsix_trees (s : State) (v : Nat) (f : Msix → Msix) : (modMsix s v f).trees = s.trees := rfl
@[simp] theorem modMsix_study (s : State) (v : Nat) (f : Msix → Msix) : (modMsix s v f).study = s.study := rfl
@[simp] theorem modMsix_dumbs (s : State) (v : Nat) (f : Msix → Msix) : (modMsix s v f).dumbs = s.dumbs := rfl
@[simp] theorem modMsix_streams (s : State) (v : Nat) (f : Msix → Msix) : (modMsix s v f).streams = s.streams := rfl
@[simp] theorem modMsix_nextSid (s : State) (v : Nat) (f : Msix → Msix) : (modMsix s v f).nextSid = s.nextSid := rfl
@[simp] theorem modMsix_mem (s : State) (v : Nat) (f : Msix → Msix) : (modMsix s v f).mem = s.mem := rfl
@[simp] theorem modMsix_xlate (s : State) (v : Nat) (f : Msix → Msix) : (modMsix s v f).xlate = s.xlate := rfl
@[simp] theorem modMsix_corr (s : State) (v : Nat) (f : Msix → Msix) : (modMsix s v f).corr = s.corr := rfl
@[simp] theorem modMsix_thermo (s : State) (v : Nat) (f : Msix → Msix) : (modMsix s v f).thermo = s.thermo := rfl
@[simp] theorem modMsix_ctxs (s : State) (v : Nat) (f : Msix → Msix) : (modMsix s v f).ctxs = s.ctxs := rfl
@[simp] theorem modMsix_queues (s : State) (v : Nat) (f : Msix → Msix) : (modMsix s v f).queues = s.queues := rfl
@[simp] theorem modMsix_ops (s : State) (v : Nat) (f : Msix → Msix) : (modMsix s v f).ops = s.ops := rfl
@[simp] theorem modMsix_shares (s : State) (v : Nat) (f : Msix → Msix) : (modMsix s v f).shares = s.shares := rfl
@[simp] theorem modMsix_mboxes (s : State) (v : Nat) (f : Msix → Msix) : (modMsix s v f).mboxes = s.mboxes := rfl
@[simp] theorem modMsix_umboxes (s : State) (v : Nat) (f : Msix → Msix) : (modMsix s v f).umboxes = s.umboxes := rfl
@[simp] theorem modMsix_lastMbox (s : State) (v : Nat) (f : Msix → Msix) : (modMsix s v f).lastMbox = s.lastMbox := rfl
@[simp] theorem modMsix_events (s : State) (v : Nat) (f : Msix → Msix) : (modMsix s v f).events = s.events := rfl
@[simp] theorem modMsix_evSeq (s : State) (v : Nat) (f : Msix → Msix) : (modMsix s v f).evSeq = s.evSeq := rfl
@[simp] theorem modMsix_evRing (s : State) (v : Nat) (f : Msix → Msix) : (modMsix s v f).evRing = s.evRing := rfl
@[simp] theorem modMsix_bellClock (s : State) (v : Nat) (f : Msix → Msix) : (modMsix s v f).bellClock = s.bellClock := rfl
@[simp] theorem modMsix_link (s : State) (v : Nat) (f : Msix → Msix) : (modMsix s v f).link = s.link := rfl
@[simp] theorem modMsix_power (s : State) (v : Nat) (f : Msix → Msix) : (modMsix s v f).power = s.power := rfl
@[simp] theorem modMsix_thresh (s : State) (v : Nat) (f : Msix → Msix) : (modMsix s v f).thresh = s.thresh := rfl

/-! ### clearPoison changes mem -/

@[simp] theorem clearPoison_pending (s : State) (g : Nat) : (clearPoison s g).pending = s.pending := rfl
@[simp] theorem clearPoison_out (s : State) (g : Nat) : (clearPoison s g).out = s.out := rfl
@[simp] theorem clearPoison_freeIx (s : State) (g : Nat) : (clearPoison s g).freeIx = s.freeIx := rfl
@[simp] theorem clearPoison_fuses (s : State) (g : Nat) : (clearPoison s g).fuses = s.fuses := rfl
@[simp] theorem clearPoison_nvm (s : State) (g : Nat) : (clearPoison s g).nvm = s.nvm := rfl
@[simp] theorem clearPoison_pwrGood (s : State) (g : Nat) : (clearPoison s g).pwrGood = s.pwrGood := rfl
@[simp] theorem clearPoison_perstN (s : State) (g : Nat) : (clearPoison s g).perstN = s.perstN := rfl
@[simp] theorem clearPoison_thermTripN (s : State) (g : Nat) : (clearPoison s g).thermTripN = s.thermTripN := rfl
@[simp] theorem clearPoison_alertN (s : State) (g : Nat) : (clearPoison s g).alertN = s.alertN := rfl
@[simp] theorem clearPoison_smbusUp (s : State) (g : Nat) : (clearPoison s g).smbusUp = s.smbusUp := rfl
@[simp] theorem clearPoison_ifLevel (s : State) (g : Nat) : (clearPoison s g).ifLevel = s.ifLevel := rfl
@[simp] theorem clearPoison_nodeId (s : State) (g : Nat) : (clearPoison s g).nodeId = s.nodeId := rfl
@[simp] theorem clearPoison_resetting (s : State) (g : Nat) : (clearPoison s g).resetting = s.resetting := rfl
@[simp] theorem clearPoison_lampWasLit (s : State) (g : Nat) : (clearPoison s g).lampWasLit = s.lampWasLit := rfl
@[simp] theorem clearPoison_warmHeld (s : State) (g : Nat) : (clearPoison s g).warmHeld = s.warmHeld := rfl
@[simp] theorem clearPoison_pastDeadline (s : State) (g : Nat) : (clearPoison s g).pastDeadline = s.pastDeadline := rfl
@[simp] theorem clearPoison_internalCause (s : State) (g : Nat) : (clearPoison s g).internalCause = s.internalCause := rfl
@[simp] theorem clearPoison_fwFallback (s : State) (g : Nat) : (clearPoison s g).fwFallback = s.fwFallback := rfl
@[simp] theorem clearPoison_host (s : State) (g : Nat) : (clearPoison s g).host = s.host := rfl
@[simp] theorem clearPoison_windows (s : State) (g : Nat) : (clearPoison s g).windows = s.windows := rfl
@[simp] theorem clearPoison_lamp (s : State) (g : Nat) : (clearPoison s g).lamp = s.lamp := rfl
@[simp] theorem clearPoison_pantries (s : State) (g : Nat) : (clearPoison s g).pantries = s.pantries := rfl
@[simp] theorem clearPoison_trees (s : State) (g : Nat) : (clearPoison s g).trees = s.trees := rfl
@[simp] theorem clearPoison_study (s : State) (g : Nat) : (clearPoison s g).study = s.study := rfl
@[simp] theorem clearPoison_dumbs (s : State) (g : Nat) : (clearPoison s g).dumbs = s.dumbs := rfl
@[simp] theorem clearPoison_streams (s : State) (g : Nat) : (clearPoison s g).streams = s.streams := rfl
@[simp] theorem clearPoison_nextSid (s : State) (g : Nat) : (clearPoison s g).nextSid = s.nextSid := rfl
@[simp] theorem clearPoison_xlate (s : State) (g : Nat) : (clearPoison s g).xlate = s.xlate := rfl
@[simp] theorem clearPoison_corr (s : State) (g : Nat) : (clearPoison s g).corr = s.corr := rfl
@[simp] theorem clearPoison_thermo (s : State) (g : Nat) : (clearPoison s g).thermo = s.thermo := rfl
@[simp] theorem clearPoison_ctxs (s : State) (g : Nat) : (clearPoison s g).ctxs = s.ctxs := rfl
@[simp] theorem clearPoison_queues (s : State) (g : Nat) : (clearPoison s g).queues = s.queues := rfl
@[simp] theorem clearPoison_ops (s : State) (g : Nat) : (clearPoison s g).ops = s.ops := rfl
@[simp] theorem clearPoison_shares (s : State) (g : Nat) : (clearPoison s g).shares = s.shares := rfl
@[simp] theorem clearPoison_mboxes (s : State) (g : Nat) : (clearPoison s g).mboxes = s.mboxes := rfl
@[simp] theorem clearPoison_umboxes (s : State) (g : Nat) : (clearPoison s g).umboxes = s.umboxes := rfl
@[simp] theorem clearPoison_lastMbox (s : State) (g : Nat) : (clearPoison s g).lastMbox = s.lastMbox := rfl
@[simp] theorem clearPoison_events (s : State) (g : Nat) : (clearPoison s g).events = s.events := rfl
@[simp] theorem clearPoison_evSeq (s : State) (g : Nat) : (clearPoison s g).evSeq = s.evSeq := rfl
@[simp] theorem clearPoison_evRing (s : State) (g : Nat) : (clearPoison s g).evRing = s.evRing := rfl
@[simp] theorem clearPoison_bellClock (s : State) (g : Nat) : (clearPoison s g).bellClock = s.bellClock := rfl
@[simp] theorem clearPoison_link (s : State) (g : Nat) : (clearPoison s g).link = s.link := rfl
@[simp] theorem clearPoison_power (s : State) (g : Nat) : (clearPoison s g).power = s.power := rfl
@[simp] theorem clearPoison_thresh (s : State) (g : Nat) : (clearPoison s g).thresh = s.thresh := rfl

/-! ### elog changes mem -/

@[simp] theorem elog_pending (s : State) (pa : Nat) (c : Option Nat) (src : Finder) : (elog s pa c src).pending = s.pending := rfl
@[simp] theorem elog_out (s : State) (pa : Nat) (c : Option Nat) (src : Finder) : (elog s pa c src).out = s.out := rfl
@[simp] theorem elog_freeIx (s : State) (pa : Nat) (c : Option Nat) (src : Finder) : (elog s pa c src).freeIx = s.freeIx := rfl
@[simp] theorem elog_fuses (s : State) (pa : Nat) (c : Option Nat) (src : Finder) : (elog s pa c src).fuses = s.fuses := rfl
@[simp] theorem elog_nvm (s : State) (pa : Nat) (c : Option Nat) (src : Finder) : (elog s pa c src).nvm = s.nvm := rfl
@[simp] theorem elog_pwrGood (s : State) (pa : Nat) (c : Option Nat) (src : Finder) : (elog s pa c src).pwrGood = s.pwrGood := rfl
@[simp] theorem elog_perstN (s : State) (pa : Nat) (c : Option Nat) (src : Finder) : (elog s pa c src).perstN = s.perstN := rfl
@[simp] theorem elog_thermTripN (s : State) (pa : Nat) (c : Option Nat) (src : Finder) : (elog s pa c src).thermTripN = s.thermTripN := rfl
@[simp] theorem elog_alertN (s : State) (pa : Nat) (c : Option Nat) (src : Finder) : (elog s pa c src).alertN = s.alertN := rfl
@[simp] theorem elog_smbusUp (s : State) (pa : Nat) (c : Option Nat) (src : Finder) : (elog s pa c src).smbusUp = s.smbusUp := rfl
@[simp] theorem elog_ifLevel (s : State) (pa : Nat) (c : Option Nat) (src : Finder) : (elog s pa c src).ifLevel = s.ifLevel := rfl
@[simp] theorem elog_nodeId (s : State) (pa : Nat) (c : Option Nat) (src : Finder) : (elog s pa c src).nodeId = s.nodeId := rfl
@[simp] theorem elog_resetting (s : State) (pa : Nat) (c : Option Nat) (src : Finder) : (elog s pa c src).resetting = s.resetting := rfl
@[simp] theorem elog_lampWasLit (s : State) (pa : Nat) (c : Option Nat) (src : Finder) : (elog s pa c src).lampWasLit = s.lampWasLit := rfl
@[simp] theorem elog_warmHeld (s : State) (pa : Nat) (c : Option Nat) (src : Finder) : (elog s pa c src).warmHeld = s.warmHeld := rfl
@[simp] theorem elog_pastDeadline (s : State) (pa : Nat) (c : Option Nat) (src : Finder) : (elog s pa c src).pastDeadline = s.pastDeadline := rfl
@[simp] theorem elog_internalCause (s : State) (pa : Nat) (c : Option Nat) (src : Finder) : (elog s pa c src).internalCause = s.internalCause := rfl
@[simp] theorem elog_fwFallback (s : State) (pa : Nat) (c : Option Nat) (src : Finder) : (elog s pa c src).fwFallback = s.fwFallback := rfl
@[simp] theorem elog_host (s : State) (pa : Nat) (c : Option Nat) (src : Finder) : (elog s pa c src).host = s.host := rfl
@[simp] theorem elog_windows (s : State) (pa : Nat) (c : Option Nat) (src : Finder) : (elog s pa c src).windows = s.windows := rfl
@[simp] theorem elog_lamp (s : State) (pa : Nat) (c : Option Nat) (src : Finder) : (elog s pa c src).lamp = s.lamp := rfl
@[simp] theorem elog_pantries (s : State) (pa : Nat) (c : Option Nat) (src : Finder) : (elog s pa c src).pantries = s.pantries := rfl
@[simp] theorem elog_trees (s : State) (pa : Nat) (c : Option Nat) (src : Finder) : (elog s pa c src).trees = s.trees := rfl
@[simp] theorem elog_study (s : State) (pa : Nat) (c : Option Nat) (src : Finder) : (elog s pa c src).study = s.study := rfl
@[simp] theorem elog_dumbs (s : State) (pa : Nat) (c : Option Nat) (src : Finder) : (elog s pa c src).dumbs = s.dumbs := rfl
@[simp] theorem elog_streams (s : State) (pa : Nat) (c : Option Nat) (src : Finder) : (elog s pa c src).streams = s.streams := rfl
@[simp] theorem elog_nextSid (s : State) (pa : Nat) (c : Option Nat) (src : Finder) : (elog s pa c src).nextSid = s.nextSid := rfl
@[simp] theorem elog_xlate (s : State) (pa : Nat) (c : Option Nat) (src : Finder) : (elog s pa c src).xlate = s.xlate := rfl
@[simp] theorem elog_corr (s : State) (pa : Nat) (c : Option Nat) (src : Finder) : (elog s pa c src).corr = s.corr := rfl
@[simp] theorem elog_thermo (s : State) (pa : Nat) (c : Option Nat) (src : Finder) : (elog s pa c src).thermo = s.thermo := rfl
@[simp] theorem elog_ctxs (s : State) (pa : Nat) (c : Option Nat) (src : Finder) : (elog s pa c src).ctxs = s.ctxs := rfl
@[simp] theorem elog_queues (s : State) (pa : Nat) (c : Option Nat) (src : Finder) : (elog s pa c src).queues = s.queues := rfl
@[simp] theorem elog_ops (s : State) (pa : Nat) (c : Option Nat) (src : Finder) : (elog s pa c src).ops = s.ops := rfl
@[simp] theorem elog_shares (s : State) (pa : Nat) (c : Option Nat) (src : Finder) : (elog s pa c src).shares = s.shares := rfl
@[simp] theorem elog_mboxes (s : State) (pa : Nat) (c : Option Nat) (src : Finder) : (elog s pa c src).mboxes = s.mboxes := rfl
@[simp] theorem elog_umboxes (s : State) (pa : Nat) (c : Option Nat) (src : Finder) : (elog s pa c src).umboxes = s.umboxes := rfl
@[simp] theorem elog_lastMbox (s : State) (pa : Nat) (c : Option Nat) (src : Finder) : (elog s pa c src).lastMbox = s.lastMbox := rfl
@[simp] theorem elog_events (s : State) (pa : Nat) (c : Option Nat) (src : Finder) : (elog s pa c src).events = s.events := rfl
@[simp] theorem elog_evSeq (s : State) (pa : Nat) (c : Option Nat) (src : Finder) : (elog s pa c src).evSeq = s.evSeq := rfl
@[simp] theorem elog_evRing (s : State) (pa : Nat) (c : Option Nat) (src : Finder) : (elog s pa c src).evRing = s.evRing := rfl
@[simp] theorem elog_bellClock (s : State) (pa : Nat) (c : Option Nat) (src : Finder) : (elog s pa c src).bellClock = s.bellClock := rfl
@[simp] theorem elog_link (s : State) (pa : Nat) (c : Option Nat) (src : Finder) : (elog s pa c src).link = s.link := rfl
@[simp] theorem elog_power (s : State) (pa : Nat) (c : Option Nat) (src : Finder) : (elog s pa c src).power = s.power := rfl
@[simp] theorem elog_thresh (s : State) (pa : Nat) (c : Option Nat) (src : Finder) : (elog s pa c src).thresh = s.thresh := rfl

/-! ### modCtx changes ctxs -/

@[simp] theorem modCtx_pending (s : State) (n : Nat) (f : Context → Context) : (modCtx s n f).pending = s.pending := by unfold modCtx; split <;> rfl
@[simp] theorem modCtx_out (s : State) (n : Nat) (f : Context → Context) : (modCtx s n f).out = s.out := by unfold modCtx; split <;> rfl
@[simp] theorem modCtx_freeIx (s : State) (n : Nat) (f : Context → Context) : (modCtx s n f).freeIx = s.freeIx := by unfold modCtx; split <;> rfl
@[simp] theorem modCtx_fuses (s : State) (n : Nat) (f : Context → Context) : (modCtx s n f).fuses = s.fuses := by unfold modCtx; split <;> rfl
@[simp] theorem modCtx_nvm (s : State) (n : Nat) (f : Context → Context) : (modCtx s n f).nvm = s.nvm := by unfold modCtx; split <;> rfl
@[simp] theorem modCtx_pwrGood (s : State) (n : Nat) (f : Context → Context) : (modCtx s n f).pwrGood = s.pwrGood := by unfold modCtx; split <;> rfl
@[simp] theorem modCtx_perstN (s : State) (n : Nat) (f : Context → Context) : (modCtx s n f).perstN = s.perstN := by unfold modCtx; split <;> rfl
@[simp] theorem modCtx_thermTripN (s : State) (n : Nat) (f : Context → Context) : (modCtx s n f).thermTripN = s.thermTripN := by unfold modCtx; split <;> rfl
@[simp] theorem modCtx_alertN (s : State) (n : Nat) (f : Context → Context) : (modCtx s n f).alertN = s.alertN := by unfold modCtx; split <;> rfl
@[simp] theorem modCtx_smbusUp (s : State) (n : Nat) (f : Context → Context) : (modCtx s n f).smbusUp = s.smbusUp := by unfold modCtx; split <;> rfl
@[simp] theorem modCtx_ifLevel (s : State) (n : Nat) (f : Context → Context) : (modCtx s n f).ifLevel = s.ifLevel := by unfold modCtx; split <;> rfl
@[simp] theorem modCtx_nodeId (s : State) (n : Nat) (f : Context → Context) : (modCtx s n f).nodeId = s.nodeId := by unfold modCtx; split <;> rfl
@[simp] theorem modCtx_resetting (s : State) (n : Nat) (f : Context → Context) : (modCtx s n f).resetting = s.resetting := by unfold modCtx; split <;> rfl
@[simp] theorem modCtx_lampWasLit (s : State) (n : Nat) (f : Context → Context) : (modCtx s n f).lampWasLit = s.lampWasLit := by unfold modCtx; split <;> rfl
@[simp] theorem modCtx_warmHeld (s : State) (n : Nat) (f : Context → Context) : (modCtx s n f).warmHeld = s.warmHeld := by unfold modCtx; split <;> rfl
@[simp] theorem modCtx_pastDeadline (s : State) (n : Nat) (f : Context → Context) : (modCtx s n f).pastDeadline = s.pastDeadline := by unfold modCtx; split <;> rfl
@[simp] theorem modCtx_internalCause (s : State) (n : Nat) (f : Context → Context) : (modCtx s n f).internalCause = s.internalCause := by unfold modCtx; split <;> rfl
@[simp] theorem modCtx_fwFallback (s : State) (n : Nat) (f : Context → Context) : (modCtx s n f).fwFallback = s.fwFallback := by unfold modCtx; split <;> rfl
@[simp] theorem modCtx_host (s : State) (n : Nat) (f : Context → Context) : (modCtx s n f).host = s.host := by unfold modCtx; split <;> rfl
@[simp] theorem modCtx_windows (s : State) (n : Nat) (f : Context → Context) : (modCtx s n f).windows = s.windows := by unfold modCtx; split <;> rfl
@[simp] theorem modCtx_lamp (s : State) (n : Nat) (f : Context → Context) : (modCtx s n f).lamp = s.lamp := by unfold modCtx; split <;> rfl
@[simp] theorem modCtx_pantries (s : State) (n : Nat) (f : Context → Context) : (modCtx s n f).pantries = s.pantries := by unfold modCtx; split <;> rfl
@[simp] theorem modCtx_trees (s : State) (n : Nat) (f : Context → Context) : (modCtx s n f).trees = s.trees := by unfold modCtx; split <;> rfl
@[simp] theorem modCtx_study (s : State) (n : Nat) (f : Context → Context) : (modCtx s n f).study = s.study := by unfold modCtx; split <;> rfl
@[simp] theorem modCtx_dumbs (s : State) (n : Nat) (f : Context → Context) : (modCtx s n f).dumbs = s.dumbs := by unfold modCtx; split <;> rfl
@[simp] theorem modCtx_streams (s : State) (n : Nat) (f : Context → Context) : (modCtx s n f).streams = s.streams := by unfold modCtx; split <;> rfl
@[simp] theorem modCtx_nextSid (s : State) (n : Nat) (f : Context → Context) : (modCtx s n f).nextSid = s.nextSid := by unfold modCtx; split <;> rfl
@[simp] theorem modCtx_mem (s : State) (n : Nat) (f : Context → Context) : (modCtx s n f).mem = s.mem := by unfold modCtx; split <;> rfl
@[simp] theorem modCtx_xlate (s : State) (n : Nat) (f : Context → Context) : (modCtx s n f).xlate = s.xlate := by unfold modCtx; split <;> rfl
@[simp] theorem modCtx_corr (s : State) (n : Nat) (f : Context → Context) : (modCtx s n f).corr = s.corr := by unfold modCtx; split <;> rfl
@[simp] theorem modCtx_thermo (s : State) (n : Nat) (f : Context → Context) : (modCtx s n f).thermo = s.thermo := by unfold modCtx; split <;> rfl
@[simp] theorem modCtx_queues (s : State) (n : Nat) (f : Context → Context) : (modCtx s n f).queues = s.queues := by unfold modCtx; split <;> rfl
@[simp] theorem modCtx_ops (s : State) (n : Nat) (f : Context → Context) : (modCtx s n f).ops = s.ops := by unfold modCtx; split <;> rfl
@[simp] theorem modCtx_shares (s : State) (n : Nat) (f : Context → Context) : (modCtx s n f).shares = s.shares := by unfold modCtx; split <;> rfl
@[simp] theorem modCtx_mboxes (s : State) (n : Nat) (f : Context → Context) : (modCtx s n f).mboxes = s.mboxes := by unfold modCtx; split <;> rfl
@[simp] theorem modCtx_umboxes (s : State) (n : Nat) (f : Context → Context) : (modCtx s n f).umboxes = s.umboxes := by unfold modCtx; split <;> rfl
@[simp] theorem modCtx_lastMbox (s : State) (n : Nat) (f : Context → Context) : (modCtx s n f).lastMbox = s.lastMbox := by unfold modCtx; split <;> rfl
@[simp] theorem modCtx_events (s : State) (n : Nat) (f : Context → Context) : (modCtx s n f).events = s.events := by unfold modCtx; split <;> rfl
@[simp] theorem modCtx_evSeq (s : State) (n : Nat) (f : Context → Context) : (modCtx s n f).evSeq = s.evSeq := by unfold modCtx; split <;> rfl
@[simp] theorem modCtx_evRing (s : State) (n : Nat) (f : Context → Context) : (modCtx s n f).evRing = s.evRing := by unfold modCtx; split <;> rfl
@[simp] theorem modCtx_bellClock (s : State) (n : Nat) (f : Context → Context) : (modCtx s n f).bellClock = s.bellClock := by unfold modCtx; split <;> rfl
@[simp] theorem modCtx_link (s : State) (n : Nat) (f : Context → Context) : (modCtx s n f).link = s.link := by unfold modCtx; split <;> rfl
@[simp] theorem modCtx_power (s : State) (n : Nat) (f : Context → Context) : (modCtx s n f).power = s.power := by unfold modCtx; split <;> rfl
@[simp] theorem modCtx_thresh (s : State) (n : Nat) (f : Context → Context) : (modCtx s n f).thresh = s.thresh := by unfold modCtx; split <;> rfl

/-! ### modQueue changes queues -/

@[simp] theorem modQueue_pending (s : State) (q : Nat) (f : Queue → Queue) : (modQueue s q f).pending = s.pending := by unfold modQueue; split <;> rfl
@[simp] theorem modQueue_out (s : State) (q : Nat) (f : Queue → Queue) : (modQueue s q f).out = s.out := by unfold modQueue; split <;> rfl
@[simp] theorem modQueue_freeIx (s : State) (q : Nat) (f : Queue → Queue) : (modQueue s q f).freeIx = s.freeIx := by unfold modQueue; split <;> rfl
@[simp] theorem modQueue_fuses (s : State) (q : Nat) (f : Queue → Queue) : (modQueue s q f).fuses = s.fuses := by unfold modQueue; split <;> rfl
@[simp] theorem modQueue_nvm (s : State) (q : Nat) (f : Queue → Queue) : (modQueue s q f).nvm = s.nvm := by unfold modQueue; split <;> rfl
@[simp] theorem modQueue_pwrGood (s : State) (q : Nat) (f : Queue → Queue) : (modQueue s q f).pwrGood = s.pwrGood := by unfold modQueue; split <;> rfl
@[simp] theorem modQueue_perstN (s : State) (q : Nat) (f : Queue → Queue) : (modQueue s q f).perstN = s.perstN := by unfold modQueue; split <;> rfl
@[simp] theorem modQueue_thermTripN (s : State) (q : Nat) (f : Queue → Queue) : (modQueue s q f).thermTripN = s.thermTripN := by unfold modQueue; split <;> rfl
@[simp] theorem modQueue_alertN (s : State) (q : Nat) (f : Queue → Queue) : (modQueue s q f).alertN = s.alertN := by unfold modQueue; split <;> rfl
@[simp] theorem modQueue_smbusUp (s : State) (q : Nat) (f : Queue → Queue) : (modQueue s q f).smbusUp = s.smbusUp := by unfold modQueue; split <;> rfl
@[simp] theorem modQueue_ifLevel (s : State) (q : Nat) (f : Queue → Queue) : (modQueue s q f).ifLevel = s.ifLevel := by unfold modQueue; split <;> rfl
@[simp] theorem modQueue_nodeId (s : State) (q : Nat) (f : Queue → Queue) : (modQueue s q f).nodeId = s.nodeId := by unfold modQueue; split <;> rfl
@[simp] theorem modQueue_resetting (s : State) (q : Nat) (f : Queue → Queue) : (modQueue s q f).resetting = s.resetting := by unfold modQueue; split <;> rfl
@[simp] theorem modQueue_lampWasLit (s : State) (q : Nat) (f : Queue → Queue) : (modQueue s q f).lampWasLit = s.lampWasLit := by unfold modQueue; split <;> rfl
@[simp] theorem modQueue_warmHeld (s : State) (q : Nat) (f : Queue → Queue) : (modQueue s q f).warmHeld = s.warmHeld := by unfold modQueue; split <;> rfl
@[simp] theorem modQueue_pastDeadline (s : State) (q : Nat) (f : Queue → Queue) : (modQueue s q f).pastDeadline = s.pastDeadline := by unfold modQueue; split <;> rfl
@[simp] theorem modQueue_internalCause (s : State) (q : Nat) (f : Queue → Queue) : (modQueue s q f).internalCause = s.internalCause := by unfold modQueue; split <;> rfl
@[simp] theorem modQueue_fwFallback (s : State) (q : Nat) (f : Queue → Queue) : (modQueue s q f).fwFallback = s.fwFallback := by unfold modQueue; split <;> rfl
@[simp] theorem modQueue_host (s : State) (q : Nat) (f : Queue → Queue) : (modQueue s q f).host = s.host := by unfold modQueue; split <;> rfl
@[simp] theorem modQueue_windows (s : State) (q : Nat) (f : Queue → Queue) : (modQueue s q f).windows = s.windows := by unfold modQueue; split <;> rfl
@[simp] theorem modQueue_lamp (s : State) (q : Nat) (f : Queue → Queue) : (modQueue s q f).lamp = s.lamp := by unfold modQueue; split <;> rfl
@[simp] theorem modQueue_pantries (s : State) (q : Nat) (f : Queue → Queue) : (modQueue s q f).pantries = s.pantries := by unfold modQueue; split <;> rfl
@[simp] theorem modQueue_trees (s : State) (q : Nat) (f : Queue → Queue) : (modQueue s q f).trees = s.trees := by unfold modQueue; split <;> rfl
@[simp] theorem modQueue_study (s : State) (q : Nat) (f : Queue → Queue) : (modQueue s q f).study = s.study := by unfold modQueue; split <;> rfl
@[simp] theorem modQueue_dumbs (s : State) (q : Nat) (f : Queue → Queue) : (modQueue s q f).dumbs = s.dumbs := by unfold modQueue; split <;> rfl
@[simp] theorem modQueue_streams (s : State) (q : Nat) (f : Queue → Queue) : (modQueue s q f).streams = s.streams := by unfold modQueue; split <;> rfl
@[simp] theorem modQueue_nextSid (s : State) (q : Nat) (f : Queue → Queue) : (modQueue s q f).nextSid = s.nextSid := by unfold modQueue; split <;> rfl
@[simp] theorem modQueue_mem (s : State) (q : Nat) (f : Queue → Queue) : (modQueue s q f).mem = s.mem := by unfold modQueue; split <;> rfl
@[simp] theorem modQueue_xlate (s : State) (q : Nat) (f : Queue → Queue) : (modQueue s q f).xlate = s.xlate := by unfold modQueue; split <;> rfl
@[simp] theorem modQueue_corr (s : State) (q : Nat) (f : Queue → Queue) : (modQueue s q f).corr = s.corr := by unfold modQueue; split <;> rfl
@[simp] theorem modQueue_thermo (s : State) (q : Nat) (f : Queue → Queue) : (modQueue s q f).thermo = s.thermo := by unfold modQueue; split <;> rfl
@[simp] theorem modQueue_ctxs (s : State) (q : Nat) (f : Queue → Queue) : (modQueue s q f).ctxs = s.ctxs := by unfold modQueue; split <;> rfl
@[simp] theorem modQueue_ops (s : State) (q : Nat) (f : Queue → Queue) : (modQueue s q f).ops = s.ops := by unfold modQueue; split <;> rfl
@[simp] theorem modQueue_shares (s : State) (q : Nat) (f : Queue → Queue) : (modQueue s q f).shares = s.shares := by unfold modQueue; split <;> rfl
@[simp] theorem modQueue_mboxes (s : State) (q : Nat) (f : Queue → Queue) : (modQueue s q f).mboxes = s.mboxes := by unfold modQueue; split <;> rfl
@[simp] theorem modQueue_umboxes (s : State) (q : Nat) (f : Queue → Queue) : (modQueue s q f).umboxes = s.umboxes := by unfold modQueue; split <;> rfl
@[simp] theorem modQueue_lastMbox (s : State) (q : Nat) (f : Queue → Queue) : (modQueue s q f).lastMbox = s.lastMbox := by unfold modQueue; split <;> rfl
@[simp] theorem modQueue_events (s : State) (q : Nat) (f : Queue → Queue) : (modQueue s q f).events = s.events := by unfold modQueue; split <;> rfl
@[simp] theorem modQueue_evSeq (s : State) (q : Nat) (f : Queue → Queue) : (modQueue s q f).evSeq = s.evSeq := by unfold modQueue; split <;> rfl
@[simp] theorem modQueue_evRing (s : State) (q : Nat) (f : Queue → Queue) : (modQueue s q f).evRing = s.evRing := by unfold modQueue; split <;> rfl
@[simp] theorem modQueue_bellClock (s : State) (q : Nat) (f : Queue → Queue) : (modQueue s q f).bellClock = s.bellClock := by unfold modQueue; split <;> rfl
@[simp] theorem modQueue_link (s : State) (q : Nat) (f : Queue → Queue) : (modQueue s q f).link = s.link := by unfold modQueue; split <;> rfl
@[simp] theorem modQueue_power (s : State) (q : Nat) (f : Queue → Queue) : (modQueue s q f).power = s.power := by unfold modQueue; split <;> rfl
@[simp] theorem modQueue_thresh (s : State) (q : Nat) (f : Queue → Queue) : (modQueue s q f).thresh = s.thresh := by unfold modQueue; split <;> rfl

/-! ### modStream changes streams -/

@[simp] theorem modStream_pending (s : State) (sid : Nat) (f : Stream → Stream) : (modStream s sid f).pending = s.pending := by unfold modStream; split <;> rfl
@[simp] theorem modStream_out (s : State) (sid : Nat) (f : Stream → Stream) : (modStream s sid f).out = s.out := by unfold modStream; split <;> rfl
@[simp] theorem modStream_freeIx (s : State) (sid : Nat) (f : Stream → Stream) : (modStream s sid f).freeIx = s.freeIx := by unfold modStream; split <;> rfl
@[simp] theorem modStream_fuses (s : State) (sid : Nat) (f : Stream → Stream) : (modStream s sid f).fuses = s.fuses := by unfold modStream; split <;> rfl
@[simp] theorem modStream_nvm (s : State) (sid : Nat) (f : Stream → Stream) : (modStream s sid f).nvm = s.nvm := by unfold modStream; split <;> rfl
@[simp] theorem modStream_pwrGood (s : State) (sid : Nat) (f : Stream → Stream) : (modStream s sid f).pwrGood = s.pwrGood := by unfold modStream; split <;> rfl
@[simp] theorem modStream_perstN (s : State) (sid : Nat) (f : Stream → Stream) : (modStream s sid f).perstN = s.perstN := by unfold modStream; split <;> rfl
@[simp] theorem modStream_thermTripN (s : State) (sid : Nat) (f : Stream → Stream) : (modStream s sid f).thermTripN = s.thermTripN := by unfold modStream; split <;> rfl
@[simp] theorem modStream_alertN (s : State) (sid : Nat) (f : Stream → Stream) : (modStream s sid f).alertN = s.alertN := by unfold modStream; split <;> rfl
@[simp] theorem modStream_smbusUp (s : State) (sid : Nat) (f : Stream → Stream) : (modStream s sid f).smbusUp = s.smbusUp := by unfold modStream; split <;> rfl
@[simp] theorem modStream_ifLevel (s : State) (sid : Nat) (f : Stream → Stream) : (modStream s sid f).ifLevel = s.ifLevel := by unfold modStream; split <;> rfl
@[simp] theorem modStream_nodeId (s : State) (sid : Nat) (f : Stream → Stream) : (modStream s sid f).nodeId = s.nodeId := by unfold modStream; split <;> rfl
@[simp] theorem modStream_resetting (s : State) (sid : Nat) (f : Stream → Stream) : (modStream s sid f).resetting = s.resetting := by unfold modStream; split <;> rfl
@[simp] theorem modStream_lampWasLit (s : State) (sid : Nat) (f : Stream → Stream) : (modStream s sid f).lampWasLit = s.lampWasLit := by unfold modStream; split <;> rfl
@[simp] theorem modStream_warmHeld (s : State) (sid : Nat) (f : Stream → Stream) : (modStream s sid f).warmHeld = s.warmHeld := by unfold modStream; split <;> rfl
@[simp] theorem modStream_pastDeadline (s : State) (sid : Nat) (f : Stream → Stream) : (modStream s sid f).pastDeadline = s.pastDeadline := by unfold modStream; split <;> rfl
@[simp] theorem modStream_internalCause (s : State) (sid : Nat) (f : Stream → Stream) : (modStream s sid f).internalCause = s.internalCause := by unfold modStream; split <;> rfl
@[simp] theorem modStream_fwFallback (s : State) (sid : Nat) (f : Stream → Stream) : (modStream s sid f).fwFallback = s.fwFallback := by unfold modStream; split <;> rfl
@[simp] theorem modStream_host (s : State) (sid : Nat) (f : Stream → Stream) : (modStream s sid f).host = s.host := by unfold modStream; split <;> rfl
@[simp] theorem modStream_windows (s : State) (sid : Nat) (f : Stream → Stream) : (modStream s sid f).windows = s.windows := by unfold modStream; split <;> rfl
@[simp] theorem modStream_lamp (s : State) (sid : Nat) (f : Stream → Stream) : (modStream s sid f).lamp = s.lamp := by unfold modStream; split <;> rfl
@[simp] theorem modStream_pantries (s : State) (sid : Nat) (f : Stream → Stream) : (modStream s sid f).pantries = s.pantries := by unfold modStream; split <;> rfl
@[simp] theorem modStream_trees (s : State) (sid : Nat) (f : Stream → Stream) : (modStream s sid f).trees = s.trees := by unfold modStream; split <;> rfl
@[simp] theorem modStream_study (s : State) (sid : Nat) (f : Stream → Stream) : (modStream s sid f).study = s.study := by unfold modStream; split <;> rfl
@[simp] theorem modStream_dumbs (s : State) (sid : Nat) (f : Stream → Stream) : (modStream s sid f).dumbs = s.dumbs := by unfold modStream; split <;> rfl
@[simp] theorem modStream_nextSid (s : State) (sid : Nat) (f : Stream → Stream) : (modStream s sid f).nextSid = s.nextSid := by unfold modStream; split <;> rfl
@[simp] theorem modStream_mem (s : State) (sid : Nat) (f : Stream → Stream) : (modStream s sid f).mem = s.mem := by unfold modStream; split <;> rfl
@[simp] theorem modStream_xlate (s : State) (sid : Nat) (f : Stream → Stream) : (modStream s sid f).xlate = s.xlate := by unfold modStream; split <;> rfl
@[simp] theorem modStream_corr (s : State) (sid : Nat) (f : Stream → Stream) : (modStream s sid f).corr = s.corr := by unfold modStream; split <;> rfl
@[simp] theorem modStream_thermo (s : State) (sid : Nat) (f : Stream → Stream) : (modStream s sid f).thermo = s.thermo := by unfold modStream; split <;> rfl
@[simp] theorem modStream_ctxs (s : State) (sid : Nat) (f : Stream → Stream) : (modStream s sid f).ctxs = s.ctxs := by unfold modStream; split <;> rfl
@[simp] theorem modStream_queues (s : State) (sid : Nat) (f : Stream → Stream) : (modStream s sid f).queues = s.queues := by unfold modStream; split <;> rfl
@[simp] theorem modStream_ops (s : State) (sid : Nat) (f : Stream → Stream) : (modStream s sid f).ops = s.ops := by unfold modStream; split <;> rfl
@[simp] theorem modStream_shares (s : State) (sid : Nat) (f : Stream → Stream) : (modStream s sid f).shares = s.shares := by unfold modStream; split <;> rfl
@[simp] theorem modStream_mboxes (s : State) (sid : Nat) (f : Stream → Stream) : (modStream s sid f).mboxes = s.mboxes := by unfold modStream; split <;> rfl
@[simp] theorem modStream_umboxes (s : State) (sid : Nat) (f : Stream → Stream) : (modStream s sid f).umboxes = s.umboxes := by unfold modStream; split <;> rfl
@[simp] theorem modStream_lastMbox (s : State) (sid : Nat) (f : Stream → Stream) : (modStream s sid f).lastMbox = s.lastMbox := by unfold modStream; split <;> rfl
@[simp] theorem modStream_events (s : State) (sid : Nat) (f : Stream → Stream) : (modStream s sid f).events = s.events := by unfold modStream; split <;> rfl
@[simp] theorem modStream_evSeq (s : State) (sid : Nat) (f : Stream → Stream) : (modStream s sid f).evSeq = s.evSeq := by unfold modStream; split <;> rfl
@[simp] theorem modStream_evRing (s : State) (sid : Nat) (f : Stream → Stream) : (modStream s sid f).evRing = s.evRing := by unfold modStream; split <;> rfl
@[simp] theorem modStream_bellClock (s : State) (sid : Nat) (f : Stream → Stream) : (modStream s sid f).bellClock = s.bellClock := by unfold modStream; split <;> rfl
@[simp] theorem modStream_link (s : State) (sid : Nat) (f : Stream → Stream) : (modStream s sid f).link = s.link := by unfold modStream; split <;> rfl
@[simp] theorem modStream_power (s : State) (sid : Nat) (f : Stream → Stream) : (modStream s sid f).power = s.power := by unfold modStream; split <;> rfl
@[simp] theorem modStream_thresh (s : State) (sid : Nat) (f : Stream → Stream) : (modStream s sid f).thresh = s.thresh := by unfold modStream; split <;> rfl

/-! ### setPoison changes mem -/

@[simp] theorem setPoison_pending (s : State) (g : Nat) : (setPoison s g).pending = s.pending := by unfold setPoison; split <;> rfl
@[simp] theorem setPoison_out (s : State) (g : Nat) : (setPoison s g).out = s.out := by unfold setPoison; split <;> rfl
@[simp] theorem setPoison_freeIx (s : State) (g : Nat) : (setPoison s g).freeIx = s.freeIx := by unfold setPoison; split <;> rfl
@[simp] theorem setPoison_fuses (s : State) (g : Nat) : (setPoison s g).fuses = s.fuses := by unfold setPoison; split <;> rfl
@[simp] theorem setPoison_nvm (s : State) (g : Nat) : (setPoison s g).nvm = s.nvm := by unfold setPoison; split <;> rfl
@[simp] theorem setPoison_pwrGood (s : State) (g : Nat) : (setPoison s g).pwrGood = s.pwrGood := by unfold setPoison; split <;> rfl
@[simp] theorem setPoison_perstN (s : State) (g : Nat) : (setPoison s g).perstN = s.perstN := by unfold setPoison; split <;> rfl
@[simp] theorem setPoison_thermTripN (s : State) (g : Nat) : (setPoison s g).thermTripN = s.thermTripN := by unfold setPoison; split <;> rfl
@[simp] theorem setPoison_alertN (s : State) (g : Nat) : (setPoison s g).alertN = s.alertN := by unfold setPoison; split <;> rfl
@[simp] theorem setPoison_smbusUp (s : State) (g : Nat) : (setPoison s g).smbusUp = s.smbusUp := by unfold setPoison; split <;> rfl
@[simp] theorem setPoison_ifLevel (s : State) (g : Nat) : (setPoison s g).ifLevel = s.ifLevel := by unfold setPoison; split <;> rfl
@[simp] theorem setPoison_nodeId (s : State) (g : Nat) : (setPoison s g).nodeId = s.nodeId := by unfold setPoison; split <;> rfl
@[simp] theorem setPoison_resetting (s : State) (g : Nat) : (setPoison s g).resetting = s.resetting := by unfold setPoison; split <;> rfl
@[simp] theorem setPoison_lampWasLit (s : State) (g : Nat) : (setPoison s g).lampWasLit = s.lampWasLit := by unfold setPoison; split <;> rfl
@[simp] theorem setPoison_warmHeld (s : State) (g : Nat) : (setPoison s g).warmHeld = s.warmHeld := by unfold setPoison; split <;> rfl
@[simp] theorem setPoison_pastDeadline (s : State) (g : Nat) : (setPoison s g).pastDeadline = s.pastDeadline := by unfold setPoison; split <;> rfl
@[simp] theorem setPoison_internalCause (s : State) (g : Nat) : (setPoison s g).internalCause = s.internalCause := by unfold setPoison; split <;> rfl
@[simp] theorem setPoison_fwFallback (s : State) (g : Nat) : (setPoison s g).fwFallback = s.fwFallback := by unfold setPoison; split <;> rfl
@[simp] theorem setPoison_host (s : State) (g : Nat) : (setPoison s g).host = s.host := by unfold setPoison; split <;> rfl
@[simp] theorem setPoison_windows (s : State) (g : Nat) : (setPoison s g).windows = s.windows := by unfold setPoison; split <;> rfl
@[simp] theorem setPoison_lamp (s : State) (g : Nat) : (setPoison s g).lamp = s.lamp := by unfold setPoison; split <;> rfl
@[simp] theorem setPoison_pantries (s : State) (g : Nat) : (setPoison s g).pantries = s.pantries := by unfold setPoison; split <;> rfl
@[simp] theorem setPoison_trees (s : State) (g : Nat) : (setPoison s g).trees = s.trees := by unfold setPoison; split <;> rfl
@[simp] theorem setPoison_study (s : State) (g : Nat) : (setPoison s g).study = s.study := by unfold setPoison; split <;> rfl
@[simp] theorem setPoison_dumbs (s : State) (g : Nat) : (setPoison s g).dumbs = s.dumbs := by unfold setPoison; split <;> rfl
@[simp] theorem setPoison_streams (s : State) (g : Nat) : (setPoison s g).streams = s.streams := by unfold setPoison; split <;> rfl
@[simp] theorem setPoison_nextSid (s : State) (g : Nat) : (setPoison s g).nextSid = s.nextSid := by unfold setPoison; split <;> rfl
@[simp] theorem setPoison_xlate (s : State) (g : Nat) : (setPoison s g).xlate = s.xlate := by unfold setPoison; split <;> rfl
@[simp] theorem setPoison_corr (s : State) (g : Nat) : (setPoison s g).corr = s.corr := by unfold setPoison; split <;> rfl
@[simp] theorem setPoison_thermo (s : State) (g : Nat) : (setPoison s g).thermo = s.thermo := by unfold setPoison; split <;> rfl
@[simp] theorem setPoison_ctxs (s : State) (g : Nat) : (setPoison s g).ctxs = s.ctxs := by unfold setPoison; split <;> rfl
@[simp] theorem setPoison_queues (s : State) (g : Nat) : (setPoison s g).queues = s.queues := by unfold setPoison; split <;> rfl
@[simp] theorem setPoison_ops (s : State) (g : Nat) : (setPoison s g).ops = s.ops := by unfold setPoison; split <;> rfl
@[simp] theorem setPoison_shares (s : State) (g : Nat) : (setPoison s g).shares = s.shares := by unfold setPoison; split <;> rfl
@[simp] theorem setPoison_mboxes (s : State) (g : Nat) : (setPoison s g).mboxes = s.mboxes := by unfold setPoison; split <;> rfl
@[simp] theorem setPoison_umboxes (s : State) (g : Nat) : (setPoison s g).umboxes = s.umboxes := by unfold setPoison; split <;> rfl
@[simp] theorem setPoison_lastMbox (s : State) (g : Nat) : (setPoison s g).lastMbox = s.lastMbox := by unfold setPoison; split <;> rfl
@[simp] theorem setPoison_events (s : State) (g : Nat) : (setPoison s g).events = s.events := by unfold setPoison; split <;> rfl
@[simp] theorem setPoison_evSeq (s : State) (g : Nat) : (setPoison s g).evSeq = s.evSeq := by unfold setPoison; split <;> rfl
@[simp] theorem setPoison_evRing (s : State) (g : Nat) : (setPoison s g).evRing = s.evRing := by unfold setPoison; split <;> rfl
@[simp] theorem setPoison_bellClock (s : State) (g : Nat) : (setPoison s g).bellClock = s.bellClock := by unfold setPoison; split <;> rfl
@[simp] theorem setPoison_link (s : State) (g : Nat) : (setPoison s g).link = s.link := by unfold setPoison; split <;> rfl
@[simp] theorem setPoison_power (s : State) (g : Nat) : (setPoison s g).power = s.power := by unfold setPoison; split <;> rfl
@[simp] theorem setPoison_thresh (s : State) (g : Nat) : (setPoison s g).thresh = s.thresh := by unfold setPoison; split <;> rfl

/-! ### raiseVec changes host and out -/

@[simp] theorem raiseVec_pending (s : State) (v : Nat) : (raiseVec s v).pending = s.pending := by unfold raiseVec; dsimp only; split <;> rfl
@[simp] theorem raiseVec_freeIx (s : State) (v : Nat) : (raiseVec s v).freeIx = s.freeIx := by unfold raiseVec; dsimp only; split <;> rfl
@[simp] theorem raiseVec_fuses (s : State) (v : Nat) : (raiseVec s v).fuses = s.fuses := by unfold raiseVec; dsimp only; split <;> rfl
@[simp] theorem raiseVec_nvm (s : State) (v : Nat) : (raiseVec s v).nvm = s.nvm := by unfold raiseVec; dsimp only; split <;> rfl
@[simp] theorem raiseVec_pwrGood (s : State) (v : Nat) : (raiseVec s v).pwrGood = s.pwrGood := by unfold raiseVec; dsimp only; split <;> rfl
@[simp] theorem raiseVec_perstN (s : State) (v : Nat) : (raiseVec s v).perstN = s.perstN := by unfold raiseVec; dsimp only; split <;> rfl
@[simp] theorem raiseVec_thermTripN (s : State) (v : Nat) : (raiseVec s v).thermTripN = s.thermTripN := by unfold raiseVec; dsimp only; split <;> rfl
@[simp] theorem raiseVec_alertN (s : State) (v : Nat) : (raiseVec s v).alertN = s.alertN := by unfold raiseVec; dsimp only; split <;> rfl
@[simp] theorem raiseVec_smbusUp (s : State) (v : Nat) : (raiseVec s v).smbusUp = s.smbusUp := by unfold raiseVec; dsimp only; split <;> rfl
@[simp] theorem raiseVec_ifLevel (s : State) (v : Nat) : (raiseVec s v).ifLevel = s.ifLevel := by unfold raiseVec; dsimp only; split <;> rfl
@[simp] theorem raiseVec_nodeId (s : State) (v : Nat) : (raiseVec s v).nodeId = s.nodeId := by unfold raiseVec; dsimp only; split <;> rfl
@[simp] theorem raiseVec_resetting (s : State) (v : Nat) : (raiseVec s v).resetting = s.resetting := by unfold raiseVec; dsimp only; split <;> rfl
@[simp] theorem raiseVec_lampWasLit (s : State) (v : Nat) : (raiseVec s v).lampWasLit = s.lampWasLit := by unfold raiseVec; dsimp only; split <;> rfl
@[simp] theorem raiseVec_warmHeld (s : State) (v : Nat) : (raiseVec s v).warmHeld = s.warmHeld := by unfold raiseVec; dsimp only; split <;> rfl
@[simp] theorem raiseVec_pastDeadline (s : State) (v : Nat) : (raiseVec s v).pastDeadline = s.pastDeadline := by unfold raiseVec; dsimp only; split <;> rfl
@[simp] theorem raiseVec_internalCause (s : State) (v : Nat) : (raiseVec s v).internalCause = s.internalCause := by unfold raiseVec; dsimp only; split <;> rfl
@[simp] theorem raiseVec_fwFallback (s : State) (v : Nat) : (raiseVec s v).fwFallback = s.fwFallback := by unfold raiseVec; dsimp only; split <;> rfl
@[simp] theorem raiseVec_windows (s : State) (v : Nat) : (raiseVec s v).windows = s.windows := by unfold raiseVec; dsimp only; split <;> rfl
@[simp] theorem raiseVec_lamp (s : State) (v : Nat) : (raiseVec s v).lamp = s.lamp := by unfold raiseVec; dsimp only; split <;> rfl
@[simp] theorem raiseVec_pantries (s : State) (v : Nat) : (raiseVec s v).pantries = s.pantries := by unfold raiseVec; dsimp only; split <;> rfl
@[simp] theorem raiseVec_trees (s : State) (v : Nat) : (raiseVec s v).trees = s.trees := by unfold raiseVec; dsimp only; split <;> rfl
@[simp] theorem raiseVec_study (s : State) (v : Nat) : (raiseVec s v).study = s.study := by unfold raiseVec; dsimp only; split <;> rfl
@[simp] theorem raiseVec_dumbs (s : State) (v : Nat) : (raiseVec s v).dumbs = s.dumbs := by unfold raiseVec; dsimp only; split <;> rfl
@[simp] theorem raiseVec_streams (s : State) (v : Nat) : (raiseVec s v).streams = s.streams := by unfold raiseVec; dsimp only; split <;> rfl
@[simp] theorem raiseVec_nextSid (s : State) (v : Nat) : (raiseVec s v).nextSid = s.nextSid := by unfold raiseVec; dsimp only; split <;> rfl
@[simp] theorem raiseVec_mem (s : State) (v : Nat) : (raiseVec s v).mem = s.mem := by unfold raiseVec; dsimp only; split <;> rfl
@[simp] theorem raiseVec_xlate (s : State) (v : Nat) : (raiseVec s v).xlate = s.xlate := by unfold raiseVec; dsimp only; split <;> rfl
@[simp] theorem raiseVec_corr (s : State) (v : Nat) : (raiseVec s v).corr = s.corr := by unfold raiseVec; dsimp only; split <;> rfl
@[simp] theorem raiseVec_thermo (s : State) (v : Nat) : (raiseVec s v).thermo = s.thermo := by unfold raiseVec; dsimp only; split <;> rfl
@[simp] theorem raiseVec_ctxs (s : State) (v : Nat) : (raiseVec s v).ctxs = s.ctxs := by unfold raiseVec; dsimp only; split <;> rfl
@[simp] theorem raiseVec_queues (s : State) (v : Nat) : (raiseVec s v).queues = s.queues := by unfold raiseVec; dsimp only; split <;> rfl
@[simp] theorem raiseVec_ops (s : State) (v : Nat) : (raiseVec s v).ops = s.ops := by unfold raiseVec; dsimp only; split <;> rfl
@[simp] theorem raiseVec_shares (s : State) (v : Nat) : (raiseVec s v).shares = s.shares := by unfold raiseVec; dsimp only; split <;> rfl
@[simp] theorem raiseVec_mboxes (s : State) (v : Nat) : (raiseVec s v).mboxes = s.mboxes := by unfold raiseVec; dsimp only; split <;> rfl
@[simp] theorem raiseVec_umboxes (s : State) (v : Nat) : (raiseVec s v).umboxes = s.umboxes := by unfold raiseVec; dsimp only; split <;> rfl
@[simp] theorem raiseVec_lastMbox (s : State) (v : Nat) : (raiseVec s v).lastMbox = s.lastMbox := by unfold raiseVec; dsimp only; split <;> rfl
@[simp] theorem raiseVec_events (s : State) (v : Nat) : (raiseVec s v).events = s.events := by unfold raiseVec; dsimp only; split <;> rfl
@[simp] theorem raiseVec_evSeq (s : State) (v : Nat) : (raiseVec s v).evSeq = s.evSeq := by unfold raiseVec; dsimp only; split <;> rfl
@[simp] theorem raiseVec_evRing (s : State) (v : Nat) : (raiseVec s v).evRing = s.evRing := by unfold raiseVec; dsimp only; split <;> rfl
@[simp] theorem raiseVec_bellClock (s : State) (v : Nat) : (raiseVec s v).bellClock = s.bellClock := by unfold raiseVec; dsimp only; split <;> rfl
@[simp] theorem raiseVec_link (s : State) (v : Nat) : (raiseVec s v).link = s.link := by unfold raiseVec; dsimp only; split <;> rfl
@[simp] theorem raiseVec_power (s : State) (v : Nat) : (raiseVec s v).power = s.power := by unfold raiseVec; dsimp only; split <;> rfl
@[simp] theorem raiseVec_thresh (s : State) (v : Nat) : (raiseVec s v).thresh = s.thresh := by unfold raiseVec; dsimp only; split <;> rfl

/-! ### setAlert changes alertN and out -/

@[simp] theorem setAlert_pending (s : State) : (setAlert s).pending = s.pending := by unfold setAlert; dsimp only; split <;> rfl
@[simp] theorem setAlert_freeIx (s : State) : (setAlert s).freeIx = s.freeIx := by unfold setAlert; dsimp only; split <;> rfl
@[simp] theorem setAlert_fuses (s : State) : (setAlert s).fuses = s.fuses := by unfold setAlert; dsimp only; split <;> rfl
@[simp] theorem setAlert_nvm (s : State) : (setAlert s).nvm = s.nvm := by unfold setAlert; dsimp only; split <;> rfl
@[simp] theorem setAlert_pwrGood (s : State) : (setAlert s).pwrGood = s.pwrGood := by unfold setAlert; dsimp only; split <;> rfl
@[simp] theorem setAlert_perstN (s : State) : (setAlert s).perstN = s.perstN := by unfold setAlert; dsimp only; split <;> rfl
@[simp] theorem setAlert_thermTripN (s : State) : (setAlert s).thermTripN = s.thermTripN := by unfold setAlert; dsimp only; split <;> rfl
@[simp] theorem setAlert_smbusUp (s : State) : (setAlert s).smbusUp = s.smbusUp := by unfold setAlert; dsimp only; split <;> rfl
@[simp] theorem setAlert_ifLevel (s : State) : (setAlert s).ifLevel = s.ifLevel := by unfold setAlert; dsimp only; split <;> rfl
@[simp] theorem setAlert_nodeId (s : State) : (setAlert s).nodeId = s.nodeId := by unfold setAlert; dsimp only; split <;> rfl
@[simp] theorem setAlert_resetting (s : State) : (setAlert s).resetting = s.resetting := by unfold setAlert; dsimp only; split <;> rfl
@[simp] theorem setAlert_lampWasLit (s : State) : (setAlert s).lampWasLit = s.lampWasLit := by unfold setAlert; dsimp only; split <;> rfl
@[simp] theorem setAlert_warmHeld (s : State) : (setAlert s).warmHeld = s.warmHeld := by unfold setAlert; dsimp only; split <;> rfl
@[simp] theorem setAlert_pastDeadline (s : State) : (setAlert s).pastDeadline = s.pastDeadline := by unfold setAlert; dsimp only; split <;> rfl
@[simp] theorem setAlert_internalCause (s : State) : (setAlert s).internalCause = s.internalCause := by unfold setAlert; dsimp only; split <;> rfl
@[simp] theorem setAlert_fwFallback (s : State) : (setAlert s).fwFallback = s.fwFallback := by unfold setAlert; dsimp only; split <;> rfl
@[simp] theorem setAlert_host (s : State) : (setAlert s).host = s.host := by unfold setAlert; dsimp only; split <;> rfl
@[simp] theorem setAlert_windows (s : State) : (setAlert s).windows = s.windows := by unfold setAlert; dsimp only; split <;> rfl
@[simp] theorem setAlert_lamp (s : State) : (setAlert s).lamp = s.lamp := by unfold setAlert; dsimp only; split <;> rfl
@[simp] theorem setAlert_pantries (s : State) : (setAlert s).pantries = s.pantries := by unfold setAlert; dsimp only; split <;> rfl
@[simp] theorem setAlert_trees (s : State) : (setAlert s).trees = s.trees := by unfold setAlert; dsimp only; split <;> rfl
@[simp] theorem setAlert_study (s : State) : (setAlert s).study = s.study := by unfold setAlert; dsimp only; split <;> rfl
@[simp] theorem setAlert_dumbs (s : State) : (setAlert s).dumbs = s.dumbs := by unfold setAlert; dsimp only; split <;> rfl
@[simp] theorem setAlert_streams (s : State) : (setAlert s).streams = s.streams := by unfold setAlert; dsimp only; split <;> rfl
@[simp] theorem setAlert_nextSid (s : State) : (setAlert s).nextSid = s.nextSid := by unfold setAlert; dsimp only; split <;> rfl
@[simp] theorem setAlert_mem (s : State) : (setAlert s).mem = s.mem := by unfold setAlert; dsimp only; split <;> rfl
@[simp] theorem setAlert_xlate (s : State) : (setAlert s).xlate = s.xlate := by unfold setAlert; dsimp only; split <;> rfl
@[simp] theorem setAlert_corr (s : State) : (setAlert s).corr = s.corr := by unfold setAlert; dsimp only; split <;> rfl
@[simp] theorem setAlert_thermo (s : State) : (setAlert s).thermo = s.thermo := by unfold setAlert; dsimp only; split <;> rfl
@[simp] theorem setAlert_ctxs (s : State) : (setAlert s).ctxs = s.ctxs := by unfold setAlert; dsimp only; split <;> rfl
@[simp] theorem setAlert_queues (s : State) : (setAlert s).queues = s.queues := by unfold setAlert; dsimp only; split <;> rfl
@[simp] theorem setAlert_ops (s : State) : (setAlert s).ops = s.ops := by unfold setAlert; dsimp only; split <;> rfl
@[simp] theorem setAlert_shares (s : State) : (setAlert s).shares = s.shares := by unfold setAlert; dsimp only; split <;> rfl
@[simp] theorem setAlert_mboxes (s : State) : (setAlert s).mboxes = s.mboxes := by unfold setAlert; dsimp only; split <;> rfl
@[simp] theorem setAlert_umboxes (s : State) : (setAlert s).umboxes = s.umboxes := by unfold setAlert; dsimp only; split <;> rfl
@[simp] theorem setAlert_lastMbox (s : State) : (setAlert s).lastMbox = s.lastMbox := by unfold setAlert; dsimp only; split <;> rfl
@[simp] theorem setAlert_events (s : State) : (setAlert s).events = s.events := by unfold setAlert; dsimp only; split <;> rfl
@[simp] theorem setAlert_evSeq (s : State) : (setAlert s).evSeq = s.evSeq := by unfold setAlert; dsimp only; split <;> rfl
@[simp] theorem setAlert_evRing (s : State) : (setAlert s).evRing = s.evRing := by unfold setAlert; dsimp only; split <;> rfl
@[simp] theorem setAlert_bellClock (s : State) : (setAlert s).bellClock = s.bellClock := by unfold setAlert; dsimp only; split <;> rfl
@[simp] theorem setAlert_link (s : State) : (setAlert s).link = s.link := by unfold setAlert; dsimp only; split <;> rfl
@[simp] theorem setAlert_power (s : State) : (setAlert s).power = s.power := by unfold setAlert; dsimp only; split <;> rfl
@[simp] theorem setAlert_thresh (s : State) : (setAlert s).thresh = s.thresh := by unfold setAlert; dsimp only; split <;> rfl

end Sys2Proof.Machine
end

