-- ==== Sys2Proof/Laws/Ops.lean ====
section
/-!
SUPPORT. What the shared operations do, said once: a unit, context, queue or stream after a change; interrupts; a clean read; the bytes that a read and a
write leave.
-/

namespace Sys2Proof.Machine

open Sys2Proof

/-! ### Entries of a changed bank -/

theorem bankGet_mod_same {α : Type} (b : Bank α) (d : α) (i : Nat) (f : α → α) : bankGet (bankMod b d i f) d i = f (bankGet b d i) := by
  simp [bankGet, bankMod, bankFind_put_same]
theorem bankGet_mod_other {α : Type} (b : Bank α) (d : α) {i j : Nat} (f : α → α) (h : j ≠ i) :
    bankGet (bankMod b d i f) d j = bankGet b d j := by simp [bankGet, bankMod, bankFind_put_other b _ h]

/-- A changed Window is the new one; the others stay. -/
theorem win_modWin (s : State) (w v : Nat) (f : Window → Window) : win (modWin s w f) v = if v = w then f (win s w) else win s v := by
  unfold win modWin
  split
  · subst v; exact bankGet_mod_same ..
  · exact bankGet_mod_other _ _ _ ‹_›
/-- A changed Pantry is the new one; the others stay. -/
theorem pantry_modPantry (s : State) (p v : Nat) (f : Pantry → Pantry) :
    pantry (modPantry s p f) v = if v = p then f (pantry s p) else pantry s v := by
  unfold pantry modPantry
  split
  · subst v; exact bankGet_mod_same ..
  · exact bankGet_mod_other _ _ _ ‹_›
/-- A changed Dumbwaiter is the new one; the others stay. -/
theorem dumb_modDumb (s : State) (d v : Nat) (f : Dumb → Dumb) : dumb (modDumb s d f) v = if v = d then f (dumb s d) else dumb s v := by
  unfold dumb modDumb
  split
  · subst v; exact bankGet_mod_same ..
  · exact bankGet_mod_other _ _ _ ‹_›

/-- A context that exists is changed, one that does not stays so, every other stays. -/
theorem ctxOf_modCtx (s : State) (n m : Nat) (f : Context → Context) : ctxOf (modCtx s n f) m = if m = n then (ctxOf s n).map f else ctxOf s m := by
  unfold ctxOf modCtx
  cases h : bankFind s.ctxs n with
  | none => by_cases e : m = n <;> simp [e, h]
  | some c => by_cases e : m = n <;> simp [e, bankFind_put_same, bankFind_put_other]
/-- A queue that exists is changed, one that does not stays so, every other stays. -/
theorem queueOf_modQueue (s : State) (n m : Nat) (f : Queue → Queue) :
    queueOf (modQueue s n f) m = if m = n then (queueOf s n).map f else queueOf s m := by
  unfold queueOf modQueue
  cases h : bankFind s.queues n with
  | none => by_cases e : m = n <;> simp [e, h]
  | some c => by_cases e : m = n <;> simp [e, bankFind_put_same, bankFind_put_other]
/-- A stream that exists is changed, one that does not stays so, every other stays. -/
theorem findStream_modStream (s : State) (n m : Nat) (f : Stream → Stream) :
    findStream (modStream s n f) m = if m = n then (findStream s n).map f else findStream s m := by
  unfold findStream modStream
  cases h : bankFind s.streams n with
  | none => by_cases e : m = n <;> simp [e, h]
  | some c => by_cases e : m = n <;> simp [e, bankFind_put_same, bankFind_put_other]

/-! ### Counts and interrupts -/

/-- A hand-out raises TAKE and LEVEL of its quantity and no other's counts (R293). -/
theorem audOf_audTake (s : State) (q n r : Nat) :
    audOf (audTake s q n) r = if r = q then { audOf s q with take := (audOf s q).take + BitVec.ofNat 32 n, level := (audOf s q).level + BitVec.ofNat 32 n }
      else audOf s r := by
  unfold audOf audTake
  dsimp only
  split
  · subst r; exact bankGet_mod_same ..
  · exact bankGet_mod_other _ _ _ ‹_›
/-- A return raises GIVE and lowers LEVEL of its quantity and no other's counts (R293). -/
theorem audOf_audGive (s : State) (q n r : Nat) :
    audOf (audGive s q n) r = if r = q then { audOf s q with give := (audOf s q).give + BitVec.ofNat 32 n, level := (audOf s q).level - BitVec.ofNat 32 n }
      else audOf s r := by
  unfold audOf audGive
  dsimp only
  split
  · subst r; exact bankGet_mod_same ..
  · exact bankGet_mod_other _ _ _ ‹_›

/-- An interrupt condition sends its message, or sets the pending bit of a masked vector (R341, R342); in D3hot it only pends. -/
theorem raiseVec_cases (s : State) (v : Nat) :
    (s.host.msixEn = true ∧ s.host.msixMask = false ∧ (msixEnt s v).mask = false ∧ s.host.cfg.d3 = false ∧
      raiseVec s v = emit s (.msix v ((msixEnt s v).addrHi ++ (msixEnt s v).addrLo) (msixEnt s v).data)) ∨
    raiseVec s v = modMsix s v (fun e => { e with pend := true }) := by
  unfold raiseVec
  dsimp only
  split
  · exact .inr rfl
  · rename_i h
    simp only [Bool.or_eq_true, Bool.not_eq_true', not_or, Bool.not_eq_true, Bool.not_eq_false] at h
    exact .inl ⟨h.1.1.1, h.1.1.2, h.1.2, h.2, rfl⟩

/-! ### Reads and writes of device memory -/

/-- A granule that is sound and whose read meets no error is read without any effect. -/
theorem readGranule_clean {s : State} {env : Env} {g : Nat} (src : Finder) (who : Option Nat) (hu : env.ue = []) (hc : env.ce = [])
    (hp : g ∉ s.mem.poison) (ho : stackOut s (64 * g) = false) : readGranule s env src who g = (s, false) := by
  simp [readGranule, hu, hc, hp, ho]
theorem readGranules_clean {env : Env} (src : Finder) (who : Option Nat) (hu : env.ue = []) (hc : env.ce = []) :
    ∀ (gs : List Nat) {s : State}, (∀ g ∈ gs, g ∉ s.mem.poison ∧ stackOut s (64 * g) = false) → readGranules env src who gs s = (s, none)
  | [], _, _ => rfl
  | g :: t, s, h => by
    have hg := h g (List.mem_cons_self ..)
    simp only [readGranules, readGranule_clean src who hu hc hg.1 hg.2]
    exact readGranules_clean src who hu hc t (fun x hx => h x (List.mem_cons_of_mem _ hx))
/-- A clean read answers the bytes of memory and changes nothing (R254, R255). -/
theorem readPa_clean {s : State} {env : Env} {pa n : Nat} (h : CleanRead s env pa n) (src : Finder) (who : Option Nat) :
    readPa s env src who pa n = (s, none, s.mem.data.read pa n) := by
  simp only [readPa, readGranules_clean src who h.1 h.2.1 _ h.2.2]; rfl

/-- No check or count of the ECC side changes a byte. -/
theorem writeEvent_mem (s : State) (r : EventRing) (e : Event) : (writeEvent s r e).mem = s.mem := by unfold writeEvent; simp
theorem raiseEvent3_mem (s : State) (a b c d e : Nat) : (raiseEvent3 s a b c d e).mem = s.mem := by
  unfold raiseEvent3
  dsimp only
  (repeat' split) <;> first | rfl | exact writeEvent_mem ..
theorem raiseEvent_mem (s : State) (a b c d : Nat) : (raiseEvent s a b c d).mem = s.mem := raiseEvent3_mem ..
theorem addFrec_mem (s : State) (a b c d e f : Nat) : (addFrec s a b c d e f).mem = s.mem := by
  unfold addFrec
  dsimp only
  (repeat' split) <;> first | rfl | exact raiseEvent_mem ..
theorem setPoison_data (s : State) (g : Nat) : (setPoison s g).mem.data = s.mem.data := by unfold setPoison; split <;> rfl
/-- A page found poisoned is retired or remembered; no byte changes (R259). -/
theorem poisonedPage_data (s : State) (pa : Nat) : (poisonedPage s pa).mem.data = s.mem.data := by
  unfold poisonedPage retirePage; (repeat' split) <;> rfl
theorem foundUe_data (s : State) (g : Nat) (src : Finder) (who : Option Nat) (ev : Bool) : (foundUe s g src who ev).mem.data = s.mem.data := by
  unfold foundUe
  dsimp only
  rw [poisonedPage_data]
  split <;> (try rw [raiseEvent_mem]) <;> rw [addFrec_mem] <;> exact setPoison_data s g
theorem queueScrub_data (s : State) (g : Nat) : (queueScrub s g).mem.data = s.mem.data := by unfold queueScrub; (repeat' split) <;> rfl
theorem readGranule_data (s : State) (env : Env) (src : Finder) (who : Option Nat) (g : Nat) :
    (readGranule s env src who g).1.mem.data = s.mem.data := by
  unfold readGranule
  dsimp only
  (repeat' split) <;> first | rfl | exact foundUe_data .. | exact queueScrub_data ..
theorem readGranules_data (env : Env) (src : Finder) (who : Option Nat) :
    ∀ (gs : List Nat) (s : State), (readGranules env src who gs s).1.mem.data = s.mem.data
  | [], _ => rfl
  | g :: t, s => by
    simp only [readGranules]
    split
    · exact readGranule_data ..
    · rw [readGranules_data env src who t, readGranule_data]
/-- A read changes no byte. -/
theorem readPa_data (s : State) (env : Env) (src : Finder) (who : Option Nat) (pa n : Nat) : (readPa s env src who pa n).1.mem.data = s.mem.data :=
  readGranules_data ..
theorem writeGranules_data (env : Env) (src : Finder) (pa n : Nat) :
    ∀ (gs : List Nat) (s : State), (writeGranules env src pa n gs s).mem.data = s.mem.data
  | [], _ => rfl
  | g :: t, s => by
    simp only [writeGranules]
    rw [writeGranules_data env src pa n t]
    split
    · rfl
    · unfold partialGranule; (repeat' split) <;> first | rfl | exact foundUe_data ..
/-- A write stores its bytes and no other (R256). -/
theorem writePa_data (s : State) (env : Env) (src : Finder) (pa : Nat) (bs : List Byte) :
    (writePa s env src pa bs).mem.data = s.mem.data.write pa bs := by simp only [writePa, writeGranules_data]

end Sys2Proof.Machine
end

