-- ==== Sys2Proof/WellFormed.lean ====
section
/-!
DEFINITION. The commands that the environment can send: operand values that the pins, buses and converters of the part
can carry. A command that breaks a check stands for no event of the part; exec gives it no effect beyond what its rule says
of the values it can carry.
-/

namespace Sys2Proof

/-- The ADC codes of one witness or slot: at most 128 codes, each in the converter's 8-bit range (R81, Table 3.2). -/
def codesOk (xs : List Int) : Bool := decide (xs.length ≤ 128) && xs.all (fun c => decide (-128 ≤ c) && decide (c ≤ 127))

/-- Register offsets of BAR0: inside 64 MiB and aligned to 4 bytes (R308). -/
def offsetOk (off : Nat) : Bool := decide (off < 0x4000000) && decide (off % 4 = 0)

/-- Whether a command's operands are ones that the part can meet. -/
def WellFormed : Instr → Bool
  | .registerWrite off _ _ _ more => offsetOk off && (more.isNone || decide (off + 4 < 0x4000000))
  | .captureReadLo bar2 off _ more =>
    decide (off % 4 = 0) && decide (off + (if more.isSome then 4 else 0) < if bar2 then 0x1000000 else 0x4000000)
  | .counter64Write off _ _ => offsetOk off
  | .mailboxWrite _ off _ _ _ more => decide (off + (if more.isSome then 4 else 0) < 0x1000) && decide (off % 4 = 0)
  | .recoveryGo val _ => val.getLsbD 0
  | .bar4Read off len _ => decide (off + len ≤ 0x40000000) && decide (0 < len)
  | .bar4Write off data _ _ => decide (off + data.length ≤ 0x40000000) && decide (data ≠ [])
  | .atomicFetchadd off _ _ _ => decide (off < 0x40000000)
  | .atomicSwap off _ _ _ => decide (off < 0x40000000)
  | .atomicCas off _ _ _ _ => decide (off < 0x40000000)
  | .passStart _ _ _ p _ codes _ => decide (p < 32768) && codes.all codesOk
  | .witnessResult _ codes => codesOk codes
  | .clipRepeatRound _ codes => codes.all codesOk
  | .windowStartupCheck _ a b => a.all codesOk && b.all codesOk
  | .qualification _ a b => a.all codesOk && b.all codesOk
  | .windowQualify _ a b => a.all codesOk && b.all codesOk
  | .heaterCodeWrite off _ _ => offsetOk off
  | .generatorWrite off _ => offsetOk off
  | .heaterScClear h _ => decide (h < 262144)
  | .heaterShortOnset h => decide (h < 262144)
  | .heaterShort h => decide (h < 262144)
  | .flitReceive _ _ _ f => decide (f.length = 256)
  | .arenaFree _ a => decide (a < 2 ^ 48)
  | .translationWalk _ page _ => decide (page < 2 ^ 32)
  | .sensorConversion p => p.reads.all (fun r => decide (r.1 < 66))
  | _ => true

end Sys2Proof
end

