-- ==== Sys2Proof/Tests/Slice0.lean ====
section
/-!
SUPPORT. Tests and witnesses: for every statement with hypotheses, named theorems that show concrete states and operands that meet them,
with boundary values; worked examples of the spec; ill-formed commands that WellFormed refuses.
-/

-- One elaboration thread: the package is compiled as one text, and its memory is limited.
set_option Elab.async false

namespace Sys2Proof.Tests

open Sys2Proof Sys2Proof.Machine

/-! ### Small states -/

/-- A part whose start-up is done but for READY: everything loaded, lit and ramped, Windows IDLE, Study in service. -/
def near : State :=
  { State.reset with
    host := { HostIf.reset with cfgReady := true }, windows := (List.range 8).map (fun w => (w, { Window.reset with state := .idle })),
    lamp := ⟨0xFF, 0xFF, 0, 0, 0, false⟩, study := { Study.reset with coreOk := BitVec.ofNat 128 (2 ^ 128 - 1), srdy := true },
    mem := { State.reset.mem with init := true, deliv := 1000, c0cap := 400 }, thermo := { Thermo.reset with nvmOk := true, rampDone := true, loopOn := 0xFF },
    thresh := { Thresh.reset with tstate := .normal, hearthRun := true } }

/-- A part after READY. -/
def up : State := { near with ifLevel := 3, resetting := none }

/-- A part without power good; one held by PERST_N; one in recovery. -/
def dark : State := { State.reset with pwrGood := false, resetting := none }
def recov : State := { near with ifLevel := 0, resetting := none, thresh := { Thresh.reset with tstate := .recovery } }

/-- A part just reset whose NVM values are loaded. -/
def early : State := { State.reset with thermo := { Thermo.reset with nvmOk := true } }

theorem witness_PinResetsClearThePart :
    dark.pwrGood = false ∧ up.pwrGood = true ∧ (powered up = true ∧ up.warmHeld = false ∧ up.perstN = true ∧ up.smbusUp = true) := by
  decide

theorem witness_LesserResetsClearThePart :
    up.warmHeld = false ∧ linkUp up = true ∧ up.host.cfgReady = true ∧
    (let s := { up with internalCause := some 6 }; s.warmHeld = false ∧ powered s = true ∧ s.internalCause = some 6) ∧
    powered up = true ∧ up.thresh.hearthRun = true ∧ up.nvm.frec.length < 1024 := by decide

theorem witness_StartUpStepsTakeEffect :
    (starting State.reset = true ∧ State.reset.thermo.nvmOk = false ∧ State.reset.mem.init = false ∧ recordGood State.reset 7 = true) ∧
    (let s := { State.reset with nvm := { Nvm.initial with recOk := 0x7F } }
     starting s = true ∧ s.thermo.nvmOk = false ∧ recordGood s 7 = false) ∧
    (powered up = true ∧ up.perstN = true ∧ up.warmHeld = false ∧ up.thresh.hearthRun = true) ∧
    (linkUp State.reset = true ∧ State.reset.host.cfgReady = false ∧ State.reset.host.cfgDone = false) ∧
    (linkUp up = true ∧ up.host.cfgReady = true) := by decide

theorem witness_FirmwareIsCheckedBeforeItRuns :
    (starting State.reset = true ∧ State.reset.thresh.hearthRun = false ∧ State.reset.thresh.tstate = .boot ∧
      State.reset.nvm.fuseTodo = none ∧ State.reset.nvm.wipePending = false ∧ State.reset.nvm.fwAct = false ∧
      State.reset.nvm.switchDue = false) ∧ (barUp recov = true ∧ inRecovery recov = true) := by decide

/-- Window 7 not yet checked at start-up; the Study not yet tested. -/
def starting7 : State :=
  { near with
    windows := (List.range 8).map (fun w => (w, { Window.reset with state := if w = 7 then .off else .idle, convRun := 2 })),
    study := Study.reset }

theorem witness_CoresAndWindowsComeIntoService :
    starting starting7 = true ∧ starting7.thresh.hearthRun = true ∧ isReady starting7 = false ∧ starting7.study.srdy = false ∧
    ((win starting7 7).state = .off ∧ starting7.thermo.rampDone = true ∧ starting7.nvm.recOk.getLsbD 7 = true ∧
      starting7.power.trip = false ∧ laserLit starting7 7 = true ∧ 2 ≤ (win starting7 7).convRun) ∧
    (List.replicate 4096 ([] : List Int)).length = 4096 := by
  refine ⟨?_, ?_, ?_, ?_, ?_, List.length_replicate ..⟩ <;> decide

/-- Lasers enabled, and L7 not yet lit. -/
def lighting : State := { early with lamp := ⟨0x7F, 0xFF, 0, 0, 0, false⟩ }

theorem witness_LasersAndDarkLasers :
    (powered lighting = true ∧ lighting.lamp.enabled.getLsbD 7 = true ∧ lighting.lamp.failed.getLsbD 7 = false ∧
      lighting.power.trip = false ∧ lighting.thermo.rampDone = false) ∧
    (let s := { near with lamp := lighting.lamp }
     powered s = true ∧ s.lamp.enabled.getLsbD 7 = true ∧ s.lamp.failed.getLsbD 7 = false ∧ s.power.trip = false ∧
       s.thermo.rampDone = true ∧ s.thermo.tctrl.getLsbD 7 = true) ∧
    (starting lighting = true ∧ lighting.lampWasLit = false ∧ lighting.lamp.spareUse = false ∧ lighting.lamp.failed = 0 ∧
      lighting.lamp.enabled.getLsbD 7 = true ∧ lighting.lamp.lok.getLsbD 7 = false ∧
      ∀ k < 7, lighting.lamp.enabled.getLsbD k = true → lighting.lamp.lok.getLsbD k = true) ∧
    (powered up = true ∧ up.lamp.lok.getLsbD 0 = true ∧ up.lamp.worn.getLsbD 0 = false) := by decide

theorem witness_ReadyRaisesTheInterface :
    (readyOthers near = true ∧ ∀ w < 8, windowSettled near w = true) ∧
    (let s := { near with windows := (List.range 8).map (fun w => (w, { Window.reset with state := if w = 7 then .qual else .idle })) }
     readyOthers s = true ∧ (win s 7).state = .qual ∧ (win s 0).state = .idle) ∧
    (let s := { near with windows := [] }
     readyOthers s = true ∧ (win s 0).state = .off ∧ s.nvm.recOk.getLsbD 0 = true) := by decide

theorem witness_SidebandReportsRailsAndAnswers :
    up.pwrGood = true ∧ up.power.railStat.getLsbD 9 = true ∧ up.nvm.frec.length < 1024 ∧ up.smbusUp = true := by decide

/-- A part held by PERST_N with an unlocked JTAG port, and one under boundary scan. -/
def held0 : State := { State.reset with perstN := false, warmHeld := true, fuses := { Fuses.initial with jtagLock := false } }
def scan : State := { held0 with thresh := { Thresh.reset with jtagIns := .extest } }

theorem witness_JtagIsGuarded :
    boundary up = false ∧ up.fuses.jtagLock = true ∧ up.nvm.frec.length < 1024 ∧
    (boundary held0 = false ∧ held0.pwrGood = true ∧ held0.perstN = false) ∧ (boundary scan = true ∧ scan.pwrGood = true) := by decide

theorem witness_FailureRecordSummaryIsWrittenWhole :
    powered up = true ∧ up.nvm.frecSum.lampH[8]? = some 0 ∧ up.nvm.frecSum.lampH[0]? = some 0 := by decide

/-- Registers whose writes are open. -/
theorem witness_RegistersFollowTheirAccessClass :
    barUp up = true ∧ blockOpen up clrCWIF = true ∧ inRecovery up = false ∧ (1 : BitVec 4) ≠ 0 ∧ (14 : BitVec 4) ≠ 15 := by decide

/-- A range entry 15 that maps BAR4 unit 16,383 to the Larder's first page, writable with atomics; MSI-X on. -/
def ranged : State :=
  { up with host := { up.host with ranges := [(15, ⟨true, true, true, 16383, 1, 0⟩)], msixEn := true } }

theorem witness_RangeTableVectorsAndStrayTlps :
    (writeOpen up clrCWIF = true ∧ (bankGet up.host.ranges RangeEnt.reset 0).en = false) ∧
    (writeOpen ranged clrCWIF = true ∧ (bankGet ranged.host.ranges RangeEnt.reset 15).en = true) ∧
    (blockOpen ranged clrCWF = true ∧ ranged.host.msixEn = true ∧ ranged.host.msixMask = false) ∧
    powered up = true ∧ up.perstN = true := by decide

/-- A page table: Larder pages from 0x20000, one host page, one Cellar page with SHO, a page without R and W. -/
def pages : List Mapping :=
  [⟨0x10000, false, .dev 0x20000, 3, true, none⟩, ⟨0x20000, false, .host 0x40000, 3, false, none⟩,
   ⟨0x30000, false, .dev 0x1000000000, 7, true, none⟩, ⟨0x40000, false, .dev 0x50000, 0, true, none⟩]

/-- A resident context with that table and one kernel. -/
def ctx5 : Context :=
  ⟨0x1234, 1, 0, 3, true, 0, false, false, 0, 0, 0, 0, 0, pages, none, 0, 0, [(1, [1, 2])], 0, false, [], none⟩

/-- Queue 255 of context 5: entries at 0x10000, records in host memory, one command pending. -/
def queue255 : Queue := ⟨5, 1, 0x10000, 0x20000, 64, 7, 65535, 0, .active, false, 0, none, false⟩

/-- Bytes with fields written into them (offset, width, value). -/
def fields (n : Nat) (fs : List (Nat × Nat × Nat)) : List Byte :=
  fs.foldl (fun l f => l.take f.1 ++ toBytes f.2.1 f.2.2 ++ l.drop (f.1 + f.2.1)) (List.replicate n 0)

/-- The part with queue 255, the entry at its HEAD (slot 63) given by its fields. -/
def queued (fs : List (Nat × Nat × Nat)) : State :=
  { up with
    ctxs := [(5, ctx5)], queues := [(255, queue255)],
    mem := { up.mem with data := (⟨[]⟩ : Memory).write (0x20000 + 128 * 63) (fields 128 fs) } }

theorem witness_DoorbellsAreTakenOrCounted :
    (let s := queued []; barUp s = true ∧ inRecovery s = false ∧ queueOf s 255 = some queue255 ∧ queue255.ctx = 5 ∧
      queue255.dying = false ∧ (∀ q, queueOf s 254 = some q → q.ctx ≠ 4095) ∧ (∀ q, queueOf s 255 = some q → q.ctx ≠ 4)) := by
  refine ⟨by decide, by decide, by decide, rfl, rfl, ?_, ?_⟩
  · intro q h; cases h
  · intro q h; cases h; decide

/-- Mailbox 15 and the mailbox of context 5, busy or not. -/
def boxed (b : Bool) (req : Memory) : State :=
  { queued [] with
    mboxes := [(15, { Mailbox.reset with busy := b, req := req })], umboxes := [(5, { Mailbox.reset with busy := b, req := req })] }

theorem witness_MailboxWritesPostOrAreDiscarded :
    (let s := boxed true ⟨[]⟩
     barUp s = true ∧ inRecovery s = false ∧ (mbGet s (.priv 15)).busy = true ∧ ctxOf s 5 = some ctx5 ∧ ctx5.resident = true ∧
       blockOpen s clrCWIF = true ∧ (mbGet s (.unpriv 5)).busy = true ∧ (0x10 ≤ 0x7FC ∧ 0x7FC < 0x800) ∧
       (0x10 ≤ 0x3FC ∧ 0x3FC < 0x400)) ∧
    ((mbGet (boxed false ⟨[]⟩) (.priv 15)).busy = false) ∧
    (let s := { boxed false ⟨[]⟩ with ifLevel := 0 }
     barUp s = true ∧ inRecovery s = false ∧ (mbGet s (.priv 15)).busy = false ∧ lbOpen s = false) ∧
    (let s := boxed false ⟨[(0x10, 0xD2), (0x12, 1)]⟩
     lbOpen s = true ∧ lbCodes.contains (reqCmd (mbGet s (.priv 15))) = true) := by decide

/-- An environment that finds no error. -/
def calm : Env := ⟨[], [], [], .ok, 0, some (0, 0)⟩

/-- Bytes 0 to 7 hold 1 to 8; granule 1 is poisoned. -/
def mapped : State :=
  { ranged with mem := { ranged.mem with data := (⟨[]⟩ : Memory).write 0 [1, 2, 3, 4, 5, 6, 7, 8], poison := [1] } }

/-- The BAR4 offset of unit 16,383. -/
def unit : Nat := 0x3FFF0000

theorem witness_HostReadsAndWritesReachMemory :
    barUp mapped = true ∧ inRecovery mapped = false ∧
    (rangeHits mapped unit = [⟨true, true, true, 16383, 1, 0⟩] ∧ hostReach mapped 0 8 = true ∧ calm.ue = [] ∧ calm.ce = [] ∧
      ∀ g ∈ granulesOf 0 8, g ∉ mapped.mem.poison ∧ stackOut mapped (64 * g) = false) ∧
    (hostReach mapped 0 65 = true ∧ 1 ∈ granulesOf 0 65 ∧ 1 ∈ mapped.mem.poison) ∧ rangeHits mapped (unit - 1) = [] ∧
    rangeHits mapped (unit + 0x10000) = [] ∧ firstOut mapped 0 128 = none ∧ mapped.mem.data.wf = true := by decide

theorem witness_HostAtomicsReadAndWriteOnce :
    barUp mapped = true ∧ inRecovery mapped = false ∧ rangeHits mapped unit = ⟨true, true, true, 16383, 1, 0⟩ :: [] ∧ unit % 8 = 0 ∧
    hostReach mapped 0 8 = true ∧ (calm.ue = [] ∧ calm.ce = [] ∧
      ∀ g ∈ granulesOf 0 8, g ∉ mapped.mem.poison ∧ stackOut mapped (64 * g) = false) ∧ mapped.mem.data.wf = true := by decide

/-- A header, a copy command in flight with its stream, and a host read it waits for. -/
def hdr0 : CmdHdr := ⟨7, 1, false, false, false, false, 0, 0⟩
def copyOp : Op :=
  { q := 255, idx := 65535, ctx := 5, cls := 1, hdr := hdr0, cmd := .copy 0x20000 0x10000 16 1 16 16, started := true, armed := false,
    done := none, detail := 0, rflags := 0, imgs := [], passes := [], args := [], kernel := [],
    itemsOut := [], moved := [], itemsDone := 0, refine := none, gkey := 0 }
def copyStream : Stream :=
  { op := (255, 65535), kind := .copy, toUnit := true, cls := 1, ctx := 5, src := 0x20000, dst := 0x10000, rowLen := 16, nRows := 1,
    sStride := 16, dStride := 16, pos := 0, rpos := 0, state := .run, fcode := .none, faultVa := 0, pending := none, dw := some 15,
    buf := [], segs := [], win := 0, half := false, slot := 3, held := none }
def asking : State :=
  { queued [] with
    queues := [(255, { queue255 with head := 0 })], ops := [copyOp], streams := [(3, copyStream)],
    host := { up.host with reqs := [⟨9, 3, 16, 5⟩] } }

theorem witness_HostAnswersReachTheirStream :
    powered asking = true ∧ asking.host.reqs.find? (fun r => r.tag = 9) = some ⟨9, 3, 16, 5⟩ ∧
    findStream asking 3 = some copyStream ∧ copyStream.kind = .copy ∧ (List.replicate 16 (0 : Byte)).length = 16 ∧
    findOp asking copyStream.op = some copyOp ∧ copyOp.done = none ∧ asking.host.cfg.devCtl2.getLsbD 4 = false := by decide

/-- Whether the sequencer may decode queue 255's entry at HEAD, and what it reads. -/
def dueAt (s : State) (q : Queue) : Bool :=
  decide (queueOf s 255 = some q) && powered s && isReady s && !s.power.trip && decodable s 255 q &&
  arbClass s 7 q.cls (seqWaits s 7) && decide (seqPick s 7 q.cls = some 255) &&
  decide ((readVa s calm q.ctx (q.ringVa + 128 * (q.head % q.ringN)) 128).2.1 = .ok)
def entryOf (s : State) (q : Queue) : State × Acc × List Byte := readVa s calm q.ctx (q.ringVa + 128 * (q.head % q.ringN)) 128

theorem due_of_dueAt {s : State} {q : Queue} (h : dueAt s q = true) : Due s calm 255 q (entryOf s q).1 (entryOf s q).2.2 := by
  simp only [dueAt, Bool.and_eq_true, decide_eq_true_eq, Bool.not_eq_true'] at h
  obtain ⟨⟨⟨⟨⟨⟨⟨h1, h2⟩, h3⟩, h4⟩, h5⟩, h6⟩, h7⟩, h8⟩ := h
  exact ⟨h1, h2, h3, h4, h5, h6, h7, Prod.ext rfl (Prod.ext h8 rfl)⟩

theorem witness_QueueRowsDecodeTheirEntry :
    ∀ op ∈ List.range 12, let s := queued [(0, 1, op), (1, 1, 1)]
      dueAt s queue255 = true ∧ findOp s (255, 65535) = none ∧ field (entryOf s queue255).2.2 0 1 = op := by decide +kernel

/-- An accepted command of each kind. -/
def imageEntry : List (Nat × Nat × Nat) := [(0, 1, 2), (1, 1, 1), (24, 8, 0x100), (32, 1, 15)]
def slotEntry (op : Nat) : List (Nat × Nat × Nat) := [(0, 1, op), (1, 1, 3), (24, 8, 0x10000), (32, 8, 0x18000), (40, 1, 7), (41, 1, 0), (42, 1, 0x20)]
def copyEntry : List (Nat × Nat × Nat) :=
  [(0, 1, 7), (1, 1, 1), (24, 8, 0x20000), (32, 8, 0x10000), (40, 4, 16), (44, 4, 2), (48, 4, 16), (52, 4, 32)]
def fillEntry : List (Nat × Nat × Nat) := [(0, 1, 8), (1, 1, 1), (32, 8, 0x10000), (40, 4, 16), (44, 4, 2), (52, 4, 32)]
def nopEntry : List (Nat × Nat × Nat) := [(0, 1, 10), (1, 1, 1)]
def waitEntry (v : Nat) : List (Nat × Nat × Nat) := [(0, 1, 9), (1, 1, 1), (24, 8, 0x30000), (32, 8, v), (40, 4, 100)]
def studyEntry : List (Nat × Nat × Nat) := [(0, 1, 5), (1, 1, 1), (24, 4, 1), (28, 4, 2), (32, 8, 0x10000), (40, 2, 16)]
def refineEntry : List (Nat × Nat × Nat) :=
  [(0, 1, 6), (1, 1, 1), (24, 8, 0x10000), (32, 4, 1), (48, 8, 0x10000), (56, 8, 0x10000), (64, 8, 0x18000), (72, 8, 0x18100), (80, 8, 0x18200),
   (88, 8, 0x10000), (96, 8, 0x3FF0000000000000), (104, 2, 1), (108, 2, 10), (110, 2, 1), (113, 1, 255)]
def windowEntry (list : Nat) : List (Nat × Nat × Nat) :=
  [(0, 1, 1), (1, 1, 1), (24, 8, list), (32, 8, 0x10000), (40, 8, 0x10000), (48, 8, 0x18000), (56, 8, 0x18000), (80, 4, 64), (88, 2, 1),
   (92, 2, 1), (104, 1, 7), (106, 1, 0x40), (108, 1, 32)]

def accepted (fs : List (Nat × Nat × Nat)) : Bool :=
  let s := queued fs
  dueAt s queue255 && s.ops.all (fun u => decide (u.q ≠ 255)) && decide (decodeCheck s 255 5 (entryOf s queue255).2.2 = none)

theorem witness_AcceptedTransfersGetTheirStream :
    accepted imageEntry = true ∧ accepted (slotEntry 3) = true ∧ accepted (slotEntry 4) = true ∧ accepted copyEntry = true ∧
    accepted fillEntry = true := by decide +kernel

set_option maxRecDepth 4096 in
theorem witness_AcceptedCommandsBegin :
    accepted nopEntry = true ∧ accepted (waitEntry 0) = true ∧ accepted (waitEntry 1) = true ∧ accepted studyEntry = true ∧
    accepted refineEntry = true ∧ accepted (windowEntry 0x10000) = true := by decide +kernel

/-- A FENCE_WAIT in flight and a finished COPY with SIGNAL, both index 65535 of queue 255; the queue's HEAD is 0. -/
def waitOp : Op := { copyOp with cmd := .fenceWait 0x30000 1 100, armed := true }
def endedOp (add : Bool) : Op := { copyOp with done := some .ok, hdr := ⟨7, 1, false, true, true, add, 5, 0x30000⟩ }
def withOp (o : Op) : State := { queued [] with queues := [(255, { queue255 with head := 0 })], ops := [o] }

theorem witness_CompletionWritesRecordThenSignal :
    ∀ add, let s := withOp (endedOp add)
      powered s = true ∧ findOp s (255, 65535) = some (endedOp add) ∧ (queueOf s 255).isSome = true ∧
      (endedOp add).done = some .ok ∧ signalWaits s (endedOp add) .ok = false ∧
      (let va := 0x20000 + 32 * (65535 % 64)
       tableFind s 5 va = some ⟨0x20000, false, .host 0x40000, 3, false, none⟩ ∧ dtcHits s 5 va = [] ∧ va < 2 ^ 48 ∧
         va % 0x10000 + 32 ≤ 0x10000 ∧ (⟨0x20000, false, .host 0x40000, 3, false, none⟩ : Mapping).w = true ∧
         (⟨0x20000, false, .host 0x40000, 3, false, none⟩ : Mapping).at va = .host 0x407E0) ∧
      Status.ok.signals = true ∧ tableFind s 5 0x30000 = some ⟨0x30000, false, .dev 0x1000000000, 7, true, none⟩ ∧
      dtcHits s 5 0x30000 = [] ∧ paValid s 0x1000000000 = true ∧ stackOut s 0x1000000000 = false ∧
      (∀ g ∈ granulesOf 0x1000000000 8, g ∉ s.mem.poison ∧ stackOut s (64 * g) = false) ∧ s.mem.data.wf = true := by decide

theorem witness_FenceTimeoutStopsItsQueue :
    let s := withOp waitOp
    powered s = true ∧ findOp s (255, 65535) = some waitOp ∧ waitOp.armed = true ∧ waitOp.started = true ∧
    (queueOf s 255).map (·.state) = some .active := by decide

/-- A small image: IMAGEID 1, KVALID and NVALID 128. -/
def image1 : Image := ⟨1, 0, 128, 128, [], [], 100, 100⟩
def paneOn : Pane := { Pane.reset with state := .active, image := some image1 }
/-- A WINDOW body of two passes on Window 7 (Q4, I16, one row, EPI). -/
def win2 : WinCmd :=
  { imgList := 0x10000, inAddr := 0x10000, ctAddr := 0x10000, outAddr := 0x18000, metAddr := 0x18000, rsvAddr := 0, osvAddr := 0,
    inStride := 64, sx := 0, kTotal := 2, kFirst := 0, kCount := 2, splitN := 0, splitRank := 0, otrow := 0, otcol := 0,
    slot := 0, zpx := 0, window := 7, srows := 0, unal := false, nrows := 1, infmt := 0, afmt := 4, ofmt := 0, rsrc := 0,
    zpmode := 0, act := 0, omode := false, pinit := false, epi := true, qfmt := 0 }
def winOp : Op := { copyOp with cmd := .window win2, imgs := [(1, 0x100), (1, 0x100)] }

/-- Window 7 IDLE with that image in pane A and a ready feed of pass 0. -/
def readyWin : State :=
  { withOp winOp with
    windows := [(7, { Window.reset with
      state := .idle, active := some false, paneA := paneOn, half0 := some ⟨(255, 65535), 0, 1, List.replicate 64 0, true⟩ })] }

/-- A pass in flight on Window 7, all its slots issued. -/
def pass0 : Pass :=
  { op := (255, 65535), p := 0, pane := false, home := 7, half := none, fmt := .q4, rows := [[]], rowScale := [], rowSum := [0],
    dens := 16, hist := 15, blimit := 0x41800000, slots := [⟨0, false, [], 0, List.replicate 128 127⟩], round := 0,
    plan := [], sinceWit := 0, pendWit := [], decided := 1, own := [], bound := 0x3F800000, clipRep := false, sat := false, rsvd := false, moved := false }
def running (p : Pass) : State :=
  { readyWin with windows := [(7, { Window.reset with state := .run, active := some false, paneA := paneOn, pass := some p })] }

theorem witness_PassesStartAndCommit :
    (let s := readyWin
     powered s = true ∧ findOp s winOp.id = some winOp ∧ winOp.id = (255, 65535) ∧ winOp.done = none ∧ winOp.started = true ∧
       passTodo s winOp 0 = true ∧ runWindow s 7 = some 7 ∧ imgOfPass winOp 0 = some (1, 0x100) ∧ paneWith (win s 7) 1 = some false ∧
       (win s 7).state = .idle ∧ (win s 7).pass = none ∧ (win s 7).swap = none ∧ (win s 7).active = some false ∧
       paced s 1 = false ∧ arbGrants s 15 256 1 255 (passReqs s 7) = true ∧ paneHeld winOp (paneOf (win s 7) false) = true ∧
       halfOf (win s 7) false = some ⟨(255, 65535), 0, 1, List.replicate 64 0, true⟩) ∧
    (let s := { readyWin with windows := [] }
     powered s = true ∧ findOp s winOp.id = some winOp ∧ passTodo s winOp 1 = true ∧ runWindow s 7 = none) ∧
    (let p := { pass0 with round := 3 }; let s := running p
     powered s = true ∧ (win s 7).pass = some p ∧ p.op = winOp.id ∧ p.plan = [] ∧ p.pendWit = [] ∧ p.round = 3 ∧
       leF32 p.bound p.blimit = true ∧ findTree s winOp.id = none ∧ overlapped s (newTree s winOp win2 128) = false) ∧
    (let p := { pass0 with slots := [⟨0, false, [], 0, List.replicate 128 5⟩] }; let s := running p
     toRepeat (passNvalid (win s 7) p) p.round p.slots = []) := by decide

theorem witness_WitnessesAndRepeatRounds :
    (let p := { pass0 with pendWit := [⟨0, 0, 0, 0⟩] }; let s := running p
     (win s 7).pass = some p ∧ p.pendWit = ⟨0, 0, 0, 0⟩ :: [] ∧ (paneOf (win s 7) p.pane).image = some image1 ∧ (win s 7).state = .run) ∧
    (let p := { pass0 with round := 2, slots := [⟨0, false, [], 2, List.replicate 128 127⟩] }; let s := running p
     (win s 7).pass = some p ∧ p.plan = [] ∧ p.pendWit = [] ∧ p.round < 3 ∧ toRepeat (passNvalid (win s 7) p) p.round p.slots ≠ []) := by
  decide

/-- Window 7 with one pane in a given state. -/
def paned (b : Bool) (p : Pane) (act swp : Option Bool) : State :=
  { up with windows := [(7, ({ Window.reset with state := .idle, active := act, swap := swp } : Window).setPane b p)] }

theorem witness_PanesLoadArmAndSwap :
    (∀ b, (paneOf (win (paned b { Pane.reset with state := .staging, staged := List.replicate 0x18100 0 } none none) 7) b).state = .staging ∧
      (paneOf (win (paned b { Pane.reset with state := .staging, staged := List.replicate 0x18100 0 } none none) 7) b).staged.length = 0x18100) ∧
    (∀ b, (paneOf (win (paned b { Pane.reset with state := .settling } none none) 7) b).state = .settling) ∧
    (∀ b, let s := paned b { Pane.reset with state := .armed } (some !b) none
      inService s 7 = true ∧ slotsOver (win s 7) = true ∧ (win s 7).swap = none ∧ (paneOf (win s 7) b).state = .armed ∧
        (win s 7).active ≠ some b) ∧
    (∀ b, (win (paned b { Pane.reset with state := .armed } (some !b) (some b)) 7).swap = some b) := by
  refine ⟨?_, by decide, by decide, by decide⟩
  intro b
  cases b <;> exact ⟨rfl, List.length_replicate ..⟩

theorem witness_LasersPairsAndQualification :
    (powered up = true ∧ up.lamp.lok.getLsbD 7 = true ∧ (win up 7).spare = false ∧ inService up 7 = true ∧
      up.lamp.spareUse = false ∧ up.lamp.failed.getLsbD 8 = false) ∧
    (let s := { up with lamp := ⟨0x17F, 0x17F, 0x80, 0, 0, false⟩ }
     powered s = true ∧ s.lamp.spareUse = false ∧ s.lamp.failed.getLsbD 8 = false ∧ spareTarget s = some 7 ∧ s.lamp.lok.getLsbD 8 = true) ∧
    (let s := { up with windows := [(7, { Window.reset with state := .quar, requal := true, convRun := 2 })] }
     powered s = true ∧ (win s 7).state = .quar ∧ (win s 7).requal = true ∧ 2 ≤ (win s 7).convRun ∧ laserLit s 7 = true ∧
       (pantry s 7).out = false) ∧
    (List.replicate 4096 ([] : List Int)).length = 4096 := by
  refine ⟨by decide, by decide, by decide, List.length_replicate ..⟩

theorem witness_PantryErrorsAreContained :
    powered up = true ∧ (pantry up 7).out = false ∧
    (let s := { queued [] with pantries := [(7, { Pantry.reset with dir := [(0, SlotDesc.reset)] })] }
     (pantry s 7).out = false ∧ slotHolders s 7 = [5]) := by decide

/-- A tree of the two passes, waiting or whole. -/
def part0 : Partial := ⟨1, 0, List.replicate 128 0, 0, 0, TileFlags.none, 2⟩
def tree0 : Tree :=
  { op := (255, 65535), pantry := 7, ctx := 5, rel := 0, lo := 0, hi := 2048, fmt := .i16, rows := 8, open_ := false, next := 0, held := [],
    waiting := true, stack := [], root := none, final := none, sent := false, rowSum := [0], kCount := 0, farPasses := 0,
    rowScale := [], nvalid := 1 }
def leaf0 : Leaf := ⟨0, List.replicate 128 0, 0, TileFlags.none⟩
def treed (c : WinCmd) (t : Tree) : State := { withOp { winOp with cmd := .window c } with trees := [t] }

theorem witness_TreesCloseWithTheirResult :
    (let t := { tree0 with held := [leaf0] }; let s := treed win2 t
     powered s = true ∧ findTree s (255, 65535) = some t ∧ t.op = winOp.id ∧ t.waiting = true ∧ t.open_ = false ∧
       overlapped s t = false ∧ leaf0.p = t.next ∧ t.next + 1 < win2.kFirst + win2.kCount) ∧
    (∀ e, let c := { win2 with splitN := 1, epi := e }; let t := { tree0 with waiting := false, root := some part0 }; let s := treed c t
      findTree s (255, 65535) = some t ∧ c.splitN ≠ 0 ∧ c.splitRank = 0 ∧ isRoot c (trussLift c 20 part0) = true ∧ s.link.partials = []) ∧
    (let t := { tree0 with waiting := false, root := some part0, final := some part0 }; let s := treed win2 t
     findTree s (255, 65535) = some t ∧ win2.epi = true ∧ win2.rsrc ≠ 2 ∧ t.farPasses = 0 ∧ s.streams = [] ∧
       (readVa s calm 5 win2.ctAddr (32 * t.nvalid)).2.1 = .ok) := by decide

/-! ### Study and Refine -/

/-- A STUDY command of one item, and one work item of it on core 127. -/
def studyOp : Op := { copyOp with cmd := .study 1 1 0x10000 16 .rne, kernel := [1, 2] }
def studying (busy : Bank Item) : State := { withOp studyOp with study := { up.study with busy := busy } }

theorem witness_StudyItemsRunAndRepeat :
    (let s := studying []
     powered s = true ∧ findOp s (255, 65535) = some studyOp ∧ studyOp.started = true ∧ studyOp.done = none ∧
       itemAt studyOp 0 = some (.kernel (255, 65535) 0) ∧ 0 ∉ studyOp.itemsOut ∧ coreUp s 127 = true ∧
       bankFind s.study.busy 127 = none ∧ paced s 1 = false ∧ arbGrants s (clusterOf 127) 256 1 255 (itemReqs s) = true) ∧
    (let s := studying [(127, .kernel (255, 65535) 0)]
     powered s = true ∧ bankFind s.study.busy 127 = some (.kernel (255, 65535) 0) ∧ findOp s (255, 65535) = some studyOp ∧
       studyOp.cmd = .study 1 1 0x10000 16 .rne ∧ studyHalted s (255, 65535) 127 = false ∧ coreUp s 127 = true ∧
       (runTrace s calm studyOp .rne (itemTodo s calm studyOp .rne 127 0 [.const 0 7, .store 0x10000 0 8])).acc = .ok ∧ s.nvm.frec.length < 1024) := by decide

/-- A Refine of one row in a given stage. -/
def ref1 : RefCmd :=
  { aAddr := 0x10000, rowPtr := 0, lda := 1, colIdx := 0, bAddr := 0x10000, x0Addr := 0, yOut := 0x18000, mapAddr := 0x18100,
    repAddr := 0x18200, mtAddr := 0x10000, beta := 0x3FF0000000000000, n := 1, tolExp := 0, itMax := 0, mTiles := 1, csr := false,
    wmask := 255 }
def refSt (g : RefStage) : RefineSt := { refineInit [0] 1 [(0, 0, 0x100, 0, 1)] with stage := g }
def refOp (g : RefStage) : Op := { copyOp with cmd := .refine ref1, refine := some (refSt g) }
def refining (g : RefStage) (it : Item) : State := { withOp (refOp g) with study := { up.study with busy := [(127, it)] } }

/-- The same with residual 1.0, at iteration limit 10. -/
def ref10 : RefCmd := { ref1 with itMax := 10 }
def ref10St : RefineSt := { refSt .decide with r := [0x3FF0000000000000] }
def ref10Op : Op := { copyOp with cmd := .refine ref10, refine := some ref10St }
def refining10 : State := { withOp ref10Op with study := { up.study with busy := [(127, .decision (255, 65535))] } }

/-- The bound, the decisions and the stop of a decision step. -/
def decision (c : RefCmd) (r : RefineSt) (s : State) : Option Nat × (State × List (Option Long) × IFlags) × Nat :=
  let e := errBound c.beta r.r r.eps
  let d := decideAll c.tolExp e.1 (r.decided.zip r.x) s 0
  (stopStatus c { r with rnorm := BitVec.ofNat 64 (normInf r.r), ieee := r.ieee ||| e.2 } e.1 d.2.1, d, e.1)

theorem witness_RefineItemsAdvanceTheIteration :
    (let s := refining .residuals (.residual (255, 65535) 0)
     findOp s (255, 65535) = some (refOp .residuals) ∧ bankFind s.study.busy 127 = some (.residual (255, 65535) 0) ∧
       refineOn s 127 (.residual (255, 65535) 0) = some (refOp .residuals, ref1, refSt .residuals) ∧
       (refRows calm (refOp .residuals) ref1 (refSt .residuals).x (tileExtent ref1.n 0) (128 * 0) s).2.1 = .ok) ∧
    (let s := refining .updates (.update (255, 65535) 0)
     findOp s (255, 65535) = some (refOp .updates) ∧ bankFind s.study.busy 127 = some (.update (255, 65535) 0) ∧
       refineOn s 127 (.update (255, 65535) 0) = some (refOp .updates, ref1, refSt .updates)) ∧
    (let s := refining .decide (.decision (255, 65535))
     findOp s (255, 65535) = some (refOp .decide) ∧ bankFind s.study.busy 127 = some (.decision (255, 65535)) ∧
       refineOn s 127 (.decision (255, 65535)) = some (refOp .decide, ref1, refSt .decide) ∧ (refSt .decide).noWin = false ∧
       (decision ref1 (refSt .decide) s).1 = some 0) ∧
    (let s := refining10
     findOp s (255, 65535) = some ref10Op ∧ refineOn s 127 (.decision (255, 65535)) = some (ref10Op, ref10, ref10St) ∧
       (decision ref10 ref10St s).1 = none) := by decide +kernel

/-- A context with an arena of 1 MiB, with given blocks taken. -/
def arena (bs : List (Nat × Nat)) : State := { queued [] with ctxs := [(5, { ctx5 with arena := some ⟨0x100000, 0x100000, bs⟩ })] }

theorem witness_ArenaCallsTakeTheLowestFreeBlock :
    (powered (arena []) = true ∧ isReady (arena []) = true ∧
      ctxOf (arena []) 5 = some { ctx5 with arena := some ⟨0x100000, 0x100000, []⟩ }) ∧
    (4096 % blockSize 257 = 0 ∧ blockClear ⟨0x100000, 0x100000, []⟩ 4096 (blockSize 257) = true ∧
      ∀ k < 4096, blockClear ⟨0x100000, 0x100000, []⟩ k (blockSize 257) = false) ∧
    (∀ k, k % blockSize 0x80001 = 0 → blockClear ⟨0x100000, 0x100000, []⟩ k (blockSize 0x80001) = false) := by
  refine ⟨by decide, ⟨by decide, by decide, ?_⟩, ?_⟩
  · intro k h
    simp only [blockClear, Bool.and_eq_false_iff, decide_eq_false_iff_not]
    omega
  · intro k h
    simp only [blockClear, Bool.and_eq_false_iff, decide_eq_false_iff_not]
    have e : blockSize 0x80001 = 0x100000 := by decide
    rw [e] at h ⊢
    omega

/-! ### Streams -/

/-- The command's stream before it has a Dumbwaiter, and with one at a point of its work. -/
def streamed (o : Op) (x : Stream) : State := { withOp o with streams := [(3, x)], nextSid := 4 }
def readyStream : Stream := { copyStream with state := .ready, dw := none }
def loadOp (st : Bool) : Op := { copyOp with cmd := .imageLoad 0x100 7 true, started := st }
def loadStream : Stream := { readyStream with kind := .image, src := 0x100, rowLen := 0x18100, win := 7, half := true }
def slotOp : Op := { copyOp with cmd := .slotRead 0x10000 0x18000 7 0 0 .i16 }

theorem witness_StreamsTakeADumbwaiter :
    (let s := streamed copyOp readyStream
     powered s = true ∧ findStream s 3 = some readyStream ∧ findOp s readyStream.op = some copyOp ∧ readyStream.state = .ready ∧
       readyStream.dw = none ∧ copyOp.started = true ∧ copyOp.done = none ∧ dwFree s 15 1 = true ∧ readyStream.kind ≠ .image ∧
       readyStream.kind ≠ .slot) ∧
    (let x := { readyStream with kind := .slot, toUnit := false }; let s := streamed slotOp x
     findStream s 3 = some x ∧ findOp s x.op = some slotOp ∧ dwFree s 15 1 = true ∧ slotOp.done = none) ∧
    (let s := streamed (loadOp true) loadStream
     findStream s 3 = some loadStream ∧ findOp s loadStream.op = some (loadOp true) ∧ dwFree s 15 1 = true ∧
       imageTarget s (loadOp true) loadStream = some (7, true) ∧ (paneOf (win s 7) true).loader ≠ some (loadOp true).id) ∧
    (let s := withOp { winOp with cls := 1 }
     findOp s (255, 65535) = some { winOp with cls := 1 } ∧ lookahead s winOp = true ∧ allowedOn s winOp 0 7 = true ∧ winOp.started = true ∧
       nextFeed s winOp win2 = some 0 ∧ dwFree s 15 1 = true ∧ halfOf (win s 7) true = none) ∧
    (let s := withOp (loadOp false)
     findOp s (255, 65535) = some (loadOp false) ∧ (loadOp false).started = false ∧ prefetchOk s (loadOp false) 7 true = true ∧
       dwFree s 15 1 = true ∧ mayStage s (loadOp false) 7 true = true) := by decide

/-- A copy between device pages: 16 bytes read and waiting to be written, or still to be read. -/
def full : Stream := { copyStream with rpos := 16, buf := List.replicate 16 9 }
def mark (p : List Nat) (s : State) : State := { s with mem := { s.mem with poison := p } }

theorem witness_StreamTransactionsMoveBytes :
    (let s := streamed copyOp full
     findStream s 3 = some full ∧ findOp s full.op = some copyOp ∧ txnServed s 3 full false = true ∧
       (full.addrAt false full.pos).1 = 0x10000 ∧
       (translate s 5 0x10000 true).2 = .ok ⟨0x10000, false, .dev 0x20000, 3, true, none⟩ ∧ firstOut s 0x20000 16 = none) ∧
    (let x := { full with dst := 0x40000 }; let s := streamed copyOp x
     findStream s 3 = some x ∧ txnServed s 3 x false = true ∧ (translate s 5 (x.addrAt false x.pos).1 true).2 = .fault .noWrite) ∧
    (let x := { copyStream with src := 0x40000 }; let s := streamed copyOp x
     findStream s 3 = some x ∧ txnServed s 3 x true = true ∧ (translate s 5 (x.addrAt true x.rpos).1 false).2 = .fault .noRead) ∧
    (let x := { copyStream with src := 0x10000 }; let s := streamed copyOp x
     findStream s 3 = some x ∧ txnServed s 3 x true = true ∧
       (translate s 5 (x.addrAt true x.rpos).1 false).2 = .ok ⟨0x10000, false, .dev 0x20000, 3, true, none⟩ ∧
       (∀ g ∈ granulesOf 0x20000 16, g ∉ s.mem.poison ∧ stackOut s (64 * g) = false)) ∧
    (let x := { copyStream with src := 0x10000 }; let s := mark [0x800] (streamed copyOp x)
     findStream s 3 = some x ∧ txnServed s 3 x true = true ∧ ctxOf s 5 = some ctx5 ∧ ctx5.lost = false ∧
       (∃ g ∈ granulesOf 0x20000 16, g ∈ s.mem.poison)) ∧
    (let s := streamed copyOp copyStream
     txnServed s 3 copyStream true = true ∧
       (translate s 5 (copyStream.addrAt true copyStream.rpos).1 false).2 = .ok ⟨0x20000, false, .host 0x40000, 3, false, none⟩) := by
  decide +kernel

theorem witness_StreamFaultsWalksAndEnds :
    (let x := { copyStream with pending := some (.notMapped, 0x80000), rpos := 0 }; let s := streamed copyOp x
     powered s = true ∧ findStream s 3 = some x ∧ waiting s 3 = false ∧ x.canWrite = false ∧ x.dw = some 15) ∧
    (let s := { queued [] with xlate := { Xlate.reset with walks := [(5, 3)] } }
     powered s = true ∧ (5, 3) ∈ s.xlate.walks ∧ ctxOf s 5 = some ctx5 ∧ ctx5.resident = true ∧ ctx5.lost = false ∧
       tableFind s 5 (3 * 0x10000) = some ⟨0x30000, false, .dev 0x1000000000, 7, true, none⟩) ∧
    (let x := { full with pos := 16, buf := [] }; let s := streamed copyOp x
     findStream s 3 = some x ∧ findOp s x.op = some copyOp ∧ x.finished = true ∧ waiting s 3 = false ∧ slotHeld s x copyOp = false ∧
       (∀ e ∈ s.streams, e.2.op = x.op → e.1 = 3)) ∧
    (let x := { copyStream with kind := .feed, rpos := 16, win := 7 }; let s := streamed winOp x
     findStream s 3 = some x ∧ x.finished = true ∧ slotHeld s x winOp = false) := by decide

/-! ### Memory -/

theorem witness_TheSweepWalksAndScrubs :
    ∀ larder, powered up = true ∧ up.mem.init = true ∧ sweepOn up larder = true ∧
      stackOut up (64 * sweepAt up larder) = false ∧ sweepAt up larder ∉ up.mem.poison := by decide

/-- The row at an address with two uncorrectable events; every spare row of its stack taken. -/
def failing (pa : Nat) (full : Bool) : State :=
  { up with
    nvm := { Nvm.initial with rowUe := [(rowOf up pa, 2)], retRows := if full then (List.range 256).map (fun i => (0, i)) else [] } }

theorem witness_RowsAndStacksLeaveService :
    (let s := failing 0x1000000000 false
     powered s = true ∧ rowDue s (rowOf s (0x4000000 * 1024)) = true ∧ inLarder (0x4000000 * 1024) = false ∧
       inCellar s (0x4000000 * 1024) = true ∧ stackOf s (0x4000000 * 1024) = 0 ∧ (s.nvm.retRows.filter (fun r => r.1 = 0)).length < 256) ∧
    (let s := failing (7 * 1024) false
     rowDue s (rowOf s (7 * 1024)) = true ∧ inLarder (7 * 1024) = true ∧ pageOwned s (7 >>> 6) = false) ∧
    (∀ k : Fin 4, up.mem.stkUp.getLsbD k.val = true ∧ k.val ∈ up.mem.stacksIn) ∧ isReady up = true ∧
    derateLevel 0 12000 ≠ 0 := by decide

set_option maxRecDepth 8192 in
/-- A stack whose spare rows are all taken. -/
theorem witness_RowsAndStacksLeaveService_full :
    let s := failing 0x1000000000 true
    rowDue s (rowOf s (0x4000000 * 1024)) = true ∧ ¬ (s.nvm.retRows.filter (fun r => r.1 = 0)).length < 256 ∧
      pageOwned s (0x4000000 >>> 6) = false := by
  decide

/-- A reservation of 1 GB/s of context 5 in C3, at and below its bucket's limit; an audited quantity that does not hold. -/
def reserved (t : Nat) : State := { queued [] with mem := { up.mem with resvs := [⟨5, 3, 1, 0, t⟩] } }
def unbalanced (f : Bool) : State := { up with corr := { up.corr with aud := [(0, ⟨1, 0, 0⟩)], freeze := f } }

theorem witness_TokensAndAuditCaptures :
    (∀ t ∈ [155, 156], (reserved t).mem.resvs.find? (fun r => r.ctx = 5 ∧ r.cls = 3) = some ⟨5, 3, 1, 0, t⟩) ∧
    (155 < 1 * 10000 / 64 ∧ ¬ 156 < 1 * 10000 / 64) ∧
    (let s := unbalanced false
     blockOpen s clrCWIF = true ∧ s.corr.freeze = false ∧ audHolds s 0 = false ∧ s.nvm.frec.length < 1024 ∧ s.evRing = none ∧
       s.events.length < 64 ∧ powered s = true ∧ isReady s = true) ∧
    (∀ q < 16, audHolds up q = true) ∧ (blockOpen (unbalanced true) clrCWIF = true ∧ (unbalanced true).corr.freeze = true) := by
  decide

/-! ### Radiator, Thermostat, sensors -/

/-- Heater 262,143 with a code above OUT, dithered by SG 63; AUX 3 likewise; generators near the top of their range. -/
def hot (x : Heater) : State :=
  { up with
    thermo := { up.thermo with
      heaters := [(7, ⟨Heater.reset, [(32767, x)]⟩)], aux := [(3, { Aux.reset with code := 0xFFFF, out := 0xFFFF, prof := 0, den := true })],
      sg := [(63, ⟨0x1000, 0x40000000, 0xFFF, 0, 0⟩)], ag := [(3, ⟨0x1000, 0x40000000, 0xFFF, 0, 0⟩)] } }
def heater0 : Heater := { Heater.reset with code := 0xFFFF, out := 0xFFF8, prof := 0, den := true, dsel := 63, park := 5 }

theorem witness_RadiatorTicksMoveEveryChannel : radiatorOn (hot heater0) = true ∧ heaterOf (hot heater0).thermo 262143 = heater0 ∧
    (Modulator.mk 0xFFFF (-131072) (-131072) 131072 0).lo ≤ -131072 ∧ (131072 : Int) - -131072 ≤ 262144 := by
  decide

theorem witness_RadiatorRegistersAreWritten :
    blockOpen up clrCWI = true ∧ heaterAt 0x10FFFFC = some 262143 ∧ heaterAt 0x1000000 = some 0 ∧
    (heaterAt 0x30C30 = none ∧ auxAt 0x30C30 = some 3) ∧ (heaterOf (hot { heater0 with sc := true }).thermo 262143).sc = true ∧
    blockOpen (hot { heater0 with sc := true }) clrCWI = true := by decide

theorem witness_HeaterShortsPark :
    let s := hot { heater0 with limiting := true }
    radiatorOn s = true ∧ (heaterOf s.thermo 262143).limiting = true ∧ (heaterOf s.thermo 262143).sc = false ∧
      s.nvm.frec.length < 1024 := by decide

/-- Heater 262,143 under a lock-in cycle. -/
def cycling : State :=
  { hot heater0 with
    thermo := { (hot heater0).thermo with cycleOn := true, cycleAt := some 0, tick := 1024, dithered := [262143], swept := 0x80 } }

theorem witness_LockinCyclesDitherAndCorrect :
    (let s := hot heater0
     radiatorOn s = true ∧ s.thermo.cycleOn = false ∧ s.thermo.tick % 1024 = 0 ∧ s.thermo.cycleAt ≠ some s.thermo.tick ∧
       looping s 7 = true ∧ bankGet s.thermo.visited 0 7 = 0 ∧ held { s with thermo := { s.thermo with tctrl := 0 } } 7 = true) ∧
    (radiatorOn cycling = true ∧ cycling.thermo.cycleOn = true ∧ cycling.thermo.cycleAt.getD 0 + 1024 ≤ cycling.thermo.tick ∧
      cycling.thermo.dithered.Nodup ∧ 262143 ∈ cycling.thermo.dithered ∧ held cycling (262143 / 32768) = false ∧
      (heaterOf cycling.thermo 262143).sc = false ∧ (heaterOf cycling.thermo 262143).dsel.toNat ∉ cycling.thermo.voided ∧
      looping cycling 7 = true ∧ cycling.thermo.swept.getLsbD 7 = true) ∧
    (let s := { up with thermo := { up.thermo with sweepDue := [(7, some 15)] } }
     radiatorOn s = true ∧ bankGet s.thermo.sweepDue none 7 = some 15) := by decide

/-- A sensor period with one good reading (64), one beyond the range (0), and power. -/
def period : Period := ⟨[(63, ⟨true, true, 10485760⟩), (0, ⟨true, true, 10485761⟩)], 400, [0, 0, 0, 0], 0⟩
def sensing : State :=
  { up with thermo := { up.thermo with sensors := [(0, { Sensor.reset with chkOk := some true })] } }

theorem witness_SensorsThrottleAndTrip :
    (powered sensing = true ∧ period.reads.find? (fun e => e.1 = 63) = some (63, ⟨true, true, 10485760⟩) ∧
      (sensorOf sensing 63).recovering = false ∧ (sensorOf sensing 63).est = false ∧ (sensorOf sensing 63).chkOk.getD true = true ∧
      period.reads.find? (fun e => e.1 = 0) = some (0, ⟨true, true, 10485761⟩) ∧ (sensorOf sensing 0).chkOk.getD false = true) ∧
    (let s := { up with thermo := { up.thermo with sensors := [(65, { Sensor.reset with type := 1, recovering := true, hold := true, lostFor := 100 })] } }
     powered s = true ∧ chanOn 65 (sensorOf s 65) = true ∧ (sensorOf s 65).recovering = true ∧ (sensorOf s 65).hold = true ∧ 100 ≤ (sensorOf s 65).lostFor) ∧
    (let s := { up with power := { up.power with thlvl := 1, calm := 100 } }
     powered s = true ∧ 100 ≤ s.power.calm ∧ s.power.thlvl ≠ 0) ∧
    (let s := { up with power := { up.power with tpolValid := true, tpol := 13440 } }
     powered s = true ∧ s.power.trip = false ∧ tripCause s = some 1 ∧ s.nvm.frec.length < 1024) ∧
    (tripCause { up with power := { up.power with stkTemp := [0, 0, 0, 12800] } } = some 2) ∧
    (tripCause { up with power := { up.power with noTempFor := 100 } } = some 3) ∧ up.thermo.nvmOk = true := by decide

/-! ### Links -/

/-- Door 15 in a given condition. -/
def doored (x : Door) (tp : Option Topo) : State := { up with link := { up.link with doors := [(15, x)], topo := tp } }
def door0 (st : DoorState) : Door := Door.reset false st

theorem witness_DoorsTrainFailAndRecover :
    (powered (doored (door0 .training) none) = true ∧ (doorOf (doored (door0 .training) none) 15).state = .training) ∧
    (let s := doored (door0 .training) (some ⟨0, 0, 1, 2, 1, 1, 1, 0, []⟩)
     isReady s = true ∧ (doorOf s 15).state = .training ∧ s.link.topo ≠ none) ∧
    (let x := { door0 .open_ with replay := [(⟨0, 0, false, false, 0, 0, [], 0, []⟩, 8)] }; (doorOf (doored x none) 15).state = .open_ ∧ ∃ g ∈ x.replay, 8 ≤ g.2) ∧
    (let x := { door0 .training with retry := true }; (doorOf (doored x none) 15).state = .training ∧ x.retry = true) ∧
    ((doorOf (doored (door0 .trained) none) 15).state = .trained) ∧
    (∀ n ∈ [1, 2], let x := { door0 .down with retrains := n }; (doorOf (doored x none) 15).state = .down ∧ (doored x none).nvm.frec.length < 1024) ∧
    ((100001 : Long).toNat > 100000 ∧ (100000 : Long).toNat = 100000 ∧ (99999 : Long).toNat < 100000) := by decide

/-- A read request to this node (tag 1, 64 bytes), and a flit that carries it with its CRC. -/
def readMsg : Msg := parseMsg (fields 16 [(0, 1, 1), (8, 2, 0x40)])
def flitOf (hd : List (Nat × Nat × Nat)) : List Byte :=
  let b := fields 256 hd
  b.take 12 ++ toBytes 4 (crc32 (b.take 12 ++ b.drop 16)).toNat ++ b.drop 16
def inFlit : List Byte := flitOf [(0, 1, 0), (1, 1, 16), (16, 1, 1), (24, 2, 0x40)]

/-- A Door with one message to send and a credit for it. -/
def sending : Door := { door0 .open_ with sendQ := [(2, [readMsg])], txCred := [(2, 1)], nextSeq := 4095 }

theorem witness_FlitsAreCheckedAndSent :
    (powered (doored (door0 .open_) none) = true ∧ (doorOf (doored (door0 .open_) none) 15).state = .open_) ∧
    (parseFlit (List.replicate 256 1) = none) ∧
    (∃ f, parseFlit inFlit = some f ∧ f.seq = (door0 .open_).expSeq ∧ f.seq ≠ 4095 ∧ f.vc ≠ 3 ∧
      splitMsgs 240 f.payload = ([parseMsg f.payload], []) ∧ (parseMsg f.payload).dst = up.nodeId.toNat) ∧
    (let s := doored sending none
     (doorOf s 15).state = .open_ ∧ sending.replay.length < 512 ∧ pickLane s 15 (sendable s 15 sending) = some 2 ∧
       sending.linkDue = false ∧ laneStart (sendable s 15 sending) 2 = some (0, 0)) ∧
    (let s := doored (door0 .open_) none; (door0 .open_).linkDue = false ∧ pickLane s 15 (sendable s 15 (door0 .open_)) = none) ∧
    (let x := { door0 .open_ with linkDue := true }; (doorOf (doored x none) 15).state = .open_ ∧ x.linkDue = true) := by
  refine ⟨by decide, by decide +kernel, ?_, by decide, by decide, by decide⟩
  exact ⟨(parseFlit inFlit).getD ⟨0, 0, false, false, 0, 0, [], 0, []⟩, by decide +kernel, by decide +kernel, by decide +kernel,
    by decide +kernel, by decide +kernel, by decide +kernel⟩

/-- Context 6 with two adjacent device pages, exported as 63 to every node; one message in the inbox from Door 15. -/
def ctx6 : Context :=
  { ctx5 with table := [⟨0x10000, false, .dev 0x20000, 3, true, none⟩, ⟨0x20000, false, .dev 0x50000, 3, true, none⟩] }
def inbox (es : Bank Export) (m : Msg) : State :=
  { doored (door0 .open_) none with
    ctxs := [(5, ctx5), (6, ctx6)],
    link := { (doored (door0 .open_) none).link with exports := es, inbox := [⟨15, 2, [0], m⟩], atomq := [m] } }
def export63 : Bank Export := [(63, ⟨6, 0x10000, 2, true, true, true, 0, 65535⟩)]
def request (mt off len : Nat) (data : List Byte) : Msg := ⟨mt, 1, 0, 0, 3, 0, 7, 63 * 2 ^ 42 + off, len, data⟩

theorem witness_RemoteRequestsAreServed :
    (∀ mt ∈ [1, 2, 3, 4], let m := request mt 0xFFF8 16 (List.replicate 16 1); let s := inbox export63 m
      powered s = true ∧ (mt < 4 → farNext s mt = some ⟨15, 2, [0], m⟩) ∧ (takeMsg s mt).map (fun e => (e.1, e.2.1)) = some (15, m) ∧
        s.link.atomq.length < 256 ∧ s.link.atomq = m :: []) ∧
    (let m := request 1 0xFFF8 16 []; let s := inbox export63 m
     exportAt s m 16 false false = .inr (6, 0x1FFF8) ∧ targetPieces s 6 false (vaChunks 0x1FFF8 16) = .inr [(0x2FFF8, 8), (0x50000, 8)] ∧
       (∀ g ∈ granulesOf 0x2FFF8 8 ++ granulesOf 0x50000 8, g ∉ s.mem.poison ∧ stackOut s (64 * g) = false) ∧
       exportAt (inbox [] m) m 16 false false = .inl 1) ∧
    (let m := request 2 0 16 (List.replicate 16 1); let s := inbox export63 m
     exportAt s m 16 true false = .inr (6, 0x10000) ∧ targetPieces s 6 true (vaChunks 0x10000 16) = .inr [(0x20000, 16)] ∧
       targetOut s [(0x20000, 16)] = none) ∧
    (let m := request 2 0xFFF8 16 (List.replicate 16 1); let s := inbox export63 m
     targetPieces s 6 true (vaChunks 0x1FFF8 16) = .inr [(0x2FFF8, 8), (0x50000, 8)] ∧ targetOut s [(0x2FFF8, 8), (0x50000, 8)] = none) ∧
    (let m := request 3 0xFFF8 8 (List.replicate 16 1); let s := inbox export63 m
     exportAt s m 8 true true = .inr (6, 0x1FFF8) ∧ targetPieces s 6 true [(0x1FFF8 / 8 * 8, 8)] = .inr [(0x2FFF8, 8)] ∧
       exportAt (inbox [] m) m 8 true true = .inl 1 ∧ farNext (inbox [] m) 3 = some ⟨15, 2, [0], m⟩) ∧
    256 ≤ (List.replicate 256 (request 4 0 0 [])).length := by
  refine ⟨?_, ?_, ?_, ?_, ?_, Nat.le_of_eq (List.length_replicate ..).symm⟩ <;> decide +kernel

/-- A request outstanding with tag 7, and the answer that has arrived for it. -/
def asked (r : RemReq) (m : Msg) : State :=
  { streamed copyOp full with
    link := { up.link with doors := [(15, door0 .open_)], reqs := [r], inbox := [⟨15, 2, [0], m⟩] } }
def answer7 (mt st : Nat) : Msg := ⟨mt, 1, 0, st, 3, 0, 7, 0, 0, List.replicate 8 0⟩
def remote (o : RemOwner) (b : Bool) : RemReq := ⟨7, request 3 0 8 (List.replicate 16 0), if b then none else some 15, o, 0x60000, 5, 32, b⟩

theorem witness_AnswersEndTheirRequest :
    (∀ mt ∈ [0x10, 0x11, 0x12, 0x13], let s := { asked (remote (.stream 3 true) false) (answer7 mt 0) with link := { (asked (remote (.stream 3 true) false) (answer7 mt 0)).link with reqs := [] } }
      powered s = true ∧ (takeMsg s mt).map (fun e => (e.1, e.2.1)) = some (15, answer7 mt 0) ∧ findReq s 7 = none) ∧
    (∀ mt ∈ [0x10, 0x11], ∀ st ∈ [0, 1, 6], let s := asked (remote (.stream 3 true) false) (answer7 mt st)
      s.link.held = [] ∧ (takeMsg s mt).map (fun e => (e.1, e.2.1)) = some (15, answer7 mt st) ∧ findReq s 7 = some (remote (.stream 3 true) false) ∧
        findStream s 3 = some full ∧ full.kind = .copy ∧ (answer7 mt st).status ≠ 5) ∧
    (let s := asked (remote (.signal (255, 65535) false) false) (answer7 0x12 0)
     (takeMsg s 0x12).map (fun e => (e.1, e.2.1)) = some (15, answer7 0x12 0) ∧
       findReq s 7 = some (remote (.signal (255, 65535) false) false) ∧
       signalAgain (remote (.signal (255, 65535) false) false) (fromBytes (answer7 0x12 0).data) = false ∧ (ctxOf s 5).isSome = true) ∧
    (let s := asked (remote (.stream 3 true) false) (answer7 0x13 0)
     (takeMsg s 0x13).map (fun e => (e.1, e.2.1)) = some (15, answer7 0x13 0)) ∧
    (let r := remote (.stream 3 true) true; let s := asked r (answer7 0x13 0)
     findReq s 7 = some r ∧ r.backoff = true ∧ (routeOf s r.msg.dst none).2 ≠ .down ∧ 32 ≤ r.retries) ∧
    (let r := remote (.stream 3 true) false; let s := asked r (answer7 0x13 0)
     findReq s 7 = some r ∧ timerRuns s r = true ∧ r.owner = .stream 3 true ∧ findStream s 3 = some full ∧
       findOp s full.op = some copyOp ∧ copyOp.done = none) := by decide

/-- A descriptor, a chunk and an acknowledgement of a Truss partial of group 255. -/
def partialMsg (mt : Nat) (data : List Byte) : Msg := ⟨mt, 1, 0, 0, 3, 0, 7, 255 * 2 ^ 32, 0, data⟩
def arriving (ps : List RedPartial) (gs : Bank Group) (m : Msg) : State :=
  { inbox [] m with link := { (inbox [] m).link with partials := ps, groups := gs } }
def waits : RedPartial := ⟨255, 0, 0, 0, 0, .i16, 0, 3, 0, 1, 8, [], [], none, none, false, false⟩
def redReq : RemReq := ⟨9, { partialMsg 0x21 [] with src := 0, dst := 3 }, some 15, .red (255, 65535), 0, 5, 0, false⟩
def winSplit : WinCmd := { win2 with splitN := 1 }
def splitOp : Op := { winOp with cmd := .window winSplit }
def rooted : Tree := { tree0 with waiting := false, root := some { part0 with level := 0 } }
def grouped : State :=
  { treed winSplit rooted with
    queues := [(255, { queue255 with head := 0, group := some 255 })],
    link := { up.link with groups := [(255, ⟨[(0, 7), (0, 6)], 0⟩)], trto := 100 } }

theorem witness_TrussPartialsTravel :
    (∀ gs ∈ [[], [(255, (⟨[], 0⟩ : Group))]], let m := partialMsg 0x20 (List.replicate 24 0); let s := arriving [] gs m
      powered s = true ∧ (takeMsg s 0x20).map (fun e => (e.1, e.2.1)) = some (15, m)) ∧
    (∀ n ∈ [7, 8], let m := partialMsg 0x21 (List.replicate n 0); let s := arriving [waits] [] m
      (takeMsg s 0x21).map (fun e => (e.1, e.2.1)) = some (15, m) ∧ s.link.partials = [waits] ∧ waits.whole = false ∧ waits.src = m.src ∧
        waits.win = m.status % 8 ∧ redAddr waits.group waits.otrow waits.otcol = m.addr % 2 ^ 40) ∧
    (let m := partialMsg 0x14 []; let s := { grouped with link := { grouped.link with reqs := [redReq], inbox := [⟨15, 2, [0], m⟩] } }
     (takeMsg s 0x14).map (fun e => (e.1, e.2.1)) = some (15, m) ∧
       s.link.reqs.find? (fun r => decide (r.msg.mtype = 0x21) && decide (r.msg.dst = m.src) && decide (r.msg.addr = m.addr) &&
        decide (r.msg.tag = m.tag)) = some redReq) ∧
    (powered grouped = true ∧ findOp grouped (255, 65535) = some splitOp ∧ splitOp.done = none ∧
      findTree grouped (255, 65535) = some rooted ∧ isS grouped = false ∧ grouped.link.trto ≠ 0 ∧
      isRoot winSplit (trussLift winSplit 20 { part0 with level := 0 }) = false ∧
      ownerOf grouped splitOp winSplit (trussLift winSplit 20 { part0 with level := 0 }) = some winSplit.splitRank ∧
      grouped.link.partials = []) := by decide

/-! ### The Letterbox -/

/-- A request of a code at a level with its arguments. -/
def request0 (code level : Nat) (args : List Nat) : Memory :=
  (⟨[]⟩ : Memory).write 0x10 (toBytes 2 code ++ [BitVec.ofNat 8 level, 0, BitVec.ofNat 8 args.length, 0, 0, 0] ++ args.flatMap (toBytes 8))
/-- The part with that request posted in mailbox 15. -/
def asks (s : State) (code : Nat) (args : List Nat) : State :=
  { s with mboxes := [(15, { Mailbox.reset with go := true, req := request0 code 1 args })] }
/-- The same in the mailbox of context 5. -/
def userAsks (s : State) (code level : Nat) (args : List Nat) : State :=
  { s with umboxes := [(5, { Mailbox.reset with go := true, req := request0 code level args })] }
/-- What Taken says, as a test. -/
def takes (s : State) (mb : MbRef) (code : Nat) : Bool :=
  lbOpen s && decide (reqCmd (mbGet s mb) = code) && ((mbGet s mb).busy || decide (mbNext s = some (mbIx mb))) &&
  decide (lbRefusal s (mbGet s mb) = none)

theorem taken_of_takes {s : State} {mb : MbRef} {code : Nat} (h : takes s mb code = true) : Taken s mb code := by
  simp only [takes, Bool.and_eq_true, Bool.or_eq_true, decide_eq_true_eq] at h
  exact ⟨h.1.1.1, h.1.1.2, h.1.2, h.2⟩

/-- Every Letterbox command can be taken in mailbox 15, above its level, at level 0, and the user commands in the other view. -/
def codes : List Nat :=
  [1, 2, 3, 4, 5, 6, 0x10, 0x11, 0x12, 0x13, 0x14, 0x20, 0x21, 0x22, 0x23, 0x24, 0x30, 0x31, 0x32, 0x33, 0x40, 0x41, 0x50, 0x51, 0x60,
   0x61, 0x62, 0x70, 0x71, 0x72, 0x73, 0x80, 0x90, 0x91, 0x92, 0x93, 0x94, 0x95, 0x96, 0x97, 0x98, 0x99, 0x9A, 0xB0, 0xB1, 0xB2, 0xB3,
   0xB4, 0xB5, 0xB6, 0xB7, 0xB8, 0xB9, 0xD0, 0xD1, 0xD2]

theorem witness_LetterboxRefusesAndWaits :
    (lbOpen near = false ∧ reqCmd (mbGet up (.priv 15)) ≠ 1 ∧ (mbGet up (.priv 15)).busy = false ∧ mbNext up ≠ some 15) ∧
    (∀ code ∈ codes, takes (asks up code []) (.priv 15) code = true) ∧
    (∀ code ∈ codes, ∀ l ∈ [0, 4], let s := userAsks (queued []) code l []
      lbOpen s = true ∧ reqCmd (mbGet s (.unpriv 5)) = code ∧ mbNext s = some (mbIx (.unpriv 5)) ∧ reqLevel (mbGet s (.unpriv 5)) = l) ∧
    (∀ l ∈ [1, 3], let s := userAsks (queued []) 1 l []
      mbNext s = some 21 ∧ 1 ≤ reqLevel (mbGet s (.unpriv 5)) ∧ reqLevel (mbGet s (.unpriv 5)) ≤ s.ifLevel.toNat ∧ s.ifLevel.toNat < 4) := by
  decide +kernel

/-- Context 5 evicted, or with one kind of work left out. -/
def out5 : Context := { ctx5 with resident := false }
def with5 (c : Context) : State := { up with ctxs := [(5, c)] }

theorem witness_ContextCommandsAnswer :
    (let s := asks up 1 [4095, 9, 32, 0, 2047]
     takes s (.priv 15) 1 = true ∧ argOf s (.priv 15) 0 = 4095 ∧ argOf s (.priv 15) 2 ≤ 32 ∧ argOf s (.priv 15) 4 ≤ 2047 ∧ ctxOf s 4095 = none) ∧
    (let s := asks (with5 ctx5) 1 [5, 9, 32, 0, 2047]; takes s (.priv 15) 1 = true ∧ ctxOf s 5 ≠ none) ∧
    (∀ a ∈ [[4096, 9, 32, 0, 2047], [4095, 9, 33, 0, 2047], [4095, 9, 32, 0, 2048]], let s := asks up 1 a
      takes s (.priv 15) 1 = true ∧ (4095 < argOf s (.priv 15) 0 ∨ 32 < argOf s (.priv 15) 2 ∨ 2047 < argOf s (.priv 15) 4)) ∧
    (∀ code ∈ [2, 3, 4, 5], let s := asks (with5 ctx5) code [5]
      takes s (.priv 15) code = true ∧ ctxOf s 5 = some ctx5 ∧ (∀ o ∈ s.ops, o.ctx ≠ 5) ∧ accessesOut s 5 = false ∧ ctx5.resident = true) ∧
    (let s := asks (with5 out5) 3 [5]
     takes s (.priv 15) 3 = true ∧ ctxOf s 5 = some out5 ∧ out5.resident = false ∧ out5.lost = false ∧ out5.saveKey = none ∧
       (residents s).length < 48 ∧ ((residents s).map (fun e => regionUnits e.2)).sum + out5.pregion ≤ 32 ∧
       unitsFree s 5 out5.pregion 31 = true) ∧
    (takes (asks (with5 out5) 5 [5]) (.priv 15) 5 = true) ∧
    (let c := { ctx5 with saveVa := 0x10000, pregion := 0 }; let s := asks (with5 c) 5 [5]
     takes s (.priv 15) 5 = true ∧ ctxOf s 5 = some c ∧ evictable s 5 c = true) ∧
    (evictable (asks (with5 ctx5) 5 [5]) 5 ctx5 = false) ∧
    (let c := { out5 with wantRes := true }; let s := with5 c
     ctxOf s 5 = some c ∧ powered s = true ∧ isReady s = true ∧ unitsFree s 5 c.pregion 31 = true) ∧
    (let s := userAsks (with5 ctx5) 6 1 [5]
     takes s (.unpriv 5) 6 = true ∧ mbOwns (.unpriv 5) (argOf s (.unpriv 5) 0) = true ∧ ctxOf s (argOf s (.unpriv 5) 0) = some ctx5) := by
  decide +kernel

/-- Queue 255 with nothing pending; a halted COPY of context 5. -/
def calmQueue : Queue := { queue255 with head := 0 }
def halted : Stream := { copyStream with state := .halt, fcode := .notMapped, faultVa := 0x20000 }
def stuck (c : Context) (x : Stream) : State := { streamed copyOp x with ctxs := [(5, c)] }

theorem witness_QueueAndStreamCommandsAnswer :
    (let s := asks (with5 ctx5) 0x10 [5, 255, 0x11000, 0x12000, 4096 + 65536 * 1 + 2 ^ 32 * 2047]
     takes s (.priv 15) 0x10 = true ∧ ctxOf s (argOf s (.priv 15) 0) = some ctx5 ∧ argOf s (.priv 15) 1 = 255 ∧ queueOf s 255 = none ∧
       argOf s (.priv 15) 2 % 4096 = 0 ∧ argOf s (.priv 15) 3 % 4096 = 0 ∧ argOf s (.priv 15) 4 % 0x2000 = 4096 ∧
       argOf s (.priv 15) 4 / 2 ^ 32 % 0x800 ≠ 0 ∧ argOf s (.priv 15) 4 / 2 ^ 16 % 4 = 1) ∧
    (queueOf (asks (queued []) 0x10 [5, 255]) 255 ≠ none) ∧
    (let s := asks (queued []) 0x11 [255, 0]
     takes s (.priv 15) 0x11 = true ∧ queueOf s 255 = some queue255 ∧ (argOf s (.priv 15) 1).testBit 0 = false ∧ pendingN queue255 ≠ 0) ∧
    (∀ f ∈ [0, 1], let s := asks { queued [] with queues := [(255, calmQueue)] } 0x11 [255, f]
      takes s (.priv 15) 0x11 = true ∧ queueOf s 255 = some calmQueue ∧ pendingN calmQueue = 0 ∧ inFlight s 255 = 0 ∧ calmQueue.dying = false) ∧
    (∀ code ∈ [0x12, 0x13, 0x14], let s := userAsks (queued []) code 1 [255]
      takes s (.unpriv 5) code = true ∧ queueOf s 255 = some queue255 ∧ mbOwns (.unpriv 5) queue255.ctx = true ∧ queue255.dying = false) ∧
    (∀ c ∈ [ctx5, out5], ∀ code ∈ [0x50, 0x51], let s := asks (stuck c halted) code [5, 255 + 65536 * 65535]
      takes s (.priv 15) code = true ∧ ctxOf s (argOf s (.priv 15) 0) = some c ∧
        (argOf s (.priv 15) 1 % 256, argOf s (.priv 15) 1 / 65536 % 65536) = (255, 65535) ∧ findOp s (255, 65535) = some copyOp ∧
        copyOp.ctx = 5 ∧ haltedOf s (255, 65535) = [(3, halted)] ∧ copyOp.done = none ∧ findStream s 3 = some halted) ∧
    (stillFaults (stuck ctx5 halted) halted = none) ∧
    (stillFaults (stuck ctx5 { halted with faultVa := 0x80000 }) { halted with faultVa := 0x80000 } = some .notMapped) := by
  decide +kernel

/-- A topology table of two nodes. -/
def topo2 : Topo := ⟨0, 2, 1, 1, 1, 1, 2, 0, []⟩

theorem witness_MappingCommandsAnswer :
    (∀ a ∈ [[5, 0x80000, 1, 0], [5, 0x80000, 1, 4], [5, 0x80000, 1, 8, 0x7000], [5, 0x2000000, 1, 1]], let s := asks (with5 ctx5) 0x20 a
      takes s (.priv 15) 0x20 = true ∧ ctxOf s (argOf s (.priv 15) 0) = some ctx5 ∧
        ctx5.table.any (fun m => m.meets (argOf s (.priv 15) 1) 0x10000) = false ∧ tableSize s + 1 ≤ 786432) ∧
    (let s := with5 ctx5
     [0x27FFFF].all (runFree s false 1) = true ∧ [0xF7F].all (runFree s true 1) = true ∧ allDistinct [0x27FFFF] = true) ∧
    (let s := asks (with5 ctx5) 0x20 [5, 0x10000, 1, 0]
     takes s (.priv 15) 0x20 = true ∧ ctx5.table.any (fun m => m.meets 0x10000 0x10000) = true) ∧
    (let s := asks (with5 ctx5) 0x21 [5, 0x10000, 1]
     takes s (.priv 15) 0x21 = true ∧ unitsRefusal ctx5 0x10000 1 = none ∧ accessesOut s 5 = false ∧ ctx5.arena = none ∧
       exported s 5 0x10000 0x10000 = false ∧ ctx5.table.any (fun x => x.meets 0x10000 0x10000 && x.shid.isSome) = false) ∧
    (let s := asks (with5 ctx5) 0x22 [5, 0x10000, 1, 1]
     takes s (.priv 15) 0x22 = true ∧ (argOf s (.priv 15) 3).testBit 2 = false ∧ accessesOut s 5 = false) ∧
    (takes (asks (with5 ctx5) 0x23 [5, 0, 0]) (.priv 15) 0x23 = true) ∧
    (let c := { ctx5 with table := [⟨0x2000000, true, .dev 0x1002000000, 3, true, none⟩] }; let s := asks (with5 c) 0x23 [5, 0x2100000, 0x100000]
     takes s (.priv 15) 0x23 = true ∧ arenaSize 0x100000 = true ∧ 0x2100000 % 0x100000 = 0 ∧
       (c.table.filter (fun x => x.meets 0x2100000 0x100000)).map (fun x => min (x.va + x.size) (0x2100000 + 0x100000) - max x.va 0x2100000)
         = [0x100000] ∧ (∀ x ∈ c.table, x.r = true ∧ x.w = true ∧ x.sho = false) ∧ (∀ o ∈ s.ops, o.ctx ≠ 5)) ∧
    (takes (asks (with5 ctx5) 0x24 [5]) (.priv 15) 0x24 = true) ∧
    (let s := asks { with5 ctx5 with link := { up.link with topo := some topo2 } } 0x97 [5, 0x80000, 1, 1, 63, 0x3FFFFFF, 3]
     takes s (.priv 15) 0x97 = true ∧ isS s = false ∧ argOf s (.priv 15) 3 < topo2.nodes ∧ argOf s (.priv 15) 4 ≤ 63 ∧
       argOf s (.priv 15) 5 + argOf s (.priv 15) 2 ≤ 2 ^ 26 ∧ mapRefusal s ctx5 0x80000 0x10000 1 = none) := by decide +kernel

/-- A read that finds no error, as a test. -/
def cleanAt (s : State) (pa n : Nat) : Bool := (granulesOf pa n).all (fun g => !(s.mem.poison.contains g) && !(stackOut s (64 * g)))

theorem cleanRead_of_cleanAt {s : State} {pa n : Nat} (h : cleanAt s pa n = true) : CleanRead s calm pa n := by
  refine ⟨rfl, rfl, fun g hg => ?_⟩
  have := List.all_eq_true.mp h g hg
  simpa using this

/-- Share 4095 on Cellar page 0x27FFFF, mapped by some contexts, its counter holding a value. -/
def shared (maps : List Nat) (ctr : Nat) : State :=
  { with5 ctx5 with
    shares := [(4095, ⟨[0x27FFFF], maps⟩)], mem := { up.mem with data := (⟨[]⟩ : Memory).write 0x27FFFF0000 (toBytes 8 ctr), owners := [(0x27FFFF, .share 4095)] } }

theorem witness_ShareAndKernelCommandsAnswer :
    (∀ a ∈ [([5, 1, 0], 0x27FFFF), ([5, 1, 1], 0xF7F)], let s := asks (with5 ctx5) 0x30 a.1
      takes s (.priv 15) 0x30 = true ∧ ctxOf s (argOf s (.priv 15) 0) = some ctx5 ∧ argOf s (.priv 15) 1 = 1 ∧ argOf s (.priv 15) 2 ≤ 1 ∧
        bankFind s.shares 4095 = none ∧ allDistinct [a.2] = true ∧
        [a.2].all (runFree s (decide (argOf s (.priv 15) 2 = 1)) 1) = true ∧ s.mem.data.wf = true) ∧
    (let s := asks (shared [] 0) 0x31 [5, 4095, 0x80000, 3]
     takes s (.priv 15) 0x31 = true ∧ bankFind s.shares 4095 = some ⟨[0x27FFFF], []⟩ ∧ mapRefusal s ctx5 0x80000 0x10000 1 = none) ∧
    (∀ ms ∈ [[5], [5, 4095]], let s := asks (shared ms 0) 0x32 [5, 4095]
     takes s (.priv 15) 0x32 = true ∧ bankFind s.shares 4095 = some ⟨[0x27FFFF], ms⟩ ∧ 5 ∈ ms ∧ accessesOut s 5 = false) ∧
    (let s := asks (queued []) 0x40 [5, 0x10000, 128]
     takes s (.priv 15) 0x40 = true ∧ tablePieces s 5 0x10000 128 false = some [(.dev 0x20000, 128)] ∧ cleanAt s 0x20000 128 = true ∧
       ctx5.kernels.length < 256 ∧ bankFind ctx5.kernels 0xFFFFFFFF = none) ∧
    (let s := asks (queued []) 0x41 [5, 1]
     takes s (.priv 15) 0x41 = true ∧ (bankFind ctx5.kernels (argOf s (.priv 15) 1)).isSome = true) ∧
    (∀ e ∈ [([5], 0), ([], 2 ^ 64 - 1), ([], 0)], let s := asks (shared e.1 e.2) 0x33 [4095]
     takes s (.priv 15) 0x33 = true ∧ bankFind s.shares 4095 = some ⟨[0x27FFFF], e.1⟩ ∧ cleanAt s 0x27FFFF0000 8 = true ∧
       s.mem.data.nat 0x27FFFF0000 8 = e.2) := by decide +kernel

/-- Context 5 holds a reservation of class 3 at rate 10, context 6 one of class 0 at rate 100. -/
def holders : State :=
  { with5 ctx5 with mem := { up.mem with deliv := 1000, c0cap := 400, resvs := [⟨5, 3, 10, 1, 1000⟩, ⟨6, 0, 100, 2, 0⟩], resvSeq := 3 } }
def pinned (i : Option Nat) : State := { with5 ctx5 with windows := [(7, { Window.reset with state := .idle, paneB := { Pane.reset with pin := i } })] }

theorem witness_ResourceCommandsAnswer :
    (∀ a ∈ [[5, 3, 0], [5, 3, 5], [5, 3, 900], [5, 3, 901], [5, 0, 300], [5, 0, 301]], let s := asks holders 0x60 a
      takes s (.priv 15) 0x60 = true ∧ ctxOf s (argOf s (.priv 15) 0) = some ctx5 ∧ argOf s (.priv 15) 1 ≤ 3) ∧
    (resvSum holders none - 10 + 900 ≤ holders.mem.deliv ∧ holders.mem.deliv < resvSum holders none - 10 + 901 ∧
      resvSum holders (some 0) + 300 ≤ holders.mem.c0cap ∧ holders.mem.c0cap < resvSum holders (some 0) + 301) ∧
    (∀ i ∈ [none, some 5, some 4095], ∀ code ∈ [0x61, 0x62], let s := asks (pinned i) code [5, 15]
      takes s (.priv 15) code = true ∧ argOf s (.priv 15) 1 % 8 = 7 ∧ (argOf s (.priv 15) 1).testBit 3 = true ∧
        (paneOf (win s 7) true).pin = i) ∧
    (∀ w ∈ [7, 8], takes (asks up 0x70 [w]) (.priv 15) 0x70 = true) ∧
    (inService (asks up 0x70 [7]) 7 = true ∧ inService { asks up 0x70 [7] with windows := [(7, { Window.reset with state := .quar })] } 7 = false) ∧
    (let s := { asks up 0x71 [7] with windows := [(7, { Window.reset with state := .quar })] }
     takes s (.priv 15) 0x71 = true ∧ (win s 7).state = .quar ∧ laserLit s 7 = true) ∧
    (takes (asks up 0x72 []) (.priv 15) 0x72 = true) ∧
    (takes (asks up 0x73 [3, 0xFFFF, 0xFFFF]) (.priv 15) 0x73 = true) ∧
    (∀ j ∈ [0, 10], let s := { asks up 0x80 [0x1000, 64 * 2 ^ j] with events := [⟨0x80, 3, 4095, 5, 6, 7⟩] }
      takes s (.priv 15) 0x80 = true ∧ argOf s (.priv 15) 1 = 64 * 2 ^ j) ∧
    (∀ w ∈ [299, 300, 480, 481], takes (asks up 0xD0 [w]) (.priv 15) 0xD0 = true) ∧
    (takes (asks up 0xD1 []) (.priv 15) 0xD1 = true) ∧
    (∀ w ∈ [19, 20, 60, 61], takes (asks up 0xD2 [w]) (.priv 15) 0xD2 = true) := by decide +kernel

theorem witness_qualify_lengths : (List.replicate 4096 ([] : List Int)).length = 4096 := List.length_replicate ..

/-- A KX1-S part; bytes at 0x50000; Door 15 in a condition, with a table of two nodes. -/
def partS (s : State) : State := { s with fuses := { s.fuses with ordcode := 2 } }
def holding (s : State) (bs : List Byte) : State := { s with mem := { up.mem with data := (⟨[]⟩ : Memory).write 0x50000 bs } }
def linked (x : Door) : State := { doored x (some topo2) with ctxs := [(5, ctx5)], queues := [(255, queue255)] }
/-- A group table of two ranks on nodes m and n. -/
def ranks (m n : Nat) : List Byte := fields 8 [(0, 2, m), (2, 1, 7), (4, 2, n), (6, 1, 0)]
/-- A topology table of a lone node, with and without its checksum. -/
def lone : List Byte := fields 704 [(0, 4, 0x4B585431), (8, 2, 1), (10, 2, 1), (12, 2, 1), (14, 1, 1)]
def loneOk : List Byte := lone.take 0x3C ++ toBytes 4 (crc32 lone).toNat ++ lone.drop 0x40
/-- One request of context 5 is open on Door 15. -/
def inFlightOn15 : State := { linked (door0 .open_) with link := { (linked (door0 .open_)).link with reqs := [remote (.red (255, 65535)) false] } }
def bind255 (gs : Bank Group) (g : Option Nat) : State :=
  { linked (door0 .open_) with queues := [(255, { queue255 with group := g })], link := { up.link with groups := gs } }

theorem witness_LinkAndTrussCommandsAnswer :
    (∀ code ∈ [0x90, 0x91, 0x92, 0x93, 0x94, 0x95, 0x96, 0x97], let s := asks (partS up) code []
      isS s = true ∧ takes s (.priv 15) code = true) ∧
    (let s := asks (holding (partS up) (ranks 0 1)) 0x98 [255, 0x50000, 2]
     isS s = true ∧ takes s (.priv 15) 0x98 = true ∧ argOf s (.priv 15) 2 = 2 ∧ paSpan s 0x50000 8 = true ∧
       cleanAt s 0x50000 8 = true ∧ ∃ e ∈ parseGroup (s.mem.data.read 0x50000 8) 2, e.1 ≠ s.nodeId.toNat) ∧
    (let s := asks (linked (door0 .open_)) 0x90 [0x50000, 0]
     isS s = false ∧ takes s (.priv 15) 0x90 = true ∧ doorOpen s 15 = true) ∧
    (∀ bs ∈ [lone, loneOk], let s := asks (holding (linked (door0 .trained)) bs) 0x90 [0x50000, 0]
     isS s = false ∧ takes s (.priv 15) 0x90 = true ∧ (∀ d < 16, doorOpen s d = false) ∧ argOf s (.priv 15) 0 = 0x50000 ∧
       paSpan s 0x50000 704 = true ∧ cleanAt s 0x50000 704 = true ∧ (argOf s (.priv 15) 1).testBit 0 = false) ∧
    (let s := asks (linked (door0 .open_)) 0x91 []; isS s = false ∧ takes s (.priv 15) 0x91 = true) ∧
    (∀ st ∈ [DoorState.down, .disabled], ∀ m ∈ [0x8000, 0x7FFF], let s := asks (linked (door0 st)) 0x92 [m]
      isS s = false ∧ takes s (.priv 15) 0x92 = true ∧ (doorOf s 15).state = st) ∧
    (∀ b ∈ [linked (door0 .open_), inFlightOn15], let s := asks b 0x93 [0x8000]
      isS s = false ∧ takes s (.priv 15) 0x93 = true ∧ (maskDoors (argOf s (.priv 15) 0)).filter (doorOpen s) = [15]) ∧
    ((linked (door0 .open_)).link.reqs = [] ∧ ∃ r ∈ inFlightOn15.link.reqs, r.door = some 15) ∧
    ((doorOf (linked (door0 .open_)) 15).partTx = [] ∧
      ∃ e ∈ (doorOf (linked { door0 .open_ with partTx := [(2, [0])] }) 15).partTx, e.2 ≠ []) := by decide +kernel

theorem witness_LinkAndTrussCommandsAnswer_2 :
    (∀ d ∈ [15, 16], let s := asks (linked (door0 .open_)) 0x94 [d]; isS s = false ∧ takes s (.priv 15) 0x94 = true) ∧
    (∀ e ∈ [(0x10000, 3), (0x30000, 7)], let s := asks (linked (door0 .open_)) 0x95 [63, 5, e.1, 1, e.2, 0xFFFF0000]
      isS s = false ∧ takes s (.priv 15) 0x95 = true ∧ ctxOf s (argOf s (.priv 15) 1) = some ctx5 ∧ argOf s (.priv 15) 0 = 63 ∧
        argOf s (.priv 15) 3 = 1 ∧ argOf s (.priv 15) 2 = e.1 ∧ exportPage ctx5 ((argOf s (.priv 15) 4).testBit 2) e.1 = none) ∧
    (∀ q ∈ [[], [request 3 0 8 []]], let s := asks { linked (door0 .open_) with link := { up.link with exports := export63, atomq := q } } 0x96 [63]
      isS s = false ∧ takes s (.priv 15) 0x96 = true ∧ (bankFind s.link.exports (argOf s (.priv 15) 0)).isSome = true ∧
        ∀ m ∈ q, m.addr / 2 ^ 42 % 64 = argOf s (.priv 15) 0) ∧
    (∀ b ∈ [up, partS up], let s := asks (holding b (ranks 0 0)) 0x98 [255, 0x50000, 2]
     takes s (.priv 15) 0x98 = true ∧ argOf s (.priv 15) 0 = 255 ∧ argOf s (.priv 15) 2 = 2 ∧ paSpan s 0x50000 8 = true ∧
       cleanAt s 0x50000 8 = true ∧ (∀ e ∈ parseGroup (s.mem.data.read 0x50000 8) 2, e.1 = s.nodeId.toNat) ∧ groupBusy s 255 = false) ∧
    (∀ a ∈ [0x100, 0xFF], ∀ gs ∈ [[], [(255, (⟨[(0, 7)], 0⟩ : Group))]], let s := asks (bind255 gs none) 0x99 [255, a]
      takes s (.priv 15) 0x99 = true ∧ (queueOf s 255).isSome = true ∧ ((argOf s (.priv 15) 1).testBit 8 = true ↔ a = 0x100) ∧
        (bankFind s.link.groups 255).isNone = gs.isEmpty) ∧
    (∀ g ∈ [none, some 255], let s := asks (bind255 [(255, ⟨[(0, 7)], 0⟩)] g) 0x9A [255]
      takes s (.priv 15) 0x9A = true ∧ (bankFind s.link.groups (argOf s (.priv 15) 0)).isSome = true ∧ groupBusy s 255 = g.isSome) := by
  decide +kernel

theorem witness_ServiceCommandsAnswer :
    (∀ code ∈ [0xB0, 0xB1, 0xB2, 0xB4, 0xB5, 0xB6, 0xB7], takes (asks up code [0xFFFFFFFF]) (.priv 15) code = true) ∧
    (∀ e ∈ [(0xB3, 8388608), (0xB8, 144), (0xB9, 4096)], let s := asks (holding up [1, 2, 3]) e.1 [0x50000, e.2]
      takes s (.priv 15) e.1 = true ∧ argOf s (.priv 15) 0 = 0x50000 ∧ argOf s (.priv 15) 1 = e.2 ∧ paSpan s 0x50000 e.2 = true ∧
        s.mem.poison = [] ∧ 0x50000 + e.2 ≤ cellarBase) ∧
    (cleanAt (asks (holding up [1, 2, 3]) 0xB8 [0x50000, 144]) 0x50000 144 = true) ∧
    (∀ t ∈ [TState.normal, .test, .recovery], takes (asks { up with thresh := { up.thresh with tstate := t } } 0xB0 []) (.priv 15) 0xB0 = true) := by
  decide +kernel

/-! ### Worked examples of the spec -/

/-- Worked example 2.1: Q4 codes of 2.5, 3.5, −2.5, 6.5, 7.25, 7.5, −7.5 and 9.0; Q6 of 30.5 and 31.5; Q8 of 126.5 and −127.5. -/
theorem test_q_conversion :
    ([0x40200000, 0x40600000, 0xC0200000, 0x40D00000, 0x40E80000, 0x40F00000, 0xC0F00000, 0x41100000].map (toQ 0)) =
      [(2, false), (4, false), (-2, false), (6, false), (7, false), (7, true), (-7, true), (7, true)] ∧
    ([0x41F40000, 0x41FC0000].map (toQ 1)) = [(30, false), (31, true)] ∧
    ([0x42FD0000, 0xC2FF0000].map (toQ 2)) = [(126, false), (-127, true)] ∧ storeQ 0 (-7) = 9 ∧ storeQ 2 (-127) = 0x81 := by
  decide +kernel

/-- Worked example 2.2. -/
theorem test_bf16_conversion :
    ([0x3F808000, 0x3F818000, 0xBF808000, 0x7F7F7FFF, 0x7F7F8000, 0xFF7F8000, 0x7F7FC000].map toBf16) =
      [(0x3F80, false), (0x3F82, false), (0xBF80, false), (0x7F7F, false), (0x7F7F, true), (0xFF7F, true), (0x7F7F, true)] := by
  decide +kernel

/-- Worked example 2.3: the rows 5.0, −2.5, 0.75, 3.5, −0.5 and 3.0, −1.25, 0.375. -/
theorem test_row_scaler :
    rowScale 7 (-127) [⟨5, 0⟩, ⟨-5, -1⟩, ⟨3, -2⟩, ⟨7, -1⟩, ⟨-1, -1⟩] = (0, [5, -2, 1, 4, 0]) ∧
    rowScale 7 (-127) [⟨3, 0⟩, ⟨-5, -2⟩, ⟨3, -3⟩] = (-1, [6, -2, 1]) := by decide +kernel

/-- Worked example 4.2: 40,001 + 30,000 in A24 with the random bits 14,864 is written as 70,002; with 32,768 as 70,000. -/
theorem test_a24_rounding :
    roundA24 ⟨70001, 0⟩ 14864 = ⟨writeA24 35001 1, some 1, false⟩ ∧ roundA24 ⟨70001, 0⟩ 32768 = ⟨writeA24 35000 1, some 1, false⟩ ∧
    (readA24 (writeA24 35001 1)).1 = ⟨35001 , 1⟩ := by decide +kernel

/-- Worked example 3.1: D_w 1.25, qm 31, a 31, FLOORA 0.625 give B = 5.5. -/
theorem test_bound : boundB 0x3FA00000 31 31 0x3F200000 = 0x40B00000 := by decide +kernel

/-- Worked example 5.1: OUT from 1,000 towards 1,100 on STEP 16, SLINT 3; the last step stops at CODE. -/
theorem test_slew :
    slewStep ⟨16, 3⟩ 1004 1000 1100 = 1016 ∧ slewStep ⟨16, 3⟩ 1005 1016 1100 = 1016 ∧ slewStep ⟨16, 3⟩ 1028 1096 1100 = 1100 := by
  decide

/-- Worked example 5.2: FTW 13 × 2^22, AMP 24, at the ticks 20, 21 and 60. -/
theorem test_dither :
    ([260, 273, 780].map sineT) = [32757, 32589, -32678] ∧
    ([260, 273, 780].map (fun i => genOut ⟨13 * 2 ^ 22, 0, 24, BitVec.ofNat 32 (i * 2 ^ 22), 0⟩)) = [23, 23, -24] := by decide +kernel

/-- Corner 5.2: a heater's SC is cleared as its channel trips again: SC stays. -/
theorem test_heater_short_wins :
    (match exec (.heaterScClear 262143 true) (hot { heater0 with sc := true }) with
     | .next t => (heaterOf t.thermo 262143).sc
     | _ => false) = true := by decide +kernel

/-- Worked example 7.2: S2 at one half, then S3 out, then S2 back: DELIV, C0CAP, what stays reserved, whether the C0 guarantee holds. -/
def example7 (up4 : BitVec 4) (d : BitVec 2) (m : Mem) (g : Bool) : State :=
  recomputeDeliv { up with mem := { m with stkUp := up4, derate := [0, 0, d, 0] }, corr := { up.corr with gActive := g } }
def example7Sum (s : State) : List Nat := [s.mem.deliv, s.mem.c0cap, resvSum s none, if s.corr.gActive then 1 else 0]
def example7Start : Mem :=
  { up.mem with resvs := [⟨1, 0, 800, 0, 0⟩, ⟨2, 1, 600, 1, 0⟩, ⟨3, 2, 500, 2, 0⟩, ⟨4, 3, 300, 3, 0⟩, ⟨5, 3, 200, 4, 0⟩], resvSeq := 5 }
theorem test_delivered_bandwidth :
    (let a := example7 15 2 example7Start true
     let b := example7 7 2 a.mem a.corr.gActive
     let c := example7 7 0 b.mem b.corr.gActive
     [a, b, c].map example7Sum) = [[2275, 910, 2200, 1], [1625, 650, 1400, 0], [1950, 780, 1400, 0]] := by decide +kernel

/-- Worked example 9.1: entries 2 and 5, and the CAS before and after EN of entry 2 is cleared. -/
def example9 (en2 : Bool) : State :=
  { up with
    host := { up.host with ranges := [(2, ⟨en2, true, false, 0, 0x400, 0x100000⟩), (5, ⟨true, true, true, 0x100, 0x10, 0x10⟩)] },
    mem := { up.mem with data := (⟨[]⟩ : Memory).write 0x100008 [3] } }
theorem test_cas_lowest_match_decides :
    (match exec (.atomicCas 0x1000008 8 3 4 calm) (example9 true) with
     | .next t => t.mem.data.nat 0x100008 8
     | _ => 0) = 3 := by decide +kernel
theorem test_cas_after_entry_2_is_off :
    (match exec (.atomicCas 0x1000008 8 3 4 calm) (example9 false) with
     | .next t => (t.mem.data.nat 0x100008 8, t.host.atomCnt.toNat)
     | _ => (0, 0)) = (4, 1) := by decide +kernel

/-- Worked example 11.1: the seven hops from node 46 to node 9 of an 8 × 8 torus, Doors 0 to 3 for +X, −X, +Y, −Y. -/
def torus8 : Topo :=
  ⟨46, 1, 2, 8, 8, 1, 1, 0, fields 704 [(0x40, 4, 16), (0x44, 4, 17), (0x48, 4, 18), (0x4C, 4, 19)]⟩
/-- Door and lane of a hop. -/
def hop (me : Nat) (arrival : Option (Nat × Nat)) : List Nat :=
  match tableRoute torus8 me 9 arrival with
  | some (d, _, _, _, l) => [d, l]
  | none => []
theorem test_route :
    [hop 46 none, hop 47 (some (1, 0)), hop 40 (some (1, 1)), hop 41 (some (1, 1)), hop 49 (some (3, 0)), hop 57 (some (3, 0)),
      hop 1 (some (3, 1))] = [[0, 0], [0, 1], [0, 1], [2, 0], [2, 0], [2, 1], [2, 1]] := by decide +kernel

/-- Worked example 14.1: SYMCNT of W2, its capture latch, and a write that meets an increment. -/
def example14 : State := { up with windows := [(2, { Window.reset with symcnt := 0x00000001FFFFFFFE })] }
theorem test_capture_holds_the_high_half :
    (match exec (.captureReadLo false 0x20220 15 none) example14 with
     | .next t => (t.out, readReg { t with windows := bankMod t.windows Window.reset 2 (fun x => { x with symcnt := 0x0000000200000001 }) } 0x20224)
     | _ => ([], 0)) = ([.completion true false [0xFE, 0xFF, 0xFF, 0xFF]], 1) := by decide +kernel
theorem test_counter_write_keeps_the_increment :
    (match exec (.counter64Write 0x20220 0xFFFFFFFF true) { up with windows := [(2, { Window.reset with symcnt := 0x0000000200000001 })] } with
     | .next t => (win t 2).symcnt
     | _ => 0) = 0x0000000300000000 := by decide +kernel

/-- Worked example 4.3: E 17.0, G 0.125, λ 1, S 2.0, H 0.5, largest |t| 28.0 give 4.75 + 56 × 2^−21. -/
theorem test_errb : errbOf { win2 with act := 1 } 0x41880000 0x3E000000 0x40000000 0x3F000000 0x41E00000 = (0x40980038, false) := by decide +kernel

/-- Worked example 6.1 at g = 2^−20: x₀ and x₅ at k = 3, x₅ at k = 4 and k = 5. -/
theorem test_refine_decisions :
    [decideElem (-20) 0x3e880001ad7f29ac 0x3fe8ca729999999a, decideElem (-20) 0x3e880001ad7f29ac 0xbfa3a26e66666666, decideElem (-20) 0x3e3000431bde82d8 0xbfa3a26ff7ced917, decideElem (-20) 0x3df0045a01d41596 0xbfa3a26ff8ca8199].map (·.1) =
      [some 812345, none, none, some (-40211)] := by decide +kernel

/-! ### The step, and what every step keeps -/

/-- PWRGOOD's fall waits in front of its rise. -/
def waiting : State := { up with pending := [.pwrgoodDeassert, .pwrgoodAssert] }

theorem reset_tidy : Tidy State.reset where
  mem := rfl
  srams := by intro e h; cases h
  poison := List.nodup_nil
  scrubC := Nat.zero_le _
  scrubL := Nat.zero_le _
  events := Nat.zero_le _
  frec := Nat.zero_le _
  aud := by intro e h; cases h
  svn := by decide
  testCnt := by decide
theorem witness_StepsKeepTidy : Tidy State.reset ∧ step State.reset = .next State.reset := ⟨reset_tidy, rfl⟩
theorem witness_StepsAndFuses : waiting.pending = .pwrgoodDeassert :: [.pwrgoodAssert] ∧ State.reset.pending = [] ∧ ∃ t, step waiting = .next t ∧ t.pwrGood = false :=
  ⟨rfl, rfl, _, rfl, rfl⟩

/-- No word spells a command of this table. -/
theorem test_no_word_is_a_command : decodeTableWord 32 0 = none ∧ State.reset.withFetchWord 32 0 = State.reset := ⟨rfl, rfl⟩

/-! ### WellFormed refuses what no pin, bus or converter carries -/

theorem test_wf_codes : codesOk [128] = false ∧ codesOk [-129] = false ∧ codesOk (List.replicate 129 0) = false ∧ codesOk [127, -128] = true := by
  decide +kernel
theorem test_wf_offsets : offsetOk 0x4000000 = false ∧ offsetOk 2 = false ∧ offsetOk 0x3FFFFFC = true := by decide
theorem test_wf_windows :
    [Instr.passStart 7 255 65535 32768 false [] calm, .passStart 7 255 65535 32767 false [[128]] calm, .witnessResult 7 [128], .clipRepeatRound 7 [[-129]],
     .windowStartupCheck 7 [] [[128]], .windowStartupCheck 7 [[128]] [], .qualification 7 [[128]] [], .qualification 7 [] [[128]],
     .windowQualify (.priv 15) [[128]] [], .windowQualify (.priv 15) [] [[128]]].all (fun i => !(WellFormed i)) = true := by decide
theorem test_wf_accesses :
    [Instr.registerWrite 2 0 15 ⟨0, false, none⟩ none, .captureReadLo false 2 15 none, .counter64Write 2 0 false, .mailboxWrite (.priv 15) 0x1000 0 15 false none,
     .mailboxWrite (.priv 15) 2 0 15 false none, .bar4Read 0x40000000 1 calm, .bar4Read 0 0 calm, .bar4Write 0x40000000 [0] false calm, .bar4Write 0 [] false calm,
     .atomicFetchadd 0x40000000 8 0 calm, .atomicSwap 0x40000000 8 0 calm, .atomicCas 0x40000000 8 0 0 calm].all (fun i => !(WellFormed i)) = true := by decide
theorem test_wf_others :
    [Instr.heaterCodeWrite 2 0 false, .generatorWrite 2 0, .heaterScClear 262144 false, .heaterShortOnset 262144, .heaterShort 262144, .flitReceive 15 0 0 [],
     .arenaFree 4095 (2 ^ 48), .translationWalk 4095 (2 ^ 32) false, .sensorConversion ⟨[(66, ⟨true, true, 0⟩)], 0, [], 0⟩].all (fun i => !(WellFormed i)) = true := by
  decide
theorem test_wf_accepts : WellFormed (.bar4Read 0x3FFFFFFF 1 calm) = true ∧ WellFormed (.heaterShort 262143) = true ∧ WellFormed .pwrgoodAssert = true := by decide

end Sys2Proof.Tests
end

/-!
What the Letterbox adds to a command's own effect, said once: which request a command meets, and what its answer leaves of the state.
-/

namespace Sys2Proof.Machine

open Sys2Proof

/-! ### What an event or an interrupt can change -/

/-- A state without what events and interrupts change: two states that agree here differ by events, interrupts and the log of what is
sent alone. -/
def quiet (s : State) : State :=
  { s with events := [], evSeq := 0, evRing := none, out := [], host := { s.host with msix := [] } }

/-- A state without what the Letterbox protocol itself changes: the mailboxes too. -/
def boxless (s : State) : State := { quiet s with mboxes := [], umboxes := [], lastMbox := 0 }

/-- States that agree in a view of them agree in what the view leaves alone. -/
theorem eq_of_view {α : Type} (view : State → State) {s t : State} (p : State → α) (hp : ∀ u, p (view u) = p u)
    (h : view t = view s) : p t = p s :=
  (hp t).symm.trans ((congrArg p h).trans (hp s))

theorem boxless_of_quiet {s t : State} (h : quiet t = quiet s) : boxless t = boxless s :=
  congrArg (fun x : State => { x with mboxes := [], umboxes := [], lastMbox := 0 }) h

theorem quiet_raiseVec (s : State) (v : Nat) : quiet (raiseVec s v) = quiet s := by
  rcases raiseVec_cases s v with ⟨_, _, _, _, h⟩ | h <;> rw [h] <;> rfl

theorem quiet_writeEvent (s : State) (r : EventRing) (e : Event) : quiet (writeEvent s r e) = quiet s :=
  quiet_raiseVec ..

theorem quiet_raiseEvent3 (s : State) (type ctx a0 a1 a2 : Nat) : quiet (raiseEvent3 s type ctx a0 a1 a2) = quiet s := by
  unfold raiseEvent3
  dsimp only
  split
  · exact quiet_writeEvent ..
  · split <;> rfl

theorem quiet_raiseEvent (s : State) (type ctx a0 a1 : Nat) : quiet (raiseEvent s type ctx a0 a1) = quiet s :=
  quiet_raiseEvent3 ..

/-! ### Mailboxes -/

theorem mbGet_congr {s t : State} (hp : t.mboxes = s.mboxes) (hu : t.umboxes = s.umboxes) (mb : MbRef) : mbGet t mb = mbGet s mb := by
  cases mb <;> simp only [mbGet, hp, hu]

theorem mbGet_of_quiet {s t : State} (h : quiet t = quiet s) (mb : MbRef) : mbGet t mb = mbGet s mb :=
  mbGet_congr (eq_of_view quiet State.mboxes (fun _ => rfl) h) (eq_of_view quiet State.umboxes (fun _ => rfl) h) mb

theorem mbGet_mbMod_same (s : State) (mb : MbRef) (f : Mailbox → Mailbox) : mbGet (mbMod s mb f) mb = f (mbGet s mb) := by
  cases mb <;> exact bankGet_mod_same ..

theorem mbGet_mbMod_other {s : State} {mb mb' : MbRef} (f : Mailbox → Mailbox) (h : mb' ≠ mb) :
    mbGet (mbMod s mb' f) mb = mbGet s mb := by
  cases mb with
  | priv k =>
    cases mb' with
    | priv j => exact bankGet_mod_other _ _ _ fun e => h (congrArg _ (Fin.ext e.symm))
    | unpriv j => rfl
  | unpriv n =>
    cases mb' with
    | priv j => rfl
    | unpriv j => exact bankGet_mod_other _ _ _ fun e => h (congrArg _ (Fin.ext e.symm))

theorem boxless_mbMod (s : State) (mb : MbRef) (f : Mailbox → Mailbox) : boxless (mbMod s mb f) = boxless s := by
  cases mb <;> rfl

theorem boxless_mbTake (s : State) (mb : MbRef) : boxless (mbTake s mb) = boxless s := boxless_mbMod ..

theorem mbGet_mbTake_other {s : State} {mb mb' : MbRef} (h : mb' ≠ mb) : mbGet (mbTake s mb') mb = mbGet s mb :=
  mbGet_mbMod_other _ h

/-! ### The answer (R347) -/

/-- A mailbox whose request has been answered. -/
def answered (st : Status) (vs : List Nat) (m : Mailbox) : Mailbox :=
  { m with
    resp := BitVec.ofNat 64 (st.ctorIdx + 65536 * vs.length) :: vs.map (BitVec.ofNat 64) ++ m.resp.drop (vs.length + 1),
    busy := false, done := true, seq := m.seq + 1 }

theorem quiet_mbAnswer (s : State) (mb : MbRef) (st : Status) (vs : List Nat) :
    quiet (mbAnswer s mb st vs) = quiet (mbMod s mb (answered st vs)) := by
  unfold mbAnswer
  dsimp only
  split
  · split
    · exact quiet_raiseEvent ..
    · split
      · exact quiet_raiseVec ..
      · rfl
  · rfl

theorem boxless_mbAnswer (s : State) (mb : MbRef) (st : Status) (vs : List Nat) : boxless (mbAnswer s mb st vs) = boxless s :=
  (boxless_of_quiet (quiet_mbAnswer ..)).trans (boxless_mbMod ..)

theorem mbGet_mbAnswer_same (s : State) (mb : MbRef) (st : Status) (vs : List Nat) :
    mbGet (mbAnswer s mb st vs) mb = answered st vs (mbGet s mb) :=
  (mbGet_of_quiet (quiet_mbAnswer ..) mb).trans (mbGet_mbMod_same ..)

theorem mbGet_mbAnswer_other {s : State} {mb mb' : MbRef} (st : Status) (vs : List Nat) (h : mb' ≠ mb) :
    mbGet (mbAnswer s mb' st vs) mb = mbGet s mb :=
  (mbGet_of_quiet (quiet_mbAnswer ..) mb).trans (mbGet_mbMod_other _ h)

/-! ### The answers to unknown codes that follow -/

theorem boxless_lbIdle (k : Nat) (s : State) : boxless (lbIdle k s) = boxless s := by
  induction k generalizing s with
  | zero => rfl
  | succ k ih =>
    simp only [lbIdle]
    split
    · rfl
    · split
      · rfl
      · split
        · rw [ih, boxless_mbAnswer, boxless_mbTake]
        · rfl

/-- A mailbox whose code is a command's is passed over. -/
theorem mbGet_lbIdle {mb : MbRef} (k : Nat) {s : State} (h : lbCodes.contains (reqCmd (mbGet s mb)) = true) :
    mbGet (lbIdle k s) mb = mbGet s mb := by
  induction k generalizing s with
  | zero => rfl
  | succ k ih =>
    simp only [lbIdle]
    split
    · rfl
    · next i _ =>
      split
      · rfl
      · next hi =>
        have hne : mbOfIx i ≠ mb := fun e => hi (e ▸ h)
        split
        · next st _ =>
          have hkeep : mbGet (mbAnswer (mbTake s (mbOfIx i)) (mbOfIx i) st []) mb = mbGet s mb :=
            (mbGet_mbAnswer_other st [] hne).trans (mbGet_mbTake_other hne)
          rw [ih (by rwa [hkeep]), hkeep]
        · rfl

/-! ### One command of the Letterbox -/

/-- Other mailboxes and the place of the last one taken: no command's own effect depends on them. -/
def setBoxes (s : State) (p u : Bank Mailbox) (l : Nat) : State := { s with mboxes := p, umboxes := u, lastMbox := l }

theorem boxless_setBoxes (s : State) (p u : Bank Mailbox) (l : Nat) : boxless (setBoxes s p u l) = boxless s := rfl

/-- The state that a command's own rule meets: its request is taken. -/
def begun (s : State) (mb : MbRef) : State := if (mbGet s mb).busy then s else mbTake s mb

theorem begun_eq_setBoxes (s : State) (mb : MbRef) : ∃ p u l, begun s mb = setBoxes s p u l := by
  unfold begun
  split
  · exact ⟨s.mboxes, s.umboxes, s.lastMbox, rfl⟩
  · cases mb <;> exact ⟨_, _, _, rfl⟩

theorem boxless_begun (s : State) (mb : MbRef) : boxless (begun s mb) = boxless s := by
  obtain ⟨p, u, l, e⟩ := begun_eq_setBoxes s mb
  rw [e, boxless_setBoxes]

/-- Taking a request sets BUSY and clears GO; its other registers stay (R347). -/
theorem mbGet_begun (s : State) (mb : MbRef) :
    (mbGet (begun s mb) mb).busy = true ∧ (mbGet (begun s mb) mb).req = (mbGet s mb).req ∧
      (mbGet (begun s mb) mb).seq = (mbGet s mb).seq := by
  unfold begun
  split
  · exact ⟨‹_›, rfl, rfl⟩
  · have h : mbGet (mbTake s mb) mb = { mbGet s mb with busy := true, go := false } := mbGet_mbMod_same ..
    rw [h]; exact ⟨rfl, rfl, rfl⟩

/-- How a command ends after its own rule: answered, or still waiting; then the requests with unknown codes whose turn it is. -/
def lbEnd (mb : MbRef) : State × Ans → State
  | (s, .done st vs) => lbIdle (lbFuel (mbAnswer s mb st vs)) (mbAnswer s mb st vs)
  | (s, .wait) => lbIdle (lbFuel s) s

section
variable {s : State} {mb : MbRef} {code : Nat} {user : Bool} {body : State → Mailbox → State × Ans} {v : State} {st : Status} {vs : List Nat}

theorem Taken.known (h : Taken s mb code) : lbCodes.contains (reqCmd (mbGet s mb)) = true := by
  have hp := h.pass
  unfold lbRefusal at hp
  split at hp
  · cases hp
  · split at hp
    · cases hp
    · next hk => simp only [Bool.or_eq_true, not_or, Bool.not_eq_true', Bool.not_eq_false] at hk; exact hk.1

/-- A request that is Yilium's turn runs the command's own rule. -/
theorem lbStep_taken (h : Taken s mb code) (hv : ∀ n, mb = .unpriv n → user = true) :
    lbStep mb code user body s = lbEnd mb (body (begun s mb) (mbGet s mb)) := by
  obtain ⟨hup, hcmd, hturn, hpass⟩ := h
  have hgo : (!(lbOpen s) || decide (reqCmd (mbGet s mb) ≠ code) ||
      !((mbGet s mb).busy || decide (mbNext s = some (mbIx mb)))) = false := by
    simpa [hup, hcmd, Classical.or_iff_not_imp_left] using hturn
  have hr : lbRefusal (begun s mb) (mbGet s mb) = none := by
    obtain ⟨p, u, l, e⟩ := begun_eq_setBoxes s mb
    rw [e]; exact hpass
  unfold lbStep
  simp only [hgo, Bool.false_eq_true, if_false]
  change (match lbRefusal (begun s mb) (mbGet s mb) with | some _ => _ | none => _) = _
  rw [hr]
  cases mb with
  | priv k => rfl
  | unpriv n => rw [hv n rfl]; rfl

/-- The mailbox's request still shows a command's code. -/
theorem Taken.known_of_req (h : Taken s mb code) {m : Mailbox} (hr : m.req = (mbGet s mb).req) :
    lbCodes.contains (reqCmd m) = true := by
  have := h.known
  unfold reqCmd at this ⊢
  rwa [hr]

/-- The part of a state that only the Letterbox protocol, events and interrupts change, put back. -/
theorem same_of_boxless {t u : State} (h : boxless t = boxless u) :
    t = { u with
      mboxes := t.mboxes, umboxes := t.umboxes, lastMbox := t.lastMbox, events := t.events, evSeq := t.evSeq, evRing := t.evRing,
      out := t.out, host := { u.host with msix := t.host.msix } } :=
  congrArg (fun x : State => { x with
    mboxes := t.mboxes, umboxes := t.umboxes, lastMbox := t.lastMbox, events := t.events, evSeq := t.evSeq, evRing := t.evRing,
    out := t.out, host := { x.host with msix := t.host.msix } }) h

/-- A command that ends with a status, its own rule having left v (R347). -/
theorem ran_lbStep (h : Taken s mb code) (hv : ∀ n, mb = .unpriv n → user = true)
    (hb : body (begun s mb) (mbGet s mb) = (v, .done st vs)) (hm : mbGet v mb = mbGet (begun s mb) mb) :
    Ran s (lbStep mb code user body s) mb st vs v := by
  obtain ⟨-, hreq, hseq⟩ := mbGet_begun s mb
  have ha : mbGet (mbAnswer v mb st vs) mb = answered st vs (mbGet (begun s mb) mb) := by rw [mbGet_mbAnswer_same, hm]
  have ht : mbGet (lbStep mb code user body s) mb = answered st vs (mbGet (begun s mb) mb) := by
    rw [lbStep_taken h hv, hb]
    exact (mbGet_lbIdle _ (by rw [ha]; exact h.known_of_req hreq)).trans ha
  refine ⟨?_, ?_, ?_, ?_, same_of_boxless ?_⟩
  · rw [ht]; simp [answered]
  · rw [ht]; rfl
  · rw [ht]; rfl
  · rw [ht, ← hseq]; rfl
  · rw [lbStep_taken h hv, hb]
    exact (boxless_lbIdle ..).trans (boxless_mbAnswer ..)

/-- A command that waits, its own rule having left the state as it is (R349). -/
theorem lbWaits_lbStep (h : Taken s mb code) (hv : ∀ n, mb = .unpriv n → user = true)
    (hb : body (begun s mb) (mbGet s mb) = (begun s mb, .wait)) : LbWaits s (lbStep mb code user body s) mb := by
  obtain ⟨hbusy, hreq, -⟩ := mbGet_begun s mb
  have e : lbStep mb code user body s = lbIdle (lbFuel (begun s mb)) (begun s mb) := by rw [lbStep_taken h hv, hb]; rfl
  rw [e]
  exact ⟨(congrArg _ (mbGet_lbIdle _ (h.known_of_req hreq))).trans hbusy,
    same_of_boxless ((boxless_lbIdle ..).trans (boxless_begun ..))⟩

theorem Ran.boxless_eq {t u : State} (h : Ran s t mb st vs u) : boxless t = boxless u :=
  (congrArg boxless h.same).trans rfl

/-- An effect counts up to mailboxes, events, interrupts and the log of what is sent. -/
theorem Ran.congr {t u : State} (h : Ran s t mb st vs v) (hu : boxless v = boxless u) : Ran s t mb st vs u :=
  ⟨h.resp, h.busy, h.done, h.seq, same_of_boxless (h.boxless_eq.trans hu)⟩

/-- An effect that is said in terms of the state the command ends in. -/
theorem Ran.congr_end {t u : State} (h : Ran s t mb st vs v) (hu : boxless t = boxless v → boxless v = boxless u) : Ran s t mb st vs u :=
  h.congr (hu h.boxless_eq)

theorem Ran.self {t : State} (h : Ran s t mb st vs v) : Ran s t mb st vs t := h.congr h.boxless_eq.symm

/-- A command whose own rule turns s into u whatever the mailboxes hold. -/
theorem ran_of_body {u : State} (h : Taken s mb code) (hv : ∀ n, mb = .unpriv n → user = true)
    (hb : ∀ p q l, body (setBoxes s p q l) (mbGet s mb) = (setBoxes u p q l, .done st vs)) :
    Ran s (lbStep mb code user body s) mb st vs u := by
  obtain ⟨p, q, l, e⟩ := begun_eq_setBoxes s mb
  refine (ran_lbStep (v := setBoxes u p q l) h hv (by rw [e, hb]) ?_).congr (boxless_setBoxes ..)
  rw [e]
  exact mbGet_congr rfl rfl mb

/-- A command whose own rule waits whatever the mailboxes hold. -/
theorem lbWaits_of_body (h : Taken s mb code) (hv : ∀ n, mb = .unpriv n → user = true)
    (hb : ∀ p q l, body (setBoxes s p q l) (mbGet s mb) = (setBoxes s p q l, .wait)) :
    LbWaits s (lbStep mb code user body s) mb := by
  obtain ⟨p, q, l, e⟩ := begun_eq_setBoxes s mb
  exact lbWaits_lbStep h hv (by rw [e, hb])

end

end Sys2Proof.Machine

/-!
What the operations on Doors and messages leave alone, and what opening, starting and closing a set of Doors does to each of them.
-/

namespace Sys2Proof.Machine

open Sys2Proof

/-! ### Doors -/

theorem doorOf_congr {s t : State} (h : t.link.doors = s.link.doors) (d : Nat) : doorOf t d = doorOf s d := by
  simp only [doorOf, h]

theorem doorOf_of_quiet {s t : State} (h : quiet t = quiet s) (d : Nat) : doorOf t d = doorOf s d :=
  doorOf_congr (eq_of_view quiet (fun x => x.link.doors) (fun _ => rfl) h) d

theorem doorOf_modDoor_same (s : State) (d : Nat) (f : Door → Door) : doorOf (modDoor s d f) d = f (doorOf s d) := bankGet_mod_same ..

theorem doorOf_modDoor_other (s : State) {d e : Nat} (f : Door → Door) (h : e ≠ d) : doorOf (modDoor s d f) e = doorOf s e :=
  bankGet_mod_other _ _ _ h

/-- A fold that acts on the Doors one by one: R is what a step may do to the other Doors, P what it does to its own. -/
theorem foldl_doors {g : State → Nat → State} {I : State → Prop} {R : Door → Door → Prop} {P : Nat → Door → Door → Prop}
    (hI : ∀ s d, I s → I (g s d)) (hother : ∀ s d e, e ≠ d → R (doorOf s e) (doorOf (g s d) e))
    (hown : ∀ s d, I s → P d (doorOf s d) (doorOf (g s d) d)) (hrefl : ∀ x, R x x)
    (htrans : ∀ x y z, R x y → R y z → R x z) (hRP : ∀ d x y z, R x y → P d y z → P d x z)
    (hPR : ∀ d x y z, P d x y → R y z → P d x z) :
    ∀ (ds : List Nat) (s : State), ds.Nodup → I s →
      (∀ d ∈ ds, P d (doorOf s d) (doorOf (ds.foldl g s) d)) ∧ (∀ d, d ∉ ds → R (doorOf s d) (doorOf (ds.foldl g s) d)) := by
  intro ds
  induction ds with
  | nil => exact fun s _ _ => ⟨by simp, fun d _ => hrefl _⟩
  | cons a ds ih =>
    intro s hnd hs
    obtain ⟨ha, hds⟩ := List.nodup_cons.1 hnd
    obtain ⟨hin, hout⟩ := ih (g s a) hds (hI s a hs)
    refine ⟨fun d hd => ?_, fun d hd => ?_⟩
    · rcases List.mem_cons.1 hd with rfl | hd
      · exact hPR _ _ _ _ (hown s d hs) (hout d ha)
      · exact hRP _ _ _ _ (hother s a d fun e => ha (e ▸ hd)) (hin d hd)
    · obtain ⟨hne, hd⟩ := not_or.1 (List.mem_cons.not.1 hd)
      exact htrans _ _ _ (hother s a d hne) (hout d hd)

/-- What a fold's steps keep, the fold keeps. -/
theorem foldl_keeps {σ α β : Type} {g : σ → α → σ} (p : σ → β) (h : ∀ s a, p (g s a) = p s) (l : List α) (s : σ) :
    p (l.foldl g s) = p s := by
  induction l generalizing s with
  | nil => rfl
  | cons a l ih => exact (ih _).trans (h s a)

/-! ### Opening Doors (R399, R400) -/

/-- A state without its Doors, the Corridor's counters, and what events change. -/
def doorless (s : State) : State := { quiet s with link := { s.link with doors := [] }, corr := Corridor.reset }

theorem doorless_of_quiet {s t : State} (h : quiet t = quiet s) : doorless t = doorless s :=
  congrArg (fun x : State => { x with link := { x.link with doors := [] }, corr := Corridor.reset }) h

theorem doorless_modDoor (s : State) (d : Nat) (f : Door → Door) : doorless (modDoor s d f) = doorless s := rfl

theorem doorless_grantCred (s : State) (d code n : Nat) : doorless (grantCred s d code n) = doorless s := rfl

theorem doorless_openDoor (s : State) (d : Nat) : doorless (openDoor s d) = doorless s := by
  unfold openDoor
  dsimp only
  rw [doorless_of_quiet (quiet_raiseEvent ..), doorless_modDoor,
    foldl_keeps doorless fun s code => doorless_grantCred s d code (vcBuf (code / 2))]

theorem doorless_tryOpen (s : State) (d : Nat) : doorless (tryOpen s d) = doorless s := by
  unfold tryOpen
  split
  · rfl
  · split
    · dsimp only
      split
      · exact doorless_openDoor ..
      · rw [doorless_of_quiet (quiet_raiseEvent3 ..), doorless_modDoor]
    · rfl

theorem doorOf_grantCred_other (s : State) {d e : Nat} (code n : Nat) (h : e ≠ d) : doorOf (grantCred s d code n) e = doorOf s e :=
  doorOf_modDoor_other _ _ h

theorem doorOf_openDoor_other (s : State) {d e : Nat} (h : e ≠ d) : doorOf (openDoor s d) e = doorOf s e := by
  unfold openDoor
  dsimp only
  rw [doorOf_of_quiet (quiet_raiseEvent ..), doorOf_modDoor_other _ _ h,
    foldl_keeps (doorOf · e) fun s code => doorOf_grantCred_other s code _ h]

theorem openDoor_state (s : State) (d : Nat) : (doorOf (openDoor s d) d).state = .open_ := by
  unfold openDoor
  rw [doorOf_of_quiet (quiet_raiseEvent ..), doorOf_modDoor_same]

theorem doorOf_tryOpen_other (s : State) {d e : Nat} (h : e ≠ d) : doorOf (tryOpen s d) e = doorOf s e := by
  unfold tryOpen
  split
  · rfl
  · split
    · dsimp only
      split
      · exact doorOf_openDoor_other s h
      · exact (doorOf_of_quiet (quiet_raiseEvent3 ..) e).trans (doorOf_modDoor_other _ _ h)
    · rfl

/-- R399 for one Door: it opens where it is TRAINED and the table expects its peer; else its state stays. -/
theorem tryOpen_state {s : State} {t : Topo} (ht : s.link.topo = some t) (d : Nat) :
    (doorOf (tryOpen s d) d).state =
      if (doorOf s d).state = .trained ∧ t.expected s.nodeId.toNat d = some (doorOf s d).peer.toNat then .open_ else (doorOf s d).state := by
  unfold tryOpen
  rw [ht]
  dsimp only
  by_cases h1 : (doorOf s d).state = .trained
  · by_cases h2 : t.expected s.nodeId.toNat d = some (doorOf s d).peer.toNat
    · simp only [h1, h2, and_self, if_true]; exact openDoor_state s d
    · simp only [h1, h2, and_false, if_true, if_false]
      rw [doorOf_of_quiet (quiet_raiseEvent3 ..), doorOf_modDoor_same]
      exact h1
  · simp only [h1, false_and, if_false]

/-- R399 for every Door. -/
theorem tryOpenAll_state {s : State} {t : Topo} (ht : s.link.topo = some t) {d : Nat} (hd : d < 16) :
    (doorOf (tryOpenAll s) d).state =
      if (doorOf s d).state = .trained ∧ t.expected s.nodeId.toNat d = some (doorOf s d).peer.toNat then .open_ else (doorOf s d).state :=
  (foldl_doors (g := tryOpen) (I := fun u => u.link.topo = some t ∧ u.nodeId = s.nodeId) (R := Eq)
    (P := fun d x y => y.state =
      if x.state = .trained ∧ t.expected s.nodeId.toNat d = some x.peer.toNat then .open_ else x.state)
    (fun u d hu => by
      have h := doorless_tryOpen u d
      exact ⟨(eq_of_view doorless (fun x => x.link.topo) (fun _ => rfl) h).trans hu.1, (eq_of_view doorless State.nodeId (fun _ => rfl) h).trans hu.2⟩)
    (fun u _ _ h => (doorOf_tryOpen_other u h).symm)
    (fun u d hu => hu.2 ▸ tryOpen_state hu.1 d)
    (fun _ => rfl) (fun _ _ _ => Eq.trans) (fun _ _ _ _ h hp => h ▸ hp) (fun _ _ _ _ hp h => h ▸ hp)
    (List.range 16) s List.nodup_range ⟨ht, rfl⟩).1 d (List.mem_range.2 hd)

theorem doorless_tryOpenAll (s : State) : doorless (tryOpenAll s) = doorless s :=
  foldl_keeps doorless doorless_tryOpen _ s

/-! ### Starting Doors (LINK_OPEN) -/

theorem doorless_startDoor (mask : Nat) (s : State) (d : Nat) : doorless (startDoor mask s d) = doorless s := by
  unfold startDoor
  split
  · rfl
  · split
    · rfl
    · rfl
    · exact doorless_tryOpen ..
    · rfl

theorem doorOf_startDoor_other (mask : Nat) (s : State) {d e : Nat} (h : e ≠ d) : doorOf (startDoor mask s d) e = doorOf s e := by
  unfold startDoor
  split
  · rfl
  · split
    · exact doorOf_modDoor_other _ _ h
    · exact doorOf_modDoor_other _ _ h
    · exact doorOf_tryOpen_other s h
    · rfl

/-- A Door after LINK_OPEN: one that the mask leaves out stays, one that is DOWN or DISABLED trains again (R438). -/
def Started (mask d : Nat) (x y : Door) : Prop :=
  (mask.testBit d = false → y = x) ∧
    (mask.testBit d = true → x.state = .down ∨ x.state = .disabled → y = { x with state := .training, retrains := 0 })

theorem startDoor_started (mask : Nat) (s : State) (d : Nat) : Started mask d (doorOf s d) (doorOf (startDoor mask s d) d) := by
  unfold startDoor
  refine ⟨fun h => by simp [h], fun h hst => ?_⟩
  rcases hst with hst | hst <;> simp only [h, hst] <;> exact doorOf_modDoor_same ..

theorem startDoors_started (mask : Nat) (s : State) {d : Nat} (hd : d < 16) :
    Started mask d (doorOf s d) (doorOf ((List.range 16).foldl (startDoor mask) s) d) :=
  (foldl_doors (g := startDoor mask) (I := fun _ => True) (R := Eq) (P := Started mask)
    (fun _ _ _ => trivial) (fun u _ _ h => (doorOf_startDoor_other mask u h).symm) (fun u d _ => startDoor_started mask u d)
    (fun _ => rfl) (fun _ _ _ => Eq.trans) (fun _ _ _ _ h hp => h ▸ hp) (fun _ _ _ _ hp h => h ▸ hp)
    (List.range 16) s List.nodup_range trivial).1 d (List.mem_range.2 hd)

/-! ### Ending a command keeps the links, the memories and the mailboxes -/

/-- What the end of a command's work does not touch. -/
def bystanders (s : State) : Link × Mem × Bank Mailbox × Bank Mailbox := (s.link, s.mem, s.mboxes, s.umboxes)

theorem bystanders_of_quiet {s t : State} (h : quiet t = quiet s) : bystanders t = bystanders s :=
  eq_of_view quiet bystanders (fun _ => rfl) h

@[simp] theorem bystanders_audGive (s : State) (q n : Nat) : bystanders (audGive s q n) = bystanders s := rfl
@[simp] theorem bystanders_modDumb (s : State) (d : Nat) (f : Dumb → Dumb) : bystanders (modDumb s d f) = bystanders s := rfl
@[simp] theorem bystanders_modPantry (s : State) (p : Nat) (f : Pantry → Pantry) : bystanders (modPantry s p f) = bystanders s := rfl
@[simp] theorem bystanders_freshNat (s : State) : bystanders (freshNat s).2 = bystanders s := rfl
@[simp] theorem bystanders_modOp (s : State) (id : OpId) (f : Op → Op) : bystanders (modOp s id f) = bystanders s := rfl
@[simp] theorem bystanders_freeHeld (s : State) (x : Stream) : bystanders (freeHeld s x) = bystanders s := by
  unfold freeHeld; split <;> rfl

@[simp] theorem bystanders_dropStreams (s : State) (id : OpId) (aborted : Bool) : bystanders (dropStreams s id aborted) = bystanders s := by
  unfold dropStreams
  dsimp only
  rw [foldl_keeps bystanders fun u e => ?_]
  · rfl
  · split <;> simp

@[simp] theorem bystanders_closeTrees (s : State) (id : OpId) : bystanders (closeTrees s id) = bystanders s := by
  unfold closeTrees
  dsimp only
  rw [foldl_keeps bystanders fun u e => ?_]
  · rfl
  · split <;> simp

theorem bystanders_endOp (s : State) (id : OpId) (st : Status) (aborted : Bool) : bystanders (endOp s id st aborted) = bystanders s := by
  unfold endOp
  split
  · rfl
  · split
    · rfl
    · dsimp only
      rw [bystanders_modOp]
      split
      · rw [bystanders_audGive, bystanders_closeTrees]; exact bystanders_dropStreams ..
      · rw [bystanders_closeTrees]; exact bystanders_dropStreams ..

theorem bystanders_dropSignal (s : State) (ctx : Nat) : bystanders (dropSignal s ctx) = bystanders s := by
  unfold dropSignal modCtx; split <;> rfl

theorem bystanders_raiseQueueVec (s : State) (q : Nat) : bystanders (raiseQueueVec s q) = bystanders s := by
  unfold raiseQueueVec
  split
  · exact bystanders_of_quiet (quiet_raiseVec ..)
  · rfl

/-! ### Messages on their way -/

/-- A Door while messages find other routes: it keeps its state and the flits that wait for their ACK, and only an OPEN Door is given
messages to send. -/
def GoesOn (x y : Door) : Prop := y.state = x.state ∧ y.replay = x.replay ∧ (x.state ≠ .open_ → y.sendQ = x.sendQ)

theorem GoesOn.refl (x : Door) : GoesOn x x := ⟨rfl, rfl, fun _ => rfl⟩

theorem GoesOn.trans {x y z : Door} (h : GoesOn x y) (k : GoesOn y z) : GoesOn x z :=
  ⟨k.1.trans h.1, k.2.1.trans h.2.1, fun hx => (k.2.2 (h.1 ▸ hx)).trans (h.2.2 hx)⟩

/-- Messages are routed, delivered, queued on OPEN Doors or fail: the memories and the mailboxes stay. -/
structure Routes (s t : State) : Prop where
  mem : t.mem = s.mem
  mboxes : t.mboxes = s.mboxes
  umboxes : t.umboxes = s.umboxes
  doors : ∀ d, GoesOn (doorOf s d) (doorOf t d)

namespace Routes

theorem refl (s : State) : Routes s s := ⟨rfl, rfl, rfl, fun _ => GoesOn.refl _⟩

theorem trans {s t u : State} (h : Routes s t) (k : Routes t u) : Routes s u :=
  ⟨k.mem.trans h.mem, k.mboxes.trans h.mboxes, k.umboxes.trans h.umboxes, fun d => (h.doors d).trans (k.doors d)⟩

theorem of_doors {s t : State} (hm : t.mem = s.mem) (hp : t.mboxes = s.mboxes) (hu : t.umboxes = s.umboxes)
    (hd : t.link.doors = s.link.doors) : Routes s t :=
  ⟨hm, hp, hu, fun d => by rw [doorOf_congr hd]; exact GoesOn.refl _⟩

theorem of_bystanders {s t : State} (h : bystanders t = bystanders s) : Routes s t := by
  obtain ⟨hl, hm, hp, hu⟩ : t.link = s.link ∧ t.mem = s.mem ∧ t.mboxes = s.mboxes ∧ t.umboxes = s.umboxes := by
    simpa only [bystanders, Prod.mk.injEq] using h
  exact of_doors hm hp hu (congrArg Link.doors hl)

theorem of_quiet {s t : State} (h : quiet t = quiet s) : Routes s t := of_bystanders (bystanders_of_quiet h)

theorem modDoor {d : Nat} {f : Door → Door} (s : State) (h : GoesOn (doorOf s d) (f (doorOf s d))) :
    Routes s (Machine.modDoor s d f) :=
  ⟨rfl, rfl, rfl, fun e => by
    by_cases he : e = d
    · subst he; rw [doorOf_modDoor_same]; exact h
    · rw [doorOf_modDoor_other s f he]; exact GoesOn.refl _⟩

theorem foldl {α : Type} {g : State → α → State} (hg : ∀ s a, Routes s (g s a)) : ∀ (l : List α) (s : State), Routes s (l.foldl g s)
  | [], s => refl s
  | a :: l, s => (hg s a).trans (foldl hg l _)

theorem doorOpen {s t : State} (h : Routes s t) (d : Nat) : Machine.doorOpen t d = Machine.doorOpen s d := by
  simp only [Machine.doorOpen, (h.doors d).1]

end Routes

theorem routes_countOvr (s : State) (dst : Nat) : Routes s (countOvr s dst) := by
  unfold countOvr
  split
  · split
    · exact .of_doors rfl rfl rfl rfl
    · exact .refl s
  · exact .refl s

theorem routes_goAlt (s : State) (a b : Nat) : Routes s (goAlt s a b) := by
  unfold goAlt
  split
  · exact .refl s
  · exact (Routes.of_quiet (quiet_raiseEvent ..)).trans (.modDoor _ ⟨rfl, rfl, fun _ => rfl⟩)

/-- A route is looked up; the Door that it names is OPEN. -/
theorem routes_routeOf (s : State) (dst : Nat) (arrival : Option (Nat × Nat)) :
    Routes s (routeOf s dst arrival).1 ∧
      ∀ d lane, (routeOf s dst arrival).2 = .via d lane → doorOpen (routeOf s dst arrival).1 d = true := by
  unfold routeOf
  split
  · refine ⟨.refl s, fun d lane h => ?_⟩
    dsimp only at h
    split at h <;> cases h
  · have hc := routes_countOvr s dst
    dsimp only
    split
    · exact ⟨hc, fun d lane h => by cases h⟩
    · next a va b vb ln _ =>
      split
      · next ho =>
        refine ⟨hc, fun d lane h => ?_⟩
        cases h; exact (Bool.and_eq_true_iff.1 ho).2
      · split
        · next ho =>
          have hb := (Bool.and_eq_true_iff.1 ho).2
          split
          · have hg := routes_goAlt (countOvr s dst) a b
            refine ⟨hc.trans hg, fun d lane h => ?_⟩
            cases h; rwa [hg.doorOpen]
          · refine ⟨hc, fun d lane h => ?_⟩
            cases h; exact hb
        · exact ⟨hc, fun d lane h => by cases h⟩

theorem routes_enqueue {s : State} {d : Nat} (lane : Nat) (m : Msg) (h : doorOpen s d = true) : Routes s (enqueue s d lane m) :=
  .modDoor s ⟨rfl, rfl, fun hn => absurd (of_decide_eq_true h) hn⟩

theorem routes_deliver (s : State) (d code : Nat) (flits : List Nat) (m : Msg) : Routes s (deliver s d code flits m) :=
  .of_doors rfl rfl rfl rfl

theorem routes_sendMsg (s : State) (m : Msg) : Routes s (sendMsg s m).1 := by
  obtain ⟨hr, ho⟩ := routes_routeOf s m.dst none
  unfold sendMsg
  split
  · next e => rw [e] at hr; exact hr.trans (routes_deliver ..)
  · next u d lane e =>
    rw [e] at hr ho
    have hu : doorOpen u d = true := ho d lane rfl
    split
    · split
      · exact hr.trans (.of_doors rfl rfl rfl rfl)
      · have hm : Routes u (modDoor u d fun x => { x with onAlt := false }) := .modDoor u ⟨rfl, rfl, fun _ => rfl⟩
        exact (hr.trans hm).trans (routes_enqueue lane m (by rwa [hm.doorOpen]))
    · exact hr.trans (routes_enqueue lane m hu)
  · next e => rw [e] at hr; exact hr

/-- A request fails: it is counted and told, and its owner's work ends (R433, R434). -/
theorem routes_failReq (s : State) (tag : Nat) : Routes s (failReq s tag) := by
  have hdrop : Routes s (dropReq s tag) := .of_doors rfl rfl rfl rfl
  have hcount (u : State) (d : Nat) : Routes u (modDoor u d fun x => { x with toutCnt := x.toutCnt + 1 }) :=
    .modDoor u ⟨rfl, rfl, fun _ => rfl⟩
  have hflag (u : State) : Routes u { u with link := { u.link with flags := u.link.flags ||| 4 } } := .of_doors rfl rfl rfl rfl
  have htold (u : State) (a b : Nat) : Routes u (raiseEvent u 0x45 noCtx a b) := .of_quiet (quiet_raiseEvent ..)
  have hfail (d a b : Nat) := hdrop.trans ((hcount _ d).trans ((hflag _).trans (htold _ a b)))
  unfold failReq
  split
  · exact .refl s
  · dsimp only
    split
    · split
      · exact (hfail ..).trans (.of_bystanders (bystanders_endOp ..))
      · exact hfail ..
    · split
      · exact ((hfail ..).trans (.of_bystanders (bystanders_dropSignal ..))).trans (.of_bystanders (bystanders_raiseQueueVec ..))
      · exact (hfail ..).trans (.of_bystanders (bystanders_dropSignal ..))
    · exact (hfail ..).trans (.of_bystanders (bystanders_endOp ..))

theorem routes_failMsg (s : State) (m : Msg) : Routes s (failMsg s m) := by
  unfold failMsg
  split
  · exact routes_failReq ..
  · exact .refl s

theorem routes_sendHeld (s : State) (e : Nat × Msg) : Routes s (sendHeld s e) := by
  have h := routes_sendMsg s e.2
  unfold sendHeld
  split
  · next hs => rw [hs] at h; exact h
  · next hs => rw [hs] at h; exact h.trans (routes_failMsg ..)

theorem routes_releaseHeld (s : State) : Routes s (releaseHeld s) := by
  have h : Routes s { s with link := { s.link with held := [] } } := .of_doors rfl rfl rfl rfl
  exact h.trans (.foldl routes_sendHeld _ _)

theorem routes_reroute (s : State) (m : Msg) : Routes s (reroute s m) := by
  obtain ⟨hr, ho⟩ := routes_routeOf s m.dst none
  unfold reroute
  split
  · next e => rw [e] at hr ho; exact hr.trans (routes_enqueue _ m (ho _ _ rfl))
  · next e => rw [e] at hr; exact hr.trans (routes_deliver ..)
  · next e => rw [e] at hr; exact hr.trans (routes_failMsg ..)

theorem routes_backCred (s : State) (d v n : Nat) : Routes s (backCred s d v n) := by
  have h : Routes s (modDoor s d fun x => { x with dcBack := bankMod x.dcBack 0 v (· + BitVec.ofNat 32 n) }) :=
    .modDoor s ⟨rfl, rfl, fun _ => rfl⟩
  exact h.trans (.of_doors rfl rfl rfl rfl)

/-! ### Closing Doors (R439) -/

/-- A Door after LINK_CLOSE: it is TRAINED with nothing to send; flits that wait for their ACK stay. -/
def Closed (x y : Door) : Prop := x.state = .open_ → y.state = .trained ∧ y.sendQ = [] ∧ y.replay = x.replay

/-- A Door that LINK_CLOSE shuts, before its messages find other routes. -/
def shut (x : Door) : Door :=
  { x with state := .trained, txCred := [], sendQ := [], owed := [], rspFirst := false, rxFlits := [], linkDue := true }

/-- Messages are routed, one Door is shut, and messages are routed again. -/
structure Shuts (d : Nat) (s t : State) : Prop where
  mem : t.mem = s.mem
  mboxes : t.mboxes = s.mboxes
  umboxes : t.umboxes = s.umboxes
  own : Closed (doorOf s d) (doorOf t d)
  others : ∀ e, e ≠ d → GoesOn (doorOf s e) (doorOf t e)

theorem Shuts.of_routes {s t u : State} {d : Nat} (h : Routes s t) (k : Routes (modDoor t d shut) u) : Shuts d s u where
  mem := k.mem.trans h.mem
  mboxes := k.mboxes.trans h.mboxes
  umboxes := k.umboxes.trans h.umboxes
  own := fun _ => by
    obtain ⟨hst, hrep, hq⟩ := k.doors d
    rw [doorOf_modDoor_same] at hst hrep hq
    exact ⟨hst, hq (by simp [shut]), hrep.trans (h.doors d).2.1⟩
  others := fun e he => by
    have hk := k.doors e
    rw [doorOf_modDoor_other t shut he] at hk
    exact (h.doors e).trans hk

theorem shuts_closeDoor (s : State) (d : Nat) : Shuts d s (closeDoor s d) := by
  unfold closeDoor
  split
  · have hback := Routes.foldl (g := fun s v => backCred s d v (dcLevel (doorOf s d) v).toNat)
      (fun s v => routes_backCred s d v _) [0, 1, 2] s
    have hinbox (u : State) : Routes u
        { u with link := { u.link with inbox := u.link.inbox.map (fun e => if e.door = d then { e with flits := [] } else e) } } :=
      .of_doors rfl rfl rfl rfl
    have hevent (u : State) : Routes u (raiseEvent u 0x41 noCtx d 4) := .of_quiet (quiet_raiseEvent ..)
    exact .of_routes (hback.trans (hinbox _)) ((hevent _).trans ((Routes.foldl routes_reroute _ _).trans (routes_releaseHeld _)))
  · next ho => exact ⟨rfl, rfl, rfl, fun h => absurd (decide_eq_true h) ho, fun _ _ => .refl _⟩

theorem closeDoors_closed (ds : List Nat) (s : State) (hnd : ds.Nodup) {d : Nat} (hd : d ∈ ds) :
    Closed (doorOf s d) (doorOf (ds.foldl closeDoor s) d) :=
  (foldl_doors (g := closeDoor) (I := fun _ => True) (R := GoesOn) (P := fun _ => Closed)
    (fun _ _ _ => trivial) (fun u d => (shuts_closeDoor u d).others) (fun u d _ => (shuts_closeDoor u d).own)
    GoesOn.refl (fun _ _ _ => GoesOn.trans)
    (fun _ _ _ _ h hc hx => by obtain ⟨ht, hq, hr⟩ := hc (h.1.trans hx); exact ⟨ht, hq, hr.trans h.2.1⟩)
    (fun _ _ _ _ hc h hx => by
      obtain ⟨ht, hq, hr⟩ := hc hx
      exact ⟨h.1.trans ht, (h.2.2 (by simp [ht])).trans hq, h.2.1.trans hr⟩)
    ds s hnd trivial).1 d hd

theorem closeDoors_keeps (ds : List Nat) (s : State) :
    (ds.foldl closeDoor s).mem = s.mem ∧ ∀ mb, mbGet (ds.foldl closeDoor s) mb = mbGet s mb := by
  refine ⟨foldl_keeps State.mem (fun u d => (shuts_closeDoor u d).mem) ds s, fun mb => mbGet_congr ?_ ?_ mb⟩
  · exact foldl_keeps State.mboxes (fun u d => (shuts_closeDoor u d).mboxes) ds s
  · exact foldl_keeps State.umboxes (fun u d => (shuts_closeDoor u d).umboxes) ds s

end Sys2Proof.Machine

/-!
Link and Truss commands (Table 11.8): how each one's own rule ends, and the obligation O59.
-/

namespace Sys2Proof.Machine

open Sys2Proof

/-! ### What a command's rule reads does not lie in the mailboxes -/

section
variable (s : State) (p q : Bank Mailbox) (l : Nat)

@[simp] theorem ctxOf_setBoxes (n : Nat) : ctxOf (setBoxes s p q l) n = ctxOf s n := rfl
@[simp] theorem doorOpen_setBoxes (d : Nat) : doorOpen (setBoxes s p q l) d = doorOpen s d := rfl

end

theorem onLinks_of_isS {s : State} (k : State → Mailbox → State × Ans) (m : Mailbox) (h : isS s = true) :
    onLinks k s m = (s, .done .linkAbsent []) := by simp [onLinks, h, refuse]

theorem onLinks_of_not_isS {s : State} (k : State → Mailbox → State × Ans) (m : Mailbox) (h : isS s = false) :
    onLinks k s m = k s m := by simp [onLinks, h]

/-- A table on sound memory is read as it stands there. -/
theorem readTable_clean {s : State} {env : Env} {pa n : Nat} (hs : paSpan s pa n = true) (hc : CleanRead s env pa n) :
    readTable s env pa n = (s, some (s.mem.data.read pa n)) := by
  simp [readTable, hs, readPa_clean hc]

theorem readTable_setBoxes {s : State} {env : Env} {pa n : Nat} (hs : paSpan s pa n = true) (hc : CleanRead s env pa n)
    (p q : Bank Mailbox) (l : Nat) :
    readTable (setBoxes s p q l) env pa n = (setBoxes s p q l, some (s.mem.data.read pa n)) :=
  readTable_clean (s := setBoxes s p q l) hs hc

section
variable {s : State} {k : Fin 16} {env : Env}

/-- A request in a privileged mailbox for a command in Table 11.8 that addresses links: refused on KX1-S (R8). -/
theorem ran_onLinks_absent {code : Nat} (body : State → Mailbox → State × Ans) (hS : isS s = true) (h : Taken s (.priv k) code) :
    Ran s (lbStep (.priv k) code false (onLinks body) s) (.priv k) .linkAbsent [] s :=
  ran_of_body h nofun fun p q l => onLinks_of_isS (s := setBoxes s p q l) _ _ hS

/-- A link command on KX1-L whose rule turns s into u whatever the mailboxes hold. -/
theorem ran_onLinks {code : Nat} {body : State → Mailbox → State × Ans} {u : State} {st : Status} {vs : List Nat} (hS : isS s = false)
    (h : Taken s (.priv k) code) (hb : ∀ p q l, body (setBoxes s p q l) (mbGet s (.priv k)) = (setBoxes u p q l, .done st vs)) :
    Ran s (lbStep (.priv k) code false (onLinks body) s) (.priv k) st vs u :=
  ran_of_body h nofun fun p q l => (onLinks_of_not_isS (s := setBoxes s p q l) _ _ hS).trans (hb p q l)

/-- A link command on KX1-L that waits whatever the mailboxes hold. -/
theorem lbWaits_onLinks {code : Nat} {body : State → Mailbox → State × Ans} (hS : isS s = false) (h : Taken s (.priv k) code)
    (hb : ∀ p q l, body (setBoxes s p q l) (mbGet s (.priv k)) = (setBoxes s p q l, .wait)) :
    LbWaits s (lbStep (.priv k) code false (onLinks body) s) (.priv k) :=
  lbWaits_of_body h nofun fun p q l => (onLinks_of_not_isS (s := setBoxes s p q l) _ _ hS).trans (hb p q l)

/-! ### KX1-S -/

/-- The link commands and their codes (Table 11.8). -/
def linkCommands (k : Fin 16) (env : Env) : List (Instr × Nat) :=
  [(.topoLoad (.priv k) env, 0x90), (.topoQuery (.priv k), 0x91), (.linkOpen (.priv k), 0x92), (.linkClose (.priv k), 0x93),
    (.linkQuery (.priv k), 0x94), (.exportSet (.priv k), 0x95), (.exportClear (.priv k), 0x96), (.remoteMap (.priv k), 0x97)]

theorem linkCommand_exec {c : Instr} {code : Nat} (hc : (c, code) ∈ linkCommands k env) :
    ∃ body, exec c s = .next (lbStep (.priv k) code false (onLinks body) s) := by
  simp only [linkCommands, List.mem_cons, Prod.mk.injEq, List.not_mem_nil, or_false] at hc
  rcases hc with ⟨rfl, rfl⟩ | ⟨rfl, rfl⟩ | ⟨rfl, rfl⟩ | ⟨rfl, rfl⟩ | ⟨rfl, rfl⟩ | ⟨rfl, rfl⟩ | ⟨rfl, rfl⟩ | ⟨rfl, rfl⟩ <;>
    exact ⟨_, rfl⟩

/-! ### TOPO_LOAD (R440) -/

theorem topoLoad_busy (hS : isS s = false) (h : Taken s (.priv k) 0x90) (ho : ∃ d < 16, doorOpen s d = true) :
    Ran s (lbStep (.priv k) 0x90 false (bodyTopoLoad env) s) (.priv k) .busy [] s := by
  have hany : (List.range 16).any (doorOpen s) = true := by
    obtain ⟨d, hd, hopen⟩ := ho
    exact List.any_eq_true.2 ⟨d, List.mem_range.2 hd, hopen⟩
  exact ran_onLinks hS h fun _ _ _ => if_pos hany

theorem fromBytes_lt (bs : List Byte) : fromBytes bs < 256 ^ bs.length := by
  induction bs with
  | nil => simp [fromBytes]
  | cons b t ih =>
    have hb : b.toNat < 256 := b.isLt
    simp only [fromBytes, List.length_cons, Nat.pow_succ]
    omega

theorem field_lt (bs : List Byte) (off n : Nat) : field bs off n < 256 ^ n :=
  (fromBytes_lt _).trans_le (Nat.pow_le_pow_right (by omega) (List.length_take_le ..))

theorem bankFind_map {α β : Type} (f : α → β) (b : Bank α) (i : Nat) :
    bankFind (b.map fun e => (e.1, f e.2)) i = (bankFind b i).map f := by
  induction b with
  | nil => rfl
  | cons e t ih =>
    obtain ⟨j, x⟩ := e
    simp only [List.map_cons, bankFind]
    split
    · rfl
    · exact ih

/-- A TRAINED Door is due to tell its peer the node (R398). -/
def dueLink (x : Door) : Door := if x.state = .trained then { x with linkDue := true } else x

theorem dueLink_state (x : Door) : (dueLink x).state = x.state := by unfold dueLink; split <;> rfl
theorem dueLink_peer (x : Door) : (dueLink x).peer = x.peer := by unfold dueLink; split <;> rfl

/-- The state in which an accepted table tries the Doors. -/
def retopo (s : State) (bs : List Byte) : State :=
  { s with
    nodeId := BitVec.ofNat 16 (parseTopo bs).node,
    link := { s.link with topo := some (parseTopo bs), doors := s.link.doors.map fun e => (e.1, dueLink e.2) } }

theorem loadTopo_eq (s : State) (bs : List Byte) : loadTopo s bs = tryOpenAll (retopo s bs) := rfl

theorem doorOf_retopo (s : State) (bs : List Byte) (d : Nat) : doorOf (retopo s bs) d = dueLink (doorOf s d) := by
  unfold doorOf bankGet
  rw [show (retopo s bs).link.doors = s.link.doors.map fun e => (e.1, dueLink e.2) from rfl, bankFind_map]
  cases bankFind s.link.doors d <;> rfl

/-- A Door opens with a new table where it is TRAINED and the table expects its peer there (R399). -/
theorem doorOpen_loadTopo (s : State) (bs : List Byte) {d : Nat} (hd : d < 16) (hc : doorOpen s d = false) :
    doorOpen (loadTopo s bs) d = decide ((doorOf s d).state = .trained ∧
      (parseTopo bs).expected (parseTopo bs).node d = some (doorOf s d).peer.toNat) := by
  have hn : (retopo s bs).nodeId.toNat = (parseTopo bs).node := Nat.mod_eq_of_lt (field_lt bs 4 2)
  have hst := tryOpenAll_state (s := retopo s bs) (t := parseTopo bs) rfl hd
  rw [doorOf_retopo, dueLink_state, dueLink_peer, hn] at hst
  unfold doorOpen
  rw [loadTopo_eq, hst]
  split
  · next hcond => simp [hcond]
  · next hcond => rw [decide_eq_false hcond]; exact hc

theorem mbGet_of_doorless {s t : State} (h : doorless t = doorless s) (mb : MbRef) : mbGet t mb = mbGet s mb :=
  mbGet_congr (eq_of_view doorless State.mboxes (fun _ => rfl) h) (eq_of_view doorless State.umboxes (fun _ => rfl) h) mb

theorem doorless_loadTopo (s : State) (bs : List Byte) : doorless (loadTopo s bs) = doorless (retopo s bs) := doorless_tryOpenAll _

/-- TOPO_LOAD without storing, while no Door is OPEN and the table can be read: the table is loaded or refused by its checks alone. -/
theorem bodyTopoLoad_unstored {m : Mailbox} {bs : List Byte} (hS : isS s = false) (hd : ∀ d < 16, doorOpen s d = false)
    (hspan : paSpan s (reqArg m 0) 704 = true) (hclean : CleanRead s env (reqArg m 0) 704)
    (hbs : bs = s.mem.data.read (reqArg m 0) 704) (hstore : (reqArg m 1).testBit 0 = false) (p q : Bank Mailbox) (l : Nat) :
    bodyTopoLoad env (setBoxes s p q l) m =
      if topoOk bs = true ∧ (parseTopo bs).node < (parseTopo bs).nodes then (loadTopo (setBoxes s p q l) bs, .ok)
      else refuse (setBoxes s p q l) .invalid := by
  have hany : (List.range 16).any (doorOpen (setBoxes s p q l)) = false := by simpa using hd
  unfold bodyTopoLoad
  rw [onLinks_of_not_isS (s := setBoxes s p q l) _ _ hS, hany, readTable_setBoxes hspan hclean, ← hbs, hstore]
  by_cases hok : topoOk bs = true ∧ (parseTopo bs).node < (parseTopo bs).nodes
  · simp [hok.1, Nat.not_le.2 hok.2]
  · simp [hok]

/-- TOPO_LOAD on KX1-L while no Door is OPEN (R399, R440). -/
theorem topoLoad_unstored (pa : Nat) (bs : List Byte) (hS : isS s = false) (h : Taken s (.priv k) 0x90)
    (hd : ∀ d < 16, doorOpen s d = false) (hpa : pa = argOf s (.priv k) 0) (hspan : paSpan s pa 704 = true)
    (hclean : CleanRead s env pa 704) (hbs : bs = s.mem.data.read pa 704) (hstore : (argOf s (.priv k) 1).testBit 0 = false) :
    ∃ t, exec (.topoLoad (.priv k) env) s = .next t ∧
      (if topoOk bs = true ∧ (parseTopo bs).node < (parseTopo bs).nodes then Ran s t (.priv k) .ok [] t ∧
        t.link.topo = some (parseTopo bs) ∧ t.nodeId = BitVec.ofNat 16 (parseTopo bs).node ∧ t.nvm.topo = s.nvm.topo ∧
        (∀ d < 16, doorOpen t d = decide ((doorOf s d).state = .trained ∧
          (parseTopo bs).expected (parseTopo bs).node d = some (doorOf s d).peer.toNat))
       else Ran s t (.priv k) .invalid [] s) := by
  refine ⟨_, rfl, ?_⟩
  subst hpa
  have hbody := bodyTopoLoad_unstored hS hd hspan hclean hbs hstore
  split
  · next hok =>
    obtain ⟨p, q, l, e⟩ := begun_eq_setBoxes s (.priv k)
    have hdl := doorless_loadTopo (setBoxes s p q l) bs
    have hran := ran_lbStep (user := false) (body := bodyTopoLoad env) (v := loadTopo (setBoxes s p q l) bs) h nofun (by rw [e, hbody, if_pos hok]; rfl)
      (by rw [e]; exact mbGet_of_doorless hdl _)
    have ht := hran.boxless_eq
    refine ⟨hran.self, ?_, ?_, ?_, fun d hlt => ?_⟩
    · exact (eq_of_view boxless (fun x => x.link.topo) (fun _ => rfl) ht).trans (eq_of_view doorless (fun x => x.link.topo) (fun _ => rfl) hdl)
    · exact (eq_of_view boxless State.nodeId (fun _ => rfl) ht).trans (eq_of_view doorless State.nodeId (fun _ => rfl) hdl)
    · change _ = (retopo (setBoxes s p q l) bs).nvm.topo
      exact (eq_of_view boxless (fun x => x.nvm.topo) (fun _ => rfl) ht).trans (eq_of_view doorless (fun x => x.nvm.topo) (fun _ => rfl) hdl)
    · have hdoor := doorOf_congr (eq_of_view boxless (fun x => x.link.doors) (fun _ => rfl) ht) d
      exact (congrArg (fun x : Door => decide (x.state = .open_)) hdoor).trans (doorOpen_loadTopo (setBoxes s p q l) bs hlt (hd d hlt))
  · next hbad => exact ran_of_body h nofun fun p q l => by rw [hbody, if_neg hbad]; rfl

/-! ### TOPO_QUERY and LINK_QUERY -/

theorem topoQuery_ok (hS : isS s = false) (h : Taken s (.priv k) 0x91) :
    ∃ t, exec (.topoQuery (.priv k)) s = .next t ∧ Ran s t (.priv k) .ok (match s.link.topo with
      | some tp => [s.nodeId.toNat, tp.mode, tp.check.toNat] | none => [s.nodeId.toNat, 0, 0]) s :=
  ⟨_, rfl, ran_onLinks hS h fun _ _ _ => rfl⟩

theorem linkQuery_answer (hS : isS s = false) (h : Taken s (.priv k) 0x94) :
    ∃ t, exec (.linkQuery (.priv k)) s = .next t ∧
      (if argOf s (.priv k) 0 ≤ 15 then Ran s t (.priv k) .ok [(readDoor s (argOf s (.priv k) 0) 0).toNat,
        (doorOf s (argOf s (.priv k) 0)).fecCorr.toNat, (doorOf s (argOf s (.priv k) 0)).fecUnc.toNat] s
       else Ran s t (.priv k) .invalid [] s) := by
  refine ⟨_, rfl, ?_⟩
  split
  · next hle => exact ran_onLinks hS h fun _ _ _ => if_neg (Nat.not_lt.2 hle)
  · next hgt => exact ran_onLinks hS h fun _ _ _ => if_pos (Nat.not_le.1 hgt)

/-! ### LINK_OPEN (R438) -/

/-- States that agree but for Doors, Corridor counters, mailboxes and what events change. -/
theorem boxless_of_doorless {s t v : State} (hv : doorless v = doorless s) (ht : boxless t = boxless v) :
    boxless v = boxless { s with link := { s.link with doors := t.link.doors }, corr := t.corr } := by
  have hd : t.link.doors = v.link.doors := eq_of_view boxless (fun x => x.link.doors) (fun _ => rfl) ht
  have hc : t.corr = v.corr := eq_of_view boxless State.corr (fun _ => rfl) ht
  rw [hd, hc]
  exact congrArg (fun x : State => boxless { x with link := { x.link with doors := v.link.doors }, corr := v.corr })
    (a₁ := doorless v) (a₂ := doorless s) hv

theorem linkOpen_ok (hS : isS s = false) (h : Taken s (.priv k) 0x92) :
    ∃ t, exec (.linkOpen (.priv k)) s = .next t ∧ Ran s t (.priv k) .ok [] { s with
        link := { s.link with doors := t.link.doors }, corr := t.corr } ∧
      (∀ d < 16, (argOf s (.priv k) 0).testBit d = false → doorOf t d = doorOf s d) ∧
      (∀ d < 16, (argOf s (.priv k) 0).testBit d = true → (doorOf s d).state = .down ∨ (doorOf s d).state = .disabled →
        doorOf t d = { doorOf s d with state := .training, retrains := 0 }) := by
  refine ⟨_, rfl, ?_⟩
  obtain ⟨p, q, l, e⟩ := begun_eq_setBoxes s (.priv k)
  have hdl := foldl_keeps doorless (doorless_startDoor (argOf s (.priv k) 0)) (List.range 16) (setBoxes s p q l)
  have hran := ran_lbStep (code := 0x92) (user := false)
    (body := onLinks fun s m => ((List.range 16).foldl (startDoor (reqArg m 0)) s, .ok)) h nofun
    (by rw [e]; exact onLinks_of_not_isS (s := setBoxes s p q l) _ _ hS)
    (by rw [e]; exact mbGet_of_doorless hdl _)
  have ht := hran.boxless_eq
  have hdoor := doorOf_congr (eq_of_view boxless (fun x => x.link.doors) (fun _ => rfl) ht)
  have hstart := fun d hd => startDoors_started (argOf s (.priv k) 0) (setBoxes s p q l) (d := d) hd
  refine ⟨hran.congr ?_, fun d hd hb => ?_, fun d hd hb hst => ?_⟩
  · exact (boxless_of_doorless (s := setBoxes s p q l) hdl ht).trans rfl
  · exact (hdoor d).trans ((hstart d hd).1 hb)
  · exact (hdoor d).trans ((hstart d hd).2 hb hst)

/-! ### LINK_CLOSE (R439) -/

/-- LINK_CLOSE's rule. -/
def closeBody (s : State) (m : Mailbox) : State × Ans :=
  let ds := (maskDoors (reqArg m 0)).filter (doorOpen s)
  if s.link.reqs.any (fun r => match r.door with | some d => ds.contains d | none => false) ||
      ds.any (fun d => (doorOf s d).partTx.any (fun e => !e.2.isEmpty)) then (s, .wait)
  else (ds.foldl closeDoor s, .ok)

theorem linkClose_exec : exec (.linkClose (.priv k)) s = .next (lbStep (.priv k) 0x93 false (onLinks closeBody) s) := rfl

theorem closeBody_waits {m : Mailbox} {ds : List Nat} (hds : ds = (maskDoors (reqArg m 0)).filter (doorOpen s))
    (h : (∃ r ∈ s.link.reqs, ∃ d ∈ ds, r.door = some d) ∨ ∃ d ∈ ds, ∃ e ∈ (doorOf s d).partTx, e.2 ≠ []) :
    closeBody s m = (s, .wait) := by
  unfold closeBody
  rw [← hds]
  refine if_pos (Bool.or_eq_true_iff.2 (h.imp ?_ ?_))
  · rintro ⟨r, hr, d, hd, hrd⟩
    exact List.any_eq_true.2 ⟨r, hr, by simp [hrd, hd]⟩
  · rintro ⟨d, hd, e, he, hne⟩
    exact List.any_eq_true.2 ⟨d, hd, List.any_eq_true.2 ⟨e, he, by simp [hne]⟩⟩

theorem closeBody_closes {m : Mailbox} {ds : List Nat} (hds : ds = (maskDoors (reqArg m 0)).filter (doorOpen s))
    (hreq : ∀ r ∈ s.link.reqs, ∀ d ∈ ds, r.door ≠ some d) (hpart : ∀ d ∈ ds, ∀ e ∈ (doorOf s d).partTx, e.2 = []) :
    closeBody s m = (ds.foldl closeDoor s, .ok) := by
  unfold closeBody
  rw [← hds]
  refine if_neg (Bool.eq_false_iff.1 (Bool.or_eq_false_iff.2
    ⟨List.any_eq_false.2 fun r hr => ?_, List.any_eq_false.2 fun d hd => ?_⟩))
  · cases hd : r.door with
    | none => simp
    | some d => simpa using fun hin => hreq r hr d hin hd
  · simpa using fun i b hb => hpart d hd (i, b) hb

theorem linkClose_waits (ds : List Nat) (hS : isS s = false) (h : Taken s (.priv k) 0x93)
    (hds : ds = (maskDoors (argOf s (.priv k) 0)).filter (doorOpen s))
    (hw : (∃ r ∈ s.link.reqs, ∃ d ∈ ds, r.door = some d) ∨ ∃ d ∈ ds, ∃ e ∈ (doorOf s d).partTx, e.2 ≠ []) :
    ∃ t, exec (.linkClose (.priv k)) s = .next t ∧ LbWaits s t (.priv k) :=
  ⟨_, linkClose_exec, lbWaits_onLinks hS h fun p q l => closeBody_waits (s := setBoxes s p q l) hds hw⟩

theorem linkClose_ok (ds : List Nat) (hS : isS s = false) (h : Taken s (.priv k) 0x93)
    (hds : ds = (maskDoors (argOf s (.priv k) 0)).filter (doorOpen s))
    (hreq : ∀ r ∈ s.link.reqs, ∀ d ∈ ds, r.door ≠ some d) (hpart : ∀ d ∈ ds, ∀ e ∈ (doorOf s d).partTx, e.2 = []) :
    ∃ t, exec (.linkClose (.priv k)) s = .next t ∧ Ran s t (.priv k) .ok [] t ∧
      (∀ d ∈ ds, (doorOf t d).state = .trained ∧ (doorOf t d).sendQ = [] ∧ (doorOf t d).replay = (doorOf s d).replay) ∧
      t.mem.data = s.mem.data := by
  refine ⟨_, linkClose_exec, ?_⟩
  obtain ⟨p, q, l, e⟩ := begun_eq_setBoxes s (.priv k)
  obtain ⟨hmem, hmb⟩ := closeDoors_keeps ds (setBoxes s p q l)
  have hran := ran_lbStep (user := false) (body := onLinks closeBody) h nofun
    (by rw [e, onLinks_of_not_isS (s := setBoxes s p q l) _ _ hS]; exact closeBody_closes (s := setBoxes s p q l) hds hreq hpart)
    (by rw [e]; exact hmb _)
  have ht := hran.boxless_eq
  refine ⟨hran.self, fun d hd => ?_, ?_⟩
  · rw [doorOf_congr (eq_of_view boxless (fun x => x.link.doors) (fun _ => rfl) ht) d]
    have hnd : ds.Nodup := hds ▸ (List.nodup_range.filter _).filter _
    have hopen : doorOpen s d = true := by rw [hds] at hd; exact (List.mem_filter.1 hd).2
    exact closeDoors_closed ds (setBoxes s p q l) hnd hd (of_decide_eq_true hopen)
  · rw [eq_of_view boxless State.mem (fun _ => rfl) ht, hmem]; rfl

/-! ### Exports (R417, R418) -/

theorem exportSet_ok (c : Context) (va n : Nat) (hS : isS s = false) (h : Taken s (.priv k) 0x95)
    (hc : ctxOf s (argOf s (.priv k) 1) = some c) (hk : argOf s (.priv k) 0 ≤ 63) (hva : va = argOf s (.priv k) 2)
    (hn : n = argOf s (.priv k) 3) (hn0 : n ≠ 0) (hal : va % 0x10000 = 0) (hend : va + n * 0x10000 ≤ 2 ^ 48)
    (hpages : ∀ i < n, exportPage c ((argOf s (.priv k) 4).testBit 2) (va + i * 0x10000) = none) :
    ∃ t, exec (.exportSet (.priv k)) s = .next t ∧ Ran s t (.priv k) .ok [] { s with
      link := { s.link with
        exports := bankPut s.link.exports (argOf s (.priv k) 0) ⟨argOf s (.priv k) 1, va, n,
        (argOf s (.priv k) 4).testBit 0, (argOf s (.priv k) 4).testBit 1, (argOf s (.priv k) 4).testBit 2,
        argOf s (.priv k) 5 % 65536, argOf s (.priv k) 5 / 65536 % 65536⟩ } } := by
  have hargs : ¬ (63 < argOf s (.priv k) 0 ∨ n = 0 ∨ va % 0x10000 ≠ 0 ∨ 2 ^ 48 < va + n * 0x10000) := by omega
  have hfind : (List.range n).findSome? (fun i => exportPage c ((argOf s (.priv k) 4).testBit 2) (va + i * 0x10000)) = none :=
    List.findSome?_eq_none_iff.2 fun i hi => hpages i (List.mem_range.1 hi)
  subst hva hn
  refine ⟨_, rfl, ran_onLinks hS h fun p q l => ?_⟩
  unfold argOf at hc hargs hfind
  simp only [ctxOf_setBoxes, hc, hargs, hfind, if_false]
  rfl

theorem exportClear_answer (x : Export) (hS : isS s = false) (h : Taken s (.priv k) 0x96)
    (hx : bankFind s.link.exports (argOf s (.priv k) 0) = some x) :
    ((∃ m ∈ s.link.atomq, m.addr / 2 ^ 42 % 64 = argOf s (.priv k) 0) →
      ∃ t, exec (.exportClear (.priv k)) s = .next t ∧ LbWaits s t (.priv k)) ∧
    ((∀ m ∈ s.link.atomq, m.addr / 2 ^ 42 % 64 ≠ argOf s (.priv k) 0) →
      ∃ t, exec (.exportClear (.priv k)) s = .next t ∧ Ran s t (.priv k) .ok [] { s with
        link := { s.link with exports := bankErase s.link.exports (argOf s (.priv k) 0) } }) := by
  have hsome : ¬ (bankFind s.link.exports (argOf s (.priv k) 0)).isNone = true := by simp [hx]
  refine ⟨fun hq => ⟨_, rfl, lbWaits_onLinks hS h fun p q l => ?_⟩, fun hq => ⟨_, rfl, ran_onLinks hS h fun p q l => ?_⟩⟩
  · have hany : s.link.atomq.any (fun m => decide (m.addr / 2 ^ 42 % 64 = argOf s (.priv k) 0)) = true := by simpa using hq
    exact (if_neg hsome).trans (if_pos hany)
  · have hany : ¬ s.link.atomq.any (fun m => decide (m.addr / 2 ^ 42 % 64 = argOf s (.priv k) 0)) = true := by simpa using hq
    exact (if_neg hsome).trans (if_neg hany)

/-! ### Truss groups (R442, R443) -/

/-- The table of a TRUSS_GROUP can be read: what it says decides the answer (R443). -/
theorem bodyTrussGroup_read {m : Mailbox} {bs : List Byte} (hg : reqArg m 0 ≤ 255) (h1 : 1 ≤ reqArg m 2) (h2 : reqArg m 2 ≤ 65536)
    (hspan : paSpan s (reqArg m 1) (4 * reqArg m 2) = true) (hclean : CleanRead s env (reqArg m 1) (4 * reqArg m 2))
    (hbs : bs = s.mem.data.read (reqArg m 1) (4 * reqArg m 2)) :
    bodyTrussGroup env s m =
      let other := (parseGroup bs (reqArg m 2)).any fun e => decide (e.1 ≠ s.nodeId.toNat)
      if other && isS s then refuse s .linkAbsent
      else if other && s.link.topo.isNone then refuse s .invalid
      else if groupBusy s (reqArg m 0) then refuse s .busy
      else ({ s with link := { s.link with groups := bankPut s.link.groups (reqArg m 0) ⟨parseGroup bs (reqArg m 2), crc32 bs⟩ } },
        .done .ok [(crc32 bs).toNat]) := by
  have hargs : ¬ (255 < reqArg m 0 ∨ reqArg m 2 = 0 ∨ 65536 < reqArg m 2) := by omega
  unfold bodyTrussGroup
  dsimp only
  rw [if_neg hargs, readTable_clean hspan hclean, ← hbs]

theorem trussGroup_absent (n : Nat) (bs : List Byte) (hS : isS s = true) (h : Taken s (.priv k) 0x98) (hn : n = argOf s (.priv k) 2)
    (hg : argOf s (.priv k) 0 ≤ 255) (h1 : 1 ≤ n) (h2 : n ≤ 65536) (hspan : paSpan s (argOf s (.priv k) 1) (4 * n) = true)
    (hclean : CleanRead s env (argOf s (.priv k) 1) (4 * n)) (hbs : bs = s.mem.data.read (argOf s (.priv k) 1) (4 * n))
    (hother : ∃ e ∈ parseGroup bs n, e.1 ≠ s.nodeId.toNat) :
    ∃ t, exec (.trussGroup (.priv k) env) s = .next t ∧ Ran s t (.priv k) .linkAbsent [] s := by
  subst hn
  have hany : ((parseGroup bs (argOf s (.priv k) 2)).any (fun e => decide (e.1 ≠ s.nodeId.toNat)) && isS s) = true := by
    simpa [hS] using hother
  exact ⟨_, rfl, ran_of_body h nofun fun p q l =>
    (bodyTrussGroup_read (s := setBoxes s p q l) hg h1 h2 hspan hclean hbs).trans (if_pos hany)⟩

theorem trussGroup_ok (g n : Nat) (bs : List Byte) (h : Taken s (.priv k) 0x98) (hgm : g = argOf s (.priv k) 0)
    (hn : n = argOf s (.priv k) 2) (hg : g ≤ 255) (h1 : 1 ≤ n) (h2 : n ≤ 65536)
    (hspan : paSpan s (argOf s (.priv k) 1) (4 * n) = true) (hclean : CleanRead s env (argOf s (.priv k) 1) (4 * n))
    (hbs : bs = s.mem.data.read (argOf s (.priv k) 1) (4 * n)) (hown : ∀ e ∈ parseGroup bs n, e.1 = s.nodeId.toNat)
    (hbusy : groupBusy s g = false) :
    ∃ t, exec (.trussGroup (.priv k) env) s = .next t ∧ Ran s t (.priv k) .ok [(crc32 bs).toNat] { s with
      link := { s.link with groups := bankPut s.link.groups g ⟨parseGroup bs n, crc32 bs⟩ } } := by
  subst hgm hn
  have hother : (parseGroup bs (argOf s (.priv k) 2)).any (fun e => decide (e.1 ≠ s.nodeId.toNat)) = false :=
    List.any_eq_false.2 fun e he => by simp [hown e he]
  have hhere (b : Bool) : ¬ ((parseGroup bs (argOf s (.priv k) 2)).any (fun e => decide (e.1 ≠ s.nodeId.toNat)) && b) = true := by
    simp only [hother, Bool.false_and, Bool.false_eq_true, not_false_eq_true]
  exact ⟨_, rfl, ran_of_body h nofun fun p q l => (bodyTrussGroup_read (s := setBoxes s p q l) hg h1 h2 hspan hclean hbs).trans <|
    (if_neg (hhere _)).trans <| (if_neg (hhere _)).trans <| if_neg (Bool.eq_false_iff.1 hbusy)⟩

theorem trussClear_answer (x : Group) (h : Taken s (.priv k) 0x9A) (hx : bankFind s.link.groups (argOf s (.priv k) 0) = some x) :
    ∃ t, exec (.trussClear (.priv k)) s = .next t ∧
      (if groupBusy s (argOf s (.priv k) 0) then Ran s t (.priv k) .busy [] s
       else Ran s t (.priv k) .ok [] { s with link := { s.link with groups := bankErase s.link.groups (argOf s (.priv k) 0) } }) := by
  have hsome : ¬ (bankFind s.link.groups (argOf s (.priv k) 0)).isNone = true := by simp [hx]
  refine ⟨_, rfl, ?_⟩
  split
  · next hb => exact ran_of_body h nofun fun _ _ _ => (if_neg hsome).trans (if_pos hb)
  · next hb => exact ran_of_body h nofun fun _ _ _ => (if_neg hsome).trans (if_neg hb)

/-! ### TRUSS_BIND (R442, R444) -/

theorem onQueue_priv {f : State → Mailbox → Nat → Queue → State × Ans} {m : Mailbox} {x : Queue} (hx : queueOf s (reqArg m 0) = some x) :
    onQueue (.priv k) f s m = f s m (reqArg m 0) x := by
  simp [onQueue, hx, mbOwns]

theorem modQueue_of_find {n : Nat} {x : Queue} (f : Queue → Queue) (hx : queueOf s n = some x) :
    modQueue s n f = { s with queues := bankPut s.queues n (f x) } := by
  unfold modQueue
  rw [show bankFind s.queues n = some x from hx]

/-- The count of a group's partials restarts: nothing else changes, whatever the mailboxes hold. -/
theorem restartGroup_setBoxes (s : State) (p q : Bank Mailbox) (l g : Nat) :
    restartGroup (setBoxes s p q l) g = setBoxes { s with
      link := { s.link with kths := (restartGroup s g).link.kths, timedOut := (restartGroup s g).link.timedOut } } p q l := by
  have hb : groupBound (setBoxes s p q l) g = groupBound s g := rfl
  unfold restartGroup
  rw [hb]
  split <;> rfl

/-- A queue is bound to a group (R442): the queue's entry is y, and the count of the group's partials restarts where it was unbound. -/
def boundTo (s : State) (n g : Nat) (y : Queue) : State :=
  { s with
    queues := bankPut s.queues n y,
    link := { s.link with kths := (restartGroup s g).link.kths, timedOut := (restartGroup s g).link.timedOut } }

theorem modQueue_restartGroup {n : Nat} {x : Queue} (f : Queue → Queue) (hx : queueOf s n = some x) (g : Nat) (p q : Bank Mailbox) (l : Nat) :
    modQueue (restartGroup (setBoxes s p q l) g) n f = setBoxes (boundTo s n g (f x)) p q l := by
  rw [restartGroup_setBoxes]
  exact modQueue_of_find f hx

theorem trussBind_answer (x : Queue) (n : Nat) (h : Taken s (.priv k) 0x99) (hn : n = argOf s (.priv k) 0) (hx : queueOf s n = some x) :
    ((argOf s (.priv k) 1).testBit 8 = true → ∃ t, exec (.trussBind (.priv k)) s = .next t ∧
      Ran s t (.priv k) .ok [] { s with queues := bankPut s.queues n { x with group := none } }) ∧
    ((argOf s (.priv k) 1).testBit 8 = false → bankFind s.link.groups (argOf s (.priv k) 1 % 256) = none →
      ∃ t, exec (.trussBind (.priv k)) s = .next t ∧ Ran s t (.priv k) .noObject [] s) ∧
    (∀ g, (argOf s (.priv k) 1).testBit 8 = false → bankFind s.link.groups (argOf s (.priv k) 1 % 256) = some g →
      ∃ t, exec (.trussBind (.priv k)) s = .next t ∧ Ran s t (.priv k) .ok [] { s with
        queues := bankPut s.queues n { x with group := some (argOf s (.priv k) 1 % 256) },
        link := { s.link with kths := t.link.kths, timedOut := t.link.timedOut } }) := by
  subst hn
  refine ⟨fun h8 => ⟨_, rfl, ?_⟩, fun h8 hg => ⟨_, rfl, ?_⟩, fun g h8 hg => ⟨_, rfl, ?_⟩⟩
  · refine ran_of_body h nofun fun p q l => (onQueue_priv (s := setBoxes s p q l) hx).trans <| (if_pos h8).trans ?_
    exact congrArg (·, Ans.ok) (modQueue_of_find (s := setBoxes s p q l) _ hx)
  · have hnone : (bankFind s.link.groups (argOf s (.priv k) 1 % 256)).isNone = true := by rw [hg]; rfl
    exact ran_of_body h nofun fun p q l => (onQueue_priv (s := setBoxes s p q l) hx).trans <|
      (if_neg (Bool.eq_false_iff.1 h8)).trans (if_pos hnone)
  · have hsome : ¬ (bankFind s.link.groups (argOf s (.priv k) 1 % 256)).isNone = true := by rw [hg]; simp
    refine (ran_of_body h nofun fun p q l => (onQueue_priv (s := setBoxes s p q l) hx).trans <|
      (if_neg (Bool.eq_false_iff.1 h8)).trans <| (if_neg hsome).trans <|
        congrArg (·, Ans.ok) (modQueue_restartGroup _ hx _ p q l)).congr_end fun ht => ?_
    rw [eq_of_view boxless State.link (fun _ => rfl) ht]
    rfl

end

/-- Settles O59: one lemma for each command, on KX1-S and on KX1-L. -/
theorem linkAndTrussCommandsAnswer : Obligations.LinkAndTrussCommandsAnswer := by
  unfold Obligations.LinkAndTrussCommandsAnswer
  intro s k env
  refine ⟨fun c code hc hS h => ?_, ?_, fun hS => ⟨?_, ?_, ?_, ?_, ?_, ?_, ?_, ?_⟩, ?_, ?_, ?_⟩
  · obtain ⟨body, he⟩ := linkCommand_exec hc
    exact ⟨_, he, ran_onLinks_absent body hS h⟩
  · exact fun n bs hS h => trussGroup_absent n bs hS h
  · exact fun h ho => ⟨_, rfl, topoLoad_busy hS h ho⟩
  · exact fun pa bs h => topoLoad_unstored pa bs hS h
  · exact topoQuery_ok hS
  · exact linkOpen_ok hS
  · exact fun ds h hds => ⟨linkClose_waits ds hS h hds, linkClose_ok ds hS h hds⟩
  · exact linkQuery_answer hS
  · exact fun c va n h => exportSet_ok c va n hS h
  · exact fun x h => exportClear_answer x hS h
  · exact fun g n bs h => trussGroup_ok g n bs h
  · exact fun q n h => trussBind_answer q n h
  · exact fun x h => trussClear_answer x h

end Sys2Proof.Machine

/-!
Heaters, AUX outputs and generators as banks, and what forming u does to one channel (R157, R175): said once for the Radiator's tick and for
the lock-in loop.
-/

namespace Sys2Proof.Machine

open Sys2Proof

/-! ### Entries of a bank -/

/-- A written entry is the new one; the others stay. -/
theorem bankGet_put {α : Type} (b : Bank α) (d : α) (i j : Nat) (x : α) :
    bankGet (bankPut b i x) d j = if j = i then x else bankGet b d j := by
  unfold bankGet
  split
  · subst j; rw [bankFind_put_same]; rfl
  · rw [bankFind_put_other _ _ ‹_›]

/-- A change of every entry that takes the default to d' is a change of what is read. -/
theorem bankGet_map {α β : Type} (f : α → β) (b : Bank α) {d : α} {d' : β} (hd : f d = d') (i : Nat) :
    bankGet (b.map fun e => (e.1, f e.2)) d' i = f (bankGet b d i) := by
  unfold bankGet
  rw [bankFind_map]
  cases bankFind b i with
  | none => exact hd.symm
  | some x => rfl

/-- An array of n units listed in full. -/
theorem bankGet_range {α : Type} (f : Nat → α) (d : α) {n i : Nat} (h : i < n) :
    bankGet ((List.range n).map fun k => (k, f k)) d i = f i := by
  have hfind : ∀ l : List Nat, i ∈ l → bankFind (l.map fun k => (k, f k)) i = some (f i) := by
    intro l
    induction l with
    | nil => simp
    | cons k l ih =>
      intro hi
      simp only [List.map_cons, bankFind]
      split
      · subst k; rfl
      · exact ih ((List.mem_cons.1 hi).resolve_left fun e => ‹¬ k = i› e.symm)
  rw [bankGet, hfind _ (List.mem_range.2 h)]
  rfl

/-- What is read of an array is the default or one of its entries. -/
theorem bankGet_cases {α : Type} (b : Bank α) (d : α) (i : Nat) : bankGet b d i = d ∨ ∃ e ∈ b, e.2 = bankGet b d i := by
  unfold bankGet
  cases h : bankFind b i with
  | none => exact .inl rfl
  | some x => exact .inr ⟨_, bankFind_mem h, rfl⟩

/-! ### Heaters -/

/-- A written heater is the new one; the others stay. -/
theorem heaterOf_putHeater (t : Thermo) (h k : Nat) (x : Heater) :
    heaterOf (putHeater t h x) k = if k = h then x else heaterOf t k := by
  unfold heaterOf putHeater
  simp only [bankGet_put]
  by_cases hw : k / 32768 = h / 32768
  · simp only [hw, if_true, bankGet_put]
    by_cases hc : k % 32768 = h % 32768
    · rw [if_pos hc, if_pos (by omega)]
    · rw [if_neg hc, if_neg fun e => hc (congrArg (· % 32768) e)]
  · rw [if_neg hw, if_neg fun e => hw (congrArg (· / 32768) e)]

/-- DCLAMP's update as a change of the flags alone. -/
theorem setClamp_eq (t : Thermo) (c : Bool) : setClamp t c = { t with flags := if c then t.flags ||| 4 else t.flags } := by
  cases c <;> rfl

/-- A heater written with its u formed anew; the others stay. -/
theorem heaterOf_formHeater (t : Thermo) (h k : Nat) (x : Heater) :
    heaterOf (formHeater t h x) k = if k = h then (Heater.form t x).1 else heaterOf t k := by
  unfold formHeater
  rw [setClamp_eq]
  exact heaterOf_putHeater ..

/-! ### Forming u (R157) -/

/-- Forming u changes OUT and u alone. -/
theorem Heater.form_eq (t : Thermo) (x : Heater) :
    (Heater.form t x).1 = { x with out := (Heater.form t x).1.out, u := (Heater.form t x).1.u } := by
  unfold Heater.form Heater.parked
  repeat' split
  all_goals rfl

@[simp] theorem Heater.form_code (t : Thermo) (x : Heater) : (Heater.form t x).1.code = x.code := by rw [Heater.form_eq]
@[simp] theorem Heater.form_sc (t : Thermo) (x : Heater) : (Heater.form t x).1.sc = x.sc := by rw [Heater.form_eq]
@[simp] theorem Heater.form_den (t : Thermo) (x : Heater) : (Heater.form t x).1.den = x.den := by rw [Heater.form_eq]
@[simp] theorem Heater.form_dsel (t : Thermo) (x : Heater) : (Heater.form t x).1.dsel = x.dsel := by rw [Heater.form_eq]

theorem Heater.form_parked {t : Thermo} {x : Heater} (hn : t.nvmOk = true) (hp : (x.sc || t.parkAll) = true) :
    Heater.form t x = (x.parked, false) := by
  simp [Heater.form, hn, hp]

/-- u is OUT + d limited to 16 bits, and a limit that acts is told. -/
theorem clampU_spec (out : BitVec 16) (d : Int) :
    ((clampU out d).1.toNat : Int) = max 0 (min 65535 ((out.toNat : Int) + d)) ∧
      ((out.toNat : Int) + d < 0 ∨ 65535 < (out.toNat : Int) + d → (clampU out d).2 = true) := by
  unfold clampU
  dsimp only
  split
  · exact ⟨by simp; omega, fun _ => rfl⟩
  · split
    · exact ⟨by simp; omega, fun _ => rfl⟩
    · refine ⟨?_, by omega⟩
      rw [BitVec.toNat_ofInt]
      omega

/-- R157 for a channel that is not parked: u from OUT and the generator's output d, with DCLAMP among the flags on a clamp. -/
def Dithers (flags : BitVec 6) (den : Bool) (d : Int) (out u : BitVec 16) : Prop :=
  (den = false → u = out) ∧ (den = true → (u.toNat : Int) = max 0 (min 65535 ((out.toNat : Int) + d)) ∧
    ((out.toNat : Int) + d < 0 ∨ 65535 < (out.toNat : Int) + d → flags.getLsbD 2 = true))

theorem dithers_off (flags : BitVec 6) (d : Int) (out : BitVec 16) : Dithers flags false d out out := ⟨fun _ => rfl, nofun⟩

theorem dithers_on {flags : BitVec 6} {d : Int} {out : BitVec 16} (h : (clampU out d).2 = true → flags.getLsbD 2 = true) :
    Dithers flags true d out (clampU out d).1 :=
  ⟨nofun, fun _ => ⟨(clampU_spec out d).1, fun hd => h ((clampU_spec out d).2 hd)⟩⟩

theorem Heater.form_out {t : Thermo} {x : Heater} (hn : t.nvmOk = true) (hp : (x.sc || t.parkAll) = false) :
    (Heater.form t x).1.out = x.out := by
  cases hd : x.den <;> simp [Heater.form, hn, hp, hd]

/-- A channel that is not parked keeps OUT and takes u from it (R157). -/
theorem Heater.form_open {t : Thermo} {x : Heater} {flags : BitVec 6} (hn : t.nvmOk = true) (hp : (x.sc || t.parkAll) = false)
    (hc : (Heater.form t x).2 = true → flags.getLsbD 2 = true) :
    (Heater.form t x).1.out = x.out ∧ Dithers flags x.den (sgOf t x.dsel.toNat).d x.out (Heater.form t x).1.u := by
  cases hd : x.den with
  | false => simpa [Heater.form, hn, hp, hd] using dithers_off ..
  | true =>
    have hform : Heater.form t x =
        ({ x with u := (clampU x.out (sgOf t x.dsel.toNat).d).1 }, (clampU x.out (sgOf t x.dsel.toNat).d).2) := by
      simp [Heater.form, hn, hp, hd]
    rw [hform] at hc ⊢
    exact ⟨rfl, hd ▸ dithers_on hc⟩

theorem Aux.form_eq (t : Thermo) (n : Nat) (x : Aux) :
    (Aux.form t n x).1 = { x with out := (Aux.form t n x).1.out, u := (Aux.form t n x).1.u } := by
  unfold Aux.form Aux.parked
  repeat' split
  all_goals rfl

theorem Aux.form_parked {t : Thermo} {x : Aux} (n : Nat) (hn : t.nvmOk = true) (hp : t.parkAll = true) :
    Aux.form t n x = (x.parked, false) := by
  simp [Aux.form, hn, hp]

theorem Aux.form_open {t : Thermo} {x : Aux} {n : Nat} {flags : BitVec 6} (hn : t.nvmOk = true) (hp : t.parkAll = false)
    (hc : (Aux.form t n x).2 = true → flags.getLsbD 2 = true) :
    (Aux.form t n x).1.out = x.out ∧ Dithers flags x.den (agOf t n).d x.out (Aux.form t n x).1.u := by
  cases hd : x.den with
  | false => simpa [Aux.form, hn, hp, hd] using dithers_off ..
  | true =>
    have hform : Aux.form t n x = ({ x with u := (clampU x.out (agOf t n).d).1 }, (clampU x.out (agOf t n).d).2) := by
      simp [Aux.form, hn, hp, hd]
    rw [hform] at hc ⊢
    exact ⟨rfl, hd ▸ dithers_on hc⟩

end Sys2Proof.Machine

/-!
The Radiator's tick (R156, R157, R161 to R163, R175): the one-bit modulators, one channel, the generators, and the obligation O43.
-/

namespace Sys2Proof.Machine

open Sys2Proof

/-! ### The one-bit modulators (R156) -/

/-- The sums of a modulator's bits lie within its bounds, and these within R156's span of 4 × 65,536. -/
def Modulator.Bounded (m : Modulator) : Prop := m.lo ≤ m.acc ∧ m.acc ≤ m.hi ∧ m.hi - m.lo ≤ 262144

/-- A modulator whose sum reaches v. -/
def Modulator.reach (m : Modulator) (v : Int) (bits : BitVec 32) : Modulator :=
  { m with acc := v, lo := min m.lo v, hi := max m.hi v, bits := bits }

/-- A bit is 1 only where that keeps R156's span, and 0 only where that keeps it or 1 does not. -/
theorem Modulator.bit_cases (tick : Nat) (m : Modulator) (j : Nat) :
    (m.fits (m.acc + m.u.toNat - 65536) = true ∧
      m.bit tick j = m.reach (m.acc + m.u.toNat - 65536) (m.bits ||| BitVec.ofNat 32 (2 ^ j))) ∨
    ((m.fits (m.acc + m.u.toNat - 65536) = false ∨ m.fits (m.acc + m.u.toNat) = true) ∧
      m.bit tick j = m.reach (m.acc + m.u.toNat) m.bits) := by
  unfold Modulator.bit
  dsimp only
  split
  · exact .inl ⟨(Bool.and_eq_true_iff.1 ‹_›).1, rfl⟩
  · refine .inr ⟨?_, rfl⟩
    rename_i h
    revert h
    cases m.fits (m.acc + m.u.toNat - 65536) <;> cases m.fits (m.acc + m.u.toNat) <;> simp

theorem Modulator.Bounded.reach {m : Modulator} {v : Int} (h : m.fits v = true) (bits : BitVec 32) : (m.reach v bits).Bounded :=
  ⟨min_le_right .., le_max_right .., of_decide_eq_true h⟩

/-- Where 1 does not keep R156's span, 0 does: 1 takes the sum down, so it leaves the span only below, and 0 is then still under the
greatest sum. -/
theorem Modulator.Bounded.fits_zero {m : Modulator} (h : m.Bounded) (h1 : m.fits (m.acc + m.u.toNat - 65536) = false) :
    m.fits (m.acc + m.u.toNat) = true := by
  obtain ⟨hlo, hhi, hspan⟩ := h
  have hu : m.u.toNat < 65536 := m.u.isLt
  simp only [Modulator.fits, decide_eq_false_iff_not, decide_eq_true_eq] at h1 ⊢
  omega

theorem Modulator.Bounded.bit {m : Modulator} (h : m.Bounded) (tick j : Nat) : (m.bit tick j).Bounded := by
  rcases m.bit_cases tick j with ⟨h1, e⟩ | ⟨h0, e⟩ <;> rw [e]
  · exact .reach h1 _
  · exact .reach (h0.elim h.fits_zero id) _

/-- After n bits of a tick at one u: every bit adds u, every one takes 65,536 off, and the bits to come are 0. -/
def Modulator.Counts (m₀ : Modulator) (n : Nat) (m : Modulator) : Prop :=
  m.u = m₀.u ∧ m.acc = m₀.acc + n * (m₀.u.toNat : Int) - 65536 * ((List.range n).countP (m.bits.getLsbD ·) : Int) ∧
    ∀ j, n ≤ j → m.bits.getLsbD j = false

theorem getLsbD_setBit (bits : BitVec 32) {n : Nat} (hn : n < 32) (j : Nat) :
    (bits ||| BitVec.ofNat 32 (2 ^ n)).getLsbD j = (bits.getLsbD j || decide (j = n)) := by
  rw [BitVec.getLsbD_or, BitVec.getLsbD_ofNat, Nat.testBit_two_pow]
  by_cases e : j = n
  · subst j; simp [hn]
  · simp [e, Ne.symm e]

theorem Modulator.Counts.bit {m₀ m : Modulator} {n : Nat} (h : m₀.Counts n m) (hn : n < 32) (tick : Nat) :
    m₀.Counts (n + 1) (m.bit tick n) := by
  obtain ⟨hu, hacc, hbits⟩ := h
  rcases m.bit_cases tick n with ⟨-, e⟩ | ⟨-, e⟩ <;> rw [e]
  · have hcount : (List.range n).countP (fun j => m.bits.getLsbD j || decide (j = n)) = (List.range n).countP (m.bits.getLsbD ·) :=
      List.countP_congr fun j hj => by simp [(List.mem_range.1 hj).ne]
    refine ⟨hu, ?_, fun j hj => ?_⟩
    · simp only [Modulator.reach, getLsbD_setBit _ hn, List.range_succ, List.countP_append, hcount, hacc, hu, List.countP_singleton,
        decide_true, Bool.or_true, if_true]
      push_cast
      ring
    · simp only [Modulator.reach, getLsbD_setBit _ hn, hbits j (by omega), Bool.false_or, decide_eq_false_iff_not]
      omega
  · refine ⟨hu, ?_, fun j hj => hbits j (by omega)⟩
    simp only [Modulator.reach, List.range_succ, List.countP_append, hacc, hu, List.countP_singleton, hbits n le_rfl]
    push_cast
    ring

/-- The bits of a tick, one after the other. -/
theorem Modulator.counts_foldl {m₀ : Modulator} (h0 : m₀.bits = 0) (tick : Nat) :
    ∀ n ≤ 32, m₀.Counts n ((List.range n).foldl (Modulator.bit tick) m₀)
  | 0, _ => ⟨rfl, by simp, fun j _ => by simp [h0]⟩
  | n + 1, hn => by
    rw [List.range_succ, List.foldl_append]
    exact (Modulator.counts_foldl h0 tick n (by omega)).bit (by omega) tick

/-- The modulator with which a tick at u begins: R156 counts anew after a change of u. -/
def Modulator.start (m : Modulator) (u : BitVec 16) : Modulator := if m.u = u then { m with bits := 0 } else ⟨u, 0, 0, 0, 0⟩

theorem Modulator.tick_eq (m : Modulator) (k : Nat) (u : BitVec 16) :
    m.tick k u = if u = 0 then m.start u else (List.range 32).foldl (Modulator.bit k) (m.start u) := rfl

theorem Modulator.start_bits (m : Modulator) (u : BitVec 16) : (m.start u).bits = 0 := by
  unfold Modulator.start; split <;> rfl

theorem Modulator.ones_of_bits {m : Modulator} (h : m.bits = 0) : m.ones = 0 := by simp [Modulator.ones, h]

/-- Code u = 0 gives no ones (R156). -/
theorem Modulator.tick_zero (m : Modulator) (k : Nat) : (m.tick k 0).ones = 0 := by
  rw [Modulator.tick_eq, if_pos rfl]
  exact Modulator.ones_of_bits (m.start_bits 0)

theorem Modulator.tick_acc {m : Modulator} {u : BitVec 16} (k : Nat) (h : m.u = u) :
    (m.tick k u).acc = m.acc + 32 * (u.toNat : Int) - 65536 * ((m.tick k u).ones : Int) := by
  have hstart : m.start u = { m with bits := 0 } := if_pos h
  by_cases h0 : u = 0
  · rw [h0, Modulator.tick_zero, ← h0, Modulator.tick_eq, if_pos h0, hstart]
    simp [h0]
  · obtain ⟨-, hacc, -⟩ := Modulator.counts_foldl (m.start_bits u) k 32 le_rfl
    rw [Modulator.tick_eq, if_neg h0, hacc, hstart]
    simp only [h, Modulator.ones]
    rfl

theorem Modulator.Bounded.tick {m : Modulator} (h : m.Bounded) (k : Nat) (u : BitVec 16) : (m.tick k u).Bounded := by
  have hstart : (m.start u).Bounded := by
    unfold Modulator.start
    split
    · exact h
    · simp [Modulator.Bounded]
  rw [Modulator.tick_eq]
  split
  · exact hstart
  · exact List.foldlRecOn _ _ hstart fun m hm j _ => hm.bit k j

/-! ### One channel at a tick (R157, R161, R162) -/

/-- OUT takes one step towards CODE at its profile's ticks and stops there. -/
theorem slewStep_eq (p : SlProf) (tick : Nat) (out code : BitVec 16) :
    slewStep p tick out code = if p.step = 0 then code else if tick % (p.slint.toNat + 1) ≠ 0 then out
      else if out.toNat < code.toNat then BitVec.ofNat 16 (min (out.toNat + p.step.toNat) code.toNat)
      else BitVec.ofNat 16 (max (out.toNat - p.step.toNat) code.toNat) := by
  unfold slewStep
  by_cases hlt : out.toNat < code.toNat
  · simp only [hlt, if_true]
  · by_cases hgt : code.toNat < out.toNat
    · simp only [hlt, hgt, if_true, if_false]
    · have heq : code.toNat = out.toNat := by omega
      have hmax : max (out.toNat - p.step.toNat) out.toNat = out.toNat := by omega
      simp only [heq, hmax, lt_irrefl, if_false, BitVec.ofNat_toNat, BitVec.setWidth_eq]

/-! ### The tick of the whole Radiator -/

/-- The block once every generator has output its d (R175). -/
def stepGens (t : Thermo) : Thermo :=
  { t with sg := t.sg.map (fun e => (e.1, Gen.step e.2)), ag := t.ag.map (fun e => (e.1, Gen.step e.2)) }

@[simp] theorem sgOf_stepGens (t : Thermo) (g : Nat) : sgOf (stepGens t) g = Gen.step (sgOf t g) :=
  bankGet_map (d := Gen.reset) Gen.step t.sg (by decide) g
@[simp] theorem agOf_stepGens (t : Thermo) (a : Nat) : agOf (stepGens t) a = Gen.step (agOf t a) :=
  bankGet_map (d := Gen.reset) Gen.step t.ag (by decide) a

/-- The heaters of a Window after their tick, and whether dither was clamped on one of them. -/
def tickBank (t : Thermo) (b : HeaterBank) : HeaterBank × Bool :=
  (⟨(Heater.tick t b.dflt).1, b.chans.map fun e => (e.1, (Heater.tick t e.2).1)⟩,
    (Heater.tick t b.dflt).2 || b.chans.any fun e => (Heater.tick t e.2).2)

/-- Whether dither was clamped on a channel. -/
def tickClamps (t : Thermo) : Bool :=
  (List.range 8).any (fun w => (tickBank t (bankGet t.heaters HeaterBank.reset w)).2) ||
    (List.range 4).any (fun a => (Aux.tick t a (auxOf t a)).2)

/-- The block after a tick, from the block t whose generators have output; RADPWR, the ones counted for it, RAMPDONE and the loops that
run are given. -/
def tickChannels (t : Thermo) (pwr : BitVec 16) (ones : Nat) (done : Bool) (on : BitVec 8) : Thermo :=
  { t with
    heaters := (List.range 8).map fun w => (w, (tickBank t (bankGet t.heaters HeaterBank.reset w)).1),
    aux := (List.range 4).map fun a => (a, (Aux.tick t a (auxOf t a)).1),
    radPwr := pwr, radOnes := ones, rampDone := done, loopOn := on, tick := t.tick + 1, slprofNow := t.slprof,
    flags := if tickClamps t then t.flags ||| 4 else t.flags }

/-- The check of RAMPDONE sets it and starts loops, nothing else. -/
theorem checkRamp_eq (s : State) : ∃ done on, checkRamp s = { s with thermo := { s.thermo with rampDone := done, loopOn := on } } ∧
    (s.thermo.rampDone = true → done = true) := by
  unfold checkRamp startLoops
  split
  · exact ⟨true, _, rfl, fun _ => rfl⟩
  · exact ⟨s.thermo.rampDone, s.thermo.loopOn, rfl, id⟩

/-- A tick of the Radiator changes the block alone; RAMPDONE stays once set. -/
theorem radTick_eq (s : State) : ∃ pwr ones done on,
    radTick s = { s with thermo := tickChannels (stepGens s.thermo) pwr ones done on } ∧ (s.thermo.rampDone = true → done = true) := by
  obtain ⟨pwr, ones, h⟩ : ∃ pwr ones, radTick s =
      checkRamp { s with thermo := tickChannels (stepGens s.thermo) pwr ones s.thermo.rampDone s.thermo.loopOn } :=
    ⟨_, _, by
      simp only [radTick, setClamp_eq, tickChannels, tickClamps, tickBank, stepGens, List.map_map, List.any_map, Function.comp_def]
      rfl⟩
  obtain ⟨done, on, hramp, hdone⟩ := checkRamp_eq _
  exact ⟨pwr, ones, done, on, h.trans hramp, hdone⟩

section
variable (t : Thermo) (pwr : BitVec 16) (ones : Nat) (done : Bool) (on : BitVec 8)

/-- Every heater takes its tick. -/
theorem heaterOf_tickChannels {h : Nat} (hh : h < 262144) :
    heaterOf (tickChannels t pwr ones done on) h = (Heater.tick t (heaterOf t h)).1 := by
  unfold heaterOf tickChannels
  dsimp only
  rw [bankGet_range (fun w => (tickBank t (bankGet t.heaters HeaterBank.reset w)).1) _ (by omega)]
  exact bankGet_map (fun x => (Heater.tick t x).1) _ rfl _

theorem auxOf_tickChannels {a : Nat} (ha : a < 4) : auxOf (tickChannels t pwr ones done on) a = (Aux.tick t a (auxOf t a)).1 :=
  bankGet_range (fun a => (Aux.tick t a (auxOf t a)).1) _ ha

theorem dclamp_tickChannels (h : tickClamps t = true) : (tickChannels t pwr ones done on).flags.getLsbD 2 = true := by
  simp [tickChannels, h]

theorem tickClamps_of_heater {h : Nat} (hh : h < 262144) (hc : (Heater.tick t (heaterOf t h)).2 = true) : tickClamps t = true := by
  refine Bool.or_eq_true_iff.2 (.inl (List.any_eq_true.2 ⟨h / 32768, List.mem_range.2 (by omega), Bool.or_eq_true_iff.2 ?_⟩))
  rcases bankGet_cases (bankGet t.heaters HeaterBank.reset (h / 32768)).chans (bankGet t.heaters HeaterBank.reset (h / 32768)).dflt
    (h % 32768) with e | ⟨e, he, hx⟩
  · exact .inl (by rw [heaterOf, e] at hc; exact hc)
  · exact .inr (List.any_eq_true.2 ⟨e, he, by rw [hx]; exact hc⟩)

theorem tickClamps_of_aux {a : Nat} (ha : a < 4) (hc : (Aux.tick t a (auxOf t a)).2 = true) : tickClamps t = true :=
  Bool.or_eq_true_iff.2 (.inr (List.any_eq_true.2 ⟨a, List.mem_range.2 ha, hc⟩))

end

/-! ### What a tick makes of a channel -/

/-- A heater after its slew and before u is formed. -/
def Heater.slewed (t : Thermo) (x : Heater) : Heater := { x with out := slewStep (profOf t x.prof.toNat) t.tick x.out x.code }

theorem Heater.tick_eq (t : Thermo) (x : Heater) :
    Heater.tick t x = ({ x with
      out := (Heater.form t (x.slewed t)).1.out, u := (Heater.form t (x.slewed t)).1.u,
      modu := x.modu.tick t.tick (Heater.form t (x.slewed t)).1.u }, (Heater.form t (x.slewed t)).2) := by
  unfold Heater.tick
  dsimp only
  rw [show ({ x with out := slewStep (profOf t x.prof.toNat) t.tick x.out x.code } : Heater) = x.slewed t from rfl, Heater.form_eq]
  rfl

/-- A tick changes OUT, u and the modulator alone. -/
theorem Heater.tick_keeps {t : Thermo} {x y : Heater} (h : y = (Heater.tick t x).1) :
    y.code = x.code ∧ y.park = x.park ∧ y.sc = x.sc ∧ y.den = x.den ∧ y.prof = x.prof ∧ y.dsel = x.dsel ∧
      y.modu = x.modu.tick t.tick y.u := by
  rw [Heater.tick_eq] at h
  subst h
  exact ⟨rfl, rfl, rfl, rfl, rfl, rfl, rfl⟩

theorem Heater.tick_parked {t : Thermo} {x : Heater} (hn : t.nvmOk = true) (hp : (x.sc || t.parkAll) = true) :
    (Heater.tick t x).1.out = x.park ∧ (Heater.tick t x).1.u = x.park := by
  rw [Heater.tick_eq, Heater.form_parked (x := x.slewed t) hn hp]
  exact ⟨rfl, rfl⟩

theorem Heater.tick_open {t : Thermo} {x : Heater} {flags : BitVec 6} (hn : t.nvmOk = true) (hp : (x.sc || t.parkAll) = false)
    (hc : (Heater.tick t x).2 = true → flags.getLsbD 2 = true) :
    (Heater.tick t x).1.out = slewStep (profOf t x.prof.toNat) t.tick x.out x.code ∧
      Dithers flags x.den (sgOf t x.dsel.toNat).d (Heater.tick t x).1.out (Heater.tick t x).1.u := by
  rw [Heater.tick_eq] at hc ⊢
  obtain ⟨hout, hu⟩ := Heater.form_open (x := x.slewed t) hn hp hc
  exact ⟨hout, hout ▸ hu⟩

theorem Aux.tick_keeps {t : Thermo} {x y : Aux} {a : Nat} (h : y = (Aux.tick t a x).1) : y.code = x.code ∧ y.compl = x.compl := by
  rw [Aux.tick, Aux.form_eq] at h
  subst h
  exact ⟨rfl, rfl⟩

theorem Aux.tick_parked {t : Thermo} (x : Aux) (a : Nat) (hn : t.nvmOk = true) (hp : t.parkAll = true) :
    (Aux.tick t a x).1.out = x.park ∧ (Aux.tick t a x).1.u = x.park := by
  rw [Aux.tick, Aux.form_parked a hn hp]
  exact ⟨rfl, rfl⟩

theorem Aux.tick_open {t : Thermo} {x : Aux} {a : Nat} {flags : BitVec 6} (hn : t.nvmOk = true) (hp : t.parkAll = false)
    (hc : (Aux.tick t a x).2 = true → flags.getLsbD 2 = true) :
    (Aux.tick t a x).1.out = slewStep (profOf t x.prof.toNat) t.tick x.out x.code ∧
      Dithers flags x.den (agOf t a).d (Aux.tick t a x).1.out (Aux.tick t a x).1.u := by
  obtain ⟨hout, hu⟩ := Aux.form_open (x := { x with out := slewStep (profOf t x.prof.toNat) t.tick x.out x.code }) hn hp hc
  exact ⟨hout, hout ▸ hu⟩

/-! ### The obligation -/

/-- Settles O43: each channel by its own tick, each generator by its step, each modulator bit by bit. -/
theorem radiatorTicksMoveEveryChannel : Obligations.RadiatorTicksMoveEveryChannel := by
  unfold Obligations.RadiatorTicksMoveEveryChannel
  refine ⟨fun s hon => ?_, fun m k u => ⟨?_, m.tick_acc k, fun hlo hhi hspan => Modulator.Bounded.tick ⟨hlo, hhi, hspan⟩ k u⟩⟩
  · obtain ⟨hpow, hnvm⟩ := Bool.and_eq_true_iff.1 hon
    obtain ⟨pwr, ones, done, on, htick, hdone⟩ := radTick_eq s
    have hexec : exec .radiatorTick s = .next (radTick s) := congrArg Host.Outcome.next (if_pos hpow)
    have hclamp := dclamp_tickChannels (stepGens s.thermo) pwr ones done on
    refine ⟨_, hexec.trans (congrArg _ htick), rfl, fun h hh x y hx hy => ?_, fun a ha x y hx hy => ?_,
      fun p => ⟨rfl, rfl⟩, sgOf_stepGens s.thermo, agOf_stepGens s.thermo, hdone, rfl⟩
    · have hy' : y = (Heater.tick (stepGens s.thermo) x).1 := hy.trans (hx ▸ heaterOf_tickChannels _ pwr ones done on hh)
      obtain ⟨hcode, hpark, hsc, hden, hprof, hdsel, hmodu⟩ := Heater.tick_keeps hy'
      refine ⟨hcode, hpark, hsc, hden, hprof, hdsel, hmodu, ?_⟩
      rw [← slewStep_eq, hy']
      split
      · exact Heater.tick_parked hnvm ‹_›
      · obtain ⟨hout, hu⟩ := Heater.tick_open (t := stepGens s.thermo) hnvm (Bool.eq_false_iff.2 ‹_›)
          fun h2 => hclamp (tickClamps_of_heater _ hh (hx ▸ h2))
        rw [sgOf_stepGens] at hu
        exact ⟨hout, hu⟩
    · have hy' : y = (Aux.tick (stepGens s.thermo) a x).1 := hy.trans (hx ▸ auxOf_tickChannels _ pwr ones done on ha)
      obtain ⟨hcode, hcompl⟩ := Aux.tick_keeps hy'
      refine ⟨hcode, hcompl, ?_⟩
      rw [← slewStep_eq, hy']
      split
      · exact Aux.tick_parked x a hnvm ‹_›
      · obtain ⟨hout, hu⟩ := Aux.tick_open (t := stepGens s.thermo) hnvm (Bool.eq_false_iff.2 ‹_›)
          fun h2 => hclamp (tickClamps_of_aux _ ha (hx ▸ h2))
        rw [agOf_stepGens] at hu
        exact ⟨hout, hu⟩
  · rintro rfl
    exact m.tick_zero k

end Sys2Proof.Machine

/-!
The cells that a lock-in cycle dithers in each Window (R179; log entry 98): they are new to the sweep, each comes once, and there are at
most 256 of them, 256 while the sweep has as many left.
-/

namespace Sys2Proof.Machine

open Sys2Proof

/-! ### The cells that the command names -/

theorem any_fst (l : List (Nat × Nat)) (c : Nat) : (l.any fun e => decide (e.1 = c)) = decide (c ∈ l.map Prod.fst) := by
  rw [Bool.eq_iff_iff, List.any_eq_true, decide_eq_true_iff, List.mem_map]
  simp only [decide_eq_true_eq]

section
variable (seen w : Nat) (dither : List (Nat × Fin 64))

/-- Whether the command's entry for heater h joins the cells taken so far. -/
def cellJoins (acc : List (Nat × Nat)) (h : Nat) : Prop :=
  h / 32768 = w ∧ seen.testBit (h % 32768) = false ∧ h % 32768 ∉ acc.map Prod.fst ∧ acc.length < 256

theorem cellJoins_iff (acc : List (Nat × Nat)) (h : Nat) : cellJoins seen w acc h ↔
    (decide (h / 32768 = w) && !(seen.testBit (h % 32768)) && !(acc.any (fun e => decide (e.1 = h % 32768))) &&
      decide (acc.length < 256)) = true := by
  simp only [cellJoins, any_fst, Bool.and_eq_true, decide_eq_true_eq, Bool.not_eq_true', decide_eq_false_iff_not, and_assoc]

theorem namedCells_of_cellJoins {acc : List (Nat × Nat)} {h : Nat} (hj : cellJoins seen w acc h) (g : Fin 64) (l : List (Nat × Fin 64)) :
    namedCells seen w ((h, g) :: l) acc = namedCells seen w l (acc ++ [(h % 32768, g.val)]) :=
  if_pos ((cellJoins_iff ..).1 hj)

theorem namedCells_of_not_cellJoins {acc : List (Nat × Nat)} {h : Nat} (hj : ¬ cellJoins seen w acc h) (g : Fin 64)
    (l : List (Nat × Fin 64)) : namedCells seen w ((h, g) :: l) acc = namedCells seen w l acc :=
  if_neg fun hc => hj ((cellJoins_iff ..).2 hc)

/-- Cells that the command names: at most 256, each once, each new to the sweep and with a tone that the command gives it. -/
structure NamedCells (cells : List (Nat × Nat)) : Prop where
  nodup : (cells.map Prod.fst).Nodup
  length : cells.length ≤ 256
  lt : ∀ e ∈ cells, e.1 < 32768
  fresh : ∀ e ∈ cells, seen.testBit e.1 = false
  tone : ∀ e ∈ cells, ∃ g : Fin 64, (32768 * w + e.1, g) ∈ dither ∧ e.2 = g.val

theorem NamedCells.join {seen w : Nat} {dither : List (Nat × Fin 64)} {acc : List (Nat × Nat)}
    (h : NamedCells seen w dither acc) {k : Nat} {g : Fin 64} (hk : (k, g) ∈ dither) (hj : cellJoins seen w acc k) :
    NamedCells seen w dither (acc ++ [(k % 32768, g.val)]) := by
  obtain ⟨hw, hs, hacc, hlen⟩ := hj
  have hall : ∀ {P : Nat × Nat → Prop}, (∀ e ∈ acc, P e) → P (k % 32768, g.val) → ∀ e ∈ acc ++ [(k % 32768, g.val)], P e :=
    fun ha hn e he => (List.mem_append.1 he).elim (ha e) fun hm => List.mem_singleton.1 hm ▸ hn
  exact {
    nodup := by
      rw [List.map_append, List.map_singleton]
      exact List.Nodup.append h.nodup (List.nodup_singleton _) (List.disjoint_singleton.2 hacc)
    length := by simpa using hlen
    lt := hall h.lt (Nat.mod_lt _ (by decide))
    fresh := hall h.fresh hs
    tone := hall h.tone ⟨g, by rwa [show 32768 * w + k % 32768 = k by omega], rfl⟩ }

theorem named_namedCells (l : List (Nat × Fin 64)) (hl : l ⊆ dither) :
    ∀ {acc}, NamedCells seen w dither acc → NamedCells seen w dither (namedCells seen w l acc) := by
  induction l with
  | nil => exact id
  | cons e l ih =>
    intro acc hacc
    obtain ⟨h, g⟩ := e
    obtain ⟨hmem, hsub⟩ := List.cons_subset.1 hl
    by_cases hj : cellJoins seen w acc h
    · rw [namedCells_of_cellJoins seen w hj]
      exact ih hsub (hacc.join hmem hj)
    · rw [namedCells_of_not_cellJoins seen w hj]
      exact ih hsub hacc

/-- Cells taken stay taken. -/
theorem sublist_namedCells (l : List (Nat × Fin 64)) : ∀ acc : List (Nat × Nat), List.Sublist acc (namedCells seen w l acc) := by
  induction l with
  | nil => exact List.Sublist.refl
  | cons e l ih =>
    intro acc
    obtain ⟨h, g⟩ := e
    by_cases hj : cellJoins seen w acc h
    · rw [namedCells_of_cellJoins seen w hj]
      exact (List.sublist_append_left ..).trans (ih _)
    · rw [namedCells_of_not_cellJoins seen w hj]
      exact ih acc

/-- While there is room for more, every entry of the Window that is new to the sweep is taken. -/
theorem mem_namedCells {h : Nat} {g : Fin 64} (hw : h / 32768 = w) (hs : seen.testBit (h % 32768) = false) :
    ∀ {l : List (Nat × Fin 64)} {acc}, (h, g) ∈ l → (namedCells seen w l acc).length < 256 →
      h % 32768 ∈ (namedCells seen w l acc).map Prod.fst
  | (k, f) :: l, acc, hmem, hroom => by
    by_cases hj : cellJoins seen w acc k
    · rw [namedCells_of_cellJoins seen w hj] at hroom ⊢
      rcases List.mem_cons.1 hmem with e | hmem
      · obtain ⟨rfl, rfl⟩ := Prod.mk.inj e
        exact ((sublist_namedCells seen w l _).map Prod.fst).subset (by simp)
      · exact mem_namedCells hw hs hmem hroom
    · rw [namedCells_of_not_cellJoins seen w hj] at hroom ⊢
      rcases List.mem_cons.1 hmem with e | hmem
      · obtain ⟨rfl, rfl⟩ := Prod.mk.inj e
        have hacc := sublist_namedCells seen w l acc
        have hin : h % 32768 ∈ acc.map Prod.fst := by
          by_contra hout
          exact hj ⟨hw, hs, hout, hacc.length_le.trans_lt hroom⟩
        exact (hacc.map Prod.fst).subset hin
      · exact mem_namedCells hw hs hmem hroom

end

/-! ### The cells that the model adds -/

/-- A cell that is new to the sweep and that the command does not name. -/
def cellFree (seen : Nat) (named : List (Nat × Nat)) (c : Nat) : Bool := !(seen.testBit c || named.any (fun e => decide (e.1 = c)))

theorem cellFree_iff (seen : Nat) (named : List (Nat × Nat)) (c : Nat) :
    cellFree seen named c = true ↔ seen.testBit c = false ∧ c ∉ named.map Prod.fst := by
  simp only [cellFree, any_fst, Bool.not_eq_true', Bool.or_eq_false_iff, decide_eq_false_iff_not]

theorem restCells_eq (seen : Nat) (named : List (Nat × Nat)) : ∀ fuel need c,
    restCells seen named fuel need c = ((List.range' c fuel).filter (cellFree seen named)).take need
  | 0, _, _ => by simp [restCells]
  | _ + 1, 0, _ => by simp [restCells]
  | fuel + 1, need + 1, c => by
    rw [restCells, restCells_eq seen named fuel (need + 1), restCells_eq seen named fuel need, List.range'_succ, List.filter_cons]
    cases h : seen.testBit c || named.any (fun e => decide (e.1 = c)) <;> simp [cellFree, h]

/-- The cells that the model adds to those named, lowest first. -/
def addedCells (seen : Nat) (named : List (Nat × Nat)) : List Nat := restCells seen named 32768 (256 - named.length) 0

theorem addedCells_eq (seen : Nat) (named : List (Nat × Nat)) :
    addedCells seen named = ((List.range 32768).filter (cellFree seen named)).take (256 - named.length) := by
  rw [addedCells, restCells_eq, List.range_eq_range']

theorem mem_addedCells {seen : Nat} {named : List (Nat × Nat)} {c : Nat} (h : c ∈ addedCells seen named) :
    c < 32768 ∧ seen.testBit c = false ∧ c ∉ named.map Prod.fst := by
  rw [addedCells_eq] at h
  obtain ⟨hlt, hs⟩ := List.mem_filter.1 (List.mem_of_mem_take h)
  exact ⟨List.mem_range.1 hlt, (cellFree_iff ..).1 hs⟩

theorem nodup_addedCells (seen : Nat) (named : List (Nat × Nat)) : (addedCells seen named).Nodup := by
  rw [addedCells_eq]
  exact (List.nodup_range.filter _).sublist (List.take_sublist ..)

theorem length_addedCells_le (seen : Nat) (named : List (Nat × Nat)) : (addedCells seen named).length ≤ 256 - named.length := by
  rw [addedCells_eq]
  exact List.length_take_le ..

/-- At the start of a sweep there are cells enough for all that are wanted. -/
theorem length_addedCells_zero {named : List (Nat × Nat)} (h : named.length ≤ 256) :
    (addedCells 0 named).length = 256 - named.length := by
  have hnamed : ((List.range 32768).filter (fun c => !(cellFree 0 named c))).length ≤ named.length := by
    rw [← List.length_map (as := named) Prod.fst]
    refine ((List.nodup_range.filter _).subperm fun c hc => ?_).length_le
    by_contra hout
    exact absurd (List.mem_filter.1 hc).2 (by simp [(cellFree_iff 0 named c).2 ⟨Nat.zero_testBit c, hout⟩])
  have hsplit := List.length_eq_length_filter_add (l := List.range 32768) (cellFree 0 named)
  rw [List.length_range] at hsplit
  rw [addedCells_eq, List.length_take]
  omega

/-! ### The cells of a cycle -/

/-- The heaters that a cycle dithers in a Window. -/
def cycleHeaters (s : State) (dither : List (Nat × Fin 64)) (w : Nat) : List Nat :=
  (cycleCells s dither w).map fun e => 32768 * w + e.1

section
variable (s : State) (dither : List (Nat × Fin 64)) (w : Nat)

theorem named_cycle : NamedCells (bankGet s.thermo.visited 0 w) w dither (namedCells (bankGet s.thermo.visited 0 w) w dither []) :=
  named_namedCells _ _ _ _ (List.Subset.refl _) ⟨List.nodup_nil, by simp, by simp, by simp, by simp⟩

theorem cycleCells_of_not_looping (h : looping s w = false) : cycleCells s dither w = [] := by simp [cycleCells, h]

theorem cycleCells_of_looping (h : looping s w = true) : cycleCells s dither w =
    namedCells (bankGet s.thermo.visited 0 w) w dither [] ++
      (addedCells (bankGet s.thermo.visited 0 w) (namedCells (bankGet s.thermo.visited 0 w) w dither [])).zipIdx.map
        (fun e => (e.1, e.2 % 64)) := by
  simp [cycleCells, h, addedCells]

/-- The cells in the order in which they are taken. -/
theorem cycleCells_fst (h : looping s w = true) : (cycleCells s dither w).map Prod.fst =
    (namedCells (bankGet s.thermo.visited 0 w) w dither []).map Prod.fst ++
      addedCells (bankGet s.thermo.visited 0 w) (namedCells (bankGet s.thermo.visited 0 w) w dither []) := by
  rw [cycleCells_of_looping s dither w h, List.map_append, List.map_map]
  exact congrArg _ (List.zipIdx_map_fst 0 _)

theorem cycleCells_length (h : looping s w = true) : (cycleCells s dither w).length =
    (namedCells (bankGet s.thermo.visited 0 w) w dither []).length +
      (addedCells (bankGet s.thermo.visited 0 w) (namedCells (bankGet s.thermo.visited 0 w) w dither [])).length := by
  simp [cycleCells_of_looping s dither w h]

theorem cycleCells_nodup : ((cycleCells s dither w).map Prod.fst).Nodup := by
  cases h : looping s w with
  | false => simp [cycleCells_of_not_looping s dither w h]
  | true =>
    rw [cycleCells_fst s dither w h]
    exact (named_cycle s dither w).nodup.append (nodup_addedCells ..) fun c hn ha => (mem_addedCells ha).2.2 hn

theorem cycleCells_length_le : (cycleCells s dither w).length ≤ 256 := by
  cases h : looping s w with
  | false => simp [cycleCells_of_not_looping s dither w h]
  | true =>
    have hnamed := (named_cycle s dither w).length
    have hadded := length_addedCells_le (bankGet s.thermo.visited 0 w) (namedCells (bankGet s.thermo.visited 0 w) w dither [])
    rw [cycleCells_length s dither w h]
    omega

theorem cycleCells_full (h : looping s w = true) (hv : bankGet s.thermo.visited 0 w = 0) : (cycleCells s dither w).length = 256 := by
  have hnamed := (named_cycle s dither w).length
  rw [cycleCells_length s dither w h, hv] at *
  rw [length_addedCells_zero hnamed]
  omega

variable {s dither w}

/-- A cell is dithered in a Window that is looped, and the sweep has not dithered it. -/
theorem mem_cycleCells {e : Nat × Nat} (he : e ∈ cycleCells s dither w) :
    looping s w = true ∧ e.1 < 32768 ∧ (bankGet s.thermo.visited 0 w).testBit e.1 = false := by
  cases h : looping s w with
  | false => simp [cycleCells_of_not_looping s dither w h] at he
  | true =>
    refine ⟨rfl, ?_⟩
    have hfst := List.mem_map_of_mem (f := Prod.fst) he
    rw [cycleCells_fst s dither w h] at hfst
    rcases List.mem_append.1 hfst with hn | ha
    · obtain ⟨d, hd, hde⟩ := List.mem_map.1 hn
      exact hde ▸ ⟨(named_cycle s dither w).lt d hd, (named_cycle s dither w).fresh d hd⟩
    · exact ⟨(mem_addedCells ha).1, (mem_addedCells ha).2.1⟩

/-- A cell that the command names takes a tone that the command gives it. -/
theorem tone_cycleCells {e : Nat × Nat} (he : e ∈ cycleCells s dither w) (hn : ∃ g, (32768 * w + e.1, g) ∈ dither) :
    ∃ g : Fin 64, (32768 * w + e.1, g) ∈ dither ∧ e.2 = g.val := by
  obtain ⟨hloop, hlt, hfresh⟩ := mem_cycleCells he
  rw [cycleCells_of_looping s dither w hloop] at he
  rcases List.mem_append.1 he with hnamed | hrest
  · exact (named_cycle s dither w).tone e hnamed
  · obtain ⟨d, hd, rfl⟩ := List.mem_map.1 hrest
    have ha : d.1 ∈ addedCells (bankGet s.thermo.visited 0 w) (namedCells (bankGet s.thermo.visited 0 w) w dither []) :=
      List.fst_mem_of_mem_zipIdx hd
    have hroom := (List.length_pos_of_mem ha).trans_le (length_addedCells_le ..)
    obtain ⟨g, hg⟩ := hn
    have hmod : (32768 * w + d.1) % 32768 = d.1 := by omega
    have hmem := mem_namedCells (bankGet s.thermo.visited 0 w) w (by omega) (hmod.symm ▸ hfresh) hg (acc := []) (by omega)
    exact absurd (hmod ▸ hmem) (mem_addedCells ha).2.2

end

/-! ### The heaters of a cycle -/

theorem mem_cycleHeaters {s : State} {dither : List (Nat × Fin 64)} {w h : Nat} (hh : h ∈ cycleHeaters s dither w) :
    ∃ e ∈ cycleCells s dither w, h = 32768 * w + e.1 ∧ h / 32768 = w ∧ h % 32768 = e.1 := by
  obtain ⟨e, he, rfl⟩ := List.mem_map.1 hh
  obtain ⟨-, hlt, -⟩ := mem_cycleCells he
  exact ⟨e, he, rfl, by omega, by omega⟩

theorem cycleHeaters_nodup (s : State) (dither : List (Nat × Fin 64)) (w : Nat) : (cycleHeaters s dither w).Nodup := by
  have hmap : cycleHeaters s dither w = ((cycleCells s dither w).map Prod.fst).map (32768 * w + ·) := by
    rw [List.map_map]; rfl
  rw [hmap]
  exact (cycleCells_nodup s dither w).map (add_right_injective _)

/-- Of the heaters of the first n Windows, those of Window w. -/
theorem filter_cycleHeaters (s : State) (dither : List (Nat × Fin 64)) (w : Nat) : ∀ n,
    ((List.range n).flatMap (cycleHeaters s dither)).filter (fun h => h / 32768 = w) = if w < n then cycleHeaters s dither w else []
  | 0 => by simp
  | n + 1 => by
    rw [List.range_succ, List.flatMap_append, List.filter_append, filter_cycleHeaters s dither w n, List.flatMap_singleton]
    have hwin : ∀ h ∈ cycleHeaters s dither n, h / 32768 = n := fun h hh => by
      obtain ⟨_, _, _, hw, _⟩ := mem_cycleHeaters hh
      exact hw
    by_cases hn : w = n
    · subst hn
      rw [List.filter_eq_self.2 fun h hh => decide_eq_true (hwin h hh)]
      simp
    · rw [List.filter_eq_nil_iff.2 fun h hh => by simpa [hwin h hh] using Ne.symm hn, List.append_nil]
      simp only [show w < n + 1 ↔ w < n by omega]

/-- No heater is dithered twice in a cycle. -/
theorem nodup_cycleHeaters (s : State) (dither : List (Nat × Fin 64)) (n : Nat) :
    ((List.range n).flatMap (cycleHeaters s dither)).Nodup := by
  refine List.nodup_flatMap.2 ⟨fun w _ => cycleHeaters_nodup s dither w, List.nodup_range.imp fun hne h hv hw => hne ?_⟩
  obtain ⟨_, _, _, rfl, _⟩ := mem_cycleHeaters hv
  obtain ⟨_, _, _, rfl, _⟩ := mem_cycleHeaters hw
  rfl

end Sys2Proof.Machine

/-!
The lock-in loop (R178 to R184): what the start and the end of a cycle make of each heater and of each Window's sweep, and the obligation
O46.
-/

namespace Sys2Proof.Machine

open Sys2Proof

/-- A fold whose steps act on one unit each: a unit's own step takes it from `todo` to `done`, the others' leave it where it is. -/
theorem foldl_each {σ α : Type} {g : σ → α → σ} {todo done : α → σ → Prop} : ∀ {l : List α}, l.Nodup →
    (∀ a ∈ l, ∀ u, todo a u → done a (g u a)) →
    (∀ a ∈ l, ∀ b ∈ l, b ≠ a → ∀ u, (todo a u → todo a (g u b)) ∧ (done a u → done a (g u b))) →
    ∀ u, (∀ a ∈ l, todo a u) → ∀ a ∈ l, done a (l.foldl g u)
  | b :: l, hnd, hown, hother, u, hu, a, ha => by
    obtain ⟨hb, hl⟩ := List.nodup_cons.1 hnd
    rcases List.mem_cons.1 ha with rfl | ha
    · refine List.foldlRecOn l g (hown a ha u (hu a ha)) fun v hv c hc => ?_
      exact (hother a ha c (List.mem_cons_of_mem _ hc) (fun e => hb (e ▸ hc)) v).2 hv
    · refine foldl_each hl (fun c hc => hown c (List.mem_cons_of_mem _ hc))
        (fun c hc d hd => hother c (List.mem_cons_of_mem _ hc) d (List.mem_cons_of_mem _ hd)) _ (fun c hc => ?_) a ha
      exact (hother c (List.mem_cons_of_mem _ hc) b List.mem_cons_self (fun e => hb (e ▸ hc)) u).1 (hu c (List.mem_cons_of_mem _ hc))

/-! ### What a lock-in cycle leaves alone -/

/-- The block without what forming u changes. -/
def driveless (t : Thermo) : Thermo := { t with heaters := [], flags := 0 }

theorem driveless_formHeater (t : Thermo) (h : Nat) (x : Heater) : driveless (formHeater t h x) = driveless t := by
  unfold formHeater
  rw [setClamp_eq]
  rfl

/-- The block without what dithering, correcting and counting cycles change. -/
def loopless (t : Thermo) : Thermo :=
  { driveless t with dithered := [], visited := [], cycles := [], sweepMax := [], sweepDue := [], lkUpd := 0 }

theorem loopless_of_driveless {t u : Thermo} (h : driveless u = driveless t) : loopless u = loopless t :=
  congrArg (fun t : Thermo => { t with dithered := [], visited := [], cycles := [], sweepMax := [], sweepDue := [], lkUpd := 0 }) h

theorem eq_of_driveless {α : Type} (p : Thermo → α) (hp : ∀ v, p (driveless v) = p v) {t u : Thermo} (h : driveless u = driveless t) :
    p u = p t :=
  (hp u).symm.trans ((congrArg p h).trans (hp t))

theorem eq_of_loopless {α : Type} (p : Thermo → α) (hp : ∀ v, p (loopless v) = p v) {t u : Thermo} (h : loopless u = loopless t) :
    p u = p t :=
  (hp u).symm.trans ((congrArg p h).trans (hp t))

/-! ### Dither set and cleared -/

/-- A change of dither alone: no heater's CODE or SC changes, and OUT only of one that is parked. -/
structure Redithers (t u : Thermo) : Prop where
  rest : loopless u = loopless t
  code : ∀ h, (heaterOf u h).code = (heaterOf t h).code
  sc : ∀ h, (heaterOf u h).sc = (heaterOf t h).sc
  out : t.nvmOk = true → ∀ h, ((heaterOf t h).sc || t.parkAll) = false → (heaterOf u h).out = (heaterOf t h).out

namespace Redithers

theorem refl (t : Thermo) : Redithers t t := ⟨rfl, fun _ => rfl, fun _ => rfl, fun _ _ _ => rfl⟩

theorem trans {t u v : Thermo} (h : Redithers t u) (k : Redithers u v) : Redithers t v where
  rest := k.rest.trans h.rest
  code n := (k.code n).trans (h.code n)
  sc n := (k.sc n).trans (h.sc n)
  out hn n hp := by
    have hnvm : u.nvmOk = t.nvmOk := eq_of_loopless Thermo.nvmOk (fun _ => rfl) h.rest
    have hpark : u.parkAll = t.parkAll := eq_of_loopless Thermo.parkAll (fun _ => rfl) h.rest
    exact (k.out (hnvm.trans hn) n (by rw [h.sc, hpark, hp])).trans (h.out hn n hp)

theorem of_heaters {t u : Thermo} (hr : loopless u = loopless t) (h : u.heaters = t.heaters) : Redithers t u := by
  have hh : ∀ n, heaterOf u n = heaterOf t n := fun n => by simp only [heaterOf, h]
  exact ⟨hr, fun n => by rw [hh], fun n => by rw [hh], fun _ n _ => by rw [hh]⟩

/-- Heaters of a set P take other DEN and DSEL, and u is formed anew. -/
theorem of_form {t u : Thermo} {P : Nat → Prop} {f : Heater → Heater} (hr : loopless u = loopless t)
    (hin : ∀ n, P n → heaterOf u n = (Heater.form t (f (heaterOf t n))).1) (hout : ∀ n, ¬ P n → heaterOf u n = heaterOf t n)
    (hf : ∀ x, f x = { x with den := (f x).den, dsel := (f x).dsel }) : Redithers t u := by
  have hcase : ∀ n, heaterOf u n = (Heater.form t (f (heaterOf t n))).1 ∨ heaterOf u n = heaterOf t n :=
    fun n => (em (P n)).imp (hin n) (hout n)
  refine ⟨hr, fun n => ?_, fun n => ?_, fun hn n hp => ?_⟩ <;> rcases hcase n with e | e <;> rw [e]
  · rw [Heater.form_code, hf]
  · rw [Heater.form_sc, hf]
  · rw [Heater.form_out hn (by rw [hf]; exact hp), hf]

theorem formHeater (t : Thermo) (h : Nat) {f : Heater → Heater} (hf : ∀ x, f x = { x with den := (f x).den, dsel := (f x).dsel }) :
    Redithers t (formHeater t h (f (heaterOf t h))) :=
  of_form (P := (· = h)) (loopless_of_driveless (driveless_formHeater ..))
    (fun n hn => by rw [heaterOf_formHeater, if_pos hn, hn]) (fun n hn => by rw [heaterOf_formHeater, if_neg hn]) hf

theorem undither (t : Thermo) : Redithers t (undither t) :=
  List.foldlRecOn (motive := Redithers t) _ _ (refl t) fun u hu h _ =>
    hu.trans (Redithers.formHeater u h (f := fun x => { x with den := false }) fun _ => rfl)

end Redithers

theorem heaterOf_clearDen (t : Thermo) (w h : Nat) :
    heaterOf (clearDen t w) h = if h / 32768 = w then (Heater.form t { heaterOf t h with den := false }).1 else heaterOf t h := by
  unfold heaterOf clearDen
  simp only [bankGet_put]
  split
  · subst w
    exact bankGet_map (fun x : Heater => (Heater.form t { x with den := false }).1) _ rfl _
  · rfl

theorem Redithers.clearDen (t : Thermo) (w : Nat) : Redithers t (clearDen t w) := by
  refine Redithers.of_form (P := fun n => n / 32768 = w) (f := fun x => { x with den := false }) rfl (fun n hn => ?_) (fun n hn => ?_)
    fun _ => rfl
  · rw [heaterOf_clearDen, if_pos hn]
  · rw [heaterOf_clearDen, if_neg hn]

/-! ### The dither of one Window -/

/-- Dither cells of a Window. -/
def ditherCells (t : Thermo) (w : Nat) (cells : List (Nat × Nat)) : Thermo :=
  cells.foldl (fun t e =>
    formHeater t (32768 * w + e.1) { heaterOf t (32768 * w + e.1) with den := true, dsel := BitVec.ofNat 6 e.2 }) t

theorem ditherWindow_eq (t : Thermo) (w : Nat) (cells : List (Nat × Nat)) : ditherWindow t w cells =
    { ditherCells t w cells with
      visited := bankMod (ditherCells t w cells).visited 0 w (fun v => cells.foldl (fun v e => v ||| 2 ^ e.1) v),
      dithered := (ditherCells t w cells).dithered ++ cells.map (fun e => 32768 * w + e.1) } := rfl

theorem driveless_ditherCells (t : Thermo) (w : Nat) (cells : List (Nat × Nat)) : driveless (ditherCells t w cells) = driveless t :=
  foldl_keeps driveless (fun _ _ => driveless_formHeater ..) cells t

theorem dithered_ditherWindow (t : Thermo) (w : Nat) (cells : List (Nat × Nat)) :
    (ditherWindow t w cells).dithered = t.dithered ++ cells.map (fun e => 32768 * w + e.1) :=
  congrArg (· ++ _) (eq_of_driveless Thermo.dithered (fun _ => rfl) (driveless_ditherCells t w cells))

theorem visited_ditherWindow (t : Thermo) (w v : Nat) (cells : List (Nat × Nat)) : bankGet (ditherWindow t w cells).visited 0 v =
    if v = w then cells.foldl (fun v e => v ||| 2 ^ e.1) (bankGet t.visited 0 w) else bankGet t.visited 0 v := by
  have hvis : (ditherCells t w cells).visited = t.visited := eq_of_driveless Thermo.visited (fun _ => rfl) (driveless_ditherCells t w cells)
  rw [ditherWindow_eq, ← hvis]
  exact bankGet_put ..

theorem Redithers.ditherWindow (t : Thermo) (w : Nat) (cells : List (Nat × Nat)) : Redithers t (ditherWindow t w cells) := by
  have hcells : Redithers t (ditherCells t w cells) :=
    List.foldlRecOn (motive := Redithers t) _ _ (.refl t) fun u hu e _ =>
      hu.trans (.formHeater u _ (f := fun x => { x with den := true, dsel := BitVec.ofNat 6 e.2 }) fun _ => rfl)
  exact hcells.trans (.of_heaters rfl rfl)

/-- The heaters outside the cells stay. -/
theorem heaterOf_ditherWindow_other {t : Thermo} {w : Nat} {cells : List (Nat × Nat)} {h : Nat}
    (hh : ∀ e ∈ cells, h ≠ 32768 * w + e.1) : heaterOf (ditherWindow t w cells) h = heaterOf t h :=
  List.foldlRecOn (motive := fun u => heaterOf u h = heaterOf t h) cells _ rfl fun u hu e he => by
    rw [heaterOf_formHeater, if_neg (hh e he), hu]

/-- The cells of a sweep's record after some are added. -/
theorem testBit_visited (c : Nat) (cells : List (Nat × Nat)) (v : Nat) :
    (cells.foldl (fun v e => v ||| 2 ^ e.1) v).testBit c = (v.testBit c || decide (c ∈ cells.map Prod.fst)) := by
  induction cells generalizing v with
  | nil => simp
  | cons e cells ih =>
    rw [List.foldl_cons, ih, Nat.testBit_or, Nat.testBit_two_pow]
    simp only [List.map_cons, List.mem_cons, Bool.decide_or, Bool.or_assoc, eq_comm (a := c)]

/-- A cell under dither: its heater has DEN and the tone, and the sweep counts it. -/
structure Dithered (w : Nat) (e : Nat × Nat) (t : Thermo) : Prop where
  den : (heaterOf t (32768 * w + e.1)).den = true
  dsel : (heaterOf t (32768 * w + e.1)).dsel = BitVec.ofNat 6 e.2
  visited : (bankGet t.visited 0 w).testBit e.1 = true

theorem Dithered.of_ditherWindow {t : Thermo} {w : Nat} {cells : List (Nat × Nat)} (hnd : (cells.map Prod.fst).Nodup)
    {e : Nat × Nat} (he : e ∈ cells) : Dithered w e (ditherWindow t w cells) := by
  have hheater : (heaterOf (ditherCells t w cells) (32768 * w + e.1)).den = true ∧
      (heaterOf (ditherCells t w cells) (32768 * w + e.1)).dsel = BitVec.ofNat 6 e.2 := by
    refine foldl_each (todo := fun _ _ => True) (done := fun e u => (heaterOf u (32768 * w + e.1)).den = true ∧
      (heaterOf u (32768 * w + e.1)).dsel = BitVec.ofNat 6 e.2) hnd.of_map (fun a _ u _ => ?_)
      (fun a ha b hb hne u => ⟨id, fun hu => ?_⟩) t (fun _ _ => trivial) e he
    · rw [heaterOf_formHeater, if_pos rfl]
      simp
    · have hfst : b.1 ≠ a.1 := fun hfst => hne (List.inj_on_of_nodup_map hnd hb ha hfst)
      rwa [heaterOf_formHeater, if_neg (by omega)]
  refine ⟨hheater.1, hheater.2, ?_⟩
  rw [visited_ditherWindow, if_pos rfl]
  rw [testBit_visited, decide_eq_true (List.mem_map_of_mem he), Bool.or_true]

theorem Dithered.ditherWindow_other {t : Thermo} {w v : Nat} {cells : List (Nat × Nat)} {e : Nat × Nat} (h : Dithered w e t)
    (hne : v ≠ w) (he : e.1 < 32768) (hc : ∀ d ∈ cells, d.1 < 32768) : Dithered w e (ditherWindow t v cells) := by
  have hheater := heaterOf_ditherWindow_other (t := t) (w := v) (cells := cells) (h := 32768 * w + e.1) fun d hd => by
    have := hc d hd
    omega
  refine ⟨hheater ▸ h.den, hheater ▸ h.dsel, ?_⟩
  rw [visited_ditherWindow, if_neg hne.symm]
  exact h.visited

/-! ### The start of a cycle -/

/-- The block once the last cycle's dither has ended and no held Window is dithered. -/
def cleared (s : State) : Thermo :=
  (List.range 8).foldl (fun t w => if held s w then dropSweep (clearDen t w) w else t) (undither s.thermo)

/-- The block once this cycle's cells are dithered. -/
def picked (s : State) (dither : List (Nat × Fin 64)) : Thermo :=
  (List.range 8).foldl (fun t w => ditherWindow t w (cycleCells s dither w)) { cleared s with dithered := [] }

theorem cycleStart_eq (s : State) (dither : List (Nat × Fin 64)) : ∃ swept, cycleStart s dither =
    audPass { s with thermo := { picked s dither with
      cycleOn := true, cycleAt := some (picked s dither).tick, voided := [], swept := swept } } 9 (picked s dither).dithered.length :=
  ⟨_, by simp only [cycleStart, List.foldl_map]; rfl⟩

theorem looping_iff (s : State) (w : Nat) : looping s w = true ↔ s.thermo.loopOn.getLsbD w = true ∧ held s w = false := by
  simp [looping]

section
variable (s : State) (dither : List (Nat × Fin 64))

theorem redithers_cleared : Redithers s.thermo (cleared s) := by
  refine List.foldlRecOn (motive := Redithers s.thermo) _ _ (.undither _) fun u hu w _ => ?_
  split
  · exact (hu.trans (.clearDen u w)).trans (.of_heaters rfl rfl)
  · exact hu

theorem redithers_picked : Redithers s.thermo (picked s dither) :=
  List.foldlRecOn (motive := Redithers s.thermo) _ _ ((redithers_cleared s).trans (.of_heaters rfl rfl))
    fun _ hu _ _ => hu.trans (.ditherWindow ..)

/-- A held Window has no DEN (R181). -/
theorem cleared_den {h : Nat} (hh : h < 262144) (hheld : held s (h / 32768) = true) : (heaterOf (cleared s) h).den = false := by
  refine foldl_each (todo := fun _ _ => True)
    (done := fun w u => held s w = true → ∀ h, h / 32768 = w → (heaterOf u h).den = false) List.nodup_range
    (fun w _ u _ hw h hh => ?_) (fun w _ v _ hne u => ⟨id, fun hu hw h hh => ?_⟩) _ (fun _ _ => trivial) (h / 32768)
    (List.mem_range.2 (by omega)) hheld h rfl
  · rw [if_pos hw]
    exact (congrArg Heater.den ((heaterOf_clearDen u w h).trans (if_pos hh))).trans (Heater.form_den ..)
  · split
    · exact (congrArg Heater.den ((heaterOf_clearDen u v h).trans (if_neg (by omega)))).trans (hu hw h hh)
    · exact hu hw h hh

theorem picked_den {h : Nat} (hh : h < 262144) (hheld : held s (h / 32768) = true) : (heaterOf (picked s dither) h).den = false := by
  refine List.foldlRecOn (motive := fun u => (heaterOf u h).den = false) _ _ (cleared_den s hh hheld) fun u hu w _ => ?_
  rw [heaterOf_ditherWindow_other fun e he => ?_]
  · exact hu
  · rintro rfl
    obtain ⟨hloop, hlt, -⟩ := mem_cycleCells he
    obtain ⟨-, hfree⟩ := (looping_iff s w).1 hloop
    rw [show (32768 * w + e.1) / 32768 = w by omega, hfree] at hheld
    contradiction

theorem picked_dithered : (picked s dither).dithered = (List.range 8).flatMap (cycleHeaters s dither) := by
  have hfold : ∀ (l : List Nat) (t : Thermo), (l.foldl (fun t w => ditherWindow t w (cycleCells s dither w)) t).dithered =
      t.dithered ++ l.flatMap (cycleHeaters s dither) := by
    intro l
    induction l with
    | nil => simp
    | cons w l ih =>
      intro t
      rw [List.foldl_cons, ih, dithered_ditherWindow, List.append_assoc, List.flatMap_cons]
      rfl
  exact hfold _ _

theorem picked_cell {w : Nat} (hw : w < 8) {e : Nat × Nat} (he : e ∈ cycleCells s dither w) : Dithered w e (picked s dither) := by
  have hlt : ∀ v, ∀ d ∈ cycleCells s dither v, d.1 < 32768 := fun v d hd => (mem_cycleCells hd).2.1
  exact foldl_each (todo := fun _ _ => True) (done := fun w u => ∀ e ∈ cycleCells s dither w, Dithered w e u) List.nodup_range
    (fun w _ u _ e he => .of_ditherWindow (cycleCells_nodup s dither w) he)
    (fun w _ v _ hne u => ⟨id, fun hu e he => (hu e he).ditherWindow_other hne (hlt w e he) (hlt v)⟩) _ (fun _ _ => trivial)
    w (List.mem_range.2 hw) e he

/-- What the command and the sweep say of a dithered heater. -/
theorem picked_heater {h : Nat} (hh : h ∈ (picked s dither).dithered) :
    (heaterOf (picked s dither) h).den = true ∧ held s (h / 32768) = false ∧ s.thermo.loopOn.getLsbD (h / 32768) = true ∧
      (bankGet s.thermo.visited 0 (h / 32768)).testBit (h % 32768) = false ∧
      (bankGet (picked s dither).visited 0 (h / 32768)).testBit (h % 32768) = true ∧
      ((∃ g, (h, g) ∈ dither) → ∃ g, (h, g) ∈ dither ∧ (heaterOf (picked s dither) h).dsel = BitVec.ofNat 6 g.val) := by
  rw [picked_dithered] at hh
  obtain ⟨w, hw, hmem⟩ := List.mem_flatMap.1 hh
  obtain ⟨e, he, heq, hdiv, hmod⟩ := mem_cycleHeaters hmem
  obtain ⟨hloop, -, hfresh⟩ := mem_cycleCells he
  obtain ⟨hon, hfree⟩ := (looping_iff s w).1 hloop
  obtain ⟨hden, hdsel, hvis⟩ := picked_cell s dither (List.mem_range.1 hw) he
  rw [hdiv, hmod, heq]
  refine ⟨hden, hfree, hon, hfresh, hvis, fun hn => ?_⟩
  obtain ⟨g, hg, htone⟩ := tone_cycleCells he hn
  exact ⟨g, hg, htone ▸ hdsel⟩

theorem picked_filter (w : Nat) : ((picked s dither).dithered.filter (fun h => h / 32768 = w)).length =
    if w < 8 then (cycleCells s dither w).length else 0 := by
  rw [picked_dithered, filter_cycleHeaters]
  split
  · exact List.length_map ..
  · rfl

end

/-- LOCKIN_CYCLE_START at its time changes the block and the count of words to the Radiator alone. -/
theorem lockinCycleStart_exec {s : State} (dither : List (Nat × Fin 64)) (hpow : powered s = true) (hoff : s.thermo.cycleOn = false)
    (htick : s.thermo.tick % 1024 = 0) (hat : s.thermo.cycleAt ≠ some s.thermo.tick) :
    ∃ swept aud, exec (.lockinCycleStart dither) s = .next { s with
      thermo := { picked s dither with cycleOn := true, cycleAt := some s.thermo.tick, voided := [], swept := swept },
      corr := { s.corr with aud := aud } } := by
  obtain ⟨swept, hstart⟩ := cycleStart_eq s dither
  have hguard : (powered s && !s.thermo.cycleOn && decide (s.thermo.tick % 1024 = 0) &&
      decide (s.thermo.cycleAt ≠ some s.thermo.tick)) = true := by simp [hpow, hoff, htick, hat]
  have hexec : exec (.lockinCycleStart dither) s = .next (cycleStart s dither) := congrArg Host.Outcome.next (if_pos hguard)
  have hkeep : (picked s dither).tick = s.thermo.tick := eq_of_loopless Thermo.tick (fun _ => rfl) (redithers_picked s dither).rest
  rw [hexec, hstart, hkeep]
  exact ⟨swept, _, rfl⟩

/-! ### The end of a cycle (R180, R182, R183) -/

theorem addCode_toNat (c : BitVec 16) (d : Int) : ((addCode c d).toNat : Int) = max 0 (min 65535 ((c.toNat : Int) + d)) := by
  unfold addCode
  rw [BitVec.toNat_ofInt]
  omega

theorem correctable_iff (s : State) (h : Nat) : correctable s h = true ↔
    held s (h / 32768) = false ∧ (heaterOf s.thermo h).sc = false ∧ (heaterOf s.thermo h).dsel.toNat ∉ s.thermo.voided := by
  simp [correctable, and_assoc]

@[simp] theorem Heater.follow_code (t : Thermo) (x : Heater) : (Heater.follow t x).code = x.code := by
  unfold Heater.follow; split <;> rfl

section
variable (deltas : List (Nat × Int)) (t : Thermo) (h : Nat)

theorem correct_eq : ∃ x upd mx, correct deltas t h = { formHeater t h x with lkUpd := upd, sweepMax := mx } ∧
    x.code = addCode (heaterOf t h).code (limDelta t (deltaOf deltas h)) :=
  ⟨_, _, _, rfl, Heater.follow_code ..⟩

theorem heaterOf_correct_other {k : Nat} (hne : k ≠ h) : heaterOf (correct deltas t h) k = heaterOf t k := by
  obtain ⟨x, upd, mx, hc, -⟩ := correct_eq deltas t h
  rw [hc]
  exact (heaterOf_formHeater t h k x).trans (if_neg hne)

theorem correct_code : (heaterOf (correct deltas t h) h).code = addCode (heaterOf t h).code (limDelta t (deltaOf deltas h)) := by
  obtain ⟨x, upd, mx, hc, hx⟩ := correct_eq deltas t h
  rw [hc, ← hx]
  exact (congrArg Heater.code ((heaterOf_formHeater t h h x).trans (if_pos rfl))).trans (Heater.form_code t x)

theorem loopless_correct : loopless (correct deltas t h) = loopless t := by
  obtain ⟨x, upd, mx, hc, -⟩ := correct_eq deltas t h
  rw [hc]
  exact loopless_of_driveless (u := formHeater t h x) (driveless_formHeater t h x)

theorem cycles_correct : (correct deltas t h).cycles = t.cycles := by
  obtain ⟨x, upd, mx, hc, -⟩ := correct_eq deltas t h
  rw [hc]
  exact eq_of_driveless Thermo.cycles (fun _ => rfl) (u := formHeater t h x) (driveless_formHeater t h x)

end

/-- The block once the cycle's corrections are written. -/
def corrected (s : State) (deltas : List (Nat × Int)) : Thermo :=
  (s.thermo.dithered.filter (correctable s)).foldl (correct deltas) s.thermo

section
variable (s : State) (deltas : List (Nat × Int))

theorem loopless_corrected : loopless (corrected s deltas) = loopless s.thermo :=
  foldl_keeps loopless (loopless_correct deltas) _ _

theorem cycles_corrected : (corrected s deltas).cycles = s.thermo.cycles :=
  foldl_keeps Thermo.cycles (cycles_correct deltas) _ _

/-- A heater that the cycle does not correct stays. -/
theorem heaterOf_corrected_other {h : Nat} (hh : h ∉ s.thermo.dithered.filter (correctable s)) :
    heaterOf (corrected s deltas) h = heaterOf s.thermo h :=
  List.foldlRecOn (motive := fun u => heaterOf u h = heaterOf s.thermo h) _ _ rfl fun u hu k hk =>
    (heaterOf_correct_other deltas u k (ne_of_mem_of_not_mem hk hh).symm).trans hu

/-- A heater that the cycle corrects is corrected once. -/
theorem corrected_code (hnd : s.thermo.dithered.Nodup) {h : Nat} (hh : h ∈ s.thermo.dithered.filter (correctable s)) :
    (heaterOf (corrected s deltas) h).code = addCode (heaterOf s.thermo h).code (limDelta s.thermo (deltaOf deltas h)) := by
  refine foldl_each (todo := fun h u => loopless u = loopless s.thermo ∧ heaterOf u h = heaterOf s.thermo h)
    (done := fun h u => (heaterOf u h).code = addCode (heaterOf s.thermo h).code (limDelta s.thermo (deltaOf deltas h)))
    (hnd.filter _) (fun h _ u hu => ?_) (fun h _ k _ hne u => ?_) s.thermo (fun _ _ => ⟨rfl, rfl⟩) h hh
  · obtain ⟨hrest, hheater⟩ := hu
    rw [correct_code, hheater, eq_of_loopless (fun t => limDelta t (deltaOf deltas h)) (fun _ => rfl) hrest]
  · have hkeep := heaterOf_correct_other deltas u k hne.symm
    exact ⟨fun ⟨hrest, hheater⟩ => ⟨(loopless_correct ..).trans hrest, hkeep.trans hheater⟩, fun hu => hkeep ▸ hu⟩

end

/-! ### Counting a cycle (R178, R184) -/

theorem countCycle_heaters (s : State) (t : Thermo) (w : Nat) :
    (countCycle s t w).heaters = t.heaters ∧ loopless (countCycle s t w) = loopless t := by
  unfold countCycle
  dsimp only
  repeat' split
  all_goals exact ⟨rfl, rfl⟩

/-- A Window's sweep after n counted cycles and one more: 128 of them end it. -/
def Counted (n w : Nat) (t : Thermo) : Prop :=
  if n + 1 < 128 then bankGet t.cycles 0 w = n + 1
  else bankGet t.cycles 0 w = 0 ∧ bankGet t.visited 0 w = 0 ∧ ∃ m, bankGet t.sweepDue none w = some m

theorem counted_countCycle {s : State} {t : Thermo} {w : Nat} (hl : looping s w = true) (hs : s.thermo.swept.getLsbD w = true) :
    Counted (bankGet t.cycles 0 w) w (countCycle s t w) := by
  unfold Counted countCycle
  simp only [hl, hs, Bool.not_true, Bool.or_self, Bool.false_eq_true, if_false]
  split
  · exact (bankGet_put ..).trans (if_pos rfl)
  · exact ⟨(bankGet_put ..).trans (if_pos rfl), (bankGet_put ..).trans (if_pos rfl), _, (bankGet_put ..).trans (if_pos rfl)⟩

/-- The sweeps of the other Windows stay. -/
theorem countCycle_other (s : State) (t : Thermo) {w v : Nat} (hne : w ≠ v) :
    bankGet (countCycle s t v).cycles 0 w = bankGet t.cycles 0 w ∧ bankGet (countCycle s t v).visited 0 w = bankGet t.visited 0 w ∧
      bankGet (countCycle s t v).sweepDue none w = bankGet t.sweepDue none w := by
  unfold countCycle dropSweep
  dsimp only
  repeat' split
  all_goals simp only [bankGet_put, if_neg hne, and_self]

/-- The block once the cycle is counted too. -/
def counted (s : State) (deltas : List (Nat × Int)) : Thermo := (List.range 8).foldl (countCycle s) (corrected s deltas)

section
variable (s : State) (deltas : List (Nat × Int))

theorem heaterOf_counted (h : Nat) : heaterOf (counted s deltas) h = heaterOf (corrected s deltas) h := by
  have hkeep : (counted s deltas).heaters = (corrected s deltas).heaters :=
    foldl_keeps Thermo.heaters (fun t w => (countCycle_heaters s t w).1) _ _
  simp only [heaterOf, hkeep]

theorem loopless_counted : loopless (counted s deltas) = loopless s.thermo :=
  (foldl_keeps loopless (fun t w => (countCycle_heaters s t w).2) _ _).trans (loopless_corrected s deltas)

theorem counted_sweep {w : Nat} (hw : w < 8) (hl : looping s w = true) (hs : s.thermo.swept.getLsbD w = true) :
    Counted (bankGet s.thermo.cycles 0 w) w (counted s deltas) := by
  refine foldl_each (todo := fun w u => bankGet u.cycles 0 w = bankGet s.thermo.cycles 0 w)
    (done := fun w u => looping s w = true → s.thermo.swept.getLsbD w = true → Counted (bankGet s.thermo.cycles 0 w) w u)
    List.nodup_range (fun w _ u hu hl hs => hu ▸ counted_countCycle hl hs) (fun w _ v _ hne u => ?_) _
    (fun w _ => by rw [cycles_corrected]) w (List.mem_range.2 hw) hl hs
  obtain ⟨hcyc, hvis, hdue⟩ := countCycle_other s u hne.symm
  refine ⟨hcyc.trans, fun hu hl hs => ?_⟩
  have hdone := hu hl hs
  unfold Counted at hdone ⊢
  rwa [hcyc, hvis, hdue]

/-- The CODE of a dithered heater after the cycle (R180, R182, R183). -/
theorem counted_code (hnd : s.thermo.dithered.Nodup) {h : Nat} (hh : h ∈ s.thermo.dithered) :
    ((heaterOf (counted s deltas) h).code.toNat : Int) =
      if held s (h / 32768) = false ∧ (heaterOf s.thermo h).sc = false ∧ (heaterOf s.thermo h).dsel.toNat ∉ s.thermo.voided
      then max 0 (min 65535 (((heaterOf s.thermo h).code.toNat : Int) +
        max (-(lstep s.thermo : Int)) (min (lstep s.thermo : Int) (deltaOf deltas h))))
      else ((heaterOf s.thermo h).code.toNat : Int) := by
  rw [heaterOf_counted]
  split
  · rw [corrected_code s deltas hnd (List.mem_filter.2 ⟨hh, (correctable_iff s h).2 ‹_›⟩)]
    exact addCode_toNat ..
  · rw [heaterOf_corrected_other s deltas fun hm => ‹¬ _› ((correctable_iff s h).1 (List.mem_filter.1 hm).2)]

end

/-- LOCKIN_CYCLE_END at its time changes the block and the count of words to the Radiator alone. -/
theorem lockinCycleEnd_exec {s : State} (deltas : List (Nat × Int)) (hpow : powered s = true) (hrun : s.thermo.cycleOn = true)
    (hat : s.thermo.cycleAt.getD 0 + 1024 ≤ s.thermo.tick) :
    ∃ aud, exec (.lockinCycleEnd deltas) s = .next { s with
      thermo := { counted s deltas with lkCyc := s.thermo.lkCyc + 1, cycleOn := false, voided := [] },
      corr := { s.corr with aud := aud } } := by
  have hguard : (powered s && s.thermo.cycleOn && decide (s.thermo.cycleAt.getD 0 + 1024 ≤ s.thermo.tick)) = true := by
    simp [hpow, hrun, hat]
  have hexec : exec (.lockinCycleEnd deltas) s = .next (cycleEnd s deltas) := congrArg Host.Outcome.next (if_pos hguard)
  rw [hexec, ← eq_of_loopless Thermo.lkCyc (fun _ => rfl) (loopless_counted s deltas)]
  exact ⟨_, rfl⟩

/-! ### The end of a sweep (R184) -/

/-- A bit of CONV set or cleared; the others stay. -/
theorem getLsbD_conv (b : BitVec 8) (ok : Bool) (w : Fin 8) (k : Nat) :
    (if ok then b ||| BitVec.ofNat 8 (2 ^ w.val) else b &&& ~~~(BitVec.ofNat 8 (2 ^ w.val))).getLsbD k =
      if k = w.val then ok else b.getLsbD k := by
  have hbit : (BitVec.ofNat 8 (2 ^ w.val)).getLsbD k = decide (k = w.val) := by
    rw [BitVec.getLsbD_ofNat, Nat.testBit_two_pow]
    have := w.isLt
    by_cases e : k = w.val
    · subst e; simp
    · simp [e, Ne.symm e]
  cases ok
  · simp only [Bool.false_eq_true, if_false, BitVec.getLsbD_and, BitVec.getLsbD_not, hbit]
    by_cases hk : k < 8
    · by_cases e : k = w.val <;> simp [e, hk]
    · simp [BitVec.getLsbD_of_ge b k (by omega)]
  · simp only [if_true, BitVec.getLsbD_or, hbit]
    by_cases e : k = w.val <;> simp [e]

theorem sweepEnd_exec {s : State} (w : Fin 8) {m : Nat} (hpow : powered s = true) (hm : bankGet s.thermo.sweepDue none w.val = some m) :
    exec (.sweepEnd w) s = .next (sweepEnd s w.val m) := by
  show execSweepEnd w s = _
  unfold execSweepEnd
  rw [hpow, hm]

theorem sweepEnd_convRun (s : State) (w m : Nat) :
    (win (sweepEnd s w m) w).convRun = if m ≤ cthr s.thermo then (win s w).convRun + 1 else 0 := by
  have hwin := win_modWin s w w fun x => { x with convRun := if decide (m ≤ cthr s.thermo) then x.convRun + 1 else 0, requal := true }
  refine (congrArg Window.convRun (hwin.trans (if_pos rfl))).trans ?_
  simp only [decide_eq_true_eq]

/-! ### The obligation -/

/-- Settles O46: the start of a cycle by its cells, its end heater by heater and Window by Window, and the end of a sweep. -/
theorem lockinCyclesDitherAndCorrect : Obligations.LockinCyclesDitherAndCorrect := by
  unfold Obligations.LockinCyclesDitherAndCorrect
  intro s hon
  obtain ⟨hpow, hnvm⟩ := Bool.and_eq_true_iff.1 hon
  refine ⟨fun dither hoff htick hat => ?_, fun deltas hrun hat hnd => ?_, fun w m hm => ?_⟩
  · obtain ⟨swept, aud, hexec⟩ := lockinCycleStart_exec dither hpow hoff htick hat
    have hre := redithers_picked s dither
    refine ⟨_, hexec, rfl, rfl, fun h => ⟨hre.code h, fun hsc hpark => hre.out hnvm h (by rw [hsc, hpark]; rfl)⟩,
      fun h hh => picked_heater s dither hh, ?_, fun w => ?_, fun w hw hloop hv => ?_, fun h hh => picked_den s dither hh, rfl⟩
    · exact (picked_dithered s dither).symm ▸ nodup_cycleHeaters s dither 8
    · refine (picked_filter s dither w).trans_le ?_
      split
      · exact cycleCells_length_le s dither w
      · exact Nat.zero_le _
    · exact (picked_filter s dither w).trans ((if_pos hw).trans (cycleCells_full s dither w hloop hv))
  · obtain ⟨aud, hexec⟩ := lockinCycleEnd_exec deltas hpow hrun hat
    refine ⟨_, hexec, rfl, rfl, fun h hh => ?_, fun h hh => counted_code s deltas hnd hh, fun w hw => counted_sweep s deltas hw, rfl⟩
    exact (heaterOf_counted s deltas h).trans (heaterOf_corrected_other s deltas fun hm => hh (List.mem_filter.1 hm).1)
  · refine ⟨_, sweepEnd_exec w hpow hm, (getLsbD_conv _ _ w _).trans (if_pos rfl), (bankGet_put ..).trans (if_pos rfl),
      fun k hk => (getLsbD_conv _ _ w k).trans (if_neg hk), (bankGet_put ..).trans (if_pos rfl), sweepEnd_convRun s w.val m, rfl⟩

end Sys2Proof.Machine

/-!
Audit captures (R293 to R297): what a capture's check makes of AUDFAIL and of the events, whatever starts it, the minting of reservation
tokens (R300), and the obligation O42.
-/

namespace Sys2Proof.Machine

open Sys2Proof

/-! ### Events and the failure record -/

theorem raiseEvent_corr (s : State) (type ctx a0 a1 : Nat) : (raiseEvent s type ctx a0 a1).corr = s.corr :=
  eq_of_view quiet State.corr (fun _ => rfl) (quiet_raiseEvent ..)

theorem raiseEvent_nvm (s : State) (type ctx a0 a1 : Nat) : (raiseEvent s type ctx a0 a1).nvm = s.nvm :=
  eq_of_view quiet State.nvm (fun _ => rfl) (quiet_raiseEvent ..)

/-- An event takes the next number whether it is written, held or dropped (R392). -/
theorem raiseEvent_evSeq (s : State) (type ctx a0 a1 : Nat) : (raiseEvent s type ctx a0 a1).evSeq = s.evSeq + 1 := by
  unfold raiseEvent raiseEvent3
  dsimp only
  split
  · exact raiseVec_evSeq ..
  · split <;> rfl

/-- Without a ring, an event is held while fewer than 64 are (R393). -/
theorem raiseEvent_held {s : State} (type ctx a0 a1 : Nat) (hring : s.evRing = none) (hroom : s.events.length < 64) :
    (raiseEvent s type ctx a0 a1).events =
      s.events ++ [⟨type, ctx, s.evSeq, BitVec.ofNat 64 a0, BitVec.ofNat 64 a1, BitVec.ofNat 64 0⟩] := by
  unfold raiseEvent raiseEvent3
  dsimp only
  rw [hring]
  exact congrArg State.events (if_pos hroom)

/-- A failure record with room takes an entry without a word to anyone (R501). -/
theorem addFrec_room {s : State} (kind unit index cause paddr ctx : Nat) (h : s.nvm.frec.length < 1024) :
    ∃ nvm, addFrec s kind unit index cause paddr ctx = { s with nvm := nvm } :=
  ⟨_, if_pos h⟩

theorem addFrec_corr (s : State) (kind unit index cause paddr ctx : Nat) : (addFrec s kind unit index cause paddr ctx).corr = s.corr := by
  unfold addFrec
  dsimp only
  split
  · rfl
  · split
    · rfl
    · exact raiseEvent_corr ..

/-! ### Counts that pass, and the invariant of R293 -/

/-- What is handed out and returned at once counts on both sides and leaves LEVEL (R293). -/
theorem audOf_audPass (s : State) (q n r : Nat) :
    audOf (audPass s q n) r = if r = q then { audOf s q with
        take := (audOf s q).take + BitVec.ofNat 32 n, give := (audOf s q).give + BitVec.ofNat 32 n } else audOf s r := by
  unfold audPass
  simp only [audOf_audGive, audOf_audTake, if_true]
  split
  · rw [BitVec.add_sub_cancel]
  · rfl

/-- R293 sees no more of a quantity than TAKE less GIVE, LEVEL and CAP. -/
theorem audHolds_congr {s t : State} {q : Nat} (hnet : (audOf t q).take - (audOf t q).give = (audOf s q).take - (audOf s q).give)
    (hlevel : (audOf t q).level = (audOf s q).level) (hcap : capOf t q = capOf s q) : audHolds t q = audHolds s q := by
  unfold audHolds
  dsimp only
  rw [hnet, hlevel, hcap]

theorem audHolds_audPass (s : State) (p n q : Nat) : audHolds (audPass s p n) q = audHolds s q := by
  refine audHolds_congr ?_ ?_ rfl <;> rw [audOf_audPass] <;> split
  · subst q; dsimp only; bv_omega
  · rfl
  · subst q; rfl
  · rfl

/-! ### The quantities that fail -/

/-- A fold that sets the bit of every listed number that fails a test. -/
theorem getLsbD_foldl_failing (ok : Nat → Bool) {q : Nat} (hq : q < 16) (l : List Nat) (b : BitVec 16) :
    (l.foldl (fun b k => if ok k then b else b ||| BitVec.ofNat 16 (2 ^ k)) b).getLsbD q = (b.getLsbD q || (decide (q ∈ l) && !ok q)) := by
  induction l generalizing b with
  | nil => simp
  | cons k l ih =>
    rw [List.foldl_cons, ih]
    have hbit : (b ||| BitVec.ofNat 16 (2 ^ k)).getLsbD q = (b.getLsbD q || decide (k = q)) := by
      rw [BitVec.getLsbD_or, BitVec.getLsbD_ofNat, Nat.testBit_two_pow, decide_eq_true hq, Bool.true_and]
    by_cases hk : k = q
    · subst k
      cases hok : ok q
      · rw [if_neg nofun, hbit]; simp
      · simp
    · split
      · simp [Ne.symm hk]
      · rw [hbit]; simp [hk, Ne.symm hk]

theorem getLsbD_audFailing (s : State) {q : Nat} (hq : q < 16) : (audFailing s).getLsbD q = !audHolds s q := by
  unfold audFailing
  rw [getLsbD_foldl_failing _ hq]
  simp [hq]

theorem audFailing_eq_zero_iff (s : State) : audFailing s = 0 ↔ ∀ q < 16, audHolds s q = true := by
  refine ⟨fun h q hq => ?_, fun h => BitVec.eq_of_getLsbD_eq fun q hq => ?_⟩
  · have hbit := getLsbD_audFailing s hq
    rw [h] at hbit
    simpa using hbit
  · rw [getLsbD_audFailing s hq, h q hq]
    simp

/-! ### The check of a capture (R296) -/

/-- With every quantity right, the check counts the capture and no more. -/
theorem auditCheck_sound {s : State} (h : audFailing s = 0) :
    auditCheck s = { s with corr := { s.corr with audCap := s.corr.audCap + 1 } } :=
  if_pos h

/-- A capture counted, with what fails shown in AUDFAIL and AUDANY. -/
def flagged (s : State) : State :=
  { s with corr := { s.corr with
    audCap := s.corr.audCap + 1, audFail := s.corr.audFail ||| audFailing s, flags := s.corr.flags ||| 1 } }

/-- A failed check sets the flags, raises the event and writes the record. -/
theorem auditCheck_failed {s : State} (h : audFailing s ≠ 0) :
    auditCheck s = addFrec (raiseEvent (flagged s) 0x0B noCtx (flagged s).corr.audFail.toNat 0)
      15 0 0 ((flagged s).corr.audFail.toNat % 256) 0 noCtx :=
  if_neg h

/-- The check changes AUDCAP, AUDFAIL and AUDANY of the Corridor block and nothing else there. -/
theorem auditCheck_corr (s : State) : (auditCheck s).corr = { s.corr with
    audCap := s.corr.audCap + 1, audFail := s.corr.audFail ||| audFailing s,
    flags := if audFailing s = 0 then s.corr.flags else s.corr.flags ||| 1 } := by
  split
  · next h => rw [auditCheck_sound h, h]; simp
  · next h => rw [auditCheck_failed h, addFrec_corr, raiseEvent_corr]; rfl

/-- A failed check raises one AUDIT_FAIL event with AUDFAIL in ARG0; the record's entry, where it has room, raises none. -/
theorem auditCheck_event {s : State} (h : audFailing s ≠ 0) (hroom : s.nvm.frec.length < 1024) :
    (auditCheck s).evSeq = s.evSeq + 1 ∧ (s.evRing = none → s.events.length < 64 →
      ∃ e, (auditCheck s).events = s.events ++ [e] ∧ e.type = 0x0B ∧ e.arg0 = (auditCheck s).corr.audFail.setWidth 64) := by
  have hfail : (auditCheck s).corr.audFail = (flagged s).corr.audFail := by rw [auditCheck_corr]; rfl
  rw [hfail, auditCheck_failed h]
  obtain ⟨nvm, hrec⟩ := addFrec_room (s := raiseEvent (flagged s) 0x0B noCtx (flagged s).corr.audFail.toNat 0)
    15 0 0 ((flagged s).corr.audFail.toNat % 256) 0 noCtx (by rw [raiseEvent_nvm]; exact hroom)
  rw [hrec]
  exact ⟨raiseEvent_evSeq .., fun hring hheld => ⟨_, raiseEvent_held _ _ _ _ hring hheld, rfl, BitVec.ofNat_toNat ..⟩⟩

/-! ### Captures -/

/-- The state that a capture checks: the words that crossed the PCIe FIFOs counted, and FREEZE and the captured registers as given. -/
def latched (s : State) (freeze : Bool) (captured : Bank (Aud × Word)) : State :=
  { phyWords s with corr := { (phyWords s).corr with freeze := freeze, captured := captured } }

theorem freezeCapture_eq {s : State} (h : s.corr.freeze = false) :
    freezeCapture s = auditCheck (latched s true (captureRegs (phyWords s))) :=
  if_neg (Bool.eq_false_iff.1 h)

/-- Yilium's own capture leaves FREEZE and the captured registers (R297). -/
theorem latched_self (s : State) : latched s s.corr.freeze s.corr.captured = phyWords s := rfl

/-- What a capture, by FREEZE or by the timer, makes of the counts, AUDFAIL, AUDCAP and the events (R296). -/
structure Captures (s t : State) : Prop where
  audCap : t.corr.audCap = s.corr.audCap + 1
  others : ∀ q < 16, q ≠ 9 → audOf t q = audOf s q
  level : (audOf t 9).level = (audOf s 9).level
  audFail : ∀ q < 16, t.corr.audFail.getLsbD q = (s.corr.audFail.getLsbD q || !(audHolds s q))
  report : (∃ q < 16, audHolds s q = false) → t.corr.flags.getLsbD 0 = true ∧ (s.nvm.frec.length < 1024 → t.evSeq = s.evSeq + 1 ∧
    (s.evRing = none → s.events.length < 64 → ∃ e, t.events = s.events ++ [e] ∧ e.type = 0x0B ∧ e.arg0 = t.corr.audFail.setWidth 64))

section
variable (s : State) (freeze : Bool) (captured : Bank (Aud × Word))

@[simp] theorem latched_nvm : (latched s freeze captured).nvm = s.nvm := rfl
@[simp] theorem latched_evSeq : (latched s freeze captured).evSeq = s.evSeq := rfl
@[simp] theorem latched_evRing : (latched s freeze captured).evRing = s.evRing := rfl
@[simp] theorem latched_events : (latched s freeze captured).events = s.events := rfl

/-- Counting the words of the PCIe FIFOs disturbs no quantity's invariant. -/
theorem audHolds_latched (q : Nat) : audHolds (latched s freeze captured) q = audHolds s q :=
  audHolds_audPass (freshNat s).2 9 (freshNat s).1 q

theorem audFailing_latched_eq_zero_iff : audFailing (latched s freeze captured) = 0 ↔ ∀ q < 16, audHolds s q = true := by
  simp only [audFailing_eq_zero_iff, audHolds_latched]

theorem captures_auditCheck : Captures s (auditCheck (latched s freeze captured)) := by
  have hcorr := auditCheck_corr (latched s freeze captured)
  have haud (q : Nat) : audOf (auditCheck (latched s freeze captured)) q = audOf (phyWords s) q := by
    unfold audOf
    rw [hcorr]
    rfl
  have hphy (q : Nat) := audOf_audPass (freshNat s).2 9 (freshNat s).1 q
  refine ⟨by rw [hcorr]; rfl, fun q _ hq => ?_, ?_, fun q hq => ?_, fun ⟨q, hq, hbad⟩ => ?_⟩
  · exact ((haud q).trans (hphy q)).trans (if_neg hq)
  · exact (congrArg Aud.level ((haud 9).trans ((hphy 9).trans (if_pos rfl)))).trans rfl
  · rw [hcorr]
    dsimp only
    rw [BitVec.getLsbD_or, getLsbD_audFailing _ hq, audHolds_latched]
    rfl
  · have hne : audFailing (latched s freeze captured) ≠ 0 := fun h =>
      Bool.eq_false_iff.1 hbad ((audFailing_latched_eq_zero_iff s freeze captured).1 h q hq)
    refine ⟨?_, by simpa only [latched_nvm, latched_evSeq, latched_evRing, latched_events] using auditCheck_event hne⟩
    rw [hcorr]
    dsimp only
    rw [if_neg hne, BitVec.getLsbD_or]
    exact Bool.or_true _

end

/-- A capture by FREEZE latches the registers as they stand after the words of the PCIe FIFOs (R294, R295). -/
theorem freezeCapture_corr {s : State} (h : s.corr.freeze = false) :
    (freezeCapture s).corr.freeze = true ∧ (freezeCapture s).corr.captured = captureRegs (phyWords s) ∧
      (freezeCapture s).corr.aud = (phyWords s).corr.aud := by
  rw [freezeCapture_eq h, auditCheck_corr]
  exact ⟨rfl, rfl, rfl⟩

/-- With every quantity right, a capture by FREEZE changes the Corridor block alone. -/
theorem freezeCapture_sound {s : State} (h : s.corr.freeze = false) (hold : ∀ q < 16, audHolds s q = true) :
    freezeCapture s = { s with corr := (freezeCapture s).corr, freeIx := s.freeIx + 1 } := by
  rw [freezeCapture_eq h, auditCheck_sound ((audFailing_latched_eq_zero_iff ..).2 hold)]
  rfl

/-! ### Reservation tokens (R300) -/

/-- One more token in the bucket of a context and a class. -/
def mint (n cls : Nat) (u : Resv) : Resv := if u.ctx = n ∧ u.cls = cls then { u with tokens := u.tokens + 1 } else u

theorem mint_key (n cls : Nat) (u : Resv) : (mint n cls u).ctx = u.ctx ∧ (mint n cls u).cls = u.cls := by
  unfold mint
  split <;> exact ⟨rfl, rfl⟩

/-- Minting changes the reservation found and leaves it the one that is found. -/
theorem find?_map_mint {n cls : Nat} {rs : List Resv} {r : Resv} (h : rs.find? (fun r => r.ctx = n ∧ r.cls = cls) = some r) :
    (rs.map (mint n cls)).find? (fun r => r.ctx = n ∧ r.cls = cls) = some { r with tokens := r.tokens + 1 } := by
  have hr : r.ctx = n ∧ r.cls = cls := by simpa using List.find?_some h
  have hkey : (fun r : Resv => decide (r.ctx = n ∧ r.cls = cls)) ∘ mint n cls = fun r => decide (r.ctx = n ∧ r.cls = cls) :=
    funext fun u => by simp only [Function.comp, (mint_key n cls u).1, (mint_key n cls u).2]
  rw [List.find?_map, hkey, h]
  exact congrArg some (if_pos hr)

theorem rtokMint_exec {s : State} {n : Fin 4096} {cls : Fin 4} {r : Resv}
    (h : s.mem.resvs.find? (fun r => r.ctx = n.val ∧ r.cls = cls.val) = some r) :
    exec (.rtokMint n cls) s = .next (if r.tokens < bucketDepth r.rate
      then audTake { s with mem := { s.mem with resvs := s.mem.resvs.map (mint n.val cls.val) } } 7 1 else audPass s 7 1) := by
  show execRtokMint n cls s = _
  unfold execRtokMint
  rw [h]
  rfl

/-! ### The obligation -/

/-- Settles O42: the two ends of a minted token, and the check that both kinds of capture share. -/
theorem tokensAndAuditCaptures : Obligations.TokensAndAuditCaptures := by
  unfold Obligations.TokensAndAuditCaptures
  intro s
  refine ⟨fun n cls r hr => ⟨_, rtokMint_exec hr, ?_⟩, fun hopen hfree => ?_, fun hopen hfree => ?_, fun hopen => ?_, fun hpow hready => ?_⟩
  · change _ ∧ if r.tokens < bucketDepth r.rate then _ else _
    split
    · simp only [audOf_audTake, if_true]
      exact ⟨rfl, find?_map_mint hr, rfl⟩
    · simp only [audOf_audPass, if_true]
      exact ⟨rfl, rfl, rfl⟩
  · have hexec : exec .freezeCapture s = .next (freezeCapture s) := congrArg Host.Outcome.next (if_pos hopen)
    obtain ⟨hset, hcap, haud⟩ := freezeCapture_corr hfree
    obtain ⟨hcount, hothers, hlevel, hfail, hreport⟩ := freezeCapture_eq hfree ▸ captures_auditCheck s true (captureRegs (phyWords s))
    exact ⟨_, hexec, hset, hcap, hcount, haud, hothers, hlevel, hfail, hreport, freezeCapture_sound hfree⟩
  · exact congrArg Host.Outcome.next ((if_pos hopen).trans (if_pos hfree))
  · exact congrArg Host.Outcome.next (if_pos hopen)
  · have hexec : exec .auditTimer s = .next (auditCheck (phyWords s)) :=
      congrArg Host.Outcome.next (if_pos (Bool.and_eq_true_iff.2 ⟨hpow, hready⟩))
    have hcorr := auditCheck_corr (phyWords s)
    obtain ⟨hcount, hothers, hlevel, hfail, hreport⟩ := latched_self s ▸ captures_auditCheck s s.corr.freeze s.corr.captured
    exact ⟨_, hexec, by rw [hcorr]; rfl, by rw [hcorr]; rfl, hcount, hothers, hlevel, hfail, hreport⟩

end Sys2Proof.Machine

/-!
Doorbells (R315 to R319, R360): what an accepted one changes and what a discarded one does, and the obligation O18.
-/

namespace Sys2Proof.Machine

open Sys2Proof

/-! ### Changes of one queue and of one context -/

theorem modQueue_frame (s : State) (n : Nat) (f : Queue → Queue) : modQueue s n f = { s with queues := (modQueue s n f).queues } := by
  unfold modQueue
  split <;> rfl

theorem modCtx_frame (s : State) (n : Nat) (f : Context → Context) : modCtx s n f = { s with ctxs := (modCtx s n f).ctxs } := by
  unfold modCtx
  split <;> rfl

/-! ### Doorbells taken and discarded -/

/-- A doorbell changes its queue, the context that owns it, DBACC and the order of doorbells, and nothing else (R315, R355). -/
theorem ringQueue_frame (s : State) (n : Nat) (q : Queue) (val : Word) :
    ringQueue s n q val = { s with
      queues := (ringQueue s n q val).queues, ctxs := (ringQueue s n q val).ctxs,
      host := { s.host with dbAcc := s.host.dbAcc + 1 }, bellClock := s.bellClock + 1 } := by
  unfold ringQueue
  dsimp only
  rw [modCtx_frame, modQueue_frame]

/-- The doorbell moves TAIL of its queue, or sets OVR where TAIL would pass the ring's size (R360); every other queue stays. -/
theorem queueOf_ringQueue (s : State) (n m : Nat) (q : Queue) (val : Word) :
    queueOf (ringQueue s n q val) m = if m = n then (queueOf s n).map fun x => { x with
      bell := val, ovr := x.ovr || overRing s n q (val.toNat % 65536),
      tail := if overRing s n q (val.toNat % 65536) then x.tail else val.toNat % 65536 } else queueOf s m := by
  unfold ringQueue
  dsimp only
  rw [queueOf, modCtx_queues]
  exact queueOf_modQueue ..

/-- The owner's doorbell is the newest, and a context that is neither resident nor lost asks for residency (R355). -/
theorem ctxOf_ringQueue (s : State) (n : Nat) (q : Queue) (val : Word) :
    ctxOf (ringQueue s n q val) q.ctx = (ctxOf s q.ctx).map fun c => { c with
      bellAge := s.bellClock + 1, wantRes := c.wantRes || (!c.resident && !c.lost) } := by
  unfold ringQueue
  dsimp only
  rw [ctxOf_modCtx, if_pos rfl, ctxOf, modQueue_ctxs, modQueue_bellClock]
  rfl

theorem doorbellWord_owner {s : State} {page slot : Nat} {q : Queue} (val : Word) (hq : queueOf s slot = some q) (hown : q.ctx = page)
    (hlive : q.dying = false) : doorbellWord s page slot val = ringQueue s slot q val := by
  unfold doorbellWord
  rw [hq]
  exact if_pos ⟨hown, by simp [hlive]⟩

theorem doorbellWord_stranger {s : State} {page slot : Nat} (val : Word) (h : ∀ q, queueOf s slot = some q → q.ctx ≠ page) :
    doorbellWord s page slot val = doorbellRejected s := by
  unfold doorbellWord
  split
  · next q hq => exact if_neg fun hown => h q hq hown.1
  · rfl

theorem doorbellRead_owner {s : State} {page slot : Nat} {q : Queue} (hq : queueOf s slot = some q) (hown : q.ctx = page) :
    doorbellRead s page slot = q.bell := by
  simp [doorbellRead, hq, hown]

theorem doorbellRead_stranger {s : State} {page slot : Nat} (h : ∀ q, queueOf s slot = some q → q.ctx ≠ page) :
    doorbellRead s page slot = 0 := by
  unfold doorbellRead
  split
  · next q hq => exact if_neg (h q hq)
  · rfl

/-- A 32-bit write with all byte enables reaches its doorbell word (R309). -/
theorem doorbellWrite_exec {s : State} (page : Fin 4096) (slot : Fin 256) (val : Word) (hup : barUp s = true) (hrec : inRecovery s = false) :
    exec (.doorbellWrite page slot val 15 none) s = .next (doorbellWord s page.val slot.val val) := by
  show execDoorbellWrite page slot val 15 none s = _
  simp [execDoorbellWrite, hup, hrec, judge]

/-! ### The obligation -/

/-- Settles O18: the word written is a doorbell taken where its queue is the page's own, and a doorbell discarded elsewhere. -/
theorem doorbellsAreTakenOrCounted : Obligations.DoorbellsAreTakenOrCounted := by
  unfold Obligations.DoorbellsAreTakenOrCounted
  intro s page slot val hup hrec
  have hexec := doorbellWrite_exec page slot val hup hrec
  refine ⟨fun q hq hown hlive => ?_, fun hnone => ⟨?_, doorbellRead_stranger hnone⟩⟩
  · rw [doorbellWord_owner val hq hown hlive] at hexec
    have hring := queueOf_ringQueue s slot.val slot.val q val
    rw [if_pos rfl, hq, Option.map_some] at hring
    have hframe := ringQueue_frame s slot.val q val
    have hhost : (ringQueue s slot.val q val).host = { s.host with dbAcc := s.host.dbAcc + 1 } := by rw [hframe]
    refine ⟨_, hexec, hring, doorbellRead_owner hring hown, hhost, fun k hk => ?_, fun c hc => ?_, ?_⟩
    · rw [queueOf_ringQueue, if_neg hk]
    · rw [ctxOf_ringQueue, hc, Option.map_some]
    · rw [hhost]; exact hframe
  · rw [hexec, doorbellWord_stranger val hnone]; rfl

end Sys2Proof.Machine

/-!
AtomicOps of the host (R329, R331): a doubleword stored in sound memory reads back, and the obligation O21.
-/

namespace Sys2Proof.Machine

open Sys2Proof

/-! ### Bytes of a doubleword -/

theorem length_toBytes (n v : Nat) : (toBytes n v).length = n := by
  induction n generalizing v with
  | zero => rfl
  | succ n ih => rw [toBytes, List.length_cons, ih]

theorem fromBytes_toBytes (n v : Nat) : fromBytes (toBytes n v) = v % 256 ^ n := by
  induction n generalizing v with
  | zero => rw [Nat.pow_zero, Nat.mod_one]; rfl
  | succ n ih => rw [toBytes, fromBytes, ih, BitVec.toNat_ofNat, Nat.pow_add_one' (m := 256), Nat.mod_mul]

/-- What is written is what is read back there. -/
theorem Memory.read_write {m : Memory} (h : m.wf = true) (a : Nat) (bs : List Byte) : (m.write a bs).read a bs.length = bs := by
  refine List.ext_getElem (by simp [Memory.read]) fun i _ hi => ?_
  simp only [Memory.read, List.getElem_map, List.getElem_range, Memory.get_write bs h a i hi, List.getD_eq_getElem _ _ hi]

theorem Memory.nat_write_toBytes {m : Memory} (h : m.wf = true) (a n v : Nat) : (m.write a (toBytes n v)).nat a n = v % 256 ^ n := by
  have hread := Memory.read_write h a (toBytes n v)
  rw [length_toBytes] at hread
  rw [Memory.nat, hread, fromBytes_toBytes]

theorem Memory.nat_lt (m : Memory) (a n : Nat) : m.nat a n < 256 ^ n := by
  have h := fromBytes_lt (m.read a n)
  rwa [Memory.read, List.length_map, List.length_range] at h

/-! ### A store that meets no error (R256, R331) -/

/-- Where the code finds no error, the ECC side of a write can only clear poison (R256). -/
theorem writeGranules_clean {env : Env} (src : Finder) (pa n : Nat) (hu : env.ue = []) (hc : env.ce = []) (gs : List Nat) (s : State) :
    ∃ poison, writeGranules env src pa n gs s = { s with mem := { s.mem with poison := poison } } := by
  induction gs generalizing s with
  | nil => exact ⟨_, rfl⟩
  | cons g t ih =>
    rw [writeGranules]
    split
    · obtain ⟨poison, hp⟩ := ih (clearPoison s g)
      exact ⟨poison, hp⟩
    · have hpart : partialGranule s env src g = s := by simp [partialGranule, hu, hc]
      rw [hpart]
      exact ih s

/-- Testing the armed waits touches commands in flight and their audit count alone (R374). -/
theorem testFences_frame (s : State) : ∃ ops corr, testFences s = { s with ops := ops, corr := corr } := by
  unfold testFences
  dsimp only
  split
  · exact ⟨_, _, rfl⟩
  · exact ⟨_, _, rfl⟩

/-- A doubleword stored without an error changes its 8 bytes, and poison, armed waits and their count (R256, R374). -/
theorem putLong_clean {s : State} {env : Env} (src : Finder) (pa v : Nat) (hu : env.ue = []) (hc : env.ce = []) :
    ∃ ops corr poison, putLong s env src pa v = { s with
      ops := ops, corr := corr, mem := { s.mem with poison := poison, data := s.mem.data.write pa (toBytes 8 v) } } := by
  unfold putLong writePa
  dsimp only
  obtain ⟨poison, hp⟩ := writeGranules_clean src pa (toBytes 8 v).length hu hc (granulesOf pa (toBytes 8 v).length) s
  rw [hp]
  obtain ⟨ops, corr, hf⟩ := testFences_frame
    { s with mem := { s.mem with poison := poison, data := s.mem.data.write pa (toBytes 8 v) } }
  exact ⟨ops, corr, poison, hf⟩

/-! ### AtomicOps -/

/-- A second match of an offset is counted, and the lowest-numbered entry serves (R321). -/
theorem rangeLookup_hit {s : State} {off : Nat} {e : RangeEnt} {rest : List RangeEnt} (h : rangeHits s off = e :: rest) :
    ∃ host, rangeLookup s off = ({ s with host := host }, some e) ∧ host.atomCnt = s.host.atomCnt := by
  unfold rangeLookup
  rw [h]
  dsimp only
  split
  · exact ⟨_, rfl, rfl⟩
  · exact ⟨_, rfl, rfl⟩

/-- What an AtomicOp answered over sound memory makes of the part: v in its 8 bytes, the old ones sent, ATOMCNT counted (R329). -/
def AtomicDone (s t : State) (pa v : Nat) : Prop :=
  t.mem.data.nat pa 8 = v ∧ (∀ a, a < pa ∨ pa + 8 ≤ a → t.mem.data.get a = s.mem.data.get a) ∧
    t.out = s.out ++ [.completion true false (s.mem.data.read pa 8)] ∧ t.host.atomCnt = s.host.atomCnt + 1

/-- An AtomicOp on sound memory reads the old doubleword once and stores the new one once (R329, R331). -/
theorem hostAtomic_clean {s : State} {env : Env} {pa : Nat} (f : Nat → Nat) (hread : CleanRead s env pa 8) (hwf : s.mem.data.wf = true) :
    AtomicDone s (hostAtomic s env pa f) pa (f (s.mem.data.nat pa 8) % 2 ^ 64) := by
  have ⟨hue, hce, _⟩ := hread
  obtain ⟨ops, corr, poison, hput⟩ := putLong_clean
    (s := { s with host := { s.host with atomCnt := s.host.atomCnt + 1 } }) .host pa (f (s.mem.data.nat pa 8)) hue hce
  have heq : hostAtomic s env pa f =
      emit (putLong { s with host := { s.host with atomCnt := s.host.atomCnt + 1 } } env .host pa (f (s.mem.data.nat pa 8)))
        (.completion true false (s.mem.data.read pa 8)) := by
    unfold hostAtomic
    rw [readPa_clean hread]
    rfl
  rw [heq, hput]
  refine ⟨Memory.nat_write_toBytes hwf pa 8 _, fun a ha => Memory.get_write_other _ hwf pa a ?_, rfl, rfl⟩
  rwa [length_toBytes]

/-- An aligned AtomicOp in an entry that admits it is performed (R329, R330). -/
theorem atomicOp_done {s : State} {env : Env} {off : Nat} {e : RangeEnt} {rest : List RangeEnt} (f : Nat → Nat) (hup : barUp s = true)
    (hrec : inRecovery s = false) (hhit : rangeHits s off = e :: rest) (halign : off % 8 = 0) (hwen : e.wen = true) (hatom : e.atom = true)
    (hreach : hostReach s (e.addr off) 8 = true) (hread : CleanRead s env (e.addr off) 8) (hwf : s.mem.data.wf = true) :
    AtomicDone s (atomicOp s env off 8 f) (e.addr off) (f (s.mem.data.nat (e.addr off) 8) % 2 ^ 64) := by
  obtain ⟨host, hlook, hcnt⟩ := rangeLookup_hit hhit
  have heq : atomicOp s env off 8 f = hostAtomic { s with host := host } env (e.addr off) f := by
    simp only [atomicOp, hup, hrec, hlook, Bool.not_true, Bool.false_eq_true, if_false]
    exact if_pos ⟨trivial, halign, hwen, hatom, hreach⟩
  obtain ⟨hnat, hother, hout, hatomCnt⟩ := hostAtomic_clean (s := { s with host := host }) f hread hwf
  rw [heq]
  exact ⟨hnat, hother, hout, hatomCnt.trans (congrArg (· + 1) hcnt)⟩

/-- No operation's result is wider than the doubleword. -/
theorem atomVal_lt {old operand : Nat} (atop compare : Nat) (hold : old < 2 ^ 64) (hop : operand < 2 ^ 64) :
    atomVal atop old operand compare < 2 ^ 64 := by
  unfold atomVal
  split
  · exact Nat.mod_lt _ (by decide)
  · exact hop
  · split
    · exact hop
    · exact hold

/-! ### The obligation -/

/-- Settles O21: the three operations are one AtomicOp with three results, none of them wider than the doubleword. -/
theorem hostAtomicsReadAndWriteOnce : Obligations.HostAtomicsReadAndWriteOnce := by
  unfold Obligations.HostAtomicsReadAndWriteOnce
  intro s env off e rest x y hup hrec hhit halign hwen hatom hreach hread hwf
  have hdone (atop compare : Nat) : AtomicDone s (atomicOp s env off 8 fun old => atomVal atop old x.toNat compare) (e.addr off)
      (atomVal atop (s.mem.data.nat (e.addr off) 8) x.toNat compare) := by
    have h := atomicOp_done (fun old => atomVal atop old x.toNat compare) hup hrec hhit halign hwen hatom hreach hread hwf
    rwa [Nat.mod_eq_of_lt (atomVal_lt atop compare (Memory.nat_lt ..) x.isLt)] at h
  exact ⟨⟨_, rfl, hdone 0 0⟩, ⟨_, rfl, hdone 1 0⟩, ⟨_, rfl, hdone 2 y.toNat⟩⟩

end Sys2Proof.Machine

/-!
Writes to a BUSY mailbox (R348): the obligation O19 and the state that refutes it. Yilium looks for waiting requests in every entry of
the bank of unprivileged mailboxes, but reads and answers the first entry at an index. A bank with two entries at one index, which no
command builds, therefore lets it answer a request that is BUSY. Where no such entry stands a write while BUSY is discarded, in both views.
-/

namespace Sys2Proof.Machine

open Sys2Proof

/-! ### A mailbox that Yilium does not take -/

/-- No request of the mailbox waits: a privileged one is BUSY, and so is every entry of the bank that stands for an unprivileged one. -/
def Held (s : State) : MbRef → Prop
  | .priv m => (mbGet s (.priv m)).busy = true
  | .unpriv n => ∀ e ∈ s.umboxes, Fin.ofNat 4096 e.1 = n → e.2.busy = true

theorem mem_bankPut {α : Type} {b : Bank α} {i : Nat} {x : α} {e : Nat × α} (h : e ∈ bankPut b i x) : e = (i, x) ∨ e ∈ b := by
  induction b with
  | nil => exact .inl (List.mem_singleton.1 h)
  | cons c t ih =>
    obtain ⟨k, v⟩ := c
    simp only [bankPut] at h
    split at h
    · exact List.mem_cons.1 h
    · split at h
      · exact (List.mem_cons.1 h).imp_right (List.mem_cons_of_mem _)
      · rcases List.mem_cons.1 h with rfl | h
        · exact .inr List.mem_cons_self
        · exact (ih h).imp_right (List.mem_cons_of_mem _)

/-- One entry for every unprivileged mailbox, and none beyond them: the mailbox that is read is the one that may wait. -/
theorem held_of_busy {s : State} {mb : MbRef} (hone : ∀ e ∈ s.umboxes, e.1 < 4096 ∧ bankFind s.umboxes e.1 = some e.2)
    (h : (mbGet s mb).busy = true) : Held s mb := by
  cases mb with
  | priv m => exact h
  | unpriv n =>
    intro e he hn
    obtain ⟨hlt, hfind⟩ := hone e he
    have hval : n.val = e.1 := by rw [← hn]; exact Nat.mod_eq_of_lt hlt
    have hget : mbGet s (.unpriv n) = e.2 := by simp only [mbGet, bankGet, hval, hfind, Option.getD_some]
    rwa [hget] at h

theorem Held.of_quiet {s t : State} {mb : MbRef} (h : Held s mb) (e : quiet t = quiet s) : Held t mb := by
  cases mb with
  | priv m => exact (congrArg Mailbox.busy (mbGet_of_quiet e _)).trans h
  | unpriv n =>
    have hu : t.umboxes = s.umboxes := eq_of_view quiet State.umboxes (fun _ => rfl) e
    intro x hx
    exact h x (hu ▸ hx)

theorem Held.mbMod_other {s : State} {mb mb' : MbRef} (f : Mailbox → Mailbox) (h : Held s mb) (hne : mb' ≠ mb) :
    Held (mbMod s mb' f) mb := by
  cases mb with
  | priv m => exact (congrArg Mailbox.busy (mbGet_mbMod_other f hne)).trans h
  | unpriv n =>
    cases mb' with
    | priv m => exact h
    | unpriv k =>
      intro e he hn
      rcases mem_bankPut he with rfl | he
      · exact absurd (congrArg MbRef.unpriv ((Fin.ofNat_val_eq_self k).symm.trans hn)) hne
      · exact h e he hn

/-- A change that keeps BUSY of a mailbox lets no request of it wait. -/
theorem Held.mbMod_same {s : State} {mb : MbRef} {f : Mailbox → Mailbox} (h : Held s mb) (hf : (f (mbGet s mb)).busy = true) :
    Held (mbMod s mb f) mb := by
  cases mb with
  | priv m => exact (congrArg Mailbox.busy (mbGet_mbMod_same ..)).trans hf
  | unpriv n =>
    intro e he hn
    rcases mem_bankPut he with rfl | he
    · exact hf
    · exact h e he hn

/-- The mailbox that Yilium takes next is one of those that wait (R349). -/
theorem mbNext_mem {s : State} {i : Nat} (h : mbNext s = some i) : i ∈ mbWaiting s := by
  unfold mbNext at h
  split at h
  · next j hj => exact Option.some.inj h ▸ List.mem_of_find?_eq_some hj
  · exact List.mem_of_mem_head? h

theorem Held.not_waiting {s : State} {mb : MbRef} {i : Nat} (h : Held s mb) (hi : i ∈ mbWaiting s) : mbOfIx i ≠ mb := by
  rintro rfl
  rcases List.mem_append.1 hi with hp | hu
  · obtain ⟨hlt, hwait⟩ := List.mem_filter.1 hp
    have hix : mbOfIx i = .priv ⟨i, List.mem_range.1 hlt⟩ := dif_pos (List.mem_range.1 hlt)
    rw [hix] at h
    simp [show (bankGet s.mboxes Mailbox.reset i).busy = true from h] at hwait
  · obtain ⟨e, he, rfl⟩ := List.mem_map.1 hu
    obtain ⟨hmem, hwait⟩ := List.mem_filter.1 he
    have hix : mbOfIx (16 + e.1) = .unpriv (Fin.ofNat 4096 e.1) := by simp [mbOfIx]
    rw [hix] at h
    simp [h e hmem rfl] at hwait

/-- The answers to unknown codes leave a mailbox of which no request waits as it is. -/
theorem mbGet_lbIdle_held {mb : MbRef} (k : Nat) {s : State} (h : Held s mb) : mbGet (lbIdle k s) mb = mbGet s mb := by
  induction k generalizing s with
  | zero => rfl
  | succ k ih =>
    simp only [lbIdle]
    split
    · rfl
    · next i hi =>
      have hne : mbOfIx i ≠ mb := h.not_waiting (mbNext_mem hi)
      split
      · rfl
      · split
        · have htaken : Held (mbTake s (mbOfIx i)) mb := h.mbMod_other _ hne
          rw [ih ((htaken.mbMod_other _ hne).of_quiet (quiet_mbAnswer ..)), mbGet_mbAnswer_other _ _ hne, mbGet_mbTake_other hne]
        · rfl

/-! ### Writes while BUSY (R348) -/

/-- A 32-bit write with all byte enables reaches its mailbox word (R309). -/
theorem mailboxWrite_exec {s : State} (mb : MbRef) (off : Nat) (val : Word) (hw : Bool) (hup : barUp s = true) (hrec : inRecovery s = false) :
    exec (.mailboxWrite mb off val 15 hw none) s = .next (mailboxWord s mb off val hw) := by
  show execMailboxWrite mb off val 15 hw none s = _
  simp [execMailboxWrite, hup, hrec, judge]

/-- The mailbox takes software's writes to MBCTL and the request area: an unprivileged one also needs its context resident (R320). -/
def mbTakesWrites (s : State) : MbRef → Prop
  | .priv _ => True
  | .unpriv n => blockOpen s clrCWIF = true ∧ ∃ c, ctxOf s n.val = some c ∧ c.resident = true

/-- MBCTL or a word of the request area (Table 10.10). -/
def mbWritten (mb : MbRef) (off : Nat) : Prop := off = 0 ∨ (0x10 ≤ off ∧ off < match mb with | .priv _ => 0x800 | .unpriv _ => 0x400)

theorem mbWrite_busy {s : State} {mb : MbRef} {off : Nat} (val : Word) (hw : Bool) (hoff : mbWritten mb off) (h : (mbGet s mb).busy = true) :
    mbWrite s mb off val hw = mbMod s mb fun m => { m with mbovr := true } := by
  have h4 : off ≠ 4 := by rcases hoff with rfl | ⟨hlo, -⟩ <;> omega
  unfold mbWrite
  dsimp only
  rw [if_neg h4, if_pos h]
  exact if_pos hoff

theorem mailboxWord_open {s : State} {mb : MbRef} {off : Nat} (val : Word) (hw : Bool) (hopen : mbTakesWrites s mb)
    (hoff : mbWritten mb off) : mailboxWord s mb off val hw =
      if lbOpen (mbWrite s mb off val hw) then lbIdle (lbFuel (mbWrite s mb off val hw)) (mbWrite s mb off val hw)
      else mbWrite s mb off val hw := by
  cases mb with
  | priv m =>
    refine if_pos ?_
    rcases hoff with rfl | ⟨hlo, -⟩ <;> simp [*]
  | unpriv n =>
    obtain ⟨hblock, c, hc, hres⟩ := hopen
    exact if_pos (by simp only [hblock, hc, hres, Bool.and_self])

/-- A write to MBCTL or the request area of a BUSY mailbox sets MBOVR and changes nothing else in the mailbox (R348). -/
theorem mailboxWrite_busy {s : State} {mb : MbRef} {off : Nat} (val : Word) (hw : Bool) (hup : barUp s = true) (hrec : inRecovery s = false)
    (hopen : mbTakesWrites s mb) (hoff : mbWritten mb off) (hheld : Held s mb) (hbusy : (mbGet s mb).busy = true) :
    ∃ t, exec (.mailboxWrite mb off val 15 hw none) s = .next t ∧ mbGet t mb = { mbGet s mb with mbovr := true } := by
  refine ⟨_, mailboxWrite_exec mb off val hw hup hrec, ?_⟩
  rw [mailboxWord_open val hw hopen hoff, mbWrite_busy val hw hoff hbusy]
  split
  · rw [mbGet_lbIdle_held _ (hheld.mbMod_same hbusy), mbGet_mbMod_same]
  · exact mbGet_mbMod_same ..

/-- In the privileged view, the obligation's first clause: every state discards the write. -/
theorem privWrite_busy {s : State} {m : Fin 16} {off : Nat} (val : Word) (hw : Bool) (hup : barUp s = true) (hrec : inRecovery s = false)
    (hbusy : (mbGet s (.priv m)).busy = true) (hoff : off = 0 ∨ (0x10 ≤ off ∧ off < 0x800)) :
    ∃ t, exec (.mailboxWrite (.priv m) off val 15 hw none) s = .next t ∧
      mbGet t (.priv m) = { mbGet s (.priv m) with mbovr := true } :=
  mailboxWrite_busy val hw hup hrec trivial hoff hbusy hbusy

/-- In the unprivileged view, the obligation's second clause, where each mailbox has one entry. -/
theorem unprivWrite_busy {s : State} {n : Fin 4096} {c : Context} {off : Nat} (val : Word) (hw : Bool) (hup : barUp s = true)
    (hrec : inRecovery s = false) (hone : ∀ e ∈ s.umboxes, e.1 < 4096 ∧ bankFind s.umboxes e.1 = some e.2)
    (hc : ctxOf s n.val = some c) (hres : c.resident = true) (hblock : blockOpen s clrCWIF = true)
    (hbusy : (mbGet s (.unpriv n)).busy = true) (hoff : off = 0 ∨ (0x10 ≤ off ∧ off < 0x400)) :
    ∃ t, exec (.mailboxWrite (.unpriv n) off val 15 hw none) s = .next t ∧
      mbGet t (.unpriv n) = { mbGet s (.unpriv n) with mbovr := true } :=
  mailboxWrite_busy val hw hup hrec ⟨hblock, c, hc, hres⟩ hoff (held_of_busy hone hbusy) hbusy

/-- The last word of the request area of context 5's mailbox, which is BUSY and has the one entry of its bank. -/
theorem unprivWrite_busy_witness :
    ∃ t, exec (.mailboxWrite (.unpriv 5) 0x3FC 1 15 true none) (Tests.boxed true ⟨[]⟩) = .next t ∧
      mbGet t (.unpriv 5) = { mbGet (Tests.boxed true ⟨[]⟩) (.unpriv 5) with mbovr := true } :=
  unprivWrite_busy (c := Tests.ctx5) 1 true (by decide) (by decide) (by decide) rfl rfl (by decide) rfl (by decide)

/-! ### The obligation -/

/-- Two entries stand for the mailbox of context 5: a BUSY one, which is read, and one whose request waits. -/
def doubled : State :=
  { Tests.boxed true ⟨[]⟩ with
    umboxes := [(5, { Mailbox.reset with busy := true }), (5, { Mailbox.reset with go := true })] }

/-- Yilium finds the second entry's request waiting and answers the first entry, so that BUSY falls. -/
theorem doubled_write_clears_busy : (mbGet (mailboxWord doubled (.unpriv 5) 0 0 false) (.unpriv 5)).busy = false := by decide

/-- Refutes O19: the bank of unprivileged mailboxes may hold two entries at one index, and then a BUSY mailbox is answered. -/
theorem not_mailboxWritesPostOrAreDiscarded : ¬ Obligations.MailboxWritesPostOrAreDiscarded := by
  unfold Obligations.MailboxWritesPostOrAreDiscarded
  intro h
  have hup : barUp doubled = true := by decide
  have hrec : inRecovery doubled = false := by decide
  obtain ⟨-, hunpriv, -⟩ := h doubled 0 0 hup hrec
  obtain ⟨t, hexec, ht⟩ := hunpriv false 5 Tests.ctx5 rfl rfl (by decide) rfl 0 (.inl rfl)
  have hword : mailboxWord doubled (.unpriv 5) 0 0 false = t :=
    Host.Outcome.next.inj ((mailboxWrite_exec _ _ _ _ hup hrec).symm.trans hexec)
  have hbusy : (mbGet t (.unpriv 5)).busy = true := congrArg Mailbox.busy ht
  rw [← hword, doubled_write_clears_busy] at hbusy
  cases hbusy

end Sys2Proof.Machine

/-!
Rails and the SMBus port (R458, R492 to R494, Table 12.10): what a rail fault reports and what it leaves alone, what the port answers, and
the obligation O13.
-/

namespace Sys2Proof.Machine

open Sys2Proof

/-! ### What an entry of the failure record leaves alone (R501, R502) -/

/-- A state without what an entry of the failure record can change: the record, Threshold's flags, and the event of a full record. -/
def unrecorded (s : State) : State := { quiet s with nvm := State.reset.nvm, thresh := State.reset.thresh }

theorem unrecorded_addFrec (s : State) (kind unit index cause paddr ctx : Nat) :
    unrecorded (addFrec s kind unit index cause paddr ctx) = unrecorded s := by
  unfold addFrec
  dsimp only
  split
  · rfl
  · split
    · rfl
    · exact (eq_of_view quiet unrecorded (fun _ => rfl) (quiet_raiseEvent ..)).trans rfl

/-- A record with room appends the entry, and raises no event for it. -/
theorem addFrec_appends {s : State} (kind unit index cause paddr ctx : Nat) (hroom : s.nvm.frec.length < 1024) :
    (addFrec s kind unit index cause paddr ctx).evSeq = s.evSeq ∧
      ∃ e, (addFrec s kind unit index cause paddr ctx).nvm.frec = s.nvm.frec ++ [e] ∧ e.kind = kind ∧ e.index = index := by
  unfold addFrec
  dsimp only
  rw [if_pos hroom]
  exact ⟨rfl, _, rfl, rfl, rfl⟩

/-! ### ALERT_N (R494) -/

theorem setAlert_low {s : State} (h : s.power.flags.getLsbD 3 = true) : (setAlert s).alertN = false := by
  unfold setAlert
  simp only [h, Bool.or_true, Bool.not_true]
  split
  · rfl
  · next hlow => exact Bool.eq_false_iff.2 hlow

/-! ### A rail out of tolerance (R458) -/

/-- The part as the rail's fault finds it: RAILSTAT without the rail, RAILF, and no SMBus port without VSTBY (R492). -/
def railDown (s : State) (rail : Fin 10) : State :=
  { s with
    power := { s.power with
      railStat := s.power.railStat &&& ~~~(BitVec.ofNat 10 (2 ^ rail.val)), flags := s.power.flags ||| 8 }
    smbusUp := s.smbusUp && decide (rail.val ≠ 0) }

/-- The event and ALERT_N of a rail's fault. -/
def railSignalled (s : State) (rail : Fin 10) : State :=
  setAlert (raiseEvent (railDown s rail) 0x64 noCtx (railDown s rail).power.railStat.toNat 0)

/-- The whole report of a rail's fault: the record's entry too. -/
def railReported (s : State) (rail : Fin 10) : State :=
  addFrec (railSignalled s rail) 14 0 rail.val ((railDown s rail).power.railStat.toNat % 256) 0 noCtx

theorem railFault_exec {s : State} {rail : Fin 10} (hgood : s.pwrGood = true) (hrail : s.power.railStat.getLsbD rail.val = true) :
    exec (.railFault rail) s = .next (railReported s rail) :=
  congrArg Host.Outcome.next (if_pos (by rw [hgood, hrail, Bool.and_self]))

theorem railDown_railf (s : State) (rail : Fin 10) : (railDown s rail).power.flags.getLsbD 3 = true :=
  BitVec.getLsbD_or.trans (Bool.or_true _)

/-- RAILF is enough to assert ALERT_N, and the event leaves RAILF as it is. -/
theorem railSignalled_alertN (s : State) (rail : Fin 10) : (railSignalled s rail).alertN = false :=
  setAlert_low ((eq_of_view quiet (fun u => u.power.flags.getLsbD 3) (fun _ => rfl) (quiet_raiseEvent ..)).trans (railDown_railf s rail))

/-- A rail's fault keeps what neither its flags, nor its reports, nor the port's silence touch. -/
theorem railReported_keeps {α : Type} (s : State) (rail : Fin 10) (p : State → α) (hrec : ∀ u, p (unrecorded u) = p u)
    (halert : ∀ u, p (setAlert u) = p u) (hquiet : ∀ u, p (quiet u) = p u) : p (railReported s rail) = p (railDown s rail) :=
  calc p (railReported s rail)
    _ = p (railSignalled s rail) := eq_of_view unrecorded p hrec (unrecorded_addFrec ..)
    _ = p (raiseEvent (railDown s rail) 0x64 noCtx (railDown s rail).power.railStat.toNat 0) := halert _
    _ = p (railDown s rail) := eq_of_view quiet p hquiet (quiet_raiseEvent ..)

theorem railReported_alertN (s : State) (rail : Fin 10) : (railReported s rail).alertN = false :=
  (eq_of_view unrecorded State.alertN (fun _ => rfl) (unrecorded_addFrec ..)).trans (railSignalled_alertN s rail)

theorem railSignalled_nvm (s : State) (rail : Fin 10) : (railSignalled s rail).nvm = s.nvm :=
  (setAlert_nvm _).trans (raiseEvent_nvm ..)

theorem railSignalled_evSeq (s : State) (rail : Fin 10) : (railSignalled s rail).evSeq = s.evSeq + 1 :=
  (setAlert_evSeq _).trans (raiseEvent_evSeq ..)

/-- With room in the failure record, a rail's fault raises one event and writes one entry, of kind 14, that names the rail. -/
theorem railReported_record {s : State} (rail : Fin 10) (hroom : s.nvm.frec.length < 1024) :
    (railReported s rail).evSeq = s.evSeq + 1 ∧
      ∃ e, (railReported s rail).nvm.frec = s.nvm.frec ++ [e] ∧ e.kind = 14 ∧ e.index = rail.val := by
  have h := addFrec_appends (s := railSignalled s rail) 14 0 rail.val ((railDown s rail).power.railStat.toNat % 256) 0 noCtx
    (by rw [railSignalled_nvm]; exact hroom)
  rwa [railSignalled_nvm, railSignalled_evSeq] at h

/-! ### Answers of the SMBus port (R493) -/

/-- While the port is up it sends its answer, and changes nothing else. -/
theorem smbusSay_up {s : State} (v : Nat) (hup : s.smbusUp = true) : smbusSay s v = { s with out := s.out ++ [.smbus v] } :=
  if_pos hup

theorem bit_isReady (s : State) : bit (isReady s) = if s.ifLevel = 0 then 0 else 1 := by
  by_cases h : s.ifLevel = 0 <;> simp [bit, isReady, h]

/-! ### The obligation -/

/-- Settles O13: a rail's fault through the event, the ALERT_N and the entry of its report, each with what it leaves alone; the two returns
as they are defined; every read command through the one answer that the port sends. -/
theorem sidebandReportsRailsAndAnswers : Obligations.SidebandReportsRailsAndAnswers := by
  unfold Obligations.SidebandReportsRailsAndAnswers
  intro s rail
  refine ⟨fun hgood hrail => ⟨railReported s rail, railFault_exec hgood hrail, ?_, railReported_alertN s rail, ?_,
    railReported_record rail, ?_, ?_, ?_⟩, rfl, rfl, fun hup => ⟨?_, ?_, ?_, fun n => ?_, ?_⟩⟩
  · exact railReported_keeps s rail State.power (fun _ => rfl) setAlert_power (fun _ => rfl)
  · exact railReported_keeps s rail State.smbusUp (fun _ => rfl) setAlert_smbusUp (fun _ => rfl)
  · exact railReported_keeps s rail State.mem (fun _ => rfl) setAlert_mem (fun _ => rfl)
  · exact railReported_keeps s rail State.windows (fun _ => rfl) setAlert_windows (fun _ => rfl)
  · exact railReported_keeps s rail State.ifLevel (fun _ => rfl) setAlert_ifLevel (fun _ => rfl)
  · show execSmbusReadStatus s = _
    rw [execSmbusReadStatus, smbusSay_up _ hup, bit_isReady]
    cases s.power.trip <;> rfl
  all_goals exact congrArg Host.Outcome.next (smbusSay_up _ hup)

end Sys2Proof.Machine


/-!
Firmware (R506 to R510): what a reset clears whatever its type and that the firmware is not among it, what Threshold's check makes of the
two banks, what recovery does with an image, and the obligation O9.
-/

namespace Sys2Proof.Machine

open Sys2Proof

/-! ### The power block at a reset (Table 14.13) -/

theorem setAlert_eq (s : State) : ∃ a o, setAlert s = { s with alertN := a, out := o } := by
  unfold setAlert
  dsimp only
  split
  · exact ⟨_, _, rfl⟩
  · exact ⟨s.alertN, s.out, rfl⟩

/-- The power block's reset reaches no further than its two pins. -/
theorem clearPower_eq (k : ResetKind) (s : State) :
    ∃ p trip a o, clearPower k s = { s with power := p, thermTripN := trip, alertN := a, out := o } := by
  unfold clearPower
  dsimp only
  split
  all_goals
    obtain ⟨a, o, h⟩ := setAlert_eq _
    exact ⟨_, _, a, o, h⟩

/-! ### What every reset clears (Table 12.3, Table 14.1) -/

/-- A cleared Window is OFF or still RETIRED, and shows only the Lamp and the service state beside (R115). -/
theorem Window.cleared_reset (x : Window) : (x.cleared.state = .off ∨ x.cleared.state = .retired) ∧
    x.cleared = { Window.reset with
      state := x.cleared.state, gone := x.cleared.gone, redir := x.cleared.redir, spare := x.cleared.spare } := by
  unfold Window.cleared
  split
  · exact ⟨.inr rfl, rfl⟩
  · exact ⟨.inl rfl, rfl⟩

theorem cleared_clearCommon (s : State) : Cleared (clearCommon s) where
  mboxes := ⟨rfl, rfl⟩
  dumbs := rfl
  corr := rfl
  links := ⟨rfl, rfl, rfl, rfl, rfl⟩
  windows := List.forall_mem_map.2 fun e _ => e.2.cleared_reset
  pantries := List.forall_mem_map.2 fun _ _ => rfl
  ifLevel := rfl
  ctxs := rfl
  queues := rfl
  ops := rfl
  shares := rfl
  streams := rfl
  trees := rfl
  events := rfl
  evRing := rfl
  xlate := rfl
  resvs := rfl
  owners := rfl
  exports := rfl
  ranges := rfl

namespace Cleared
variable {s : State}

/-- A Pantry that keeps MIGR for the session still holds nothing (R151). -/
theorem setMigr (h : Cleared s) (w : Nat) : Cleared (modPantry s w fun p => { p with migr := !p.out }) := by
  refine { h with pantries := ?_ }
  dsimp only [modPantry]
  refine bankMod_all (P := fun p : Pantry => p = { Pantry.reset with out := p.out, migr := p.migr }) h.pantries ?_ ?_
  · rfl
  · intro p hp
    rw [hp]

theorem keepMigr (h : Cleared s) : Cleared (keepMigr s) := List.foldlRecOn _ _ h fun _ ht e _ => ht.setMigr e.1

theorem clearEndpoint (h : Cleared s) (keepLink forget : Bool) : Cleared (clearEndpoint keepLink forget s) := { h with ranges := rfl }

theorem clearStudy (h : Cleared s) : Cleared (clearStudy s) := { h with }

theorem clearMem (h : Cleared s) : Cleared (clearMem s) := { h with resvs := rfl, owners := rfl }

theorem clearThermo (h : Cleared s) : Cleared (clearThermo s) := { h with }

theorem clearLinks (h : Cleared s) : Cleared (clearLinks s) := { h with links := ⟨rfl, rfl, rfl, rfl, rfl⟩, exports := rfl }

theorem clearPower (h : Cleared s) (k : ResetKind) : Cleared (clearPower k s) := by
  obtain ⟨p, trip, a, o, e⟩ := clearPower_eq k s
  rw [e]
  exact { h with }

theorem clearThresh (h : Cleared s) (k : ResetKind) : Cleared (clearThresh k s) := { h with }

theorem loadBoard (h : Cleared s) : Cleared (loadBoard s) := by
  unfold Machine.loadBoard
  split
  · exact { h with }
  · exact { h with }

theorem rewriteYilium (h : Cleared s) : Cleared (rewriteYilium s) := { h with }

/-- Whatever a reset's type adds, what every reset clears stays so. -/
theorem clearKind (h : Cleared s) (k : ResetKind) : Cleared (clearKind k s) := by
  cases k with
  | flr => exact (h.clearEndpoint true true).rewriteYilium
  | internal => exact (h.clearStudy.clearMem.clearThermo.clearLinks.clearPower _).clearThresh _
  | warm => exact ((h.loadBoard.clearEndpoint false false).clearStudy.clearMem.clearThermo.clearLinks.clearPower _).clearThresh _
  | cold =>
    have hc := ((h.loadBoard.clearEndpoint false true).clearStudy.clearMem.clearThermo.clearLinks.clearPower .cold).clearThresh .cold
    exact { hc with }

end Cleared

theorem cleared_doReset (k : ResetKind) (cause : BitVec 3) (s : State) : Cleared (doReset k cause s) :=
  have h := (cleared_clearCommon (if k = .flr then (List.range 16).foldl flrDoor s else s)).keepMigr.clearKind k
  { h with }

/-! ### The firmware is no reset's to clear (Table 12.3, R504) -/

/-- The fuses, the images of the two banks and which bank is active. -/
def firmware (s : State) : Fuses × List Byte × List Byte × Bool := (s.fuses, s.nvm.bankA, s.nvm.bankB, s.nvm.bank)

theorem firmware_freePage (s : State) (page : Nat) : firmware (freePage s page) = firmware s := by
  unfold freePage retirePage
  dsimp only
  split
  · split <;> rfl
  · rfl

theorem firmware_clearCommon (s : State) : firmware (clearCommon s) = firmware s :=
  foldl_keeps firmware (fun u (e : Nat × Owner) => firmware_freePage u e.1) s.mem.owners s

theorem firmware_keepMigr (s : State) : firmware (keepMigr s) = firmware s :=
  foldl_keeps (g := fun u (e : Nat × Window) => modPantry u e.1 fun p => { p with migr := !p.out }) firmware (fun _ _ => rfl) _ s

@[simp] theorem firmware_clearEndpoint (keepLink forget : Bool) (s : State) : firmware (clearEndpoint keepLink forget s) = firmware s := rfl
@[simp] theorem firmware_clearStudy (s : State) : firmware (clearStudy s) = firmware s := rfl
@[simp] theorem firmware_clearMem (s : State) : firmware (clearMem s) = firmware s := rfl
@[simp] theorem firmware_clearThermo (s : State) : firmware (clearThermo s) = firmware s := rfl
@[simp] theorem firmware_clearLinks (s : State) : firmware (clearLinks s) = firmware s := rfl
@[simp] theorem firmware_clearThresh (k : ResetKind) (s : State) : firmware (clearThresh k s) = firmware s := rfl
@[simp] theorem firmware_rewriteYilium (s : State) : firmware (rewriteYilium s) = firmware s := rfl
@[simp] theorem firmware_setLamp (s : State) (l : Lamp) : firmware { s with lamp := l } = firmware s := rfl

@[simp] theorem firmware_clearPower (k : ResetKind) (s : State) : firmware (clearPower k s) = firmware s := by
  obtain ⟨p, trip, a, o, e⟩ := clearPower_eq k s
  rw [e]
  rfl

@[simp] theorem firmware_loadBoard (s : State) : firmware (loadBoard s) = firmware s := by
  unfold loadBoard
  split <;> rfl

theorem firmware_clearKind (k : ResetKind) (s : State) : firmware (clearKind k s) = firmware s := by
  cases k <;> simp [clearKind]

/-- A reset that closes no Door first (R465) leaves the firmware as it is. -/
theorem firmware_doReset {k : ResetKind} (hk : k ≠ .flr) (cause : BitVec 3) (s : State) : firmware (doReset k cause s) = firmware s := by
  have h : firmware (clearKind k (keepMigr (clearCommon s))) = firmware s := by
    rw [firmware_clearKind, firmware_keepMigr, firmware_clearCommon]
  simp only [doReset, if_neg hk]
  generalize clearKind k (keepMigr (clearCommon s)) = t at h ⊢
  exact h

/-! ### The check of the banks (R506, R507, R509) -/

/-- With no blow, wipe, activation or switch left to do, the check takes the active bank, else the other one, else recovery. -/
theorem firmwareCheck_eq {s : State} (hfuse : s.nvm.fuseTodo = none) (hwipe : s.nvm.wipePending = false) (hact : s.nvm.fwAct = false)
    (hswitch : s.nvm.switchDue = false) :
    firmwareCheck s =
      if imgAccepted s (bankImage s s.nvm.bank) then runImage s
      else if imgAccepted s (bankImage s (!s.nvm.bank)) then fallBack s
      else enterRecovery s := by
  have hpending : finishPending s = s := by simp [finishPending, hfuse, hwipe]
  simp [firmwareCheck, hpending, hact, hswitch]

theorem firmwareCheck_exec {s : State} (hstart : starting s = true) (hrun : s.thresh.hearthRun = false)
    (hboot : s.thresh.tstate = .boot) : exec .firmwareCheck s = .next (firmwareCheck s) :=
  congrArg Host.Outcome.next (if_pos (by simp [hstart, hrun, hboot]))

/-- An entry of the failure record leaves the banks as they are (R501). -/
theorem firmware_addFrec (s : State) (kind unit index cause paddr ctx : Nat) :
    firmware (addFrec s kind unit index cause paddr ctx) = firmware s := by
  unfold addFrec
  dsimp only
  split
  · rfl
  · split
    · rfl
    · exact (eq_of_view quiet firmware (fun _ => rfl) (quiet_raiseEvent ..)).trans rfl

/-- An entry of the failure record sets at most flags of Threshold (R502). -/
theorem addFrec_thresh (s : State) (kind unit index cause paddr ctx : Nat) :
    ∃ f, (addFrec s kind unit index cause paddr ctx).thresh = { s.thresh with flags := s.thresh.flags ||| f } := by
  have hnone : s.thresh = { s.thresh with flags := s.thresh.flags ||| 0 } := by simp
  unfold addFrec
  dsimp only
  split
  · exact ⟨0, hnone⟩
  · split
    · exact ⟨0, hnone⟩
    · exact ⟨4, eq_of_view quiet State.thresh (fun _ => rfl) (quiet_raiseEvent ..)⟩

/-- What the banks hold is part of the firmware. -/
theorem bankImage_of_firmware {s t : State} (h : firmware t = firmware s) (b : Bool) : bankImage t b = bankImage s b := by
  obtain ⟨-, hA, hB, -⟩ : t.fuses = s.fuses ∧ t.nvm.bankA = s.nvm.bankA ∧ t.nvm.bankB = s.nvm.bankB ∧ t.nvm.bank = s.nvm.bank := by
    simpa [firmware] using h
  simp only [bankImage, hA, hB]

/-- Out of BOOT, Hearth runs the image of the active bank in TSTATE NORMAL (R523). -/
theorem runImage_thresh {s : State} (hboot : s.thresh.tstate = .boot) :
    (runImage s).thresh =
      { s.thresh with running := bankImage s s.nvm.bank, hearthRun := true, tstate := .normal } := by
  simp [runImage, hboot]

/-- The part with the other bank active, before the entry of a fallback is written. -/
def switched (s : State) : State :=
  { s with
    nvm := { s.nvm with bank := !s.nvm.bank, activated := false, switchDue := false }
    fwFallback := true
    thresh := { s.thresh with flags := s.thresh.flags ||| 1 } }

/-- A fallback with its entry written. -/
def switchRecorded (s : State) : State := addFrec (switched s) 16 0 0 (bit (!s.nvm.bank)) 0 noCtx

theorem fallBack_eq (s : State) : fallBack s = runImage (switchRecorded s) := rfl

theorem firmware_switchRecorded (s : State) : firmware (switchRecorded s) = (s.fuses, s.nvm.bankA, s.nvm.bankB, !s.nvm.bank) :=
  firmware_addFrec ..

/-- The fallback of R507: the other bank is active and its image runs, FWFALL is set and FW_FALLBACK is due. -/
theorem fallBack_runs {s : State} (hboot : s.thresh.tstate = .boot) :
    (fallBack s).fuses = s.fuses ∧ (fallBack s).thresh.tstate = .normal ∧ (fallBack s).thresh.hearthRun = true ∧
      (fallBack s).thresh.running = bankImage s (!s.nvm.bank) ∧ (fallBack s).nvm.bank = !s.nvm.bank ∧
      (fallBack s).fwFallback = true ∧ (fallBack s).thresh.flags.getLsbD 0 = true := by
  have hfw := firmware_switchRecorded s
  have hbank : (switchRecorded s).nvm.bank = !s.nvm.bank := congrArg (·.2.2.2) hfw
  have hfall : (switchRecorded s).fwFallback = true :=
    eq_of_view unrecorded State.fwFallback (fun _ => rfl) (unrecorded_addFrec ..)
  obtain ⟨f, hthresh⟩ : ∃ f, (switchRecorded s).thresh = { s.thresh with flags := s.thresh.flags ||| 1 ||| f } := addFrec_thresh ..
  have hrun := runImage_thresh (s := switchRecorded s) (by rw [hthresh]; exact hboot)
  rw [fallBack_eq, hrun, hthresh]
  refine ⟨congrArg (·.1) hfw, rfl, rfl, ?_, hbank, hfall, ?_⟩
  · rw [hbank]
    exact bankImage_of_firmware (firmware_addFrec ..) _
  · simp

/-! ### The image that recovery loads (R510) -/

/-- The bytes written to RCVDATA, in order. -/
def rcvImage (s : State) : List Byte := s.thresh.rcvWords.flatMap fun w => toBytes 4 w.toNat

/-- The part once RCVGO was written: RCVCTL holds 1 where the clearing of RCVGO met the write and was dropped (R344). -/
def goWritten (s : State) (val : Word) (drop : Bool) : State :=
  { s with thresh := { s.thresh with rcvGo := drop, rcvLost := lostWrite val drop } }

/-- The part with the loaded image in bank A and bank A active. -/
def installed (s : State) : State :=
  { s with nvm := { s.nvm with bankA := rcvImage s, bank := false, switchDue := false, activated := false } }

/-- The part with the loaded image refused: RCVERR, and nothing is loaded any more. -/
def imageRefused (s : State) : State :=
  { s with thresh := { s.thresh with flags := s.thresh.flags ||| 16, rcvLen := 0, rcvWords := [] } }

/-- The Internal reset that follows an installation. -/
def restarted (s : State) : State := doReset .internal (anyInternalCause s).1 (anyInternalCause s).2

theorem recoveryGo_eq (s : State) (val : Word) (drop : Bool) :
    recoveryGo s val drop =
      if imgAccepted s (rcvImage s) then restarted (installed (goWritten s val drop)) else imageRefused (goWritten s val drop) := rfl

theorem firmware_restarted (s : State) : firmware (restarted s) = firmware s :=
  firmware_doReset (by decide) ..

theorem recoveryGo_exec {s : State} {val : Word} (drop : Bool) (hup : barUp s = true) (hrec : inRecovery s = true)
    (hgo : val.getLsbD 0 = true) : exec (.recoveryGo val drop) s = .next (recoveryGo s val drop) :=
  congrArg Host.Outcome.next (if_pos (by simp [hup, hrec, hgo]))

theorem recoveryDataWrite_exec {s : State} (val : Word) (hup : barUp s = true) (hrec : inRecovery s = true) :
    exec (.recoveryDataWrite val) s = .next (writeRcvData s val) :=
  congrArg Host.Outcome.next (if_pos (by simp [hup, hrec]))

/-! ### The obligation -/

/-- Settles O9: the check by its three outcomes, the word that recovery takes, and RCVGO by the two outcomes of the image's check. -/
theorem firmwareIsCheckedBeforeItRuns : Obligations.FirmwareIsCheckedBeforeItRuns := by
  unfold Obligations.FirmwareIsCheckedBeforeItRuns
  intro s
  refine ⟨fun hstart hrun hboot hfuse hwipe hact hswitch => ?_, fun hup hrec => ⟨fun val => ?_, fun val drop hgo => ?_⟩⟩
  · refine ⟨_, firmwareCheck_exec hstart hrun hboot, ?_⟩
    rw [firmwareCheck_eq hfuse hwipe hact hswitch]
    split
    next =>
      rw [runImage_thresh hboot]
      exact ⟨rfl, rfl, rfl, rfl, rfl⟩
    next =>
      split
      next => exact fallBack_runs hboot
      next => exact ⟨rfl, rfl, rfl, rfl, rfl⟩
  · exact ⟨_, recoveryDataWrite_exec val hup hrec, rfl, rfl, rfl, rfl⟩
  · refine ⟨_, recoveryGo_exec drop hup hrec hgo, ?_⟩
    change _ ∧ if imgAccepted s (rcvImage s) then _ else _
    rw [recoveryGo_eq]
    split
    next =>
      have hfw := firmware_restarted (installed (goWritten s val drop))
      exact ⟨congrArg (·.1) hfw, cleared_doReset .., congrArg (·.2.1) hfw, congrArg (·.2.2.2) hfw, congrArg (·.2.2.1) hfw⟩
    next => exact ⟨rfl, by simp [imageRefused], rfl, rfl, rfl, rfl, rfl⟩

end Sys2Proof.Machine

/-!
What every command keeps: one lemma per command, from the lemmas of Laws/Kept*.lean about the operations that its meaning calls; then the
statements about every step.
-/

namespace Sys2Proof.Machine

open Sys2Proof

/-- A command answers a next state that keeps what every operation keeps. -/
def KeptNext (q : List Instr) (f : Fuses) (T : Prop) (o : Host.Outcome State Fault Refusal) : Prop :=
  ∃ t, o = .next t ∧ Kept q f T t

theorem KeptNext.next {q : List Instr} {f : Fuses} {T : Prop} {t : State} (h : Kept q f T t) : KeptNext q f T (.next t) := ⟨t, rfl, h⟩

/-- A token for the test mode is accepted only while a test fuse is left to blow (R520). -/
theorem testCnt_of_tokenOk {s : State} {b : List Byte} (h : tokenOk s b = true) : s.fuses.testCnt < 16 := by
  simp only [tokenOk, Bool.and_eq_true, decide_eq_true_eq] at h
  omega

section
variable {q₀ : List Instr} {f₀ : Fuses} {T₀ : Prop} {s : State}

theorem execScrubQueued_kept {larder : Bool} (hk : Kept q₀ f₀ T₀ s) : KeptNext q₀ f₀ T₀ (execScrubQueued larder s) := by
  refine .next ?_
  have hdrop {l : List Nat} (h : l.length ≤ 64) : (l.drop 1).length ≤ 64 := by rw [List.length_drop]; omega
  repeat' split
  · exact ⟨hk.pend, hk.fuse, fun t => let k := hk.tidy t; { k with scrubL := hdrop k.scrubL }⟩
  · exact ⟨hk.pend, hk.fuse, fun t => let k := hk.tidy t; { k with scrubC := hdrop k.scrubC }⟩
  · exact hk
theorem execSweepGranule_kept {larder : Bool} {env : Env} (hk : Kept q₀ f₀ T₀ s) : KeptNext q₀ f₀ T₀ (execSweepGranule larder env s) :=
  .next (by repeat' first | assumption | apply kept_sweepNext | apply kept_sweepRead | split)
theorem execRowRetire_kept {stack : Fin 4} {row : Nat} {pages : List Nat} (hk : Kept q₀ f₀ T₀ s) :
    KeptNext q₀ f₀ T₀ (execRowRetire stack row pages s) :=
  .next (by repeat' first | assumption | apply kept_retireRow | split)
theorem execStackDown_kept {stack : Fin 4} (hk : Kept q₀ f₀ T₀ s) : KeptNext q₀ f₀ T₀ (execStackDown stack s) :=
  .next (by repeat' first | assumption | apply kept_stackDown | split)
theorem execStackDerate_kept {stack : Fin 4} {temp : Int} (hk : Kept q₀ f₀ T₀ s) : KeptNext q₀ f₀ T₀ (execStackDerate stack temp s) :=
  .next (by
    repeat' first
      | assumption | apply kept_recomputeDeliv | apply kept_raiseEvent | (with_reducible apply Kept.upd; assumption) | split
      | dsimp only)
theorem execRtokMint_kept {ctx : Fin 4096} {cls : Fin 4} (hk : Kept q₀ f₀ T₀ s) : KeptNext q₀ f₀ T₀ (execRtokMint ctx cls s) :=
  .next (by
    repeat' first
      | assumption | apply kept_audTake | apply kept_audPass | (with_reducible apply Kept.upd; assumption) | split)
theorem execFreezeCapture_kept (hk : Kept q₀ f₀ T₀ s) : KeptNext q₀ f₀ T₀ (execFreezeCapture s) :=
  .next (by repeat' first | assumption | apply kept_freezeCapture | split)
theorem execFreezeRelease_kept (hk : Kept q₀ f₀ T₀ s) : KeptNext q₀ f₀ T₀ (execFreezeRelease s) :=
  .next (by repeat' first | assumption | apply kept_freezeRelease | split)
theorem execAuditTimer_kept (hk : Kept q₀ f₀ T₀ s) : KeptNext q₀ f₀ T₀ (execAuditTimer s) :=
  .next (by repeat' first | assumption | apply kept_auditCheck | apply kept_phyWords | split)
theorem execFlitReceive_kept {d : Fin 16} {fecCorr fecUnc : Nat} {flit : List Byte} (hk : Kept q₀ f₀ T₀ s) :
    KeptNext q₀ f₀ T₀ (execFlitReceive d fecCorr fecUnc flit s) :=
  .next (by
    repeat' first
      | assumption | apply kept_countFec | apply kept_discardFlit | apply kept_modDoor | apply kept_acceptFlit | apply kept_audPass
      | split)
theorem execFlitTransmit_kept {d : Fin 16} (hk : Kept q₀ f₀ T₀ s) : KeptNext q₀ f₀ T₀ (execFlitTransmit d s) := by
  unfold execFlitTransmit
  dsimp only
  refine .next ?_
  repeat' split
  · exact hk
  · exact kept_sendLink hk
  · exact kept_sendLane hk
  all_goals exact hk
theorem execNullFlitTimer_kept {d : Fin 16} (hk : Kept q₀ f₀ T₀ s) : KeptNext q₀ f₀ T₀ (execNullFlitTimer d s) := by
  unfold execNullFlitTimer
  dsimp only
  refine .next ?_
  repeat' split
  · exact hk
  · exact kept_sendLink hk
  · exact hk
  · exact kept_sendFlit hk
theorem execDoorTrained_kept {d : Fin 16} {peer : Half} (hk : Kept q₀ f₀ T₀ s) : KeptNext q₀ f₀ T₀ (execDoorTrained d peer s) :=
  .next (by repeat' first | assumption | apply kept_modDoor | apply kept_tryOpen | split | dsimp only)
theorem execDoorDown_kept {d : Fin 16} {cause : Fin 5} (hk : Kept q₀ f₀ T₀ s) : KeptNext q₀ f₀ T₀ (execDoorDown d cause s) :=
  .next (by repeat' first | assumption | apply kept_downDoor | split)
theorem execDoorRetrain_kept {d : Fin 16} {fails : Bool} (hk : Kept q₀ f₀ T₀ s) : KeptNext q₀ f₀ T₀ (execDoorRetrain d fails s) :=
  .next (by repeat' first | assumption | apply kept_modDoor | apply kept_addFrec | apply kept_raiseEvent | split)
theorem execLinkDegraded_kept {d : Fin 16} {rate : Long} (hk : Kept q₀ f₀ T₀ s) : KeptNext q₀ f₀ T₀ (execLinkDegraded d rate s) :=
  .next (by repeat' first | assumption | apply kept_raiseEvent | apply kept_modDoor | split)
theorem execAtrsp_kept (hk : Kept q₀ f₀ T₀ s) : KeptNext q₀ f₀ T₀ (execAtrsp s) :=
  .next (by
    repeat' first
      | assumption | exact kept_takeMsg ‹_› _ ‹_› | apply kept_lateRsp | apply kept_releaseHeld | apply kept_dropReq | apply kept_newReq
      | apply kept_dropSignal | apply kept_raiseQueueVec | split)
theorem execRetry_kept (hk : Kept q₀ f₀ T₀ s) : KeptNext q₀ f₀ T₀ (execRetry s) :=
  .next (by
    repeat' first
      | assumption | exact kept_takeMsg ‹_› _ ‹_› | apply kept_lateRsp | apply kept_modDoor | apply kept_modReq | split)
theorem execAtomResend_kept {tag : Nat} (hk : Kept q₀ f₀ T₀ s) : KeptNext q₀ f₀ T₀ (execAtomResend tag s) :=
  .next (by repeat' first | assumption | apply kept_sendReq | apply kept_releaseHeld | apply kept_modReq | split)
theorem execRemoteTimeout_kept {tag : Nat} (hk : Kept q₀ f₀ T₀ s) : KeptNext q₀ f₀ T₀ (execRemoteTimeout tag s) :=
  .next (by repeat' first | assumption | apply kept_releaseHeld | apply kept_failReq | split)
theorem execRadiatorTick_kept (hk : Kept q₀ f₀ T₀ s) : KeptNext q₀ f₀ T₀ (execRadiatorTick s) :=
  .next (by repeat' first | assumption | apply kept_radTick | split)
theorem execHeaterCodeWrite_kept {off : Nat} {val : Word} {hwDropped : Bool} (hk : Kept q₀ f₀ T₀ s) :
    KeptNext q₀ f₀ T₀ (execHeaterCodeWrite off val hwDropped s) :=
  .next (by repeat' first | assumption | with_reducible apply kept_writeHeater | with_reducible apply kept_writeAux | split)
theorem execHeaterScClear_kept {h : Nat} {retrip : Bool} (hk : Kept q₀ f₀ T₀ s) : KeptNext q₀ f₀ T₀ (execHeaterScClear h retrip s) :=
  .next (by repeat' first | assumption | apply kept_tripHeater | (with_reducible apply Kept.upd; assumption) | split)
theorem execSlprofWrite_kept {p : Fin 8} {val : Word} (hk : Kept q₀ f₀ T₀ s) : KeptNext q₀ f₀ T₀ (execSlprofWrite p val s) :=
  .next (by repeat' first | assumption | apply kept_writeSlprof | split)
theorem execGeneratorWrite_kept {off : Nat} {val : Word} (hk : Kept q₀ f₀ T₀ s) : KeptNext q₀ f₀ T₀ (execGeneratorWrite off val s) :=
  .next (by repeat' first | assumption | apply kept_writeGen | split)
theorem execHeaterShortOnset_kept {h : Nat} (hk : Kept q₀ f₀ T₀ s) : KeptNext q₀ f₀ T₀ (execHeaterShortOnset h s) :=
  .next (by repeat' first | assumption | (with_reducible apply Kept.upd; assumption) | split)
theorem execHeaterShort_kept {h : Nat} (hk : Kept q₀ f₀ T₀ s) : KeptNext q₀ f₀ T₀ (execHeaterShort h s) :=
  .next (by repeat' first | assumption | apply kept_tripHeater | split)
theorem execLockinCycleStart_kept {dither : List (Nat × Fin 64)} (hk : Kept q₀ f₀ T₀ s) :
    KeptNext q₀ f₀ T₀ (execLockinCycleStart dither s) :=
  .next (by repeat' first | assumption | apply kept_cycleStart | split)
theorem execLockinCycleEnd_kept {deltas : List (Nat × Int)} (hk : Kept q₀ f₀ T₀ s) : KeptNext q₀ f₀ T₀ (execLockinCycleEnd deltas s) :=
  .next (by repeat' first | assumption | apply kept_cycleEnd | split)
theorem execSweepEnd_kept {w : Fin 8} (hk : Kept q₀ f₀ T₀ s) : KeptNext q₀ f₀ T₀ (execSweepEnd w s) :=
  .next (by repeat' first | assumption | apply kept_sweepEnd | split)
theorem execAuxComplianceLost_kept {out : Fin 4} (hk : Kept q₀ f₀ T₀ s) : KeptNext q₀ f₀ T₀ (execAuxComplianceLost out s) :=
  .next (by repeat' first | assumption | apply kept_auxLost | split)
theorem execSensorConversion_kept {period : Period} (hk : Kept q₀ f₀ T₀ s) :
    KeptNext q₀ f₀ T₀ (execSensorConversion period s) :=
  .next (.ite (kept_sensorPeriod hk) hk)
theorem execSensorHoldExpiry_kept {n : Fin 66} (hk : Kept q₀ f₀ T₀ s) : KeptNext q₀ f₀ T₀ (execSensorHoldExpiry n s) :=
  .next (by repeat' first | assumption | apply kept_writeEstimate | apply kept_putSensor | split)
theorem execThrottleLower_kept (hk : Kept q₀ f₀ T₀ s) : KeptNext q₀ f₀ T₀ (execThrottleLower s) :=
  .next (by repeat' first | assumption | (with_reducible apply Kept.upd; apply kept_setThlvl) | split)
theorem execThermalTrip_kept (hk : Kept q₀ f₀ T₀ s) : KeptNext q₀ f₀ T₀ (execThermalTrip s) :=
  .next (by repeat' first | assumption | apply kept_thermalTrip | split)
theorem execCommitAfterOverlap_kept {q : Fin 256} {idx : Fin 65536} (hk : Kept q₀ f₀ T₀ s) :
    KeptNext q₀ f₀ T₀ (execCommitAfterOverlap q idx s) :=
  .next (by repeat' first | assumption | apply kept_openTree | apply kept_runTree | apply kept_putTree | split)
theorem execPantryCorrected_kept {w : Fin 8} (hk : Kept q₀ f₀ T₀ s) : KeptNext q₀ f₀ T₀ (execPantryCorrected w s) :=
  .next (by repeat' first | assumption | apply kept_modPantry | intro _ | (with_reducible apply Kept.upd; assumption) | split)
theorem execImageCheck_kept {w : Fin 8} {pane : Bool} (hk : Kept q₀ f₀ T₀ s) : KeptNext q₀ f₀ T₀ (execImageCheck w pane s) :=
  .next (by repeat' first | assumption | apply kept_imageCheck | split)
theorem execSwapComplete_kept {w : Fin 8} (hk : Kept q₀ f₀ T₀ s) : KeptNext q₀ f₀ T₀ (execSwapComplete w s) :=
  .next (by repeat' first | assumption | apply kept_modWin | split)
theorem execPaneSwap_kept {w : Fin 8} {pane : Bool} (hk : Kept q₀ f₀ T₀ s) : KeptNext q₀ f₀ T₀ (execPaneSwap w pane s) :=
  .next (by repeat' first | assumption | apply kept_modWin | split)
theorem execWitnessResult_kept {w : Fin 8} {codes : List Int} (hk : Kept q₀ f₀ T₀ s) :
    KeptNext q₀ f₀ T₀ (execWitnessResult w codes s) :=
  .next (by repeat' first | assumption | apply kept_witnessResult | split)
theorem execClipRepeatRound_kept {w : Fin 8} {codes : List (List Int)} (hk : Kept q₀ f₀ T₀ s) :
    KeptNext q₀ f₀ T₀ (execClipRepeatRound w codes s) :=
  .next (by repeat' first | assumption | apply kept_clipRound | split)
theorem execPaneArmed_kept {w : Fin 8} {pane : Bool} (hk : Kept q₀ f₀ T₀ s) : KeptNext q₀ f₀ T₀ (execPaneArmed w pane s) :=
  .next (by repeat' first | assumption | apply kept_paneArmed | split)
theorem execPassStart_kept {w : Fin 8} {q : Fin 256} {idx : Fin 65536} {p : Nat} {half : Bool} {codes : List (List Int)} {env : Env}
    (hk : Kept q₀ f₀ T₀ s) :
    KeptNext q₀ f₀ T₀ (execPassStart w q idx p half codes env s) :=
  .next (by repeat' first | assumption | apply kept_passStart | split)
theorem execPassCommit_kept {w : Fin 8} (hk : Kept q₀ f₀ T₀ s) : KeptNext q₀ f₀ T₀ (execPassCommit w s) :=
  .next (by repeat' first | assumption | apply kept_passCommit | apply kept_lastClips | split)
theorem execLaserLost_kept {l : Fin 9} (hk : Kept q₀ f₀ T₀ s) : KeptNext q₀ f₀ T₀ (execLaserLost l s) :=
  .next (by repeat' first | assumption | apply kept_spareLost | apply kept_laserFail | split)
theorem execSpareSwitchIn_kept (hk : Kept q₀ f₀ T₀ s) : KeptNext q₀ f₀ T₀ (execSpareSwitchIn s) :=
  .next (by repeat' first | assumption | apply kept_spareTo | split)
theorem execLaserDarkTimeout_kept (hk : Kept q₀ f₀ T₀ s) : KeptNext q₀ f₀ T₀ (execLaserDarkTimeout s) :=
  .next (by repeat' first | assumption | apply kept_darkLaser | with_reducible apply Kept.foldl | split)
theorem execLampWear_kept {l : Fin 9} (hk : Kept q₀ f₀ T₀ s) : KeptNext q₀ f₀ T₀ (execLampWear l s) :=
  .next (by repeat' first | assumption | apply kept_raiseEvent | (with_reducible apply Kept.upd; assumption) | split)
theorem execLaserInLok_kept {l : Fin 9} (hk : Kept q₀ f₀ T₀ s) : KeptNext q₀ f₀ T₀ (execLaserInLok l s) :=
  .next (by repeat' first | assumption | apply kept_startLoops | (with_reducible apply Kept.upd; assumption) | split)
theorem execWindowStartupCheck_kept {w : Fin 8} {resA resB : List (List Int)} (hk : Kept q₀ f₀ T₀ s) :
    KeptNext q₀ f₀ T₀ (execWindowStartupCheck w resA resB s) :=
  .next (by repeat' first | assumption | apply kept_qualRun | apply kept_modWin | split)
theorem execQualification_kept {w : Fin 8} {resA resB : List (List Int)} (hk : Kept q₀ f₀ T₀ s) :
    KeptNext q₀ f₀ T₀ (execQualification w resA resB s) :=
  .next (by
    repeat' first
      | assumption | apply kept_qualRun | apply kept_intoService | apply kept_retire | apply kept_modWin | split | dsimp only)
theorem execPantryUncorrectable_kept {w : Fin 8} (hk : Kept q₀ f₀ T₀ s) : KeptNext q₀ f₀ T₀ (execPantryUncorrectable w s) :=
  .next (by repeat' first | assumption | apply kept_pantryFail | apply kept_modPantry | intro _ | split)
theorem execStreamStart_kept {sid : Nat} {d : Fin 16} (hk : Kept q₀ f₀ T₀ s) : KeptNext q₀ f₀ T₀ (execStreamStart sid d s) :=
  .next (by repeat' first | assumption | apply kept_streamStart | split)
theorem execFeedPrefetch_kept {w : Fin 8} {q : Fin 256} {idx : Fin 65536} {p : Nat} {half : Bool} {d : Fin 16} (hk : Kept q₀ f₀ T₀ s) :
    KeptNext q₀ f₀ T₀ (execFeedPrefetch w q idx p half d s) :=
  .next (by repeat' first | assumption | apply kept_feedPrefetch | split)
theorem execImagePrefetch_kept {q : Fin 256} {idx : Fin 65536} {d : Fin 16} (hk : Kept q₀ f₀ T₀ s) :
    KeptNext q₀ f₀ T₀ (execImagePrefetch q idx d s) :=
  .next (by repeat' first | assumption | apply kept_addStream | apply kept_modOp | apply kept_modDumb | apply kept_startImage | split)
theorem execStreamTransaction_kept {sid : Nat} {rd : Bool} {env : Env} (hk : Kept q₀ f₀ T₀ s) :
    KeptNext q₀ f₀ T₀ (execStreamTransaction sid rd env s) :=
  .next (by
    repeat' first
      | assumption | apply kept_takePort | apply kept_takeDw | apply kept_readTxn | apply kept_writeTxn | apply kept_modStream
      | apply kept_audTake | split)
theorem execTranslationWalk_kept {ctx : Fin 4096} {page : Nat} {tableError : Bool} (hk : Kept q₀ f₀ T₀ s) :
    KeptNext q₀ f₀ T₀ (execTranslationWalk ctx page tableError s) :=
  .next (by
    repeat' first
      | assumption | apply kept_freshNat | apply kept_loseCtx | (with_reducible apply Kept.upd; assumption) | split | dsimp only)
theorem execTranslationFault_kept {sid : Nat} (hk : Kept q₀ f₀ T₀ s) : KeptNext q₀ f₀ T₀ (execTranslationFault sid s) :=
  .next (by repeat' first | assumption | apply kept_flushOut | apply kept_haltStream | split | dsimp only)
theorem execStreamDone_kept {sid : Nat} (hk : Kept q₀ f₀ T₀ s) : KeptNext q₀ f₀ T₀ (execStreamDone sid s) :=
  .next (by
    repeat' first
      | assumption | apply kept_audGive | apply kept_streamEnd | (with_reducible apply Kept.upd; apply kept_showDw) | split)
theorem execHostCompletion_kept {tag : Nat} {st : HostStatus} {data : List Byte} (hk : Kept q₀ f₀ T₀ s) :
    KeptNext q₀ f₀ T₀ (execHostCompletion tag st data s) :=
  .next (by
    repeat' first
      | assumption | apply kept_aer | apply kept_dropHostReq | apply kept_takeBytes | apply kept_hostReadFails | split | dsimp only)
theorem execHostCompletionTimeout_kept {tag : Nat} (hk : Kept q₀ f₀ T₀ s) : KeptNext q₀ f₀ T₀ (execHostCompletionTimeout tag s) :=
  .next (by repeat' first | assumption | apply kept_hostReadFails | split)
theorem execRdrsp_kept {env : Env} (hk : Kept q₀ f₀ T₀ s) : KeptNext q₀ f₀ T₀ (execRdrsp env s) :=
  .next (by
    repeat' first
      | assumption | exact kept_takeMsg ‹_› _ ‹_› | apply kept_lateRsp | apply kept_releaseHeld | apply kept_dropReq
      | apply kept_takeBytes | apply kept_streamPoison | apply kept_setFault | split | dsimp only)
theorem execWrack_kept (hk : Kept q₀ f₀ T₀ s) : KeptNext q₀ f₀ T₀ (execWrack s) :=
  .next (by
    repeat' first
      | assumption | exact kept_takeMsg ‹_› _ ‹_› | with_reducible apply kept_lateRsp | with_reducible apply kept_releaseHeld
      | with_reducible apply kept_dropReq | with_reducible apply kept_countBytes | with_reducible apply kept_modStream
      | with_reducible apply kept_setFault | split | dsimp only)
theorem execRd_kept {env : Env} (hk : Kept q₀ f₀ T₀ s) : KeptNext q₀ f₀ T₀ (execRd env s) :=
  .next (by repeat' first | assumption | apply kept_serveFar | apply kept_serveRd | intro _ | split)
theorem execWr_kept {env : Env} (hk : Kept q₀ f₀ T₀ s) : KeptNext q₀ f₀ T₀ (execWr env s) :=
  .next (by repeat' first | assumption | apply kept_serveFar | apply kept_serveWr | intro _ | split)
theorem execAtom_kept {contended : Bool} {env : Env} (hk : Kept q₀ f₀ T₀ s) : KeptNext q₀ f₀ T₀ (execAtom contended env s) :=
  .next (by repeat' first | assumption | apply kept_serveFar | apply kept_performAtom | intro _ | split)
theorem execAtomq_kept (hk : Kept q₀ f₀ T₀ s) : KeptNext q₀ f₀ T₀ (execAtomq s) :=
  .next (by repeat' first | assumption | (with_reducible apply Kept.upd; exact kept_takeMsg ‹_› _ ‹_›) | split)
theorem execAtomqPerform_kept {env : Env} (hk : Kept q₀ f₀ T₀ s) : KeptNext q₀ f₀ T₀ (execAtomqPerform env s) :=
  .next (by repeat' first | assumption | apply kept_performAtom | (with_reducible apply Kept.upd; assumption) | split)
theorem execWorkItemDispatch_kept {q : Fin 256} {idx : Fin 65536} {item : Nat} {core : Fin 128} (hk : Kept q₀ f₀ T₀ s) :
    KeptNext q₀ f₀ T₀ (execWorkItemDispatch q idx item core s) :=
  .next (by
    repeat' first
      | assumption | apply kept_modOp | apply kept_arbTake | (with_reducible apply Kept.upd; assumption) | split)
theorem execCoreFault_kept {core : Fin 128} (hk : Kept q₀ f₀ T₀ s) : KeptNext q₀ f₀ T₀ (execCoreFault core s) :=
  .next (by repeat' first | assumption | apply kept_removeCore | split)
theorem execCoreCorrected_kept {core : Fin 128} (hk : Kept q₀ f₀ T₀ s) : KeptNext q₀ f₀ T₀ (execCoreCorrected core s) :=
  .next (by repeat' first | assumption | (with_reducible apply Kept.upd; assumption) | split)
theorem execStudyCoreTest_kept {pass : BitVec 128} (hk : Kept q₀ f₀ T₀ s) : KeptNext q₀ f₀ T₀ (execStudyCoreTest pass s) :=
  .next (by repeat' first | assumption | (with_reducible apply Kept.upd; apply kept_coreRecords) | split)
theorem execWorkItemComplete_kept {core : Fin 128} {trace : List StudyOp} {env : Env} (hk : Kept q₀ f₀ T₀ s) :
    KeptNext q₀ f₀ T₀ (execWorkItemComplete core trace env s) :=
  .next (by repeat' first | assumption | apply kept_kernelItem | split)
theorem execArenaAlloc_kept {ctx : Fin 4096} {bytes : Nat} (hk : Kept q₀ f₀ T₀ s) : KeptNext q₀ f₀ T₀ (execArenaAlloc ctx bytes s) :=
  .next (by repeat' first | assumption | apply kept_emit | apply kept_modCtx | split)
theorem execArenaFree_kept {ctx : Fin 4096} {addr : Nat} (hk : Kept q₀ f₀ T₀ s) : KeptNext q₀ f₀ T₀ (execArenaFree ctx addr s) :=
  .next (by repeat' first | assumption | apply kept_modCtx | split)
theorem execTrussCombine_kept {q : Fin 256} {idx : Fin 65536} {owner : Fin 65536} (hk : Kept q₀ f₀ T₀ s) :
    KeptNext q₀ f₀ T₀ (execTrussCombine q idx owner s) :=
  .next (by repeat' first | assumption | apply kept_trussStep | split)
theorem execTrussTimeout_kept {q : Fin 256} {idx : Fin 65536} (hk : Kept q₀ f₀ T₀ s) : KeptNext q₀ f₀ T₀ (execTrussTimeout q idx s) :=
  .next (by
    repeat' first
      | assumption | apply kept_raiseEvent | (with_reducible apply Kept.upd; apply kept_endOp) | split | dsimp only)
theorem execReddesc_kept (hk : Kept q₀ f₀ T₀ s) : KeptNext q₀ f₀ T₀ (execReddesc s) :=
  .next (by
    repeat' first
      | assumption | apply kept_trussMismatch | (with_reducible apply Kept.upd; exact kept_takeMsg ‹_› _ ‹_›) | split | dsimp only)
theorem execReddata_kept (hk : Kept q₀ f₀ T₀ s) : KeptNext q₀ f₀ T₀ (execReddata s) :=
  .next (by
    repeat' first
      | assumption | apply kept_takePartial | apply kept_answer | (with_reducible apply Kept.upd; exact kept_takeMsg ‹_› _ ‹_›)
      | split | dsimp only)
theorem execRedack_kept (hk : Kept q₀ f₀ T₀ s) : KeptNext q₀ f₀ T₀ (execRedack s) :=
  .next (by
    repeat' first
      | assumption | exact kept_takeMsg ‹_› _ ‹_› | apply kept_lateRsp | apply kept_releaseHeld | apply kept_dropReq
      | apply kept_finishSender | split | dsimp only)
theorem execEpilogue_kept {q : Fin 256} {idx : Fin 65536} {env : Env} (hk : Kept q₀ f₀ T₀ s) :
    KeptNext q₀ f₀ T₀ (execEpilogue q idx env s) :=
  .next (by repeat' first | assumption | apply kept_epilogue | split)
theorem execRefineResidual_kept {core : Fin 128} {env : Env} (hk : Kept q₀ f₀ T₀ s) :
    KeptNext q₀ f₀ T₀ (execRefineResidual core env s) :=
  .next (by repeat' first | assumption | apply kept_refRows | apply kept_afterAccess | apply kept_residualDone | intro _ | split)
theorem execRefineDecision_kept {core : Fin 128} {env : Env} (hk : Kept q₀ f₀ T₀ s) :
    KeptNext q₀ f₀ T₀ (execRefineDecision core env s) :=
  .next (by repeat' first | assumption | apply kept_decision | apply kept_refineStop | split)
theorem execRefineUpdate_kept {core : Fin 128} {env : Env} (hk : Kept q₀ f₀ T₀ s) :
    KeptNext q₀ f₀ T₀ (execRefineUpdate core env s) :=
  .next (by repeat' first | assumption | apply kept_modOp | apply kept_itemDone | split)
theorem execContextMakeResident_kept {ctx : Fin 4096} {base : Fin 32} {env : Env} (hk : Kept q₀ f₀ T₀ s) :
    KeptNext q₀ f₀ T₀ (execContextMakeResident ctx base env s) :=
  .next (by repeat' first | assumption | exact kept_makeResident ‹_› _ ‹_› | split)
theorem execWindow_kept {q : Fin 256} {env : Env} (hk : Kept q₀ f₀ T₀ s) : KeptNext q₀ f₀ T₀ (execWindow q env s) :=
  .next (by repeat' first | assumption | apply kept_queueRow)
theorem execImageLoad_kept {q : Fin 256} {env : Env} (hk : Kept q₀ f₀ T₀ s) : KeptNext q₀ f₀ T₀ (execImageLoad q env s) :=
  .next (by repeat' first | assumption | apply kept_queueRow)
theorem execSlotRead_kept {q : Fin 256} {env : Env} (hk : Kept q₀ f₀ T₀ s) : KeptNext q₀ f₀ T₀ (execSlotRead q env s) :=
  .next (by repeat' first | assumption | apply kept_queueRow)
theorem execSlotWrite_kept {q : Fin 256} {env : Env} (hk : Kept q₀ f₀ T₀ s) : KeptNext q₀ f₀ T₀ (execSlotWrite q env s) :=
  .next (by repeat' first | assumption | apply kept_queueRow)
theorem execStudy_kept {q : Fin 256} {env : Env} (hk : Kept q₀ f₀ T₀ s) : KeptNext q₀ f₀ T₀ (execStudy q env s) :=
  .next (by repeat' first | assumption | apply kept_queueRow)
theorem execRefine_kept {q : Fin 256} {env : Env} (hk : Kept q₀ f₀ T₀ s) : KeptNext q₀ f₀ T₀ (execRefine q env s) :=
  .next (by repeat' first | assumption | apply kept_queueRow)
theorem execCopy_kept {q : Fin 256} {env : Env} (hk : Kept q₀ f₀ T₀ s) : KeptNext q₀ f₀ T₀ (execCopy q env s) :=
  .next (by repeat' first | assumption | apply kept_queueRow)
theorem execFill_kept {q : Fin 256} {env : Env} (hk : Kept q₀ f₀ T₀ s) : KeptNext q₀ f₀ T₀ (execFill q env s) :=
  .next (by repeat' first | assumption | apply kept_queueRow)
theorem execFenceWait_kept {q : Fin 256} {env : Env} (hk : Kept q₀ f₀ T₀ s) : KeptNext q₀ f₀ T₀ (execFenceWait q env s) :=
  .next (by repeat' first | assumption | apply kept_queueRow)
theorem execNop_kept {q : Fin 256} {env : Env} (hk : Kept q₀ f₀ T₀ s) : KeptNext q₀ f₀ T₀ (execNop q env s) :=
  .next (by repeat' first | assumption | apply kept_queueRow)
theorem execCommandComplete_kept {q : Fin 256} {idx : Fin 65536} {env : Env} (hk : Kept q₀ f₀ T₀ s) :
    KeptNext q₀ f₀ T₀ (execCommandComplete q idx env s) :=
  .next (by
    repeat' first
      | assumption | apply kept_leaveFlight | apply kept_finishOp | apply kept_countRefine | apply kept_runQueue | split | dsimp only)
theorem execFenceTimeout_kept {q : Fin 256} {idx : Fin 65536} {lateUpdate : Bool} (hk : Kept q₀ f₀ T₀ s) :
    KeptNext q₀ f₀ T₀ (execFenceTimeout q idx lateUpdate s) :=
  .next (by repeat' first | assumption | apply kept_audGive | apply kept_modOp | apply kept_modQueue | apply kept_modCtx | split)
theorem execCaptureReadLo_kept {bar2 : Bool} {off : Nat} {be : BitVec 4} {more : Option (BitVec 4)} (hk : Kept q₀ f₀ T₀ s) :
    KeptNext q₀ f₀ T₀ (execCaptureReadLo bar2 off be more s) :=
  .next (by repeat' first | assumption | apply kept_readWord | apply kept_emit | apply kept_notUp | split)
theorem execCounter64Write_kept {off : Nat} {val : Word} {inc : Bool} (hk : Kept q₀ f₀ T₀ s) :
    KeptNext q₀ f₀ T₀ (execCounter64Write off val inc s) :=
  .next (by repeat' first | assumption | apply kept_modWin | apply kept_modDumb | split)
theorem execRangeTableWrite_kept {e : Fin 16} {reg : Fin 4} {val : Word} (hk : Kept q₀ f₀ T₀ s) :
    KeptNext q₀ f₀ T₀ (execRangeTableWrite e reg val s) :=
  .next (by repeat' first | assumption | apply kept_writeRange | split)
theorem execMsixUnmask_kept {v : Option (Fin 2048)} (hk : Kept q₀ f₀ T₀ s) : KeptNext q₀ f₀ T₀ (execMsixUnmask v s) :=
  .next (by
    repeat' first
      | assumption | apply kept_sendPending | apply kept_modMsix | apply kept_sendAllPending
      | (with_reducible apply Kept.upd; assumption) | split)
theorem execMailboxWrite_kept {mb : MbRef} {off : Nat} {val : Word} {be : BitVec 4} {hwTake : Bool} {more : Option Word2}
    (hk : Kept q₀ f₀ T₀ s) :
    KeptNext q₀ f₀ T₀ (execMailboxWrite mb off val be hwTake more s) :=
  .next (by
    repeat' first
      | assumption | apply kept_notUp | apply kept_judge | apply kept_mailboxWord | (with_reducible apply Kept.fst; assumption) | split)
theorem execCtxCreate_kept {mb : MbRef} (hk : Kept q₀ f₀ T₀ s) : KeptNext q₀ f₀ T₀ (execCtxCreate mb s) :=
  .next (by repeat' first | assumption | apply kept_lbStep | apply kept_bodyCtxCreate)
theorem execCtxPin_kept {mb : MbRef} {base : Fin 32} {env : Env} (hk : Kept q₀ f₀ T₀ s) :
    KeptNext q₀ f₀ T₀ (execCtxPin mb base env s) :=
  .next (by repeat' first | assumption | apply kept_lbStep | apply kept_bodyCtxPin)
theorem execCtxUnpin_kept {mb : MbRef} (hk : Kept q₀ f₀ T₀ s) : KeptNext q₀ f₀ T₀ (execCtxUnpin mb s) :=
  .next (by repeat' first | assumption | apply kept_lbStep | apply kept_onCtx | apply kept_modCtx | intro _)
theorem execCtxEvict_kept {mb : MbRef} {env : Env} (hk : Kept q₀ f₀ T₀ s) : KeptNext q₀ f₀ T₀ (execCtxEvict mb env s) :=
  .next (by repeat' first | assumption | apply kept_lbStep | apply kept_onCtx | apply kept_evict | intro _ | split)
theorem execCtxQuery_kept {mb : MbRef} (hk : Kept q₀ f₀ T₀ s) : KeptNext q₀ f₀ T₀ (execCtxQuery mb s) :=
  .next (by repeat' first | assumption | apply kept_lbStep | apply kept_onCtx | intro _)
theorem execQueueCreate_kept {mb : MbRef} {base : Fin 32} {env : Env} (hk : Kept q₀ f₀ T₀ s) :
    KeptNext q₀ f₀ T₀ (execQueueCreate mb base env s) :=
  .next (by repeat' first | assumption | apply kept_lbStep | apply kept_bodyQueueCreate)
theorem execQueueDestroy_kept {mb : MbRef} {env : Env} (hk : Kept q₀ f₀ T₀ s) : KeptNext q₀ f₀ T₀ (execQueueDestroy mb env s) :=
  .next (by repeat' first | assumption | apply kept_lbStep | apply kept_bodyQueueDestroy)
theorem execQueueResume_kept {mb : MbRef} (hk : Kept q₀ f₀ T₀ s) : KeptNext q₀ f₀ T₀ (execQueueResume mb s) :=
  .next (by repeat' first | assumption | apply kept_lbStep | apply kept_onQueue | apply kept_modQueue | intro _ | split)
theorem execQueueFlush_kept {mb : MbRef} {env : Env} (hk : Kept q₀ f₀ T₀ s) : KeptNext q₀ f₀ T₀ (execQueueFlush mb env s) :=
  .next (by
    repeat' first
      | assumption | apply kept_lbStep | apply kept_onQueue | apply kept_abortPending | apply kept_modQueue | intro _ | split)
theorem execQueueQuery_kept {mb : MbRef} (hk : Kept q₀ f₀ T₀ s) : KeptNext q₀ f₀ T₀ (execQueueQuery mb s) :=
  .next (by repeat' first | assumption | apply kept_lbStep | apply kept_onQueue | intro _)
theorem execStreamResume_kept {mb : MbRef} (hk : Kept q₀ f₀ T₀ s) : KeptNext q₀ f₀ T₀ (execStreamResume mb s) :=
  .next (by
    repeat' first
      | assumption | apply kept_lbStep | apply kept_onHalted | apply kept_resumeOne | with_reducible apply Kept.foldl | intro _ | split)
theorem execStreamAbort_kept {mb : MbRef} {env : Env} (hk : Kept q₀ f₀ T₀ s) : KeptNext q₀ f₀ T₀ (execStreamAbort mb env s) :=
  .next (by repeat' first | assumption | apply kept_lbStep | apply kept_onHalted | apply kept_endOp | intro _)
theorem execResvSet_kept {mb : MbRef} (hk : Kept q₀ f₀ T₀ s) : KeptNext q₀ f₀ T₀ (execResvSet mb s) :=
  .next (by repeat' first | assumption | apply kept_lbStep | apply kept_bodyResvSet)
theorem execPanePin_kept {mb : MbRef} (hk : Kept q₀ f₀ T₀ s) : KeptNext q₀ f₀ T₀ (execPanePin mb s) :=
  .next (by repeat' first | assumption | apply kept_lbStep | apply kept_onCtx | apply kept_modPane | intro _ | split | dsimp only)
theorem execPaneUnpin_kept {mb : MbRef} (hk : Kept q₀ f₀ T₀ s) : KeptNext q₀ f₀ T₀ (execPaneUnpin mb s) :=
  .next (by repeat' first | assumption | apply kept_lbStep | apply kept_onCtx | apply kept_modPane | intro _ | split | dsimp only)
theorem execWindowQuarantine_kept {mb : MbRef} (hk : Kept q₀ f₀ T₀ s) : KeptNext q₀ f₀ T₀ (execWindowQuarantine mb s) :=
  .next (by repeat' first | assumption | apply kept_lbStep | apply kept_quarantine | intro _ | split | dsimp only)
theorem execWindowQualify_kept {mb : MbRef} {resA resB : List (List Int)} (hk : Kept q₀ f₀ T₀ s) :
    KeptNext q₀ f₀ T₀ (execWindowQualify mb resA resB s) :=
  .next (by repeat' first | assumption | apply kept_lbStep | apply kept_bodyWindowQualify)
theorem execRadiatorPark_kept {mb : MbRef} (hk : Kept q₀ f₀ T₀ s) : KeptNext q₀ f₀ T₀ (execRadiatorPark mb s) :=
  .next (by repeat' first | assumption | apply kept_lbStep | apply kept_parkAll | intro _)
theorem execAuxSetDefaults_kept {mb : MbRef} (hk : Kept q₀ f₀ T₀ s) : KeptNext q₀ f₀ T₀ (execAuxSetDefaults mb s) :=
  .next (by repeat' first | assumption | apply kept_lbStep | intro _ | (with_reducible apply Kept.upd; assumption) | split)
theorem execEvqSet_kept {mb : MbRef} (hk : Kept q₀ f₀ T₀ s) : KeptNext q₀ f₀ T₀ (execEvqSet mb s) := by
  refine .next (kept_lbStep (fun x m h => ?_) hk)
  dsimp only
  split
  · exact kept_refuse h
  · exact kept_drainEvents ⟨h.pend, h.fuse, fun t => let k := h.tidy t; { k with events := Nat.zero_le _ }⟩
theorem execMemMap_kept {mb : MbRef} {pages : List Nat} (hk : Kept q₀ f₀ T₀ s) : KeptNext q₀ f₀ T₀ (execMemMap mb pages s) :=
  .next (by repeat' first | assumption | apply kept_lbStep | apply kept_bodyMemMap)
theorem execMemUnmap_kept {mb : MbRef} (hk : Kept q₀ f₀ T₀ s) : KeptNext q₀ f₀ T₀ (execMemUnmap mb s) :=
  .next (by repeat' first | assumption | apply kept_lbStep | apply kept_bodyMemUnmap)
theorem execMemProtect_kept {mb : MbRef} (hk : Kept q₀ f₀ T₀ s) : KeptNext q₀ f₀ T₀ (execMemProtect mb s) :=
  .next (by repeat' first | assumption | apply kept_lbStep | apply kept_bodyMemProtect)
theorem execArenaSet_kept {mb : MbRef} (hk : Kept q₀ f₀ T₀ s) : KeptNext q₀ f₀ T₀ (execArenaSet mb s) :=
  .next (by repeat' first | assumption | apply kept_lbStep | apply kept_bodyArenaSet)
theorem execArenaQuery_kept {mb : MbRef} (hk : Kept q₀ f₀ T₀ s) : KeptNext q₀ f₀ T₀ (execArenaQuery mb s) :=
  .next (by repeat' first | assumption | apply kept_lbStep | apply kept_onCtx | intro _)
theorem execShareCreate_kept {mb : MbRef} {shid : Fin 4096} {pages : List Nat} (hk : Kept q₀ f₀ T₀ s) :
    KeptNext q₀ f₀ T₀ (execShareCreate mb shid pages s) :=
  .next (by repeat' first | assumption | apply kept_lbStep | apply kept_bodyShareCreate)
theorem execShareMap_kept {mb : MbRef} (hk : Kept q₀ f₀ T₀ s) : KeptNext q₀ f₀ T₀ (execShareMap mb s) :=
  .next (by repeat' first | assumption | apply kept_lbStep | apply kept_bodyShareMap)
theorem execShareUnmap_kept {mb : MbRef} {env : Env} (hk : Kept q₀ f₀ T₀ s) : KeptNext q₀ f₀ T₀ (execShareUnmap mb env s) :=
  .next (by repeat' first | assumption | apply kept_lbStep | apply kept_onCtx | apply kept_unmapShare | intro _ | split)
theorem execShareRelease_kept {mb : MbRef} {env : Env} (hk : Kept q₀ f₀ T₀ s) : KeptNext q₀ f₀ T₀ (execShareRelease mb env s) :=
  .next (by
    repeat' first
      | assumption | with_reducible apply kept_lbStep | with_reducible apply kept_refuse | with_reducible apply kept_countZero
      | with_reducible apply kept_freeShare | intro _ | split | dsimp only)
theorem execKernelLoad_kept {mb : MbRef} {handle : Word} {env : Env} (hk : Kept q₀ f₀ T₀ s) :
    KeptNext q₀ f₀ T₀ (execKernelLoad mb handle env s) :=
  .next (by repeat' first | assumption | apply kept_lbStep | apply kept_bodyKernelLoad)
theorem execKernelUnload_kept {mb : MbRef} (hk : Kept q₀ f₀ T₀ s) : KeptNext q₀ f₀ T₀ (execKernelUnload mb s) :=
  .next (by repeat' first | assumption | apply kept_lbStep | apply kept_onCtx | apply kept_modCtx | intro _ | split)
theorem execCtxDestroy_kept {mb : MbRef} {env : Env} (hk : Kept q₀ f₀ T₀ s) : KeptNext q₀ f₀ T₀ (execCtxDestroy mb env s) :=
  .next (by repeat' first | assumption | apply kept_lbStep | apply kept_bodyCtxDestroy)
theorem execTopoLoad_kept {mb : MbRef} {env : Env} (hk : Kept q₀ f₀ T₀ s) : KeptNext q₀ f₀ T₀ (execTopoLoad mb env s) :=
  .next (by repeat' first | assumption | apply kept_lbStep | apply kept_bodyTopoLoad)
theorem execTopoQuery_kept {mb : MbRef} (hk : Kept q₀ f₀ T₀ s) : KeptNext q₀ f₀ T₀ (execTopoQuery mb s) :=
  .next (by repeat' first | assumption | apply kept_lbStep | apply kept_onLinks | intro _)
theorem execLinkOpen_kept {mb : MbRef} (hk : Kept q₀ f₀ T₀ s) : KeptNext q₀ f₀ T₀ (execLinkOpen mb s) :=
  .next (by
    repeat' first
      | assumption | apply kept_lbStep | apply kept_onLinks | apply kept_startDoor | with_reducible apply Kept.foldl | intro _)
theorem execLinkClose_kept {mb : MbRef} (hk : Kept q₀ f₀ T₀ s) : KeptNext q₀ f₀ T₀ (execLinkClose mb s) :=
  .next (by
    repeat' first
      | assumption | apply kept_lbStep | apply kept_onLinks | apply kept_closeDoor | with_reducible apply Kept.foldl | intro _ | split
      | dsimp only)
theorem execLinkQuery_kept {mb : MbRef} (hk : Kept q₀ f₀ T₀ s) : KeptNext q₀ f₀ T₀ (execLinkQuery mb s) :=
  .next (by repeat' first | assumption | apply kept_lbStep | apply kept_onLinks | intro _ | split | dsimp only)
theorem execExportSet_kept {mb : MbRef} (hk : Kept q₀ f₀ T₀ s) : KeptNext q₀ f₀ T₀ (execExportSet mb s) :=
  .next (by
    repeat' first
      | assumption | apply kept_lbStep | apply kept_onLinks | intro _ | (with_reducible apply Kept.upd; assumption) | split
      | dsimp only)
theorem execExportClear_kept {mb : MbRef} (hk : Kept q₀ f₀ T₀ s) : KeptNext q₀ f₀ T₀ (execExportClear mb s) :=
  .next (by
    repeat' first
      | assumption | apply kept_lbStep | apply kept_onLinks | intro _ | (with_reducible apply Kept.upd; assumption) | split
      | dsimp only)
theorem execRemoteMap_kept {mb : MbRef} (hk : Kept q₀ f₀ T₀ s) : KeptNext q₀ f₀ T₀ (execRemoteMap mb s) :=
  .next (by repeat' first | assumption | apply kept_lbStep | apply kept_bodyRemoteMap)
theorem execTrussGroup_kept {mb : MbRef} {env : Env} (hk : Kept q₀ f₀ T₀ s) : KeptNext q₀ f₀ T₀ (execTrussGroup mb env s) :=
  .next (by repeat' first | assumption | apply kept_lbStep | apply kept_bodyTrussGroup)
theorem execTrussBind_kept {mb : MbRef} (hk : Kept q₀ f₀ T₀ s) : KeptNext q₀ f₀ T₀ (execTrussBind mb s) :=
  .next (by
    repeat' first
      | assumption | apply kept_lbStep | apply kept_onQueue | apply kept_modQueue | apply kept_restartGroup | intro _ | split | dsimp only)
theorem execTrussClear_kept {mb : MbRef} (hk : Kept q₀ f₀ T₀ s) : KeptNext q₀ f₀ T₀ (execTrussClear mb s) :=
  .next (by
    repeat' first
      | assumption | apply kept_lbStep | intro _ | (with_reducible apply Kept.upd; assumption) | split | dsimp only)
theorem execAttest_kept {mb : MbRef} (hk : Kept q₀ f₀ T₀ s) : KeptNext q₀ f₀ T₀ (execAttest mb s) :=
  .next (by repeat' first | assumption | apply kept_lbStep | intro _ | split)
theorem execCertRead_kept {mb : MbRef} (hk : Kept q₀ f₀ T₀ s) : KeptNext q₀ f₀ T₀ (execCertRead mb s) :=
  .next (by repeat' first | assumption | apply kept_lbStep | intro _)
theorem execFrecRead_kept {mb : MbRef} (hk : Kept q₀ f₀ T₀ s) : KeptNext q₀ f₀ T₀ (execFrecRead mb s) :=
  .next (by repeat' first | assumption | apply kept_lbStep | intro _)
theorem execFwStage_kept {mb : MbRef} {env : Env} (hk : Kept q₀ f₀ T₀ s) : KeptNext q₀ f₀ T₀ (execFwStage mb env s) :=
  .next (by
    repeat' first
      | assumption | with_reducible apply kept_lbStep | with_reducible apply kept_refuse | with_reducible apply kept_readTable
      | with_reducible apply kept_raiseEvent | with_reducible apply kept_writeBank | intro _ | (with_reducible apply Kept.fst; assumption)
      | split)
theorem execFwActivate_kept {mb : MbRef} (hk : Kept q₀ f₀ T₀ s) : KeptNext q₀ f₀ T₀ (execFwActivate mb s) :=
  .next (by repeat' first | assumption | apply kept_lbStep | intro _ | (with_reducible apply Kept.upd; assumption) | split)
theorem execFwCommit_kept {mb : MbRef} (hk : Kept q₀ f₀ T₀ s) : KeptNext q₀ f₀ T₀ (execFwCommit mb s) :=
  .next (by
    repeat' first
      | assumption | apply kept_lbStep | apply kept_raiseEvent | intro _ | (with_reducible apply Kept.upd; apply kept_blowFuses)
      | split)
theorem execFwQuery_kept {mb : MbRef} (hk : Kept q₀ f₀ T₀ s) : KeptNext q₀ f₀ T₀ (execFwQuery mb s) :=
  .next (by repeat' first | assumption | apply kept_lbStep | intro _)
theorem execTestChallenge_kept {mb : MbRef} {rnd : BitVec 256} (hk : Kept q₀ f₀ T₀ s) :
    KeptNext q₀ f₀ T₀ (execTestChallenge mb rnd s) :=
  .next (by repeat' first | assumption | apply kept_lbStep | intro _ | (with_reducible apply Kept.upd; assumption))
theorem execChallengeExpiry_kept (hk : Kept q₀ f₀ T₀ s) : KeptNext q₀ f₀ T₀ (execChallengeExpiry s) :=
  .next (by repeat' first | assumption | (with_reducible apply Kept.upd; assumption))
theorem execTestUnlock_kept {mb : MbRef} {env : Env} (hk : Kept q₀ f₀ T₀ s) : KeptNext q₀ f₀ T₀ (execTestUnlock mb env s) := by
  refine .next (kept_lbStep (fun x m h => ?_) hk)
  split
  · exact kept_refuse h
  · have hr := kept_readTable h (env := env) (pa := reqArg m 0) (n := 144)
    split
    next e => exact kept_refuse (.fst e hr)
    next e =>
      split
      next htok =>
        have hc := testCnt_of_tokenOk htok
        dsimp only
        exact kept_enterTest (.fst e hr) hc
      next => exact kept_refuse (.fst e hr)
theorem execBoardCfgSet_kept {mb : MbRef} {env : Env} (hk : Kept q₀ f₀ T₀ s) : KeptNext q₀ f₀ T₀ (execBoardCfgSet mb env s) :=
  .next (by
    repeat' first
      | assumption | with_reducible apply kept_lbStep | with_reducible apply kept_refuse | with_reducible apply kept_readTable | intro _
      | (with_reducible apply Kept.upd; first | (with_reducible apply Kept.fst; assumption)) | split)
theorem execPwrLimit_kept {mb : MbRef} (hk : Kept q₀ f₀ T₀ s) : KeptNext q₀ f₀ T₀ (execPwrLimit mb s) :=
  .next (by repeat' first | assumption | apply kept_lbStep | intro _ | (with_reducible apply Kept.upd; assumption) | split)
theorem execResetPart_kept {mb : MbRef} (hk : Kept q₀ f₀ T₀ s) : KeptNext q₀ f₀ T₀ (execResetPart mb s) :=
  .next (by repeat' first | assumption | apply kept_lbStep | intro _ | (with_reducible apply Kept.upd; assumption))
theorem execCoolLimit_kept {mb : MbRef} (hk : Kept q₀ f₀ T₀ s) : KeptNext q₀ f₀ T₀ (execCoolLimit mb s) :=
  .next (by repeat' first | assumption | apply kept_lbStep | intro _ | (with_reducible apply Kept.upd; assumption) | split)
theorem execDoorbellWrite_kept {page : Fin 4096} {slot : Fin 256} {val : Word} {be : BitVec 4} {more : Option Word2}
    (hk : Kept q₀ f₀ T₀ s) :
    KeptNext q₀ f₀ T₀ (execDoorbellWrite page slot val be more s) :=
  .next (by
    repeat' first
      | assumption | apply kept_notUp | apply kept_judge | apply kept_doorbellWord | (with_reducible apply Kept.fst; assumption) | split)
theorem execBar4Read_kept {off : Nat} {len : Nat} {env : Env} (hk : Kept q₀ f₀ T₀ s) :
    KeptNext q₀ f₀ T₀ (execBar4Read off len env s) :=
  .next (by repeat' first | assumption | apply kept_notUp | apply kept_emit | apply kept_bar4Read | split)
theorem execBar4Write_kept {off : Nat} {data : List Byte} {poisoned : Bool} {env : Env} (hk : Kept q₀ f₀ T₀ s) :
    KeptNext q₀ f₀ T₀ (execBar4Write off data poisoned env s) :=
  .next (by repeat' first | assumption | apply kept_notUp | apply kept_bar4Write | split)
theorem execAtomicFetchadd_kept {off : Nat} {size : Nat} {operand : Long} {env : Env} (hk : Kept q₀ f₀ T₀ s) :
    KeptNext q₀ f₀ T₀ (execAtomicFetchadd off size operand env s) :=
  .next (by repeat' first | assumption | apply kept_atomicOp)
theorem execAtomicSwap_kept {off : Nat} {size : Nat} {operand : Long} {env : Env} (hk : Kept q₀ f₀ T₀ s) :
    KeptNext q₀ f₀ T₀ (execAtomicSwap off size operand env s) :=
  .next (by repeat' first | assumption | apply kept_atomicOp)
theorem execAtomicCas_kept {off : Nat} {size : Nat} {compare : Long} {operand : Long} {env : Env} (hk : Kept q₀ f₀ T₀ s) :
    KeptNext q₀ f₀ T₀ (execAtomicCas off size compare operand env s) :=
  .next (by repeat' first | assumption | apply kept_atomicOp)
theorem execConfigRequest_kept {req : CfgReq} (hk : Kept q₀ f₀ T₀ s) : KeptNext q₀ f₀ T₀ (execConfigRequest req s) :=
  .next (by
    repeat' first
      | assumption | apply kept_emit | apply kept_cfgWrite | (with_reducible apply Kept.upd; assumption) | split)
theorem execPcieLinkInL0_kept {speed : Fin 7} {width : Fin 32} {flitMode : Bool} (hk : Kept q₀ f₀ T₀ s) :
    KeptNext q₀ f₀ T₀ (execPcieLinkInL0 speed width flitMode s) :=
  .next (by repeat' first | assumption | (with_reducible apply Kept.upd; assumption) | split)
theorem execRequestToNoBar_kept {kind : BadTlp} (hk : Kept q₀ f₀ T₀ s) : KeptNext q₀ f₀ T₀ (execRequestToNoBar kind s) :=
  .next (by repeat' first | assumption | apply kept_urCompletion | apply kept_aer | split)
theorem execPwrgoodAssert_kept (hk : Kept q₀ f₀ T₀ s) : KeptNext q₀ f₀ T₀ (execPwrgoodAssert s) :=
  .next (by repeat' first | assumption | (with_reducible apply Kept.upd; first | assumption | apply kept_doReset) | split)
theorem execPwrgoodDeassert_kept (hk : Kept q₀ f₀ T₀ s) : KeptNext q₀ f₀ T₀ (execPwrgoodDeassert s) :=
  .next (by repeat' first | assumption | (with_reducible apply Kept.upd; apply kept_doReset) | split)
theorem execPerstNAssert_kept (hk : Kept q₀ f₀ T₀ s) : KeptNext q₀ f₀ T₀ (execPerstNAssert s) :=
  .next (by repeat' first | assumption | apply kept_warmReset | (with_reducible apply Kept.upd; assumption) | split)
theorem execPerstNDeassert_kept (hk : Kept q₀ f₀ T₀ s) : KeptNext q₀ f₀ T₀ (execPerstNDeassert s) :=
  .next (by repeat' first | assumption | (with_reducible apply Kept.upd; assumption))
theorem execSmbusReset_kept (hk : Kept q₀ f₀ T₀ s) : KeptNext q₀ f₀ T₀ (execSmbusReset s) :=
  .next (by repeat' first | assumption | apply kept_warmReset | split)
theorem execFunctionLevelReset_kept (hk : Kept q₀ f₀ T₀ s) : KeptNext q₀ f₀ T₀ (execFunctionLevelReset s) :=
  .next (by repeat' first | assumption | apply kept_lesserReset | split)
theorem execInternalReset_kept (hk : Kept q₀ f₀ T₀ s) : KeptNext q₀ f₀ T₀ (execInternalReset s) :=
  .next (by repeat' first | assumption | apply kept_lesserReset | split)
theorem execHearthLockstepMismatch_kept (hk : Kept q₀ f₀ T₀ s) : KeptNext q₀ f₀ T₀ (execHearthLockstepMismatch s) :=
  .next (by repeat' first | assumption | apply kept_hearthFault | split)
theorem execYiliumWatchdogExpiry_kept (hk : Kept q₀ f₀ T₀ s) : KeptNext q₀ f₀ T₀ (execYiliumWatchdogExpiry s) :=
  .next (by repeat' first | assumption | apply kept_hearthFault | split)
theorem execFirmwareCheck_kept (hk : Kept q₀ f₀ T₀ s) : KeptNext q₀ f₀ T₀ (execFirmwareCheck s) :=
  .next (by repeat' first | assumption | apply kept_firmwareCheck | split)
theorem execNvmLoadComplete_kept (hk : Kept q₀ f₀ T₀ s) : KeptNext q₀ f₀ T₀ (execNvmLoadComplete s) :=
  .next (by
    repeat' first
      | assumption | apply kept_loadHeaters | apply kept_checkRamp | apply kept_badRecords
      | (with_reducible apply Kept.upd; apply kept_loadHeaters) | split)
theorem execConfigReady_kept (hk : Kept q₀ f₀ T₀ s) : KeptNext q₀ f₀ T₀ (execConfigReady s) :=
  .next (by repeat' first | assumption | (with_reducible apply Kept.upd; assumption) | split)
theorem execCellarInit_kept (hk : Kept q₀ f₀ T₀ s) : KeptNext q₀ f₀ T₀ (execCellarInit s) := by
  refine .next ?_
  split
  · exact ⟨hk.pend, hk.fuse, fun t => let k := hk.tidy t; { k with mem := Memory.empty_wf, poison := List.nodup_nil }⟩
  · exact hk
theorem execReady_kept {ms : BitVec 16} (hk : Kept q₀ f₀ T₀ s) : KeptNext q₀ f₀ T₀ (execReady ms s) :=
  .next (by
    repeat' first
      | assumption | apply kept_lbIdle
      | (with_reducible apply Kept.upd; first | apply kept_openLinks | apply kept_recomputeDeliv | apply kept_raiseEvent) | split)
theorem execReadyDeadline_kept (hk : Kept q₀ f₀ T₀ s) : KeptNext q₀ f₀ T₀ (execReadyDeadline s) :=
  .next (by
    repeat' first
      | assumption | apply kept_quarantine | with_reducible apply Kept.foldl | intro _
      | (with_reducible apply Kept.upd; assumption) | split)
theorem execRailFault_kept {rail : Fin 10} (hk : Kept q₀ f₀ T₀ s) : KeptNext q₀ f₀ T₀ (execRailFault rail s) :=
  .next (by
    repeat' first
      | assumption | apply kept_addFrec | apply kept_setAlert | apply kept_raiseEvent
      | (with_reducible apply Kept.upd; assumption) | split)
theorem execRailReturnsToTolerance_kept {rail : Fin 10} (hk : Kept q₀ f₀ T₀ s) :
    KeptNext q₀ f₀ T₀ (execRailReturnsToTolerance rail s) :=
  .next (by repeat' first | assumption | (with_reducible apply Kept.upd; assumption))
theorem execVstbyWithinTolerance_kept (hk : Kept q₀ f₀ T₀ s) : KeptNext q₀ f₀ T₀ (execVstbyWithinTolerance s) :=
  .next (by repeat' first | assumption | (with_reducible apply Kept.upd; assumption))
theorem execSmbusReadStatus_kept (hk : Kept q₀ f₀ T₀ s) : KeptNext q₀ f₀ T₀ (execSmbusReadStatus s) :=
  .next (by repeat' first | assumption | apply kept_smbusSay)
theorem execSmbusReadPavg_kept (hk : Kept q₀ f₀ T₀ s) : KeptNext q₀ f₀ T₀ (execSmbusReadPavg s) :=
  .next (by repeat' first | assumption | apply kept_smbusSay)
theorem execSmbusReadTpol_kept (hk : Kept q₀ f₀ T₀ s) : KeptNext q₀ f₀ T₀ (execSmbusReadTpol s) :=
  .next (by repeat' first | assumption | apply kept_smbusSay)
theorem execSmbusReadRtd_kept {n : Fin 2} (hk : Kept q₀ f₀ T₀ s) : KeptNext q₀ f₀ T₀ (execSmbusReadRtd n s) :=
  .next (by repeat' first | assumption | apply kept_smbusSay)
theorem execSmbusReadRailstat_kept (hk : Kept q₀ f₀ T₀ s) : KeptNext q₀ f₀ T₀ (execSmbusReadRailstat s) :=
  .next (by repeat' first | assumption | apply kept_smbusSay)
theorem execRecoveryDataWrite_kept {val : Word} (hk : Kept q₀ f₀ T₀ s) : KeptNext q₀ f₀ T₀ (execRecoveryDataWrite val s) :=
  .next (by repeat' first | assumption | apply kept_writeRcvData | split)
theorem execRecoveryGo_kept {val : Word} {hwDropped : Bool} (hk : Kept q₀ f₀ T₀ s) :
    KeptNext q₀ f₀ T₀ (execRecoveryGo val hwDropped s) :=
  .next (by repeat' first | assumption | apply kept_recoveryGo | split)
theorem execJtagInstruction_kept {ins : JtagInstr} {quietSecond : Bool} (hk : Kept q₀ f₀ T₀ s) :
    KeptNext q₀ f₀ T₀ (execJtagInstruction ins quietSecond s) :=
  .next (by
    repeat' first
      | assumption | apply kept_enterBoundary | apply kept_jtagLocked
      | (with_reducible apply Kept.upd; first | assumption | apply kept_leaveBoundary) | split)
theorem execJtagLeaveBoundary_kept (hk : Kept q₀ f₀ T₀ s) : KeptNext q₀ f₀ T₀ (execJtagLeaveBoundary s) :=
  .next (by repeat' first | assumption | apply kept_leaveBoundary | split)
theorem execFrecSummaryUpdate_kept {seconds : Nat} {lampSeconds : Nat} (hk : Kept q₀ f₀ T₀ s) :
    KeptNext q₀ f₀ T₀ (execFrecSummaryUpdate seconds lampSeconds s) :=
  .next (by repeat' first | assumption | (with_reducible apply Kept.upd; assumption) | split)
theorem execRegisterWrite_kept {off : Nat} {val : Word} {be : BitVec 4} {hw : HwUpd} {more : Option Word2} (hk : Kept q₀ f₀ T₀ s) :
    KeptNext q₀ f₀ T₀ (execRegisterWrite off val be hw more s) :=
  .next (by
    repeat' first
      | assumption | apply kept_notUp | apply kept_judge | apply kept_bar0Word | (with_reducible apply Kept.fst; assumption) | split)

/-- What every command keeps. -/
theorem exec_kept (i : Instr) (hk : Kept q₀ f₀ T₀ s) : KeptNext q₀ f₀ T₀ (exec i s) := by
  cases i with
  | pwrgoodAssert => exact execPwrgoodAssert_kept hk
  | pwrgoodDeassert => exact execPwrgoodDeassert_kept hk
  | perstNAssert => exact execPerstNAssert_kept hk
  | perstNDeassert => exact execPerstNDeassert_kept hk
  | functionLevelReset => exact execFunctionLevelReset_kept hk
  | hearthLockstepMismatch => exact execHearthLockstepMismatch_kept hk
  | yiliumWatchdogExpiry => exact execYiliumWatchdogExpiry_kept hk
  | internalReset => exact execInternalReset_kept hk
  | railFault => exact execRailFault_kept hk
  | firmwareCheck => exact execFirmwareCheck_kept hk
  | nvmLoadComplete => exact execNvmLoadComplete_kept hk
  | configReady => exact execConfigReady_kept hk
  | configRequest => exact execConfigRequest_kept hk
  | studyCoreTest => exact execStudyCoreTest_kept hk
  | cellarInit => exact execCellarInit_kept hk
  | laserDarkTimeout => exact execLaserDarkTimeout_kept hk
  | windowStartupCheck => exact execWindowStartupCheck_kept hk
  | ready => exact execReady_kept hk
  | readyDeadline => exact execReadyDeadline_kept hk
  | registerWrite => exact execRegisterWrite_kept hk
  | captureReadLo => exact execCaptureReadLo_kept hk
  | counter64Write => exact execCounter64Write_kept hk
  | doorbellWrite => exact execDoorbellWrite_kept hk
  | contextMakeResident => exact execContextMakeResident_kept hk
  | mailboxWrite => exact execMailboxWrite_kept hk
  | bar4Read => exact execBar4Read_kept hk
  | bar4Write => exact execBar4Write_kept hk
  | atomicFetchadd => exact execAtomicFetchadd_kept hk
  | atomicSwap => exact execAtomicSwap_kept hk
  | atomicCas => exact execAtomicCas_kept hk
  | rangeTableWrite => exact execRangeTableWrite_kept hk
  | msixUnmask => exact execMsixUnmask_kept hk
  | hostCompletion => exact execHostCompletion_kept hk
  | hostCompletionTimeout => exact execHostCompletionTimeout_kept hk
  | window => exact execWindow_kept hk
  | imageLoad => exact execImageLoad_kept hk
  | slotRead => exact execSlotRead_kept hk
  | slotWrite => exact execSlotWrite_kept hk
  | study => exact execStudy_kept hk
  | refine => exact execRefine_kept hk
  | copy => exact execCopy_kept hk
  | fill => exact execFill_kept hk
  | fenceWait => exact execFenceWait_kept hk
  | nop => exact execNop_kept hk
  | commandComplete => exact execCommandComplete_kept hk
  | fenceTimeout => exact execFenceTimeout_kept hk
  | passStart => exact execPassStart_kept hk
  | witnessResult => exact execWitnessResult_kept hk
  | clipRepeatRound => exact execClipRepeatRound_kept hk
  | passCommit => exact execPassCommit_kept hk
  | commitAfterOverlap => exact execCommitAfterOverlap_kept hk
  | trussCombine => exact execTrussCombine_kept hk
  | epilogue => exact execEpilogue_kept hk
  | laserLost => exact execLaserLost_kept hk
  | spareSwitchIn => exact execSpareSwitchIn_kept hk
  | qualification => exact execQualification_kept hk
  | lampWear => exact execLampWear_kept hk
  | imageCheck => exact execImageCheck_kept hk
  | paneArmed => exact execPaneArmed_kept hk
  | paneSwap => exact execPaneSwap_kept hk
  | swapComplete => exact execSwapComplete_kept hk
  | pantryUncorrectable => exact execPantryUncorrectable_kept hk
  | pantryCorrected => exact execPantryCorrected_kept hk
  | workItemDispatch => exact execWorkItemDispatch_kept hk
  | workItemComplete => exact execWorkItemComplete_kept hk
  | coreFault => exact execCoreFault_kept hk
  | coreCorrected => exact execCoreCorrected_kept hk
  | refineResidual => exact execRefineResidual_kept hk
  | refineDecision => exact execRefineDecision_kept hk
  | refineUpdate _ env => exact execRefineUpdate_kept (env := env) hk
  | arenaAlloc => exact execArenaAlloc_kept hk
  | arenaFree => exact execArenaFree_kept hk
  | streamStart => exact execStreamStart_kept hk
  | feedPrefetch => exact execFeedPrefetch_kept hk
  | imagePrefetch => exact execImagePrefetch_kept hk
  | streamTransaction => exact execStreamTransaction_kept hk
  | translationWalk => exact execTranslationWalk_kept hk
  | translationFault => exact execTranslationFault_kept hk
  | streamDone => exact execStreamDone_kept hk
  | scrubQueued => exact execScrubQueued_kept hk
  | sweepGranule => exact execSweepGranule_kept hk
  | rowRetire _ _ pages => exact execRowRetire_kept (pages := pages) hk
  | stackDown => exact execStackDown_kept hk
  | stackDerate => exact execStackDerate_kept hk
  | rtokMint => exact execRtokMint_kept hk
  | freezeCapture => exact execFreezeCapture_kept hk
  | freezeRelease => exact execFreezeRelease_kept hk
  | auditTimer => exact execAuditTimer_kept hk
  | radiatorTick => exact execRadiatorTick_kept hk
  | heaterCodeWrite => exact execHeaterCodeWrite_kept hk
  | heaterScClear => exact execHeaterScClear_kept hk
  | slprofWrite => exact execSlprofWrite_kept hk
  | generatorWrite => exact execGeneratorWrite_kept hk
  | heaterShortOnset => exact execHeaterShortOnset_kept hk
  | heaterShort => exact execHeaterShort_kept hk
  | lockinCycleStart => exact execLockinCycleStart_kept hk
  | lockinCycleEnd => exact execLockinCycleEnd_kept hk
  | sweepEnd => exact execSweepEnd_kept hk
  | sensorConversion => exact execSensorConversion_kept hk
  | sensorHoldExpiry => exact execSensorHoldExpiry_kept hk
  | throttleLower => exact execThrottleLower_kept hk
  | thermalTrip => exact execThermalTrip_kept hk
  | auxComplianceLost => exact execAuxComplianceLost_kept hk
  | doorTrained => exact execDoorTrained_kept hk
  | flitReceive => exact execFlitReceive_kept hk
  | flitTransmit => exact execFlitTransmit_kept hk
  | nullFlitTimer => exact execNullFlitTimer_kept hk
  | doorDown => exact execDoorDown_kept hk
  | doorRetrain => exact execDoorRetrain_kept hk
  | linkDegraded => exact execLinkDegraded_kept hk
  | rd => exact execRd_kept hk
  | wr => exact execWr_kept hk
  | atom => exact execAtom_kept hk
  | atomq => exact execAtomq_kept hk
  | atomqPerform => exact execAtomqPerform_kept hk
  | rdrsp env => exact execRdrsp_kept (env := env) hk
  | wrack => exact execWrack_kept hk
  | atrsp => exact execAtrsp_kept hk
  | retry => exact execRetry_kept hk
  | atomResend => exact execAtomResend_kept hk
  | reddesc => exact execReddesc_kept hk
  | reddata => exact execReddata_kept hk
  | redack => exact execRedack_kept hk
  | remoteTimeout => exact execRemoteTimeout_kept hk
  | trussTimeout => exact execTrussTimeout_kept hk
  | ctxCreate => exact execCtxCreate_kept hk
  | ctxDestroy => exact execCtxDestroy_kept hk
  | ctxPin => exact execCtxPin_kept hk
  | ctxUnpin => exact execCtxUnpin_kept hk
  | ctxEvict => exact execCtxEvict_kept hk
  | ctxQuery => exact execCtxQuery_kept hk
  | queueCreate => exact execQueueCreate_kept hk
  | queueDestroy => exact execQueueDestroy_kept hk
  | queueResume => exact execQueueResume_kept hk
  | queueFlush => exact execQueueFlush_kept hk
  | queueQuery => exact execQueueQuery_kept hk
  | memMap => exact execMemMap_kept hk
  | memUnmap => exact execMemUnmap_kept hk
  | memProtect => exact execMemProtect_kept hk
  | arenaSet => exact execArenaSet_kept hk
  | arenaQuery => exact execArenaQuery_kept hk
  | shareCreate => exact execShareCreate_kept hk
  | shareMap => exact execShareMap_kept hk
  | shareUnmap => exact execShareUnmap_kept hk
  | shareRelease => exact execShareRelease_kept hk
  | kernelLoad => exact execKernelLoad_kept hk
  | kernelUnload => exact execKernelUnload_kept hk
  | streamResume => exact execStreamResume_kept hk
  | streamAbort _ env => exact execStreamAbort_kept (env := env) hk
  | resvSet => exact execResvSet_kept hk
  | panePin => exact execPanePin_kept hk
  | paneUnpin => exact execPaneUnpin_kept hk
  | windowQuarantine => exact execWindowQuarantine_kept hk
  | windowQualify => exact execWindowQualify_kept hk
  | radiatorPark => exact execRadiatorPark_kept hk
  | auxSetDefaults => exact execAuxSetDefaults_kept hk
  | evqSet => exact execEvqSet_kept hk
  | topoLoad => exact execTopoLoad_kept hk
  | topoQuery => exact execTopoQuery_kept hk
  | linkOpen => exact execLinkOpen_kept hk
  | linkClose => exact execLinkClose_kept hk
  | linkQuery => exact execLinkQuery_kept hk
  | exportSet => exact execExportSet_kept hk
  | exportClear => exact execExportClear_kept hk
  | remoteMap => exact execRemoteMap_kept hk
  | trussGroup => exact execTrussGroup_kept hk
  | trussBind => exact execTrussBind_kept hk
  | trussClear => exact execTrussClear_kept hk
  | attest => exact execAttest_kept hk
  | certRead => exact execCertRead_kept hk
  | frecRead => exact execFrecRead_kept hk
  | fwStage => exact execFwStage_kept hk
  | fwActivate => exact execFwActivate_kept hk
  | fwCommit => exact execFwCommit_kept hk
  | fwQuery => exact execFwQuery_kept hk
  | testChallenge => exact execTestChallenge_kept hk
  | challengeExpiry => exact execChallengeExpiry_kept hk
  | testUnlock => exact execTestUnlock_kept hk
  | boardCfgSet => exact execBoardCfgSet_kept hk
  | pwrLimit => exact execPwrLimit_kept hk
  | resetPart => exact execResetPart_kept hk
  | coolLimit => exact execCoolLimit_kept hk
  | recoveryDataWrite => exact execRecoveryDataWrite_kept hk
  | recoveryGo => exact execRecoveryGo_kept hk
  | jtagInstruction => exact execJtagInstruction_kept hk
  | jtagLeaveBoundary => exact execJtagLeaveBoundary_kept hk
  | frecSummaryUpdate => exact execFrecSummaryUpdate_kept hk
  | smbusReadStatus => exact execSmbusReadStatus_kept hk
  | smbusReadPavg => exact execSmbusReadPavg_kept hk
  | smbusReadTpol => exact execSmbusReadTpol_kept hk
  | smbusReadRtd => exact execSmbusReadRtd_kept hk
  | smbusReadRailstat => exact execSmbusReadRailstat_kept hk
  | smbusReset => exact execSmbusReset_kept hk
  | laserInLok => exact execLaserInLok_kept hk
  | pcieLinkInL0 => exact execPcieLinkInL0_kept hk
  | railReturnsToTolerance => exact execRailReturnsToTolerance_kept hk
  | vstbyWithinTolerance => exact execVstbyWithinTolerance_kept hk
  | requestToNoBar => exact execRequestToNoBar_kept hk

end

/-- A step keeps what the state has without the command that it takes. -/
theorem step_kept {s : State} {c : Instr} {rest : List Instr} (h : s.pending = c :: rest) :
    KeptNext rest s.fuses (Tidy s) (step s) := by
  have hstep : step s = exec c { s with pending := rest } := by rw [step, h]
  rw [hstep]
  exact exec_kept c ⟨rfl, .refl _, fun ht => { ht with }⟩

theorem step_idle {s : State} (h : s.pending = []) : step s = .next s := by rw [step, h]

/-- A step from a state keeps its fuses but for blowing, and the invariant. -/
theorem step_fuses_tidy {s t : State} (h : step s = .next t) : OneWay s.fuses t.fuses ∧ (Tidy s → Tidy t) := by
  cases hp : s.pending with
  | nil =>
    cases (step_idle hp).symm.trans h
    exact ⟨.refl _, id⟩
  | cons c rest =>
    obtain ⟨u, hu, hk⟩ := step_kept hp
    cases hu.symm.trans h
    exact ⟨hk.fuse, hk.tidy⟩

/-- Settles O3: the invariant passes through every command. -/
theorem stepsKeepTidy : Obligations.StepsKeepTidy := fun _ _ h => (step_fuses_tidy h).2

/-- Settles O4: every command leaves fuses that only blew. -/
theorem fusesOnlyBlow : Obligations.FusesOnlyBlow := fun _ _ h => (step_fuses_tidy h).1

/-- Settles O2: every command answers a next state and keeps the commands that wait. -/
theorem stepTakesFront : Obligations.StepTakesFront := by
  intro s c rest h
  obtain ⟨t, ht, hk⟩ := step_kept h
  exact ⟨t, ht, hk.pend⟩

/-- Settles O1: the two branches of a step. -/
theorem stepRunsCommand : Obligations.StepRunsCommand :=
  fun s => ⟨fun c rest h => by rw [step, h], step_idle⟩

/-- Settles O5: the reset state by its fields. -/
theorem resetTidy : Obligations.ResetTidy := by
  refine ⟨⟨rfl, ?_, List.nodup_nil, ?_, ?_, ?_, ?_, ?_, ?_, ?_⟩, ?_, rfl, rfl, rfl, rfl, rfl⟩
  case refine_1 => exact fun _ h => absurd h List.not_mem_nil
  case refine_6 => exact fun _ h => absurd h List.not_mem_nil
  case refine_9 => constructor <;> first | rfl | exact ⟨rfl, rfl⟩ | exact ⟨rfl, rfl, rfl, rfl, rfl⟩ | exact fun _ h => absurd h List.not_mem_nil
  all_goals decide

end Sys2Proof.Machine

/-!
Resets (R457 to R465, Table 12.3, Table 14.1): what each reset that restarts the blocks makes of the state, field by field, and the pins that
start one; the obligation O6.
-/

namespace Sys2Proof.Machine

open Sys2Proof

/-! ### Pages freed and Pantries kept by a reset -/

/-- A state without the page tables of the memory and the list of retired pages: what freeing pages can change. -/
def unpaged (s : State) : State :=
  { s with mem := { s.mem with owners := [], badPages := [] }, nvm := { s.nvm with retPages := [] } }

theorem unpaged_retirePage (s : State) (page : Nat) : unpaged (retirePage s page) = unpaged s := by
  unfold retirePage; split <;> rfl

theorem unpaged_freePage (s : State) (page : Nat) : unpaged (freePage s page) = unpaged s := by
  unfold freePage
  dsimp only
  split
  · rw [unpaged_retirePage]; rfl
  · rfl

/-- A retired page stays retired (R259). -/
theorem retPages_freePage {s : State} {p : Nat} (page : Nat) (h : p ∈ s.nvm.retPages) : p ∈ (freePage s page).nvm.retPages := by
  unfold freePage retirePage
  dsimp only
  repeat' split
  · exact h
  · exact List.mem_append_left _ h
  · exact h

/-- What every reset clears as a plain record, with the Windows, Pantries, bad pages and retired pages given. -/
def commonReset (s : State) (ws : Bank Window) (ps : Bank Pantry) (bad rp : List Nat) : State :=
  { s with
    windows := ws, pantries := ps, mem := { s.mem with owners := [], badPages := bad, resvs := [] }, nvm := { s.nvm with retPages := rp },
    ifLevel := 0, ctxs := [], queues := [], ops := [], shares := [], mboxes := [], umboxes := [], lastMbox := 0, events := [], evSeq := 0,
    evRing := none, bellClock := 0, streams := [], nextSid := 0, dumbs := [], trees := [], xlate := Xlate.reset,
    corr := { Corridor.reset with cspeed := s.corr.cspeed }, study := { s.study with busy := [] },
    host := { s.host with ranges := [], reqs := [] },
    link := { s.link with
      exports := [], reqs := [], inbox := [], atomq := [], held := [], groups := [], partials := [], kths := [], trComb := 0, trUnal := 0,
      trLate := 0, timedOut := [] } }

/-- The state in which a reset's own type takes over: beyond the plain record only page tables, Windows, Pantries and the list of
retired pages differ, and no page leaves that list. -/
theorem keepMigr_clearCommon_eq (s : State) : ∃ ws ps bad rp, (∀ p ∈ s.nvm.retPages, p ∈ rp) ∧
    keepMigr (clearCommon s) = commonReset s ws ps bad rp := by
  have hmigr (t : State) : ∃ ps, keepMigr t = { t with pantries := ps } := by
    have h := foldl_keeps (g := fun u (e : Nat × Window) => modPantry u e.1 fun p => { p with migr := !p.out })
      (fun u : State => { u with pantries := [] }) (fun _ _ => rfl) (t.windows.filter (fun e => e.2.gone && e.2.redir)) t
    exact ⟨(keepMigr t).pantries, congrArg (fun u : State => { u with pantries := (keepMigr t).pantries }) h⟩
  obtain ⟨ps, hps⟩ := hmigr (clearCommon s)
  have hfree := foldl_keeps unpaged (fun u (e : Nat × Owner) => unpaged_freePage u e.1) s.mem.owners s
  have hret : ∀ p ∈ s.nvm.retPages, p ∈ (s.mem.owners.foldl (fun u e => freePage u e.1) s).nvm.retPages := fun p hp =>
    List.foldlRecOn (motive := fun u => p ∈ u.nvm.retPages) s.mem.owners (fun u (e : Nat × Owner) => freePage u e.1) hp
      fun _ h e _ => retPages_freePage e.1 h
  refine ⟨(clearCommon s).windows, ps, (clearCommon s).mem.badPages, _, hret, ?_⟩
  rw [hps]
  unfold clearCommon
  dsimp only
  generalize s.mem.owners.foldl (fun u e => freePage u e.1) s = t at hfree
  have h : t = { s with mem := { s.mem with owners := t.mem.owners, badPages := t.mem.badPages }, nvm := { s.nvm with retPages := t.nvm.retPages } } :=
    congrArg (fun u : State => { u with
      mem := { u.mem with owners := t.mem.owners, badPages := t.mem.badPages }, nvm := { u.nvm with retPages := t.nvm.retPages } }) hfree
  generalize t.mem.owners = ow, t.mem.badPages = bd, t.nvm.retPages = rp at h
  subst h
  rfl

/-! ### The blocks that restart -/

/-- The power block after a reset of a type (Table 14.13). -/
def Power.cleared (k : ResetKind) (p : Power) : Power :=
  { p with
    thlvl := 0, byTemp := false, byPwr := false, byCool := false, byEst := false, trip := p.trip && !decide (2 ≤ k.rank), flags := 0,
    plimit := 480, thRaise := 0, coolMax := if k = .cold then 0x1680 else p.coolMax, sinceChange := 10, calm := 0, coolAbove := false,
    noTempFor := 0, pavgValid := p.pavgValid && decide (k ≠ .cold), tpolValid := p.tpolValid && decide (k ≠ .cold) }

theorem setAlert_sends (s : State) : ∃ a xs, setAlert s = { s with alertN := a, out := s.out ++ xs } := by
  unfold setAlert
  dsimp only
  split
  · exact ⟨_, _, rfl⟩
  · exact ⟨s.alertN, [], by rw [List.append_nil]⟩

theorem clearPower_sends (k : ResetKind) (s : State) :
    ∃ trip a xs, clearPower k s = { s with power := s.power.cleared k, thermTripN := trip, alertN := a, out := s.out ++ xs } := by
  unfold clearPower
  dsimp only
  split
  all_goals
    obtain ⟨a, xs, h⟩ := setAlert_sends _
    rw [h]
  · exact ⟨true, a, _, by rw [emit, List.append_assoc]; rfl⟩
  · exact ⟨s.thermTripN, a, xs, rfl⟩

theorem loadBoard_eq (s : State) : ∃ cr4 rtd, loadBoard s = { s with nvm := { s.nvm with pmdCr4 := cr4, rtdType := rtd } } := by
  unfold loadBoard
  split
  · exact ⟨_, _, rfl⟩
  · exact ⟨_, _, rfl⟩

/-- Study, the memory block, Radiator, Thermostat, the Doors and the link block as every reset that restarts them leaves them. -/
def restartBlocks (s : State) : State := clearLinks (clearThermo (clearMem (clearStudy s)))

theorem doorOf_range {l : Link} {f : Nat → Door} (h : l.doors = (List.range 16).map (fun d => (d, f d))) {d : Nat} (hd : d < 16) :
    bankGet l.doors (Door.reset false .absent) d = f d := by
  rw [h, bankGet_range f _ hd]

/-- The host block after a reset of a type: the endpoint stands at an Internal reset, and is cleared at a greater one (Table 12.3). -/
def HostIf.cleared (k : ResetKind) (h : HostIf) : HostIf :=
  if k = .internal then { h with ranges := [], reqs := [] }
  else { HostIf.reset with cfgDone := h.cfgDone && !decide (k = .cold) }

/-- A reset of a type that restarts the blocks, from s to t: beside what restarts, which fields take which values. -/
structure ResetTo (k : ResetKind) (cause : BitVec 3) (s t : State) : Prop where
  cleared : Cleared t
  restarted : Restarted s t
  keeps : ResetKeeps s t
  power : t.power = { s.power.cleared k with rstCause := cause }
  lamp : t.lamp = if k = .cold then s.lamp.cleared else s.lamp
  host : t.host = s.host.cleared k
  thresh : t.thresh = (clearThresh k s).thresh
  frec : t.nvm.frec = s.nvm.frec ∧ t.nvm.frecSum = s.nvm.frecSum ∧ t.nvm.frecStored = s.nvm.frecStored
  pins : t.pwrGood = s.pwrGood ∧ t.perstN = s.perstN
  resetting : t.resetting = some (match s.resetting with | some o => o.max k | none => k)
  cause : t.internalCause = none
  sent : ∃ xs, t.out = s.out ++ xs
  data : t.mem.data = s.mem.data

theorem restarted_of {s b t : State} (hS : isS b = isS s) (hstudy : b.study.removed = s.study.removed)
    (h : t.study = (restartBlocks b).study ∧ t.mem = (restartBlocks b).mem ∧ t.thermo = (restartBlocks b).thermo ∧
      t.link = (restartBlocks b).link ∧ t.nodeId = 0)
    (hp : t.power.plimit = 480 ∧ t.power.thlvl = 0 ∧ t.power.flags = 0 ∧ t.power.thRaise = 0) : Restarted s t := by
  obtain ⟨h1, h2, h3, h4, h5⟩ := h
  refine ⟨?_, ?_, ?_, ?_, ?_, ?_, ?_, hp⟩
  · rw [h1, ← hstudy]; rfl
  · rw [h2]; exact ⟨rfl, rfl, rfl, rfl⟩
  · rw [h3]; exact ⟨rfl, rfl, rfl, rfl, rfl, rfl⟩
  · rw [h3]
    intro e he x hx
    obtain ⟨w, -, rfl⟩ := List.mem_map.1 he
    simp only [nvmBank] at hx
    split at hx
    · rcases List.mem_cons.1 hx with rfl | hx
      · exact ⟨rfl, rfl⟩
      · simp only [List.map_map, List.mem_map] at hx
        obtain ⟨y, -, rfl⟩ := hx
        exact ⟨rfl, rfl⟩
    · obtain rfl : x = nvmHeater (0, 0) := by simpa using hx
      exact ⟨rfl, rfl⟩
  · rw [h3]
    intro e he
    obtain ⟨a, -, rfl⟩ := List.mem_map.1 he
    exact ⟨rfl, rfl⟩
  · have hl : t.link.doors = if isS s then [] else (List.range 16).map (fun d => (d, Door.reset (b.nvm.pmdCr4.getLsbD d) .training)) := by
      rw [h4, ← hS]; rfl
    split
    next hs => rw [hl, if_pos hs]
    next hs =>
      rw [if_neg hs] at hl
      intro d hd
      rw [doorOf, doorOf_range hl hd]
      exact ⟨rfl, rfl⟩
  · rw [h4]; exact ⟨rfl, h5, rfl, rfl⟩

/-- What the restart of the blocks at a reset of type k may take for granted of the state b that it meets. -/
structure Base (k : ResetKind) (s b : State) : Prop where
  keeps : ResetKeeps s b
  host : b.host = s.host.cleared k
  removed : b.study.removed = s.study.removed
  same : b.power = s.power ∧ b.lamp = s.lamp ∧ b.thresh = s.thresh ∧ b.out = s.out ∧ b.mem.data = s.mem.data
  frec : b.nvm.frec = s.nvm.frec ∧ b.nvm.frecSum = s.nvm.frecSum ∧ b.nvm.frecStored = s.nvm.frecStored
  pins : b.pwrGood = s.pwrGood ∧ b.perstN = s.perstN

theorem base_commonReset {s : State} {ws : Bank Window} {ps : Bank Pantry} {bad rp : List Nat} (h : ∀ p ∈ s.nvm.retPages, p ∈ rp) :
    Base .internal s (commonReset s ws ps bad rp) :=
  ⟨⟨rfl, ⟨rfl, rfl, rfl⟩, ⟨rfl, rfl, rfl⟩, rfl, h⟩, rfl, rfl, ⟨rfl, rfl, rfl, rfl, rfl⟩, ⟨rfl, rfl, rfl⟩, rfl, rfl⟩

/-- The board record takes effect, and the endpoint clears, before the blocks restart (R529). -/
theorem Base.endpoint {s b : State} (h : Base .internal s b) {k : ResetKind} (hk : k ≠ .internal) :
    Base k s (clearEndpoint false (decide (k = .cold)) (loadBoard b)) := by
  obtain ⟨cr4, rtd, hl⟩ := loadBoard_eq b
  rw [hl]
  refine ⟨{ h.keeps with }, ?_, h.removed, h.same, h.frec, h.pins⟩
  rw [HostIf.cleared, if_neg hk]
  dsimp only [clearEndpoint]
  rw [h.host]
  rfl

/-- The restart of the blocks at the end of a reset of type k, after the endpoint; `r` and `l` are what is recorded of the reset. -/
def restartEnd (k : ResetKind) (cause : BitVec 3) (b : State) (l : Lamp) (r : Option ResetKind) (lit : Bool) : State :=
  let t := clearThresh k (clearPower k (restartBlocks b))
  { t with
    lamp := l, resetting := r, lampWasLit := lit, internalCause := none, pastDeadline := false, power := { t.power with rstCause := cause } }

/-- The reset type on record once a reset of type k comes (R460). -/
def ResetKind.onRecord (k : ResetKind) (r : Option ResetKind) : Option ResetKind := some (match r with | some o => o.max k | none => k)

theorem restartBlocks_eq (b : State) : restartBlocks b = { b with
    study := (restartBlocks b).study, mem := (restartBlocks b).mem, thermo := (restartBlocks b).thermo, link := (restartBlocks b).link,
    nodeId := 0 } := rfl

theorem restartEnd_eq (k : ResetKind) (cause : BitVec 3) (b : State) (l : Lamp) (r : Option ResetKind) (lit : Bool) :
    ∃ trip al xs, restartEnd k cause b l r lit = { b with
      study := (restartBlocks b).study, mem := (restartBlocks b).mem, thermo := (restartBlocks b).thermo, link := (restartBlocks b).link, nodeId := 0,
      power := { b.power.cleared k with rstCause := cause }, thresh := (clearThresh k b).thresh, thermTripN := trip, alertN := al,
      out := b.out ++ xs, lamp := l, resetting := r, lampWasLit := lit, internalCause := none, pastDeadline := false } := by
  have hb := restartBlocks_eq b
  obtain ⟨trip, al, xs, hp⟩ := clearPower_sends k (restartBlocks b)
  refine ⟨trip, al, xs, ?_⟩
  rw [restartEnd, hp]
  generalize (restartBlocks b).study = st, (restartBlocks b).mem = m, (restartBlocks b).thermo = th, (restartBlocks b).link = ln at hb ⊢
  rw [hb]
  rfl

theorem Base.restarts {k : ResetKind} {s b : State} {cause : BitVec 3} {l : Lamp} {r : Option ResetKind} {lit : Bool} (h : Base k s b)
    (hc : Cleared (restartEnd k cause b l r lit)) (hl : l = if k = .cold then s.lamp.cleared else s.lamp)
    (hr : r = k.onRecord s.resetting) : ResetTo k cause s (restartEnd k cause b l r lit) := by
  obtain ⟨trip, al, xs, he⟩ := restartEnd_eq k cause b l r lit
  obtain ⟨hpower, hlamp, hthresh, hout, hdata⟩ := h.same
  have hS : isS b = isS s := by rw [isS, isS, h.keeps.fuses]
  have hth : (clearThresh k b).thresh = (clearThresh k s).thresh := by simp only [clearThresh, hthresh]
  rw [he] at hc ⊢
  refine ⟨hc, restarted_of hS h.removed ⟨rfl, rfl, rfl, rfl, rfl⟩ ⟨rfl, rfl, rfl, rfl⟩, { h.keeps with }, ?_, hl, h.host, hth, h.frec, h.pins,
    hr, rfl, ⟨xs, ?_⟩, hdata⟩
  · rw [hpower]
  · rw [hout]

theorem restart_keeps (k : ResetKind) (b : State) :
    (clearThresh k (clearPower k (restartBlocks b))).lamp = b.lamp ∧
      (clearThresh k (clearPower k (restartBlocks b))).resetting = b.resetting := by
  have hb := restartBlocks_eq b
  obtain ⟨trip, al, xs, hp⟩ := clearPower_sends k (restartBlocks b)
  rw [hp]
  generalize (restartBlocks b).study = st, (restartBlocks b).mem = m, (restartBlocks b).thermo = th, (restartBlocks b).link = ln at hb ⊢
  rw [hb]
  exact ⟨rfl, rfl⟩

/-- The state that the restart of the blocks meets at a reset of type k (R459, R529). -/
def preRestart (k : ResetKind) (b : State) : State :=
  if k = .internal then b else clearEndpoint false (decide (k = .cold)) (loadBoard b)

/-- The blocks that a reset of type k clears: all that restart, and the Lamp too at a Cold one. -/
theorem clearKind_eq {k : ResetKind} (hk : k ≠ .flr) (b : State) :
    clearKind k b =
      let t := clearThresh k (clearPower k (restartBlocks (preRestart k b)))
      { t with lamp := if k = .cold then t.lamp.cleared else t.lamp } := by
  cases k with
  | flr => exact absurd rfl hk
  | internal => rfl
  | warm => rfl
  | cold => rfl

theorem Base.preRestart {s b : State} (h : Base .internal s b) (k : ResetKind) : Base k s (preRestart k b) := by
  unfold Machine.preRestart
  split
  next hk => exact hk ▸ h
  next hk => exact h.endpoint hk

/-- A reset that restarts the blocks ends as restartEnd says. -/
theorem doReset_eq {k : ResetKind} (hk : k ≠ .flr) (cause : BitVec 3) (s : State) : ∃ l r lit,
    l = (if k = .cold then (preRestart k (keepMigr (clearCommon s))).lamp.cleared else (preRestart k (keepMigr (clearCommon s))).lamp) ∧
    r = k.onRecord (preRestart k (keepMigr (clearCommon s))).resetting ∧
    doReset k cause s = restartEnd k cause (preRestart k (keepMigr (clearCommon s))) l r lit := by
  have hkeep := restart_keeps k (preRestart k (keepMigr (clearCommon s)))
  obtain ⟨hl, hr⟩ := hkeep
  rw [← hl, ← hr]
  refine ⟨_, _, (doReset k cause s).lampWasLit, rfl, rfl, ?_⟩
  simp only [doReset, if_neg hk, clearKind_eq hk]
  rfl

/-- What Cold, Warm and Internal resets leave, all said once. -/
theorem doReset_to {k : ResetKind} (hk : k ≠ .flr) (cause : BitVec 3) (s : State) : ResetTo k cause s (doReset k cause s) := by
  obtain ⟨ws, ps, bad, rp, hrp, hb⟩ := keepMigr_clearCommon_eq s
  have h := (base_commonReset (ws := ws) (ps := ps) (bad := bad) hrp).preRestart k
  have hc := cleared_doReset k cause s
  obtain ⟨l, r, lit, hl, hr, he⟩ := doReset_eq hk cause s
  have hrec : (preRestart k (commonReset s ws ps bad rp)).resetting = s.resetting := by
    obtain ⟨cr4, rtd, hload⟩ := loadBoard_eq (commonReset s ws ps bad rp)
    unfold preRestart
    split
    · rfl
    · rw [hload]; rfl
  rw [hb] at he hl hr
  rw [h.same.2.1] at hl
  rw [hrec] at hr
  rw [he] at hc ⊢
  exact h.restarts hc hl hr

/-- A Warm reset that nothing absorbs (R460). -/
theorem warmReset_eq {s : State} (cause : BitVec 3) (hup : powered s = true) (hheld : s.warmHeld = false) :
    warmReset s cause = { doReset .warm cause (storeSummary s) with warmHeld := !s.perstN } := by
  simp [warmReset, hup, hheld]

/-! ### The obligation O6 -/

/-- A Cold reset is counted (Table 13.3). -/
def coldStart (t : State) : State :=
  { t with warmHeld := false, nvm := { t.nvm with frecSum := { t.nvm.frecSum with coldCnt := t.nvm.frecSum.coldCnt + 1 } } }

/-- Settles O6: each pin's reset is doReset of a type that restarts the blocks, on a state that differs by the pin or the stored
summary. -/
theorem pinResetsClearThePart : Obligations.PinResetsClearThePart := by
  unfold Obligations.PinResetsClearThePart
  intro s
  refine ⟨fun hlow => ?_, fun hhigh => ?_, fun hup hheld hperst => ?_, fun hup hheld hsmbus => ?_⟩
  · have h := doReset_to (k := .cold) (by decide) 0 { s with pwrGood := true }
    have hexec : exec .pwrgoodAssert s = .next (coldStart (doReset .cold 0 { s with pwrGood := true })) :=
      congrArg Host.Outcome.next (if_neg (by simp [hlow]))
    generalize doReset .cold 0 { s with pwrGood := true } = t at h hexec
    refine ⟨_, hexec, { h.cleared with }, { h.restarted with }, { h.keeps with }, ?_⟩
    dsimp only [coldStart]
    rw [h.power, h.lamp, h.host, h.thresh, h.pins.1, h.frec.1, h.frec.2.1, h.resetting]
    refine ⟨rfl, ?_, rfl, rfl, Bool.and_false _, rfl, rfl, rfl, Bool.and_false _, rfl, rfl, ?_, rfl, rfl⟩
    · cases s.resetting with
      | none => rfl
      | some o => cases o <;> rfl
    · simp [clearThresh]
  · have h := doReset_to (k := .cold) (by decide) s.power.rstCause s
    have hexec : exec .pwrgoodDeassert s = .next { doReset .cold s.power.rstCause s with pwrGood := false, warmHeld := false } :=
      congrArg Host.Outcome.next (if_pos hhigh)
    generalize doReset .cold s.power.rstCause s = t at h hexec
    refine ⟨_, hexec, { h.cleared with }, { h.restarted with }, { h.keeps with }, ?_⟩
    dsimp only
    rw [h.lamp, h.host, h.frec.1]
    exact ⟨rfl, rfl, rfl, rfl, rfl⟩
  · have h := doReset_to (k := .warm) (by decide) 1 (storeSummary { s with perstN := false })
    have hexec : exec .perstNAssert s =
        .next { doReset .warm 1 (storeSummary { s with perstN := false }) with warmHeld := true } :=
      congrArg Host.Outcome.next ((if_pos hperst).trans (warmReset_eq (s := { s with perstN := false }) 1 hup hheld))
    generalize doReset .warm 1 (storeSummary { s with perstN := false }) = t at h hexec
    refine ⟨_, hexec, { h.cleared with }, { h.restarted with }, { h.keeps with }, ?_⟩
    dsimp only
    rw [h.power, h.lamp, h.host, h.thresh, h.pins.2, h.frec.1, h.frec.2.2]
    exact ⟨rfl, rfl, rfl, Bool.and_false _, rfl, rfl, rfl, rfl, rfl, rfl, rfl⟩
  · have h := doReset_to (k := .warm) (by decide) 2 (storeSummary s)
    have hexec : exec .smbusReset s = .next { doReset .warm 2 (storeSummary s) with warmHeld := !s.perstN } :=
      congrArg Host.Outcome.next ((if_pos hsmbus).trans (warmReset_eq 2 hup hheld))
    generalize doReset .warm 2 (storeSummary s) = t at h hexec
    refine ⟨_, hexec, { h.cleared with }, { h.restarted with }, { h.keeps with }, ?_⟩
    dsimp only
    rw [h.power, h.lamp, h.host, h.thresh, h.pins.2, h.frec.1, h.frec.2.2]
    exact ⟨rfl, rfl, rfl, Bool.and_false _, rfl, rfl, rfl, rfl, rfl, rfl, rfl⟩

end Sys2Proof.Machine

/-!
Function Level and Internal resets (R459, R462 to R465): what the work in flight can change when Doors close, what a fault of Hearth
reports and records first; the obligation O7.
-/

namespace Sys2Proof.Machine

open Sys2Proof

/-! ### What work in flight can change -/

/-- A state without its work in flight: commands, streams, trees, the Windows' passes, messages, credits, and what the end of a command
signals. -/
def workless (s : State) : State :=
  { quiet s with
    freeIx := 0, windows := [], pantries := [], trees := [], study := { s.study with busy := [], partway := [] }, dumbs := [], streams := [],
    corr := { s.corr with aud := [] }, ctxs := [], ops := [], link := { Link.reset with topo := s.link.topo } }

theorem workless_of_quiet {s t : State} (h : quiet t = quiet s) : workless t = workless s :=
  congrArg (fun u : State => { u with
    freeIx := 0, windows := [], pantries := [], trees := [], study := { u.study with busy := [], partway := [] }, dumbs := [], streams := [],
    corr := { u.corr with aud := [] }, ctxs := [], ops := [], link := { Link.reset with topo := u.link.topo } }) h

@[simp] theorem workless_raiseEvent (s : State) (type ctx a0 a1 : Nat) : workless (raiseEvent s type ctx a0 a1) = workless s :=
  workless_of_quiet (quiet_raiseEvent ..)
@[simp] theorem workless_raiseVec (s : State) (v : Nat) : workless (raiseVec s v) = workless s := workless_of_quiet (quiet_raiseVec ..)
@[simp] theorem workless_audGive (s : State) (q n : Nat) : workless (audGive s q n) = workless s := rfl
@[simp] theorem workless_modDumb (s : State) (d : Nat) (f : Dumb → Dumb) : workless (modDumb s d f) = workless s := rfl
@[simp] theorem workless_modPantry (s : State) (p : Nat) (f : Pantry → Pantry) : workless (modPantry s p f) = workless s := rfl
@[simp] theorem workless_freshNat (s : State) : workless (freshNat s).2 = workless s := rfl
@[simp] theorem workless_modOp (s : State) (id : OpId) (f : Op → Op) : workless (modOp s id f) = workless s := rfl
@[simp] theorem workless_modDoor (s : State) (d : Nat) (f : Door → Door) : workless (modDoor s d f) = workless s := rfl
@[simp] theorem workless_modCtx (s : State) (n : Nat) (f : Context → Context) : workless (modCtx s n f) = workless s := by
  unfold modCtx; split <;> rfl

@[simp] theorem workless_freeHeld (s : State) (x : Stream) : workless (freeHeld s x) = workless s := by
  unfold freeHeld
  split <;> rfl

@[simp] theorem workless_dropStreams (s : State) (id : OpId) (aborted : Bool) : workless (dropStreams s id aborted) = workless s := by
  unfold dropStreams
  dsimp only
  rw [foldl_keeps workless fun u e => ?_]
  · rfl
  · split
    · rw [workless_audGive, workless_modDumb, workless_freeHeld]
    · rfl

@[simp] theorem workless_closeTrees (s : State) (id : OpId) : workless (closeTrees s id) = workless s := by
  unfold closeTrees
  dsimp only
  rw [foldl_keeps workless fun u e => ?_]
  · rfl
  · split
    · rw [workless_audGive, workless_modPantry, workless_freshNat, workless_freshNat, workless_modPantry]
    · rfl

@[simp] theorem workless_endOp (s : State) (id : OpId) (st : Status) (aborted : Bool) : workless (endOp s id st aborted) = workless s := by
  unfold endOp
  split
  · rfl
  · split
    · rfl
    · dsimp only
      rw [workless_modOp]
      split
      all_goals simp only [workless_audGive, workless_closeTrees]; exact workless_dropStreams ..

@[simp] theorem workless_dropSignal (s : State) (ctx : Nat) : workless (dropSignal s ctx) = workless s := workless_modCtx ..

@[simp] theorem workless_raiseQueueVec (s : State) (q : Nat) : workless (raiseQueueVec s q) = workless s := by
  unfold raiseQueueVec
  split <;> simp

/-- A request that times out, counted and reported, before its owner hears of it (R433). -/
def reqTimedOut (s : State) (tag : Nat) (r : RemReq) : State :=
  let u := modDoor (dropReq s tag) ((r.door.orElse (fun _ => primaryDoor (dropReq s tag) r.msg.dst)).getD 0) (fun x => { x with toutCnt := x.toutCnt + 1 })
  raiseEvent { u with link := { u.link with flags := u.link.flags ||| 4 } } 0x45 noCtx r.msg.dst (r.tag + r.msg.mtype * 65536)

theorem workless_reqTimedOut (s : State) (tag : Nat) (r : RemReq) : workless (reqTimedOut s tag r) = workless s := workless_raiseEvent ..

/-- A request that times out ends its stream's command, drops its SIGNAL or ends its partial's command. -/
theorem failReq_eq (s : State) (tag : Nat) : failReq s tag = match findReq s tag with
    | none => s
    | some r => match r.owner with
      | .stream sid _ => (match findStream (reqTimedOut s tag r) sid with
        | some x => endOp (reqTimedOut s tag r) x.op .aborted true
        | none => reqTimedOut s tag r)
      | .signal op irq => if irq then raiseQueueVec (dropSignal (reqTimedOut s tag r) r.ctx) op.1 else dropSignal (reqTimedOut s tag r) r.ctx
      | .red op => endOp (reqTimedOut s tag r) op .aborted true := rfl

@[simp] theorem workless_failReq (s : State) (tag : Nat) : workless (failReq s tag) = workless s := by
  rw [failReq_eq]
  split
  · rfl
  next r _ =>
    rw [← workless_reqTimedOut s tag r]
    generalize reqTimedOut s tag r = u
    split
    · split
      · exact workless_endOp ..
      · rfl
    · split
      · rw [workless_raiseQueueVec, workless_dropSignal]
      · exact workless_dropSignal ..
    · exact workless_endOp ..

@[simp] theorem workless_failMsg (s : State) (m : Msg) : workless (failMsg s m) = workless s := by
  unfold failMsg
  split <;> simp

@[simp] theorem workless_countOvr (s : State) (dst : Nat) : workless (countOvr s dst) = workless s := by
  unfold countOvr
  repeat' split
  all_goals rfl

@[simp] theorem workless_goAlt (s : State) (a b : Nat) : workless (goAlt s a b) = workless s := by
  unfold goAlt
  split <;> simp

@[simp] theorem workless_routeOf (s : State) (dst : Nat) (arrival : Option (Nat × Nat)) :
    workless (routeOf s dst arrival).1 = workless s := by
  unfold routeOf
  repeat' (first | split | dsimp only)
  all_goals simp

theorem workless_routeOf_eq {s t : State} {dst : Nat} {arrival : Option (Nat × Nat)} {r : Route} (h : routeOf s dst arrival = (t, r)) :
    workless t = workless s := by
  rw [← workless_routeOf s dst arrival, h]

@[simp] theorem workless_enqueue (s : State) (d lane : Nat) (m : Msg) : workless (enqueue s d lane m) = workless s := rfl
@[simp] theorem workless_deliver (s : State) (d code : Nat) (flits : List Nat) (m : Msg) : workless (deliver s d code flits m) = workless s := rfl

@[simp] theorem workless_sendMsg (s : State) (m : Msg) : workless (sendMsg s m).1 = workless s := by
  unfold sendMsg
  split
  next h => rw [workless_deliver, workless_routeOf_eq h]
  next h =>
    rw [← workless_routeOf_eq h]
    repeat' split
    all_goals rfl
  next h => exact workless_routeOf_eq h

@[simp] theorem workless_sendHeld (s : State) (e : Nat × Msg) : workless (sendHeld s e) = workless s := by
  have h := workless_sendMsg s e.2
  unfold sendHeld
  split
  next he => rw [he] at h; exact h
  next he => rw [he] at h; rw [workless_failMsg]; exact h

@[simp] theorem workless_releaseHeld (s : State) : workless (releaseHeld s) = workless s :=
  foldl_keeps workless workless_sendHeld s.link.held { s with link := { s.link with held := [] } }

@[simp] theorem workless_reroute (s : State) (m : Msg) : workless (reroute s m) = workless s := by
  unfold reroute
  split
  next h => rw [workless_enqueue, workless_routeOf_eq h]
  next h => rw [workless_deliver, workless_routeOf_eq h]
  next h => rw [workless_failMsg, workless_routeOf_eq h]

@[simp] theorem workless_backCred (s : State) (d v n : Nat) : workless (backCred s d v n) = workless s := rfl

@[simp] theorem workless_closeDoor (s : State) (d : Nat) : workless (closeDoor s d) = workless s := by
  unfold closeDoor
  split
  · dsimp only
    rw [workless_releaseHeld, foldl_keeps workless workless_reroute, workless_raiseEvent, workless_modDoor]
    exact foldl_keeps (g := fun u v => backCred u d v (dcLevel (doorOf u d) v).toNat) workless (fun _ _ => rfl) [0, 1, 2] s
  · rfl

theorem workless_flrDoor (s : State) (d : Nat) : workless (flrDoor s d) = workless s := by
  unfold flrDoor
  split
  · rw [foldl_keeps workless workless_failReq, workless_closeDoor]
  · rfl

/-! ### A Function Level Reset (R465) -/

/-- A Door that is OPEN once an FLR has seen to Door e was OPEN, and is another. -/
theorem doorOpen_flrDoor {s : State} {d e : Nat} (h : doorOpen (flrDoor s e) d = true) : doorOpen s d = true ∧ d ≠ e := by
  have hfail (l : List Nat) (u : State) : doorOpen (l.foldl failReq u) d = doorOpen u d := (Routes.foldl routes_failReq l u).doorOpen d
  unfold flrDoor at h
  split at h
  next ho =>
    rw [hfail] at h
    have hs := shuts_closeDoor s e
    by_cases hde : d = e
    · subst hde
      have := (hs.own (of_decide_eq_true ho)).1
      simp [doorOpen, this] at h
    · refine ⟨?_, hde⟩
      rw [doorOpen, (hs.others d hde).1] at h
      exact h
  next hc => exact ⟨h, fun hde => hc (hde ▸ h)⟩

theorem doorOpen_flrDoors {d : Nat} : ∀ {l : List Nat} {s : State}, doorOpen (l.foldl flrDoor s) d = true → doorOpen s d = true ∧ d ∉ l
  | [], _, h => ⟨h, List.not_mem_nil⟩
  | e :: l, s, h => by
    obtain ⟨ht, hl⟩ := doorOpen_flrDoors (l := l) h
    obtain ⟨hs, he⟩ := doorOpen_flrDoor ht
    exact ⟨hs, by simp [he, hl]⟩

/-- The state whose blocks an FLR clears: every Door has been closed. -/
def shutDown (s : State) : State := (List.range 16).foldl flrDoor s

theorem workless_shutDown (s : State) : workless (shutDown s) = workless s := foldl_keeps workless workless_flrDoor (List.range 16) s

theorem shutDown_keeps {α : Type} (s : State) (p : State → α) (hp : ∀ u, p (workless u) = p u) : p (shutDown s) = p s :=
  eq_of_view workless p hp (workless_shutDown s)

theorem shutDown_closed (s : State) {d : Nat} (hd : d < 16) : doorOpen (shutDown s) d = false :=
  Bool.eq_false_iff.2 fun h => (doorOpen_flrDoors h).2 (List.mem_range.2 hd)

/-- An FLR clears what every reset clears, and the endpoint. -/
theorem doReset_flr (cause : BitVec 3) (s : State) : ∃ ws ps bad rp r lit, (∀ p ∈ (shutDown s).nvm.retPages, p ∈ rp) ∧
    doReset .flr cause s =
      let b := rewriteYilium (clearEndpoint true true (commonReset (shutDown s) ws ps bad rp))
      { b with resetting := r, lampWasLit := lit, pastDeadline := false, power := { b.power with rstCause := cause } } := by
  obtain ⟨ws, ps, bad, rp, hrp, hb⟩ := keepMigr_clearCommon_eq (shutDown s)
  refine ⟨ws, ps, bad, rp, (doReset .flr cause s).resetting, (doReset .flr cause s).lampWasLit, hrp, ?_⟩
  rw [← hb]
  simp only [doReset, if_true, clearKind]
  rw [← shutDown]

/-! ### A fault of Hearth (R462, R463) -/

theorem raiseVec_sends (s : State) (v : Nat) : ∃ xs, (raiseVec s v).out = s.out ++ xs := by
  rcases raiseVec_cases s v with ⟨_, _, _, _, h⟩ | h <;> rw [h]
  · exact ⟨_, rfl⟩
  · exact ⟨[], (List.append_nil _).symm⟩

theorem raiseEvent_sends (s : State) (type ctx a0 a1 : Nat) : ∃ xs, (raiseEvent s type ctx a0 a1).out = s.out ++ xs := by
  unfold raiseEvent raiseEvent3
  dsimp only
  split
  · unfold writeEvent
    obtain ⟨xs, h⟩ := raiseVec_sends _ 0
    rw [h]
    exact ⟨_, List.append_assoc ..⟩
  · split <;> exact ⟨[], (List.append_nil _).symm⟩

/-- What an entry of the failure record changes: the record and, where it is full, its overflow counts, a flag of Threshold and an event. -/
theorem addFrec_keeps (s : State) (kind unit index cause paddr ctx : Nat) :
    (∃ xs, (addFrec s kind unit index cause paddr ctx).out = s.out ++ xs) ∧
    ∃ f fs ov, (addFrec s kind unit index cause paddr ctx).nvm = { s.nvm with frec := f, frecSum := fs, frecOvf := ov } := by
  unfold addFrec
  dsimp only
  split
  · exact ⟨⟨[], (List.append_nil _).symm⟩, _, _, s.nvm.frecOvf, rfl⟩
  · split
    · exact ⟨⟨[], (List.append_nil _).symm⟩, _, s.nvm.frecSum, s.nvm.frecOvf, rfl⟩
    · rw [raiseEvent_nvm]
      exact ⟨raiseEvent_sends .., s.nvm.frec, _, _, rfl⟩

/-- The part when a fault of Hearth has been reported under AER and recorded (R462). -/
def faultRecorded (s : State) (kind : Nat) : State := addFrec (aer (parkAll s) .internalError none) kind 0 0 0 0 noCtx

/-- The Internal reset after a fault of Hearth: what it leaves, and what stood before it. -/
theorem hearthFault_eq (s : State) (kind : Nat) (cause : BitVec 3) : ∃ n a,
    hearthFault s kind cause =
      doReset .internal cause { faultRecorded s kind with nvm := { (faultRecorded s kind).nvm with fwFails := n, fwAct := a } } := by
  unfold hearthFault
  dsimp only
  split
  · exact ⟨(faultRecorded s kind).nvm.fwFails, (faultRecorded s kind).nvm.fwAct, rfl⟩
  · exact ⟨_, _, rfl⟩

/-- What a fault of Hearth leaves, with the entry of its kind where the record has room (R463, R501). -/
theorem hearthFault_to (s : State) (kind : Nat) (cause : BitVec 3) :
    let t := hearthFault s kind cause
    Cleared t ∧ Restarted s t ∧ ResetKeeps s t ∧ t.power.rstCause = cause ∧ t.lamp = s.lamp ∧ t.host.cfgReady = s.host.cfgReady ∧
      .aer .internalError (s.host.cfg.aerSev.getLsbD 22) ∈ t.out ∧
      (s.nvm.frec.length < 1024 → t.host.msix = s.host.msix ∧ ∃ e, t.nvm.frec = s.nvm.frec ++ [e] ∧ e.kind = kind) := by
  obtain ⟨n, a, he⟩ := hearthFault_eq s kind cause
  have h := doReset_to (k := .internal) (by decide) cause
    { faultRecorded s kind with nvm := { (faultRecorded s kind).nvm with fwFails := n, fwAct := a } }
  rw [← he] at h
  dsimp only
  generalize hearthFault s kind cause = t at h
  obtain ⟨⟨xs, hout⟩, f, fs, ov, hnvm⟩ := addFrec_keeps (aer (parkAll s) .internalError none) kind 0 0 0 0 noCtx
  have hkeep {α : Type} (p : State → α) (hp : ∀ u, p (unrecorded u) = p u) : p (faultRecorded s kind) = p (aer (parkAll s) .internalError none) :=
    eq_of_view unrecorded p hp (unrecorded_addFrec ..)
  have hstudy := hkeep (State.study) (fun _ => rfl)
  have hfuses := hkeep (State.fuses) (fun _ => rfl)
  have hlamp := hkeep (State.lamp) (fun _ => rfl)
  have hready := hkeep (fun u => u.host.cfgReady) (fun _ => rfl)
  have hnvm' : (faultRecorded s kind).nvm = { s.nvm with frec := f, frecSum := fs, frecOvf := ov } := hnvm
  obtain ⟨ys, hsent⟩ := h.sent
  refine ⟨h.cleared, ⟨?_, h.restarted.mem, h.restarted.thermo, h.restarted.heaters, h.restarted.aux, ?_, h.restarted.link, h.restarted.power⟩,
    ⟨?_, ?_, ?_, ?_, ?_⟩, ?_, ?_, ?_, ?_, fun hroom => ?_⟩
  · rw [h.restarted.study]; exact congrArg (fun x => { Study.reset with removed := x.removed }) hstudy
  · have hS : isS s = isS { faultRecorded s kind with nvm := { (faultRecorded s kind).nvm with fwFails := n, fwAct := a } } :=
      congrArg (fun x : Fuses => decide (x.ordcode = 2)) hfuses.symm
    rw [hS]
    exact h.restarted.doors
  · exact h.keeps.fuses.trans hfuses
  · have hb := h.keeps.banks
    dsimp only at hb
    rwa [hnvm'] at hb
  · have hb := h.keeps.customer
    dsimp only at hb
    rwa [hnvm'] at hb
  · have hb := h.keeps.rows
    dsimp only at hb
    rwa [hnvm'] at hb
  · have hb := h.keeps.pages
    dsimp only at hb
    rwa [hnvm'] at hb
  · rw [h.power]
  · rw [h.lamp]; exact hlamp
  · rw [h.host]; exact hready
  · rw [hsent]
    have haer : (faultRecorded s kind).out = s.out ++ [.aer .internalError (s.host.cfg.aerSev.getLsbD 22)] ++ xs := hout
    dsimp only
    rw [haer]
    simp
  · obtain ⟨nvm, hr⟩ := addFrec_room (s := aer (parkAll s) .internalError none) kind 0 0 0 0 noCtx hroom
    obtain ⟨-, e, hfrec, hkind, -⟩ := addFrec_appends (s := aer (parkAll s) .internalError none) kind 0 0 0 0 noCtx hroom
    have hmsix : (faultRecorded s kind).host.msix = s.host.msix := by rw [faultRecorded, hr]; rfl
    refine ⟨?_, e, ?_, hkind⟩
    · rw [h.host]; exact hmsix
    · rw [h.frec.1]; exact hfrec

/-! ### The obligation O7 -/

/-- A lesser reset that nothing absorbs (R460). -/
theorem lesserReset_eq {s : State} (k : ResetKind) (cause : BitVec 3) (hup : powered s = true) (hheld : s.warmHeld = false) :
    lesserReset k cause s = doReset k cause (storeSummary s) := by
  simp [lesserReset, hup, hheld]

theorem linkUp_powered {s : State} (h : linkUp s = true) : powered s = true := by
  simp only [linkUp, Bool.and_eq_true] at h
  exact h.1

/-- Settles O7: an FLR by its explicit result, the Internal resets as resets that restart the blocks. -/
theorem lesserResetsClearThePart : Obligations.LesserResetsClearThePart := by
  unfold Obligations.LesserResetsClearThePart
  intro s hheld
  refine ⟨fun hlink hready => ?_, fun c hup hc => ?_, fun hup hrun => ?_⟩
  · have hexec : exec .functionLevelReset s = .next (doReset .flr 3 (storeSummary s)) :=
      congrArg Host.Outcome.next ((if_pos (by simp [hlink, hready])).trans (lesserReset_eq .flr 3 (linkUp_powered hlink) hheld))
    have hcl := cleared_doReset .flr 3 (storeSummary s)
    obtain ⟨ws, ps, bad, rp, r, lit, hrp, he⟩ := doReset_flr 3 (storeSummary s)
    refine ⟨_, hexec, hcl, ?_⟩
    have hk {α : Type} (p : State → α) (hp : ∀ u, p (workless u) = p u) : p (shutDown (storeSummary s)) = p (storeSummary s) :=
      shutDown_keeps _ p hp
    have hfuses := hk State.fuses fun _ => rfl
    have hnvm := hk State.nvm fun _ => rfl
    have hpower := hk State.power fun _ => rfl
    have hspeed := hk (fun u => u.host.lspeed) fun _ => rfl
    have hthermo := hk State.thermo fun _ => rfl
    have hlamp := hk State.lamp fun _ => rfl
    have hok := hk (fun u => u.study.coreOk) fun _ => rfl
    have hsrdy := hk (fun u => u.study.srdy) fun _ => rfl
    have hmem := hk State.mem fun _ => rfl
    have htopo := hk (fun u => u.link.topo) fun _ => rfl
    have hnode := hk State.nodeId fun _ => rfl
    have hclosed (d : Nat) (hd : d < 16) : doorOpen (shutDown (storeSummary s)) d = false := shutDown_closed _ hd
    rw [he] at hcl ⊢
    generalize shutDown (storeSummary s) = u at *
    rw [hnvm] at hrp
    refine ⟨⟨hfuses, ?_, ?_, ?_, hrp⟩, ?_, rfl, rfl, hspeed, hthermo, hlamp, hok, hsrdy, ?_, ?_, ?_, hclosed, htopo, hnode⟩
    · exact ⟨(congrArg Nvm.bankA hnvm :), (congrArg Nvm.bankB hnvm :), (congrArg Nvm.certs hnvm :)⟩
    · exact ⟨(congrArg Nvm.boardCfg hnvm :), (congrArg Nvm.topo hnvm :), (congrArg Nvm.auxVals hnvm :)⟩
    · exact (congrArg Nvm.retRows hnvm :)
    · exact congrArg (fun p : Power => { p with rstCause := 3 }) hpower
    · exact (congrArg Mem.data hmem :)
    · exact (congrArg Mem.swctrl hmem :)
    · exact (congrArg (fun m : Mem => m.poison.filter fun g => decide (64 * g < 0xF800000 ∨ 0x10000000 ≤ 64 * g)) hmem :)
  · have h := doReset_to (k := .internal) (by decide) c (storeSummary s)
    have hexec : exec .internalReset s = .next (doReset .internal c (storeSummary s)) := by
      rw [← lesserReset_eq .internal c hup hheld]
      simp [exec, execInternalReset, hc]
    generalize doReset .internal c (storeSummary s) = t at h hexec
    refine ⟨_, hexec, { h.cleared with }, { h.restarted with }, { h.keeps with }, ?_⟩
    rw [h.power, h.lamp, h.host, h.cause]
    exact ⟨rfl, rfl, rfl, rfl, rfl, rfl, Bool.and_true _⟩
  · have hhearth : hearthUp s = true := by simp [hearthUp, hup, hrun, hheld]
    exact ⟨⟨_, congrArg Host.Outcome.next (if_pos hhearth), hearthFault_to s 11 4⟩,
      ⟨_, congrArg Host.Outcome.next (if_pos hhearth), hearthFault_to s 12 5⟩⟩

end Sys2Proof.Machine

/-!
Windows leaving service (R106 to R115, R151, R152): what the end of commands, a quarantine, a retirement and the spare laser make of each
Window, and what they leave alone.
-/

namespace Sys2Proof.Machine

open Sys2Proof

/-! ### What Windows leaving service can change -/

/-- A state without its work in flight, its stream numbers, its nonvolatile records and Threshold's flags: what a quarantine and its
entry in the failure record can change. -/
def steady (s : State) : State := { workless s with nextSid := 0, nvm := State.reset.nvm, thresh := State.reset.thresh }

theorem steady_of_workless {s t : State} (h : workless t = workless s) : steady t = steady s :=
  congrArg (fun u : State => { u with nextSid := 0, nvm := State.reset.nvm, thresh := State.reset.thresh }) h

@[simp] theorem steady_endOp (s : State) (id : OpId) (st : Status) (aborted : Bool) : steady (endOp s id st aborted) = steady s :=
  steady_of_workless (workless_endOp ..)
@[simp] theorem steady_endOps (st : Status) (aborted : Bool) (ids : List OpId) (s : State) : steady (endOps st aborted ids s) = steady s :=
  foldl_keeps (g := fun u id => endOp u id st aborted) steady (fun _ _ => steady_endOp ..) ids s
@[simp] theorem steady_modWin (s : State) (w : Nat) (f : Window → Window) : steady (modWin s w f) = steady s := rfl
@[simp] theorem steady_modPantry (s : State) (w : Nat) (f : Pantry → Pantry) : steady (modPantry s w f) = steady s := rfl
@[simp] theorem steady_modCtx (s : State) (n : Nat) (f : Context → Context) : steady (modCtx s n f) = steady s :=
  steady_of_workless (workless_modCtx ..)
@[simp] theorem steady_addStream (s : State) (x : Stream) : steady (addStream s x) = steady s := rfl
@[simp] theorem steady_modOp (s : State) (id : OpId) (f : Op → Op) : steady (modOp s id f) = steady s := rfl
@[simp] theorem steady_capacity (s : State) (kind index : Nat) (inService : Bool) : steady (capacity s kind index inService) = steady s :=
  steady_of_workless (workless_raiseEvent ..)

@[simp] theorem steady_addFrec (s : State) (kind unit index cause paddr ctx : Nat) :
    steady (addFrec s kind unit index cause paddr ctx) = steady s :=
  (congrArg steady (unrecorded_addFrec s kind unit index cause paddr ctx) :)

@[simp] theorem steady_offDw (s : State) (x : Stream) : steady (offDw s x) = steady s := by
  unfold offDw
  split
  · exact steady_of_workless (by rw [workless_audGive, workless_modDumb, workless_freeHeld])
  · rfl

@[simp] theorem steady_repeatPass (s : State) (w : Nat) : steady (repeatPass s w) = steady s := by
  unfold repeatPass
  split
  · rfl
  · dsimp only
    split
    · rw [steady_modCtx, steady_modOp]
    · rw [steady_modOp]

/-! ### What the end of commands makes of a Window -/

/-- A Window when commands have ended: it loses their pass, feeds and panes, and a pass that ends leaves it IDLE (R251). -/
structure WinEnds (x y : Window) : Prop where
  same : y = { x with
    state := y.state, pass := y.pass, half0 := y.half0, half1 := y.half1, paneA := y.paneA, paneB := y.paneB }
  state : y.state = x.state ∨ x.state = .run ∧ y.state = .idle
  paneA : y.paneA.state = x.paneA.state ∨ y.paneA.state = .empty
  paneB : y.paneB.state = x.paneB.state ∨ y.paneB.state = .empty
  pass : y.pass = x.pass ∨ y.pass = none
  imageA : y.paneA.image = x.paneA.image ∨ y.paneA.image = none
  imageB : y.paneB.image = x.paneB.image ∨ y.paneB.image = none

theorem WinEnds.refl (x : Window) : WinEnds x x := ⟨rfl, .inl rfl, .inl rfl, .inl rfl, .inl rfl, .inl rfl, .inl rfl⟩

theorem WinEnds.trans {x y z : Window} (h : WinEnds x y) (k : WinEnds y z) : WinEnds x z := by
  obtain ⟨hs, hst, ha, hb, hp, hia, hib⟩ := h
  obtain ⟨ks, kst, ka, kb, kp, kia, kib⟩ := k
  refine ⟨?_, ?_, ?_, ?_, ?_, kia.elim (fun e => hia.imp e.trans e.trans) .inr, kib.elim (fun e => hib.imp e.trans e.trans) .inr⟩
  · rw [ks, hs]
  · rcases kst with k | ⟨k, l⟩
    · rw [k]; exact hst
    · rcases hst with h | ⟨-, h⟩
      · exact .inr ⟨h ▸ k, l⟩
      · rw [h] at k; cases k
  · rcases ka with k | k
    · rw [k]; exact ha
    · exact .inr k
  · rcases kb with k | k
    · rw [k]; exact hb
    · exact .inr k
  · rcases kp with k | k
    · rw [k]; exact hp
    · exact .inr k

/-- The residuals of a pass that ends join the history of its pane, and change nothing else. -/
theorem keepOwn_eq (x : Window) (p : Pass) : ∃ a b, keepOwn x p = { x with paneA := a, paneB := b } ∧
    (a.state = x.paneA.state ∧ a.image = x.paneA.image) ∧ b.state = x.paneB.state ∧ b.image = x.paneB.image := by
  unfold keepOwn
  dsimp only
  split
  · exact ⟨x.paneA, _, rfl, ⟨rfl, rfl⟩, rfl, rfl⟩
  · exact ⟨_, x.paneB, rfl, ⟨rfl, rfl⟩, rfl, rfl⟩

/-- A pane that loses its loader empties if it was being loaded (R102). -/
def dropPane (id : OpId) (p : Pane) : Pane :=
  if p.loader = some id then
    { p with loader := none, staged := [], image := if p.state = .staging then none else p.image,
             state := if p.state = .staging then .empty else p.state }
  else p

theorem dropPane_state (id : OpId) (p : Pane) : (dropPane id p).state = p.state ∨ (dropPane id p).state = .empty := by
  unfold dropPane
  split
  · by_cases h : p.state = .staging
    · exact .inr (if_pos h)
    · exact .inl (if_neg h)
  · exact .inl rfl

theorem dropPane_image (id : OpId) (p : Pane) : (dropPane id p).image = p.image ∨ (dropPane id p).image = none := by
  unfold dropPane
  split
  · by_cases h : p.state = .staging
    · exact .inr (if_pos h)
    · exact .inl (if_neg h)
  · exact .inl rfl

theorem winEnds_dropWindowWork (id : OpId) (x : Window) : WinEnds x (dropWindowWork id x) := by
  have hpane {p q : Pane} (h : p.state = q.state) : (dropPane id p).state = q.state ∨ (dropPane id p).state = .empty :=
    h ▸ dropPane_state id p
  have himage {p q : Pane} (h : p.image = q.image) : (dropPane id p).image = q.image ∨ (dropPane id p).image = none :=
    h ▸ dropPane_image id p
  cases hx : x.pass with
  | none =>
    have he : dropWindowWork id x = { x with
        pass := none, half0 := (dropWindowWork id x).half0, half1 := (dropWindowWork id x).half1,
        paneA := dropPane id x.paneA, paneB := dropPane id x.paneB } := by
      simp only [dropWindowWork, hx]; rfl
    rw [he]
    exact ⟨rfl, .inl rfl, hpane rfl, hpane rfl, .inr rfl, himage rfl, himage rfl⟩
  | some p =>
    by_cases hp : p.op = id
    · obtain ⟨a, b, hk, ⟨ha, hai⟩, hb, hbi⟩ := keepOwn_eq x p
      have he : dropWindowWork id x = { x with
          pass := none, state := if x.state = .run then .idle else x.state, half0 := (dropWindowWork id x).half0,
          half1 := (dropWindowWork id x).half1, paneA := dropPane id a, paneB := dropPane id b } := by
        simp only [dropWindowWork, hx, hp, hk, if_true, decide_true, Bool.true_and, decide_eq_true_eq]; rfl
      rw [he]
      refine ⟨rfl, ?_, hpane ha, hpane hb, .inr rfl, himage hai, himage hbi⟩
      by_cases hr : x.state = .run
      · exact .inr ⟨hr, if_pos hr⟩
      · exact .inl (if_neg hr)
    · have he : dropWindowWork id x = { x with
          half0 := (dropWindowWork id x).half0, half1 := (dropWindowWork id x).half1,
          paneA := dropPane id x.paneA, paneB := dropPane id x.paneB } := by
        simp only [dropWindowWork, hx, hp, if_false, decide_false, Bool.false_and, Bool.false_eq_true]; rfl
      rw [he]
      exact ⟨rfl, .inl rfl, hpane rfl, hpane rfl, .inl rfl, himage rfl, himage rfl⟩

theorem windows_closeTrees (s : State) (id : OpId) : (closeTrees s id).windows = s.windows := by
  unfold closeTrees
  dsimp only
  rw [foldl_keeps State.windows fun u e => ?_]
  split <;> rfl

theorem windows_freeHeld (s : State) (x : Stream) : (freeHeld s x).windows = s.windows := by unfold freeHeld; split <;> rfl

theorem windows_dropStreams (s : State) (id : OpId) (aborted : Bool) : (dropStreams s id aborted).windows = s.windows := by
  unfold dropStreams
  dsimp only
  rw [foldl_keeps State.windows fun u e => ?_]
  split
  · exact windows_freeHeld ..
  · rfl

theorem winEnds_endOp (s : State) (id : OpId) (st : Status) (aborted : Bool) (v : Nat) : WinEnds (win s v) (win (endOp s id st aborted) v) := by
  unfold endOp
  split
  · exact .refl _
  · split
    · exact .refl _
    · dsimp only
      have h (u : State) (hu : u.windows = s.windows.map (fun e => (e.1, dropWindowWork id e.2))) : WinEnds (win s v) (win u v) := by
        rw [win, win, hu, bankGet_map (dropWindowWork id) s.windows (d := Window.reset) (d' := Window.reset) rfl]
        exact winEnds_dropWindowWork ..
      refine h _ ?_
      rw [modOp_windows]
      split
      all_goals
        try rw [audGive_windows]
        rw [windows_closeTrees]
        dsimp only
        rw [windows_dropStreams]

theorem winEnds_endOps (st : Status) (aborted : Bool) (v : Nat) : ∀ (ids : List OpId) (s : State), WinEnds (win s v) (win (endOps st aborted ids s) v)
  | [], _ => .refl _
  | id :: ids, s => (winEnds_endOp s id st aborted v).trans (winEnds_endOps st aborted v ids _)

/-! ### Quarantine and retirement -/

theorem windows_offDw (s : State) (x : Stream) : (offDw s x).windows = s.windows := by
  unfold offDw
  split
  · exact windows_freeHeld ..
  · rfl

theorem windows_addStream (s : State) (x : Stream) : (addStream s x).windows = s.windows := rfl
theorem win_modPantry (s : State) (p v : Nat) (f : Pantry → Pantry) : win (modPantry s p f) v = win s v := rfl

theorem steady_rerouteStreams (s : State) (w : Nat) : steady (rerouteStreams s w) = steady s := by
  unfold rerouteStreams
  dsimp only
  split
  all_goals
    try rw [steady_endOps]
    rw [foldl_keeps steady fun _ _ => steady_addStream .., foldl_keeps steady fun _ _ => steady_offDw ..]
    rfl

/-- Streams that a Window can no longer take wait again; where no Window is left, their commands end. -/
theorem winEnds_rerouteStreams (s : State) (w v : Nat) : WinEnds (win s v) (win (rerouteStreams s w) v) := by
  have hsame (u : State) (h : u.windows = s.windows) : WinEnds (win s v) (win u v) := by
    rw [win, win, h]; exact .refl _
  unfold rerouteStreams
  dsimp only
  split
  · refine hsame _ ?_
    rw [foldl_keeps State.windows fun _ _ => windows_addStream .., foldl_keeps State.windows fun _ _ => windows_offDw ..]
  · refine (hsame _ ?_).trans (winEnds_endOps ..)
    rw [foldl_keeps State.windows fun _ _ => windows_addStream .., foldl_keeps State.windows fun _ _ => windows_offDw ..]

theorem windows_repeatPass (s : State) (w : Nat) : (repeatPass s w).windows = s.windows := by
  unfold repeatPass
  split
  · rfl
  · dsimp only
    split
    · rw [modCtx_windows]; rfl
    · rfl

theorem windows_addFrec (s : State) (kind unit index cause paddr ctx : Nat) : (addFrec s kind unit index cause paddr ctx).windows = s.windows :=
  eq_of_view unrecorded State.windows (fun _ => rfl) (unrecorded_addFrec ..)

theorem windows_capacity (s : State) (kind index : Nat) (inService : Bool) : (capacity s kind index inService).windows = s.windows :=
  eq_of_view quiet State.windows (fun _ => rfl) (quiet_raiseEvent ..)

/-- A Window as a quarantine leaves it, redirected while its Pantry is in service (R106, R151). -/
def Window.quarantined (x : Window) (out : Bool) : Window :=
  { x with
    state := .quar, active := none, paneA := x.paneA.emptied, paneB := x.paneB.emptied, pass := none, swap := none, half0 := none, half1 := none,
    quarcnt := x.quarcnt + 1, redir := !out, qualTries := 0, requal := false }

theorem steady_quarantine (s : State) (w cause : Nat) : steady (quarantine s w cause) = steady s := by
  unfold quarantine
  dsimp only
  split
  · rfl
  · rw [steady_addFrec, steady_capacity, steady_rerouteStreams, steady_modPantry, steady_modWin, steady_repeatPass]

/-- The pass of a quarantined Window is repeated elsewhere: no Pantry's service state changes by that. -/
theorem pantries_repeatPass (s : State) (w : Nat) : (repeatPass s w).pantries = s.pantries := by
  unfold repeatPass
  split
  · rfl
  · dsimp only
    split
    · rw [modCtx_pantries]; rfl
    · rfl

/-- What a quarantine makes of each Window: the one concerned is quarantined, and the others at most lose ended commands. -/
theorem win_quarantine {s : State} {w : Nat} (cause : Nat) (hq : (win s w).state ≠ .quar) (hr : (win s w).state ≠ .retired) (v : Nat) :
    WinEnds (if v = w then (win s w).quarantined (pantry s w).out else win s v) (win (quarantine s w cause) v) := by
  have hw : win (quarantine s w cause) v = win (rerouteStreams (modPantry (modWin (repeatPass s w) w fun x =>
      x.quarantined (pantry (repeatPass s w) w).out) w fun p => { p with migr := !p.out }) w) v := by
    unfold quarantine
    dsimp only
    rw [if_neg (not_or.2 ⟨hq, hr⟩), win, win, windows_addFrec, windows_capacity]
    rfl
  have hpantry : pantry (repeatPass s w) w = pantry s w := by rw [pantry, pantry, pantries_repeatPass]
  have hwin (v : Nat) : win (repeatPass s w) v = win s v := by rw [win, win, windows_repeatPass]
  rw [hw]
  refine WinEnds.trans ?_ (winEnds_rerouteStreams ..)
  rw [win_modPantry, win_modWin, hpantry, hwin, hwin]
  split <;> exact .refl _

/-- A quarantine of one of a part's Windows leaves a quarantined, retired or IDLE Window in its state. -/
theorem state_quarantine_other {s : State} {w v : Nat} (cause : Nat) (hv : v ≠ w) (hrun : (win s v).state ≠ .run) :
    (win (quarantine s w cause) v).state = (win s v).state := by
  by_cases h : (win s w).state = .quar ∨ (win s w).state = .retired
  · rw [quarantine, if_pos h]
  · have hw := win_quarantine cause (not_or.1 h).1 (not_or.1 h).2 v
    rw [if_neg hv] at hw
    exact hw.state.resolve_right fun k => hrun k.1

theorem state_quarantine_same (s : State) (w cause : Nat) (hr : (win s w).state ≠ .retired) :
    (win (quarantine s w cause) w).state = .quar := by
  by_cases hq : (win s w).state = .quar
  · rw [quarantine, if_pos (.inl hq)]; exact hq
  · have hw := win_quarantine cause hq hr w
    rw [if_pos rfl] at hw
    exact hw.state.resolve_right fun k => nomatch k.1

end Sys2Proof.Machine

/-!
Start-up (chapter 12, Table 12.4): the NVM load, configuration, the tests that put cores and Windows into service, lasers that lock or stay
dark, READY and its deadline, and the JTAG port; the obligations O8, O10, O11, O12 and O14.
-/

namespace Sys2Proof.Machine

open Sys2Proof

/-! ### The NVM load (R171 to R173, R467) -/

/-- A heater once its NVM values are loaded: its ramp stands at 0, or at PARK under a part-level park. -/
structure Loaded (good park : Bool) (x : Heater) : Prop where
  out : x.out = if park then x.park else 0
  u : x.u = x.out
  code : x.code = x.pwrUp
  prof : x.prof = 6
  den : x.den = false
  dsel : x.dsel = 0
  bad : good = false → x.pwrUp = 0 ∧ x.park = 0

theorem loaded_nvmHeater (v : BitVec 16 × BitVec 16) (good : Bool) (h : good = false → v = (0, 0)) : Loaded good false (nvmHeater v) :=
  ⟨rfl, rfl, rfl, rfl, rfl, rfl, fun hg => by rw [h hg]; exact ⟨rfl, rfl⟩⟩

theorem Loaded.parked {good : Bool} {x : Heater} (h : Loaded good false x) : Loaded good true x.parked :=
  ⟨rfl, rfl, h.code, h.prof, h.den, h.dsel, h.bad⟩

theorem loaded_nvmBank (s : State) (w : Nat) :
    ∀ x ∈ (nvmBank s w).dflt :: (nvmBank s w).chans.map (·.2), Loaded (recordGood s w) false x := by
  intro x hx
  unfold nvmBank at hx
  split at hx
  next hg =>
    rcases List.mem_cons.1 hx with rfl | hx
    · exact loaded_nvmHeater _ _ (fun h => absurd hg (by simp [h]))
    · simp only [List.map_map, List.mem_map] at hx
      obtain ⟨y, -, rfl⟩ := hx
      exact loaded_nvmHeater _ _ (fun h => absurd hg (by simp [h]))
  next =>
    obtain rfl : x = nvmHeater (0, 0) := by simpa using hx
    exact loaded_nvmHeater _ _ fun _ => rfl

theorem bankFind_range {α : Type} (f : Nat → α) {n i : Nat} (h : i < n) :
    bankFind ((List.range n).map (fun k => (k, f k))) i = some (f i) := by
  have hmem : ∀ (l : List Nat), i ∈ l → bankFind (l.map (fun k => (k, f k))) i = some (f i) := by
    intro l
    induction l with
    | nil => intro h; cases h
    | cons a l ih =>
      intro h
      simp only [List.map_cons, bankFind]
      split
      next e => rw [e]
      next e => exact ih ((List.mem_cons.1 h).resolve_left fun k => e k.symm)
  exact hmem _ (List.mem_range.2 h)

/-- Every heater of a Window holds its NVM values after the load. -/
theorem heaters_loadHeaters (s : State) {w : Nat} (hw : w < 8) : ∃ b, bankFind (loadHeaters s).thermo.heaters w = some b ∧
    ∀ x ∈ b.dflt :: b.chans.map (·.2), Loaded (recordGood s w) s.thermo.parkAll x := by
  unfold loadHeaters
  dsimp only
  cases hp : s.thermo.parkAll with
  | false => exact ⟨_, bankFind_range _ hw, loaded_nvmBank s w⟩
  | true =>
    refine ⟨_, bankFind_range _ hw, ?_⟩
    rw [bankGet_range (nvmBank s) HeaterBank.reset hw]
    intro x hx
    rw [List.map_map] at hx
    rcases List.mem_cons.1 hx with rfl | hx
    · exact (loaded_nvmBank s w _ (List.mem_cons_self ..)).parked
    · obtain ⟨e, he, rfl⟩ := List.mem_map.1 hx
      exact (loaded_nvmBank s w _ (List.mem_cons_of_mem _ (List.mem_map_of_mem he))).parked

/-- The load changes the Thermostat block alone. -/
theorem loadHeaters_eq (s : State) : ∃ hs ax, loadHeaters s = { s with thermo := { s.thermo with nvmOk := true, heaters := hs, aux := ax } } := by
  unfold loadHeaters
  dsimp only
  split
  all_goals exact ⟨_, _, rfl⟩

/-- A Window that stays OFF for a bad record, with the state in which its redirection is set. -/
def badRecord (s : State) (w : Nat) : State :=
  modPantry (modWin s w (fun x => { x with redir := !(pantry s w).out })) w (fun p => { p with migr := !p.out })

theorem badRecords_eq (bad : List Nat) (s : State) :
    badRecords bad s = (bad.filter fun w => decide ((win s w).state = .off)).foldl badRecord s := rfl

theorem out_badRecord (s : State) (w v : Nat) : (pantry (badRecord s w) v).out = (pantry s v).out := by
  unfold badRecord
  rw [pantry_modPantry]
  split
  · subst v; rfl
  · rfl

theorem win_badRecord (s : State) (w v : Nat) :
    win (badRecord s w) v = if v = w then { win s w with redir := !(pantry s w).out } else win s v :=
  (win_modPantry ..).trans (win_modWin ..)

/-- Windows that stay OFF for a bad record keep their state and are redirected while their Pantry is in service (R173, R559). -/
theorem win_badRecords (l : List Nat) (s : State) (v : Nat) : (win (l.foldl badRecord s) v).state = (win s v).state ∧
    (v ∈ l ∨ (win s v).redir = !(pantry s v).out → (win (l.foldl badRecord s) v).redir = !(pantry s v).out) := by
  induction l generalizing s with
  | nil => exact ⟨rfl, fun h => h.resolve_left List.not_mem_nil⟩
  | cons w l ih =>
    obtain ⟨hst, hre⟩ := ih (badRecord s w)
    rw [win_badRecord] at hst hre
    rw [out_badRecord] at hre
    refine ⟨?_, fun h => hre ?_⟩
    · rw [List.foldl_cons, hst]
      split
      next e => rw [e]
      next => rfl
    · by_cases hv : v = w
      · exact .inr (by rw [if_pos hv, hv])
      · rw [if_neg hv]
        exact h.imp (fun k => (List.mem_cons.1 k).resolve_left hv) id

theorem badRecords_frame (bad : List Nat) (s : State) : ∃ ws ps, badRecords bad s = { s with windows := ws, pantries := ps } := by
  have h := foldl_keeps (g := badRecord) (fun u : State => { u with windows := [], pantries := [] }) (fun _ _ => rfl)
    (bad.filter fun w => decide ((win s w).state = .off)) s
  exact ⟨(badRecords bad s).windows, (badRecords bad s).pantries,
    (congrArg (fun u : State => { u with windows := (badRecords bad s).windows, pantries := (badRecords bad s).pantries }) h :)⟩

/-- The Windows whose NVM record fails its check. -/
def badWindows (s : State) : List Nat := (List.range 8).filter fun w => !recordGood s w

theorem mem_badWindows {s : State} {w : Nat} : w ∈ badWindows s ↔ w < 8 ∧ recordGood s w = false := by
  simp [badWindows, List.mem_filter]

/-- The state in which the bad records are dealt with: heaters loaded, lasers enabled, NVMERR set where a record is bad. -/
def nvmLoaded (s : State) : State :=
  { loadHeaters s with
    nvm := { s.nvm with recOk := (badWindows s).foldl (fun b w => b &&& ~~~(BitVec.ofNat 8 (2 ^ w))) s.nvm.recOk }
    lamp := if s.power.trip then s.lamp else { s.lamp with enabled := s.lamp.enabled ||| startLasers s }
    thermo := { (loadHeaters s).thermo with
      flags := if (badWindows s).isEmpty then (loadHeaters s).thermo.flags else (loadHeaters s).thermo.flags ||| 2 } }

theorem nvmLoadComplete_exec {s : State} (hstart : starting s = true) (hok : s.thermo.nvmOk = false) :
    exec .nvmLoadComplete s = .next (checkRamp (badRecords (badWindows s) (nvmLoaded s))) := by
  have hexec : exec .nvmLoadComplete s = execNvmLoadComplete s := rfl
  obtain ⟨hs, ax, hl⟩ := loadHeaters_eq s
  rw [hexec, execNvmLoadComplete, if_pos (by simp [hstart, hok])]
  unfold nvmLoaded
  dsimp only
  rw [hl]
  rfl

theorem nvmLoad_takesEffect {s : State} (hstart : starting s = true) (hok : s.thermo.nvmOk = false) :
    ∃ t, exec .nvmLoadComplete s = .next t ∧ t.thermo.nvmOk = true ∧
      t.lamp.enabled = (if s.power.trip then s.lamp.enabled
        else s.lamp.enabled ||| ((if s.lamp.spareUse then 0x1FF else 0xFF) &&& ~~~s.lamp.failed)) ∧
      (∀ w < 8, ∃ b, bankFind t.thermo.heaters w = some b ∧ ∀ x ∈ b.dflt :: b.chans.map (·.2),
        x.out = (if s.thermo.parkAll then x.park else 0) ∧ x.u = x.out ∧ x.code = x.pwrUp ∧ x.prof = 6 ∧ x.den = false ∧
          x.dsel = 0 ∧ (recordGood s w = false → x.pwrUp = 0 ∧ x.park = 0)) ∧
      ((∃ w < 8, recordGood s w = false) → t.thermo.flags.getLsbD 1 = true) ∧
      (∀ w < 8, recordGood s w = false → (win s w).state = .off → (win t w).state = .off ∧
        (win t w).redir = !(pantry s w).out) ∧
      t.mem = s.mem ∧ t.host = s.host ∧ t.ifLevel = s.ifLevel := by
  refine ⟨_, nvmLoadComplete_exec hstart hok, ?_⟩
  have hload := fun w (hw : w < 8) => heaters_loadHeaters s hw
  obtain ⟨hs, ax, hl⟩ := loadHeaters_eq s
  have hwin (v : Nat) : win (nvmLoaded s) v = win s v := by rw [nvmLoaded, hl]; rfl
  have hpan (v : Nat) : pantry (nvmLoaded s) v = pantry s v := by rw [nvmLoaded, hl]; rfl
  have hbad := fun v => win_badRecords ((badWindows s).filter fun w => decide ((win (nvmLoaded s) w).state = .off)) (nvmLoaded s) v
  rw [← badRecords_eq] at hbad
  obtain ⟨ws, ps, hb⟩ := badRecords_frame (badWindows s) (nvmLoaded s)
  obtain ⟨d, l, hc, -⟩ := checkRamp_eq (badRecords (badWindows s) (nvmLoaded s))
  have hwin' (v : Nat) : win (checkRamp (badRecords (badWindows s) (nvmLoaded s))) v = win (badRecords (badWindows s) (nvmLoaded s)) v := by
    rw [hc]; rfl
  have hthermo : (checkRamp (badRecords (badWindows s) (nvmLoaded s))).thermo = { (nvmLoaded s).thermo with rampDone := d, loopOn := l } := by
    rw [hc, hb]
  refine ⟨?_, ?_, fun w hw => ?_, fun ⟨w, hw, hg⟩ => ?_, fun w hw hg hoff => ?_, ?_⟩
  · rw [hthermo, nvmLoaded, hl]
  · rw [hc, hb, nvmLoaded]
    dsimp only
    split <;> rfl
  · obtain ⟨b, hb, hx⟩ := hload w hw
    rw [hthermo]
    refine ⟨b, hb, fun x hxb => ?_⟩
    obtain ⟨h1, h2, h3, h4, h5, h6, h7⟩ := hx x hxb
    exact ⟨h1, h2, h3, h4, h5, h6, h7⟩
  · rw [hthermo, nvmLoaded]
    have hne : (badWindows s).isEmpty = false := by
      rw [List.isEmpty_eq_false_iff]
      exact List.ne_nil_of_mem (mem_badWindows.2 ⟨hw, hg⟩)
    simp [hne]
  · rw [hwin']
    obtain ⟨hst, hre⟩ := hbad w
    rw [hwin, hpan] at *
    refine ⟨hst.trans hoff, hre (.inl ?_)⟩
    rw [List.mem_filter]
    exact ⟨mem_badWindows.2 ⟨hw, hg⟩, by simp [hwin, hoff]⟩
  · rw [hc, hb, nvmLoaded, hl]
    exact ⟨rfl, rfl, rfl⟩

/-! ### The obligation O8 -/

/-- Settles O8: each start-up step by its condition and its explicit result. -/
theorem startUpStepsTakeEffect : Obligations.StartUpStepsTakeEffect := by
  unfold Obligations.StartUpStepsTakeEffect
  intro s
  refine ⟨rfl, nvmLoad_takesEffect, fun hup hperst hheld hrun => ?_, fun r v hlink hready hdone => ?_, fun r hlink hready => ?_,
    fun v hlink hready => ?_, fun hstart hinit => ?_, fun speed width flit hup hperst => ?_⟩
  · cases hc : s.host.cfgReady with
    | false => exact congrArg Host.Outcome.next (if_pos (by simp [hup, hperst, hheld, hrun, hc]))
    | true =>
      have hs : s = { s with host := { s.host with cfgReady := true } } := by rw [← hc]
      exact congrArg Host.Outcome.next ((if_neg (by simp [hc])).trans hs)
  · have hc : (s.host.cfgReady || s.host.cfgDone) = false := by simp [hready, hdone]
    constructor
    · simp [exec, execConfigRequest, hlink, hc, emit]
    · simp [exec, execConfigRequest, hlink, hc, emit]
  · exact ⟨_, congrArg Host.Outcome.next ((if_pos hlink).trans (if_pos (by simp [hready]))), rfl, rfl⟩
  · exact ⟨_, congrArg Host.Outcome.next ((if_pos hlink).trans (if_pos (by simp [hready]))), rfl, rfl⟩
  · exact ⟨_, congrArg Host.Outcome.next (if_pos (by simp [hstart, hinit])), fun _ => rfl, rfl, rfl, rfl⟩
  · exact congrArg Host.Outcome.next (if_pos (by simp [linkUp, hup, hperst]))

end Sys2Proof.Machine

/-!
Start-up, second part: the tests that put cores and Windows into service, lasers that lock or stay dark, READY and its deadline, and the
JTAG port; the obligations O10, O11, O12 and O14.
-/

namespace Sys2Proof.Machine

open Sys2Proof

/-! ### Cores and Windows (R211, R214, R470) -/

theorem unrecorded_coreRecords (pass : BitVec 128) (s : State) : unrecorded (coreRecords pass s) = unrecorded s := by
  unfold coreRecords
  refine foldl_keeps unrecorded (fun u c => ?_) (List.range 128) s
  split
  · exact unrecorded_addFrec ..
  · split
    · exact unrecorded_addFrec ..
    · rfl

theorem studyCoreTest_exec {s : State} (pass : BitVec 128) (hstart : starting s = true) (hrun : s.thresh.hearthRun = true)
    (hready : isReady s = false) (hsrdy : s.study.srdy = false) :
    exec (.studyCoreTest pass) s = .next { coreRecords pass s with
      study := { (coreRecords pass s).study with
        coreOk := pass, srdy := true, removed := (coreRecords pass s).study.removed &&& ~~~pass } } :=
  congrArg Host.Outcome.next (if_pos (by simp [hstart, hrun, hready, hsrdy]))

/-- Settles O10: the core test beside its records, and the 8,192 witness slots of a Window. -/
theorem coresAndWindowsComeIntoService : Obligations.CoresAndWindowsComeIntoService := by
  unfold Obligations.CoresAndWindowsComeIntoService
  intro s hstart hrun hready
  refine ⟨fun pass hsrdy => ?_, fun w resA resB hstate hramp hrec htrip hlit hconv hA hB => ?_⟩
  · refine ⟨_, studyCoreTest_exec pass hstart hrun hready hsrdy, rfl, rfl, ?_, ?_, ?_⟩
    · have h := eq_of_view unrecorded (fun u => u.study.removed) (fun _ => rfl) (unrecorded_coreRecords pass s)
      exact congrArg (· &&& ~~~pass) h
    · have h := eq_of_view unrecorded State.mem (fun _ => rfl) (unrecorded_coreRecords pass s)
      exact h
    · have h := eq_of_view unrecorded State.windows (fun _ => rfl) (unrecorded_coreRecords pass s)
      exact h
  · have hcond : (starting s && !(isReady s) && s.thresh.hearthRun && decide ((win s w.val).state = .off ∨ (win s w.val).state = .qual) &&
        s.thermo.rampDone && s.nvm.recOk.getLsbD w.val && !s.power.trip && laserLit s w.val && decide (2 ≤ (win s w.val).convRun) &&
        qualSize resA resB) = true := by
      simp [hstart, hready, hrun, hstate, hramp, hrec, htrip, hlit, hconv, qualSize, hA, hB]
    refine ⟨_, congrArg Host.Outcome.next (if_pos hcond), ?_, ?_, rfl⟩
    · rw [win_modWin, if_pos rfl]
      dsimp only [qualRun]
      rw [win_modWin, if_pos rfl, hA, hB]
      show (win s w.val).witcnt + BitVec.ofNat 32 (4096 + 4096) = (win s w.val).witcnt + 8192
      rfl
    · rw [win_modWin, if_pos rfl]

/-! ### Lasers (R113, R467 to R469, R499) -/

/-- The loops that start are those of lit Windows that TCTRL allows, beside those that run (R469). -/
theorem getLsbD_foldl_or (p : Nat → Bool) {w : Nat} (hw : w < 8) (hp : p w = true) (l : List Nat) (hl : w ∈ l) (b : BitVec 8) :
    (l.foldl (fun b v => if p v then b ||| BitVec.ofNat 8 (2 ^ v) else b) b).getLsbD w = true := by
  have hkeep : ∀ (l : List Nat) (b : BitVec 8), b.getLsbD w = true →
      (l.foldl (fun b v => if p v then b ||| BitVec.ofNat 8 (2 ^ v) else b) b).getLsbD w = true := by
    intro l
    induction l with
    | nil => exact fun _ h => h
    | cons a l ih =>
      intro b h
      refine ih _ ?_
      dsimp only
      split
      · rw [BitVec.getLsbD_or, h, Bool.true_or]
      · exact h
  induction l generalizing b with
  | nil => cases hl
  | cons a l ih =>
    rcases List.mem_cons.1 hl with rfl | hl
    · refine hkeep l _ ?_
      dsimp only
      rw [if_pos hp, BitVec.getLsbD_or, BitVec.getLsbD_ofNat, Nat.testBit_two_pow_self]
      simp [hw]
    · exact ih hl _

theorem startLoops_eq (s : State) : ∃ l, startLoops s = { s with thermo := { s.thermo with loopOn := l } } ∧
    (s.thermo.rampDone = false → l = s.thermo.loopOn) ∧
    (s.thermo.rampDone = true → ∀ w < 8, laserLit s w = true → s.thermo.tctrl.getLsbD w = true → l.getLsbD w = true) := by
  unfold startLoops
  split
  next h => exact ⟨s.thermo.loopOn, rfl, fun _ => rfl, fun k => by rw [k] at h; cases h⟩
  next h =>
    refine ⟨_, rfl, fun k => by rw [k] at h; exact absurd rfl h, fun _ w hw hlit hctl => ?_⟩
    exact getLsbD_foldl_or (fun v => laserLit s v && s.thermo.tctrl.getLsbD v) hw (by simp [hlit, hctl]) _ (List.mem_range.2 hw) _

/-- What stands once the spare laser feeds Window l in the place of its own, which has failed (R113). -/
structure SpareFeeds (s : State) (l : Nat) (t : State) : Prop where
  failed : t.lamp.failed.getLsbD l = true
  spareUse : t.lamp.spareUse = true
  spareTo : t.lamp.spareTo = l
  spare : (win t l).spare = true
  data : t.mem.data = s.mem.data

/-- The Lamp without a laser that stays dark, before its record and before the spare is looked for (R115, R499). -/
def laserFails (s : State) (l : Nat) : State := { s with lamp := { s.lamp with
  enabled := s.lamp.enabled &&& ~~~(BitVec.ofNat 9 (2 ^ l)), failed := s.lamp.failed ||| BitVec.ofNat 9 (2 ^ l) } }

/-- The part with that record, its event, and the flag of the Window. -/
def laserDark (s : State) (l : Nat) : State :=
  modWin (addFrec (capacity (laserFails s l) 3 l false) 2 3 l 0 0 noCtx) l (fun x => { x with flags := x.flags ||| 2 })

theorem darkLaser_eq (s : State) (l : Nat) : darkLaser s l =
    if (laserDark s l).lamp.spareUse || (laserDark s l).lamp.failed.getLsbD 8 then retire (laserDark s l) l else spareTo (laserDark s l) l := rfl

/-- Beside a flag of its Window a dark laser changes the Lamp alone, as far as records and events are left out. -/
theorem laserDark_keeps (s : State) (l : Nat) :
    (laserDark s l).lamp = { s.lamp with
      enabled := s.lamp.enabled &&& ~~~(BitVec.ofNat 9 (2 ^ l)), failed := s.lamp.failed ||| BitVec.ofNat 9 (2 ^ l) } ∧
    (laserDark s l).mem = s.mem ∧
    ∀ v, win (laserDark s l) v = if v = l then { win s l with flags := (win s l).flags ||| 2 } else win s v := by
  have h (u : State) : steady (addFrec (capacity u 3 l false) 2 3 l 0 0 noCtx) = steady u := by rw [steady_addFrec, steady_capacity]
  have hs := h (laserFails s l)
  refine ⟨(eq_of_view steady State.lamp (fun _ => rfl) hs).trans rfl, (eq_of_view steady State.mem (fun _ => rfl) hs).trans rfl, fun v => ?_⟩
  have hw (u : State) (v : Nat) : win (addFrec (capacity u 3 l false) 2 3 l 0 0 noCtx) v = win u v := by
    rw [win, win, windows_addFrec, windows_capacity]
  rw [laserDark]
  dsimp only
  rw [win_modWin, hw, hw]
  rfl

theorem getLsbD_two_pow_self {l : Nat} (hl : l < 9) : (BitVec.ofNat 9 (2 ^ l)).getLsbD l = true := by
  rw [BitVec.getLsbD_ofNat, Nat.testBit_two_pow_self]
  simp [hl]

/-- The first dark laser is replaced by the spare. -/
theorem darkLaser_first {s : State} {l : Nat} (hl : l < 8) (hspare : s.lamp.spareUse = false) (hfail : s.lamp.failed = 0) :
    SpareFeeds s l (darkLaser s l) := by
  obtain ⟨hlamp, hmem, hwin⟩ := laserDark_keeps s l
  have h8 : ((laserDark s l).lamp.spareUse || (laserDark s l).lamp.failed.getLsbD 8) = false := by
    rw [hlamp]
    dsimp only
    rw [hspare, hfail, BitVec.getLsbD_or, BitVec.getLsbD_ofNat, Nat.testBit_two_pow_of_ne (by omega)]
    rfl
  rw [darkLaser_eq, h8, if_neg (by decide)]
  have hrec {α : Type} (u : State) (p : State → α) (hp : ∀ u, p (unrecorded u) = p u) : p (addFrec u 3 3 8 l 0 noCtx) = p u :=
    eq_of_view unrecorded p hp (unrecorded_addFrec ..)
  unfold spareTo
  dsimp only
  refine ⟨?_, ?_, ?_, ?_, ?_⟩
  · refine (hrec _ (fun u => u.lamp.failed.getLsbD l) fun _ => rfl).trans ?_
    dsimp only [modWin]
    rw [hlamp]
    dsimp only
    rw [BitVec.getLsbD_or, getLsbD_two_pow_self (by omega), Bool.or_true]
  · exact hrec _ (fun u => u.lamp.spareUse) fun _ => rfl
  · exact hrec _ (fun u => u.lamp.spareTo) fun _ => rfl
  · refine (hrec _ (fun u => (win u l).spare) fun _ => rfl).trans ?_
    show (win (modWin (laserDark s l) l fun x => { x with spare := true, convRun := 0 }) l).spare = true
    rw [win_modWin, if_pos rfl]
  · exact (hrec _ (fun u => u.mem.data) fun _ => rfl).trans (congrArg Mem.data hmem)

/-- Another dark laser after it leaves the spare where it is: its own Window retires (R115). -/
theorem SpareFeeds.darkLaser {s t : State} {l k : Nat} (h : SpareFeeds s l t) (hk : k ≠ l) : SpareFeeds s l (darkLaser t k) := by
  obtain ⟨hlamp, hmem, hwin⟩ := laserDark_keeps t k
  have hu : ((laserDark t k).lamp.spareUse || (laserDark t k).lamp.failed.getLsbD 8) = true := by
    rw [hlamp]; dsimp only; rw [h.spareUse]; rfl
  rw [darkLaser_eq, hu, if_pos rfl]
  have hr : (retire (laserDark t k) k).lamp = (laserDark t k).lamp := rfl
  refine ⟨?_, ?_, ?_, ?_, ?_⟩
  · rw [hr, hlamp]; dsimp only; rw [BitVec.getLsbD_or, h.failed]; rfl
  · rw [hr, hlamp]; exact h.spareUse
  · rw [hr, hlamp]; exact h.spareTo
  · rw [retire, win_modPantry, win_modWin, if_neg hk.symm, hwin, if_neg hk.symm]; exact h.spare
  · exact (congrArg Mem.data hmem :).trans h.data

/-- The dark lasers, the first one in front. -/
theorem filter_range_first (p : Nat → Bool) {l n : Nat} (hl : l < n) (hp : p l = true) (hfirst : ∀ k < l, p k = false) :
    ∃ rest, (List.range n).filter p = l :: rest ∧ l ∉ rest := by
  obtain ⟨m, rfl⟩ : ∃ m, n = l + (m + 1) := ⟨n - l - 1, by omega⟩
  have h0 : (List.range l).filter p = [] := List.filter_eq_nil_iff.2 fun k hk => by simp [hfirst k (List.mem_range.1 hk)]
  refine ⟨(((List.range m).map Nat.succ).map (l + ·)).filter p, ?_, ?_⟩
  · rw [List.range_add, List.filter_append, h0, List.nil_append, List.range_succ_eq_map, List.map_cons, Nat.add_zero,
      List.filter_cons_of_pos hp]
  · intro hmem
    obtain ⟨x, hx, he⟩ := List.mem_map.1 (List.mem_filter.1 hmem).1
    obtain ⟨y, -, rfl⟩ := List.mem_map.1 hx
    omega

/-- A part whose laser l has reported wear (R499). -/
def lampWorn (s : State) (l : Nat) : State := { s with
  lamp := { s.lamp with worn := s.lamp.worn ||| BitVec.ofNat 9 (2 ^ l) }, thresh := { s.thresh with flags := s.thresh.flags ||| 8 } }

/-- Settles O11: a laser in lock, the first laser that stays dark with the others after it, and wear. -/
theorem lasersAndDarkLasers : Obligations.LasersAndDarkLasers := by
  unfold Obligations.LasersAndDarkLasers
  intro s
  refine ⟨fun l hup hen hfail htrip => ?_, fun hstart hlit hspare hfail l hl hen hlok hfirst => ?_, fun l hup hlok hworn => ?_⟩
  · obtain ⟨lo, he, hoff, hon⟩ := startLoops_eq { s with lamp := { s.lamp with lok := s.lamp.lok ||| BitVec.ofNat 9 (2 ^ l.val) } }
    refine ⟨_, congrArg Host.Outcome.next (if_pos (by rw [hup, hen, hfail, htrip]; rfl)), ?_⟩
    rw [he]
    refine ⟨rfl, fun h => ?_, fun h w hw hlit hctl => hon h w hw hlit hctl, rfl⟩
    exact congrArg (fun x => { s.thermo with loopOn := x }) (hoff h)
  · obtain ⟨rest, hr, hnot⟩ := filter_range_first
      (fun k => s.lamp.enabled.getLsbD k && !(s.lamp.lok.getLsbD k) && !(s.lamp.failed.getLsbD k)) hl
      (by simp [hen, hlok, hfail]) (fun k hk => by
        cases he : s.lamp.enabled.getLsbD k with
        | false => rfl
        | true => simp [hfirst k hk he])
    have hexec : exec .laserDarkTimeout s = .next ((l :: rest).foldl darkLaser s) := by
      rw [← hr]
      exact congrArg Host.Outcome.next (if_pos (by simp [hstart, hlit]))
    have hf : SpareFeeds s l ((l :: rest).foldl darkLaser s) :=
      List.foldlRecOn rest darkLaser (darkLaser_first hl hspare hfail) fun t ht k hk => ht.darkLaser fun e => hnot (e ▸ hk)
    exact ⟨_, hexec, hf.failed, hf.spareUse, hf.spareTo, hf.spare, hf.data⟩
  · have hq := quiet_raiseEvent (lampWorn s l.val) 0x84 noCtx l.val 0
    refine ⟨raiseEvent (lampWorn s l.val) 0x84 noCtx l.val 0, congrArg Host.Outcome.next (if_pos (by rw [hup, hlok, hworn]; rfl)), ?_, ?_, ?_,
      raiseEvent_evSeq .., ?_⟩
    · refine (eq_of_view quiet (fun u => u.lamp.worn.getLsbD l.val) (fun _ => rfl) hq).trans ?_
      rw [lampWorn, BitVec.getLsbD_or, getLsbD_two_pow_self l.isLt, Bool.or_true]
    · exact (eq_of_view quiet (fun u => u.lamp.lok) (fun _ => rfl) hq).trans rfl
    · exact (eq_of_view quiet State.thresh (fun _ => rfl) hq).trans rfl
    · exact (eq_of_view quiet State.windows (fun _ => rfl) hq).trans rfl

/-! ### READY and its deadline (R471 to R474) -/

/-- A state without reservations, class guarantees, events and interrupts: what a change of DELIV can touch. -/
def unreserved (s : State) : State := { quiet s with mem := State.reset.mem, corr := State.reset.corr }

theorem unreserved_of_quiet {s t : State} (h : quiet t = quiet s) : unreserved t = unreserved s :=
  congrArg (fun u : State => { u with mem := State.reset.mem, corr := State.reset.corr }) h

theorem unreserved_raiseEvent (s : State) (type ctx a0 a1 : Nat) : unreserved (raiseEvent s type ctx a0 a1) = unreserved s :=
  unreserved_of_quiet (quiet_raiseEvent ..)

theorem unreserved_checkGuarantee (s : State) : unreserved (checkGuarantee s) = unreserved s := by
  unfold checkGuarantee
  split
  · rw [unreserved_raiseEvent]; rfl
  · rfl

theorem unreserved_revokeGo (n : Nat) (s : State) : unreserved (revokeGo n s) = unreserved s := by
  induction n generalizing s with
  | zero => rfl
  | succ n ih =>
    simp only [revokeGo]
    split
    · rfl
    · split
      · rw [ih, unreserved_raiseEvent]; rfl
      · rfl

theorem unreserved_recomputeDeliv (s : State) : unreserved (recomputeDeliv s) = unreserved s := by
  unfold recomputeDeliv
  dsimp only
  split
  · rfl
  · split
    · split
      · rw [unreserved_raiseEvent]
        exact unreserved_revokeGo ..
      · exact unreserved_revokeGo ..
    · rw [unreserved_checkGuarantee]
      exact unreserved_revokeGo ..

theorem fuses_openLinks (s : State) : (openLinks s).fuses = s.fuses := by
  have hopen (u : State) : (tryOpenAll u).fuses = u.fuses := eq_of_view doorless State.fuses (fun _ => rfl) (doorless_tryOpenAll u)
  unfold openLinks
  split
  · rfl
  · split
    · exact hopen _
    · exact hopen _

/-- The part at READY, before the answers to unknown codes: IFLEVEL raised, the reset ended, the boot time recorded. -/
def raised (s : State) (ms : BitVec 16) : State :=
  let u := recomputeDeliv { openLinks s with
    ifLevel := 3, resetting := none, pastDeadline := false, corr := { (openLinks s).corr with gActive := true } }
  let v := raiseEvent { u with power := { u.power with bootMs := ms }, nvm := { u.nvm with fwFails := 0, fwAct := false } } 0x01 noCtx 3 0
  if v.fwFallback then raiseEvent { v with fwFallback := false } 0x80 noCtx (bit v.nvm.bank) 0 else v

theorem ready_exec {s : State} (ms : BitVec 16) (hothers : readyOthers s = true) (hwin : ∀ w < 8, windowSettled s w = true) :
    exec (.ready ms) s = .next (lbIdle (lbFuel (raised s ms)) (raised s ms)) := by
  have hall : (List.range 8).all (windowSettled s) = true := List.all_eq_true.2 fun w hw => hwin w (List.mem_range.1 hw)
  have hc : (readyOthers s && (List.range 8).all (windowSettled s)) = true := by rw [hothers, hall]; rfl
  show execReady ms s = _
  rw [execReady, if_pos hc]
  rfl

theorem raised_fields (s : State) (ms : BitVec 16) : (raised s ms).ifLevel = 3 ∧ (raised s ms).resetting = none ∧
    (raised s ms).power.bootMs = ms ∧ (raised s ms).nvm.fwFails = 0 ∧ (raised s ms).fuses = s.fuses := by
  have hd := unreserved_recomputeDeliv { openLinks s with
    ifLevel := 3, resetting := none, pastDeadline := false, corr := { (openLinks s).corr with gActive := true } }
  have h1 := eq_of_view unreserved State.ifLevel (fun _ => rfl) hd
  have h2 := eq_of_view unreserved State.resetting (fun _ => rfl) hd
  have h3 := (eq_of_view unreserved State.fuses (fun _ => rfl) hd).trans (fuses_openLinks s)
  unfold raised
  dsimp only
  generalize recomputeDeliv _ = u at h1 h2 h3
  have hv := quiet_raiseEvent { u with power := { u.power with bootMs := ms }, nvm := { u.nvm with fwFails := 0, fwAct := false } } 0x01 noCtx 3 0
  generalize raiseEvent _ 0x01 noCtx 3 0 = v at hv
  have hw : ∃ f, quiet (if v.fwFallback then raiseEvent { v with fwFallback := false } 0x80 noCtx (bit v.nvm.bank) 0 else v) =
      { quiet v with fwFallback := f } := by
    split
    · exact ⟨false, quiet_raiseEvent ..⟩
    · exact ⟨v.fwFallback, rfl⟩
  obtain ⟨f, hw⟩ := hw
  rw [hv] at hw
  generalize (if v.fwFallback then _ else v) = x at hw
  exact ⟨(congrArg State.ifLevel hw :).trans h1, (congrArg State.resetting hw :).trans h2, (congrArg (fun y => y.power.bootMs) hw :),
    (congrArg (fun y => y.nvm.fwFails) hw :), (congrArg State.fuses hw :).trans h3⟩

/-- Windows that the deadline does not name keep their state, those that it names are quarantined. -/
theorem state_foldl_quarantine (cause w : Nat) : ∀ (l : List Nat) (s : State), (win s w).state ≠ .run →
    (w ∉ l → (win (l.foldl (fun u v => quarantine u v cause) s) w).state = (win s w).state) ∧
    ((win s w).state ≠ .retired → w ∈ l → (win (l.foldl (fun u v => quarantine u v cause) s) w).state = .quar)
  | [], _, _ => ⟨fun _ => rfl, fun _ h => absurd h List.not_mem_nil⟩
  | v :: l, s, hrun => by
    by_cases hv : w = v
    · subst hv
      refine ⟨fun h => absurd (List.mem_cons_self ..) h, fun hret _ => ?_⟩
      have hq := state_quarantine_same s w cause hret
      obtain ⟨hout, hin⟩ := state_foldl_quarantine cause w l (quarantine s w cause) (by rw [hq]; decide)
      by_cases hl : w ∈ l
      · exact hin (by rw [hq]; decide) hl
      · exact (hout hl).trans hq
    · have hs := state_quarantine_other (w := v) cause hv hrun
      obtain ⟨hout, hin⟩ := state_foldl_quarantine cause w l (quarantine s v cause) (by rwa [hs])
      rw [hs] at hout hin
      exact ⟨fun h => hout fun k => h (List.mem_cons_of_mem _ k), fun hret h => hin hret ((List.mem_cons.1 h).resolve_left hv)⟩

/-- Settles O12: READY through its operations, the deadline Window by Window. -/
theorem readyRaisesTheInterface : Obligations.ReadyRaisesTheInterface := by
  unfold Obligations.ReadyRaisesTheInterface
  intro s hothers
  refine ⟨fun ms hwin => ?_, ?_⟩
  · have hb := boxless_lbIdle (lbFuel (raised s ms)) (raised s ms)
    obtain ⟨h1, h2, h3, h4, h5⟩ := raised_fields s ms
    exact ⟨_, ready_exec ms hothers hwin, (eq_of_view boxless State.ifLevel (fun _ => rfl) hb).trans h1,
      (eq_of_view boxless State.resetting (fun _ => rfl) hb).trans h2, (eq_of_view boxless (fun u => u.power.bootMs) (fun _ => rfl) hb).trans h3,
      (eq_of_view boxless (fun u => u.nvm.fwFails) (fun _ => rfl) hb).trans h4, (eq_of_view boxless State.fuses (fun _ => rfl) hb).trans h5⟩
  · have hst := foldl_keeps (g := fun u v => quarantine u v 4) steady (fun _ _ => steady_quarantine ..) (deadlineWindows s)
      { s with pastDeadline := true }
    have hmem (w : Nat) : w ∈ deadlineWindows s ↔
        w < 8 ∧ ((win s w).state = .qual ∨ (win s w).state = .off ∧ s.nvm.recOk.getLsbD w = true) := by
      simp [deadlineWindows, List.mem_filter]
    refine ⟨_, congrArg Host.Outcome.next (if_pos hothers), eq_of_view steady State.pastDeadline (fun _ => rfl) hst, fun w hw h => ?_,
      fun w hw h => ?_, (eq_of_view steady State.fuses (fun _ => rfl) hst).trans rfl⟩
    · have hne : (win s w).state ≠ .run ∧ (win s w).state ≠ .retired := by
        rcases h with h | ⟨h, -⟩ <;> rw [h] <;> decide
      exact (state_foldl_quarantine 4 w (deadlineWindows s) { s with pastDeadline := true } hne.1).2 hne.2 ((hmem w).2 ⟨hw, h⟩)
    · have hout : w ∉ deadlineWindows s := by simp [hmem, h]
      exact ((state_foldl_quarantine 4 w (deadlineWindows s) { s with pastDeadline := true } (by rw [show (win { s with pastDeadline := true } w) = win s w from rfl, h]; decide)).1 hout).trans h

/-! ### The JTAG port (R524, R525) -/

theorem cellsGet_filter_below {e : Nat} {p : Host.Cell → Bool} (hp : ∀ c, p c = true → e ≤ c.1) {a : Nat} (ha : a < e) :
    ∀ l : List Host.Cell, cellsGet (l.filter p) a = 0
  | [] => rfl
  | (k, v) :: l => by
    by_cases h : p (k, v) = true
    · have hk := hp _ h
      dsimp only at hk
      rw [List.filter_cons_of_pos h, cellsGet, if_neg (by omega), if_pos (by omega)]
    · rw [List.filter_cons_of_neg h]
      exact cellsGet_filter_below hp ha l

theorem cellsGet_filter_above {e : Nat} {p : Host.Cell → Bool} (hp : ∀ c, e ≤ c.1 → p c = true) {a : Nat} (ha : e ≤ a) :
    ∀ l : List Host.Cell, cellsGet (l.filter p) a = cellsGet l a
  | [] => rfl
  | (k, v) :: l => by
    by_cases h : p (k, v) = true
    · rw [List.filter_cons_of_pos h, cellsGet, cellsGet, cellsGet_filter_above hp ha l]
    · have hk : k < e := by
        by_contra hge
        exact h (hp (k, v) (by dsimp only; omega))
      rw [List.filter_cons_of_neg h, cellsGet, if_neg (by omega), if_neg (by omega)]
      exact cellsGet_filter_above hp ha l

theorem get_clear_low (m : Memory) (e a : Nat) : (m.clear 0 e).get a = if a < e then 0 else m.get a := by
  split
  next h => exact cellsGet_filter_below (e := e) (by simp) h _
  next h => exact cellsGet_filter_above (e := e) (by simp) (by omega) _

/-- A locked instruction selects BYPASS and is counted (R524). -/
def lockedOut (s : State) : State :=
  { s with thresh := { s.thresh with jtagIns := .bypass, jtagCnt := s.thresh.jtagCnt + 1, flags := s.thresh.flags ||| 2 } }

theorem jtagLocked_eq (s : State) (q : Bool) : jtagLocked s q =
    let u := addFrec (lockedOut s) 19 0 0 ((lockedOut s).thresh.jtagCnt.toNat % 256) 0 noCtx
    if q then raiseEvent u 0x82 noCtx u.thresh.jtagCnt.toNat 0 else u := rfl

/-- The record of an attempt may raise its own flag and event; the count and the flag of the attempt stand. -/
theorem jtagLocked_counts (s : State) (q : Bool) : (jtagLocked s q).thresh.jtagIns = .bypass ∧
    (jtagLocked s q).thresh.jtagCnt = s.thresh.jtagCnt + 1 ∧ (jtagLocked s q).thresh.flags.getLsbD 1 = true ∧
    (s.nvm.frec.length < 1024 → (jtagLocked s q).evSeq = if q then s.evSeq + 1 else s.evSeq) ∧
    unrecorded (jtagLocked s q) = unrecorded (lockedOut s) := by
  have hrec := unrecorded_addFrec (lockedOut s) 19 0 0 ((lockedOut s).thresh.jtagCnt.toNat % 256) 0 noCtx
  have hroom := fun h : (lockedOut s).nvm.frec.length < 1024 =>
    (addFrec_appends 19 0 0 ((lockedOut s).thresh.jtagCnt.toNat % 256) 0 noCtx h).1
  obtain ⟨f, hf⟩ := addFrec_thresh (lockedOut s) 19 0 0 ((lockedOut s).thresh.jtagCnt.toNat % 256) 0 noCtx
  rw [jtagLocked_eq]
  dsimp only
  generalize addFrec (lockedOut s) 19 0 0 _ 0 noCtx = u at hrec hroom hf
  have hflag : (s.thresh.flags ||| 2 ||| f).getLsbD 1 = true := by simp
  cases q with
  | false =>
    simp only [Bool.false_eq_true, if_false]
    rw [hf]
    exact ⟨rfl, rfl, hflag, hroom, hrec⟩
  | true =>
    have hq := quiet_raiseEvent u 0x82 noCtx u.thresh.jtagCnt.toNat 0
    have ht := (eq_of_view quiet State.thresh (fun _ => rfl) hq).trans hf
    simp only [if_true]
    rw [ht, raiseEvent_evSeq]
    exact ⟨rfl, rfl, hflag, fun h => congrArg (· + 1) (hroom h), (congrArg unrecorded hq :).trans hrec⟩

/-- Settles O14: the instructions of a locked port, and the Warm resets into and out of boundary scan. -/
theorem jtagIsGuarded : Obligations.JtagIsGuarded := by
  unfold Obligations.JtagIsGuarded
  intro s
  refine ⟨fun q hb ins hins => ?_, fun q hb hlock => ?_, fun q ins hins hb hpwr hlow => ?_, fun hb hpwr => ?_⟩
  · rcases hins with rfl | rfl <;> simp [exec, execJtagInstruction, hb]
  · obtain ⟨hins, hcnt, hflag, hev, hu⟩ := jtagLocked_counts s q
    refine ⟨jtagLocked s q, by simp [exec, execJtagInstruction, hb, hlock], hins, hcnt, hflag, hev, ?_, ?_, ?_, ?_⟩
    · exact (eq_of_view unrecorded State.mem (fun _ => rfl) hu).trans rfl
    · exact (eq_of_view unrecorded State.windows (fun _ => rfl) hu).trans rfl
    · exact (eq_of_view unrecorded State.ifLevel (fun _ => rfl) hu).trans rfl
    · exact (eq_of_view unrecorded State.fuses (fun _ => rfl) hu).trans rfl
  · have hexec : exec (.jtagInstruction ins q) s = .next { { doReset .warm s.power.rstCause s with
        lampWasLit := false, lamp := { s.lamp with lok := 0, enabled := 0 } } with
        thresh := { (doReset .warm s.power.rstCause s).thresh with jtagIns := ins } } := by
      rcases hins with rfl | rfl <;> simp [exec, execJtagInstruction, enterBoundary, hb, hlow, hpwr]
    have h := cleared_doReset .warm s.power.rstCause s
    generalize doReset .warm s.power.rstCause s = t at h hexec
    have hscan : decide (ins = .samplePreload ∨ ins = .extest) = true := decide_eq_true hins
    refine ⟨_, hexec, hscan, ?_, { h with }, rfl, rfl⟩
    simp [powered, boundary, hins]
  · have hexec : exec .jtagLeaveBoundary s = .next (leaveBoundary s) := congrArg Host.Outcome.next (if_pos hb)
    have hl : leaveBoundary s = { doReset .warm (anyWarmCause (zeroOnDie { s with thresh := { s.thresh with jtagIns := .bypass } })).1
        (anyWarmCause (zeroOnDie { s with thresh := { s.thresh with jtagIns := .bypass } })).2 with warmHeld := !s.perstN } := if_pos hpwr
    have h := doReset_to (k := .warm) (by decide) (anyWarmCause (zeroOnDie { s with thresh := { s.thresh with jtagIns := .bypass } })).1
      (anyWarmCause (zeroOnDie { s with thresh := { s.thresh with jtagIns := .bypass } })).2
    rw [hl] at hexec
    have hdata : (anyWarmCause (zeroOnDie { s with thresh := { s.thresh with jtagIns := .bypass } })).2.mem.data =
      s.mem.data.clear 0 0x10000000 := rfl
    have hins : (clearThresh .warm (anyWarmCause (zeroOnDie { s with thresh := { s.thresh with jtagIns := .bypass } })).2).thresh.jtagIns =
      .bypass := rfl
    generalize anyWarmCause (zeroOnDie { s with thresh := { s.thresh with jtagIns := .bypass } }) = r at h hexec hdata hins
    generalize doReset .warm r.1 r.2 = t at h hexec
    refine ⟨_, hexec, ?_, { h.cleared with }, fun a ha => ?_, fun e he => ?_, fun a ha => ?_⟩
    · rw [← h.thresh] at hins
      simp [boundary, hins]
    · dsimp only
      rw [h.data, hdata, get_clear_low, if_pos ha]
    · rw [h.cleared.pantries e he]; rfl
    · dsimp only
      rw [h.data, hdata, get_clear_low, if_neg (by omega)]

end Sys2Proof.Machine

/-!
The host's registers, range table, vectors and BAR4 accesses (chapter 9): the obligations O16, O17, O20 and O22.
-/

namespace Sys2Proof.Machine

open Sys2Proof

/-! ### Register writes and reads (R308 to R310, R534 to R538) -/

theorem barUp_of_writeOpen {s : State} {l : List ResetKind} (h : writeOpen s l = true) : barUp s = true := (Bool.and_eq_true .. ▸ h).1

theorem writeOpen_of_blockOpen {s : State} {l : List ResetKind} (h : blockOpen s l = true) : writeOpen s l = true :=
  (Bool.and_eq_true .. ▸ h).1

/-- A write with its bytes judged: discarded, or one or two words of BAR0. -/
theorem registerWrite_exec {s : State} (hup : barUp s = true) (off : Nat) (val : Word) (be : BitVec 4) (hw : HwUpd) (more : Option Word2) :
    exec (.registerWrite off val be hw more) s = .next (match judge s 0 off be more with
      | (s, false) => s
      | (s, true) =>
        let s := bar0Word s off val hw
        match more with
        | some w => bar0Word s (off + 4) w.val w.hw
        | none => s) :=
  congrArg Host.Outcome.next (if_neg (by simp [hup]))

/-- A lone word with some of its bytes is discarded under BADSIZE (R309). -/
theorem judge_part {be : BitVec 4} (h0 : be ≠ 0) (h15 : be ≠ 15) (s : State) (bar off : Nat) : judge s bar off be none = (badSize s, false) := by
  have hany : decide (be ≠ 0 ∧ be ≠ 15) = true := decide_eq_true ⟨h0, h15⟩
  have hall : decide (be = 15) = false := decide_eq_false h15
  simp only [judge, Option.map_none, Option.toList_none, List.any_cons, List.any_nil, hany, Bool.or_false, if_true, List.all_cons,
    List.all_nil, hall, Bool.false_and]
  rfl

/-- Two words, one of them with some of its bytes, are discarded whole under BADSIZE (R309). -/
theorem judge_parts {be b : BitVec 4} (h0 : be ≠ 0) (hb : b ≠ 0) (h : be ≠ 15 ∨ b ≠ 15) (s : State) (bar off : Nat) (v : Word) (hw : HwUpd) :
    judge s bar off be (some ⟨v, b, hw⟩) = (badSize s, false) := by
  have hany : (decide (be ≠ 0 ∧ be ≠ 15) || decide (b ≠ 0 ∧ b ≠ 15)) = true := by
    rcases h with h | h
    · rw [decide_eq_true ⟨h0, h⟩, Bool.true_or]
    · rw [decide_eq_true (p := b ≠ 0 ∧ b ≠ 15) ⟨hb, h⟩, Bool.or_true]
  have hall : (decide (be = 15) && decide (b = 15)) = false := by
    rcases h with h | h
    · rw [decide_eq_false h, Bool.false_and]
    · rw [decide_eq_false (p := b = 15) h, Bool.and_false]
  simp only [judge, Option.map_some, Option.toList_some, List.any_cons, List.any_nil, Bool.or_false, hany, if_true, List.all_cons,
    List.all_nil, Bool.and_true, hall, decide_eq_false h0, decide_eq_false hb, Bool.and_false]
  rfl

theorem registerWrite_whole {s : State} (hup : barUp s = true) (off : Nat) (val : Word) (hw : HwUpd) :
    exec (.registerWrite off val 15 hw none) s = .next (bar0Word s off val hw) := registerWrite_exec hup ..

/-- The window block: a word of BAR0 there goes to one register of one Window. -/
theorem bar0Word_window {s : State} (hopen : blockOpen s clrCWIF = true) (w : Fin 8) {o : Nat} (ho : o < 256) (val : Word) (hw : HwUpd) :
    bar0Word s (0x20000 + o + 256 * w.val) val hw = modWin s w.val fun x => writeWindow x o val hw := by
  have hlt := w.isLt
  have hdiv : (0x20000 + o + 256 * w.val - 0x20000) / 256 = w.val := by omega
  have hmod : (0x20000 + o + 256 * w.val) % 256 = o := by omega
  rw [bar0Word, if_pos (by omega)]
  simp only [writeLow]
  rw [if_neg (by omega), if_neg (by omega), if_neg (by omega), if_neg (by omega), if_pos (by omega), if_pos hopen, hdiv, hmod]

/-- What a write of one register of a Window leaves: every other Window and everything beside the Windows. -/
theorem modWin_frame (s : State) (w : Nat) (f : Window → Window) : modWin s w f = { s with windows := (modWin s w f).windows } ∧
    (∀ v, v ≠ w → win (modWin s w f) v = win s v) ∧ win (modWin s w f) w = f (win s w) :=
  ⟨rfl, fun v hv => by rw [win_modWin, if_neg hv], by rw [win_modWin, if_pos rfl]⟩

theorem windowWrite_exec {s : State} (hopen : blockOpen s clrCWIF = true) (w : Fin 8) {o : Nat} (ho : o < 256) (val : Word) (hw : HwUpd) :
    exec (.registerWrite (0x20000 + o + 256 * w.val) val 15 hw none) s = .next (modWin s w.val fun x => writeWindow x o val hw) := by
  rw [registerWrite_whole (barUp_of_writeOpen (writeOpen_of_blockOpen hopen)), bar0Word_window hopen w ho]

theorem counter64_window {s : State} (hopen : blockOpen s clrCWIF = true) (w : Fin 8) (hi : Bool) (val : Word) (inc : Bool) :
    exec (.counter64Write ((if hi then 0x20024 else 0x20020) + 256 * w.val) val inc) s =
      .next (modWin s w.val fun x => { x with symcnt := write64 x.symcnt hi val inc }) := by
  have hlt := w.isLt
  refine congrArg Host.Outcome.next ((if_pos hopen).trans ?_)
  cases hi with
  | false =>
    have hdiv : (0x20020 + 256 * w.val - 0x20000) / 256 = w.val := by omega
    have hmod : (0x20020 + 256 * w.val) % 256 = 0x20 := by omega
    simp only [Bool.false_eq_true, if_false]
    rw [if_pos (by omega), hdiv, hmod]
    rfl
  | true =>
    have hdiv : (0x20024 + 256 * w.val - 0x20000) / 256 = w.val := by omega
    have hmod : (0x20024 + 256 * w.val) % 256 = 0x24 := by omega
    simp only [if_true]
    rw [if_pos (by omega), hdiv, hmod]
    rfl

theorem counter64_dumb {s : State} (hopen : blockOpen s clrCWIF = true) (d : Fin 16) (hi : Bool) (val : Word) (inc : Bool) :
    exec (.counter64Write ((if hi then 0x23014 else 0x23010) + 256 * d.val) val inc) s =
      .next (modDumb s d.val fun x => { x with byteCnt := write64 x.byteCnt hi val inc }) := by
  have hlt := d.isLt
  refine congrArg Host.Outcome.next ((if_pos hopen).trans ?_)
  cases hi with
  | false =>
    have hdiv : (0x23010 + 256 * d.val - 0x23000) / 256 = d.val := by omega
    have hmod : (0x23010 + 256 * d.val) % 256 = 0x10 := by omega
    simp only [Bool.false_eq_true, if_false]
    rw [if_neg (by omega), if_pos (by omega), hdiv, hmod]
    rfl
  | true =>
    have hdiv : (0x23014 + 256 * d.val - 0x23000) / 256 = d.val := by omega
    have hmod : (0x23014 + 256 * d.val) % 256 = 0x14 := by omega
    simp only [if_true]
    rw [if_neg (by omega), if_pos (by omega), hdiv, hmod]
    rfl

/-- What a read with all byte enables answers: the whole word. -/
theorem readWord_whole (s : State) (bar2 : Bool) (off : Nat) : readWord s bar2 off 15 =
    (if bar2 || (inRecovery s && !(recoveryBlock off)) then s else captureHi s off,
      toBytes 4 (if bar2 then readBar2 s off else readReg s off).toNat) := by
  simp [readWord, toBytes]

/-- A word read from BAR0 is answered, and may load one capture latch (Table 14.2). -/
theorem captureReadLo_exec {s : State} (hup : barUp s = true) (off : Nat) : exec (.captureReadLo false off 15 none) s =
    .next (emit (if inRecovery s && !(recoveryBlock off) then s else captureHi s off)
      (.completion true false (toBytes 4 (readReg s off).toNat))) := by
  have h := readWord_whole s false off
  refine congrArg Host.Outcome.next ((if_pos hup).trans ?_)
  dsimp only
  rw [h]
  rfl

theorem captureReadLo_bar2 {s : State} (hup : barUp s = true) (off : Nat) : exec (.captureReadLo true off 15 none) s =
    .next { s with out := s.out ++ [.completion true false (toBytes 4 (readBar2 s off).toNat)] } := by
  have h := readWord_whole s true off
  refine congrArg Host.Outcome.next ((if_pos hup).trans ?_)
  dsimp only
  rw [h]
  rfl

/-- A state without the latches that a read of a LO register loads. -/
def unlatched (s : State) : State := { s with
  windows := [], dumbs := [], mem := { s.mem with elogLatch := 0, swLatch := 0 }, thresh := { s.thresh with serialLatch := 0 } }

theorem unlatched_captureHi (s : State) (off : Nat) : unlatched (captureHi s off) = unlatched s := by
  unfold captureHi
  repeat' split
  all_goals rfl

theorem captureHi_eq (s : State) (off : Nat) : captureHi s off = { s with
    windows := (captureHi s off).windows, dumbs := (captureHi s off).dumbs,
    mem := { s.mem with elogLatch := (captureHi s off).mem.elogLatch, swLatch := (captureHi s off).mem.swLatch },
    thresh := { s.thresh with serialLatch := (captureHi s off).thresh.serialLatch } } := by
  have h := unlatched_captureHi s off
  generalize captureHi s off = t at h
  exact congrArg (fun u : State => { u with
    windows := t.windows, dumbs := t.dumbs, mem := { u.mem with elogLatch := t.mem.elogLatch, swLatch := t.mem.swLatch },
    thresh := { u.thresh with serialLatch := t.thresh.serialLatch } }) h

/-- A read of the window block while Threshold is not in recovery. -/
theorem readReg_symcntHi {s : State} (hrec : inRecovery s = false) (w : Fin 8) :
    readReg s (0x20024 + 256 * w.val) = (win s w.val).symLatch := by
  have hlt := w.isLt
  have hdiv : (0x20024 + 256 * w.val - 0x20000) / 256 = w.val := by omega
  have hmod : (0x20024 + 256 * w.val) % 256 = 0x24 := by omega
  rw [readReg, hrec, Bool.false_and, if_neg (by decide), if_neg (by omega), if_neg (by omega), if_neg (by omega), if_pos (by omega), hdiv, hmod]
  rfl

theorem captureHi_symcntLo (s : State) (w : Fin 8) : captureHi s (0x20020 + 256 * w.val) =
    modWin s w.val fun x => { x with symLatch := (x.symcnt >>> 32).setWidth 32 } := by
  have hlt := w.isLt
  have hdiv : (0x20020 + 256 * w.val - 0x20000) / 256 = w.val := by omega
  rw [captureHi, if_pos (by omega), if_pos (by omega), hdiv]

theorem hi_of_append (x : Word) (y : Word) : ((x ++ y : BitVec 64) >>> 32).setWidth 32 = x := by
  refine BitVec.eq_of_getLsbD_eq fun i hi => ?_
  have h : (x ++ y : BitVec 64).getLsbD (32 + i) = x.getLsbD i := by
    refine (BitVec.getLsbD_append (x := x) (y := y) (i := 32 + i)).trans ?_
    rw [if_neg (by omega), Nat.add_sub_cancel_left]
  rw [BitVec.getLsbD_setWidth, BitVec.getLsbD_ushiftRight, h, decide_eq_true hi, Bool.true_and]

theorem lo_of_append (x : Word) (y : Word) : (x ++ y : BitVec 64).setWidth 32 = y := by
  refine BitVec.eq_of_getLsbD_eq fun i hi => ?_
  have h : (x ++ y : BitVec 64).getLsbD i = y.getLsbD i := by
    refine (BitVec.getLsbD_append (x := x) (y := y) (i := i)).trans ?_
    rw [if_pos hi]
  rw [BitVec.getLsbD_setWidth, h, decide_eq_true hi, Bool.true_and]

/-- Settles O16: the write and read paths reduce to one word at one register; the registers named are then read off. -/
theorem registersFollowTheirAccessClass : Obligations.RegistersFollowTheirAccessClass := by
  unfold Obligations.RegistersFollowTheirAccessClass
  intro s val hw
  refine ⟨fun off hup => registerWrite_exec hup .., fun off be hup h0 h15 => ?_, fun off be b val' hw' hup h0 hb h15 => ?_,
    fun off val' hw' hup => registerWrite_exec hup .., fun hopen w => ?_, fun hopen d inc => ?_, fun hup => ?_⟩
  · rw [registerWrite_exec hup, judge_part h0 h15]
    rfl
  · rw [registerWrite_exec hup, judge_parts h0 hb h15]
    rfl
  · have hwin {o : Nat} (ho : o < 256) := windowWrite_exec hopen w ho val hw
    have hframe (f : Window → Window) := modWin_frame s w.val f
    have hsame (f : Window → Window) : win (modWin s w.val f) w.val = f (win s w.val) := (hframe f).2.2
    refine ⟨⟨_, hwin (o := 0) (by decide), rfl, fun v => ?_⟩, ⟨_, hwin (o := 4) (by decide), hframe _⟩,
      ⟨_, hwin (o := 0x28) (by decide), rfl, (hframe _).2.1, ?_⟩, ⟨_, hwin (o := 0xC) (by decide), hframe _⟩,
      fun inc => ⟨_, counter64_window hopen w false val inc, rfl, (hframe _).2.1, ?_⟩,
      fun inc => ⟨_, counter64_window hopen w true val inc, rfl, (hframe _).2.1, ?_⟩⟩
    · rw [win_modWin]
      split
      next hv => rw [hv]; rfl
      next => rfl
    · rw [hsame]
      show { win s w.val with witcnt := hcUpd val hw.inc } = _
      rw [hcUpd, BitVec.setWidth_eq]
    · rw [hsame]; rfl
    · rw [hsame]; rfl
  · exact ⟨⟨_, counter64_dumb hopen d false val inc, rfl, by rw [dumb_modDumb, if_pos rfl]; rfl⟩,
      ⟨_, counter64_dumb hopen d true val inc, rfl, by rw [dumb_modDumb, if_pos rfl]; rfl⟩⟩
  · refine ⟨fun off => ?_, fun hrec w => ?_, fun hrec => ?_, ?_, fun hrec page slot => ?_, fun page o hlo hhi => ?_⟩
    · refine ⟨_, captureReadLo_exec hup off, ?_⟩
      split
      · exact ⟨rfl, rfl⟩
      · have h := captureHi_eq s off
        generalize captureHi s off = t at h
        rw [h]
        exact ⟨rfl, rfl⟩
    · refine ⟨_, captureReadLo_exec hup _, ?_⟩
      rw [hrec, Bool.false_and, if_neg (by decide), captureHi_symcntLo]
      have hl := (modWin_frame s w.val fun x => { x with symLatch := (x.symcnt >>> 32).setWidth 32 }).2.2
      have hr : inRecovery (modWin s w.val fun x => { x with symLatch := (x.symcnt >>> 32).setWidth 32 }) = false := hrec
      generalize modWin s w.val (fun x => { x with symLatch := (x.symcnt >>> 32).setWidth 32 }) = t at hl hr
      have hlatch := congrArg Window.symLatch hl
      generalize Out.completion true false _ = c
      exact ⟨hlatch, (readReg_symcntHi (s := emit t c) hr w).trans hlatch⟩
    · refine ⟨_, captureReadLo_exec hup _, ?_⟩
      rw [hrec, Bool.false_and, if_neg (by decide)]
      have hread {t : State} (ht : inRecovery t = false) :
          readReg t 0x24058 = t.mem.elogLatch.setWidth 32 ∧ readReg t 0x2405C = (t.mem.elogLatch >>> 32).setWidth 32 := by
        have hmem {o : Nat} (h1 : 0x24000 ≤ o) (h2 : o < 0x24900) : readReg t o = readMem t (o - 0x24000) := by
          unfold readReg
          rw [ht, Bool.false_and, if_neg (by decide)]
          iterate 14 rw [if_neg (by omega)]
          rw [if_pos h2]
        exact ⟨hmem (by decide) (by decide), hmem (by decide) (by decide)⟩
      obtain ⟨hlo, hhi⟩ := hread (t := emit (captureHi s 0x24054) (.completion true false (toBytes 4 (readReg s 0x24054).toNat))) hrec
      exact ⟨hlo.trans (lo_of_append ..), hhi.trans (hi_of_append ..)⟩
    · refine ⟨_, captureReadLo_exec hup _, ?_⟩
      rw [show recoveryBlock 0x70008 = true from rfl, Bool.not_true, Bool.and_false, if_neg (by decide)]
      rfl
    · rw [captureReadLo_bar2 hup]
      have hp := page.isLt
      have hs := slot.isLt
      have hdiv : (4096 * page.val + 4 * slot.val) / 4096 = page.val := by omega
      have hmod : (4096 * page.val + 4 * slot.val) % 4096 = 4 * slot.val := by omega
      have hslot : 4 * slot.val / 4 = slot.val := by omega
      have hread : readBar2 s (4096 * page.val + 4 * slot.val) = doorbellRead s page.val slot.val := by
        simp only [readBar2, hrec, hdiv, hmod, hslot]
        exact (if_neg (by decide)).trans (if_pos (by omega))
      rw [hread]
      rfl
    · rw [captureReadLo_bar2 hup]
      have hmod : (4096 * page.val + o) % 4096 = o := by omega
      have hread : readBar2 s (4096 * page.val + o) = 0 := by
        simp only [readBar2, hmod]
        split
        · rfl
        · rw [if_neg (by omega)]
      rw [hread]
      rfl

/-! ### The range table, vectors and stray TLPs (R323, R341, R343) -/

theorem rangeTableWrite_exec {s : State} (h : writeOpen s clrCWIF = true) (e : Fin 16) (r : Fin 4) (val : Word) :
    exec (.rangeTableWrite e r val) s = .next (writeRange s e.val r.val val) := congrArg Host.Outcome.next (if_pos h)

/-- The part with range entry e as given. -/
def putRange (s : State) (e : Nat) (x : RangeEnt) : State := { s with host := { s.host with ranges := bankPut s.host.ranges e x } }

theorem putRange_put (s : State) (e : Nat) (x : RangeEnt) : putRange s e x = { s with host := { s.host with ranges := (putRange s e x).host.ranges } } ∧
    bankGet (putRange s e x).host.ranges RangeEnt.reset e = x := ⟨rfl, by rw [putRange, bankGet_put, if_pos rfl]⟩

/-- A register of a disabled entry is written (R323). -/
theorem writeRange_disabled {s : State} {e : Nat} (h : (bankGet s.host.ranges RangeEnt.reset e).en = false) (r : Fin 4) (val : Word) :
    writeRange s e r.val val = putRange s e (match r.val with
      | 0 => { bankGet s.host.ranges RangeEnt.reset e with en := val.getLsbD 0, wen := val.getLsbD 1, atom := val.getLsbD 2 }
      | 1 => { bankGet s.host.ranges RangeEnt.reset e with base := val.setWidth 14 }
      | 2 => { bankGet s.host.ranges RangeEnt.reset e with size := val.setWidth 15 }
      | _ => { bankGet s.host.ranges RangeEnt.reset e with pa := val.setWidth 22 }) := by
  refine (if_neg (by simp [h])).trans ?_
  fin_cases r <;> rfl

/-- Of an enabled entry a write may change EN, and nothing else (R323). -/
theorem writeRange_enabled {s : State} {e : Nat} (h : (bankGet s.host.ranges RangeEnt.reset e).en = true) (val : Word) :
    (val.getLsbD 1 = (bankGet s.host.ranges RangeEnt.reset e).wen → val.getLsbD 2 = (bankGet s.host.ranges RangeEnt.reset e).atom →
      writeRange s e 0 val = putRange s e { bankGet s.host.ranges RangeEnt.reset e with en := val.getLsbD 0 }) ∧
    (∀ r, r ≠ 0 → writeRange s e r val = { s with host := { s.host with flags := s.host.flags ||| 8 } }) := by
  refine ⟨fun hw ha => (if_pos h).trans (if_pos (by rw [hw, ha]; simp)), fun r hr => (if_pos h).trans ?_⟩
  split
  · exact absurd rfl hr
  · rfl

theorem msixEnt_modMsix (s : State) (v u : Nat) (f : Msix → Msix) :
    msixEnt (modMsix s v f) u = if u = v then f (msixEnt s v) else msixEnt s u := by
  unfold msixEnt modMsix
  split
  next h => rw [h]; exact bankGet_mod_same ..
  next h => exact bankGet_mod_other _ _ _ h

/-- A pending vector that is unmasked is sent and no longer pending (R341). -/
theorem sendPending_unmasked {s : State} {v : Nat} (hen : s.host.msixEn = true) (hmask : s.host.msixMask = false) (hd3 : s.host.cfg.d3 = false)
    (hm : (msixEnt s v).mask = false) :
    (sendPending s v).out = (if (msixEnt s v).pend then
      s.out ++ [.msix v ((msixEnt s v).addrHi ++ (msixEnt s v).addrLo) (msixEnt s v).data] else s.out) ∧
    msixEnt (sendPending s v) v = { msixEnt s v with pend := false } ∧ (∀ u, u ≠ v → msixEnt (sendPending s v) u = msixEnt s u) ∧
    sendPending s v = { s with out := (sendPending s v).out, host := { s.host with msix := (sendPending s v).host.msix } } := by
  unfold sendPending
  cases hp : (msixEnt s v).pend with
  | true =>
    have hc : ((msixEnt s v).pend && s.host.msixEn && !s.host.msixMask && !(msixEnt s v).mask && !s.host.cfg.d3) = true := by
      rw [hp, hen, hmask, hd3, hm]; rfl
    dsimp only
    rw [if_pos hc]
    refine ⟨rfl, (msixEnt_modMsix ..).trans (if_pos rfl), fun u hu => (msixEnt_modMsix ..).trans (if_neg hu), rfl⟩
  | false =>
    have hc : ¬ ((msixEnt s v).pend && s.host.msixEn && !s.host.msixMask && !(msixEnt s v).mask && !s.host.cfg.d3) = true := by
      rw [hp]; exact Bool.false_ne_true
    dsimp only
    rw [if_neg hc]
    refine ⟨rfl, ?_, fun _ _ => rfl, rfl⟩
    rw [← hp]

theorem reported_aer (s : State) (e : AerErr) (t : Option Tlp) : Reported s (aer s e t) e [.aer e (s.host.cfg.aerSev.getLsbD e.bit)] :=
  ⟨rfl, rfl, ⟨_, rfl, by cases t <;> simp⟩, rfl⟩

theorem reported_urCompletion (s : State) (e : AerErr) (t : Option Tlp) : Reported s (urCompletion (aer s e t)) e
    [.aer e (s.host.cfg.aerSev.getLsbD e.bit), .completion false false []] :=
  ⟨by simp [urCompletion, emit, aer], rfl, ⟨_, rfl, by cases t <;> simp⟩, rfl⟩

/-- Settles O17: the table's writes by the entry's EN, the vector by its pending bit, each stray TLP by its report. -/
theorem rangeTableVectorsAndStrayTlps : Obligations.RangeTableVectorsAndStrayTlps := by
  unfold Obligations.RangeTableVectorsAndStrayTlps
  intro s
  refine ⟨fun hopen e val => ⟨fun hen => ?_, fun hen h0 h1 h2 => ?_, fun hen r hr => ?_⟩, fun hopen hen hmask v => ?_, fun hup hperst => ?_⟩
  · have hexec (r : Fin 4) := (rangeTableWrite_exec hopen e r val).trans (congrArg Host.Outcome.next (writeRange_disabled hen r val))
    exact ⟨⟨_, hexec 0, putRange_put ..⟩, ⟨_, hexec 1, putRange_put ..⟩, ⟨_, hexec 2, putRange_put ..⟩, ⟨_, hexec 3, putRange_put ..⟩⟩
  · refine ⟨_, (rangeTableWrite_exec hopen e 0 val).trans (congrArg Host.Outcome.next ((writeRange_enabled hen val).1 h1 h2)), ?_⟩
    rw [h0]
    exact putRange_put ..
  · exact (rangeTableWrite_exec hopen e r val).trans
      (congrArg Host.Outcome.next ((writeRange_enabled hen val).2 _ fun h => hr (Fin.ext h)))
  · have hd3 : s.host.cfg.d3 = false := by
      have h := barUp_of_writeOpen (writeOpen_of_blockOpen hopen)
      simp only [barUp, Bool.and_eq_true, Bool.not_eq_true'] at h
      exact h.2
    have hexec : exec (.msixUnmask (some v)) s = .next (sendPending (modMsix s v.val fun e => { e with mask := false }) v.val) :=
      congrArg Host.Outcome.next (if_pos hopen)
    have hent (u : Nat) := msixEnt_modMsix s v.val u fun e => { e with mask := false }
    obtain ⟨hout, hsame, hother, hframe⟩ := sendPending_unmasked (s := modMsix s v.val fun e => { e with mask := false }) (v := v.val)
      hen hmask hd3 (by rw [hent, if_pos rfl])
    rw [hent, if_pos rfl] at hout hsame
    exact ⟨_, hexec, hout, hsame, fun u hu => (hother u hu).trans ((hent u).trans (if_neg hu)), hframe⟩
  · have hlink : linkUp s = true := by simp [linkUp, hup, hperst]
    exact ⟨⟨_, congrArg Host.Outcome.next (if_pos hlink), reported_urCompletion ..⟩,
      ⟨_, congrArg Host.Outcome.next (if_pos hlink), reported_aer ..⟩, ⟨_, congrArg Host.Outcome.next (if_pos hlink), reported_aer ..⟩,
      ⟨_, congrArg Host.Outcome.next (if_pos hlink), reported_aer ..⟩, ⟨_, congrArg Host.Outcome.next (if_pos hlink), reported_aer ..⟩⟩

/-! ### BAR4 accesses (R256, R321, R322, R325, R326) -/

theorem rangeLookup_one {s : State} {off : Nat} {e : RangeEnt} (h : rangeHits s off = [e]) : rangeLookup s off = (s, some e) := by
  unfold rangeLookup
  rw [h]
  rfl

theorem rangeLookup_miss {s : State} {off : Nat} (h : rangeHits s off = []) : rangeLookup s off = (s, none) := by
  unfold rangeLookup
  rw [h]
  rfl

theorem bar4Read_exec {s : State} (hup : barUp s = true) (hrec : inRecovery s = false) (off len : Nat) (env : Env) :
    exec (.bar4Read off len env) s = .next (bar4Read s env off len) :=
  congrArg Host.Outcome.next ((if_neg (by simp [hup])).trans (if_neg (by simp [hrec])))

theorem bar4Write_exec {s : State} (hup : barUp s = true) (hrec : inRecovery s = false) (off : Nat) (data : List Byte) (env : Env) :
    exec (.bar4Write off data false env) s = .next (bar4Write s env off data false) :=
  congrArg Host.Outcome.next ((if_neg (by simp [hup])).trans (if_neg (by simp [hrec])))

/-- Where the code finds no error, reading granules changes the error log alone, and a poisoned one among them is delivered. -/
theorem readGranules_poison {env : Env} (src : Finder) (who : Option Nat) (hu : env.ue = []) (hc : env.ce = []) (gs : List Nat) (s : State) :
    ∃ a c, (readGranules env src who gs s).1 = { s with mem := { s.mem with elogAddr := a, elogCtx := c } } ∧
      ((∃ g ∈ gs, g ∈ s.mem.poison ∨ stackOut s (64 * g) = true) → (readGranules env src who gs s).2.isSome = true) := by
  induction gs with
  | nil => exact ⟨_, _, rfl, fun h => by obtain ⟨g, hg, -⟩ := h; cases hg⟩
  | cons g t ih =>
    by_cases hp : (stackOut s (64 * g) || s.mem.poison.contains g) = true
    · obtain ⟨ctx, hread⟩ : ∃ ctx, readGranule s env src who g = (elog s (64 * g) ctx src, true) := ⟨_, if_pos hp⟩
      rw [readGranules, hread]
      exact ⟨_, _, rfl, fun _ => rfl⟩
    · have hread : readGranule s env src who g = (s, false) := by
        refine (if_neg hp).trans ?_
        simp [hu, hc]
      rw [readGranules, hread]
      obtain ⟨a, c, hs, hsome⟩ := ih
      refine ⟨a, c, hs, fun ⟨k, hk, hpk⟩ => hsome ?_⟩
      rcases List.mem_cons.1 hk with rfl | hk
      · refine absurd ?_ hp
        rcases hpk with h | h
        · rw [List.contains_iff_mem.2 h, Bool.or_true]
        · rw [h, Bool.true_or]
      · exact ⟨k, hk, hpk⟩

theorem mem_granulesOf {pa n g : Nat} : g ∈ granulesOf pa n ↔ n ≠ 0 ∧ pa / 64 ≤ g ∧ g ≤ (pa + n - 1) / 64 := by
  unfold granulesOf
  split
  · simp [*]
  · simp only [List.mem_map, List.mem_range]
    constructor
    · rintro ⟨k, hk, rfl⟩
      have : pa / 64 ≤ (pa + n - 1) / 64 := Nat.div_le_div_right (by omega)
      omega
    · rintro ⟨-, hlo, hhi⟩
      exact ⟨g - pa / 64, by omega, by omega⟩

theorem covers_mem_granulesOf {pa n g : Nat} (h : coversGranule pa n g = true) : g ∈ granulesOf pa n := by
  simp only [coversGranule, Bool.and_eq_true, decide_eq_true_eq] at h
  obtain ⟨hlo, hhi⟩ := h
  refine mem_granulesOf.2 ⟨by omega, ?_, ?_⟩
  · omega
  · omega

/-- Where the code finds no error, a write clears the poison of the granules that it covers whole, and of no other (R256). -/
theorem poison_writeGranules {env : Env} (src : Finder) (pa n : Nat) (hu : env.ue = []) (hc : env.ce = []) (k : Nat) :
    ∀ (gs : List Nat) (s : State), k ∈ (writeGranules env src pa n gs s).mem.poison ↔
      k ∈ s.mem.poison ∧ ¬ (k ∈ gs ∧ coversGranule pa n k = true)
  | [], s => by simp [writeGranules]
  | g :: t, s => by
    rw [writeGranules]
    split
    next hg =>
      rw [poison_writeGranules src pa n hu hc k t]
      by_cases hk : k = g
      · subst hk; simp [clearPoison, hg]
      · simp [clearPoison, hk]
    next hg =>
      have hpart : partialGranule s env src g = s := by simp [partialGranule, hu, hc]
      rw [hpart, poison_writeGranules src pa n hu hc k t]
      by_cases hk : k = g
      · subst hk; simp [hg]
      · simp [hk]

/-- Settles O20: an access goes through its one entry or misses; a read is the bytes or poison, a write the bytes and the poison cleared. -/
theorem hostReadsAndWritesReachMemory : Obligations.HostReadsAndWritesReachMemory := by
  unfold Obligations.HostReadsAndWritesReachMemory
  intro s env off hup hrec
  refine ⟨fun e len hhit hreach hclean => ?_, fun e len g hhit hreach hue hce hg hpois => ?_, fun len hmiss => ?_,
    fun e data hhit hreach hwen hin hue hce hwf => ?_, fun data hmiss => ?_⟩
  · rw [bar4Read_exec hup hrec, bar4Read, rangeLookup_one hhit]
    dsimp only
    rw [if_pos hreach, readPa_clean hclean]
    rfl
  · obtain ⟨a, c, hs, hsome⟩ := readGranules_poison .host none hue hce (granulesOf (e.addr off) len) s
    have hpoison := hsome ⟨g, hg, .inl hpois⟩
    refine ⟨_, bar4Read_exec hup hrec .., ?_⟩
    rw [bar4Read, rangeLookup_one hhit]
    dsimp only
    rw [if_pos hreach, readPa]
    generalize readGranules env .host none (granulesOf (e.addr off) len) s = r at hs hpoison
    obtain ⟨u, o⟩ := r
    obtain ⟨k, rfl⟩ := Option.isSome_iff_exists.1 hpoison
    obtain rfl : u = _ := hs
    exact ⟨rfl, rfl, rfl⟩
  · refine ⟨_, bar4Read_exec hup hrec .., ?_⟩
    rw [bar4Read, rangeLookup_miss hmiss]
    exact reported_urCompletion ..
  · have hw : bar4Write s env off data false = testFences (writePa s env .host (e.addr off) data) := by
      rw [bar4Write, rangeLookup_one hhit]
      dsimp only
      rw [hreach, hwen, if_neg (by decide), hin]
      rfl
    obtain ⟨ops, corr, hf⟩ := testFences_frame (writePa s env .host (e.addr off) data)
    have hdata := writePa_data s env .host (e.addr off) data
    have hpois (k : Nat) := poison_writeGranules .host (e.addr off) data.length hue hce k (granulesOf (e.addr off) data.length) s
    refine ⟨_, bar4Write_exec hup hrec .., ?_⟩
    rw [hw, hf, hdata]
    refine ⟨fun i b hb => ?_, fun a ha => Memory.get_write_other _ hwf _ _ ha, fun k => (hpois k).trans ?_⟩
    · have hi : i < data.length := (List.getElem?_eq_some_iff.1 hb).1
      rw [Memory.get_write _ hwf _ _ hi, List.getD_eq_getElem?_getD, hb]
      rfl
    · refine and_congr_right fun _ => ?_
      rw [not_and, Bool.not_eq_true]
      exact ⟨fun h => by
        cases hcov : coversGranule (e.addr off) data.length k with
        | false => rfl
        | true => rw [← hcov]; exact h (covers_mem_granulesOf hcov), fun h _ => h⟩
  · refine ⟨_, bar4Write_exec hup hrec .., ?_⟩
    rw [bar4Write, rangeLookup_miss hmiss]
    exact reported_aer ..

/-! ### Commands that end (R251, R371) -/

theorem find?_map_of_pred {α β : Type} {p : α → Bool} {r : β → Bool} {f : α → β} (h : ∀ x, r (f x) = p x) :
    ∀ l : List α, (l.map f).find? r = (l.find? p).map f
  | [] => rfl
  | x :: l => by
    rw [List.map_cons, List.find?_cons, List.find?_cons, h]
    split
    · rfl
    · exact find?_map_of_pred h l

/-- A change of one command in flight that keeps its name. -/
theorem findOp_modOp {s : State} {id : OpId} {f : Op → Op} (hf : ∀ o, (f o).id = o.id) (k : OpId) :
    findOp (modOp s id f) k = if k = id then (findOp s id).map f else findOp s k := by
  have hid (o : Op) : (if o.id = id then f o else o).id = o.id := by split <;> simp [hf]
  have h : findOp (modOp s id f) k = (findOp s k).map fun o => if o.id = id then f o else o :=
    find?_map_of_pred (fun o => by rw [hid]) s.ops
  rw [h]
  split
  next hk =>
    subst hk
    refine Option.map_congr fun o ho => ?_
    have := List.find?_some ho
    simp only [decide_eq_true_eq] at this
    rw [if_pos this]
  next hk =>
    cases ho : findOp s k with
    | none => rfl
    | some o =>
      have := List.find?_some ho
      simp only [decide_eq_true_eq] at this
      rw [Option.map_some, if_neg (by rw [this]; exact hk)]

/-- A state without what the end of a command can change. -/
def endless (s : State) : State := { s with
  freeIx := 0, windows := [], pantries := [], trees := [], study := { s.study with busy := [], partway := [] }, dumbs := [], streams := [],
  corr := { s.corr with aud := [] }, ops := [] }

@[simp] theorem endless_freeHeld (s : State) (x : Stream) : endless (freeHeld s x) = endless s := by unfold freeHeld; split <;> rfl

@[simp] theorem endless_dropStreams (s : State) (id : OpId) (aborted : Bool) : endless (dropStreams s id aborted) = endless s := by
  unfold dropStreams
  dsimp only
  rw [foldl_keeps endless fun u e => ?_]
  · rfl
  · split
    · exact endless_freeHeld ..
    · rfl

@[simp] theorem endless_closeTrees (s : State) (id : OpId) : endless (closeTrees s id) = endless s := by
  unfold closeTrees
  dsimp only
  rw [foldl_keeps endless fun u e => ?_]
  · rfl
  · split <;> rfl

/-- The end of a command changes what works for it, and nothing else. -/
@[simp] theorem endless_endOp (s : State) (id : OpId) (st : Status) (aborted : Bool) : endless (endOp s id st aborted) = endless s := by
  have hmod (u : State) (f : Op → Op) : endless (modOp u id f) = endless u := rfl
  have haud (u : State) : endless (audGive u 4 1) = endless u := rfl
  unfold endOp
  split
  · rfl
  · split
    · rfl
    · dsimp only
      rw [hmod]
      split
      all_goals
        try rw [haud]
        rw [endless_closeTrees]
        exact endless_dropStreams ..

@[simp] theorem endless_endOps (st : Status) (aborted : Bool) (ids : List OpId) (s : State) : endless (endOps st aborted ids s) = endless s :=
  foldl_keeps endless (fun u id => endless_endOp u id st aborted) ids s

theorem ops_freeHeld (s : State) (x : Stream) : (freeHeld s x).ops = s.ops := by unfold freeHeld; split <;> rfl

theorem ops_dropStreams (s : State) (id : OpId) (aborted : Bool) : (dropStreams s id aborted).ops = s.ops := by
  unfold dropStreams
  dsimp only
  rw [foldl_keeps State.ops fun u e => ?_]
  split
  · exact ops_freeHeld ..
  · rfl

theorem ops_closeTrees (s : State) (id : OpId) : (closeTrees s id).ops = s.ops := by
  unfold closeTrees
  dsimp only
  rw [foldl_keeps State.ops fun u e => ?_]
  split <;> rfl

/-- The commands in flight after one has ended: that one is done with its status, unless it was done before. -/
theorem ops_endOp (s : State) (id : OpId) (st : Status) (aborted : Bool) : (endOp s id st aborted).ops =
    if (findOp s id).any (fun o => o.done.isNone) then
      s.ops.map (fun o => if o.id = id then { o with armed := false, done := some st } else o) else s.ops := by
  unfold endOp
  split
  next h => rw [h]; rfl
  next o h =>
    rw [h]
    cases hd : o.done with
    | some x => simp [hd]
    | none =>
      simp only [Option.isSome_none, Option.any_some, hd, Option.isNone_none, Bool.false_eq_true, if_false, if_true]
      rw [modOp]
      dsimp only
      split
      all_goals
        try rw [audGive_ops]
        rw [ops_closeTrees]
        dsimp only
        rw [ops_dropStreams]

theorem findOp_endOp_same {s : State} {id : OpId} {o : Op} (h : findOp s id = some o) (hd : o.done = none) (st : Status) (aborted : Bool) :
    findOp (endOp s id st aborted) id = some { o with armed := false, done := some st } := by
  have hops := ops_endOp s id st aborted
  rw [h, Option.any_some, hd, Option.isNone_none, if_pos rfl] at hops
  have hf := findOp_modOp (s := s) (id := id) (f := fun o => { o with armed := false, done := some st }) (fun _ => rfl) id
  rw [if_pos rfl, h] at hf
  rw [findOp, hops]
  exact hf

theorem findOp_endOp_other {s : State} {id k : OpId} (hk : k ≠ id) (st : Status) (aborted : Bool) :
    findOp (endOp s id st aborted) k = findOp s k := by
  have hops := ops_endOp s id st aborted
  have hf := findOp_modOp (s := s) (id := id) (f := fun o => { o with armed := false, done := some st }) (fun _ => rfl) k
  rw [if_neg hk] at hf
  rw [findOp, hops]
  split
  · exact hf
  · rfl

/-! ### Host completions (R334 to R338) -/

theorem hostFail_eq (s : State) (st : HostStatus) (tag : Option Nat) : ∃ out cfg, hostFail s st tag =
    { s with out := out, host := { s.host with flags := s.host.flags ||| 64, cfg := cfg } } ∧
    (st = .poisoned → .aer .poisonedTlp (s.host.cfg.aerSev.getLsbD 12) ∈ out) ∧
    (st = .timeout → .aer .completionTimeout (s.host.cfg.aerSev.getLsbD 14) ∈ out) := by
  unfold hostFail
  dsimp only
  split
  next h => exact ⟨_, _, rfl, fun _ => List.mem_append_right _ (List.mem_singleton.2 rfl), fun k => by rw [h] at k; cases k⟩
  next h =>
    split
    next => exact ⟨_, _, rfl, fun k => absurd k h, fun _ => List.mem_append_right _ (List.mem_singleton.2 rfl)⟩
    next hn => exact ⟨_, _, rfl, fun k => absurd k h, fun k => absurd k hn⟩

/-- A failed host read ends its stream's command, with its flag and its report (R337). -/
theorem hostReadFails_ends {s : State} {r : HostReq} {x : Stream} {o : Op} (st : HostStatus) (hx : findStream s r.sid = some x)
    (ho : findOp s x.op = some o) (hd : o.done = none) :
    ∃ o', findOp (hostReadFails s r st) x.op = some o' ∧ o'.done = some (if st = .poisoned then .hostPoison else .hostError) ∧
      (hostReadFails s r st).host.flags.getLsbD 6 = true ∧ (hostReadFails s r st).mem = s.mem ∧
      (st = .poisoned → .aer .poisonedTlp (s.host.cfg.aerSev.getLsbD 12) ∈ (hostReadFails s r st).out) ∧
      (st = .timeout → .aer .completionTimeout (s.host.cfg.aerSev.getLsbD 14) ∈ (hostReadFails s r st).out) := by
  obtain ⟨out, cfg, hf, hp, ht⟩ := hostFail_eq (dropHostReq s r.tag) st (some r.tag)
  have he : hostReadFails s r st = endOp (hostFail (dropHostReq s r.tag) st (some r.tag)) x.op
      (if st = .poisoned then .hostPoison else .hostError) true := by
    have hx' : findStream (hostFail (dropHostReq s r.tag) st (some r.tag)) r.sid = some x := by rw [hf]; exact hx
    unfold hostReadFails
    dsimp only
    rw [hx']
  rw [he]
  have ho' : findOp (hostFail (dropHostReq s r.tag) st (some r.tag)) x.op = some o := by rw [hf]; exact ho
  generalize hostFail (dropHostReq s r.tag) st (some r.tag) = u at hf ho'
  have he := endless_endOp u x.op (if st = .poisoned then .hostPoison else .hostError) true
  have hhost := eq_of_view endless State.host (fun _ => rfl) he
  have hout := eq_of_view endless State.out (fun _ => rfl) he
  have hmem := eq_of_view endless State.mem (fun _ => rfl) he
  refine ⟨_, findOp_endOp_same ho' hd _ _, rfl, ?_, ?_, fun h => ?_, fun h => ?_⟩
  · rw [hhost, hf]; simp
  · rw [hmem, hf]; rfl
  · rw [hout, hf]; exact hp h
  · rw [hout, hf]; exact ht h

/-- Settles O22: data goes to the stream that asked; every failure ends its command. -/
theorem hostAnswersReachTheirStream : Obligations.HostAnswersReachTheirStream := by
  unfold Obligations.HostAnswersReachTheirStream
  intro s tag r hup hr
  refine ⟨fun x data hx hkind hlen => ?_, fun x o data hx ho hd => ⟨?_, ?_, fun htime => ?_⟩⟩
  · have htake : data.take r.len ++ List.replicate (r.len - data.length) 0 = data := by
      rw [hlen, Nat.sub_self, List.replicate_zero, List.append_nil, ← hlen, List.take_length]
    have hx' : findStream (dropHostReq s tag) r.sid = some x := hx
    refine ⟨modStream (dropHostReq s tag) r.sid fun x => { x with buf := x.buf ++ data, rpos := x.rpos + data.length }, ?_, ?_, ?_, ?_⟩
    · simp only [exec, execHostCompletion, hup, hr, hx', takeBytes, hkind, htake]
      rfl
    · rw [findStream_modStream, if_pos rfl, hx', hlen]; rfl
    · exact congrArg HostIf.reqs (modStream_host ..)
    · exact modStream_mem ..
  · obtain ⟨o', h1, h2, h3, h4, h5, h6⟩ := hostReadFails_ends .poisoned hx ho hd
    exact ⟨_, o', by simp [exec, execHostCompletion, hup, hr], h1, h2, h3, h5 rfl, h4⟩
  · obtain ⟨o', h1, h2, h3, h4, h5, h6⟩ := hostReadFails_ends .ur hx ho hd
    exact ⟨_, o', by simp [exec, execHostCompletion, hup, hr], h1, h2, h3, h4⟩
  · obtain ⟨o', h1, h2, h3, h4, h5, h6⟩ := hostReadFails_ends .timeout hx ho hd
    have hc : (powered s && !(s.host.cfg.devCtl2.getLsbD 4)) = true := by rw [hup, htime]; rfl
    refine ⟨_, o', ?_, h1, h2, h6 rfl, h4⟩
    simp only [exec, execHostCompletionTimeout, hr]
    rw [if_pos hc]

end Sys2Proof.Machine

/-!
Commands of the queues (chapter 10): decode and start, completion, fence timeouts; the obligations O23 to O27.
-/

namespace Sys2Proof.Machine

open Sys2Proof

/-! ### What a read changes (R233 to R237, R255) -/

/-- A state without what a read that delivers its bytes can change: the DTC, counts of requests, corrected errors, queued scrubs. -/
def uncounted (s : State) : State := { s with
  xlate := Xlate.reset, corr := { s.corr with aud := [] },
  mem := { s.mem with flags := 0, larCe := 0, ceCnt := [], rowCe := [], scrubL := [], scrubC := [] },
  nvm := { s.nvm with frecSum := State.reset.nvm.frecSum } }

theorem uncounted_queueScrub (s : State) (g : Nat) : uncounted (queueScrub s g) = uncounted s := by
  unfold queueScrub
  repeat' split
  all_goals rfl

theorem uncounted_readGranule {s t : State} {env : Env} {src : Finder} {who : Option Nat} {g : Nat}
    (h : readGranule s env src who g = (t, false)) : uncounted t = uncounted s := by
  unfold readGranule at h
  dsimp only at h
  split at h
  · cases h
  · split at h
    · cases h
    · split at h
      · cases h
        rw [uncounted_queueScrub]
        rfl
      · cases h
        rfl

theorem uncounted_readGranules {env : Env} {src : Finder} {who : Option Nat} (gs : List Nat) (s : State)
    (h : (readGranules env src who gs s).2 = none) : uncounted (readGranules env src who gs s).1 = uncounted s := by
  induction gs generalizing s with
  | nil => rfl
  | cons g gs ih =>
    rw [readGranules] at h ⊢
    generalize hr : readGranule s env src who g = r at h ⊢
    obtain ⟨t, b⟩ := r
    cases b with
    | true => cases h
    | false => exact (ih t h).trans (uncounted_readGranule hr)

theorem uncounted_lookup (s : State) (ctx va : Nat) : uncounted (lookup s ctx va).1 = uncounted s := by
  unfold lookup
  split <;> rfl

theorem uncounted_translate (s : State) (ctx va : Nat) (write : Bool) : uncounted (translate s ctx va write).1 = uncounted s := by
  unfold translate
  split
  · rfl
  · exact uncounted_lookup ..

theorem uncounted_countReqs (s : State) (k : Nat) : uncounted (countReqs s k) = uncounted s := by
  have hpass (u : State) (q : Nat) : uncounted (audPass u q k) = uncounted u := by
    have ht : uncounted (audTake u q k) = uncounted u := rfl
    rw [← ht]
    rfl
  rw [countReqs, hpass, hpass]

theorem uncounted_readPiece {s t : State} {env : Env} {ctx va n : Nat} {bs : List Byte} (h : readPiece s env ctx va n = (t, .ok, bs)) :
    uncounted t = uncounted s := by
  have hx := uncounted_translate s ctx va false
  unfold readPiece at h
  split at h
  next => cases h
  next u m htr =>
    rw [htr] at hx
    refine Eq.trans ?_ hx
    dsimp only at h ⊢
    split at h
    · next pa _ =>
      have hr := uncounted_readGranules (env := env) (src := .dev) (who := some ctx) (granulesOf pa n) (countReqs u (txnCount pa n))
      unfold readPa at h
      dsimp only at h
      generalize readGranules env .dev (some ctx) (granulesOf pa n) (countReqs u (txnCount pa n)) = r at h hr
      obtain ⟨v, o⟩ := r
      cases o with
      | some g => cases h
      | none => cases h; exact (hr rfl).trans (uncounted_countReqs ..)
    · split at h
      · cases h; exact uncounted_countReqs ..
      · cases h
    · split at h
      · cases h; exact uncounted_countReqs ..
      · next hne => exact absurd (congrArg (fun r : State × Acc × List Byte => r.2.1) h) hne

theorem uncounted_readPieces {env : Env} {ctx : Nat} {bs : List Byte} {t : State} (ps : List (Nat × Nat)) (s : State) (acc : List Byte)
    (h : readPieces env ctx ps s acc = (t, .ok, bs)) : uncounted t = uncounted s := by
  induction ps generalizing s acc with
  | nil => cases h; rfl
  | cons p ps ih =>
    obtain ⟨va, n⟩ := p
    rw [readPieces] at h
    split at h
    next u b hp => exact (ih u _ h).trans (uncounted_readPiece hp)
    next u e b hne hp =>
      cases h
      exact absurd rfl hne

/-- A read that delivers its bytes changes counts and the DTC alone. -/
theorem uncounted_readVa {s t : State} {env : Env} {ctx va n : Nat} {bs : List Byte} (h : readVa s env ctx va n = (t, .ok, bs)) :
    uncounted t = uncounted s := uncounted_readPieces _ _ _ h

/-- A reservation without its tokens. -/
def Resv.unspent (r : Resv) : Resv := { r with tokens := 0 }

/-- A state without what any read can change: beside that, errors that it finds, their records and events, AER reports, reservation
tokens. -/
def unread (s : State) : State := { quiet s with
  xlate := Xlate.reset, corr := { s.corr with aud := [] },
  mem := { State.reset.mem with data := s.mem.data, resvs := s.mem.resvs.map Resv.unspent }, nvm := State.reset.nvm,
  thresh := State.reset.thresh, host := { State.reset.host with reqs := s.host.reqs } }

theorem unread_of_quiet {s t : State} (h : quiet t = quiet s) : unread t = unread s := (congrArg unread h :)
theorem unread_of_unrecorded {s t : State} (h : unrecorded t = unrecorded s) : unread t = unread s := (congrArg unread h :)
theorem unread_of_uncounted {s t : State} (h : uncounted t = uncounted s) : unread t = unread s := (congrArg unread h :)

theorem unread_addFrec (s : State) (kind unit index cause paddr ctx : Nat) : unread (addFrec s kind unit index cause paddr ctx) = unread s :=
  unread_of_unrecorded (unrecorded_addFrec ..)

theorem unread_raiseEvent (s : State) (type ctx a0 a1 : Nat) : unread (raiseEvent s type ctx a0 a1) = unread s :=
  unread_of_quiet (quiet_raiseEvent ..)

theorem unread_setPoison (s : State) (g : Nat) : unread (setPoison s g) = unread s := by unfold setPoison; split <;> rfl

theorem unread_retirePage (s : State) (page : Nat) : unread (retirePage s page) = unread s := by unfold retirePage; split <;> rfl

theorem unread_poisonedPage (s : State) (pa : Nat) : unread (poisonedPage s pa) = unread s := by
  unfold poisonedPage
  split
  · rfl
  · exact unread_retirePage ..

theorem unread_countUe (s : State) (pa : Nat) : unread (countUe s pa) = unread s := rfl
theorem unread_elog (s : State) (pa : Nat) (ctx : Option Nat) (src : Finder) : unread (elog s pa ctx src) = unread s := rfl
theorem unread_countCe (s : State) (pa : Nat) : unread (countCe s pa) = unread s := rfl

theorem unread_foundUe (s : State) (g : Nat) (src : Finder) (who : Option Nat) (event : Bool) :
    unread (foundUe s g src who event) = unread s := by
  unfold foundUe
  dsimp only
  rw [unread_poisonedPage]
  split
  · rw [unread_raiseEvent, unread_addFrec, unread_elog, unread_countUe, unread_setPoison]
  · rw [unread_addFrec, unread_elog, unread_countUe, unread_setPoison]

theorem unread_readGranule (s : State) (env : Env) (src : Finder) (who : Option Nat) (g : Nat) :
    unread (readGranule s env src who g).1 = unread s := by
  unfold readGranule
  dsimp only
  split
  · rfl
  · split
    · exact unread_foundUe ..
    · split
      · exact unread_of_uncounted (uncounted_queueScrub ..)
      · rfl

theorem unread_readGranules (env : Env) (src : Finder) (who : Option Nat) (gs : List Nat) (s : State) :
    unread (readGranules env src who gs s).1 = unread s := by
  induction gs generalizing s with
  | nil => rfl
  | cons g gs ih =>
    rw [readGranules]
    split
    · exact unread_readGranule ..
    · rw [ih, unread_readGranule]

theorem unread_readPa (s : State) (env : Env) (src : Finder) (who : Option Nat) (pa n : Nat) :
    unread (readPa s env src who pa n).1 = unread s := unread_readGranules ..

theorem unread_hostFail (s : State) (st : HostStatus) (tag : Option Nat) : unread (hostFail s st tag) = unread s := by
  obtain ⟨out, cfg, h, -⟩ := hostFail_eq s st tag
  rw [h]
  rfl

theorem unread_countReqs (s : State) (k : Nat) : unread (countReqs s k) = unread s := unread_of_uncounted (uncounted_countReqs ..)

theorem unread_translate (s : State) (ctx va : Nat) (write : Bool) : unread (translate s ctx va write).1 = unread s :=
  unread_of_uncounted (uncounted_translate ..)

theorem unread_readPiece (s : State) (env : Env) (ctx va n : Nat) : unread (readPiece s env ctx va n).1 = unread s := by
  have hx := unread_translate s ctx va false
  unfold readPiece
  split
  next htr => rw [htr] at hx; exact hx
  next u m htr =>
    rw [htr] at hx
    refine Eq.trans ?_ hx
    split
    · next pa _ =>
      have hr := unread_readPa (countReqs u (txnCount pa n)) env .dev (some ctx) pa n
      rw [unread_countReqs] at hr
      dsimp only
      split
      all_goals next he => rw [he] at hr; exact hr
    · dsimp only
      split
      · exact unread_countReqs ..
      · rw [unread_hostFail, unread_countReqs]
    · dsimp only
      split
      all_goals exact unread_countReqs ..

theorem unread_readPieces (env : Env) (ctx : Nat) (ps : List (Nat × Nat)) (s : State) (acc : List Byte) :
    unread (readPieces env ctx ps s acc).1 = unread s := by
  induction ps generalizing s acc with
  | nil => rfl
  | cons p ps ih =>
    obtain ⟨va, n⟩ := p
    have hp := unread_readPiece s env ctx va n
    rw [readPieces]
    split
    next he => rw [he] at hp; exact (ih ..).trans hp
    next he => rw [he] at hp; exact hp

@[simp] theorem unread_readVa (s : State) (env : Env) (ctx va n : Nat) : unread (readVa s env ctx va n).1 = unread s := unread_readPieces ..

theorem unread_spendCls (s : State) (ctx cls pa n : Nat) : unread (spendCls s ctx cls pa n) = unread s := by
  unfold spendCls
  split
  · split
    next r _ =>
      have hresvs (k : Nat) : (s.mem.resvs.map (fun u => if u.ctx = ctx ∧ u.cls = cls then { u with tokens := u.tokens - k } else u)).map
          Resv.unspent = s.mem.resvs.map Resv.unspent := by
        rw [List.map_map]
        refine List.map_congr_left fun u _ => ?_
        simp only [Function.comp_apply]
        split <;> rfl
      exact congrArg (fun rs => { unread s with mem := { (unread s).mem with resvs := rs } }) (hresvs _)
    · rfl
  · rfl

theorem unread_spendVa (s : State) (o : Op) (va n : Nat) : unread (spendVa s o va n) = unread s := by
  refine foldl_keeps unread (fun u e => ?_) (vaChunks va n) s
  split
  · split
    · exact unread_spendCls ..
    · rfl
  · rfl

@[simp] theorem unread_readOp (s : State) (env : Env) (o : Op) (va n : Nat) : unread (readOp s env o va n).1 = unread s := by
  rw [readOp, unread_readVa, unread_spendVa]

/-! ### What starts and losses make of the commands in flight -/

/-- The record with which an accepted REFINE command `c` begins its iteration (R215). -/
def BegunRef (c : Cmd) (r : RefineSt) : Prop :=
  ∃ rc x tiles, c = .refine rc ∧ x.length = rc.n ∧ r = refineInit x rc.n tiles

/-- A command that has gone on while `c` starts: what its entry says stays, what has started stays started, and an iteration
of REFINE is as it was or that of `c` begun. -/
structure GoneOn (c : Cmd) (o u : Op) : Prop where
  q : u.q = o.q
  idx : u.idx = o.idx
  hdr : u.hdr = o.hdr
  cmd : u.cmd = o.cmd
  ctx : u.ctx = o.ctx
  cls : u.cls = o.cls
  started : o.started = true → u.started = true
  refine : u.refine = o.refine ∨ ∃ r, u.refine = some r ∧ BegunRef c r

section
variable {c : Cmd}

theorem GoneOn.refl (o : Op) : GoneOn c o o := ⟨rfl, rfl, rfl, rfl, rfl, rfl, id, .inl rfl⟩
theorem GoneOn.trans {o u v : Op} (h : GoneOn c o u) (k : GoneOn c u v) : GoneOn c o v :=
  ⟨k.q.trans h.q, k.idx.trans h.idx, k.hdr.trans h.hdr, k.cmd.trans h.cmd, k.ctx.trans h.ctx, k.cls.trans h.cls,
    k.started ∘ h.started, k.refine.elim (fun e => h.refine.imp e.trans (Exists.imp fun _ hr => ⟨e.trans hr.1, hr.2⟩)) .inr⟩

/-- The commands in flight have gone on, none of them added or taken away. -/
def OpsGo (c : Cmd) (s t : State) : Prop := ∃ g, t.ops = s.ops.map g ∧ ∀ o, GoneOn c o (g o)

theorem OpsGo.of_eq {s t : State} (h : t.ops = s.ops) : OpsGo c s t := ⟨id, by rw [h, List.map_id], .refl⟩
theorem OpsGo.trans {s t u : State} : OpsGo c s t → OpsGo c t u → OpsGo c s u
  | ⟨f, hf, hgo⟩, ⟨g, hg, kgo⟩ => ⟨g ∘ f, by rw [hg, hf, List.map_map], fun o => (hgo o).trans (kgo _)⟩
theorem OpsGo.of_unread {s t : State} (h : unread t = unread s) : OpsGo c s t := .of_eq (eq_of_view unread State.ops (fun _ => rfl) h)
theorem OpsGo.modOp (s : State) (id : OpId) {f : Op → Op} (hf : ∀ o, GoneOn c o (f o)) : OpsGo c s (modOp s id f) :=
  ⟨fun o => if o.id = id then f o else o, rfl, fun o => by dsimp only; split <;> [exact hf o; exact .refl o]⟩
theorem OpsGo.endOp (s : State) (id : OpId) (st : Status) (aborted : Bool) : OpsGo c s (endOp s id st aborted) := by
  refine OpsGo.trans (t := if (findOp s id).any (fun o => o.done.isNone) then
    Machine.modOp s id (fun o => { o with armed := false, done := some st }) else s) ?_ (.of_eq ?_)
  · split
    · exact .modOp s id fun o => ⟨rfl, rfl, rfl, rfl, rfl, rfl, fun h => h, .inl rfl⟩
    · exact .of_eq rfl
  · rw [ops_endOp]
    split <;> rfl
theorem OpsGo.endOps (st : Status) (aborted : Bool) (ids : List OpId) (s : State) : OpsGo c s (endOps st aborted ids s) := by
  induction ids generalizing s with
  | nil => exact .of_eq rfl
  | cons id ids ih => exact (OpsGo.endOp s id st aborted).trans (ih _)

theorem GoneOn.id {o u : Op} (h : GoneOn c o u) : u.id = o.id := by rw [Op.id, Op.id, h.q, h.idx]

/-- A command that has gone on is found under its name. -/
theorem OpsGo.findOp {s t : State} (h : OpsGo c s t) (id : OpId) : ∃ g, findOp t id = (findOp s id).map g ∧ ∀ o, GoneOn c o (g o) := by
  obtain ⟨g, ht, hg⟩ := h
  refine ⟨g, ?_, hg⟩
  rw [Machine.findOp, ht]
  exact find?_map_of_pred (fun o => by rw [(hg o).id]) s.ops

theorem ops_dropResvs (s : State) (ctx : Nat) : (dropResvs s ctx).ops = s.ops := by
  have hf := foldl_keeps (g := fun u c => dropResv u ctx c) State.ops (fun _ _ => rfl) [0, 1, 2, 3] s
  unfold dropResvs
  generalize List.foldl (fun u c => dropResv u ctx c) s [0, 1, 2, 3] = u at hf
  exact (eq_of_view unreserved State.ops (fun _ => rfl) (unreserved_checkGuarantee u)).trans hf

theorem ops_clearRegion (s : State) (n : Nat) : (clearRegion s n).ops = s.ops := by unfold clearRegion; split <;> rfl

theorem ops_raiseEvent3 (s : State) (type ctx a0 a1 a2 : Nat) : (raiseEvent3 s type ctx a0 a1 a2).ops = s.ops :=
  eq_of_view quiet State.ops (fun _ => rfl) (quiet_raiseEvent3 ..)

theorem OpsGo.loseCtx3 (s : State) (n cause addr node : Nat) : OpsGo c s (loseCtx3 s n cause addr node) := by
  unfold Machine.loseCtx3
  split
  · exact .of_eq rfl
  · split
    · exact .of_eq rfl
    · dsimp only
      have hmod (u : State) : OpsGo c u { u with ops := u.ops.map (fun o => if o.ctx = n then { o with done := some .ctxLost } else o) } :=
        ⟨fun o => if o.ctx = n then { o with done := some .ctxLost } else o, rfl,
          fun o => by dsimp only; split <;> exact ⟨rfl, rfl, rfl, rfl, rfl, rfl, fun h => h, .inl rfl⟩⟩
      refine OpsGo.trans ?_ (.of_eq (ops_raiseEvent3 ..))
      refine OpsGo.trans ?_ (.of_eq (ops_clearRegion ..))
      refine OpsGo.trans ?_ (.of_eq (t := dropResvs _ n) rfl)
      refine OpsGo.trans ?_ (.of_eq (ops_dropResvs ..))
      refine OpsGo.trans ?_ (hmod _)
      refine OpsGo.trans ?_ (.endOps ..)
      refine OpsGo.trans (.of_eq ?_) (.of_eq rfl)
      exact modCtx_ops ..

theorem OpsGo.poisonRead (s0 s : State) (n pa : Nat) : OpsGo c s (poisonRead s0 s n pa) := by
  unfold Machine.poisonRead
  dsimp only
  split
  · exact (OpsGo.of_unread (unread_addFrec ..)).trans (.loseCtx3 ..)
  · exact .loseCtx3 ..

theorem OpsGo.farPoisonRead (s : State) (n node pa : Nat) : OpsGo c s (farPoisonRead s n node pa) :=
  (OpsGo.of_unread (unread_addFrec ..)).trans (.loseCtx3 ..)

theorem ops_farTimedOut (s : State) (node mtype : Nat) : (farTimedOut s node mtype).ops = s.ops := by
  refine (eq_of_view quiet State.ops (fun _ => rfl) (quiet_raiseEvent ..)).trans ?_
  rfl

theorem ops_showDw (s : State) (x : Stream) (st : Nat) : (showDw s x st).ops = s.ops := by unfold showDw; split <;> rfl

theorem ops_startOn (s : State) (sid d : Nat) : (startOn s sid d).ops = s.ops := by
  unfold startOn
  dsimp only
  split
  · rw [audTake_ops, ops_showDw, modDumb_ops, modStream_ops]; rfl
  · rw [modDumb_ops, modStream_ops]; rfl

theorem ops_haltStream (s : State) (sid : Nat) (c : FCode) (va : Nat) : (haltStream s sid c va).ops = s.ops := by
  have hpage (u : State) (x : Stream) : (pageFault u x).ops = u.ops := eq_of_view quiet State.ops (fun _ => rfl) (quiet_raiseEvent ..)
  unfold haltStream
  dsimp only
  split
  · exact modStream_ops ..
  · rw [hpage, ops_showDw]
    split
    · rw [modDumb_ops]
      split
      · rw [modWin_ops, modStream_ops]
      · rw [modPane, modWin_ops, modStream_ops]
      · exact modStream_ops ..
    · split
      · rw [modWin_ops, modStream_ops]
      · rw [modPane, modWin_ops, modStream_ops]
      · exact modStream_ops ..

theorem ops_studyFault (s : State) (o : Op) (slot : Nat) (c : FCode) (va : Nat) : (studyFault s o slot c va).ops = s.ops := by
  unfold studyFault
  dsimp only
  split
  · rfl
  · rw [ops_haltStream, ops_startOn]; rfl

/-- What follows an access of a command: nothing, its fault, its end or its context's loss; commands only go on. -/
theorem OpsGo.afterAccess {s0 s : State} {o : Op} {slot : Nat} {a : Acc} {k : State → State} (hk : ∀ u, OpsGo c u (k u)) :
    OpsGo c s (afterAccess s0 s o slot a k) := by
  unfold Machine.afterAccess
  split
  · exact hk s
  · exact .of_eq (ops_studyFault ..)
  · exact .poisonRead ..
  · exact .endOp ..
  · exact .farPoisonRead ..
  · exact (OpsGo.of_eq (ops_farTimedOut ..)).trans (.endOp ..)

/-! ### The start of a command (R364, R369, R370, R374) -/

theorem unread_tileHeads (env : Env) (o : Op) (n : Nat) (es : List TileEnt) (s : State) : unread (tileHeads env o n es s).1 = unread s := by
  induction es generalizing s with
  | nil => rfl
  | cons e es ih =>
    have hr := unread_readOp s env o e.img 24
    rw [tileHeads]
    split
    next u _ he =>
      rw [he] at hr
      have hi := ih u
      split
      · exact hr
      · split
        next hi' => rw [hi'] at hi; exact hi.trans hr
        next => exact hi.trans hr
    next he => rw [he] at hr; exact hr

theorem unread_csrCheck (s : State) (env : Env) (o : Op) (c : RefCmd) : unread (csrCheck s env o c).1 = unread s := by
  have hr := unread_readOp s env o c.rowPtr (4 * (c.n + 1))
  unfold csrCheck
  split
  · rfl
  · split
    next u bs he =>
      rw [he] at hr
      dsimp only
      split
      · exact hr
      · have hc := unread_readOp u env o (c.colIdx + 4 * (rowPtrs bs c.n).headD 0)
          (4 * ((rowPtrs bs c.n).getLastD 0 - (rowPtrs bs c.n).headD 0))
        split
        all_goals next he' => rw [he'] at hc; exact hc.trans hr
    next he => rw [he] at hr; exact hr

theorem OpsGo.refineStart (s : State) (env : Env) (o : Op) (rc : RefCmd) : OpsGo (.refine rc) s (refineStart s env o rc) := by
  have hbad (u : State) (d : Nat) : OpsGo (.refine rc) u (Machine.modOp u o.id fun o => { o with started := true, done := some .invalid, detail := d }) :=
    .modOp _ _ fun _ => ⟨rfl, rfl, rfl, rfl, rfl, rfl, fun _ => rfl, .inl rfl⟩
  have hend (u v : State) (a : Acc) : OpsGo (.refine rc) v (Machine.afterAccess u v o startSlot a id) := .afterAccess fun _ => .of_eq rfl
  have h1 := unread_readOp s env o rc.mtAddr (24 * rc.mTiles)
  unfold Machine.refineStart
  dsimp only
  split
  next u bs he =>
    rw [he] at h1
    refine (OpsGo.of_unread h1).trans ?_
    split
    · exact hbad ..
    · have h2 := unread_tileHeads env o rc.n (tileEnts bs rc.mTiles) u
      split
      next hh => rw [hh] at h2; exact (OpsGo.of_unread h2).trans (hbad ..)
      next v ids hh =>
        rw [hh] at h2
        refine (OpsGo.of_unread h2).trans ?_
        have h3 := unread_csrCheck v env o rc
        split
        next hc => rw [hc] at h3; exact (OpsGo.of_unread h3).trans (hbad ..)
        next w hc =>
          rw [hc] at h3
          refine (OpsGo.of_unread h3).trans ?_
          refine OpsGo.trans (OpsGo.of_unread ?_) (.afterAccess fun _ => .modOp _ _ fun _ =>
            ⟨rfl, rfl, rfl, rfl, rfl, rfl, fun _ => rfl, .inr ⟨_, rfl, rc, _, _, rfl, by rw [List.length_map, List.length_range], rfl⟩⟩)
          split
          · rfl
          · exact unread_readOp ..
        next hc => rw [hc] at h3; exact (OpsGo.of_unread h3).trans (hend ..)
      next hh => rw [hh] at h2; exact (OpsGo.of_unread h2).trans (hend ..)
  next he => rw [he] at h1; exact (OpsGo.of_unread h1).trans (hend ..)

theorem OpsGo.testFences (s : State) : OpsGo c s (testFences s) := by
  unfold Machine.testFences
  dsimp only
  split
  · exact .of_eq rfl
  · exact ⟨_, rfl, fun o => by split <;> exact ⟨rfl, rfl, rfl, rfl, rfl, rfl, fun h => h, .inl rfl⟩⟩

theorem OpsGo.armWait (s : State) (o : Op) : OpsGo c s (armWait s o) := by
  unfold Machine.armWait
  split
  · refine (OpsGo.modOp s o.id (f := endWait .fenceTimeout) fun _ => ⟨rfl, rfl, rfl, rfl, rfl, rfl, fun h => h, .inl rfl⟩).trans (.of_eq ?_)
    exact (modQueue_ops ..).trans rfl
  · exact ((OpsGo.modOp s o.id (f := fun o => { o with armed := true }) fun _ => ⟨rfl, rfl, rfl, rfl, rfl, rfl, fun h => h, .inl rfl⟩).trans
      (.of_eq rfl)).trans (.testFences _)

end

/-- The start of a command's work keeps every command in flight. -/
theorem OpsGo.beginOp (s : State) (env : Env) (o : Op) : OpsGo o.cmd s (beginOp s env o) := by
  have hmod (u : State) {c : Cmd} {f : Op → Op} (hf : ∀ o, GoneOn c o (f o)) := OpsGo.modOp u o.id hf
  unfold Machine.beginOp
  split
  · refine (OpsGo.of_unread (unread_readOp ..)).trans (.afterAccess fun u => hmod u fun o => ?_)
    split <;> exact ⟨rfl, rfl, rfl, rfl, rfl, rfl, fun h => h, .inl rfl⟩
  · exact .of_eq rfl
  · exact .of_eq rfl
  · exact .of_eq rfl
  · unfold studyStart
    split
    · exact hmod _ fun _ => ⟨rfl, rfl, rfl, rfl, rfl, rfl, fun h => h, .inl rfl⟩
    · split
      · exact hmod _ fun _ => ⟨rfl, rfl, rfl, rfl, rfl, rfl, fun h => h, .inl rfl⟩
      · exact (OpsGo.of_unread (unread_readOp ..)).trans (.afterAccess fun u => hmod u fun _ => ⟨rfl, rfl, rfl, rfl, rfl, rfl, fun h => h, .inl rfl⟩)
  · split
    · exact hmod _ fun _ => ⟨rfl, rfl, rfl, rfl, rfl, rfl, fun h => h, .inl rfl⟩
    next hcmd _ => rw [hcmd]; exact .refineStart ..
  · exact .of_eq rfl
  · exact .of_eq rfl
  · exact .armWait ..
  · exact hmod _ fun _ => ⟨rfl, rfl, rfl, rfl, rfl, rfl, fun h => h, .inl rfl⟩

theorem OpsGo.startOp (s : State) (env : Env) (o : Op) : OpsGo o.cmd s (startOp s env o) :=
  (OpsGo.modOp s o.id (f := fun o => { o with started := true }) fun _ => ⟨rfl, rfl, rfl, rfl, rfl, rfl, fun _ => rfl, .inl rfl⟩).trans (.beginOp ..)

/-! ### A decode on an idle queue (R361 to R367) -/

theorem queueRow_due {s : State} {env : Env} {n : Nat} {q : Queue} {s1 : State} {b : List Byte} {mine : Nat → Bool} (h : Due s env n q s1 b)
    (hm : mine (field b 0 1) = true) : queueRow mine n env s =
      runQueue n env (decoded s s1 n q (mkOp n q (parseHdr b) (parseCmd b) (decodeCheck s n q.ctx b))) := by
  obtain ⟨hq, hup, hready, htrip, hdec, hgrant, hturn, hentry⟩ := h
  have hfree : (queueReady s n q && tokenFree s q.cls) = true := hdec
  have hwait : opWait s n q = s := by
    simp only [Bool.and_eq_true] at hfree
    unfold opWait
    rw [hfree.2, Bool.not_true, Bool.and_false, Bool.false_and, if_neg (by decide)]
  have hentry' : decodeEntry s env n q mine =
      decoded s s1 n q (mkOp n q (parseHdr b) (parseCmd b) (decodeCheck s n q.ctx b)) := by
    unfold decodeEntry
    rw [hentry]
    exact if_pos hm
  unfold queueRow
  rw [hq]
  dsimp only
  rw [hwait, hup, hready, htrip, hdec, hgrant, decide_eq_true hturn, if_neg (by decide), if_pos (by decide), hentry']

/-- A state without what a decode changes. -/
def undecoded (s : State) : State := { uncounted s with ops := [], queues := [], corr := Corridor.reset }

theorem undecoded_decoded {s s1 : State} (h : uncounted s1 = uncounted s) (n : Nat) (q : Queue) (o : Op) :
    undecoded (decoded s s1 n q o) = undecoded s := by
  have h1 : undecoded s1 = undecoded s := (congrArg undecoded h :)
  rw [← h1]
  unfold decoded
  dsimp only
  rw [modQueue_frame]
  rfl

theorem ops_decoded {s s1 : State} (h : uncounted s1 = uncounted s) (n : Nat) (q : Queue) (o : Op) :
    (decoded s s1 n q o).ops = s.ops ++ [o] := by
  have h1 : s1.ops = s.ops := eq_of_view uncounted State.ops (fun _ => rfl) h
  unfold decoded
  dsimp only
  rw [modQueue_frame, ← h1]
  rfl

theorem queueOf_decoded {s s1 : State} (h : uncounted s1 = uncounted s) {n : Nat} {q : Queue} (hq : queueOf s n = some q) (o : Op) :
    queueOf (decoded s s1 n q o) n = some { q with head := (q.head + 1) % 65536 } := by
  have h1 : queueOf s1 n = some q := (eq_of_view uncounted (fun u => queueOf u n) (fun _ => rfl) h).trans hq
  have hm := queueOf_modQueue { s1 with
    ops := s1.ops ++ [o], corr := { s1.corr with seqPtr := bankPut s1.corr.seqPtr (4 * (n % 8) + q.cls) ((n + 8) % 256) } } n n
    (fun q => { q with head := (q.head + 1) % 65536 })
  rw [if_pos rfl] at hm
  have hsame : (decoded s s1 n q o).queues = (modQueue { s1 with
    ops := s1.ops ++ [o], corr := { s1.corr with seqPtr := bankPut s1.corr.seqPtr (4 * (n % 8) + q.cls) ((n + 8) % 256) } } n
    (fun q => { q with head := (q.head + 1) % 65536 })).queues := by
    unfold decoded arbCount
    dsimp only
    rw [audTake_queues]
  rw [queueOf, hsame]
  refine Eq.trans hm ?_
  rw [show queueOf { s1 with ops := s1.ops ++ [o], corr := _ } n = some q from h1]
  rfl

/-- With one command of the queue to start, and leave to start it, the row starts it and no other. -/
theorem runQueue_one {D : State} {n : Nat} (env : Env) {pre : List Op} {o : Op} (hops : D.ops = pre ++ [o]) (hpre : ∀ u ∈ pre, u.q ≠ n)
    (hq : o.q = n) (hnew : o.started = false) (hd : o.done = none) (hmay : mayStart D o = true) :
    runQueue n env D = startOp D env o := by
  have hid (u : Op) (hu : u ∈ pre) : u.id ≠ o.id := fun e => hpre u hu ((congrArg Prod.fst e).trans hq)
  have hretry : retryBegin n env D = D := by
    have hnil : D.ops.filter (fun u => decide (u.q = n) && needsBegin u && !(studyHalted D u.id startSlot)) = [] := by
      rw [hops, List.filter_append, List.append_eq_nil_iff]
      refine ⟨List.filter_eq_nil_iff.2 fun u hu => by simp [hpre u hu], List.filter_eq_nil_iff.2 fun u hu => ?_⟩
      rw [List.mem_singleton.1 hu]
      simp [needsBegin, hnew]
    rw [retryBegin, hnil]
    rfl
  have hnext : nextStart D n = some o := by
    have hone : D.ops.filter (fun u => decide (u.q = n) && !u.started && u.done.isNone) = [o] := by
      rw [hops, List.filter_append, List.filter_eq_nil_iff.2 fun u hu => by simp [hpre u hu]]
      simp [hq, hnew, hd]
    rw [nextStart, hone]
    rfl
  have hlast : nextStart (startOp D env o) n = none := by
    obtain ⟨g, hg, hgo⟩ := OpsGo.beginOp (modOp D o.id fun o => { o with started := true }) env { o with started := true }
    have hnil : (startOp D env o).ops.filter (fun u => decide (u.q = n) && !u.started && u.done.isNone) = [] := by
      rw [startOp, hg]
      refine List.filter_eq_nil_iff.2 fun u hu => ?_
      obtain ⟨v, hv, rfl⟩ := List.mem_map.1 hu
      obtain ⟨w, hw, rfl⟩ := List.mem_map.1 hv
      rw [hops] at hw
      rcases List.mem_append.1 hw with hw | hw
      · rw [if_neg (hid w hw), (hgo w).q]
        simp [hpre w hw]
      · obtain rfl := List.mem_singleton.1 hw
        rw [if_pos rfl, (hgo _).started rfl]
        simp
    rw [nextStart, hnil]
    rfl
  rw [runQueue, hretry, startGo, hnext]
  dsimp only
  rw [if_pos hmay, startGo, hlast]

/-- A command may start where its queue is active and holds no other command (R364). -/
theorem mayStart_alone {D : State} {n : Nat} {q : Queue} {pre : List Op} {o : Op} (hops : D.ops = pre ++ [o]) (hpre : ∀ u ∈ pre, u.q ≠ n)
    (hq : o.q = n) (hqueue : queueOf D n = some q) (hactive : q.state = .active) : mayStart D o = true := by
  have hbefore : before D o = [] := by
    rw [before, hops, List.filter_append, List.append_eq_nil_iff]
    refine ⟨List.filter_eq_nil_iff.2 fun u hu => by simp [hq, hpre u hu], List.filter_eq_nil_iff.2 fun u hu => ?_⟩
    rw [List.mem_singleton.1 hu]
    simp [idxBefore]
  have hheld : startsHeld D o.q = false := by
    rw [startsHeld, hq, hqueue, Option.any_some, hactive]
    rfl
  unfold mayStart
  dsimp only
  rw [hbefore, hheld]
  cases o.cmd <;> simp

/-- An accepted command on an idle queue: the row decodes it and starts it. -/
structure Accepted (s : State) (env : Env) (n : Nat) (q : Queue) (s1 : State) (b : List Byte) : Prop where
  due : Due s env n q s1 b
  idle : ∀ u ∈ s.ops, u.q ≠ n
  check : decodeCheck s n q.ctx b = none

/-- The part with the command decoded, and marked as started. -/
def acceptedOp (s s1 : State) (n : Nat) (q : Queue) (b : List Byte) : State :=
  modOp (decoded s s1 n q (mkOp n q (parseHdr b) (parseCmd b) none)) (n, q.head) fun o => { o with started := true }

theorem Accepted.row {s : State} {env : Env} {n : Nat} {q : Queue} {s1 : State} {b : List Byte} (h : Accepted s env n q s1 b)
    {mine : Nat → Bool} (hm : mine (field b 0 1) = true) : queueRow mine n env s =
      beginOp (acceptedOp s s1 n q b) env { mkOp n q (parseHdr b) (parseCmd b) none with started := true } := by
  have hr := uncounted_readVa h.due.entry
  have hops := ops_decoded hr n q (mkOp n q (parseHdr b) (parseCmd b) none)
  have hqueue := queueOf_decoded hr h.due.queue (mkOp n q (parseHdr b) (parseCmd b) none)
  have hactive : q.state = .active := by
    have hdec := h.due.dec
    simp only [decodable, queueReady, Bool.and_eq_true, decide_eq_true_eq] at hdec
    exact hdec.1.1.1.1.1.1
  rw [queueRow_due h.due hm, h.check]
  exact runQueue_one env hops h.idle rfl rfl rfl (mayStart_alone hops h.idle rfl hqueue hactive)

theorem Accepted.same {s : State} {env : Env} {n : Nat} {q : Queue} {s1 : State} {b : List Byte} (h : Accepted s env n q s1 b) :
    undecoded (acceptedOp s s1 n q b) = undecoded s := (undecoded_decoded (uncounted_readVa h.due.entry) n q _ :)

theorem findOp_append {l : List Op} {o : Op} (h : ∀ u ∈ l, u.id ≠ o.id) : (l ++ [o]).find? (fun u => decide (u.id = o.id)) = some o := by
  rw [List.find?_append, List.find?_eq_none.2 fun u hu => by simp [h u hu]]
  simp

/-- The command in flight, before its work begins. -/
theorem Accepted.findOp {s : State} {env : Env} {n : Nat} {q : Queue} {s1 : State} {b : List Byte} (h : Accepted s env n q s1 b) :
    findOp (acceptedOp s s1 n q b) (n, q.head) = some { mkOp n q (parseHdr b) (parseCmd b) none with started := true } := by
  have hops := ops_decoded (uncounted_readVa h.due.entry) n q (mkOp n q (parseHdr b) (parseCmd b) none)
  have hf : Machine.findOp (decoded s s1 n q (mkOp n q (parseHdr b) (parseCmd b) none)) (n, q.head) =
      some (mkOp n q (parseHdr b) (parseCmd b) none) := by
    rw [Machine.findOp, hops]
    exact findOp_append (o := mkOp n q (parseHdr b) (parseCmd b) none) fun u hu e => h.idle u hu (congrArg Prod.fst e)
  rw [acceptedOp, findOp_modOp (f := fun o => { o with started := true }) (fun _ => rfl), if_pos rfl, hf]
  rfl

/-! ### The obligation O24 -/

theorem findStream_addStream (s : State) (x : Stream) : findStream (addStream s x) s.nextSid = some x := bankFind_put_same ..

theorem Accepted.stream {s : State} {env : Env} {n : Nat} {q : Queue} {s1 : State} {b : List Byte} (h : Accepted s env n q s1 b) (x : Stream) :
    findStream (addStream (acceptedOp s s1 n q b) x) s.nextSid = some x := by
  have hsid : (acceptedOp s s1 n q b).nextSid = s.nextSid := eq_of_view undecoded State.nextSid (fun _ => rfl) h.same
  rw [← hsid]
  exact findStream_addStream ..

/-- The opcode of a command (Table 10.3); no entry with a body has that of NOP. -/
def Cmd.opcode : Cmd → Nat
  | .window _ => 1
  | .imageLoad _ _ _ => 2
  | .slotRead _ _ _ _ _ _ => 3
  | .slotWrite _ _ _ _ _ _ => 4
  | .study _ _ _ _ _ => 5
  | .refine _ => 6
  | .copy _ _ _ _ _ _ => 7
  | .fill _ _ _ _ => 8
  | .fenceWait _ _ _ => 9
  | .nop => 10

theorem opcode_parseCmd {b : List Byte} {c : Cmd} (h : parseCmd b = c) (hc : c ≠ .nop) : field b 0 1 = c.opcode := by
  subst h
  revert hc
  unfold parseCmd
  dsimp only
  generalize field b 0 1 = k
  split
  all_goals intro hc
  all_goals first | rfl | exact absurd rfl hc

/-- Settles O24: the row starts the command, whose work is one stream. -/
theorem acceptedTransfersGetTheirStream : Obligations.AcceptedTransfersGetTheirStream := by
  unfold Obligations.AcceptedTransfersGetTheirStream
  intro s env n q s1 b hdue hidle hcheck
  have h : Accepted s env n.val q s1 b := ⟨hdue, hidle, hcheck⟩
  refine ⟨fun addr w p hp => ?_, fun tile met w slot sr f hp => ?_, fun tile met w slot sr f hp => ?_,
    fun src dst rl nr ss ds hp => ?_, fun dst rl nr ds hp => ?_⟩
  all_goals
    have hcode := opcode_parseCmd hp Cmd.noConfusion
    have hrow {mine : Nat → Bool} (hm : mine (field b 0 1) = true) := h.row hm
    rw [hp, beginOp] at hrow
    dsimp only at hrow
  · exact ⟨_, _, congrArg Host.Outcome.next (hrow (decide_eq_true hcode)), h.stream _, rfl, rfl, rfl, rfl, Nat.mul_one imageBytes, rfl, rfl, rfl, rfl⟩
  · exact ⟨_, _, congrArg Host.Outcome.next (hrow (decide_eq_true hcode)), h.stream _, rfl, rfl, rfl, rfl, rfl⟩
  · exact ⟨_, _, congrArg Host.Outcome.next (hrow (decide_eq_true hcode)), h.stream _, rfl, rfl, rfl, rfl, rfl, by simp⟩
  · exact ⟨_, _, congrArg Host.Outcome.next (hrow (decide_eq_true hcode)), h.stream _, rfl, rfl, rfl, rfl, rfl, rfl, rfl, rfl, rfl, rfl⟩
  · exact ⟨_, _, congrArg Host.Outcome.next (hrow (decide_eq_true hcode)), h.stream _, rfl, rfl, rfl, rfl, rfl, rfl, rfl, rfl⟩

/-! ### The obligation O25 -/

/-- Testing the armed waits ends those that are met. -/
theorem findOp_testFences (s : State) (id : OpId) :
    findOp (testFences s) id = (findOp s id).map fun o => if o.armed && waitMet s o then endWait .ok o else o := by
  have hid (o : Op) : decide ((if o.armed && waitMet s o then endWait .ok o else o).id = id) = decide (o.id = id) := by split <;> rfl
  unfold testFences
  dsimp only
  split
  next hnone =>
    cases ho : findOp s id with
    | none => rfl
    | some o =>
      have hmem := List.mem_of_find?_eq_some ho
      have hmet : (o.armed && waitMet s o) = false := by
        cases hm : (o.armed && waitMet s o) with
        | false => rfl
        | true =>
          rw [List.isEmpty_iff, List.filter_eq_nil_iff] at hnone
          exact absurd hm (hnone o hmem)
      rw [Option.map_some, hmet]
      rfl
  next => exact find?_map_of_pred hid s.ops

theorem min?_none {l : List Nat} (h : l.min?.map (fun d => (Status.invalid, d)) = none) : l = [] := by
  rw [Option.map_eq_none_iff, List.min?_eq_none_iff] at h
  exact h

/-- The body of an accepted command is valid. -/
theorem bodyBad_nil {s : State} {n ctx : Nat} {b : List Byte} (h : decodeCheck s n ctx b = none) : bodyBad s n ctx b = [] := by
  unfold decodeCheck at h
  dsimp only at h
  split at h
  · cases h
  · split at h
    · cases h
    · split at h
      · cases h
      · exact (List.append_eq_nil_iff.1 (min?_none h)).2

/-- The kernel of an accepted STUDY command is loaded (R367). -/
theorem kernel_of_accepted {s : State} {n ctx : Nat} {b : List Byte} {k : Word} {ni arg len : Nat} {rm : RMode}
    (h : decodeCheck s n ctx b = none) (hp : parseCmd b = .study k ni arg len rm) :
    ∃ code, (ctxOf s ctx).bind (fun c => bankFind c.kernels k.toNat) = some code := by
  have hb := bodyBad_nil h
  unfold bodyBad at hb
  rw [hp] at hb
  cases hk : (ctxOf s ctx).bind (fun c => bankFind c.kernels k.toNat) with
  | some code => exact ⟨code, rfl⟩
  | none => simp [hk, badIf] at hb

/-- The started command of an accepted entry. -/
def begun0 (n : Nat) (q : Queue) (b : List Byte) : Op := { mkOp n q (parseHdr b) (parseCmd b) none with started := true }

/-- What a start may leave of the command: it is still there, as its entry says, and started. -/
theorem Accepted.begins {s : State} {env : Env} {n : Nat} {q : Queue} {s1 : State} {b : List Byte} (h : Accepted s env n q s1 b)
    {c : Cmd} {t : State} (ht : OpsGo c (acceptedOp s s1 n q b) t) : ∃ o, Machine.findOp t (n, q.head) = some o ∧ o.started = true ∧
      ∀ r, o.refine = some r → BegunRef c r := by
  obtain ⟨g, hf, hg⟩ := ht.findOp (n, q.head)
  rw [h.findOp] at hf
  refine ⟨_, hf, (hg _).started rfl, fun r hr => ?_⟩
  rcases (hg _).refine with hold | ⟨r', hr', hbegun⟩
  · exact absurd (hr.symm.trans hold) nofun
  · exact Option.some.inj (hr.symm.trans hr') ▸ hbegun

theorem findOp_done {u : State} {id : OpId} {o : Op} (h : findOp u id = some o) {f : Op → Op} (hf : ∀ o, (f o).id = o.id) :
    findOp (modOp u id f) id = some (f o) := by rw [findOp_modOp hf, if_pos rfl, h]; rfl

/-- A NOP that starts is done; a fence wait arms and is tested (R369, R374). -/
theorem Accepted.armWait {s : State} {env : Env} {n : Nat} {q : Queue} {s1 : State} {b : List Byte} {va lim : Nat} {val : Long}
    (h : Accepted s env n q s1 b) (hp : parseCmd b = .fenceWait va val lim) :
    let t := armWait (acceptedOp s s1 n q b) (begun0 n q b)
    (∃ o, Machine.findOp t (n, q.head) = some o ∧
      (if (match fenceWord s q.ctx va with | some v => decide (val.toNat ≤ v) | none => false) = true
        then o.done = some .ok ∧ o.armed = false else o.done = none ∧ o.armed = true)) ∧
    t.streams = s.streams ∧ t.windows = s.windows := by
  have hqueue : queueOf (acceptedOp s s1 n q b) n = some { q with head := (q.head + 1) % 65536 } :=
    queueOf_decoded (uncounted_readVa h.due.entry) h.due.queue _
  have hdying : q.dying = false := by
    have hdec := h.due.dec
    simp only [decodable, queueReady, Bool.and_eq_true, Bool.not_eq_true'] at hdec
    exact hdec.1.1.1.1.2
  have hword : fenceWord (acceptedOp s s1 n q b) q.ctx va = fenceWord s q.ctx va :=
    eq_of_view undecoded (fun u => fenceWord u q.ctx va) (fun _ => rfl) h.same
  have hstreams : (acceptedOp s s1 n q b).streams = s.streams := eq_of_view undecoded State.streams (fun _ => rfl) h.same
  have hwindows : (acceptedOp s s1 n q b).windows = s.windows := eq_of_view undecoded State.windows (fun _ => rfl) h.same
  have hop := h.findOp
  generalize acceptedOp s s1 n q b = u at hqueue hword hstreams hwindows hop
  dsimp only
  have harm : Machine.armWait u (begun0 n q b) = testFences (audTake (modOp u (n, q.head) fun o => { o with armed := true }) 4 1) := by
    refine if_neg ?_
    rw [show queueOf u (begun0 n q b).q = _ from hqueue, Option.any_some, hdying]
    exact Bool.false_ne_true
  rw [harm]
  obtain ⟨ops, corr, hframe⟩ := testFences_frame (audTake (modOp u (n, q.head) fun o => { o with armed := true }) 4 1)
  refine ⟨?_, by rw [hframe]; exact hstreams, by rw [hframe]; exact hwindows⟩
  have hf : Machine.findOp (audTake (modOp u (n, q.head) fun o => { o with armed := true }) 4 1) (n, q.head) =
      some { begun0 n q b with armed := true } := findOp_done hop (f := fun o => { o with armed := true }) fun _ => rfl
  have hmet : waitMet (audTake (modOp u (n, q.head) fun o => { o with armed := true }) 4 1) { begun0 n q b with armed := true } =
      (match fenceWord s q.ctx va with | some v => decide (val.toNat ≤ v) | none => false) := by
    rw [← hword]
    unfold waitMet
    rw [show ({ begun0 n q b with armed := true } : Op).cmd = .fenceWait va val lim from hp]
    rfl
  rw [findOp_testFences, hf, Option.map_some, hmet]
  refine ⟨_, rfl, ?_⟩
  generalize (match fenceWord s q.ctx va with | some v => decide (val.toNat ≤ v) | none => false) = met
  cases met <;> exact ⟨rfl, rfl⟩

theorem beginOp_study {s : State} {env : Env} {o : Op} {k : Word} {ni arg len : Nat} {rm : RMode} (h : o.cmd = .study k ni arg len rm) :
    beginOp s env o = studyStart s env o k arg len := by rw [beginOp, h]
theorem beginOp_refine {s : State} {env : Env} {o : Op} {c : RefCmd} (h : o.cmd = .refine c) : beginOp s env o =
    if s.study.coreOk = 0 then modOp s o.id (fun o => { o with done := some .noStudy }) else refineStart s env o c := by rw [beginOp, h]
theorem beginOp_window {s : State} {env : Env} {o : Op} {c : WinCmd} (h : o.cmd = .window c) :
    beginOp s env o = windowStart s env o c := by rw [beginOp, h]

/-- The started command stands in the part after a read of its. -/
theorem Accepted.findOp_read {s : State} {env : Env} {n : Nat} {q : Queue} {s1 : State} {b : List Byte} (h : Accepted s env n q s1 b)
    (o : Op) (va k : Nat) : Machine.findOp (readOp (acceptedOp s s1 n q b) env o va k).1 (n, q.head) = some (begun0 n q b) :=
  (eq_of_view unread (fun u => Machine.findOp u (n, q.head)) (fun _ => rfl) (unread_readOp ..)).trans h.findOp

/-- An accepted STUDY takes its kernel and its argument block, or ends NO_STUDY (R214). -/
theorem Accepted.study {s : State} {env : Env} {n : Nat} {q : Queue} {s1 : State} {b : List Byte} {k : Word} {ni arg len : Nat}
    {rm : RMode} (h : Accepted s env n q s1 b) (hp : parseCmd b = .study k ni arg len rm) :
    ∃ o, Machine.findOp (studyStart (acceptedOp s s1 n q b) env (begun0 n q b) k arg len) (n, q.head) = some o ∧ o.started = true ∧
      (s.study.coreOk = 0 → o.done = some .noStudy) ∧
      (∀ code c s2 args, s.study.coreOk ≠ 0 → ctxOf s q.ctx = some c → bankFind c.kernels k.toNat = some code →
        readOp (acceptedOp s s1 n q b) env (begun0 n q b) arg len = (s2, .ok, args) →
        o.done = none ∧ o.kernel = code ∧ o.args = args) := by
  obtain ⟨code, hk⟩ := kernel_of_accepted h.check hp
  have hctx : ctxOf (acceptedOp s s1 n q b) q.ctx = ctxOf s q.ctx :=
    eq_of_view undecoded (fun u => ctxOf u q.ctx) (fun _ => rfl) h.same
  have hcores : (acceptedOp s s1 n q b).study.coreOk = s.study.coreOk :=
    eq_of_view undecoded (fun u => u.study.coreOk) (fun _ => rfl) h.same
  have hread := h.findOp_read (begun0 n q b) arg len
  unfold studyStart
  rw [show (begun0 n q b).ctx = q.ctx from rfl, hctx, hk]
  dsimp only
  by_cases hzero : s.study.coreOk = 0
  · rw [if_pos (hcores.trans hzero)]
    exact ⟨_, findOp_done h.findOp fun _ => rfl, rfl, fun _ => rfl, fun _ _ _ _ hne => absurd hzero hne⟩
  · rw [if_neg (hcores ▸ hzero)]
    rcases hr : readOp (acceptedOp s s1 n q b) env (begun0 n q b) arg len with ⟨u, a, bs⟩
    rw [hr] at hread
    by_cases ha : a = .ok
    · subst ha
      refine ⟨_, findOp_done hread (f := fun o => { o with args := bs, kernel := code }) fun _ => rfl, rfl, fun e => absurd e hzero, ?_⟩
      intro code' c s2 args _ hc hcode he
      rw [hc, Option.bind_some, hcode] at hk
      exact ⟨rfl, (Option.some.inj hk).symm, (congrArg (fun r => r.2.2) he :)⟩
    · have hgo : OpsGo .nop (acceptedOp s s1 n q b) (afterAccess (acceptedOp s s1 n q b) u (begun0 n q b) startSlot a
          fun s => modOp s (begun0 n q b).id fun o => { o with args := bs, kernel := code }) :=
        (OpsGo.of_unread ((congrArg (fun r => unread r.1) hr).symm.trans (unread_readOp ..))).trans
          (.afterAccess fun u => .modOp _ _ (f := fun o => { o with args := bs, kernel := code })
            fun _ => ⟨rfl, rfl, rfl, rfl, rfl, rfl, fun h => h, .inl rfl⟩)
      obtain ⟨o, ho, hs, -⟩ := h.begins hgo
      exact ⟨o, ho, hs, fun e => absurd e hzero, fun _ _ _ _ _ _ _ he => absurd (congrArg (fun r => r.2.1) he) ha⟩

/-- An accepted WINDOW takes its image list, or ends INVALID where an address of it is misaligned (R364, R370). -/
theorem Accepted.window {s : State} {env : Env} {n : Nat} {q : Queue} {s1 : State} {b : List Byte} (h : Accepted s env n q s1 b)
    (c : WinCmd) :
    ∃ o, Machine.findOp (windowStart (acceptedOp s s1 n q b) env (begun0 n q b) c) (n, q.head) = some o ∧ o.started = true ∧
      (∀ s2 bs, readOp (acceptedOp s s1 n q b) env (begun0 n q b) c.imgList (16 * c.kCount) = (s2, .ok, bs) →
        if (imgEntries bs c.kCount).any (fun e => decide (e.2 % 256 ≠ 0)) then o.done = some .invalid ∧ o.detail = 24
        else o.done = none ∧ o.imgs = imgEntries bs c.kCount) := by
  have hread := h.findOp_read (begun0 n q b) c.imgList (16 * c.kCount)
  unfold windowStart
  rcases hr : readOp (acceptedOp s s1 n q b) env (begun0 n q b) c.imgList (16 * c.kCount) with ⟨u, a, bs⟩
  rw [hr] at hread
  by_cases ha : a = .ok
  · subst ha
    refine ⟨_, findOp_done hread (f := fun o => if (imgEntries bs c.kCount).any (fun e => decide (e.2 % 256 ≠ 0))
      then { o with done := some .invalid, detail := 24 } else { o with imgs := imgEntries bs c.kCount })
      fun o => by split <;> rfl, by split <;> rfl, fun s2 bs' he => ?_⟩
    obtain rfl : bs = bs' := congrArg (fun r => r.2.2) he
    split
    · exact ⟨rfl, rfl⟩
    · exact ⟨rfl, rfl⟩
  · have hgo : OpsGo .nop (acceptedOp s s1 n q b) (afterAccess (acceptedOp s s1 n q b) u (begun0 n q b) startSlot a
        fun s => modOp s (begun0 n q b).id fun o => if (imgEntries bs c.kCount).any (fun e => decide (e.2 % 256 ≠ 0))
          then { o with done := some .invalid, detail := 24 } else { o with imgs := imgEntries bs c.kCount }) :=
      (OpsGo.of_unread ((congrArg (fun r => unread r.1) hr).symm.trans (unread_readOp ..))).trans
        (.afterAccess fun u => .modOp _ _ fun o => by split <;> exact ⟨rfl, rfl, rfl, rfl, rfl, rfl, fun h => h, .inl rfl⟩)
    obtain ⟨o, ho, hs, -⟩ := h.begins hgo
    exact ⟨o, ho, hs, fun _ _ he => absurd (congrArg (fun r => r.2.1) he) ha⟩

/-- Settles O25, by cases on the accepted command: each begins in the row that decodes it. -/
theorem acceptedCommandsBegin : Obligations.AcceptedCommandsBegin := by
  unfold Obligations.AcceptedCommandsBegin
  intro s env n q s1 b hdue hidle hcheck
  have h : Accepted s env n.val q s1 b := ⟨hdue, hidle, hcheck⟩
  have hop := h.findOp
  have hsame := h.same
  refine ⟨fun hp hcode => ?_, fun va val lim hp => ?_, fun k ni arg len rm hp => ?_, fun c hp => ?_, fun c hp => ?_⟩
  · have hrow := h.row (mine := fun c => decide (c = 0) || decide (10 ≤ c)) (by simp [hcode])
    rw [hp, beginOp] at hrow
    refine ⟨_, _, congrArg Host.Outcome.next hrow, findOp_done hop fun _ => rfl, rfl, ?_, ?_⟩
    · exact eq_of_view undecoded State.streams (fun _ => rfl) hsame
    · exact eq_of_view undecoded State.windows (fun _ => rfl) hsame
  all_goals have hcode := opcode_parseCmd hp Cmd.noConfusion
  · have hrow := h.row (mine := fun c => decide (c = 9)) (decide_eq_true hcode)
    rw [hp, beginOp] at hrow
    obtain ⟨⟨o, ho, hdone⟩, hs, hw⟩ := h.armWait hp
    exact ⟨_, o, congrArg Host.Outcome.next hrow, ho, hdone, hs, hw⟩
  · have hrow := (h.row (mine := fun c => decide (c = 5)) (decide_eq_true hcode)).trans (beginOp_study hp)
    obtain ⟨o, ho, hstudy⟩ := h.study hp
    exact ⟨_, o, congrArg Host.Outcome.next hrow, ho, hstudy⟩
  · have hrow := (h.row (mine := fun c => decide (c = 6)) (decide_eq_true hcode)).trans (beginOp_refine hp)
    have hcores : (acceptedOp s s1 n.val q b).study.coreOk = s.study.coreOk :=
      eq_of_view undecoded (fun u => u.study.coreOk) (fun _ => rfl) hsame
    by_cases hzero : s.study.coreOk = 0
    · rw [if_pos (hcores.trans hzero)] at hrow
      exact ⟨_, _, congrArg Host.Outcome.next hrow, findOp_done hop fun _ => rfl, rfl, fun _ => rfl, nofun⟩
    · rw [if_neg (hcores ▸ hzero)] at hrow
      obtain ⟨o, ho, hs, hr⟩ := h.begins (.refineStart (acceptedOp s s1 n.val q b) env
        (begun0 n.val q b) c)
      refine ⟨_, o, congrArg Host.Outcome.next hrow, ho, hs, fun e => absurd e hzero, fun r he => ?_⟩
      obtain ⟨rc, x, tiles, hc, hx, rfl⟩ := hr r he
      cases hc
      exact ⟨rfl, rfl, hx, rfl⟩
  · have hrow := (h.row (mine := fun c => decide (c = 1)) (decide_eq_true hcode)).trans (beginOp_window hp)
    obtain ⟨o, ho, hwin⟩ := h.window c
    exact ⟨_, o, congrArg Host.Outcome.next hrow, ho, hwin⟩

/-! ### A decode beside a context loss (R367, R389) -/

/-- An environment in which memory, host and other nodes answer without error. -/
def soundEnv : Env := { ce := [], ue := [], host := [], hostSt := .ok, inFlags := 0, far := none }

/-- A WINDOW command that has started on queue 0 and reads its image list at page 1. -/
def listReader : Op :=
  { q := 0, idx := 9, ctx := 5, cls := 1, hdr := parseHdr [], cmd := .window { parseWindow [] with imgList := 0x10000, kCount := 1 },
    started := true, armed := false, done := none, detail := 0, rflags := 0, imgs := [], passes := [], args := [], kernel := [],
    itemsOut := [], moved := [], itemsDone := 0, refine := none, gkey := 0 }

/-- Queue 0 of context 5 with one entry at HEAD, in page 0. -/
def entryQueue : Queue := ⟨5, 1, 0, 0x20000, 64, 7, 0, 1, .active, false, 0, none, false⟩

/-- A part whose queue 0 has an entry of the reserved opcode 11 at HEAD and a WINDOW command that still has to read its image list,
which is poisoned. -/
def listPoisoned : State :=
  { State.reset with
    ifLevel := 3, resetting := none, ops := [listReader], queues := [(0, entryQueue)],
    ctxs := [(5, ⟨0, 1, 0, 3, true, 0, false, false, 0, 0, 0, 0, 0,
      [⟨0, false, .dev 0, 3, true, none⟩, ⟨0x10000, false, .dev 0x10000, 3, true, none⟩], none, 0, 0, [], 0, false, [], none⟩)],
    mem := { State.reset.mem with data := ⟨[(0, 11), (1, 1)]⟩, poison := [0x400] } }

/-- What the entry's read finds. -/
def entryRead (s : State) (q : Queue) : State × Acc × List Byte := readVa s soundEnv q.ctx (q.ringVa + 128 * (q.head % q.ringN)) 128

theorem due_listPoisoned : Due listPoisoned soundEnv 0 entryQueue (entryRead listPoisoned entryQueue).1
    (entryRead listPoisoned entryQueue).2.2 := by
  have h : (entryRead listPoisoned entryQueue).2.1 = .ok := by decide +kernel
  have hread (r : State × Acc × List Byte) (hr : r.2.1 = .ok) : r = (r.1, .ok, r.2.2) := Prod.ext rfl (Prod.ext hr rfl)
  exact ⟨by decide, by decide, by decide, by decide, by decide +kernel, by decide +kernel, by decide +kernel, hread _ h⟩

/-- Refutes O23: a start in the same row, here of a WINDOW that still reads its poisoned image list, loses the context, and that
ends the refused command with CTX_LOST in place of the status of its decode check. -/
theorem not_queueRowsDecodeTheirEntry : ¬ Obligations.QueueRowsDecodeTheirEntry := by
  unfold Obligations.QueueRowsDecodeTheirEntry
  intro h
  obtain ⟨-, -, -, -, -, -, -, -, -, hnop⟩ := h listPoisoned soundEnv 0 entryQueue _ _ due_listPoisoned (by decide)
  obtain ⟨t, hexec, hdec⟩ := hnop (.inr (by decide +kernel))
  obtain ⟨o, ho, -, -, -, -, hdone⟩ := hdec.op
  have hst := (hdone .invalid 0 (by decide +kernel)).1
  have hlost : (match exec (.nop 0 soundEnv) listPoisoned with | .next t => (findOp t (0, 0)).bind (·.done) | _ => none) = some .ctxLost := by
    decide +kernel
  rw [hexec] at hlost
  dsimp only at hlost
  rw [show ((0 : Fin 256).val, entryQueue.head) = (0, 0) from rfl] at ho
  rw [ho, Option.bind_some, hst] at hlost
  cases hlost

end Sys2Proof.Machine


/-!
# Fence time-outs and arena calls

What the time limit of a fence wait does (R376), and that the candidates at which the arena allocator looks hold the lowest
free block (R382).
-/

namespace Sys2Proof.Machine
open Sys2Proof

/-! ### Fence time-outs (R366, R375, R376) -/

/-- No command of a queue that is stopped starts. -/
theorem mayStart_stopped {s : State} {x : Queue} {o : Op} (hx : queueOf s o.q = some x) (hs : x.state = .stopped)
    (hd : x.dying = false) : mayStart s o = false := by
  have hheld : startsHeld s o.q = true := by rw [startsHeld, hx, Option.any_some, hs, hd]; rfl
  rw [mayStart, hheld]
  rfl

theorem decodable_stopped (s : State) (n : Nat) {x : Queue} (h : x.state = .stopped) : decodable s n x = false := by
  rw [decodable, queueReady, h]
  rfl

/-- The part in which an armed wait has ended at its limit. -/
def waitTimedOut (s : State) (q : Nat) (id : OpId) : State :=
  modQueue (audGive (modOp s id (endWait .fenceTimeout)) 4 1) q fun x => if x.state = .active then { x with state := .stopped } else x

theorem waitTimedOut_frame (s : State) (q : Nat) (id : OpId) :
    (waitTimedOut s q id).ops = (modOp s id (endWait .fenceTimeout)).ops ∧ (waitTimedOut s q id).ctxs = s.ctxs ∧
    (waitTimedOut s q id).mem = s.mem ∧ (waitTimedOut s q id).shares = s.shares := by
  unfold waitTimedOut
  rw [modQueue_frame]
  exact ⟨rfl, rfl, rfl, rfl⟩

/-- Settles O27. -/
theorem fenceTimeoutStopsItsQueue : Obligations.FenceTimeoutStopsItsQueue := by
  unfold Obligations.FenceTimeoutStopsItsQueue
  intro s n idx o x va lim val late hp ho hcmd hlim harm hx hact
  let u := waitTimedOut s n.val (n.val, idx.val)
  obtain ⟨hops, hctxs, hmem, hshares⟩ : _ ∧ _ ∧ u.mem = _ ∧ u.shares = _ := waitTimedOut_frame s n.val (n.val, idx.val)
  have hid : o.id = (n.val, idx.val) := by simpa using List.find?_some ho
  have hexec : exec (.fenceTimeout n idx late) s =
      .next (if late then modCtx u o.ctx (fun c => { c with lateCnt := c.lateCnt + 1 }) else u) := by
    change execFenceTimeout n idx late s = _
    rw [execFenceTimeout, ho]
    dsimp only
    rw [hcmd, hp, harm]
    dsimp only
    rw [if_pos (by simp [hlim]), hid]
    rfl
  have hqueue : queueOf u n.val = some { x with state := .stopped } := by
    refine (queueOf_modQueue ..).trans ?_
    rw [if_pos rfl, show queueOf (audGive (modOp s (n.val, idx.val) (endWait .fenceTimeout)) 4 1) n.val = queueOf s n.val from rfl, hx, Option.map_some, if_pos hact]
  have hfind (id : OpId) : findOp u id = if id = (n.val, idx.val) then (findOp s (n.val, idx.val)).map (endWait .fenceTimeout)
      else findOp s id := by
    rw [← findOp_modOp (f := endWait .fenceTimeout) (fun _ => rfl)]
    unfold Machine.findOp
    rw [hops]
  have hframe : ∀ t, t = (if late then modCtx u o.ctx (fun c => { c with lateCnt := c.lateCnt + 1 }) else u) →
      t.ops = u.ops ∧ t.queues = u.queues ∧ t.mem = u.mem ∧ t.shares = u.shares := by
    rintro t rfl
    cases late
    · exact ⟨rfl, rfl, rfl, rfl⟩
    · rw [if_pos rfl, modCtx_frame]
      exact ⟨rfl, rfl, rfl, rfl⟩
  obtain ⟨htops, htqueues, htmem, htshares⟩ := hframe _ rfl
  have hlate (c : Context) (hc : ctxOf s o.ctx = some c) : (ctxOf (if late then modCtx u o.ctx (fun c => { c with lateCnt := c.lateCnt + 1 })
      else u) o.ctx).map (·.lateCnt) = some (if late then c.lateCnt + 1 else c.lateCnt) := by
    have huctx : ctxOf u o.ctx = some c := by rw [← hc, ctxOf, ctxOf, hctxs]
    cases late
    · rw [if_neg (by decide), huctx]; rfl
    · rw [if_pos rfl, ctxOf_modCtx, if_pos rfl, huctx]; rfl
  generalize (if late then modCtx u o.ctx (fun c => { c with lateCnt := c.lateCnt + 1 }) else u) = t at *
  have htfind (id : OpId) : findOp t id = findOp u id := by rw [Machine.findOp, htops]; rfl
  have htqueue : queueOf t n.val = some { x with state := .stopped } := by rw [← hqueue, queueOf, queueOf, htqueues]
  refine ⟨t, endWait .fenceTimeout o, hexec, ?_, rfl, rfl, htqueue, hlate, fun id hne => ?_, fun hd v _ hv => ?_,
    decodable_stopped _ _ rfl, htmem.trans hmem, htshares.trans hshares⟩
  · rw [htfind, hfind, if_pos rfl, ho]; rfl
  · rw [htfind, hfind, if_neg hne]
  · exact mayStart_stopped (x := { x with state := .stopped }) (hv ▸ htqueue) rfl hd

/-! ### The arena (R381, R382) -/

theorem blockSize_pos (b : Nat) : 0 < blockSize b := by unfold blockSize; omega

/-- Between the multiple below an aligned offset and itself, alignment goes to the offset. -/
theorem alignUp_eq {off n x : Nat} (hn : 0 < n) (ha : off % n = 0) (hlow : off < x + n) (hx : x ≤ off) : alignUp x n = off := by
  obtain ⟨k, rfl⟩ := Nat.dvd_of_mod_eq_zero ha
  have hdiv : (x + n - 1) / n = k := by
    refine Nat.div_eq_of_lt_le ?_ ?_
    · rw [Nat.mul_comm]; omega
    · rw [Nat.add_mul, Nat.mul_comm k n]; omega
  rw [alignUp, hdiv, Nat.mul_comm]

theorem alignUp_mod (x n : Nat) : alignUp x n % n = 0 := Nat.mul_mod_left ..

/-- The lowest clear aligned offset is the first past the allocator's state, or the first past an allocated block. -/
theorem mem_candidates {a : Arena} {off n : Nat} (hn : 0 < n) (ha : off % n = 0) (hc : blockClear a off n = true)
    (hmin : ∀ k < off, k % n = 0 → blockClear a k n = false) :
    off ∈ alignUp 4096 n :: a.blocks.map (fun b => alignUp (b.1 + b.2 - a.base) n) := by
  simp only [blockClear, Bool.and_eq_true, Bool.or_eq_true, decide_eq_true_eq, List.all_eq_true] at hc
  obtain ⟨⟨hstate, hend⟩, hclear⟩ := hc
  by_cases hfirst : off < 4096 + n
  · exact List.mem_cons.2 (.inl (alignUp_eq hn ha hfirst hstate).symm)
  · have hbelow : (off - n) % n = 0 := by rw [← Nat.mod_eq_sub_mod (by omega)]; exact ha
    have hmeets := hmin (off - n) (by omega) hbelow
    rw [blockClear, decide_eq_true (by omega), decide_eq_true (by omega), Bool.true_and, Bool.true_and, List.all_eq_false] at hmeets
    obtain ⟨b, hb, hmeet⟩ := hmeets
    simp only [Bool.or_eq_true, decide_eq_true_eq, not_or] at hmeet
    have := hclear b hb
    refine List.mem_cons_of_mem _ (List.mem_map.2 ⟨b, hb, alignUp_eq hn ha ?_ ?_⟩)
    · omega
    · omega

/-- The allocator finds the lowest clear aligned offset (R382). -/
theorem freeBlock_lowest {a : Arena} {off n : Nat} (hn : 0 < n) (ha : off % n = 0) (hc : blockClear a off n = true)
    (hmin : ∀ k < off, k % n = 0 → blockClear a k n = false) : freeBlock a n = some off := by
  refine List.min?_eq_some_iff.2 ⟨List.mem_filter.2 ⟨mem_candidates hn ha hc hmin, hc⟩, fun k hk => ?_⟩
  obtain ⟨hk, hkc⟩ := List.mem_filter.1 hk
  have hal : k % n = 0 := by
    rcases List.mem_cons.1 hk with rfl | hk
    · exact alignUp_mod ..
    · obtain ⟨b, -, rfl⟩ := List.mem_map.1 hk
      exact alignUp_mod ..
  by_contra hlt
  exact absurd hkc (by rw [hmin k (by omega) hal]; exact Bool.false_ne_true)

theorem freeBlock_none {a : Arena} {n : Nat} (h : ∀ k, k % n = 0 → blockClear a k n = false) : freeBlock a n = none := by
  rw [freeBlock, List.filter_eq_nil_iff.2]
  · rfl
  · intro k hk
    have hal : k % n = 0 := by
      rcases List.mem_cons.1 hk with rfl | hk
      · exact alignUp_mod ..
      · obtain ⟨b, -, rfl⟩ := List.mem_map.1 hk
        exact alignUp_mod ..
    rw [h k hal]
    exact Bool.false_ne_true

theorem modCtx_some {s : State} {n : Nat} {c : Context} (h : ctxOf s n = some c) (f : Context → Context) :
    modCtx s n f = { s with ctxs := bankPut s.ctxs n (f c) } := by rw [modCtx, show bankFind s.ctxs n = some c from h]

/-- Settles O36. -/
theorem arenaCallsTakeTheLowestFreeBlock : Obligations.ArenaCallsTakeTheLowestFreeBlock := by
  unfold Obligations.ArenaCallsTakeTheLowestFreeBlock
  intro s n c hp hr hc
  have hon : (powered s && isReady s) = true := by rw [hp, hr]; rfl
  refine ⟨fun a bytes off ha hal hcl hmin => ?_, fun bytes hnone => ?_, fun a addr ha hb => ?_, fun addr hnone => ?_⟩
  · have hfree := freeBlock_lowest (blockSize_pos bytes) hal hcl hmin
    change execArenaAlloc n bytes s = _
    rw [execArenaAlloc, hc]
    dsimp only
    rw [if_pos hon, ha, Option.bind_some, hfree, Option.map_some]
    dsimp only
    rw [modCtx_some hc]
    rfl
  · have hfree : c.arena.bind (fun a => (freeBlock a (blockSize bytes)).map (fun off => (a, off))) = none := by
      cases ha : c.arena with
      | none => rfl
      | some a => rw [Option.bind_some, freeBlock_none fun k => hnone a k ha]; rfl
    change execArenaAlloc n bytes s = _
    rw [execArenaAlloc, hc]
    dsimp only
    rw [if_pos hon, hfree]
    dsimp only
    rw [modCtx_some hc]
    rfl
  · obtain ⟨b, hb, hba⟩ := hb
    have hany : a.blocks.any (fun b => decide (b.1 = addr)) = true := List.any_eq_true.2 ⟨b, hb, decide_eq_true hba⟩
    change execArenaFree n addr s = _
    rw [execArenaFree, hc]
    dsimp only
    rw [if_pos hon, ha, Option.bind_some, if_pos hany]
    exact congrArg _ (modCtx_some hc _)
  · have hfind : c.arena.bind (fun a => if a.blocks.any (fun b => decide (b.1 = addr)) then some a else none) = none := by
      cases ha : c.arena with
      | none => rfl
      | some a =>
        have hany : a.blocks.any (fun b => decide (b.1 = addr)) = false :=
          List.any_eq_false.2 fun b hb => by simpa using hnone a ha b hb
        rw [Option.bind_some, hany]
        rfl
    change execArenaFree n addr s = _
    rw [execArenaFree, hc]
    dsimp only
    rw [if_pos hon, hfind]
    exact congrArg _ (modCtx_some hc _)

end Sys2Proof.Machine


/-!
# Lost contexts and failed Pantries

What the loss of a context leaves unchanged (R387), what commands' ends and quarantines leave of the Pantries, and the failure of
a Pantry (R153, R496).
-/

namespace Sys2Proof.Machine
open Sys2Proof

/-! ### The loss of a context -/

/-- A state without what the loss of a context can change. -/
def lossless (s : State) : State :=
  { endless (quiet s) with ctxs := [], queues := [], mem := { s.mem with resvs := [] }, corr := State.reset.corr }

theorem lossless_of_quiet {s t : State} (h : quiet t = quiet s) : lossless t = lossless s := (congrArg lossless h :)
theorem lossless_of_endless {s t : State} (h : endless t = endless s) : lossless t = lossless s := (congrArg lossless h :)

theorem lossless_dropResvs (s : State) (n : Nat) : lossless (dropResvs s n) = lossless s := by
  have hcheck (u : State) : lossless (checkGuarantee u) = lossless u := by
    unfold checkGuarantee
    split
    · exact (lossless_of_quiet (quiet_raiseEvent { u with corr := { u.corr with gActive := true } } ..)).trans rfl
    · rfl
  exact (hcheck _).trans (foldl_keeps (g := fun u c => dropResv u n c) lossless (fun _ _ => rfl) [0, 1, 2, 3] s)

theorem lossless_clearRegion (s : State) (n : Nat) : lossless (clearRegion s n) = lossless s := by unfold clearRegion; split <;> rfl

theorem lossless_modCtx (s : State) (n : Nat) (f : Context → Context) : lossless (modCtx s n f) = lossless s := by rw [modCtx_frame]; rfl

/-- The commands, queues and reservations of a context that is lost end; its reservations go, its panes are unpinned (R387). -/
def endCtx (s : State) (n : Nat) : State :=
  let s := { s with queues := s.queues.map (fun e => (e.1, if e.2.ctx = n then { e.2 with state := .lost } else e.2)) }
  let s := endOps .ctxLost false ((s.ops.filter (fun o => o.ctx = n)).map Op.id) s
  let s := { s with ops := s.ops.map (fun o => if o.ctx = n then { o with done := some .ctxLost } else o) }
  clearRegion (unpinPanes (dropResvs s n) n) n

/-- The loss of a context that exists and is not lost. -/
theorem loseCtx3_eq {s : State} {n : Nat} {c : Context} (h : ctxOf s n = some c) (hl : c.lost = false) (cause addr node : Nat) :
    loseCtx3 s n cause addr node = raiseEvent3 (endCtx (modCtx s n fun c =>
      { c with lost := true, lossCause := cause, lossAddr := BitVec.ofNat 64 addr, pinned := false }) n) 0x03 n cause addr node := by
  rw [loseCtx3, h]
  dsimp only
  rw [if_neg (by rw [hl]; exact Bool.false_ne_true)]
  rfl

theorem lossless_endCtx (s : State) (n : Nat) : lossless (endCtx s n) = lossless s := by
  refine (lossless_clearRegion ..).trans ?_
  refine (show lossless (unpinPanes _ n) = lossless _ from rfl).trans ?_
  refine (lossless_dropResvs ..).trans ?_
  refine (show lossless { endOps _ _ _ _ with ops := _ } = lossless (endOps _ _ _ _) from rfl).trans ?_
  exact (lossless_of_endless (endless_endOps ..)).trans rfl

/-- A context that does not exist or is lost already is left as it is. -/
theorem loseCtx3_idle {s : State} {n : Nat} (h : ∀ c, ctxOf s n = some c → c.lost = true) (cause addr node : Nat) :
    loseCtx3 s n cause addr node = s := by
  unfold loseCtx3
  split
  · rfl
  next c hc => rw [h c hc]; rfl

theorem lossless_loseCtx3 (s : State) (n cause addr node : Nat) : lossless (loseCtx3 s n cause addr node) = lossless s := by
  by_cases h : ∀ c, ctxOf s n = some c → c.lost = true
  · rw [loseCtx3_idle h]
  · push Not at h
    obtain ⟨c, hc, hl⟩ := h
    rw [loseCtx3_eq hc (Bool.not_eq_true _ ▸ hl), lossless_of_quiet (quiet_raiseEvent3 ..), lossless_endCtx, lossless_modCtx]

theorem lossless_loseCtx (s : State) (n cause addr : Nat) : lossless (loseCtx s n cause addr) = lossless s := lossless_loseCtx3 ..

theorem unreserved_dropResvs (s : State) (n : Nat) : unreserved (dropResvs s n) = unreserved s :=
  (unreserved_checkGuarantee _).trans (foldl_keeps (g := fun u c => dropResv u n c) unreserved (fun _ _ => rfl) [0, 1, 2, 3] s)

theorem ctxs_dropResvs (s : State) (n : Nat) : (dropResvs s n).ctxs = s.ctxs := (congrArg State.ctxs (unreserved_dropResvs s n) :)

theorem ctxs_clearRegion (s : State) (n : Nat) : (clearRegion s n).ctxs = s.ctxs := by unfold clearRegion; split <;> rfl

theorem ctxs_endOps (st : Status) (aborted : Bool) (ids : List OpId) (s : State) : (endOps st aborted ids s).ctxs = s.ctxs :=
  eq_of_view endless State.ctxs (fun _ => rfl) (endless_endOps ..)

theorem ctxs_endCtx (s : State) (n : Nat) : (endCtx s n).ctxs = s.ctxs := by
  refine (ctxs_clearRegion ..).trans ?_
  refine (show (unpinPanes (dropResvs _ n) n).ctxs = (dropResvs _ n).ctxs from rfl).trans ?_
  refine (ctxs_dropResvs ..).trans ?_
  exact (ctxs_endOps ..).trans rfl

/-- Whether a context exists, and is lost. -/
def lostOf (s : State) (n : Nat) : Option Bool := (ctxOf s n).map (·.lost)

theorem lostOf_of_ctxs {s t : State} (h : t.ctxs = s.ctxs) (n : Nat) : lostOf t n = lostOf s n := by rw [lostOf, lostOf, ctxOf, ctxOf, h]

theorem lostOf_modCtx {s : State} {n : Nat} {f : Context → Context} (hf : ∀ c, (f c).lost = c.lost) (m : Nat) :
    lostOf (modCtx s n f) m = lostOf s m := by
  rw [lostOf, ctxOf_modCtx]
  split
  next h =>
    subst h
    rw [lostOf, Option.map_map]
    exact congrArg (fun g : Context → Bool => (ctxOf s m).map g) (funext hf)
  next => rfl

/-- A context that is lost is lost, and the loss of one leaves every other as it is. -/
theorem lostOf_loseCtx3 (s : State) (n cause addr node m : Nat) :
    lostOf (loseCtx3 s n cause addr node) m = if m = n then (lostOf s n).map (fun _ => true) else lostOf s m := by
  by_cases h : ∀ c, ctxOf s n = some c → c.lost = true
  · rw [loseCtx3_idle h]
    split
    next hm =>
      subst hm
      cases hc : ctxOf s m with
      | none => rw [lostOf, hc]; rfl
      | some c => rw [lostOf, hc, Option.map_some, h c hc]; rfl
    next => rfl
  · push Not at h
    obtain ⟨c, hc, hl⟩ := h
    rw [loseCtx3_eq hc (Bool.not_eq_true _ ▸ hl),
      lostOf_of_ctxs ((eq_of_view quiet State.ctxs (fun _ => rfl) (quiet_raiseEvent3 ..)).trans (ctxs_endCtx ..)), lostOf, ctxOf_modCtx]
    split
    · rw [hc, lostOf, hc]; rfl
    · rfl

/-- A rerouting restarts image loads and ends those that no Window serves: what other changes to streams keep it keeps until then. -/
theorem rerouteStreams_keeps {β : Type} (p : State → β) (hoff : ∀ v x, p (offDw v x) = p v) (hadd : ∀ v x, p (addStream v x) = p v)
    (hstreams : ∀ v xs, p { v with streams := xs } = p v) (s : State) (w : Nat) :
    ∃ u ids, p u = p s ∧ (rerouteStreams s w = u ∨ rerouteStreams s w = endOps .noWindow false ids u) := by
  unfold rerouteStreams
  dsimp only
  split
  · refine ⟨_, [], (foldl_keeps p ?_ _ _).trans ((foldl_keeps p ?_ _ _).trans (hstreams s _)), .inl rfl⟩
    · exact fun _ _ => hadd ..
    · exact fun _ _ => hoff ..
  · refine ⟨_, _, (foldl_keeps p ?_ _ _).trans ((foldl_keeps p ?_ _ _).trans (hstreams s _)), .inr rfl⟩
    · exact fun _ _ => hadd ..
    · exact fun _ _ => hoff ..

theorem lostOf_quarantine (s : State) (w cause n : Nat) : lostOf (quarantine s w cause) n = lostOf s n := by
  unfold quarantine
  dsimp only
  split
  · rfl
  · have hrepeat : lostOf (repeatPass s w) n = lostOf s n := by
      unfold repeatPass
      split
      · rfl
      · dsimp only
        split
        · exact (lostOf_modCtx (f := fun c => { c with replayed := c.replayed + 1 }) (fun _ => rfl) n).trans rfl
        · rfl
    have hreroute (u : State) : (rerouteStreams u w).ctxs = u.ctxs := by
      have hoff (v : State) (x : Stream) : (offDw v x).ctxs = v.ctxs := by
        unfold offDw
        split
        · exact eq_of_view endless State.ctxs (fun _ => rfl) (endless_freeHeld v x)
        · rfl
      obtain ⟨v, ids, hv, h | h⟩ := rerouteStreams_keeps State.ctxs hoff (fun _ _ => rfl) (fun _ _ => rfl) u w
      · rw [h, hv]
      · rw [h, ctxs_endOps, hv]
    refine (lostOf_of_ctxs (eq_of_view unrecorded State.ctxs (fun _ => rfl) (unrecorded_addFrec ..)) n).trans ?_
    refine (lostOf_of_ctxs (eq_of_view quiet State.ctxs (fun _ => rfl) (quiet_raiseEvent ..)) n).trans ?_
    exact (lostOf_of_ctxs (hreroute _) n).trans hrepeat

/-! ### What commands' ends and quarantines leave of the Pantries -/

/-- Every Pantry is in service as it was, with the flags it had. -/
structure PantriesServe (s t : State) : Prop where
  out : ∀ v, (pantry t v).out = (pantry s v).out
  flags : ∀ v, (pantry t v).flags = (pantry s v).flags
  migr : ∀ v, (pantry t v).migr = (pantry s v).migr

theorem PantriesServe.of_eq {s t : State} (h : t.pantries = s.pantries) : PantriesServe s t :=
  ⟨fun v => by rw [pantry, pantry, h], fun v => by rw [pantry, pantry, h], fun v => by rw [pantry, pantry, h]⟩
theorem PantriesServe.trans {s t u : State} (h : PantriesServe s t) (k : PantriesServe t u) : PantriesServe s u :=
  ⟨fun v => (k.out v).trans (h.out v), fun v => (k.flags v).trans (h.flags v), fun v => (k.migr v).trans (h.migr v)⟩
theorem PantriesServe.modPantry (s : State) (w : Nat) {f : Pantry → Pantry}
    (hf : ∀ p, (f p).out = p.out ∧ (f p).flags = p.flags ∧ (f p).migr = p.migr) : PantriesServe s (modPantry s w f) := by
  constructor
  all_goals
    intro v
    rw [pantry_modPantry]
    split
    next h => subst h; simp [hf]
    next => rfl
theorem PantriesServe.foldl {α : Type} {g : State → α → State} (h : ∀ s a, PantriesServe s (g s a)) :
    ∀ (l : List α) (s : State), PantriesServe s (l.foldl g s)
  | [], _ => .of_eq rfl
  | a :: l, s => (h s a).trans (PantriesServe.foldl h l (g s a))

theorem pantries_dropResvs (s : State) (n : Nat) : (dropResvs s n).pantries = s.pantries :=
  (congrArg State.pantries (unreserved_dropResvs s n) :)

theorem pantries_freeHeld (s : State) (x : Stream) : (freeHeld s x).pantries = s.pantries := by unfold freeHeld; split <;> rfl

theorem pantries_dropStreams (s : State) (id : OpId) (aborted : Bool) : (dropStreams s id aborted).pantries = s.pantries := by
  unfold dropStreams
  dsimp only
  rw [foldl_keeps State.pantries fun u e => ?_]
  split
  · exact pantries_freeHeld ..
  · rfl

theorem PantriesServe.closeTrees (s : State) (id : OpId) : PantriesServe s (closeTrees s id) := by
  unfold Machine.closeTrees
  dsimp only
  refine PantriesServe.trans (t := { s with trees := s.trees.filter (fun t => t.op ≠ id) }) (.of_eq rfl) (.foldl (fun u t => ?_) _ _)
  split
  · refine PantriesServe.trans (.modPantry u t.pantry (f := fun p => { p with treeClose := p.treeClose + 1 }) fun _ => ⟨rfl, rfl, rfl⟩) ?_
    refine PantriesServe.trans (t := (freshNat (freshNat (Machine.modPantry u t.pantry fun p => { p with treeClose := p.treeClose + 1 })).2).2)
      (.of_eq rfl) ?_
    exact (PantriesServe.modPantry _ t.pantry (f := fun p => { p with
      sram := p.sram.write t.lo (toBytes (t.hi - t.lo) (freshNat (Machine.modPantry u t.pantry fun p => { p with treeClose := p.treeClose + 1 })).1),
      dir := bankPut p.dir t.lo (freeDesc (freshNat (freshNat (Machine.modPantry u t.pantry
        fun p => { p with treeClose := p.treeClose + 1 })).2).1) }) fun _ => ⟨rfl, rfl, rfl⟩).trans (.of_eq rfl)
  · exact .of_eq rfl

theorem PantriesServe.endOp (s : State) (id : OpId) (st : Status) (aborted : Bool) : PantriesServe s (endOp s id st aborted) := by
  unfold Machine.endOp
  split
  · exact .of_eq rfl
  next o _ =>
    split
    · exact .of_eq rfl
    · dsimp only
      have hclose (u : State) : PantriesServe u (Machine.modOp (if o.armed then audGive (Machine.closeTrees u id) 4 1
          else Machine.closeTrees u id) id fun o => { o with armed := false, done := some st }) := by
        refine (PantriesServe.closeTrees u id).trans ?_
        split
        · exact .of_eq rfl
        · exact .of_eq rfl
      refine PantriesServe.trans ?_ (hclose _)
      exact .of_eq (pantries_dropStreams s id aborted)

theorem PantriesServe.endOps (st : Status) (aborted : Bool) (ids : List OpId) (s : State) : PantriesServe s (endOps st aborted ids s) :=
  .foldl (fun u id => .endOp u id st aborted) ids s

theorem PantriesServe.rerouteStreams (s : State) (w : Nat) : PantriesServe s (rerouteStreams s w) := by
  have hoff (v : State) (x : Stream) : (offDw v x).pantries = v.pantries := by
    unfold offDw
    split
    · exact pantries_freeHeld v x
    · rfl
  obtain ⟨u, ids, hu, h | h⟩ := rerouteStreams_keeps State.pantries hoff (fun _ _ => rfl) (fun _ _ => rfl) s w
  · exact h ▸ .of_eq hu
  · exact h ▸ PantriesServe.trans (.of_eq hu) (.endOps ..)

theorem pantries_addFrec (s : State) (kind unit index cause paddr ctx : Nat) : (addFrec s kind unit index cause paddr ctx).pantries = s.pantries :=
  eq_of_view unrecorded State.pantries (fun _ => rfl) (unrecorded_addFrec ..)

theorem pantries_capacity (s : State) (kind index : Nat) (inService : Bool) : (capacity s kind index inService).pantries = s.pantries :=
  eq_of_view quiet State.pantries (fun _ => rfl) (quiet_raiseEvent ..)

/-- A quarantine migrates the Pantry's slots where it is in service, and leaves the Pantries otherwise (R151). -/
theorem PantriesServe.quarantine {s : State} {w : Nat} (cause : Nat) (hq : (win s w).state ≠ .quar) (hr : (win s w).state ≠ .retired) :
    PantriesServe (Machine.modPantry s w fun p => { p with migr := !p.out }) (quarantine s w cause) := by
  unfold Machine.quarantine
  dsimp only
  rw [if_neg (not_or.2 ⟨hq, hr⟩)]
  refine PantriesServe.trans ?_ (.of_eq (pantries_addFrec ..))
  refine PantriesServe.trans ?_ (.of_eq (pantries_capacity ..))
  refine PantriesServe.trans ?_ (.rerouteStreams ..)
  exact .of_eq (congrArg (fun b => bankMod b Pantry.reset w fun p => { p with migr := !p.out }) (pantries_repeatPass s w) :)

theorem pantry_quarantine (s : State) (w cause v : Nat) :
    (pantry (quarantine s w cause) v).out = (pantry s v).out ∧ (pantry (quarantine s w cause) v).flags = (pantry s v).flags := by
  by_cases h : (win s w).state = .quar ∨ (win s w).state = .retired
  · rw [quarantine, if_pos h]
    exact ⟨rfl, rfl⟩
  · have hs := PantriesServe.quarantine cause (not_or.1 h).1 (not_or.1 h).2
    rw [hs.out, hs.flags, pantry_modPantry]
    split
    next hv => subst hv; exact ⟨rfl, rfl⟩
    next => exact ⟨rfl, rfl⟩

theorem PantriesServe.clearRegion (s : State) (n : Nat) : PantriesServe s (clearRegion s n) := by
  unfold Machine.clearRegion
  split
  · exact .of_eq rfl
  next c _ =>
    constructor
    all_goals
      intro v
      rw [pantry, pantry, bankGet, bankGet, bankFind_map (f := fun e : Pantry => ({ e with
        sram := e.sram.clear (c.base * 0x10000) (c.pregion * 0x10000),
        dir := e.dir.filter (fun d => ¬ (c.base * 0x10000 ≤ d.1 ∧ d.1 < c.base * 0x10000 + c.pregion * 0x10000)) } : Pantry))]
      cases bankFind s.pantries v <;> rfl

theorem PantriesServe.endCtx (s : State) (n : Nat) : PantriesServe s (endCtx s n) := by
  refine PantriesServe.trans ?_ (.clearRegion ..)
  refine PantriesServe.trans (t := dropResvs _ n) ?_ (.of_eq rfl)
  refine PantriesServe.trans ?_ (.of_eq (pantries_dropResvs ..))
  refine PantriesServe.trans (t := Machine.endOps .ctxLost false _ _) ?_ (.of_eq rfl)
  refine PantriesServe.trans ?_ (.endOps ..)
  exact .of_eq rfl

theorem PantriesServe.loseCtx3 (s : State) (n cause addr node : Nat) : PantriesServe s (loseCtx3 s n cause addr node) := by
  by_cases h : ∀ c, ctxOf s n = some c → c.lost = true
  · rw [loseCtx3_idle h]
    exact .of_eq rfl
  · push Not at h
    obtain ⟨c, hc, hl⟩ := h
    rw [loseCtx3_eq hc (Bool.not_eq_true _ ▸ hl)]
    refine PantriesServe.trans ?_ (.of_eq (eq_of_view quiet State.pantries (fun _ => rfl) (quiet_raiseEvent3 ..)))
    refine PantriesServe.trans (.of_eq (modCtx_pantries ..)) (.endCtx ..)

/-! ### The failure of a Pantry (R153, R496) -/

/-- A part whose Pantry has been taken out of service and recorded, before its slot holders are lost. -/
def pantryOut (s : State) (w : Nat) : State :=
  addFrec (capacity (modPantry s w fun p => { p with flags := p.flags ||| 16, out := true }) 4 w false) 5 4 w 0 0 noCtx

theorem pantry_pantryOut (s : State) (w : Nat) : pantry (pantryOut s w) w = { pantry s w with flags := (pantry s w).flags ||| 16, out := true } := by
  have h : (pantryOut s w).pantries = (modPantry s w fun p => { p with flags := p.flags ||| 16, out := true }).pantries :=
    (pantries_addFrec ..).trans (pantries_capacity ..)
  rw [pantry, h]
  exact (pantry_modPantry ..).trans (if_pos rfl)

theorem steady_pantryOut (s : State) (w : Nat) : steady (pantryOut s w) = steady s := by
  rw [pantryOut, steady_addFrec, steady_capacity, steady_modPantry]

/-- The commands, streams, trees and contexts are as they were. -/
theorem slotHolders_pantryOut (s : State) (w : Nat) : slotHolders (pantryOut s w) w = slotHolders s w := by
  have hu := unrecorded_addFrec (capacity (modPantry s w fun p => { p with flags := p.flags ||| 16, out := true }) 4 w false) 5 4 w 0 0 noCtx
  have hq : quiet (capacity (modPantry s w fun p => { p with flags := p.flags ||| 16, out := true }) 4 w false) = _ := quiet_raiseEvent ..
  have hctxs : (pantryOut s w).ctxs = s.ctxs := (eq_of_view unrecorded State.ctxs (fun _ => rfl) hu).trans
    ((eq_of_view quiet State.ctxs (fun _ => rfl) hq).trans rfl)
  have htrees : (pantryOut s w).trees = s.trees := (eq_of_view unrecorded State.trees (fun _ => rfl) hu).trans
    ((eq_of_view quiet State.trees (fun _ => rfl) hq).trans rfl)
  rw [slotHolders, slotHolders, hctxs, htrees, pantry_pantryOut]

/-- Contexts lost one after another are all lost, if they exist. -/
theorem lostOf_foldl (l : List Nat) (m : Nat) : ∀ s : State, lostOf (l.foldl (fun s n => loseCtx s n 2 0) s) m =
    if m ∈ l then (lostOf s m).map (fun _ => true) else lostOf s m := by
  induction l with
  | nil => intro s; rfl
  | cons n l ih =>
    intro s
    have hone : lostOf (loseCtx s n 2 0) m = if m = n then (lostOf s n).map (fun _ => true) else lostOf s m := lostOf_loseCtx3 ..
    rw [List.foldl_cons, ih, hone]
    by_cases hm : m = n
    · subst hm
      rw [if_pos rfl, if_pos List.mem_cons_self, Option.map_map]
      split <;> rfl
    · rw [if_neg hm]
      exact if_congr (by rw [List.mem_cons, or_iff_right hm]) rfl rfl

theorem bankFind_of_key {α : Type} {b : Bank α} {e : Nat × α} (h : e ∈ b) : ∃ x, bankFind b e.1 = some x := by
  induction b with
  | nil => exact nomatch h
  | cons e' b ih =>
    rw [bankFind]
    split
    · exact ⟨_, rfl⟩
    next hne =>
      rcases List.mem_cons.1 h with rfl | h
      · exact absurd rfl hne
      · exact ih h

theorem slotHolders_exist {s : State} {w n : Nat} (h : n ∈ slotHolders s w) : ∃ l, lostOf s n = some l := by
  obtain ⟨e, he, rfl⟩ := List.mem_map.1 h
  obtain ⟨c, hc⟩ := bankFind_of_key (List.mem_filter.1 he).1
  exact ⟨c.lost, by rw [lostOf, ctxOf, hc]; rfl⟩

/-- Settles O32. -/
theorem pantryErrorsAreContained : Obligations.PantryErrorsAreContained := by
  unfold Obligations.PantryErrorsAreContained
  intro s w hp
  refine ⟨fun hout => ?_, ?_⟩
  · have hexec : exec (.pantryUncorrectable w) s = .next (retire (quarantine ((slotHolders (pantryOut s w.val) w.val).foldl
        (fun s n => loseCtx s n 2 0) (pantryOut s w.val)) w.val 4) w.val) := by
      change execPantryUncorrectable w s = _
      rw [execPantryUncorrectable, if_pos (by rw [hp, hout]; rfl)]
      rfl
    have hserve : PantriesServe (pantryOut s w.val) ((slotHolders (pantryOut s w.val) w.val).foldl
        (fun s n => loseCtx s n 2 0) (pantryOut s w.val)) := .foldl (fun u n => .loseCtx3 u n 2 0 0) _ _
    have hview := foldl_keeps (g := fun u n => loseCtx u n 2 0) lossless (fun u n => lossless_loseCtx u n 2 0)
      (slotHolders (pantryOut s w.val) w.val) (pantryOut s w.val)
    have hlost := fun n => lostOf_foldl (slotHolders (pantryOut s w.val) w.val) n (pantryOut s w.val)
    rw [slotHolders_pantryOut] at hexec hserve hview hlost
    generalize (slotHolders s w.val).foldl (fun s n => loseCtx s n 2 0) (pantryOut s w.val) = u at hexec hserve hview hlost
    have hret : pantry (retire (quarantine u w.val 4) w.val) w.val =
        { pantry (quarantine u w.val 4) w.val with migr := !(pantry (quarantine u w.val 4) w.val).out } :=
      (pantry_modPantry ..).trans (if_pos rfl)
    obtain ⟨hqout, hqflags⟩ := pantry_quarantine u w.val 4 w.val
    have hmem : (quarantine u w.val 4).mem.data = s.mem.data := by
      rw [eq_of_view steady (fun u => u.mem.data) (fun _ => rfl) (steady_quarantine u w.val 4),
        eq_of_view lossless (fun u => u.mem.data) (fun _ => rfl) hview,
        eq_of_view steady (fun u => u.mem.data) (fun _ => rfl) (steady_pantryOut s w.val)]
    have hfuses : (quarantine u w.val 4).fuses = s.fuses := by
      rw [eq_of_view steady State.fuses (fun _ => rfl) (steady_quarantine u w.val 4),
        eq_of_view lossless State.fuses (fun _ => rfl) hview, eq_of_view steady State.fuses (fun _ => rfl) (steady_pantryOut s w.val)]
    refine ⟨_, hexec, ?_, ?_, ?_, fun n hn => ?_, hmem, hfuses⟩
    · rw [hret, hqout, hserve.out, pantry_pantryOut]
    · rw [hret, hqflags, hserve.flags, pantry_pantryOut, BitVec.getLsbD_or]
      exact Bool.or_true _
    · exact (congrArg Window.state ((win_modPantry ..).trans ((win_modWin ..).trans (if_pos rfl))) :)
    · obtain ⟨l, hl⟩ := slotHolders_exist hn
      refine (lostOf_quarantine u w.val 4 n).trans ?_
      have hout : lostOf (pantryOut s w.val) n = lostOf s n := lostOf_of_ctxs (by
        refine (eq_of_view unrecorded State.ctxs (fun _ => rfl) (unrecorded_addFrec ..)).trans ?_
        exact (eq_of_view quiet State.ctxs (fun _ => rfl) (quiet_raiseEvent ..)).trans rfl) n
      rw [hlost, if_pos hn, hout, hl]
      rfl
  · have hexec : exec (.pantryCorrected w) s = .next (modPantry { s with
        nvm := { s.nvm with frecSum := { s.nvm.frecSum with ceCnt := min 0xFFFFFFFF (s.nvm.frecSum.ceCnt + 1) } } }
        w.val fun p => { p with flags := p.flags ||| 8 }) := congrArg Host.Outcome.next (if_pos hp)
    refine ⟨_, hexec, ?_, fun v hv => ?_, rfl, rfl⟩
    · exact (pantry_modPantry ..).trans (if_pos rfl)
    · exact (pantry_modPantry ..).trans (if_neg hv)

end Sys2Proof.Machine


/-!
# Lasers, the spare and qualification

What the loss of a laser makes of the Window that it fed (R111 to R115), the spare's switch, and the qualification of a
quarantined Window (R106, R108).
-/

namespace Sys2Proof.Machine
open Sys2Proof

/-! ### Lost lasers (R111 to R115) -/

/-- The Lamp without a laser that is lost, with its record. -/
def laserGone (s : State) (l : Nat) : State :=
  addFrec (capacity { s with lamp := { s.lamp with
    lok := s.lamp.lok &&& ~~~(BitVec.ofNat 9 (2 ^ l)), enabled := s.lamp.enabled &&& ~~~(BitVec.ofNat 9 (2 ^ l)),
    failed := s.lamp.failed ||| BitVec.ofNat 9 (2 ^ l) } } 3 l false) 2 3 l 0 0 noCtx

/-- The flag of a Window whose laser is lost. -/
def unlit (s : State) (w : Nat) : State := modWin s w fun x => { x with flags := x.flags ||| 2, convRun := 0 }

/-- That Window under quarantine if it was in service, and retired if no laser is left for it. -/
def unfed (s : State) (l w : Nat) : State :=
  let s := if inService s w ∨ (win s w).state = .qual then quarantine s w 2 else s
  if l = 8 ∨ s.lamp.spareUse ∨ s.lamp.failed.getLsbD 8 then retire s w else s

theorem laserFail_cases (s : State) (l : Nat) : laserFail s l = laserGone s l ∨ ∃ w, laserFail s l = unfed (unlit (laserGone s l) w) l w := by
  unfold laserFail
  dsimp only
  split
  · exact .inl rfl
  · exact .inr ⟨_, rfl⟩

theorem steady_retire (s : State) (w : Nat) : steady (retire s w) = steady s := by rw [retire, steady_modPantry, steady_modWin]

theorem steady_unfed (s : State) (l w : Nat) : steady (unfed s l w) = steady s := by
  have h : steady (if inService s w ∨ (win s w).state = .qual then quarantine s w 2 else s) = steady s := by
    split
    · exact steady_quarantine ..
    · rfl
  refine Eq.trans ?_ h
  unfold unfed
  generalize (if inService s w ∨ (win s w).state = .qual then quarantine s w 2 else s) = u
  dsimp only
  split
  · exact steady_retire u w
  · rfl

/-- A lost laser changes the Lamp, and work and records beside it. -/
theorem steady_laserFail (s : State) (l : Nat) : steady (laserFail s l) = steady { s with lamp := { s.lamp with
    lok := s.lamp.lok &&& ~~~(BitVec.ofNat 9 (2 ^ l)), enabled := s.lamp.enabled &&& ~~~(BitVec.ofNat 9 (2 ^ l)),
    failed := s.lamp.failed ||| BitVec.ofNat 9 (2 ^ l) } } := by
  have hgone : steady (laserGone s l) = _ := (steady_addFrec ..).trans (steady_capacity ..)
  rcases laserFail_cases s l with h | ⟨w, h⟩
  · rw [h, hgone]
  · rw [h, steady_unfed, unlit, steady_modWin, hgone]

theorem steady_spareLost (s : State) (l : Nat) : steady (spareLost s l) = steady s := by
  unfold spareLost
  split
  · exact foldl_keeps (g := retire) steady steady_retire _ s
  · rfl

theorem getLsbD_two_pow_eight {l : Nat} (hl : l < 8) : (BitVec.ofNat 9 (2 ^ l)).getLsbD 8 = false := by
  rw [BitVec.getLsbD_ofNat, Nat.testBit_two_pow_of_ne (by omega)]
  exact Bool.and_false _

/-- The loss of a Window's own laser while the spare is free quarantines the Window. -/
theorem laserFail_own {s : State} {l : Nat} (hl : l < 8) (hspare : (win s l).spare = false) (hserve : inService s l = true)
    (hfree : s.lamp.spareUse = false) (h8 : s.lamp.failed.getLsbD 8 = false) :
    laserFail s l = quarantine (unlit (laserGone s l) l) l 2 := by
  have hgone : steady (laserGone s l) = _ := (steady_addFrec ..).trans (steady_capacity ..)
  have hwin (v : Nat) : win (laserGone s l) v = win s v := by
    rw [win, laserGone, windows_addFrec, windows_capacity]; rfl
  have hstate : (win (unlit (laserGone s l) l) l).state = (win s l).state := by
    rw [unlit, win_modWin, if_pos rfl, hwin]
  have hin : inService (unlit (laserGone s l) l) l = true := by rw [← hserve, inService, inService, hstate]
  have hfail : laserFail s l = unfed (unlit (laserGone s l) l) l l := by
    have htgt : (if l < 8 then (if (win (laserGone s l) l).spare then none else some l)
        else if (laserGone s l).lamp.spareUse then some (laserGone s l).lamp.spareTo else none) = some l := by
      rw [if_pos hl, hwin, hspare]; rfl
    unfold laserFail
    dsimp only
    change (match (if l < 8 then (if (win (laserGone s l) l).spare then none else some l)
      else if (laserGone s l).lamp.spareUse then some (laserGone s l).lamp.spareTo else none) with
      | none => laserGone s l
      | some w => unfed (unlit (laserGone s l) w) l w) = _
    rw [htgt]
  have hlamp : (quarantine (unlit (laserGone s l) l) l 2).lamp = (laserGone s l).lamp :=
    (eq_of_view steady State.lamp (fun _ => rfl) (steady_quarantine ..)).trans rfl
  have hlamp' : (laserGone s l).lamp = _ := eq_of_view steady State.lamp (fun _ => rfl) hgone
  rw [hfail, unfed, if_pos (Or.inl hin)]
  rw [hlamp, hlamp', if_neg]
  rw [BitVec.getLsbD_or, h8, getLsbD_two_pow_eight hl, hfree]
  simp [Nat.ne_of_lt hl]

/-- What the loss of its own laser makes of a Window in service. -/
theorem win_laserFail_own {s : State} {l : Nat} (hl : l < 8) (hspare : (win s l).spare = false) (hserve : inService s l = true)
    (hfree : s.lamp.spareUse = false) (h8 : s.lamp.failed.getLsbD 8 = false) :
    WinEnds ({ win s l with flags := (win s l).flags ||| 2, convRun := 0 }.quarantined (pantry s l).out) (win (laserFail s l) l) := by
  have hwin : win (unlit (laserGone s l) l) l = { win s l with flags := (win s l).flags ||| 2, convRun := 0 } := by
    rw [unlit, win_modWin, if_pos rfl, win, laserGone, windows_addFrec, windows_capacity]; rfl
  have hpantry : pantry (unlit (laserGone s l) l) l = pantry s l := by
    rw [pantry, unlit, show (modWin (laserGone s l) l _).pantries = (laserGone s l).pantries from rfl, laserGone, pantries_addFrec,
      pantries_capacity]
    rfl
  have hstate : (win (unlit (laserGone s l) l) l).state = .idle ∨ (win (unlit (laserGone s l) l) l).state = .run := by
    rw [hwin]
    simpa [inService] using hserve
  rw [laserFail_own hl hspare hserve hfree h8]
  have h := win_quarantine (s := unlit (laserGone s l) l) (w := l) 2 (by rcases hstate with h | h <;> rw [h] <;> decide)
    (by rcases hstate with h | h <;> rw [h] <;> decide) l
  rw [if_pos rfl, hwin, hpantry] at h
  exact h

/-! ### The spare and qualification -/

theorem spareTo_frame (s : State) (w : Nat) : (spareTo s w).lamp = { s.lamp with
    spareUse := true, spareTo := w, enabled := s.lamp.enabled ||| 0x100 } ∧ (spareTo s w).mem = s.mem ∧
    ∀ v, win (spareTo s w) v = if v = w then { win s w with spare := true, convRun := 0 } else win s v := by
  unfold spareTo
  refine ⟨(eq_of_view steady State.lamp (fun _ => rfl) (steady_addFrec ..)).trans rfl,
    (eq_of_view steady State.mem (fun _ => rfl) (steady_addFrec ..)).trans rfl, fun v => ?_⟩
  rw [win, windows_addFrec]
  exact Eq.trans rfl (win_modWin s w v fun x => { x with spare := true, convRun := 0 })

/-- Settles O31. -/
theorem lasersPairsAndQualification : Obligations.LasersPairsAndQualification := by
  unfold Obligations.LasersPairsAndQualification
  intro s hp
  refine ⟨fun l hlit => ?_, fun w hfree h8 hw => ?_, fun w a b hq hre hrun hlit hout ha hb => ?_⟩
  · have hexec : exec (.laserLost l) s = .next (spareLost (laserFail s l.val) l.val) :=
      congrArg Host.Outcome.next (if_pos (by rw [hp, hlit]; rfl))
    have hview := (steady_spareLost (laserFail s l.val) l.val).trans (steady_laserFail s l.val)
    have hlamp := eq_of_view steady State.lamp (fun _ => rfl) hview
    have hbit := getLsbD_two_pow_self l.isLt
    refine ⟨_, hexec, ?_, ?_, ?_, fun hl hspare hserve hfree h8 => ?_, (eq_of_view steady (fun u => u.mem.data) (fun _ => rfl) hview).trans rfl,
      (eq_of_view steady State.fuses (fun _ => rfl) hview).trans rfl⟩
    · rw [hlamp, BitVec.getLsbD_and, BitVec.getLsbD_not, hbit]; simp
    · rw [hlamp, BitVec.getLsbD_and, BitVec.getLsbD_not, hbit]; simp
    · rw [hlamp, BitVec.getLsbD_or, hbit]; simp
    · have hnot : spareLost (laserFail s l.val) l.val = laserFail s l.val := if_neg fun h => absurd h.1 (Nat.ne_of_lt hl)
      have hwin := win_laserFail_own hl hspare hserve hfree h8
      rw [hnot]
      refine ⟨hwin.state.resolve_right (fun h => nomatch h.1), ?_, (congrArg Window.quarcnt hwin.same :), (congrArg Window.redir hwin.same :)⟩
      have hflags : (win (laserFail s l.val) l.val).flags = (win s l.val).flags ||| 2 := congrArg Window.flags hwin.same
      rw [hflags, BitVec.getLsbD_or]
      exact Bool.or_true _
  · have hexec : exec .spareSwitchIn s = .next (spareTo s w) := by
      change execSpareSwitchIn s = _
      rw [execSpareSwitchIn, if_pos (by rw [hp, hfree, h8]; rfl), hw]
    obtain ⟨hlamp, hmem, hwin⟩ := spareTo_frame s w
    refine ⟨_, hexec, hlamp, ?_, fun v hv => ?_, hmem⟩
    · rw [hwin, if_pos rfl]
    · rw [hwin, if_neg hv]
  · have hsize : BitVec.ofNat 32 (a.length + b.length) = 8192 := by rw [ha, hb]; rfl
    have hcount : (win (qualRun s w.val a b).1 w.val).witcnt = (win s w.val).witcnt + 8192 := by
      refine (congrArg Window.witcnt ((win_modWin ..).trans (if_pos rfl))).trans ?_
      rw [← hsize]
    have hrest : (win (qualRun s w.val a b).1 w.val).state = .quar ∧
        (win (qualRun s w.val a b).1 w.val).qualTries = (win s w.val).qualTries := by
      have h : win (qualRun s w.val a b).1 w.val = _ := (win_modWin ..).trans (if_pos rfl)
      rw [h]
      exact ⟨hq, rfl⟩
    have hmem : (qualRun s w.val a b).1.mem = s.mem := rfl
    have hexec : exec (.qualification w a b) s = .next (
        if qualPass s w.val (qualRun s w.val a b).2 then intoService (qualRun s w.val a b).1 w.val
        else if 8 ≤ (win s w.val).qualTries then retire (qualRun s w.val a b).1 w.val
        else modWin (qualRun s w.val a b).1 w.val (fun x => { x with qualTries := x.qualTries + 1, requal := false })) := by
      refine congrArg Host.Outcome.next (if_pos ?_)
      rw [hp, hq, hre, hlit, hout, qualSize, ha, hb, decide_eq_true hrun]
      rfl
    generalize qualRun s w.val a b = r at hcount hrest hmem hexec
    refine ⟨_, hexec, ?_⟩
    by_cases hpass : qualPass s w.val r.2 = true
    · rw [if_pos hpass, if_pos hpass]
      have hwin : win (intoService r.1 w.val) w.val = { win r.1 w.val with
          state := .idle, active := none, paneA := (win r.1 w.val).paneA.emptied, paneB := (win r.1 w.val).paneB.emptied,
          redir := false, qualTries := 0, requal := false } := by
        rw [win, intoService, windows_addFrec, windows_capacity]
        exact (win_modPantry ..).trans ((win_modWin ..).trans (if_pos rfl))
      rw [hwin]
      refine ⟨hcount, ⟨rfl, rfl, ?_⟩, ?_⟩
      · rw [pantry, intoService, pantries_addFrec, pantries_capacity]
        exact (congrArg Pantry.migr ((pantry_modPantry ..).trans (if_pos rfl)) :)
      · refine Eq.trans ?_ hmem
        exact (eq_of_view steady State.mem (fun _ => rfl) (steady_addFrec ..)).trans
          ((eq_of_view steady State.mem (fun _ => rfl) (steady_capacity ..)).trans rfl)
    · rw [if_neg hpass, if_neg hpass]
      by_cases htries : 8 ≤ (win s w.val).qualTries
      · rw [if_pos htries, if_pos htries]
        have hwin : win (retire r.1 w.val) w.val = _ := (win_modPantry ..).trans ((win_modWin ..).trans (if_pos rfl))
        rw [hwin]
        exact ⟨hcount, rfl, hmem⟩
      · rw [if_neg htries, if_neg htries, win_modWin, if_pos rfl]
        exact ⟨hcount, ⟨hrest.1, congrArg (· + 1) hrest.2⟩, hmem⟩

end Sys2Proof.Machine


/-!
# Panes and passes

The check, arming and swap of pane images (R81 to R86); witnesses, rounds, the start of a pass and its commit (R88 to R112), with
what a committed leaf does in its tree (R119 to R123).
-/

namespace Sys2Proof.Machine
open Sys2Proof

/-! ### Pane images (R81 to R86) -/

@[simp] theorem paneOf_setPane_same (x : Window) (b : Bool) (p : Pane) : paneOf (x.setPane b p) b = p := by cases b <;> rfl
@[simp] theorem paneOf_setPane_other (x : Window) (b : Bool) (p : Pane) : paneOf (x.setPane b p) (!b) = paneOf x (!b) := by cases b <;> rfl

/-- A pane when commands have ended is as it was or empty, and its image is what it was or gone. -/
theorem WinEnds.pane {x y : Window} (h : WinEnds x y) (b : Bool) :
    ((paneOf y b).state = (paneOf x b).state ∨ (paneOf y b).state = .empty) ∧
    ((paneOf y b).image = (paneOf x b).image ∨ (paneOf y b).image = none) := by
  cases b
  · exact ⟨h.paneA, h.imageA⟩
  · exact ⟨h.paneB, h.imageB⟩

/-- The Window of a staged image that failed its check (R82). -/
def Window.imageBad (x : Window) (b : Bool) : Window :=
  { (x.setPane b { paneOf x b with state := .empty, image := none, staged := [], loader := none, hist := [], lastQ6 := none }) with
    flags := x.flags ||| 4 }

/-- What a failed check leaves: an empty pane, the flag, and the end of its loader. -/
theorem imageCheck_bad {s : State} {w : Nat} {b : Bool} (h : imageOk (paneOf (win s w) b).staged s.ifLevel.toNat = false) :
    WinEnds ((win s w).imageBad b) (win (imageCheck s w b) w) ∧
    ∀ id o, (paneOf (win s w) b).loader = some id → findOp s id = some o → o.done = none →
      (findOp (imageCheck s w b) id).bind (·.done) = some .imageInvalid := by
  have hcheck : ∃ u, win u w = (win s w).imageBad b ∧ u.ops = s.ops ∧ imageCheck s w b = match (paneOf (win s w) b).loader with
      | some id => endOp u id .imageInvalid false
      | none => u := by
    unfold imageCheck
    dsimp only
    rw [if_neg (by rw [h]; exact Bool.false_ne_true)]
    exact ⟨_, (win_modWin ..).trans (if_pos rfl), rfl, rfl⟩
  obtain ⟨u, hwin, hops, hcheck⟩ := hcheck
  rw [hcheck, ← hwin]
  split
  next id hid =>
    refine ⟨winEnds_endOp .., fun id' o hl ho hd => ?_⟩
    obtain rfl := Option.some.inj (hid.symm.trans hl)
    have hu : findOp u id = some o := by rw [← ho, findOp, findOp, hops]
    rw [findOp_endOp_same hu hd]
    rfl
  next hid => exact ⟨.refl _, fun id' o hl => nomatch hid.symm.trans hl⟩

/-- Settles O30. -/
theorem panesLoadArmAndSwap : Obligations.PanesLoadArmAndSwap := by
  unfold Obligations.PanesLoadArmAndSwap
  intro s w b
  refine ⟨fun hst hlen => ?_, fun hst => ?_, fun hserve hover hswap hst hact => ?_, fun hswap => ?_⟩
  · have hexec : exec (.imageCheck w b) s = .next (imageCheck s w.val b) :=
      congrArg Host.Outcome.next (if_pos (by rw [hst, show (paneOf (win s w.val) b).staged.length = imageBytes from hlen]; rfl))
    refine ⟨_, hexec, ?_⟩
    by_cases hok : imageOk (paneOf (win s w.val) b).staged s.ifLevel.toNat = true
    · rw [if_pos hok]
      unfold imageCheck
      dsimp only
      rw [if_pos hok, win_modWin, if_pos rfl]
      refine ⟨?_, rfl, ?_, rfl⟩
      · exact paneOf_setPane_same ..
      · exact paneOf_setPane_other ..
    · rw [if_neg hok]
      obtain ⟨hends, hloader⟩ := imageCheck_bad (Bool.eq_false_iff.2 hok)
      obtain ⟨hstate, himage⟩ := hends.pane b
      have hbad : paneOf ((win s w.val).imageBad b) b = _ := paneOf_setPane_same ..
      rw [hbad] at hstate himage
      have hflags : (win (imageCheck s w.val b) w.val).flags = (win s w.val).flags ||| 4 := (congrArg Window.flags hends.same :)
      refine ⟨hstate.elim id id, himage.elim id id, ?_, hloader⟩
      rw [hflags, BitVec.getLsbD_or]
      exact Bool.or_true _
  · have hexec : exec (.paneArmed w b) s = .next (paneArmed s w.val b) := congrArg Host.Outcome.next (if_pos (decide_eq_true hst))
    refine ⟨_, hexec, ?_⟩
    have harm : ∃ u, (paneOf (win u w.val) b).state = .armed ∧ (paneOf (win u w.val) b).image = (paneOf (win s w.val) b).image ∧
        u = { s with windows := u.windows } ∧ paneArmed s w.val b = match (paneOf (win s w.val) b).loader with
          | some id => modOp u id (fun o => match o.cmd with | .imageLoad _ _ _ => { o with done := some .ok } | _ => o)
          | none => u := by
      have hpane (f : Window → Window) (hf : paneOf (f (win s w.val)) b = { paneOf (win s w.val) b with state := .armed, loader := none }) :
          (paneOf (win (modWin s w.val f) w.val) b).state = .armed ∧
          (paneOf (win (modWin s w.val f) w.val) b).image = (paneOf (win s w.val) b).image := by
        rw [win_modWin, if_pos rfl, hf]
        exact ⟨rfl, rfl⟩
      unfold paneArmed
      refine ⟨_, (hpane _ ?_).1, (hpane _ ?_).2, rfl, rfl⟩
      · exact paneOf_setPane_same ..
      · exact paneOf_setPane_same ..
    obtain ⟨u, hstate, himage, hframe, harm⟩ := harm
    rw [harm]
    split
    next id hid =>
      refine ⟨hstate, himage, fun id' o a v c hl ho hcmd => ?_, by rw [hframe]; rfl⟩
      obtain rfl := Option.some.inj (hid.symm.trans hl)
      have hu : findOp u id = some o := by rw [← ho, hframe]; rfl
      rw [findOp_modOp (fun o => by split <;> rfl), if_pos rfl, hu, Option.map_some, Option.bind_some, hcmd]
    next hid => exact ⟨hstate, himage, fun _ _ _ _ _ hl => absurd (hid.symm.trans hl) nofun, by rw [hframe]⟩
  · have hexec : exec (.paneSwap w b) s = .next (modWin s w.val fun x => { x with swap := some b }) :=
      congrArg Host.Outcome.next (if_pos (by rw [hserve, hover, hswap, hst, decide_eq_true hact]; rfl))
    refine ⟨_, hexec, ?_, fun v hv => ?_, rfl⟩
    · exact (win_modWin ..).trans (if_pos rfl)
    · exact (win_modWin ..).trans (if_neg hv)
  · have hexec : exec (.swapComplete w) s = .next (modWin s w.val fun x => swapDone x b) := by
      change execSwapComplete w s = _
      rw [execSwapComplete, hswap]
    have hwin : win (modWin s w.val fun x => swapDone x b) w.val = swapDone (win s w.val) b := (win_modWin ..).trans (if_pos rfl)
    refine ⟨_, hexec, ?_, ?_, ?_, ?_, ?_, fun v hv => (win_modWin ..).trans (if_neg hv), rfl⟩
    all_goals rw [hwin, swapDone]
    · cases b <;> rfl
    · cases b <;> simp [paneOf, Window.setPane] <;> split <;> rfl

/-! ### Issue of slots and witnesses (R92, R101 to R105) -/

/-- The Window and the pass that issue changes: it counts, and takes from the plan. -/
def issued (x : Window) (y : Window) : Prop := y = { x with witcnt := y.witcnt, symcnt := y.symcnt, repcnt := y.repcnt }
def Pass.issued (p q : Pass) : Prop := q = { p with plan := q.plan, pendWit := q.pendWit, sinceWit := q.sinceWit }

theorem issueOne_issued (x : Window) (p : Pass) (wit : Bool) : issued x (issueOne x p wit).1 ∧ p.issued (issueOne x p wit).2 := by
  unfold issueOne
  split <;> exact ⟨rfl, rfl⟩

theorem issueGo_issued (n : Nat) : ∀ (x : Window) (p : Pass), issued x (issueGo n x p).1 ∧ p.issued (issueGo n x p).2 := by
  induction n with
  | zero => exact fun _ _ => ⟨rfl, rfl⟩
  | succ n ih =>
    intro x p
    rw [issueGo]
    split
    · exact ⟨rfl, rfl⟩
    next b t _ =>
      split
      · obtain ⟨h1, h2⟩ := issueOne_issued x { p with plan := t } b
        obtain ⟨k1, k2⟩ := ih (issueOne x { p with plan := t } b).1 (issueOne x { p with plan := t } b).2
        dsimp only
        rw [issued, Pass.issued] at *
        exact ⟨k1.trans (by rw [h1]), k2.trans (by rw [h2])⟩
      · exact ⟨rfl, rfl⟩

/-- What issue makes of the part: the Window counts and has the pass, the plan taken from; the rest stays but for port words. -/
theorem issue_frame (s : State) (w : Nat) (p : Pass) : ∃ x q, issued (win s w) x ∧ p.issued q ∧
    win (issue s w p) w = { x with pass := some q } ∧ (∀ v, v ≠ w → win (issue s w p) v = win s v) ∧
    (issue s w p).mem = s.mem ∧ (issue s w p).pantries = s.pantries := by
  obtain ⟨hx, hp⟩ := issueGo_issued p.plan.length (win s w) p
  have hwin (v : Nat) := win_modWin s w v fun _ =>
    { (issueGo p.plan.length (win s w) p).1 with pass := some (issueGo p.plan.length (win s w) p).2 }
  exact ⟨_, _, hx, hp, (hwin w).trans (if_pos rfl), fun v hv => (hwin v).trans (if_neg hv), rfl, rfl⟩

/-- Clips of a round that is not the last are not counted yet. -/
theorem decideClips_frame (x : Window) (p : Pass) (n : Nat) :
    (decideClips x p n).1 = { x with satcnt := (decideClips x p n).1.satcnt, flags := (decideClips x p n).1.flags } ∧
    (decideClips x p n).2 = { p with decided := max p.decided n, sat := (decideClips x p n).2.sat } ∧
    (p.round ≠ 3 → (decideClips x p n).1.satcnt = x.satcnt) := by
  refine ⟨rfl, rfl, fun h => ?_⟩
  unfold decideClips
  rw [if_neg h]
  exact BitVec.add_zero _

/-- What a witness leaves before its bound is judged: the Window, and its pass with the residual and the bound. -/
theorem witnessResult_frame (s : State) (w : Nat) {p : Pass} {e : PendWit} {rest : List PendWit} {img : Image} {codes : List Int} :
    let res := residual img (pilotSigns e.seed e.cnt) (pilotOf img p.fmt) codes
    let own := p.own ++ [upDy res.1]
    let b := boundB (largestE own (paneOf (win s w) p.pane).hist p.hist) p.fmt.qm (pilotOf img p.fmt) (floorOf s w p.pane)
    ∃ u q, (∃ n f, win u w = { win s w with satcnt := n, flags := f } ∧ (p.round ≠ 3 → n = (win s w).satcnt)) ∧
      u.pantries = s.pantries ∧ q.own = own ∧ q.bound = b ∧
      witnessResult s w p e rest img codes = if leF32 b p.blimit then issue u w q
        else quarantine (modWin u w fun x => { x with flags := x.flags ||| 1, pass := some q }) w 1 := by
  intro res own b
  obtain ⟨hx, -, hsat⟩ := decideClips_frame (win s w) p e.work
  let r := decideClips (win s w) p e.work
  let s1 := modWin s w fun _ => r.1
  have h1 : win s1 w = { win s w with satcnt := r.1.satcnt, flags := r.1.flags } := ((win_modWin ..).trans (if_pos rfl)).trans hx
  refine ⟨if res.2 then modWin s1 w (fun x => { x with flags := x.flags ||| 8 }) else s1,
    { r.2 with own := own, bound := b, pendWit := rest }, ?_, ?_, rfl, rfl, rfl⟩
  · split
    · exact ⟨r.1.satcnt, r.1.flags ||| 8, by rw [win_modWin, if_pos rfl, h1], hsat⟩
    · exact ⟨r.1.satcnt, r.1.flags, h1, hsat⟩
  · split <;> rfl

/-- A repeat round is the issue of its clipped slots. -/
theorem clipRound_eq (s : State) (w : Nat) (p : Pass) (codes : List (List Int)) : ∃ q : Pass, q.round = p.round + 1 ∧ q.clipRep = true ∧
    q.slots.length = p.slots.length ∧ q.op = p.op ∧ clipRound s w p codes = issue s w q := by
  refine ⟨_, ?_, ?_, ?_, ?_, rfl⟩
  · rfl
  · rfl
  · exact List.length_map ..
  · rfl

/-- Settles O29. -/
theorem witnessesAndRepeatRounds : Obligations.WitnessesAndRepeatRounds := by
  unfold Obligations.WitnessesAndRepeatRounds
  intro s w p hpass
  refine ⟨fun e rest img codes hwit himg hrun => ?_, fun codes hplan hwit hround hrep => ?_⟩
  · intro res own b
    have hexec : exec (.witnessResult w codes) s = .next (witnessResult s w.val p e rest img codes) := by
      change execWitnessResult w codes s = _
      rw [execWitnessResult, hpass]
      dsimp only
      rw [hwit, himg]
    obtain ⟨u, q, ⟨n, f, hwin, hsat⟩, hpan, hown, hbound, hres⟩ :=
      witnessResult_frame s w.val (p := p) (e := e) (rest := rest) (img := img) (codes := codes)
    refine ⟨_, hexec.trans (congrArg _ hres), ?_⟩
    by_cases hb : leF32 b p.blimit = true
    · rw [if_pos hb, if_pos hb]
      obtain ⟨x, q', hx, hq, hw, -⟩ := issue_frame u w.val q
      rw [hwin, issued] at hx
      rw [hw]
      exact ⟨fun hr => (congrArg Window.satcnt hx).trans (hsat hr), q', rfl, (congrArg Pass.own hq).trans hown,
        (congrArg Pass.bound hq).trans hbound, (congrArg Window.state hx).trans hrun⟩
    · rw [if_neg hb, if_neg hb]
      have hw : win (modWin u w.val fun x => { x with flags := x.flags ||| 1, pass := some q }) w.val =
          { win s w.val with satcnt := n, flags := f ||| 1, pass := some q } := by rw [win_modWin, if_pos rfl, hwin]
      have hp : pantry (modWin u w.val fun x => { x with flags := x.flags ||| 1, pass := some q }) w.val = pantry s w.val :=
        congrArg (fun b => bankGet b Pantry.reset w.val) hpan
      have hnq : (win (modWin u w.val fun x => { x with flags := x.flags ||| 1, pass := some q }) w.val).state ≠ .quar := by
        rw [hw]; exact fun h => nomatch hrun.symm.trans h
      have hnr : (win (modWin u w.val fun x => { x with flags := x.flags ||| 1, pass := some q }) w.val).state ≠ .retired := by
        rw [hw]; exact fun h => nomatch hrun.symm.trans h
      have hends := win_quarantine 1 hnq hnr w.val
      have hmigr := (PantriesServe.quarantine 1 hnq hnr).migr w.val
      rw [pantry_modPantry, if_pos rfl, hp] at hmigr
      rw [if_pos rfl, hw] at hends
      generalize quarantine (modWin u w.val fun x => { x with flags := x.flags ||| 1, pass := some q }) w.val 1 = t at hends hmigr
      have hflags : (win t w.val).flags = f ||| 1 := (congrArg Window.flags hends.same :)
      refine ⟨fun hr => (congrArg Window.satcnt hends.same).trans (hsat hr), hends.state.resolve_right (fun h => nomatch h.1),
        hends.pass.elim id id, ?_, hends.paneA.elim id id, hends.paneB.elim id id, (congrArg Window.quarcnt hends.same :), hmigr⟩
      rw [hflags, BitVec.getLsbD_or]
      exact Bool.or_true _
  · have hexec : exec (.clipRepeatRound w codes) s = .next (clipRound s w.val p codes) := by
      change execClipRepeatRound w codes s = _
      rw [execClipRepeatRound, hpass]
      dsimp only
      rw [if_pos]
      rw [hplan, hwit, decide_eq_true hround, List.isEmpty_eq_false_iff.2 hrep]
      rfl
    obtain ⟨p', hround', hclip, hslots, hop, hissue⟩ := clipRound_eq s w.val p codes
    obtain ⟨x, q, -, hq, hw, hothers, hmem, hpan⟩ := issue_frame s w.val p'
    refine ⟨_, q, hexec.trans (congrArg _ hissue), by rw [hw], (congrArg Pass.round hq).trans hround', (congrArg Pass.clipRep hq).trans hclip,
      (congrArg (fun p : Pass => p.slots.length) hq).trans hslots, (congrArg Pass.op hq).trans hop, hmem, hpan, hothers⟩

end Sys2Proof.Machine


/-!
# Passes and trees

The start of a pass and its commit (R88 to R99, R111, R112), what a committed leaf does in its tree (R119 to R125), and how a tree
closes: by its root, by combination and by the epilogue (R133 to R149).
-/

namespace Sys2Proof.Machine
open Sys2Proof

/-- A change of a Pantry that leaves one property of it leaves that of every Pantry. -/
theorem pantry_modPantry_keeps {α : Type} (p : Pantry → α) {f : Pantry → Pantry} (hf : ∀ q, p (f q) = p q) (s : State) (w v : Nat) :
    p (pantry (modPantry s w f) v) = p (pantry s v) := by
  rw [pantry_modPantry]
  split
  next h => subst h; exact hf _
  next => rfl

/-! ### What trees change (R119 to R125) -/

/-- A state without what the work on a tree changes. -/
def treeless (s : State) : State :=
  { s with freeIx := 0, pantries := [], trees := [], ops := [], link := { s.link with kths := [] }, corr := { s.corr with aud := [] } }

@[simp] theorem treeless_modPantry (s : State) (p : Nat) (f : Pantry → Pantry) : treeless (modPantry s p f) = treeless s := rfl
@[simp] theorem treeless_putTree (s : State) (t : Tree) : treeless (putTree s t) = treeless s := rfl
@[simp] theorem treeless_modOp (s : State) (id : OpId) (f : Op → Op) : treeless (modOp s id f) = treeless s := rfl
@[simp] theorem treeless_countFxs (s : State) (p : Nat) (xs : List NodeFx) : treeless (countFxs s p xs) = treeless s :=
  foldl_keeps (g := fun s x => countFx s p x) treeless (fun _ _ => rfl) xs s
@[simp] theorem treeless_shutTree (s : State) (t : Tree) : treeless (shutTree s t) = treeless s := by
  unfold shutTree
  dsimp only
  split <;> rfl
@[simp] theorem treeless_finalValue (s : State) (o : Op) (c : WinCmd) (t : Tree) (x : Partial) :
    treeless (finalValue s o c t x).1 = treeless s := by
  unfold finalValue
  dsimp only
  split
  · rfl
  · split <;> rfl
  · dsimp only
    split
    all_goals split <;> rfl
theorem treeless_completeRoot (s : State) (o : Op) (c : WinCmd) (t : Tree) (x : Partial) :
    treeless (completeRoot s o c t x) = treeless s := by
  unfold completeRoot
  dsimp only
  split
  · rw [treeless_putTree, treeless_finalValue]
  · rw [treeless_modOp, treeless_shutTree, putSlot, treeless_modPantry, treeless_finalValue]
@[simp] theorem treeless_admitLeaves (k : SrKey) (c : WinCmd) (n : Nat) : ∀ (s : State) (t : Tree),
    treeless (admitLeaves k c n s t).1 = treeless s := by
  induction n with
  | zero => intro s t; rfl
  | succ n ih =>
    intro s t
    rw [admitLeaves]
    split
    · rfl
    · dsimp only
      rw [ih, treeless_modPantry, treeless_countFxs]
@[simp] theorem treeless_numberRoot (s : State) (o : Op) (c : WinCmd) : treeless (numberRoot s o c) = treeless s := by
  unfold numberRoot
  split <;> rfl
theorem treeless_runTree (s : State) (o : Op) (c : WinCmd) (t : Tree) : treeless (runTree s o c t) = treeless s := by
  unfold runTree
  dsimp only
  split
  · rw [treeless_putTree, treeless_admitLeaves]
  · split
    · split
      · rw [treeless_completeRoot, treeless_numberRoot, treeless_putTree, treeless_countFxs, treeless_admitLeaves]
      · rw [treeless_numberRoot, treeless_putTree, treeless_countFxs, treeless_admitLeaves]
    · rw [treeless_putTree, treeless_countFxs, treeless_admitLeaves]
theorem treeless_commitLeaf (s : State) (o : Op) (c : WinCmd) (t : Tree) (l : Leaf) : treeless (commitLeaf s o c t l) = treeless s := by
  unfold commitLeaf
  dsimp only
  split
  · exact treeless_runTree ..
  · split
    · rfl
    · rw [treeless_runTree, treeless_putTree]
      rfl

/-! ### The commands during that -/

/-- A command of which a tree's work has changed flags, number or status. -/
structure TreeWork (o u : Op) : Prop where
  id : u.id = o.id
  passes : u.passes = o.passes

/-- The commands as a tree's work leaves them: one of them changed by it. -/
def OpsWorked (s t : State) : Prop := ∃ g, t.ops = s.ops.map g ∧ ∀ o, TreeWork o (g o)

theorem OpsWorked.of_eq {s t : State} (h : t.ops = s.ops) : OpsWorked s t := ⟨id, by rw [h, List.map_id], fun _ => ⟨rfl, rfl⟩⟩
theorem OpsWorked.trans {s t u : State} : OpsWorked s t → OpsWorked t u → OpsWorked s u
  | ⟨f, hf, hfo⟩, ⟨g, hg, hgo⟩ => ⟨g ∘ f, by rw [hg, hf, List.map_map],
      fun o => ⟨(hgo _).id.trans (hfo o).id, (hgo _).passes.trans (hfo o).passes⟩⟩
theorem OpsWorked.modOp (s : State) (id : OpId) {f : Op → Op} (hf : ∀ o, TreeWork o (f o)) : OpsWorked s (modOp s id f) :=
  ⟨fun o => if o.id = id then f o else o, rfl, fun o => by dsimp only; split <;> [exact hf o; exact ⟨rfl, rfl⟩]⟩

theorem OpsWorked.findOp {s t : State} (h : OpsWorked s t) (id : OpId) : ∃ g, findOp t id = (findOp s id).map g ∧ ∀ o, TreeWork o (g o) := by
  obtain ⟨g, ht, hg⟩ := h
  refine ⟨g, ?_, hg⟩
  rw [Machine.findOp, ht]
  exact find?_map_of_pred (fun o => by rw [(hg o).id]) s.ops

theorem ops_countFxs (s : State) (p : Nat) (xs : List NodeFx) : (countFxs s p xs).ops = s.ops :=
  foldl_keeps (g := fun s x => countFx s p x) State.ops (fun _ _ => rfl) xs s
theorem ops_shutTree (s : State) (t : Tree) : (shutTree s t).ops = s.ops := by
  unfold shutTree
  dsimp only
  split <;> rfl
theorem ops_finalValue (s : State) (o : Op) (c : WinCmd) (t : Tree) (x : Partial) : (finalValue s o c t x).1.ops = s.ops := by
  unfold finalValue
  dsimp only
  split
  · rfl
  · split <;> rfl
  · dsimp only
    split
    all_goals split <;> rfl
theorem ops_admitLeaves (k : SrKey) (c : WinCmd) (n : Nat) : ∀ (s : State) (t : Tree), (admitLeaves k c n s t).1.ops = s.ops := by
  induction n with
  | zero => intro s t; rfl
  | succ n ih =>
    intro s t
    rw [admitLeaves]
    split
    · rfl
    · exact (ih _ _).trans (ops_countFxs ..)

theorem OpsWorked.completeRoot (s : State) (o : Op) (c : WinCmd) (t : Tree) (x : Partial) : OpsWorked s (completeRoot s o c t x) := by
  unfold Machine.completeRoot
  dsimp only
  split
  · exact .of_eq (ops_finalValue ..)
  · refine OpsWorked.trans (.of_eq ?_) (.modOp _ o.id fun _ => ⟨rfl, rfl⟩)
    exact (ops_shutTree ..).trans (ops_finalValue ..)
theorem OpsWorked.numberRoot (s : State) (o : Op) (c : WinCmd) : OpsWorked s (numberRoot s o c) := by
  unfold Machine.numberRoot
  split
  · exact .of_eq rfl
  · exact OpsWorked.trans (.of_eq rfl) (.modOp _ o.id fun _ => ⟨rfl, rfl⟩)
theorem OpsWorked.runTree (s : State) (o : Op) (c : WinCmd) (t : Tree) : OpsWorked s (runTree s o c t) := by
  unfold Machine.runTree
  dsimp only
  split
  · exact .of_eq (ops_admitLeaves ..)
  · split
    · split
      · refine OpsWorked.trans ?_ (.completeRoot ..)
        refine OpsWorked.trans ?_ (.numberRoot ..)
        exact .of_eq ((ops_countFxs ..).trans (ops_admitLeaves ..))
      · refine OpsWorked.trans ?_ (.numberRoot ..)
        exact .of_eq ((ops_countFxs ..).trans (ops_admitLeaves ..))
    · exact .of_eq ((ops_countFxs ..).trans (ops_admitLeaves ..))
theorem OpsWorked.commitLeaf (s : State) (o : Op) (c : WinCmd) (t : Tree) (l : Leaf) : OpsWorked s (commitLeaf s o c t l) := by
  unfold Machine.commitLeaf
  dsimp only
  split
  · exact .runTree ..
  · split
    · exact .of_eq rfl
    · refine OpsWorked.trans ?_ (.runTree ..)
      exact .of_eq rfl

/-! ### A tree that opens with one leaf (R119, R120, R123) -/

/-- Effects of nodes count beside what a Pantry counts of trees and commits. -/
theorem pantry_countFxs (s : State) (p : Nat) (xs : List NodeFx) (v : Nat) :
    (pantry (countFxs s p xs) v).treeOpen = (pantry s v).treeOpen ∧ (pantry (countFxs s p xs) v).treeClose = (pantry s v).treeClose ∧
    (pantry (countFxs s p xs) v).commitCnt = (pantry s v).commitCnt ∧ (pantry (countFxs s p xs) v).sram = (pantry s v).sram := by
  have h := foldl_keeps (g := fun s x => countFx s p x)
    (fun s => ((pantry s v).treeOpen, (pantry s v).treeClose, (pantry s v).commitCnt, (pantry s v).sram))
    (fun u x => pantry_modPantry_keeps (fun q => (q.treeOpen, q.treeClose, q.commitCnt, q.sram)) (by exact fun _ => rfl) u p v) xs s
  exact ⟨congrArg (·.1) h, congrArg (·.2.1) h, congrArg (·.2.2.1) h, congrArg (·.2.2.2) h⟩

/-- A leaf that enters leaves the tree as it was but for its stack and the next leaf. -/
theorem addLeafTree_frame (k : SrKey) (c : WinCmd) (t : Tree) (l : Leaf) :
    (addLeafTree k c t l).1 = { t with next := l.p + 1, stack := (addLeafTree k c t l).1.stack } := by
  unfold addLeafTree
  dsimp only
  split <;> rfl

/-- A tree that holds its next leaf alone takes it and waits for the leaf after it. -/
theorem runTree_one (s : State) (o : Op) {c : WinCmd} {t : Tree} {l : Leaf} (hh : t.held = [l]) (hl : l.p = t.next)
    (hmore : t.next + 1 < c.kFirst + c.kCount) : ∃ (fx : List NodeFx) (st : List Partial),
      runTree s o c t = putTree (modPantry (countFxs s t.pantry fx) t.pantry fun p => { p with commitCnt := p.commitCnt + 1 })
        { t with held := [], next := t.next + 1, stack := st } := by
  have hadd := addLeafTree_frame (srKey s o c) c { t with held := [] } l
  have hadmit : admitLeaves (srKey s o c) c (t.held.length + 1) s t =
      (modPantry (countFxs s t.pantry (addLeafTree (srKey s o c) c { t with held := [] } l).2) t.pantry
        (fun p => { p with commitCnt := p.commitCnt + 1 }),
       { t with held := [], next := t.next + 1, stack := (addLeafTree (srKey s o c) c { t with held := [] } l).1.stack }) := by
    have hfind : t.held.find? (fun x => x.p = t.next) = some l := by rw [hh, List.find?_cons_of_pos (by simpa using hl)]
    have hrest : t.held.filter (fun x => x.p ≠ l.p) = [] := by rw [hh]; simp
    rw [admitLeaves, hfind]
    dsimp only
    rw [hrest, hadd, hh, hl]
    rfl
  unfold runTree
  dsimp only
  rw [hadmit]
  exact ⟨_, _, if_pos hmore⟩

theorem findTree_putTree {s : State} {t u : Tree} {id : OpId} (h : findTree s id = some u) (ht : t.op = id) :
    findTree (putTree s t) id = some t := by
  change (s.trees.map fun u => if u.op = t.op then t else u).find? _ = _
  rw [findTree] at h
  generalize s.trees = ts at h
  induction ts with
  | nil => exact nomatch h
  | cons x xs ih =>
    rw [List.map_cons]
    by_cases hx : x.op = t.op
    · rw [if_pos hx, List.find?_cons_of_pos (by simpa using ht)]
    · rw [if_neg hx, List.find?_cons_of_neg (by simpa using ht ▸ hx)]
      rw [List.find?_cons_of_neg (by simpa using ht ▸ hx)] at h
      exact ih h

/-- A tree that opens with its first leaf held takes it. -/
theorem openTree_one (s : State) (o : Op) {c : WinCmd} {t u : Tree} {l : Leaf} (hh : t.held = [l]) (hl : l.p = t.next)
    (hmore : t.next + 1 < c.kFirst + c.kCount) (hfind : findTree s t.op = some u) :
    let r := runTree (putTree (openTree s c t).1 (openTree s c t).2) o c (openTree s c t).2
    ∃ tr, findTree r t.op = some tr ∧ tr.open_ = true ∧ tr.waiting = false ∧ tr.held = [] ∧ tr.next = t.next + 1 ∧
      (pantry r t.pantry).treeOpen = (pantry s t.pantry).treeOpen + 1 ∧
      (pantry r t.pantry).commitCnt = (pantry s t.pantry).commitCnt + 1 := by
  intro r
  have hopen : ∃ lo hi st, (openTree s c t).2 = { t with lo := lo, hi := hi, open_ := true, waiting := false, stack := st } := ⟨_, _, _, rfl⟩
  obtain ⟨lo, hi, st, hopen⟩ := hopen
  have htrees : (openTree s c t).1.trees = s.trees := rfl
  have hpan : (openTree s c t).1.pantries = (modPantry s t.pantry fun p => { p with treeOpen := p.treeOpen + 1 }).pantries := rfl
  obtain ⟨fx, st', hrun⟩ := runTree_one (putTree (openTree s c t).1 (openTree s c t).2) o (c := c) (t := (openTree s c t).2) (l := l)
    (by rw [hopen]; exact hh) (by rw [hopen]; exact hl) (by rw [hopen]; exact hmore)
  have hr : r = _ := hrun
  rw [hopen] at hr
  dsimp only at hr
  have hu : findTree (putTree (openTree s c t).1 { t with lo := lo, hi := hi, open_ := true, waiting := false, stack := st }) t.op =
      some { t with lo := lo, hi := hi, open_ := true, waiting := false, stack := st } :=
    findTree_putTree (u := u) (by rw [← hfind, findTree, findTree, htrees]) rfl
  have hpu (v : Nat) : pantry (putTree (openTree s c t).1 { t with lo := lo, hi := hi, open_ := true, waiting := false, stack := st }) v =
      pantry (modPantry s t.pantry fun p => { p with treeOpen := p.treeOpen + 1 }) v := congrArg (fun b => bankGet b Pantry.reset v) hpan
  generalize putTree (openTree s c t).1 { t with lo := lo, hi := hi, open_ := true, waiting := false, stack := st } = a at hr hu hpu
  have htr : (countFxs a t.pantry fx).trees = a.trees := foldl_keeps (g := fun s x => countFx s t.pantry x) State.trees (fun _ _ => rfl) fx a
  have hpr : pantry r t.pantry = { pantry (countFxs a t.pantry fx) t.pantry with
      commitCnt := (pantry (countFxs a t.pantry fx) t.pantry).commitCnt + 1 } := by
    rw [hr]
    exact (pantry_modPantry (countFxs a t.pantry fx) t.pantry t.pantry fun p => { p with commitCnt := p.commitCnt + 1 }).trans (if_pos rfl)
  obtain ⟨ho, -, hc, -⟩ := pantry_countFxs a t.pantry fx t.pantry
  have hfirst : pantry a t.pantry = { pantry s t.pantry with treeOpen := (pantry s t.pantry).treeOpen + 1 } := by
    rw [hpu, pantry_modPantry, if_pos rfl]
  refine ⟨{ t with lo := lo, hi := hi, open_ := true, waiting := false, held := [], next := t.next + 1, stack := st' }, ?_, rfl, rfl, rfl,
    rfl, ?_, ?_⟩
  · rw [hr]
    refine findTree_putTree (u := { t with lo := lo, hi := hi, open_ := true, waiting := false, stack := st }) ?_ rfl
    rw [← hu, findTree, findTree]
    exact congrArg (List.find? _) htr
  · rw [hpr]; dsimp only; rw [ho, hfirst]
  · rw [hpr]; dsimp only; rw [hc, hfirst]

/-! ### The start of a pass (R88 to R99) -/

theorem length_firstSlots (fmt : SlotFmt) (rows codes : List (List Int)) :
    (firstSlots fmt rows codes).length = if fmt = .q8 then 2 * rows.length else rows.length := by
  unfold firstSlots
  rw [List.length_flatMap]
  split
  · simp [Nat.mul_comm]
  · simp

/-- A pass that starts, and what it leaves. -/
structure PassBegins (s : State) (w : Nat) (o : Op) (p home : Nat) (pane : Bool) (fmt : SlotFmt) (rows : List (List Int)) (sat rsvd : Bool)
    (t : State) : Prop where
  state : (win t w).state = .run
  others : ∀ v, v ≠ w → win t v = win s v
  mem : t.mem = s.mem
  pantries : t.pantries = s.pantries
  pass : ∃ q, (win t w).pass = some q ∧ q.op = o.id ∧ q.p = p ∧ q.pane = pane ∧ q.home = home ∧ q.fmt = fmt ∧ q.rows = rows ∧
    q.slots.length = (if fmt = .q8 then 2 * rows.length else rows.length) ∧ q.blimit = blimitUsed (win s w).blimit ∧ q.round = 0 ∧
    q.sat = sat ∧ q.rsvd = rsvd

theorem startPass_begins (s : State) (w : Nat) (o : Op) (p home : Nat) (pane : Bool) (half : Option Bool) (fmt : SlotFmt)
    (rows : List (List Int)) (rowSc : List Nat) (sat rsvd : Bool) (codes : List (List Int)) :
    PassBegins s w o p home pane fmt rows sat rsvd (startPass s w o p home pane half fmt rows rowSc sat rsvd codes) := by
  have hs : ∃ u q, (win u w).state = .run ∧ (∀ v, v ≠ w → win u v = win s v) ∧ u.mem = s.mem ∧ u.pantries = s.pantries ∧
      (q.op = o.id ∧ q.p = p ∧ q.pane = pane ∧ q.home = home ∧ q.fmt = fmt ∧ q.rows = rows ∧
        q.slots = firstSlots fmt rows codes ∧ q.blimit = blimitUsed (win s w).blimit ∧ q.round = 0 ∧ q.sat = sat ∧ q.rsvd = rsvd) ∧
      startPass s w o p home pane half fmt rows rowSc sat rsvd codes = issue u w q := by
    refine ⟨_, _, ?_, ?_, ?_, ?_, ?_, rfl⟩
    · exact (congrArg Window.state ((win_modWin ..).trans (if_pos rfl)) :)
    · exact fun v hv => (win_modWin ..).trans (if_neg hv)
    · rfl
    · rfl
    · exact ⟨rfl, rfl, rfl, rfl, rfl, rfl, rfl, rfl, rfl, rfl, rfl⟩
  obtain ⟨u, q, hstate, hothers, hmem, hpan, ⟨hop, hp, hpane, hhome, hfmt, hrows, hslots, hbl, hround, hsat, hrsvd⟩, hstart⟩ := hs
  obtain ⟨x, q', hx, hq, hw, ho, hm, hpn⟩ := issue_frame u w q
  rw [hstart]
  rw [Pass.issued] at hq
  refine ⟨?_, fun v hv => (ho v hv).trans (hothers v hv), hm.trans hmem, hpn.trans hpan, q', ?_, ?_⟩
  · rw [hw]
    exact (congrArg Window.state hx).trans hstate
  · rw [hw]
  · rw [hq]
    exact ⟨hop, hp, hpane, hhome, hfmt, hrows, (congrArg List.length hslots).trans (length_firstSlots ..), hbl, hround, hsat, hrsvd⟩

/-! ### The commit of a pass (R111, R112) -/

/-- A tree that is added last, for a command that had none, meets what it would have met before. -/
theorem overlapped_added {s u : State} {t t' t₀ : Tree} (htrees : u.trees = s.trees ++ [t₀]) (hctxs : u.ctxs = s.ctxs) (hnone : findTree s t.op = none)
    (h₀ : t₀.op = t.op) (ht : t' = { t with
      held := t'.held, rowSum := t'.rowSum, kCount := t'.kCount, rowScale := t'.rowScale, nvalid := t'.nvalid }) :
    overlapped u t' = overlapped s t := by
  have hmeet (v : Tree) : treesMeet u t' v = treesMeet s t v := by
    rw [ht]
    unfold treesMeet treeLo regionBase ctxOf
    rw [hctxs]
  have hop : t'.op = t.op := (congrArg Tree.op ht :)
  have hne : ∀ v ∈ s.trees, decide (v.op ≠ t.op) = true := fun v hv => by
    simpa using List.find?_eq_none.1 hnone v hv
  unfold overlapped
  rw [hop, funext hmeet, htrees, List.any_append, List.takeWhile_append_of_pos hne]
  have htake : s.trees.takeWhile (fun v => decide (v.op ≠ t.op)) = s.trees := List.takeWhile_eq_self_iff.2 hne
  rw [htake]
  simp [h₀]

/-- The first leaf of a command that had no tree opens one, where nothing is in its way. -/
theorem commitLeaf_first {s u : State} (o : Op) {c : WinCmd} {t t' t₀ : Tree} {l : Leaf} (htrees : u.trees = s.trees ++ [t₀])
    (hctxs : u.ctxs = s.ctxs) (hnone : findTree s t.op = none) (ht : t' = { t with
      rowSum := t'.rowSum, kCount := t'.kCount, rowScale := t'.rowScale, nvalid := t'.nvalid })
    (h₀ : t₀.op = t.op) (hheld : t.held = []) (hclosed : t.open_ = false) (hover : overlapped s t = false) (hl : l.p = t.next)
    (hmore : t.next + 1 < c.kFirst + c.kCount) :
    let r := commitLeaf u o c t' l
    ∃ tr, findTree r t.op = some tr ∧ tr.open_ = true ∧ tr.waiting = false ∧ tr.held = [] ∧ tr.next = t.next + 1 ∧
      (pantry r t.pantry).treeOpen = (pantry u t.pantry).treeOpen + 1 ∧
      (pantry r t.pantry).commitCnt = (pantry u t.pantry).commitCnt + 1 := by
  intro r
  obtain ⟨rs, kc, sc, nv, ht⟩ : ∃ rs kc sc nv, t' = { t with rowSum := rs, kCount := kc, rowScale := sc, nvalid := nv } := ⟨_, _, _, _, ht⟩
  subst ht
  let t1 : Tree := { t with rowSum := rs, kCount := kc, rowScale := sc, nvalid := nv, held := [l] }
  have hov : overlapped u t1 = false := (overlapped_added (t := t) (t' := t1) htrees hctxs hnone h₀ rfl).trans hover
  have hfind : findTree u t1.op = some t₀ := by
    rw [findTree, htrees, List.find?_append, show s.trees.find? (fun v => decide (v.op = t1.op)) = none from hnone, Option.none_or,
      List.find?_cons_of_pos (by simpa using h₀)]
  have hr : r = runTree (putTree (openTree u c t1).1 (openTree u c t1).2) o c (openTree u c t1).2 := by
    change commitLeaf u o c _ l = _
    unfold commitLeaf
    dsimp only
    rw [hheld, List.nil_append, if_neg (by rw [hclosed]; exact Bool.false_ne_true)]
    have hcond : ¬ overlapped u t1 = true := by rw [hov]; exact Bool.false_ne_true
    exact if_neg hcond
  rw [hr]
  exact openTree_one u o (t := t1) rfl hl hmore hfind

/-- A pass that leaves its Window. -/
theorem leavePass_frame (s : State) (w : Nat) (p : Pass) :
    ((win (leavePass s w p) w).pass = none ∧ (win (leavePass s w p) w).state = .idle ∧ (win (leavePass s w p) w).lastb = p.bound) ∧
    (∀ v, v ≠ w → win (leavePass s w p) v = win s v) ∧ leavePass s w p = { s with windows := (leavePass s w p).windows } := by
  refine ⟨?_, fun v hv => (win_modWin ..).trans (if_neg hv), rfl⟩
  have hw : win (leavePass s w p) w = _ := (win_modWin ..).trans (if_pos rfl)
  rw [hw]
  exact ⟨rfl, rfl, rfl⟩

/-- A command with one more pass committed. -/
def Op.passed (p : Nat) (o : Op) : Op := { o with passes := o.passes ++ [p] }

/-- The commit of a pass of a WINDOW command is that of its leaf, when the pass has left. -/
theorem passCommit_window {s : State} {w : Nat} {p : Pass} {o : Op} {c : WinCmd} (hcmd : o.cmd = .window c) :
    ∃ (nv : Nat) (u : State) (t : Tree) (l : Leaf), l.p = p.p ∧
      u = { modOp (leavePass s w p) o.id (Op.passed p.p) with trees := u.trees } ∧
      (findTree s o.id = none → u.trees = s.trees ++ [newTree (leavePass s w p) o c nv] ∧ t = { newTree (leavePass s w p) o c nv with
        rowSum := t.rowSum, kCount := t.kCount, rowScale := t.rowScale, nvalid := t.nvalid }) ∧
      passCommit s w p o = commitLeaf u (o.passed p.p) c t l := by
  unfold passCommit
  dsimp only
  rw [hcmd]
  dsimp only
  refine ⟨((paneOf (win s w) p.pane).image.map (·.nvalid)).getD 128, _, _, _, ?_, ?_, fun hnone => ?_, rfl⟩
  · rfl
  · split <;> rfl
  · have hfind : findTree (modOp (leavePass s w p) o.id (Op.passed p.p)) o.id = none := hnone
    have hfirst : ((findTree (modOp (leavePass s w p) o.id (Op.passed p.p)) o.id).getD (newTree (leavePass s w p) o c
        (((paneOf (win s w) p.pane).image.map (·.nvalid)).getD 128))) = newTree (leavePass s w p) o c
        (((paneOf (win s w) p.pane).image.map (·.nvalid)).getD 128) := by rw [hfind]; rfl
    refine ⟨?_, ?_⟩
    · refine (congrArg State.trees (if_neg (c := (findTree (modOp (leavePass s w p) o.id (Op.passed p.p)) o.id).isSome = true)
        (by rw [hfind]; decide))).trans ?_
      exact congrArg (fun t => s.trees ++ [t]) hfirst
    · change ({ ((findTree (modOp (leavePass s w p) o.id (Op.passed p.p)) o.id).getD (newTree (leavePass s w p) o c
        (((paneOf (win s w) p.pane).image.map (·.nvalid)).getD 128))) with
          rowSum := _, kCount := _, rowScale := _, nvalid := _ } : Tree) = _
      rw [hfirst]

/-- Settles O28. -/
theorem passesStartAndCommit : Obligations.PassesStartAndCommit := by
  unfold Obligations.PassesStartAndCommit
  intro s w o c hp ho hcmd hdone
  refine ⟨fun q idx p half b h img addr codes env hid hst htodo hrun himg hpane hb hidle hnop hswap hact hpact hheld hpace harb hhalf hr hop hpp => ?_,
    fun q idx p half codes env hid hst htodo hrun => ?_, fun p hpass hop hplan hwit hround hbl => ?_⟩
  · have hleft : noWindowLeft s o = false := by rw [noWindowLeft, hcmd]; exact decide_eq_false (by rw [hrun]; exact nofun)
    have hallow : allowedOn s o p w.val = true := by rw [allowedOn, hcmd]; exact decide_eq_true hrun
    have hbegin : ∃ t₀ rows rsvd, beginPass s env w.val o p half b img codes = t₀ ∧ rows.length = c.nrows ∧
        (env.inFlags.getLsbD 1 = true → rsvd = true) ∧
        PassBegins s w.val o p c.window b (modFmt c.infmt c.qfmt c.zpmode) rows (env.inFlags.getLsbD 0) rsvd t₀ := by
      unfold beginPass
      rw [hcmd]
      dsimp only
      rw [hhalf]
      dsimp only
      rw [if_pos (by rw [hr, hop, hpp]; simp)]
      refine ⟨_, _, _, rfl, ?_, ?_, startPass_begins ..⟩
      · rw [List.length_map, List.length_map, List.length_range]
      · intro hflag
        rw [hflag]
        rfl
    obtain ⟨t₀, rows, rsvd, hbegin, hrows, hrsvd, hb⟩ := hbegin
    obtain ⟨q', hq', hqop, hqp, hqpane, hqhome, hqfmt, hqrows, hqslots, hqbl, hqround, hqsat, hqrsvd⟩ := hb.pass
    have hstart : passStart s env w.val o p half codes =
        arbTake t₀ (8 + w.val) 256 o.cls o.q (passReqs s w.val) (passReqs t₀ w.val) := by
      unfold passStart
      rw [if_neg (by rw [hleft]; exact Bool.false_ne_true), hallow, if_neg (by decide)]
      dsimp only
      rw [himg]
      dsimp only
      rw [hpane, Option.filter_some, if_pos hheld]
      dsimp only
      rw [‹(paneOf (win s w.val) b).image = some img›]
      dsimp only
      rw [if_pos (by rw [hidle, hnop, hswap, hact, hpact, hpace, harb]; simp), hbegin, hq']
      rfl
    have hexec : exec (.passStart w q idx p half codes env) s =
        .next (arbTake t₀ (8 + w.val) 256 o.cls o.q (passReqs s w.val) (passReqs t₀ w.val)) := by
      change execPassStart w q idx p half codes env s = _
      rw [execPassStart, ← hid, ho]
      dsimp only
      rw [hp, hst, hdone, htodo, if_pos (by rfl), hstart]
    exact ⟨_, q', hexec, hb.state, hq', hqop, hqp, hqpane, hqhome, hqfmt, hqrows ▸ hrows, hrows ▸ hqslots, hqbl, hqround, hqsat,
      fun hf => hqrsvd.trans (hrsvd hf), hb.mem, hb.pantries, hb.others⟩
  · have hleft : noWindowLeft s o = true := by rw [noWindowLeft, hcmd]; exact decide_eq_true hrun
    have hexec : exec (.passStart w q idx p half codes env) s = .next (endOp s o.id .noWindow false) := by
      change execPassStart w q idx p half codes env s = _
      rw [execPassStart, ← hid, ho]
      dsimp only
      rw [hp, hst, hdone, htodo, if_pos (by rfl), passStart, if_pos hleft, hcmd]
    exact ⟨_, _, hexec, findOp_endOp_same ho hdone .noWindow false, rfl⟩
  · have hexec : exec (.passCommit w) s = .next (passCommit (lastClips s w.val p).1 w.val (lastClips s w.val p).2 o) := by
      have hlast : (decide (p.round = 3) || (toRepeat (passNvalid (win s w.val) p) p.round p.slots).isEmpty) = true := by
        rcases hround with h | h
        · rw [h]; rfl
        · rw [h]; exact Bool.or_true _
      change execPassCommit w s = _
      rw [execPassCommit, hpass]
      dsimp only
      rw [hop, ho]
      dsimp only
      rw [if_pos (by rw [hplan, hwit, hlast, hbl]; rfl)]
    have hclips (v : Nat) (hv : v ≠ w.val) : win (lastClips s w.val p).1 v = win s v := (win_modWin ..).trans (if_neg hv)
    have hframe : (lastClips s w.val p).1 = { s with windows := (lastClips s w.val p).1.windows } := rfl
    have hpass' : (lastClips s w.val p).2.p = p.p ∧ (lastClips s w.val p).2.bound = p.bound := ⟨rfl, rfl⟩
    generalize lastClips s w.val p = r at hexec hclips hframe hpass'
    obtain ⟨a, p'⟩ := r
    obtain ⟨hpp, hpb⟩ := hpass'
    dsimp only at hexec hclips hframe hpp hpb
    obtain ⟨nv, u, t, l, hl, hu, hnew, hcommit⟩ := passCommit_window (s := a) (w := w.val) (p := p') hcmd
    obtain ⟨⟨hnop, hidle, hlastb⟩, hothers, hleave⟩ := leavePass_frame a w.val p'
    rw [hpp] at hl hu hcommit
    have hview := treeless_commitLeaf u (o.passed p.p) c t l
    have huw (v : Nat) : win u v = win (leavePass a w.val p') v := by rw [hu]; rfl
    have hwin (v : Nat) : win (commitLeaf u (o.passed p.p) c t l) v = win u v :=
      eq_of_view treeless (fun u => win u v) (fun _ => rfl) hview
    have hmem : u.mem = s.mem := by rw [hu]; exact (congrArg State.mem hleave).trans (congrArg State.mem hframe :)
    have huops : u.ops = (modOp s o.id (Op.passed p.p)).ops := by
      have h : (leavePass a w.val p').ops = s.ops := (congrArg State.ops hleave).trans (congrArg State.ops hframe :)
      rw [hu]
      exact congrArg (List.map fun u => if u.id = o.id then u.passed p.p else u) h
    obtain ⟨g, hfind, hwork⟩ := (OpsWorked.commitLeaf u (o.passed p.p) c t l).findOp o.id
    have hou : findOp u o.id = some (o.passed p.p) := by
      have h := findOp_modOp (s := s) (id := o.id) (f := Op.passed p.p) (fun _ => rfl) o.id
      rw [if_pos rfl, ho] at h
      rw [findOp, huops]
      exact h
    rw [hou] at hfind
    refine ⟨_, _, hexec.trans (congrArg _ hcommit), ?_, ?_, ?_, hfind, (hwork _).passes, ?_, fun v hv => ?_, fun hnone hover hfirst hmany => ?_⟩
    · rw [hwin, huw]; exact hnop
    · rw [hwin, huw]; exact hidle
    · rw [hwin, huw, ← hpb]; exact hlastb
    · exact (eq_of_view treeless State.mem (fun _ => rfl) hview).trans hmem
    · rw [hwin, huw, hothers v hv, hclips v hv]
    · obtain ⟨htrees, ht⟩ := hnew (by rw [hframe]; exact hnone)
      have hst : a.trees = s.trees := (congrArg State.trees hframe :)
      have hctxs : u.ctxs = s.ctxs := by rw [hu]; exact (congrArg State.ctxs hleave).trans (congrArg State.ctxs hframe :)
      have hupan : u.pantries = s.pantries := by rw [hu]; exact (congrArg State.pantries hleave).trans (congrArg State.pantries hframe :)
      have hnv : newTree (leavePass a w.val p') o c nv = { newTree s o c 128 with nvalid := nv } := by
        have hbase : regionBase (leavePass a w.val p') o.ctx = regionBase s o.ctx := by
          have h : (leavePass a w.val p').ctxs = s.ctxs := (congrArg State.ctxs hleave).trans (congrArg State.ctxs hframe :)
          rw [regionBase, regionBase, ctxOf, ctxOf, h]
        unfold newTree
        dsimp only
        rw [hbase]
      rw [hnv] at ht htrees
      rw [hst] at htrees
      obtain ⟨tr, htr, hopen, -, -, hnext, hcount⟩ := commitLeaf_first (o.passed p.p) (c := c) (l := l) htrees hctxs hnone ht rfl rfl rfl
        hover (hl.trans hfirst) (by show c.kFirst + 1 < _; omega)
      have hpan : pantry u c.window = pantry s c.window := by rw [pantry, pantry, hupan]
      rw [← hpan]
      exact ⟨tr, htr, hopen, hnext, hcount⟩

/-! ### Roots and epilogues (R124, R125, R133 to R149) -/

/-- What a tree's root changes of its Pantry's trees: nothing but counters. -/
theorem pantry_finalValue (s : State) (o : Op) (c : WinCmd) (t : Tree) (x : Partial) (v : Nat) :
    (pantry (finalValue s o c t x).1 v).treeClose = (pantry s v).treeClose := by
  have hmod (u : State) (p : Nat) {f : Pantry → Pantry} (hf : ∀ q, (f q).treeClose = q.treeClose) :
      (pantry (modPantry u p f) v).treeClose = (pantry u v).treeClose := pantry_modPantry_keeps Pantry.treeClose hf u p v
  unfold finalValue
  dsimp only
  split
  · rfl
  · split
    · exact hmod _ _ fun _ => rfl
    · rfl
  · dsimp only
    split
    all_goals
      split
      · exact hmod _ _ fun _ => rfl
      · rfl

theorem trees_finalValue (s : State) (o : Op) (c : WinCmd) (t : Tree) (x : Partial) : (finalValue s o c t x).1.trees = s.trees := by
  unfold finalValue
  dsimp only
  split
  · rfl
  · split <;> rfl
  · dsimp only
    split
    all_goals split <;> rfl

/-- A tree that is shut is gone, and its Pantry counts that. -/
theorem shutTree_closes (s : State) (t : Tree) : findTree (shutTree s t) t.op = none ∧
    (pantry (shutTree s t) t.pantry).treeClose = (pantry s t.pantry).treeClose + 1 := by
  have htrees : (shutTree s t).trees = s.trees.filter (fun u => u.op ≠ t.op) := by
    unfold shutTree
    dsimp only
    split <;> rfl
  refine ⟨?_, ?_⟩
  · rw [findTree, htrees, List.find?_eq_none]
    intro u hu
    simpa using (List.mem_filter.1 hu).2
  · have hclose (u : State) (h : (pantry u t.pantry).treeClose = (pantry s t.pantry).treeClose) :
        (pantry (audGive (modPantry u t.pantry fun p => { p with treeClose := p.treeClose + 1 }) 6 1) t.pantry).treeClose =
          (pantry s t.pantry).treeClose + 1 := by
      have hmod := pantry_modPantry u t.pantry t.pantry fun p => { p with treeClose := p.treeClose + 1 }
      rw [if_pos rfl] at hmod
      rw [← h]
      exact congrArg Pantry.treeClose hmod
    unfold shutTree
    dsimp only
    split
    · exact hclose _ rfl
    · refine hclose _ (Eq.trans (pantry_modPantry_keeps Pantry.treeClose (by exact fun _ => rfl) ..) ?_)
      rfl

/-- The root of a tree with an epilogue is its final value. -/
theorem completeRoot_final {s : State} (o : Op) {c : WinCmd} {t : Tree} {x : Partial} (hepi : c.epi = true) (hfind : findTree s t.op = some t)
    (hsplit : c.splitN ≠ 0) : ∃ tr y, findTree (completeRoot s o c t x) t.op = some tr ∧ tr.final = some y ∧
      y.flags.unalign = (y.flags.unalign || c.unal) := by
  unfold completeRoot
  dsimp only
  rw [if_pos hepi]
  refine ⟨_, _, findTree_putTree (u := t) ?_ rfl, rfl, ?_⟩
  · rw [findTree, trees_finalValue]; exact hfind
  · dsimp only
    rw [decide_eq_true hsplit, Bool.true_and, Bool.or_assoc, Bool.or_self]

/-- A change that ends a command ends it. -/
theorem done_modOp {u : State} {id : OpId} {o : Op} {st : Status} {f : Op → Op} (h : findOp u id = some o)
    (hf : ∀ o, (f o).id = o.id ∧ (f o).done = some st) : (findOp (modOp u id f) id).bind (·.done) = some st := by
  rw [findOp_done h fun o => (hf o).1]
  exact (hf o).2

/-- The root of a tree without one is its slot's content: the tree closes and its command ends. -/
theorem completeRoot_closes {s : State} {o : Op} {c : WinCmd} {t : Tree} {x : Partial} (hepi : c.epi = false) (ho : findOp s o.id = some o) :
    findTree (completeRoot s o c t x) t.op = none ∧ (findOp (completeRoot s o c t x) o.id).bind (·.done) = some .ok ∧
    (pantry (completeRoot s o c t x) t.pantry).treeClose = (pantry s t.pantry).treeClose + 1 := by
  unfold completeRoot
  dsimp only
  rw [if_neg (by rw [hepi]; exact Bool.false_ne_true)]
  have hput (u : State) (lo : Nat) (y : Partial) : (pantry (putSlot u t.pantry lo t.fmt y) t.pantry).treeClose = (pantry u t.pantry).treeClose :=
    pantry_modPantry_keeps Pantry.treeClose (by exact fun _ => rfl) ..
  have hops (lo : Nat) (y : Partial) : (shutTree (putSlot (finalValue s o c t x).1 t.pantry lo t.fmt y) t).ops = s.ops :=
    (ops_shutTree ..).trans (ops_finalValue ..)
  have hshut (lo : Nat) (y : Partial) := shutTree_closes (putSlot (finalValue s o c t x).1 t.pantry lo t.fmt y) t
  refine ⟨(hshut ..).1, ?_, ?_⟩
  · have hu (y : Partial) : findOp (shutTree (putSlot (finalValue s o c t x).1 t.pantry t.lo t.fmt y) t) o.id = some o := by
      rw [← ho, findOp, findOp, hops]
    exact done_modOp (hu _) (by exact fun _ => ⟨rfl, rfl⟩)
  · refine (hshut ..).2.trans ?_
    rw [hput, pantry_finalValue]

/-- The metadata of a tile that the epilogue wrote, and the stream that drains the tile (R148, R149). -/
def epiMeta (c : WinCmd) (t : Tree) (x : Partial) (r : EpiOut) : List Byte :=
  metaBytes r.flags true t.fmt (if t.fmt = .i16 then x.step else 0) c.ofmt r.errb x.passes x.esum
def drainOf (o : Op) (c : WinCmd) (t : Tree) (x : Partial) (r : EpiOut) : Stream :=
  { mkStream o .drain with
    toUnit := false, win := c.window,
    segs := [(c.outAddr, r.tile)] ++ (if c.omode then [(c.osvAddr, r.osv)] else []) ++ [(c.metAddr, epiMeta c t x r)] }

theorem length_metaBytes (f : TileFlags) (epi : Bool) (afmt : AFmt) (step tfmt : Nat) (errb : Word) (passes : Nat) (esrc : Word) :
    (metaBytes f epi afmt step tfmt errb passes esrc).length = 16 := by
  simp only [metaBytes, List.length_append, length_toBytes]

/-- Settles O33. -/
theorem treesCloseWithTheirResult : Obligations.TreesCloseWithTheirResult := by
  unfold Obligations.TreesCloseWithTheirResult
  intro s q idx o c tr ho hcmd hdone htr hop hp
  have hid : o.id = (q.val, idx.val) := by simpa using List.find?_some ho
  rw [← hid] at htr
  have ho' : findOp s o.id = some o := hid ▸ ho
  have hself : findTree s tr.op = some tr := hop ▸ htr
  refine ⟨fun l hwait hclosed hover hheld hl hmore => ?_, fun owner x hsplit hrank hsent hfinal hroot hisroot hnone => ?_,
    fun env x s1 bs hfinal hepi hrsrc hfar hstreams hread => ?_⟩
  · have hexec : exec (.commitAfterOverlap q idx) s =
        .next (runTree (putTree (openTree s c tr).1 (openTree s c tr).2) o c (openTree s c tr).2) := by
      change execCommitAfterOverlap q idx s = _
      rw [execCommitAfterOverlap, ← hid, ho', htr]
      dsimp only
      rw [hcmd]
      dsimp only
      rw [if_pos (by rw [hwait, hclosed, hover, hdone]; rfl)]
    obtain ⟨tr', hfind, hopen, hw, hh, hnext, hcount⟩ := openTree_one s o hheld hl hmore hself
    rw [hop] at hfind
    exact ⟨_, tr', hexec, hid ▸ hfind, hopen, hw, hh, hnext, hcount⟩
  · have hexec : exec (.trussCombine q idx owner) s = .next (completeRoot s o c tr (trussLift c 20 x)) := by
      change execTrussCombine q idx owner s = _
      rw [execTrussCombine, ← hid, ho', htr]
      dsimp only
      rw [hcmd, hroot]
      dsimp only
      rw [if_pos (by rw [hp, hdone, hsent, hfinal, decide_eq_true hsplit]; rfl), trussStep, hnone]
      dsimp only [List.find?_nil]
      rw [if_pos hisroot, if_pos hrank]
    refine ⟨_, hexec, ?_⟩
    by_cases hepi : c.epi = true
    · rw [if_pos hepi, ← hid, ← hop]
      exact completeRoot_final o hepi hself hsplit
    · rw [if_neg hepi, ← hid]
      have h := completeRoot_closes (t := tr) (x := trussLift c 20 x) (Bool.eq_false_iff.2 hepi) ho'
      rw [hop] at h
      exact h
  · have hsame := uncounted_readVa hread
    have hexec : exec (.epilogue q idx env) s = .next (epilogue s o c tr x env) := by
      change execEpilogue q idx env s = _
      rw [execEpilogue, ← hid, ho', htr]
      dsimp only
      rw [hcmd, hfinal]
      dsimp only
      rw [if_pos]
      rw [hp, hdone, hepi, studyHalted, hstreams]
      rfl
    have hnone : tileSums s1 c tr = (s1, tr.rowSum, (tr.kCount : Int)) := by rw [tileSums, hfar]; rfl
    intro r
    have hepilogue : epilogue s o c tr x env = addStream (modOp (putSlot s1 tr.pantry tr.lo tr.fmt x) o.id fun o => addRecord o r.flags)
        (drainOf o c tr x r) := by
      unfold epilogue
      dsimp only
      rw [hread]
      dsimp only
      rw [decide_eq_false hrsrc, Bool.and_false, if_neg (by decide)]
      dsimp only [afterAccess]
      rw [hnone]
      rfl
    have hsid : s1.nextSid = s.nextSid := eq_of_view uncounted State.nextSid (fun _ => rfl) hsame
    have hpan : pantry s1 tr.pantry = pantry s tr.pantry := eq_of_view uncounted (fun u => pantry u tr.pantry) (fun _ => rfl) hsame
    have hmem : s1.mem.data = s.mem.data := eq_of_view uncounted (fun u => u.mem.data) (fun _ => rfl) hsame
    refine ⟨_, drainOf o c tr x r, epiMeta c tr x r, hexec.trans (congrArg _ hepilogue), ?_, rfl, rfl, rfl,
      length_metaBytes .., rfl, ?_, hmem⟩
    · rw [← hsid]
      exact findStream_addStream ..
    · have hput := pantry_modPantry s1 tr.pantry tr.pantry fun q => { q with
        sram := q.sram.write tr.lo (x.elems.flatMap (encElem tr.fmt)),
        dir := bankPut q.dir tr.lo ⟨x.flags, x.step, x.esum, BitVec.ofNat 32 x.passes⟩ }
      rw [if_pos rfl, hpan] at hput
      exact congrArg Pantry.sram hput

end Sys2Proof.Machine


/-!
# Study items

What writes of commands change (R233, R371), and what the items of a Study command and of a refinement do to their command and
to the cores (R201 to R224, R370).
-/

namespace Sys2Proof.Machine
open Sys2Proof

/-! ### Writes of commands -/

/-- A state without what any read or write of bytes can change. -/
def unwritten (s : State) : State := { unread s with mem := { (unread s).mem with data := State.reset.mem.data } }

theorem unwritten_of_unread {s t : State} (h : unread t = unread s) : unwritten t = unwritten s :=
  congrArg (fun u : State => { u with mem := { u.mem with data := State.reset.mem.data } }) h
theorem unwritten_of_quiet {s t : State} (h : quiet t = quiet s) : unwritten t = unwritten s := (congrArg unwritten h :)

theorem quiet_hostWrites (n size : Nat) : ∀ (a : Nat) (bs : List Byte) (s : State), quiet (hostWrites n size a bs s) = quiet s := by
  induction n with
  | zero => intro a bs s; rfl
  | succ n ih =>
    intro a bs s
    rw [hostWrites]
    split
    · rfl
    · exact (ih _ _ _).trans rfl

theorem unwritten_writeGranules (env : Env) (src : Finder) (pa n : Nat) (gs : List Nat) (s : State) :
    unwritten (writeGranules env src pa n gs s) = unwritten s := by
  induction gs generalizing s with
  | nil => rfl
  | cons g gs ih =>
    rw [writeGranules, ih]
    split
    · rfl
    · unfold partialGranule
      split
      · rfl
      · split
        · exact unwritten_of_unread (unread_foundUe ..)
        · split
          · exact unwritten_of_unread (unread_countCe ..)
          · rfl

theorem unwritten_writePa (s : State) (env : Env) (src : Finder) (pa : Nat) (bs : List Byte) :
    unwritten (writePa s env src pa bs) = unwritten s := 
  Eq.trans rfl (unwritten_writeGranules env src pa bs.length (granulesOf pa bs.length) s)

theorem unwritten_writePiece (s : State) (env : Env) (ctx va : Nat) (bs : List Byte) :
    unwritten (writePiece s env ctx va bs).1 = unwritten s := by
  have hx := unwritten_of_unread (unread_translate s ctx va true)
  unfold writePiece
  split
  next htr => rw [htr] at hx; exact hx
  next u m htr =>
    rw [htr] at hx
    refine Eq.trans ?_ hx
    have hcount (k : Nat) : unwritten (countReqs u k) = unwritten u := unwritten_of_unread (unread_countReqs ..)
    split
    · split
      · exact unwritten_of_unread (unread_elog ..)
      · exact (unwritten_writePa ..).trans (hcount _)
    · exact (unwritten_of_quiet (quiet_hostWrites ..)).trans (hcount _)
    · exact hcount _

theorem unwritten_writePieces (env : Env) (ctx : Nat) (ps : List (Nat × Nat)) : ∀ (bs : List Byte) (s : State),
    unwritten (writePieces env ctx ps bs s).1 = unwritten s := by
  induction ps with
  | nil => intro bs s; rfl
  | cons p ps ih =>
    intro bs s
    obtain ⟨va, n⟩ := p
    have hp := unwritten_writePiece s env ctx va (bs.take n)
    rw [writePieces]
    split
    next he => rw [he] at hp; exact (ih _ _).trans hp
    next he => rw [he] at hp; exact hp

theorem unwritten_writeVa (s : State) (env : Env) (ctx va : Nat) (bs : List Byte) : unwritten (writeVa s env ctx va bs).1 = unwritten s :=
  unwritten_writePieces ..

theorem unwritten_writeOp (s : State) (env : Env) (o : Op) (va : Nat) (bs : List Byte) :
    unwritten (writeOp s env o va bs).1 = unwritten s :=
  (unwritten_writeVa ..).trans (unwritten_of_unread (unread_spendVa ..))

theorem unwritten_deviceFetchAdd (s : State) (env : Env) (o : Op) (va v : Nat) : unwritten (deviceFetchAdd s env o va v).1 = unwritten s := by
  have hr := unwritten_of_unread (unread_readOp s env o (va / 8 * 8) 8)
  unfold deviceFetchAdd
  dsimp only
  split
  next u bs he =>
    rw [he] at hr
    exact (unwritten_writeOp ..).trans hr
  next he => rw [he] at hr; exact hr

/-! ### What an access leaves of the cores and of the commands that do not wait -/

/-- Whether a command is a fence wait. -/
def Op.waits (o : Op) : Bool := match o.cmd with | .fenceWait _ _ _ => true | _ => false

/-- Writes may end fence waits: the cores and every other command stay (R374). -/
structure Stands (s t : State) : Prop where
  study : t.study = s.study
  ops : ∃ g, t.ops = s.ops.map g ∧ ∀ o, (g o).id = o.id ∧ (o.waits = false → g o = o)

theorem Stands.of_unwritten {s t : State} (h : unwritten t = unwritten s) : Stands s t :=
  ⟨eq_of_view unwritten State.study (fun _ => rfl) h, id,
    by rw [List.map_id, eq_of_view unwritten State.ops (fun _ => rfl) h], fun _ => ⟨rfl, fun _ => rfl⟩⟩
theorem Stands.refl (s : State) : Stands s s := .of_unwritten rfl
theorem Stands.trans {s t u : State} (h : Stands s t) (k : Stands t u) : Stands s u := by
  obtain ⟨hst, f, hf, hfo⟩ := h
  obtain ⟨kst, g, hg, hgo⟩ := k
  refine ⟨kst.trans hst, g ∘ f, by rw [hg, hf, List.map_map], fun o => ⟨(hgo _).1.trans (hfo o).1, fun hw => ?_⟩⟩
  have hfo' := (hfo o).2 hw
  rw [Function.comp_apply, hfo', (hgo o).2 hw]
theorem Stands.testFences (s : State) : Stands s (testFences s) := by
  unfold Machine.testFences
  dsimp only
  split
  · exact .refl s
  · refine ⟨rfl, fun o => if o.armed && waitMet s o then endWait .ok o else o, rfl, fun o => ⟨by dsimp only; split <;> rfl, fun hw => if_neg ?_⟩⟩
    have hmet : waitMet s o = false := by
      unfold waitMet
      split
      next hc => rw [Op.waits, hc] at hw; exact nomatch hw
      next => rfl
    rw [hmet, Bool.and_false]
    exact Bool.false_ne_true

/-- A command that does not wait stands as it was. -/
theorem Stands.findOp {s t : State} (h : Stands s t) {id : OpId} {o : Op} (ho : findOp s id = some o) (hw : o.waits = false) :
    findOp t id = some o := by
  obtain ⟨g, hg, hgo⟩ := h.ops
  rw [Machine.findOp, hg, find?_map_of_pred (fun o => by rw [(hgo o).1])]
  exact (congrArg (Option.map g) ho).trans (congrArg some ((hgo o).2 hw))

theorem Stands.readOp (s : State) (env : Env) (o : Op) (va n : Nat) : Stands s (readOp s env o va n).1 :=
  .of_unwritten (unwritten_of_unread (unread_readOp ..))

/-! ### Items of a kernel (R201 to R214) -/

theorem stands_traceOp1 (env : Env) (o : Op) (rm : RMode) (r : TraceRun) (op : StudyOp) : Stands r.st (traceOp1 env o rm r op).st := by
  unfold traceOp1
  split
  case h_3 => exact .readOp ..
  case h_4 => exact (Stands.of_unwritten (unwritten_writeOp ..)).trans (.testFences _)
  case h_5 => exact (Stands.of_unwritten (unwritten_deviceFetchAdd ..)).trans (.testFences _)
  all_goals exact .refl _

theorem stands_traceOp (env : Env) (o : Op) (rm : RMode) (r : TraceRun) (op : StudyOp) : Stands r.st (traceOp env o rm r op).st := by
  unfold traceOp
  split
  · exact .refl _
  · dsimp only
    split <;> exact stands_traceOp1 ..

theorem stands_runTrace (s : State) (env : Env) (o : Op) (rm : RMode) (p : Partway) : Stands s (runTrace s env o rm p).st := by
  have h (l : List StudyOp) : ∀ r : TraceRun, Stands r.st (l.foldl (traceOp env o rm) r).st := by
    induction l with
    | nil => exact fun r => .refl r.st
    | cons op l ih => exact fun r => (stands_traceOp env o rm r op).trans (ih _)
  exact h p.todo ⟨s, .ok, p.vals, p.loads, p.fl, 0⟩

theorem bankFind_erase_same {α : Type} (b : Bank α) (i : Nat) : bankFind (bankErase b i) i = none := by
  induction b with
  | nil => rfl
  | cons e b ih =>
    rw [bankErase, List.filter_cons]
    split
    next he =>
      rw [bankFind, if_neg (by simpa using he)]
      exact ih
    next => exact ih

/-! ### A core that is removed (R212) -/

theorem bankFind_filter_none {α : Type} {b : Bank α} {i : Nat} {p : Nat × α → Bool} (h : bankFind b i = none) :
    bankFind (b.filter p) i = none := by
  induction b with
  | nil => rfl
  | cons e b ih =>
    rw [bankFind] at h
    split at h
    · exact nomatch h
    next hne =>
      rw [List.filter_cons]
      split
      · rw [bankFind, if_neg hne]; exact ih h
      · exact ih h

theorem study_closeTrees (s : State) (id : OpId) : (closeTrees s id).study = s.study := by
  unfold closeTrees
  dsimp only
  rw [foldl_keeps State.study fun u e => ?_]
  split <;> rfl

theorem study_dropStreams (s : State) (id : OpId) (aborted : Bool) : (dropStreams s id aborted).study = s.study := by
  have hheld (u : State) (x : Stream) : (freeHeld u x).study = u.study := by unfold freeHeld; split <;> rfl
  unfold dropStreams
  dsimp only
  rw [foldl_keeps State.study fun u e => ?_]
  split
  · exact hheld ..
  · rfl

/-- A core that runs nothing runs nothing when commands have ended. -/
theorem busy_endOp {s : State} {core : Nat} (h : bankFind s.study.busy core = none) (id : OpId) (st : Status) (aborted : Bool) :
    bankFind (endOp s id st aborted).study.busy core = none := by
  have key (u : State) (hu : u.study.busy = s.study.busy.filter fun e => !(e.2.of id)) : bankFind u.study.busy core = none := by
    rw [hu]
    exact bankFind_filter_none h
  unfold endOp
  split
  · exact h
  · split
    · exact h
    · dsimp only
      refine key _ ?_
      rw [modOp_study]
      split
      all_goals
        try rw [audGive_study]
        rw [study_closeTrees]
        dsimp only
        rw [study_dropStreams]

theorem busy_endOps {core : Nat} (st : Status) (aborted : Bool) : ∀ (ids : List OpId) {s : State}, bankFind s.study.busy core = none →
    bankFind (endOps st aborted ids s).study.busy core = none
  | [], _, h => h
  | id :: ids, _, h => busy_endOps st aborted ids (busy_endOp h id st aborted)

/-- A state without its streams, Dumbwaiters and class counters. -/
def streamless (s : State) : State := { s with streams := [], dumbs := [], corr := { s.corr with aud := [] } }

theorem streamless_offDw (s : State) (x : Stream) : streamless (offDw s x) = streamless s := by
  have hheld : streamless (freeHeld s x) = streamless s := by unfold freeHeld; split <;> rfl
  unfold offDw
  split
  · exact Eq.trans rfl hheld
  · rfl

theorem streamless_dropStudyStream (s : State) (id : OpId) (slot : Nat) : streamless (dropStudyStream s id slot) = streamless s := by
  have hstreams (u : State) (xs : Bank Stream) : streamless { u with streams := xs } = streamless u := rfl
  unfold dropStudyStream
  dsimp only
  refine foldl_keeps streamless (fun u e => ?_) _ s
  rw [streamless_offDw, hstreams]

/-- The part without a core, before its item is given back (R212). -/
def coreGone (s : State) (core : Nat) (it : Option Item) : State := { s with
  study := { s.study with
    coreOk := s.study.coreOk &&& ~~~(BitVec.ofNat 128 (2 ^ core)), flags := s.study.flags ||| 1,
    removed := s.study.removed ||| BitVec.ofNat 128 (2 ^ core), busy := bankErase s.study.busy core,
    partway := bankErase s.study.partway core,
    itemRep := if it.isSome then s.study.itemRep + 1 else s.study.itemRep } }

/-- The item of a core that is gone may be run again (R212). -/
def itemBack (s : State) (core : Nat) (i : Item) : State :=
  modOp (dropStudyStream s i.opId core) i.opId fun o => { o with itemsOut := o.itemsOut.filter (· ≠ i.num) }

def replayedBy (s : State) (id : OpId) : State :=
  match findOp s id with
  | some o => modCtx s o.ctx (fun c => { c with replayed := c.replayed + 1 })
  | none => s

def itemRepeats (s : State) (core : Nat) : Option Item → State
  | some i => replayedBy (itemBack s core i) i.opId
  | none => s

theorem removeCore_eq (s : State) (core : Nat) : removeCore s core = noStudyLeft (addFrec (capacity
    (itemRepeats (coreGone s core (bankFind s.study.busy core)) core (bankFind s.study.busy core)) 2 core false) 4 2 core 0 0 noCtx) := by
  unfold removeCore
  dsimp only
  cases bankFind s.study.busy core with
  | none => rfl
  | some i => rfl

/-- A change of a context leaves the cores, the commands, the records and memory. -/
theorem itemRepeats_frame (s : State) (core : Nat) (it : Option Item) : (itemRepeats s core it).study = s.study ∧
    (itemRepeats s core it).nvm = s.nvm ∧ (itemRepeats s core it).mem = s.mem := by
  cases it with
  | none => exact ⟨rfl, rfl, rfl⟩
  | some i =>
    have hview : streamless (dropStudyStream s i.opId core) = streamless s := streamless_dropStudyStream ..
    have hrep (u : State) (id : OpId) : (replayedBy u id).study = u.study ∧ (replayedBy u id).nvm = u.nvm ∧ (replayedBy u id).mem = u.mem := by
      unfold replayedBy
      split
      · rw [modCtx_frame]
        exact ⟨rfl, rfl, rfl⟩
      · exact ⟨rfl, rfl, rfl⟩
    obtain ⟨h1, h2, h3⟩ := hrep (itemBack s core i) i.opId
    have hstudy : (dropStudyStream s i.opId core).study = s.study := eq_of_view streamless State.study (fun _ => rfl) hview
    have hnvm : (dropStudyStream s i.opId core).nvm = s.nvm := eq_of_view streamless State.nvm (fun _ => rfl) hview
    have hmem : (dropStudyStream s i.opId core).mem = s.mem := eq_of_view streamless State.mem (fun _ => rfl) hview
    exact ⟨h1.trans hstudy, h2.trans hnvm, h3.trans hmem⟩

/-- The command of a core's item may have it dispatched again. -/
theorem findOp_itemRepeats {s : State} {core : Nat} {i : Item} {o : Op} (ho : findOp s i.opId = some o) :
    findOp (itemRepeats s core (some i)) i.opId = some { o with itemsOut := o.itemsOut.filter (· ≠ i.num) } := by
  have hview : streamless (dropStudyStream s i.opId core) = streamless s := streamless_dropStudyStream ..
  have hops : (dropStudyStream s i.opId core).ops = s.ops := eq_of_view streamless State.ops (fun _ => rfl) hview
  have hback : findOp (itemBack s core i) i.opId = some { o with itemsOut := o.itemsOut.filter (· ≠ i.num) } := by
    refine findOp_done ?_ (by exact fun _ => rfl)
    rw [← ho, findOp, findOp, hops]
  refine Eq.trans ?_ hback
  change findOp (replayedBy (itemBack s core i) i.opId) i.opId = _
  unfold replayedBy
  split
  · rw [findOp, modCtx_ops]; rfl
  · rfl

/-- The end of commands leaves what of them has been dispatched. -/
theorem itemsOut_endOp {s : State} {id : OpId} {o : Op} (h : findOp s id = some o) (k : OpId) (st : Status) (aborted : Bool) :
    ∃ o', findOp (endOp s k st aborted) id = some o' ∧ o'.itemsOut = o.itemsOut := by
  have hops := ops_endOp s k st aborted
  by_cases hd : ((findOp s k).any fun o => o.done.isNone) = true
  · rw [if_pos hd] at hops
    have hmod := findOp_modOp (s := s) (id := k) (f := fun o => { o with armed := false, done := some st }) (fun _ => rfl) id
    rw [findOp, hops]
    by_cases hk : id = k
    · subst hk
      rw [if_pos rfl, h] at hmod
      exact ⟨_, hmod, rfl⟩
    · rw [if_neg hk, h] at hmod
      exact ⟨o, hmod, rfl⟩
  · rw [if_neg hd] at hops
    exact ⟨o, by rw [findOp, hops]; exact h, rfl⟩

theorem itemsOut_endOps (st : Status) (aborted : Bool) (id : OpId) : ∀ (ids : List OpId) {s : State} {o : Op}, findOp s id = some o →
    ∃ o', findOp (endOps st aborted ids s) id = some o' ∧ o'.itemsOut = o.itemsOut
  | [], _, o, h => ⟨o, h, rfl⟩
  | k :: ids, _, o, h => by
    obtain ⟨o₁, h₁, e₁⟩ := itemsOut_endOp h k st aborted
    obtain ⟨o₂, h₂, e₂⟩ := itemsOut_endOps st aborted id ids h₁
    exact ⟨o₂, h₂, e₂.trans e₁⟩

/-- Where no core is left, every kernel's and refinement's command ends (R214); beyond the work of commands nothing else changes. -/
theorem noStudyLeft_frame (s : State) : endless (noStudyLeft s) = endless s ∧
    (∀ core, bankFind s.study.busy core = none → bankFind (noStudyLeft s).study.busy core = none) ∧
    ∀ id o, findOp s id = some o → ∃ o', findOp (noStudyLeft s) id = some o' ∧ o'.itemsOut = o.itemsOut := by
  unfold noStudyLeft
  split
  · exact ⟨rfl, fun _ h => h, fun id o h => ⟨o, h, rfl⟩⟩
  · refine ⟨endless_endOps .., fun core h => busy_endOps _ _ _ h, fun id o h => itemsOut_endOps _ _ _ _ h⟩

/-- An item that has run is remembered, which changes nothing else (log entry 7). -/
theorem remember_frame (s : State) (o : Op) (rm : RMode) (n : Nat) (tr : List StudyOp) (loads : List Nat) :
    ∃ known, remember s o rm n tr loads = { s with study := { s.study with known := known } } := by
  unfold remember
  dsimp only
  split
  · exact ⟨s.study.known, rfl⟩
  · exact ⟨_, rfl⟩

/-- A Study command one of whose kernel items has run. -/
def Op.itemRun (ni : Nat) (fl : IFlags) (o : Op) : Op :=
  let o := addIeee fl { o with itemsDone := o.itemsDone + 1 }
  if o.itemsDone = ni then { o with done := some .ok } else o

theorem Op.itemRun_fields (ni : Nat) (fl : IFlags) (o : Op) : (o.itemRun ni fl).id = o.id ∧ (o.itemRun ni fl).itemsDone = o.itemsDone + 1 ∧
    (o.itemRun ni fl).rflags = o.rflags ||| fl.setWidth 9 ∧ (o.itemRun ni fl).done = if o.itemsDone + 1 = ni then some .ok else o.done := by
  unfold Op.itemRun
  dsimp only [addIeee]
  split <;> exact ⟨rfl, rfl, rfl, rfl⟩

theorem kernelDone_eq (s : State) (o : Op) (core ni : Nat) (fl : IFlags) :
    kernelDone s o core ni fl = modOp (itemDone s core) o.id (Op.itemRun ni fl) := rfl

/-- Clearing a bit clears it alone. -/
theorem getLsbD_clear {n : Nat} (x : BitVec n) {i : Nat} (hi : i < n) :
    (x &&& ~~~(BitVec.ofNat n (2 ^ i))).getLsbD i = false ∧
    ∀ k, k ≠ i → (x &&& ~~~(BitVec.ofNat n (2 ^ i))).getLsbD k = x.getLsbD k := by
  refine ⟨?_, fun k hk => ?_⟩
  · rw [BitVec.getLsbD_and, BitVec.getLsbD_not, BitVec.getLsbD_ofNat, Nat.testBit_two_pow_self]
    simp [hi]
  · rw [BitVec.getLsbD_and, BitVec.getLsbD_not, BitVec.getLsbD_ofNat, Nat.testBit_two_pow_of_ne (Ne.symm hk)]
    by_cases hk' : k < n
    · simp [hk']
    · simp [BitVec.getLsbD_of_ge x k (by omega)]

/-- Settles O34. -/
theorem studyItemsRunAndRepeat : Obligations.StudyItemsRunAndRepeat := by
  unfold Obligations.StudyItemsRunAndRepeat
  refine ⟨fun s q idx item core o it hp ho hst hdone hit hout hup hidle hpace harb => ?_,
    fun s env core trace id n ni aa al kh rm o hp hbusy ho hdone hcmd hhalt => ?_, fun s core hp hup => ⟨?_, ?_⟩⟩
  · have hid : o.id = (q.val, idx.val) := by simpa using List.find?_some ho
    let t := modOp { s with study := { s.study with busy := bankPut s.study.busy core.val it } } o.id
      fun o => { o with itemsOut := o.itemsOut ++ [item] }
    have hexec : exec (.workItemDispatch q idx item core) s =
        .next (arbTake t (clusterOf core.val) 256 o.cls o.q (itemReqs s) (itemReqs t)) := by
      change execWorkItemDispatch q idx item core s = _
      rw [execWorkItemDispatch, ho]
      dsimp only
      rw [hit]
      dsimp only
      rw [if_pos]
      rw [hp, hst, hdone, hup, hidle, hpace, harb, List.contains_eq_mem, decide_eq_false hout]
      rfl
    refine ⟨_, hexec, bankFind_put_same .., ?_, rfl, rfl, fun k hk => bankFind_put_other _ _ hk⟩
    rw [← hid]
    exact findOp_done (u := { s with study := { s.study with busy := bankPut s.study.busy core.val it } }) (hid ▸ ho) fun _ => rfl
  · intro r hacc
    have hid : o.id = id := by simpa using List.find?_some ho
    have hstands : Stands s r.st := stands_runTrace ..
    have hro : findOp r.st id = some o := hstands.findOp ho (by rw [Op.waits, hcmd])
    obtain ⟨known, hknown⟩ := remember_frame r.st o rm n (itemTodo s env o rm core.val n trace).whole r.loads
    have hexec : exec (.workItemComplete core trace env) s = .next (kernelDone (remember r.st o rm n
        (itemTodo s env o rm core.val n trace).whole r.loads) o core.val ni r.fl) := by
      change execWorkItemComplete core trace env s = _
      rw [execWorkItemComplete, hbusy]
      dsimp only
      rw [ho]
      dsimp only
      rw [hcmd]
      dsimp only
      rw [if_pos (by rw [hp, hdone, hhalt]; rfl), kernelItem]
      rw [show (runTrace s env o rm (itemTodo s env o rm core.val n trace)).acc = .ok from hacc]
      rfl
    rw [hknown, kernelDone_eq, hid] at hexec
    refine ⟨_, hexec, rfl, bankFind_erase_same .., ?_, ?_⟩
    · change r.st.study.itemCnt + 1 = _
      rw [hstands.study]
    · have hdone' : findOp (itemDone { r.st with study := { r.st.study with known := known } } core.val) id = some o := hro
      obtain ⟨-, hdid, hflags, hend⟩ := Op.itemRun_fields ni r.fl o
      exact ⟨_, findOp_done hdone' fun o => (Op.itemRun_fields ni r.fl o).1, hdid, hflags, hdone ▸ hend⟩
  · exact congrArg Host.Outcome.next (if_pos (by rw [hp, hup]; rfl))
  · have hexec : exec (.coreFault core) s = .next (removeCore s core.val) := congrArg Host.Outcome.next (if_pos (by rw [hp, hup]; rfl))
    refine ⟨_, hexec, ?_⟩
    rw [removeCore_eq]
    obtain ⟨hstudy, hnvm, hmem⟩ := itemRepeats_frame (coreGone s core.val (bankFind s.study.busy core.val)) core.val
      (bankFind s.study.busy core.val)
    have hops : ∀ i o, bankFind s.study.busy core.val = some i → findOp s i.opId = some o →
        findOp (itemRepeats (coreGone s core.val (bankFind s.study.busy core.val)) core.val (bankFind s.study.busy core.val)) i.opId =
          some { o with itemsOut := o.itemsOut.filter (· ≠ i.num) } := by
      intro i o hi ho
      rw [hi]
      exact findOp_itemRepeats ho
    generalize itemRepeats (coreGone s core.val (bankFind s.study.busy core.val)) core.val (bankFind s.study.busy core.val) = u
      at hstudy hnvm hmem hops
    have hq : quiet (capacity u 2 core.val false) = quiet u := quiet_raiseEvent ..
    have hr := unrecorded_addFrec (capacity u 2 core.val false) 4 2 core.val 0 0 noCtx
    have hvstudy : (addFrec (capacity u 2 core.val false) 4 2 core.val 0 0 noCtx).study = u.study :=
      (eq_of_view unrecorded State.study (fun _ => rfl) hr).trans (eq_of_view quiet State.study (fun _ => rfl) hq)
    have hvmem : (addFrec (capacity u 2 core.val false) 4 2 core.val 0 0 noCtx).mem = u.mem :=
      (eq_of_view unrecorded State.mem (fun _ => rfl) hr).trans (eq_of_view quiet State.mem (fun _ => rfl) hq)
    have hvops : (addFrec (capacity u 2 core.val false) 4 2 core.val 0 0 noCtx).ops = u.ops :=
      (eq_of_view unrecorded State.ops (fun _ => rfl) hr).trans (eq_of_view quiet State.ops (fun _ => rfl) hq)
    have hvrec : s.nvm.frec.length < 1024 → ∃ e, (addFrec (capacity u 2 core.val false) 4 2 core.val 0 0 noCtx).nvm.frec = s.nvm.frec ++ [e] ∧
        e.kind = 4 ∧ e.unit = 2 ∧ e.index = core.val := by
      intro hroom
      have hcap : (capacity u 2 core.val false).nvm = s.nvm := (eq_of_view quiet State.nvm (fun _ => rfl) hq).trans hnvm
      unfold addFrec
      rw [if_pos (by rw [hcap]; exact hroom), hcap]
      exact ⟨_, rfl, rfl, rfl, rfl⟩
    generalize addFrec (capacity u 2 core.val false) 4 2 core.val 0 0 noCtx = v at hvstudy hvmem hvops hvrec
    obtain ⟨hend, hbusy, hout⟩ := noStudyLeft_frame v
    have hcores : (noStudyLeft v).study.coreOk = s.study.coreOk &&& ~~~(BitVec.ofNat 128 (2 ^ core.val)) := by
      rw [eq_of_view endless (fun u => u.study.coreOk) (fun _ => rfl) hend, hvstudy, hstudy]
      rfl
    obtain ⟨hself, hothers⟩ := getLsbD_clear s.study.coreOk core.isLt
    refine ⟨?_, fun k hk => ?_, hbusy core.val ?_, ?_, ?_, ?_, fun hroom => ?_, fun it o hit ho => ?_⟩
    · rw [coreUp, hcores]; exact hself
    · rw [coreUp, hcores]; exact hothers k hk
    · rw [hvstudy, hstudy]; exact bankFind_erase_same ..
    · rw [eq_of_view endless (fun u => u.study.itemRep) (fun _ => rfl) hend, hvstudy, hstudy]; rfl
    · rw [eq_of_view endless (fun u => u.study.flags) (fun _ => rfl) hend, hvstudy, hstudy]; rfl
    · rw [eq_of_view endless (fun u => u.mem.data) (fun _ => rfl) hend, hvmem, hmem]; rfl
    · rw [eq_of_view endless (fun u => u.nvm.frec) (fun _ => rfl) hend]
      exact hvrec hroom
    · have hv : findOp v it.opId = some { o with itemsOut := o.itemsOut.filter (· ≠ it.num) } := by
        rw [← hops it o hit ho, findOp, findOp, hvops]
      obtain ⟨o', ho', hio⟩ := hout _ _ hv
      rw [ho', Option.map_some, hio]

/-! ### Items of a refinement (R216 to R224) -/

theorem refineOn_some {s : State} {core : Nat} {it : Item} {o : Op} {c : RefCmd} {r : RefineSt} (h : refineOn s core it = some (o, c, r)) :
    findOp s it.opId = some o ∧ o.cmd = .refine c ∧ o.refine = some r ∧ o.done = none := by
  unfold refineOn at h
  split at h
  next o' ho =>
    split at h
    next c' r' hc hr =>
      split at h
      next hcond =>
        simp only [Option.some.injEq, Prod.mk.injEq] at h
        obtain ⟨rfl, rfl, rfl⟩ := h
        simp only [Bool.and_eq_true, Option.isNone_iff_eq_none] at hcond
        exact ⟨ho, hc, hr, hcond.1.2⟩
      next => exact nomatch h
    next => exact nomatch h
  next => exact nomatch h

theorem unread_refRow (s : State) (env : Env) (o : Op) (c : RefCmd) (x : List Long) (i : Nat) :
    unread (refRow s env o c x i).1 = unread s := by
  unfold refRow
  split
  · have h1 := unread_readOp s env o (c.rowPtr + 4 * i) 8
    split
    next u p he =>
      rw [he] at h1
      dsimp only
      have h2 := unread_readOp u env o (c.aAddr + 8 * field p 0 4) (8 * (field p 4 4 - field p 0 4))
      split
      next v av he' =>
        rw [he'] at h2
        have h3 := unread_readOp v env o (c.colIdx + 4 * field p 0 4) (4 * (field p 4 4 - field p 0 4))
        split
        all_goals next he'' => rw [he''] at h3; exact h3.trans (h2.trans h1)
      next he' => rw [he'] at h2; exact h2.trans h1
    next he => rw [he] at h1; exact h1
  · have h1 := unread_readOp s env o (c.aAddr + 8 * (i * c.lda)) (8 * c.n)
    split
    all_goals next he => rw [he] at h1; exact h1

theorem unread_refRows (env : Env) (o : Op) (c : RefCmd) (x : List Long) (k : Nat) : ∀ (i : Nat) (s : State),
    unread (refRows env o c x k i s).1 = unread s := by
  induction k with
  | zero => intro i s; rfl
  | succ k ih =>
    intro i s
    have h1 := unread_refRow s env o c x i
    rw [refRows]
    split
    next u row he =>
      rw [he] at h1
      have h2 := unread_readOp u env o (c.bAddr + 8 * i) 8
      split
      next v b he' =>
        rw [he'] at h2
        exact (ih (i + 1) v).trans (h2.trans h1)
      next he' => rw [he'] at h2; exact h2.trans h1
    next he => rw [he] at h1; exact h1

theorem freshItems_fields (stage : RefStage) (o : Op) : (freshItems stage o).id = o.id ∧ (freshItems stage o).refine = o.refine := by
  unfold freshItems
  split
  · split <;> exact ⟨rfl, rfl⟩
  · exact ⟨rfl, rfl⟩

/-- The block of an item that is done joins the blocks of its stage; after the last the next stage begins. -/
theorem blockDone_fields (c : RefCmd) (b : Nat) (next : RefStage) (r : RefineSt) :
    blockDone c b next r = { r with blocks := (blockDone c b next r).blocks, stage := (blockDone c b next r).stage } ∧
    (blockDone c b next r).stage = if r.blocks.length + 1 = refBlocks c.n then next else r.stage := by
  unfold blockDone
  dsimp only
  rw [List.length_append, List.length_singleton]
  split <;> exact ⟨rfl, rfl⟩

theorem updateDone_fields (c : RefCmd) (b : Nat) (r : RefineSt) :
    (updateDone c b r).x = putFrom r.x (128 * b) ((updateBlock c r b).map (fun v => BitVec.ofNat 64 v.1)) ∧ (updateDone c b r).r = r.r ∧
    (updateDone c b r).decided = r.decided ∧
    (r.stage = .updates → (updateDone c b r).stage = (if r.blocks.length + 1 = refBlocks c.n then .residuals else .updates) ∧
      (updateDone c b r).k = (if r.blocks.length + 1 = refBlocks c.n then r.k + 1 else r.k)) := by
  let r0 : RefineSt := { r with
    x := putFrom r.x (128 * b) ((updateBlock c r b).map (fun v => BitVec.ofNat 64 v.1)),
    ieee := (updateBlock c r b).foldl (fun f v => f ||| v.2) r.ieee }
  obtain ⟨hrest, hstage⟩ := blockDone_fields c b .residuals r0
  have hdone : updateDone c b r = if (blockDone c b .residuals r0).stage = .residuals
      then { blockDone c b .residuals r0 with k := (blockDone c b .residuals r0).k + 1 } else blockDone c b .residuals r0 := rfl
  rw [hdone]
  have hr0 : r0.blocks = r.blocks ∧ r0.stage = r.stage := ⟨rfl, rfl⟩
  rw [hr0.1, hr0.2] at hstage
  refine ⟨?_, ?_, ?_, fun hupd => ?_⟩
  · split <;> exact (congrArg RefineSt.x hrest :)
  · split <;> exact (congrArg RefineSt.r hrest :)
  · split <;> exact (congrArg RefineSt.decided hrest :)
  · rw [hupd] at hstage
    rw [hstage]
    have hk : (blockDone c b .residuals r0).k = r.k := (congrArg RefineSt.k hrest :)
    by_cases hlast : r.blocks.length + 1 = refBlocks c.n
    · rw [if_pos hlast] at hstage ⊢
      rw [if_pos hlast, if_pos rfl]
      exact ⟨hstage, congrArg (· + 1) hk⟩
    · rw [if_neg hlast] at hstage ⊢
      rw [if_neg hlast, if_neg (by decide)]
      exact ⟨hstage, hk⟩

/-- Grid values take free words, and change nothing else. -/
theorem decideAll_frame (tolExp : Int) (e : Nat) (l : List (Option Long × Long)) : ∀ (s : State) (fl : IFlags),
    (decideAll tolExp e l s fl).1 = { s with freeIx := (decideAll tolExp e l s fl).1.freeIx } := by
  induction l with
  | nil => intro s fl; rfl
  | cons d l ih =>
    intro s fl
    obtain ⟨v, x⟩ := d
    cases v with
    | some v => exact ih s fl
    | none =>
      rw [decideAll]
      dsimp only
      split
      next n _ =>
        have hg : (gridValue s tolExp n).1 = { s with freeIx := (gridValue s tolExp n).1.freeIx } := by
          unfold gridValue
          dsimp only
          split <;> rfl
        refine (ih _ _).trans ?_
        rw [hg]
      next => exact ih ..

/-- Where the decision goes by the elements decided, it is not one that comes first. -/
theorem stopStatus_early {c : RefCmd} {r : RefineSt} {e : Nat} {dec : List (Option Long)} (h3 : stopStatus c r e dec ≠ some 3)
    (h4 : stopStatus c r e dec ≠ some 4) : stopStatus c r e [some 0] = some 0 := by
  unfold stopStatus at *
  split
  next h => rw [if_pos h] at h3; exact absurd rfl h3
  next h =>
    rw [if_neg h] at h3 h4
    split
    next h' => rw [if_pos h'] at h4; exact absurd rfl h4
    next => rfl

theorem stands_writeAll (env : Env) (o : Op) (l : List (Nat × List Byte)) : ∀ s : State, Stands s (writeAll env o l s).1 := by
  induction l with
  | nil => exact fun s => .refl s
  | cons p l ih =>
    intro s
    obtain ⟨va, bs⟩ := p
    have h : Stands s (writeOp s env o va bs).1 := .of_unwritten (unwritten_writeOp ..)
    rw [writeAll]
    split
    next he => rw [he] at h; exact (h.trans (.testFences _)).trans (ih _)
    next he => rw [he] at h; exact h.trans (.testFences _)

/-- A REFINE command after an item of each kind. -/
def Op.residualRun (c : RefCmd) (b : Nat) (vs : List (Nat × Nat × IFlags)) (o : Op) : Op :=
  freshItems .residuals { o with refine := o.refine.map fun r => blockDone c b .decide { r with
    r := putFrom r.r (128 * b) (vs.map (fun v => BitVec.ofNat 64 v.1)),
    eps := putFrom r.eps (128 * b) (vs.map (fun v => BitVec.ofNat 64 v.2.1)), ieee := vs.foldl (fun f v => f ||| v.2.2) r.ieee } }
def Op.updateRun (c : RefCmd) (b : Nat) (o : Op) : Op := freshItems .updates { o with refine := o.refine.map (updateDone c b) }
def Op.toOptics (r : RefineSt) (o : Op) : Op := { o with refine := some (windowInput r), passes := [], itemsOut := [] }
def Op.stops (r : RefineSt) (o : Op) : Op := { o with
  refine := some r, done := some .ok,
  rflags := o.rflags ||| (r.ieee.setWidth 9 ||| (if r.sat then 32 else 0) ||| (if r.rsvd then 64 else 0) ||| (if r.moved then 256 else 0)) }

/-- The cores when a decision has stopped its refinement; the flag is that of no convergence (R223). -/
def stopDone (s : State) (core st : Nat) : State :=
  let s := itemDone s core
  if st = 1 ∨ st = 2 then { s with study := { s.study with flags := s.study.flags ||| 4 } } else s

theorem stopDone_fields (s : State) (core st : Nat) : (stopDone s core st).ops = s.ops ∧ (stopDone s core st).mem = s.mem ∧
    (stopDone s core st).study.itemCnt = s.study.itemCnt + 1 ∧
    (stopDone s core st).study.flags = if st = 1 ∨ st = 2 then s.study.flags ||| 4 else s.study.flags := by
  unfold stopDone
  dsimp only
  split <;> exact ⟨rfl, rfl, rfl, rfl⟩

/-- Settles O35. -/
theorem refineItemsAdvanceTheIteration : Obligations.RefineItemsAdvanceTheIteration := by
  unfold Obligations.RefineItemsAdvanceTheIteration
  intro s env core id o c r ho
  have hid : o.id = id := by simpa using List.find?_some ho
  refine ⟨fun b hbusy hon hacc => ?_, fun b hbusy hon => ?_, fun hbusy hon hwin => ?_⟩
  · obtain ⟨-, hcmd, href, -⟩ := refineOn_some hon
    intro vs
    have hview := unread_refRows env o c r.x (tileExtent c.n b) (128 * b) s
    have hexec : exec (.refineResidual core env) s =
        .next (modOp (itemDone (refRows env o c r.x (tileExtent c.n b) (128 * b) s).1 core.val) o.id (Op.residualRun c b vs)) := by
      change execRefineResidual core env s = _
      rw [execRefineResidual, hbusy]
      dsimp only
      rw [hon]
      dsimp only
      rw [hacc]
      rfl
    generalize (refRows env o c r.x (tileExtent c.n b) (128 * b) s).1 = u at hview hexec
    have hstudy : u.study = s.study := eq_of_view unread State.study (fun _ => rfl) hview
    have hu : findOp (itemDone u core.val) id = some o := by
      rw [← ho]
      exact (eq_of_view unread (fun u => findOp u id) (fun _ => rfl) hview :)
    rw [hid] at hexec
    obtain ⟨hrest, hstage⟩ := blockDone_fields c b .decide { r with
      r := putFrom r.r (128 * b) (vs.map (fun v => BitVec.ofNat 64 v.1)),
      eps := putFrom r.eps (128 * b) (vs.map (fun v => BitVec.ofNat 64 v.2.1)), ieee := vs.foldl (fun f v => f ||| v.2.2) r.ieee }
    refine ⟨_, _, _, hexec, findOp_done hu fun _ => (freshItems_fields ..).1, ?_, (congrArg RefineSt.x hrest :),
      (congrArg RefineSt.r hrest :), (congrArg RefineSt.eps hrest :), hstage, ?_, bankFind_erase_same .., ?_⟩
    · refine (freshItems_fields ..).2.trans ?_
      rw [href]
      rfl
    · change u.study.itemCnt + 1 = _
      rw [hstudy]
    · exact (eq_of_view unread (fun u => u.mem.data) (fun _ => rfl) hview :)
  · obtain ⟨-, hcmd, href, -⟩ := refineOn_some hon
    have hexec : exec (.refineUpdate core env) s = .next (modOp (itemDone s core.val) id (Op.updateRun c b)) := by
      change execRefineUpdate core env s = _
      rw [execRefineUpdate, hbusy]
      dsimp only
      rw [hon, ← hid]
      rfl
    have hu : findOp (itemDone s core.val) id = some o := ho
    obtain ⟨hx, hr, hdec, hstage⟩ := updateDone_fields c b r
    refine ⟨_, _, updateDone c b r, hexec, findOp_done hu fun _ => (freshItems_fields ..).1, ?_, hx, hr, hdec, rfl, rfl,
      bankFind_erase_same .., hstage⟩
    refine (freshItems_fields ..).2.trans ?_
    rw [href]
    rfl
  · obtain ⟨-, hcmd, href, hdone⟩ := refineOn_some hon
    intro e r1 d r2
    have hd : d.1 = { s with freeIx := d.1.freeIx } := decideAll_frame ..
    have hexec : exec (.refineDecision core env) s = .next (decision s env o c core.val r) := by
      change execRefineDecision core env s = _
      rw [execRefineDecision, hbusy]
      dsimp only
      rw [hon]
      dsimp only
      rw [hwin]
      rfl
    have hlate (h3 : stopStatus c r1 e.1 d.2.1 ≠ some 3) (h4 : stopStatus c r1 e.1 d.2.1 ≠ some 4) : decision s env o c core.val r =
        match stopStatus c r1 e.1 d.2.1 with
        | some st => refineStop s d.1 env o c core.val r2 st
        | none => modOp (itemDone d.1 core.val) id (Op.toOptics r2) := by
      have hearly : stopStatus c r1 e.1 [some 0] = some 0 := stopStatus_early h3 h4
      rw [← hid]
      unfold decision
      dsimp only
      refine if_neg ?_
      change ¬(stopStatus c r1 e.1 [some 0] = some 3 ∨ stopStatus c r1 e.1 [some 0] = some 4)
      rw [hearly]
      decide
    refine ⟨fun hgo => ?_, fun st hst h3 h4 => ?_⟩
    · rw [hgo] at hlate
      have hdec := hlate nofun nofun
      have hu : findOp (itemDone d.1 core.val) id = some o := by
        rw [← ho, hd]
        rfl
      refine ⟨_, _, windowInput r2, hexec.trans (congrArg _ hdec), findOp_done (f := Op.toOptics r2) hu fun _ => rfl, rfl, hdone, rfl, rfl, rfl, rfl,
        rfl, ?_, ?_⟩
      · exact (congrArg State.mem hd :)
      · exact (congrArg (fun u : State => u.study.itemCnt + 1) hd :)
    · intro w hw
      rw [hst] at hlate
      have hdec := hlate (fun h => h3 (Option.some.inj h)) (fun h => h4 (Option.some.inj h))
      have hstands : Stands d.1 w.1 := stands_writeAll ..
      have hwo : findOp w.1 id = some o := hstands.findOp (by rw [← ho, hd]; rfl) (by rw [Op.waits, hcmd])
      have hstudy : w.1.study = s.study := hstands.study.trans (congrArg State.study hd :)
      have hstop : refineStop s d.1 env o c core.val r2 st = modOp (stopDone w.1 core.val st) id (Op.stops r2) := by
        unfold refineStop
        dsimp only
        rw [show (writeAll env o [(c.yOut, youtOf r2), (c.mapAddr, bitmapOf r2.decided), (c.repAddr, refReport r2 st)] d.1).2 = .ok from hw, hid]
        rfl
      obtain ⟨hops, hmem, hcount, hflags⟩ := stopDone_fields w.1 core.val st
      have hso : findOp (stopDone w.1 core.val st) id = some o := by rw [← hwo, findOp, findOp, hops]
      rw [hstudy] at hcount hflags
      exact ⟨_, o.stops r2, (hexec.trans (congrArg _ hdec)).trans (congrArg _ hstop), findOp_done hso fun _ => rfl, rfl, hmem, hcount, hflags⟩

end Sys2Proof.Machine


/-!
The Radiator's registers and shorts, and the Sweep (R157 to R170, R176, R254, R258): the obligations O40, O44 and O45.
-/

namespace Sys2Proof.Machine

open Sys2Proof

/-! ### The Sweep (R254, R258, R266) -/

/-- An entry of the failure record raises at most one event. -/
theorem addFrec_evSeq (s : State) (kind unit index cause paddr ctx : Nat) :
    (addFrec s kind unit index cause paddr ctx).evSeq = s.evSeq ∨
      (addFrec s kind unit index cause paddr ctx).evSeq = s.evSeq + 1 := by
  unfold addFrec
  dsimp only
  split
  · exact .inl rfl
  · split
    · exact .inl rfl
    · exact .inr (raiseEvent_evSeq ..)

theorem poisonedPage_evSeq (s : State) (pa : Nat) : (poisonedPage s pa).evSeq = s.evSeq := by
  unfold poisonedPage retirePage
  repeat' split
  all_goals rfl

/-- A poisoned page changes the list of pages to retire, and no other part of the memory. -/
theorem poisonedPage_mem (s : State) (pa : Nat) : ∃ ps, (poisonedPage s pa).mem = { s.mem with badPages := ps } := by
  unfold poisonedPage retirePage
  repeat' split
  all_goals exact ⟨_, rfl⟩

/-- What the memory keeps through an error that is found, counted or poisoned: its bytes and the Sweep's place. -/
def Walks (s t : State) : Prop := t.mem.data = s.mem.data ∧ t.mem.swLar = s.mem.swLar ∧ t.mem.swCel = s.mem.swCel ∧
  t.mem.swPass = s.mem.swPass ∧ t.mem.stacksIn = s.mem.stacksIn ∧ t.ctxs = s.ctxs ∧ t.windows = s.windows

/-- The part when a granule found uncorrectable is poisoned, counted and logged (R258). -/
def ueLogged (s : State) (g : Nat) (src : Finder) (own : Option Nat) : State :=
  elog (countUe (setPoison s g) (64 * g)) (64 * g) own src

theorem sweep_foundUe (s : State) (g : Nat) (src : Finder) : foundUe s g src none true =
    poisonedPage (raiseEvent (addFrec (ueLogged s g src (ownerCtx (countUe (setPoison s g) (64 * g)) (64 * g))) 8 0 0 src.code (64 * g)
      ((ownerCtx (countUe (setPoison s g) (64 * g)) (64 * g)).getD noCtx)) 0x05
      ((ownerCtx (countUe (setPoison s g) (64 * g)) (64 * g)).getD noCtx) (64 * g)
      (if (ownerCtx (countUe (setPoison s g) (64 * g)) (64 * g)).isSome then 1 else 0)) (64 * g) := rfl

/-- A granule that the Sweep first finds uncorrectable is poisoned and counted once, with an event (R258, R261). -/
theorem foundUe_sweep {s : State} {g : Nat} (src : Finder) (h : s.mem.poison.contains g = false) :
    Walks s (foundUe s g src none true) ∧ (foundUe s g src none true).mem.poison = s.mem.poison ++ [g] ∧
      (foundUe s g src none true).mem.poisCnt = s.mem.poisCnt + 1 ∧ (foundUe s g src none true).evSeq ≠ s.evSeq := by
  have hctx : (foundUe s g src none true).ctxs = s.ctxs := eq_of_view unread State.ctxs (fun _ => rfl) (unread_foundUe ..)
  have hwin : (foundUe s g src none true).windows = s.windows := eq_of_view unread State.windows (fun _ => rfl) (unread_foundUe ..)
  rw [sweep_foundUe] at hctx hwin ⊢
  generalize ownerCtx (countUe (setPoison s g) (64 * g)) (64 * g) = own at hctx hwin ⊢
  generalize hu : addFrec (ueLogged s g src own) 8 0 0 src.code (64 * g) (own.getD noCtx) = u at hctx hwin ⊢
  generalize hv : raiseEvent u 0x05 (own.getD noCtx) (64 * g) (if own.isSome then 1 else 0) = v at hctx hwin ⊢
  have hmem : v.mem = (ueLogged s g src own).mem := by
    rw [← hv, ← hu]
    exact (eq_of_view quiet State.mem (fun _ => rfl) (quiet_raiseEvent ..)).trans (addFrec_mem ..)
  have hset : setPoison s g = { s with mem := { s.mem with poison := s.mem.poison ++ [g] } } := by rw [setPoison, h]; rfl
  have hlog : (ueLogged s g src own).evSeq = s.evSeq := by rw [ueLogged, hset]; rfl
  have hseq : (poisonedPage v (64 * g)).evSeq = u.evSeq + 1 := by rw [poisonedPage_evSeq, ← hv, raiseEvent_evSeq]
  obtain ⟨ps, hp⟩ := poisonedPage_mem v (64 * g)
  rw [hmem, ueLogged, hset] at hp
  refine ⟨⟨by rw [hp]; rfl, by rw [hp]; rfl, by rw [hp]; rfl, by rw [hp]; rfl, by rw [hp]; rfl, hctx, hwin⟩, by rw [hp]; rfl,
    by rw [hp]; rfl, ?_⟩
  rw [hseq, ← hu]
  rcases addFrec_evSeq (ueLogged s g src own) 8 0 0 src.code (64 * g) (own.getD noCtx) with h | h <;> rw [h, hlog] <;> bv_omega

/-- What a granule that the Sweep reads leaves: poison only where it finds an uncorrectable one (R258). -/
theorem sweepRead_walks (s : State) (env : Env) (g : Nat) : Walks s (sweepRead s env g) ∧
    if stackOut s (64 * g) = false ∧ g ∉ s.mem.poison ∧ g ∈ env.ue then
      (sweepRead s env g).mem.poison = s.mem.poison ++ [g] ∧ (sweepRead s env g).mem.poisCnt = s.mem.poisCnt + 1 ∧
        (sweepRead s env g).evSeq ≠ s.evSeq
    else (sweepRead s env g).mem.poison = s.mem.poison ∧ (sweepRead s env g).mem.poisCnt = s.mem.poisCnt ∧
        (sweepRead s env g).evSeq = s.evSeq := by
  have hstay : Walks s s := ⟨rfl, rfl, rfl, rfl, rfl, rfl, rfl⟩
  unfold sweepRead
  cases hout : stackOut s (64 * g) with
  | true => simpa using hstay
  | false =>
    cases hpois : s.mem.poison.contains g with
    | true => simpa [List.contains_iff_mem.mp hpois] using hstay
    | false =>
      have hnot : g ∉ s.mem.poison := by simpa using hpois
      cases hue : env.ue.contains g with
      | true => simpa [hnot, List.contains_iff_mem.mp hue] using foundUe_sweep .sweep hpois
      | false =>
        have hno : g ∉ env.ue := by simpa using hue
        simp only [Bool.or_self, Bool.false_eq_true, if_false, hno, and_false]
        split
        · exact ⟨⟨rfl, rfl, rfl, rfl, rfl, rfl, rfl⟩, rfl, rfl, rfl⟩
        · exact ⟨hstay, rfl, rfl, rfl⟩

/-- The walk of the Larder wraps at its end (R266). -/
theorem sweepNext_larder (s : State) : sweepNext s true =
    { s with mem := { s.mem with swLar := if s.mem.swLar + 1 < 0x10000000 / 64 then s.mem.swLar + 1 else 0 } } := by
  have hsize : sweepSize s true = 0x10000000 / 64 := by rw [sweepSize, if_pos rfl, larderEnd]
  rw [sweepNext, if_pos rfl, hsize]

theorem sweepSize_cellar (s : State) : sweepSize s false = s.mem.stacksIn.length * 0x600000000 / 64 := by
  rw [sweepSize, if_neg Bool.false_ne_true, stackSize]

/-- The walk of the Cellar wraps at its end, which SWPASS counts (R266). -/
theorem sweepNext_cellar {s : State} {n : Nat} (hn : sweepSize s false = n) :
    ∃ c p, sweepNext s false = { s with mem := { s.mem with swCel := c, swPass := p } } ∧
      if s.mem.swCel + 1 < n then c = s.mem.swCel + 1 ∧ p = s.mem.swPass else c = 0 ∧ p = s.mem.swPass + 1 := by
  rw [sweepNext, if_neg Bool.false_ne_true, hn]
  split
  · exact ⟨_, s.mem.swPass, rfl, rfl, rfl⟩
  · exact ⟨_, _, rfl, rfl, rfl⟩

/-- Settles O40: the walk's place is untouched by what the Sweep finds, and moving on touches nothing else. -/
theorem theSweepWalksAndScrubs : Obligations.TheSweepWalksAndScrubs := by
  unfold Obligations.TheSweepWalksAndScrubs
  intro s larder hp hi hon
  have hgate : (powered s && s.mem.init && sweepOn s larder) = true := by rw [hp, hi, hon]; rfl
  refine ⟨?_, fun env => ⟨_, congrArg Host.Outcome.next (if_pos hgate), ?_⟩⟩
  · exact congrArg Host.Outcome.next ((if_pos hgate).trans (by cases larder <;> rfl))
  · obtain ⟨⟨hdata, hlar, hcel, hpass, hin, hctx, hwin⟩, hpois⟩ := sweepRead_walks s env (sweepAt s larder)
    generalize sweepRead s env (sweepAt s larder) = u at hdata hlar hcel hpass hin hctx hwin hpois
    cases larder with
    | true =>
      rw [sweepNext_larder]
      exact ⟨fun _ => ⟨by rw [hlar], hcel, hpass⟩, nofun, hdata, hctx, hwin, hpois⟩
    | false =>
      have hn := sweepSize_cellar u
      rw [hin] at hn
      generalize s.mem.stacksIn.length * 0x600000000 / 64 = n at hn ⊢
      obtain ⟨c, p, hnext, hwalk⟩ := sweepNext_cellar hn
      rw [hcel, hpass] at hwalk
      rw [hnext]
      exact ⟨nofun, fun _ => ⟨hlar, hwalk⟩, hdata, hctx, hwin, hpois⟩

/-! ### Shorts (R166, R167) -/

/-- A trip of a heater (R167) before its event and its entry. -/
def trippedHeater (s : State) (h : Nat) : State := { s with
  thermo := { putHeater s.thermo h { (heaterOf s.thermo h).parked with sc := true } with
    flags := s.thermo.flags ||| 1, scCnt := s.thermo.scCnt + 1 } }

theorem tripHeater_eq (s : State) (h : Nat) : tripHeater s h =
    addFrec (raiseEvent (trippedHeater s h) 0x0C noCtx h 0) 9 0 (h / 32768) (h % 256) 0 noCtx := rfl

theorem unrecorded_tripHeater (s : State) (h : Nat) : unrecorded (tripHeater s h) = unrecorded (trippedHeater s h) := by
  rw [tripHeater_eq, unrecorded_addFrec]
  exact (congrArg unrecorded (quiet_raiseEvent ..) :)

theorem heaterOf_trippedHeater (s : State) (h k : Nat) : heaterOf (trippedHeater s h).thermo k =
    if k = h then { (heaterOf s.thermo h).parked with sc := true } else heaterOf s.thermo k :=
  heaterOf_putHeater ..

/-- Settles O45: a trip writes its own channel, and its event and entry touch no channel. -/
theorem heaterShortsPark : Obligations.HeaterShortsPark := by
  unfold Obligations.HeaterShortsPark
  intro s h hon hh
  refine ⟨⟨_, congrArg Host.Outcome.next (if_pos (by simp [hon, hh])), ?_, fun k hk => ?_, rfl⟩, fun hl hs =>
    ⟨_, congrArg Host.Outcome.next (if_pos (by simp [hon, hh, hl, hs])), ?_⟩⟩
  · exact (heaterOf_putHeater ..).trans (if_pos rfl)
  · exact (heaterOf_putHeater ..).trans (if_neg hk)
  · have hthermo : (tripHeater s h).thermo = (trippedHeater s h).thermo :=
      eq_of_view unrecorded State.thermo (fun _ => rfl) (unrecorded_tripHeater s h)
    have hsame := (heaterOf_trippedHeater s h h).trans (if_pos rfl)
    rw [hthermo, hsame]
    have hmem : (tripHeater s h).mem = (trippedHeater s h).mem :=
      eq_of_view unrecorded State.mem (fun _ => rfl) (unrecorded_tripHeater s h)
    have hwin : (tripHeater s h).windows = (trippedHeater s h).windows :=
      eq_of_view unrecorded State.windows (fun _ => rfl) (unrecorded_tripHeater s h)
    refine ⟨rfl, rfl, rfl, rfl, fun k hk => (heaterOf_trippedHeater s h k).trans (if_neg hk), rfl, rfl, hmem, hwin, fun hroom => ?_⟩
    have hnvm : (raiseEvent (trippedHeater s h) 0x0C noCtx h 0).nvm = s.nvm := raiseEvent_nvm ..
    obtain ⟨hseq, e, he, hkind, -⟩ := addFrec_appends (s := raiseEvent (trippedHeater s h) 0x0C noCtx h 0) 9 0 (h / 32768) (h % 256) 0 noCtx
      (hnvm ▸ hroom)
    rw [raiseEvent_evSeq] at hseq
    exact ⟨hseq, e, hnvm ▸ he, hkind⟩

/-! ### Written channels (R157, R160, R162, R168) -/

/-- OUT once u is formed: 0 before the NVM load, PARK of a parked channel (R157, R171). -/
theorem Heater.formed_out (t : Thermo) (x : Heater) : (Heater.form t x).1.out =
    if t.nvmOk = false then 0 else if x.sc || t.parkAll then x.park else x.out := by
  cases hn : t.nvmOk with
  | false => simp [Heater.form, hn]
  | true =>
    cases hp : x.sc || t.parkAll with
    | true => rw [Heater.form_parked hn hp]; rfl
    | false => rw [Heater.form_out hn hp]; rfl

/-- Without dither u is OUT (R157). -/
theorem Heater.formed_u {t : Thermo} {x : Heater} (hd : x.den = false) : (Heater.form t x).1.u = (Heater.form t x).1.out := by
  unfold Heater.form Heater.parked
  rw [hd]
  repeat' split
  all_goals first | rfl | contradiction

/-- Under dither u is OUT and the generator's d, clamped (R157). -/
theorem Heater.formed_dither {t : Thermo} {x : Heater} (hn : t.nvmOk = true) (hp : (x.sc || t.parkAll) = false) (hd : x.den = true) :
    Heater.form t x = ({ x with u := (clampU x.out (sgOf t x.dsel.toNat).d).1 }, (clampU x.out (sgOf t x.dsel.toNat).d).2) := by
  simp [Heater.form, hn, hp, hd]

theorem Aux.formed_out (t : Thermo) (n : Nat) (x : Aux) : (Aux.form t n x).1.out =
    if t.nvmOk = false then 0 else if t.parkAll then x.park else x.out := by
  cases hn : t.nvmOk with
  | false => simp [Aux.form, hn]
  | true =>
    cases hp : t.parkAll with
    | true => rw [Aux.form_parked n hn hp]; rfl
    | false => cases hd : x.den <;> simp [Aux.form, hn, hp, hd]

theorem Aux.formed_u {t : Thermo} {n : Nat} {x : Aux} (hd : x.den = false) : (Aux.form t n x).1.u = (Aux.form t n x).1.out := by
  unfold Aux.form Aux.parked
  rw [hd]
  repeat' split
  all_goals first | rfl | contradiction

theorem Aux.formed_dither {t : Thermo} {n : Nat} {x : Aux} (hn : t.nvmOk = true) (hp : t.parkAll = false) (hd : x.den = true) :
    Aux.form t n x = ({ x with u := (clampU x.out (agOf t n).d).1 }, (clampU x.out (agOf t n).d).2) := by
  simp [Aux.form, hn, hp, hd]

/-- A clamp sets DCLAMP. -/
theorem setClamp_sets {t : Thermo} {c : Bool} (hc : c = true) : (setClamp t c).flags.getLsbD 2 = true := by
  rw [hc, setClamp, if_pos rfl, BitVec.getLsbD_or]
  simp

theorem heaterOf_addLostSum (t : Thermo) (dropped : Bool) (k : Nat) : heaterOf (addLostSum t dropped) k = heaterOf t k := by
  cases dropped <;> rfl

theorem flags_addLostSum (t : Thermo) (dropped : Bool) : (addLostSum t dropped).flags = t.flags := by cases dropped <;> rfl

theorem lostSum_formHeater (t : Thermo) (h : Nat) (x : Heater) : (formHeater t h x).lostSum = t.lostSum := by
  unfold formHeater
  rw [setClamp_eq]
  rfl

/-- Heater h as a word written to it leaves it, before u is formed (R160, R162, R165, R168). -/
def wordedHeater (s : State) (h : Nat) (val : Word) (dropped : Bool) : Heater :=
  Heater.follow s.thermo { heaterOf s.thermo h with
    prof := (val >>> 16).setWidth 3, den := val.getLsbD 19, dsel := (val >>> 22).setWidth 6,
    lostUpd := lostWrite val dropped, code := val.setWidth 16,
    sc := (heaterOf s.thermo h).sc && !(val.getLsbD 20) }

/-- AUX output a as a word written to it leaves it, before u is formed (R160, R162). -/
def wordedAux (s : State) (a : Nat) (val : Word) : Aux :=
  let x := { auxOf s.thermo a with code := val.setWidth 16, prof := (val >>> 16).setWidth 3, den := val.getLsbD 19 }
  if (profNow s.thermo x.prof.toNat).step = 0 then { x with out := x.code } else x

theorem Heater.follow_eq (t : Thermo) (x : Heater) :
    Heater.follow t x = { x with out := if (profNow t x.prof.toNat).step = 0 then x.code else x.out } := by
  unfold Heater.follow
  split <;> rfl

theorem wordedAux_eq (s : State) (a : Nat) (val : Word) : wordedAux s a val = { auxOf s.thermo a with
    code := val.setWidth 16, prof := (val >>> 16).setWidth 3, den := val.getLsbD 19,
    out := if (profNow s.thermo ((val >>> 16).setWidth 3 : BitVec 3).toNat).step = 0 then val.setWidth 16 else (auxOf s.thermo a).out } := by
  unfold wordedAux
  dsimp only
  split <;> rfl

theorem writeHeater_thermo (s : State) (h : Nat) (val : Word) (dropped : Bool) : writeHeater s h val dropped =
    { s with thermo := addLostSum (formHeater s.thermo h (wordedHeater s h val dropped)) dropped,
             corr := { s.corr with aud := (writeHeater s h val dropped).corr.aud } } := rfl

theorem writeAux_thermo (s : State) (a : Nat) (val : Word) : writeAux s a val =
    { s with thermo := formAux s.thermo a (wordedAux s a val), corr := { s.corr with aud := (writeAux s a val).corr.aud } } := rfl

theorem heaterOf_writeHeater (s : State) (h k : Nat) (val : Word) (dropped : Bool) :
    heaterOf (writeHeater s h val dropped).thermo k =
      if k = h then (Heater.form s.thermo (wordedHeater s h val dropped)).1 else heaterOf s.thermo k :=
  (heaterOf_addLostSum ..).trans (heaterOf_formHeater ..)

theorem auxOf_writeAux (s : State) (a k : Nat) (val : Word) :
    auxOf (writeAux s a val).thermo k = if k = a then (Aux.form s.thermo a (wordedAux s a val)).1 else auxOf s.thermo k := by
  rw [writeAux_thermo]
  unfold formAux
  rw [setClamp_eq]
  exact bankGet_put ..

theorem writeHeater_lostSum (s : State) (h : Nat) (val : Word) (dropped : Bool) :
    (writeHeater s h val dropped).thermo.lostSum = if dropped then s.thermo.lostSum + 1 else s.thermo.lostSum := by
  have hform := lostSum_formHeater s.thermo h (wordedHeater s h val dropped)
  cases dropped with
  | false => exact hform
  | true => exact congrArg (· + 1) hform

theorem writeHeater_clamps {s : State} {h : Nat} {val : Word} {dropped : Bool}
    (hc : (Heater.form s.thermo (wordedHeater s h val dropped)).2 = true) :
    (writeHeater s h val dropped).thermo.flags.getLsbD 2 = true :=
  (congrArg (·.getLsbD 2) (flags_addLostSum ..)).trans (setClamp_sets hc)

theorem writeAux_heaters (s : State) (a : Nat) (val : Word) (k : Nat) :
    heaterOf (writeAux s a val).thermo k = heaterOf s.thermo k := by
  rw [writeAux_thermo]
  unfold formAux
  rw [setClamp_eq]
  rfl

/-- A heater word inside a bank belongs to one of the 262,144 heaters and to no AUX output. -/
theorem execHeaterCodeWrite_heater {s : State} {off h : Nat} (val : Word) (dropped : Bool) (ho : blockOpen s clrCWI = true)
    (hh : heaterAt off = some h) : execHeaterCodeWrite off val dropped s = .next (writeHeater s h val dropped) := by
  rw [execHeaterCodeWrite, ho, hh]
  rfl

theorem execHeaterCodeWrite_aux {s : State} {off a : Nat} (val : Word) (dropped : Bool) (ho : blockOpen s clrCWI = true)
    (hh : heaterAt off = none) (ha : auxAt off = some a) : execHeaterCodeWrite off val dropped s = .next (writeAux s a val) := by
  rw [execHeaterCodeWrite, ho, hh, ha]
  rfl

/-! ### Written profiles and generators (R163, R176, R183) -/

theorem agOf_bankMod (t : Thermo) (a k : Nat) (f : Gen → Gen) :
    agOf { t with ag := bankMod t.ag Gen.reset a f } k = if k = a then f (agOf t a) else agOf t k := bankGet_put ..

theorem writeSg_eq (t : Thermo) (g r : Nat) (val : Word) : writeSg t g r val = { t with
    sg := bankMod t.sg Gen.reset g (fun x => Gen.write x r val), voided := (writeSg t g r val).voided,
    lkVoid := if t.cycleOn = true ∧ (r = 0 ∨ r = 2) then t.lkVoid + 1 else t.lkVoid } := by
  unfold writeSg
  dsimp only
  by_cases h : t.cycleOn = true ∧ (r = 0 ∨ r = 2)
  · rw [if_pos (by simpa using h), if_pos h]
  · rw [if_neg (by simpa using h), if_neg h]

theorem sgOf_writeSg (t : Thermo) (g r k : Nat) (val : Word) :
    sgOf (writeSg t g r val) k = if k = g then Gen.write (sgOf t g) r val else sgOf t k := by
  rw [writeSg_eq]
  exact bankGet_put ..

/-- The three registers of a generator that software writes (R176). -/
theorem Gen.write_fin (x : Gen) (r : Fin 3) (val : Word) : Gen.write x r.val val =
    match r with | 0 => { x with ftw := val } | 1 => { x with phoff := val } | 2 => { x with amp := val.setWidth 12 } := by
  match r with
  | 0 => rfl
  | 1 => rfl
  | 2 => rfl

theorem execGeneratorWrite_sg {s : State} (g : Fin 64) (r : Fin 3) (val : Word) (ho : blockOpen s clrCWI = true) :
    execGeneratorWrite (0x30400 + 16 * g.val + 4 * r.val) val s =
      .next (audPass { s with thermo := writeSg s.thermo g.val r.val val } 9 1) := by
  have hg := g.isLt
  have hr := r.isLt
  have hgen : (0x30400 + 16 * g.val + 4 * r.val - 0x30400) / 16 = g.val := by omega
  have hreg : (0x30400 + 16 * g.val + 4 * r.val) % 16 / 4 = r.val := by omega
  rw [execGeneratorWrite, if_pos (by rw [ho, Bool.true_and, decide_eq_true_eq]; omega), writeGen, if_pos (by omega), hgen, hreg]

theorem execGeneratorWrite_ag {s : State} (a : Fin 4) (r : Fin 3) (val : Word) (ho : blockOpen s clrCWI = true) :
    execGeneratorWrite (0x30E00 + 16 * a.val + 4 * r.val) val s =
      .next (audPass { s with thermo := { s.thermo with
        ag := bankMod s.thermo.ag Gen.reset a.val (fun x => Gen.write x r.val val) } } 9 1) := by
  have ha := a.isLt
  have hr := r.isLt
  have hgen : (0x30E00 + 16 * a.val + 4 * r.val - 0x30E00) / 16 = a.val := by omega
  have hreg : (0x30E00 + 16 * a.val + 4 * r.val) % 16 / 4 = r.val := by omega
  rw [execGeneratorWrite, if_pos (by rw [ho, Bool.true_and, decide_eq_true_eq]; omega), writeGen, if_neg (by omega),
    if_pos (by omega), hgen, hreg]

/-- Settles O44: each write goes to one entry of one bank, and u is formed from the entry as written. -/
theorem radiatorRegistersAreWritten : Obligations.RadiatorRegistersAreWritten := by
  unfold Obligations.RadiatorRegistersAreWritten
  intro s ho
  refine ⟨fun off h val dropped hh => ?_, fun off a val dropped hh ha => ?_, fun h hh hsc => ⟨?_, ?_⟩, fun p val => ?_, fun g r val => ?_,
    fun a r val => ?_⟩
  · have hw : wordedHeater s h val dropped = _ := Heater.follow_eq ..
    have hf := (heaterOf_writeHeater s h h val dropped).trans (if_pos rfl)
    refine ⟨_, _, execHeaterCodeWrite_heater val dropped ho hh, rfl, ?_⟩
    rw [hf]
    refine ⟨?_, ?_, ?_, ?_, ?_, ?_, ?_, ?_, fun hd => ?_, fun hn hs hp hd => ?_, writeHeater_lostSum .., fun k hk => ?_,
      writeHeater_thermo ..⟩
    · rw [Heater.form_eq, hw]
    · rw [Heater.form_eq, hw]
    · rw [Heater.form_eq, hw]
    · rw [Heater.form_eq, hw]
    · rw [Heater.form_eq, hw]
    · rw [Heater.form_eq, hw]
    · rw [Heater.form_eq, hw]
    · rw [Heater.formed_out, Heater.form_eq, hw]
    · exact Heater.formed_u ((Heater.form_den ..).symm.trans hd)
    · rw [Heater.form_sc] at hs
      rw [Heater.form_den] at hd
      have hform := Heater.formed_dither hn (x := wordedHeater s h val dropped) (by rw [hs, hp]; rfl) hd
      have hclamp := writeHeater_clamps (s := s) (h := h) (val := val) (dropped := dropped)
      rw [hform] at hclamp ⊢
      exact ⟨rfl, hclamp⟩
    · exact (heaterOf_writeHeater ..).trans (if_neg hk)
  · have hw := wordedAux_eq s a val
    have hf := (auxOf_writeAux s a a val).trans (if_pos rfl)
    refine ⟨_, _, execHeaterCodeWrite_aux val dropped ho hh ha, rfl, ?_⟩
    rw [hf]
    refine ⟨?_, ?_, ?_, ?_, ?_, fun hd => ?_, fun hn hp hd => ?_, fun k hk => ?_, fun k => writeAux_heaters .., writeAux_thermo ..⟩
    · rw [Aux.form_eq, hw]
    · rw [Aux.form_eq, hw]
    · rw [Aux.form_eq, hw]
    · rw [Aux.form_eq, hw]
    · rw [Aux.formed_out, Aux.form_eq, hw]
    · exact Aux.formed_u ((congrArg Aux.den (Aux.form_eq ..)).symm.trans hd)
    · replace hd : (wordedAux s a val).den = true := (congrArg Aux.den (Aux.form_eq ..)).symm.trans hd
      have hform := Aux.formed_dither (n := a) hn hp hd
      have hclamp : (Aux.form s.thermo a (wordedAux s a val)).2 = true → (writeAux s a val).thermo.flags.getLsbD 2 = true := setClamp_sets
      rw [hform] at hclamp ⊢
      exact ⟨rfl, hclamp⟩
    · exact (auxOf_writeAux ..).trans (if_neg hk)
  · have hf := (heaterOf_formHeater s.thermo h h { heaterOf s.thermo h with sc := false }).trans (if_pos rfl)
    refine ⟨_, _, congrArg Host.Outcome.next (if_pos (by simp [ho, hh, hsc])), rfl, ?_⟩
    rw [if_neg Bool.false_ne_true, hf]
    refine ⟨?_, ?_, ?_, fun hn hp => ?_, fun k hk => (heaterOf_formHeater ..).trans (if_neg hk), rfl⟩
    · rw [Heater.form_eq]
    · rw [Heater.form_eq]
    · rw [Heater.form_eq]
    · rw [Heater.form_out hn (by rw [hp]; rfl)]
  · have hthermo : (tripHeater s h).thermo = (trippedHeater s h).thermo :=
      eq_of_view unrecorded State.thermo (fun _ => rfl) (unrecorded_tripHeater s h)
    refine ⟨_, congrArg Host.Outcome.next (if_pos (by simp [ho, hh, hsc])), ?_⟩
    rw [if_pos rfl, hthermo, heaterOf_trippedHeater, if_pos rfl]
    exact ⟨rfl, rfl, rfl⟩
  · refine ⟨_, congrArg Host.Outcome.next (if_pos ho), ?_, fun k hk => ?_, fun k => rfl, rfl⟩
    · exact (bankGet_put ..).trans (if_pos rfl)
    · exact (bankGet_put ..).trans (if_neg hk)
  · refine ⟨_, execGeneratorWrite_sg g r val ho, ?_, fun k hk => (sgOf_writeSg ..).trans (if_neg hk), ?_, ?_⟩
    · exact ((sgOf_writeSg ..).trans (if_pos rfl)).trans (Gen.write_fin ..)
    · have hkind : (r.val = 0 ∨ r.val = 2) ↔ r ≠ 1 := by omega
      exact (congrArg Thermo.lkVoid (writeSg_eq ..)).trans (by simp only [hkind])
    · rfl
  · refine ⟨_, execGeneratorWrite_ag a r val ho, ?_, fun k hk => (agOf_bankMod ..).trans (if_neg hk), rfl⟩
    exact ((agOf_bankMod ..).trans (if_pos rfl)).trans (Gen.write_fin ..)

end Sys2Proof.Machine


/-!
Rows and stacks that leave service (R262 to R265, R269, R488): the obligation O41.
-/

namespace Sys2Proof.Machine

open Sys2Proof

/-! ### Reservations when DELIV changes (R269) -/

theorem mem_checkGuarantee (s : State) : (checkGuarantee s).mem = s.mem := by
  unfold checkGuarantee
  split
  · exact raiseEvent_mem ..
  · rfl

/-- Every reservation that R269 can revoke has been. -/
def AllRevoked (s : State) : Prop := ∀ r ∈ s.mem.resvs, r.cls = 0 ∨ 3 < r.cls

/-- The more recently admitted of a reservation so far and another. -/
def newerResv (m : Option Resv) (r : Resv) : Option Resv :=
  match m with | some x => if x.seq < r.seq then some r else some x | none => some r

theorem newestResv_eq (s : State) (cls : Nat) :
    newestResv s cls = (s.mem.resvs.filter (fun r => decide (r.cls = cls))).foldl newerResv none := rfl

theorem newestResv_mem {s : State} {cls : Nat} {r : Resv} (h : newestResv s cls = some r) : r ∈ s.mem.resvs ∧ r.cls = cls := by
  have hmem := List.foldlRecOn (motive := fun m : Option Resv => ∀ x, m = some x → x ∈ s.mem.resvs.filter (fun r => r.cls = cls))
    (s.mem.resvs.filter (fun r => r.cls = cls)) newerResv (b := none) nofun
    (fun m hm x hx y hy => by
      cases m with
      | none => cases hy; exact hx
      | some z =>
        rw [newerResv] at hy
        split at hy
        · cases hy; exact hx
        · exact hm y hy)
  have hr := hmem r h
  rw [List.mem_filter, decide_eq_true_eq] at hr
  exact hr

theorem newestResv_none {s : State} {cls : Nat} (h : newestResv s cls = none) : ∀ r ∈ s.mem.resvs, r.cls ≠ cls := by
  have hsome (l : List Resv) : ∀ m : Option Resv, m.isSome = true →
      (l.foldl newerResv m).isSome = true := by
    induction l with
    | nil => exact fun m hm => hm
    | cons r l ih =>
      intro m hm
      obtain ⟨x, rfl⟩ := Option.isSome_iff_exists.mp hm
      rw [List.foldl_cons]
      apply ih
      rw [newerResv]
      split <;> rfl
  intro r hr hc
  rw [newestResv_eq] at h
  cases hl : s.mem.resvs.filter (fun r => decide (r.cls = cls)) with
  | nil => exact absurd (List.filter_eq_nil_iff.mp hl r hr) (by simp [hc])
  | cons x l =>
    rw [hl, List.foldl_cons] at h
    have := hsome l (newerResv none x) rfl
    rw [h] at this
    cases this

/-- The reservation that R269 revokes next is one of C1 to C3; without one there is none of these classes. -/
theorem newest_revocable (s : State) :
    match (newestResv s 3).orElse (fun _ => (newestResv s 2).orElse (fun _ => newestResv s 1)) with
    | some r => r ∈ s.mem.resvs
    | none => AllRevoked s := by
  cases h3 : newestResv s 3 with
  | some r => exact (newestResv_mem h3).1
  | none =>
    cases h2 : newestResv s 2 with
    | some r => exact (newestResv_mem h2).1
    | none =>
      cases h1 : newestResv s 1 with
      | some r => exact (newestResv_mem h1).1
      | none =>
        intro r hr
        have n1 := newestResv_none h1 r hr
        have n2 := newestResv_none h2 r hr
        have n3 := newestResv_none h3 r hr
        omega

theorem dropResv_mem (s : State) (ctx cls : Nat) : (dropResv s ctx cls).mem =
    { s.mem with resvs := s.mem.resvs.filter (fun r => ¬ (r.ctx = ctx ∧ r.cls = cls)) } := rfl

/-- The part after R269 has revoked one reservation. -/
def revokeOne (s : State) (r : Resv) : State := raiseEvent (dropResv s r.ctx r.cls) 0x08 r.ctx r.cls r.rate

theorem revokeOne_mem (s : State) (r : Resv) : (revokeOne s r).mem =
    { s.mem with resvs := s.mem.resvs.filter (fun x => ¬ (x.ctx = r.ctx ∧ x.cls = r.cls)) } :=
  (raiseEvent_mem ..).trans (dropResv_mem ..)

theorem revokeOne_shorter {s : State} {r : Resv} (hr : r ∈ s.mem.resvs) :
    (revokeOne s r).mem.resvs.length < s.mem.resvs.length := by
  rw [revokeOne_mem]
  exact List.length_filter_lt_length_iff_exists.mpr ⟨r, hr, by simp⟩

/-- What the revocations leave (R269): reservations within DELIV, or none that could go. -/
theorem revokeGo_spec (n : Nat) (s : State) (hn : s.mem.resvs.length ≤ n) :
    ∃ rs, (revokeGo n s).mem = { s.mem with resvs := rs } ∧ (resvSum (revokeGo n s) none ≤ s.mem.deliv ∨ AllRevoked (revokeGo n s)) := by
  induction n generalizing s with
  | zero =>
    refine ⟨s.mem.resvs, rfl, .inr fun r hr => ?_⟩
    rw [revokeGo, List.length_eq_zero_iff.mp (Nat.le_zero.mp hn)] at hr
    cases hr
  | succ n ih =>
    have hnext := newest_revocable s
    rw [revokeGo]
    split
    next hfit => exact ⟨s.mem.resvs, rfl, .inl hfit⟩
    next =>
      split
      next r hr =>
        rw [hr] at hnext
        have hshort := revokeOne_shorter hnext
        obtain ⟨rs, hmem, hdone⟩ := ih (revokeOne s r) (by omega)
        rw [revokeOne_mem] at hmem hdone
        exact ⟨rs, hmem, hdone⟩
      next hr =>
        rw [hr] at hnext
        exact ⟨s.mem.resvs, rfl, .inr hnext⟩

/-- What the guarantee check after a change of DELIV keeps of the memory: all but a flag. -/
theorem recomputeDeliv_ready {s : State} (hr : isReady s = true) : ∃ n fl,
    (recomputeDeliv s).mem = { (revokeGo n { s with
      mem := { s.mem with deliv := delivNow s, c0cap := 4 * delivNow s / 10 } }).mem with flags := fl } ∧ s.mem.resvs.length ≤ n := by
  refine ⟨s.mem.resvs.length, ?_⟩
  unfold recomputeDeliv
  rw [if_neg (by rw [hr]; exact Bool.false_ne_true)]
  dsimp only
  generalize revokeGo s.mem.resvs.length _ = u
  split
  · split
    · exact ⟨_, raiseEvent_mem .., Nat.le_refl _⟩
    · exact ⟨u.mem.flags, rfl, Nat.le_refl _⟩
  · exact ⟨u.mem.flags, mem_checkGuarantee u, Nat.le_refl _⟩

theorem resvSum_of_mem {s t : State} (h : t.mem.resvs = s.mem.resvs) (cls : Option Nat) : resvSum t cls = resvSum s cls := by
  rw [resvSum, resvSum, h]

theorem delivNow_of_mem {s t : State} (hup : t.mem.stkUp = s.mem.stkUp) (hin : t.mem.stacksIn = s.mem.stacksIn)
    (hd : t.mem.derate = s.mem.derate) : delivNow t = delivNow s := by
  have hq : stackQuarters t = stackQuarters s := funext fun k => by rw [stackQuarters, stackQuarters, hup, hin, hd]
  rw [delivNow, delivNow, hq]

/-- DELIV as R269 leaves it. -/
structure Delivered (s t : State) : Prop where
  mem : ∃ rs fl d c, t.mem = { s.mem with resvs := rs, flags := fl, deliv := d, c0cap := c }
  ready : isReady s = true → t.mem.deliv = delivNow t ∧ t.mem.c0cap = 4 * t.mem.deliv / 10 ∧
    (resvSum t none ≤ t.mem.deliv ∨ AllRevoked t)
  same : unreserved t = unreserved s

theorem delivered_recomputeDeliv (s : State) : Delivered s (recomputeDeliv s) := by
  cases hr : isReady s with
  | false =>
    have hsame : recomputeDeliv s = s := by rw [recomputeDeliv, hr]; rfl
    rw [hsame]
    exact ⟨⟨s.mem.resvs, s.mem.flags, s.mem.deliv, s.mem.c0cap, rfl⟩, nofun ∘ hr.symm.trans, rfl⟩
  | true =>
    obtain ⟨n, fl, hmem, hn⟩ := recomputeDeliv_ready hr
    obtain ⟨rs, hgo, hdone⟩ := revokeGo_spec n { s with mem := { s.mem with deliv := delivNow s, c0cap := 4 * delivNow s / 10 } } hn
    have hresvs := congrArg Mem.resvs hmem
    rw [hgo] at hmem
    have hnow : delivNow (recomputeDeliv s) = delivNow s :=
      delivNow_of_mem (congrArg Mem.stkUp hmem :) (congrArg Mem.stacksIn hmem :) (congrArg Mem.derate hmem :)
    refine ⟨⟨rs, fl, _, _, hmem⟩, fun _ => ⟨(congrArg Mem.deliv hmem).trans hnow.symm, ?_, ?_⟩, unreserved_recomputeDeliv s⟩
    · exact (congrArg Mem.c0cap hmem).trans (congrArg (4 * · / 10) (congrArg Mem.deliv hmem).symm)
    · refine hdone.imp (fun h => ?_) fun h r hr => h r (hresvs ▸ hr)
      rw [resvSum_of_mem hresvs, congrArg Mem.deliv hmem]
      exact h

/-! ### Rows (R262 to R264) -/

theorem rowDue_of {t : State} {row : Nat} (hu : bankFind t.nvm.rowUe row = none) (hc : bankFind t.mem.rowCe row = none) :
    rowDue t row = false := by
  rw [rowDue, bankGet, bankGet, hu, hc]
  rfl

theorem rowDue_over {t : State} {row : Nat} (h : row ∈ t.nvm.rowsOver) : rowDue t row = false := by
  rw [rowDue, List.contains_iff_mem.mpr h, Bool.not_true, Bool.and_false]

/-- A row without a spare: its page is retired at once when nobody owns it (R263). -/
theorem rowOver_spec (s : State) (row page : Nat) : ∃ ps, rowOver s row page =
    { s with nvm := { s.nvm with rowsOver := s.nvm.rowsOver ++ [row], retPages := ps } } ∧ (pageOwned s page = false → page ∈ ps) := by
  unfold rowOver
  dsimp only
  cases hown : pageOwned s page with
  | true =>
    rw [if_pos (by exact hown)]
    exact ⟨s.nvm.retPages, rfl, nofun⟩
  | false =>
    rw [if_neg (by exact ne_true_of_eq_false hown)]
    unfold retirePage
    split
    next hold => exact ⟨s.nvm.retPages, rfl, fun _ => List.contains_iff_mem.mp hold⟩
    next => exact ⟨s.nvm.retPages ++ [page], rfl, fun _ => List.mem_append_right _ (List.mem_singleton_self page)⟩

/-- The parts of the NVM that an entry of the failure record leaves. -/
theorem addFrec_rows (s : State) (kind unit index cause paddr ctx : Nat) :
    (addFrec s kind unit index cause paddr ctx).nvm.retRows = s.nvm.retRows ∧
      (addFrec s kind unit index cause paddr ctx).nvm.retPages = s.nvm.retPages ∧
      (addFrec s kind unit index cause paddr ctx).nvm.rowsOver = s.nvm.rowsOver ∧
      (addFrec s kind unit index cause paddr ctx).nvm.rowUe = s.nvm.rowUe ∧
      (addFrec s kind unit index cause paddr ctx).nvm.stkDown = s.nvm.stkDown := by
  obtain ⟨-, f, fs, ov, h⟩ := addFrec_keeps s kind unit index cause paddr ctx
  rw [h]
  exact ⟨rfl, rfl, rfl, rfl, rfl⟩

/-- A row without a spare has been dealt with, its page retired if nobody owns it (R263, R264). -/
theorem rowOver_retires (s : State) (row page kind unit index cause paddr ctx : Nat) :
    let t := addFrec (rowOver s row page) kind unit index cause paddr ctx
    rowDue t row = false ∧ t.nvm.retRows = s.nvm.retRows ∧ t.mem = s.mem ∧ (pageOwned s page = false → page ∈ t.nvm.retPages) := by
  obtain ⟨ps, he, hps⟩ := rowOver_spec s row page
  rw [he]
  generalize hu : ({ s with nvm := { s.nvm with rowsOver := s.nvm.rowsOver ++ [row], retPages := ps } } : State) = u
  obtain ⟨hrows, hpages, hover, -, -⟩ := addFrec_rows u kind unit index cause paddr ctx
  subst hu
  refine ⟨rowDue_over ?_, hrows, addFrec_mem .., fun h => hpages ▸ hps h⟩
  rw [hover]
  exact List.mem_append_right _ (List.mem_singleton_self row)

/-- The row's counts begin anew in its spare (R262). -/
def rowSpared (s : State) (stack row : Nat) : State := { s with
  nvm := { s.nvm with retRows := s.nvm.retRows ++ [(stack, row)], rowUe := bankErase s.nvm.rowUe row },
  mem := { s.mem with flags := s.mem.flags ||| 8, rowCe := bankErase s.mem.rowCe row } }

theorem retireRow_spare {s : State} {stack pa : Nat} (hl : inLarder pa = false)
    (hroom : (s.nvm.retRows.filter (fun r => r.1 = stack)).length < 256) : retireRow s stack pa =
      addFrec (raiseEvent (rowSpared s stack (rowOf s pa)) 0x06 noCtx stack (pa >>> 10)) 6 0 stack stack pa noCtx := by
  rw [retireRow, hl]
  dsimp only
  rw [if_neg Bool.false_ne_true, if_pos hroom]
  rfl

theorem retireRow_page {s : State} {stack pa : Nat} (hl : inLarder pa = false)
    (hfull : ¬ (s.nvm.retRows.filter (fun r => r.1 = stack)).length < 256) : retireRow s stack pa =
      addFrec (rowOver { s with mem := { s.mem with flags := s.mem.flags ||| 16 } } (rowOf s pa) (pa >>> 16)) 6 0 stack stack pa noCtx := by
  rw [retireRow, hl]
  dsimp only
  rw [if_neg Bool.false_ne_true, if_neg hfull]

theorem retireRow_larder {s : State} {stack pa : Nat} (hl : inLarder pa = true) : retireRow s stack pa =
    addFrec (rowOver s (rowOf s pa) (pa >>> 16)) 6 0 0 0 pa noCtx := by
  rw [retireRow, hl]
  rfl

theorem retireRow_spares {s : State} {stack pa : Nat} (hl : inLarder pa = false)
    (hroom : (s.nvm.retRows.filter (fun r => r.1 = stack)).length < 256) :
    rowDue (retireRow s stack pa) (rowOf s pa) = false ∧ (retireRow s stack pa).mem.data = s.mem.data ∧
      (retireRow s stack pa).nvm.retRows = s.nvm.retRows ++ [(stack, rowOf s pa)] ∧
      (retireRow s stack pa).mem.flags = s.mem.flags ||| 8 ∧ (retireRow s stack pa).nvm.retPages = s.nvm.retPages := by
  rw [retireRow_spare hl hroom]
  obtain ⟨hrows, hpages, hover, hue, -⟩ := addFrec_rows (raiseEvent (rowSpared s stack (rowOf s pa)) 0x06 noCtx stack (pa >>> 10))
    6 0 stack stack pa noCtx
  rw [raiseEvent_nvm] at hrows hpages hover hue
  have hmem : (addFrec (raiseEvent (rowSpared s stack (rowOf s pa)) 0x06 noCtx stack (pa >>> 10)) 6 0 stack stack pa noCtx).mem =
      (rowSpared s stack (rowOf s pa)).mem := (addFrec_mem ..).trans (raiseEvent_mem ..)
  refine ⟨rowDue_of ?_ ?_, ?_, hrows, ?_, hpages⟩
  · rw [hue]
    exact bankFind_erase_same ..
  · rw [hmem]
    exact bankFind_erase_same ..
  · rw [hmem]
    rfl
  · rw [hmem]
    rfl

theorem row_page (row : Nat) : (row * 1024) >>> 16 = row >>> 6 := by
  rw [Nat.shiftRight_eq_div_pow, Nat.shiftRight_eq_div_pow]
  omega

/-! ### Stacks (R265, R488) -/

/-- The part when a stack has gone down and been recorded, before DELIV follows (R265). -/
def stackGone (s : State) (k : Nat) : State :=
  let t := { s with
    mem := { s.mem with
      stkUp := s.mem.stkUp &&& ~~~(BitVec.ofNat 4 (2 ^ k)), derate := s.mem.derate.set k 3, flags := s.mem.flags ||| 4,
      scrubC := s.mem.scrubC.filter (fun g => stackOf s (64 * g) ≠ k) },
    nvm := { s.nvm with stkDown := s.nvm.stkDown ||| BitVec.ofNat 4 (2 ^ k) } }
  addFrec (capacity (raiseEvent t 0x07 noCtx k 0) 5 k false) 7 5 k k 0 noCtx

theorem stackGone_fields (s : State) (k : Nat) : (stackGone s k).mem.stkUp = s.mem.stkUp &&& ~~~(BitVec.ofNat 4 (2 ^ k)) ∧
    (stackGone s k).mem.derate = s.mem.derate.set k 3 ∧ (stackGone s k).mem.data = s.mem.data ∧
    (stackGone s k).nvm.stkDown = s.nvm.stkDown ||| BitVec.ofNat 4 (2 ^ k) ∧ (stackGone s k).ifLevel = s.ifLevel := by
  unfold stackGone
  dsimp only
  generalize hu : ({ s with
    mem := { s.mem with
      stkUp := s.mem.stkUp &&& ~~~(BitVec.ofNat 4 (2 ^ k)), derate := s.mem.derate.set k 3, flags := s.mem.flags ||| 4,
      scrubC := s.mem.scrubC.filter (fun g => stackOf s (64 * g) ≠ k) },
    nvm := { s.nvm with stkDown := s.nvm.stkDown ||| BitVec.ofNat 4 (2 ^ k) } } : State) = u
  generalize hv : capacity (raiseEvent u 0x07 noCtx k 0) 5 k false = v
  have hquiet : quiet v = quiet u := by
    rw [← hv]
    exact (quiet_raiseEvent ..).trans (quiet_raiseEvent ..)
  have hmem : (addFrec v 7 5 k k 0 noCtx).mem = u.mem := (addFrec_mem ..).trans (eq_of_view quiet State.mem (fun _ => rfl) hquiet)
  have hlevel : (addFrec v 7 5 k k 0 noCtx).ifLevel = u.ifLevel :=
    (eq_of_view unrecorded State.ifLevel (fun _ => rfl) (unrecorded_addFrec ..)).trans
      (eq_of_view quiet State.ifLevel (fun _ => rfl) hquiet)
  obtain ⟨-, -, -, -, hdown⟩ := addFrec_rows v 7 5 k k 0 noCtx
  rw [hmem, hlevel, hdown, eq_of_view quiet State.nvm (fun _ => rfl) hquiet, ← hu]
  exact ⟨rfl, rfl, rfl, rfl, rfl⟩

theorem isReady_of_level {s t : State} (h : t.ifLevel = s.ifLevel) : isReady t = isReady s := by rw [isReady, isReady, h]

/-- A stack's temperature and derating level written (R488). -/
def stackRated (s : State) (k new : Nat) (temp : Int) : State := { s with
  power := { s.power with stkTemp := s.power.stkTemp.set k (BitVec.ofInt 16 temp) },
  mem := { s.mem with derate := s.mem.derate.set k (BitVec.ofNat 2 new) } }

/-- The part when a stack's derating level has changed, before DELIV follows (R488). -/
def stackWarm (s : State) (k new : Nat) (temp : Int) : State := raiseEvent (stackRated s k new temp) 0x66 noCtx k new

theorem execStackDerate_same {s : State} {k : Fin 4} {temp : Int} (hg : (powered s && s.mem.stkUp.getLsbD k.val && s.mem.stacksIn.contains k.val) = true)
    (h : derateLevel (s.mem.derate.getD k.val 0).toNat temp = (s.mem.derate.getD k.val 0).toNat) : execStackDerate k temp s =
      .next { s with power := { s.power with stkTemp := s.power.stkTemp.set k.val (BitVec.ofInt 16 temp) } } := by
  rw [execStackDerate, if_pos hg]
  dsimp only
  rw [if_pos h.symm]

theorem execStackDerate_change {s : State} {k : Fin 4} {temp : Int} (hg : (powered s && s.mem.stkUp.getLsbD k.val && s.mem.stacksIn.contains k.val) = true)
    (h : derateLevel (s.mem.derate.getD k.val 0).toNat temp ≠ (s.mem.derate.getD k.val 0).toNat) : execStackDerate k temp s =
      .next (recomputeDeliv (stackWarm s k.val (derateLevel (s.mem.derate.getD k.val 0).toNat temp) temp)) := by
  rw [execStackDerate, if_pos hg]
  dsimp only
  rw [if_neg h.symm]
  rfl

theorem set_derate_same (l : List (BitVec 2)) (k : Nat) : l.set k (BitVec.ofNat 2 (l.getD k 0).toNat) = l := by
  rw [BitVec.ofNat_toNat, BitVec.setWidth_eq]
  by_cases hk : k < l.length
  · rw [List.getD_eq_getElem _ _ hk, List.set_getElem_self]
  · exact List.set_eq_of_length_le (by omega)

/-- Settles O41: retiring a row erases its counts or lists its page, and a stack's change ends in the revocations of R269. -/
theorem rowsAndStacksLeaveService : Obligations.RowsAndStacksLeaveService := by
  unfold Obligations.RowsAndStacksLeaveService
  intro s hp
  refine ⟨fun k row r pages hr hdue hl hc hk => ?_, fun k row r pages hr hdue hl => ?_, fun k hup hin => ?_, fun k temp hup hin => ?_⟩
  · subst hr
    refine ⟨_, congrArg Host.Outcome.next (if_pos (by simp [hp, hdue, hl, hc, hk])), ?_⟩
    by_cases hroom : (s.nvm.retRows.filter (fun e => e.1 = k.val)).length < 256
    · obtain ⟨hdue', hdata, hrows, hflags, hpages⟩ := retireRow_spares hl hroom
      rw [if_pos hroom]
      exact ⟨hdue', hdata, hrows, hflags, hpages⟩
    · rw [if_neg hroom, retireRow_page hl hroom]
      obtain ⟨hdue', hrows, hmem, hpages⟩ := rowOver_retires { s with mem := { s.mem with flags := s.mem.flags ||| 16 } }
        (rowOf s (row * 1024)) ((row * 1024) >>> 16) 6 0 k.val k.val (row * 1024) noCtx
      refine ⟨hdue', (congrArg Mem.data hmem :), hrows, (congrArg Mem.flags hmem :), fun hown => row_page row ▸ hpages ?_⟩
      rw [row_page]
      exact hown
  · subst hr
    refine ⟨_, congrArg Host.Outcome.next (if_pos (by simp [hp, hdue, hl])), ?_⟩
    rw [retireRow_larder hl]
    obtain ⟨hdue', hrows, hmem, hpages⟩ := rowOver_retires s (rowOf s (row * 1024)) ((row * 1024) >>> 16) 6 0 0 0 (row * 1024) noCtx
    exact ⟨hdue', hrows, (congrArg Mem.data hmem :), fun hown => row_page row ▸ hpages (row_page row ▸ hown)⟩
  · obtain ⟨hstk, hder, hdata, hdown, hlevel⟩ := stackGone_fields s k.val
    obtain ⟨⟨rs, fl, d, c, hmem⟩, hready, hsame⟩ := delivered_recomputeDeliv (stackGone s k.val)
    refine ⟨recomputeDeliv (stackGone s k.val), congrArg Host.Outcome.next (if_pos (by simp [hp, hup, hin])), ?_, ?_, ?_, ?_, fun hr =>
      hready ((isReady_of_level hlevel).trans hr)⟩
    · exact (congrArg Mem.stkUp hmem).trans hstk
    · rw [eq_of_view unreserved State.nvm (fun _ => rfl) hsame, hdown, BitVec.getLsbD_or, BitVec.getLsbD_ofNat]
      simp [k.isLt]
    · exact (congrArg Mem.derate hmem).trans hder
    · exact (congrArg Mem.data hmem).trans hdata
  · have hg : (powered s && s.mem.stkUp.getLsbD k.val && s.mem.stacksIn.contains k.val) = true := by simp [hp, hup, hin]
    by_cases hlevel : derateLevel (s.mem.derate.getD k.val 0).toNat temp = (s.mem.derate.getD k.val 0).toNat
    · refine ⟨_, execStackDerate_same hg hlevel, rfl, ?_, rfl, rfl, fun h => absurd hlevel h⟩
      rw [hlevel, set_derate_same]
    · obtain ⟨⟨rs, fl, d, c, hmem⟩, hready, hsame⟩ := delivered_recomputeDeliv
        (stackWarm s k.val (derateLevel (s.mem.derate.getD k.val 0).toNat temp) temp)
      have hw : (stackWarm s k.val (derateLevel (s.mem.derate.getD k.val 0).toNat temp) temp).mem = _ := raiseEvent_mem ..
      have hq := hsame.trans (unreserved_raiseEvent ..)
      refine ⟨_, execStackDerate_change hg hlevel, ?_, ?_, ?_, ?_, fun _ hr => ?_⟩
      · exact (congrArg State.power hq :)
      · exact (congrArg Mem.derate hmem).trans (congrArg Mem.derate hw :)
      · exact (congrArg Mem.stkUp hmem).trans (congrArg Mem.stkUp hw :)
      · exact (congrArg Mem.data hmem).trans (congrArg Mem.data hw :)
      · obtain ⟨hd, -, hfit⟩ := hready ((isReady_of_level (congrArg State.ifLevel (unreserved_raiseEvent ..) :)).trans hr)
        exact ⟨hd, hfit⟩

end Sys2Proof.Machine


/-!
Streams that take a Dumbwaiter (R83, R87, R141, R142, R237, R240, R241, R285): the obligation O37.
-/

namespace Sys2Proof.Machine

open Sys2Proof

/-! ### A stream on a Dumbwaiter (R237) -/

/-- A state without what handing a stream to a Dumbwaiter changes. -/
def unstarted (s : State) : State := { s with freeIx := 0, streams := [], dumbs := [], corr := { s.corr with aud := [] } }

theorem unstarted_showDw (s : State) (x : Stream) (st : Nat) : unstarted (showDw s x st) = unstarted s := by
  unfold showDw
  split <;> rfl

theorem unstarted_modStream (s : State) (sid : Nat) (f : Stream → Stream) : unstarted (modStream s sid f) = unstarted s := by
  unfold modStream
  split <;> rfl

theorem unstarted_startOn (s : State) (sid d : Nat) : unstarted (startOn s sid d) = unstarted s := by
  unfold startOn
  dsimp only
  split
  · exact ((congrArg (fun t : State => { t with corr := { t.corr with aud := [] } }) (unstarted_showDw ..) :).trans
      (unstarted_modStream ..))
  · exact unstarted_modStream ..

/-- A stream as its Dumbwaiter in state s takes it. -/
def takenBy (s : State) (d : Nat) (x : Stream) : Stream :=
  { x with dw := some d, slot := (dwSlot s d x.cls).getD 0, state := .run }

/-- The part when a stream is on its Dumbwaiter, before DSTAT shows it. -/
def handed (s : State) (sid d : Nat) : State :=
  modDumb (modStream { s with freeIx := s.freeIx + 1 } sid (takenBy s d)) d
    (fun u => { u with desc := BitVec.ofNat 64 (0xF800000 + 64 * (Config.freeNat s.freeIx % 131072)) })

theorem findStream_handed {s : State} {sid d : Nat} {x : Stream} (h : findStream s sid = some x) :
    findStream (handed s sid d) sid = some (takenBy s d x) := by
  refine (findStream_modStream { s with freeIx := s.freeIx + 1 } sid sid (takenBy s d)).trans ?_
  rw [if_pos rfl]
  exact congrArg (Option.map (takenBy s d)) h

/-- DSTAT of a Dumbwaiter that moves a stream. -/
def shows (x : Stream) (u : Dumb) : Dumb := { u with kind := x.kind.code, cls := x.cls, ctxId := x.ctx, st := 1 }

theorem prefCnt_handed (s : State) (sid d : Nat) : (dumb (handed s sid d) d).prefCnt = (dumb s d).prefCnt := by
  unfold handed
  rw [dumb_modDumb, if_pos rfl]
  exact congrArg (fun b => (bankGet b Dumb.reset d).prefCnt) (modStream_dumbs ..)

theorem startOn_eq {s : State} {sid d : Nat} {x : Stream} (h : findStream s sid = some x) :
    startOn s sid d = audTake (modDumb (handed s sid d) d (shows x)) 3 1 := by
  have hunfold : startOn s sid d = match findStream (handed s sid d) sid with
      | some y => audTake (showDw (handed s sid d) y 1) 3 1
      | none => handed s sid d := rfl
  rw [hunfold, findStream_handed h]
  rfl

/-- What handing a stream to a Dumbwaiter does (R237, R285). -/
structure OnDw (s : State) (sid d : Nat) (x : Stream) (t : State) : Prop where
  same : unstarted t = unstarted s
  stream : findStream t sid = some (takenBy s d x)
  take : (audOf t 3).take = (audOf s 3).take + 1
  st : (dumb t d).st = 1
  kind : (dumb t d).kind = x.kind.code
  cls : (dumb t d).cls = x.cls
  ctxId : (dumb t d).ctxId = x.ctx
  prefCnt : (dumb t d).prefCnt = (dumb s d).prefCnt

theorem onDw_startOn {s : State} {sid d : Nat} {x : Stream} (h : findStream s sid = some x) : OnDw s sid d x (startOn s sid d) := by
  have hsame := unstarted_startOn s sid d
  rw [startOn_eq h] at hsame ⊢
  have hfind := findStream_handed (d := d) h
  have hpref := prefCnt_handed s sid d
  have hcorr : (handed s sid d).corr = s.corr := modStream_corr ..
  generalize handed s sid d = u at hsame hfind hpref hcorr ⊢
  have hdumb : dumb (audTake (modDumb u d (shows x)) 3 1) d = shows x (dumb u d) := (dumb_modDumb u d d (shows x)).trans (if_pos rfl)
  refine ⟨hsame, hfind, ?_, hdumb ▸ rfl, hdumb ▸ rfl, hdumb ▸ rfl, hdumb ▸ rfl, hdumb ▸ hpref⟩
  rw [audOf_audTake, if_pos rfl]
  exact congrArg (fun c : Corridor => (bankGet c.aud ⟨0, 0, 0⟩ 3).take + 1) hcorr

/-- A stream that was on no Dumbwaiter stays so, so no stream context is taken or freed. -/
theorem any_bankPut {α : Type} {p : Nat × α → Bool} {i : Nat} {x : α} (hx : p (i, x) = false) {b : Bank α}
    (hb : ∀ v, bankFind b i = some v → p (i, v) = false) : (bankPut b i x).any p = b.any p := by
  induction b with
  | nil => rw [bankPut, List.any_cons, hx, Bool.false_or]
  | cons e b ih =>
    obtain ⟨k, v⟩ := e
    rw [bankPut]
    split
    · rw [List.any_cons, hx, Bool.false_or]
    · split
      next hk =>
        rw [List.any_cons, List.any_cons, hx, ← hk, hb v (by rw [bankFind, if_pos hk.symm])]
      next hk => rw [List.any_cons, List.any_cons, ih fun w hw => hb w (by rw [bankFind, if_neg (Ne.symm hk)]; exact hw)]

theorem dwSlot_modStream {s : State} {sid : Nat} {x : Stream} (f : Stream → Stream) (h : findStream s sid = some x) (hx : x.dw = none)
    (hf : (f x).dw = none) (d cls : Nat) : dwSlot (modStream s sid f) d cls = dwSlot s d cls := by
  have hstreams : (modStream s sid f).streams = bankPut s.streams sid (f x) := by
    unfold modStream
    rw [show bankFind s.streams sid = some x from h]
  unfold dwSlot
  rw [hstreams]
  congr 1
  funext k
  rw [any_bankPut (by simp [hf])]
  intro v hv
  cases h.symm.trans hv
  simp [hx]

/-! ### Panes of image streams (R83, R87) -/

/-- Put into STAGING, a pane is its loader's and no longer the active one. -/
theorem win_stagePane (s : State) (o : Op) (w v : Nat) (b : Bool) : win (stagePane s o w b) v = if v = w then
    { ((win s w).setPane b { Pane.reset with state := .staging, loader := some o.id, pin := (paneOf (win s w) b).pin }) with
      active := if (win s w).active = some b then none else (win s w).active } else win s v :=
  win_modWin ..

/-- What the start of an image stream does to its pane (R83, R87). -/
structure Staged (s : State) (o : Op) (w : Nat) (b : Bool) (t : State) : Prop where
  state : (paneOf (win t w) b).state = .staging
  loader : (paneOf (win t w) b).loader = some o.id
  active : (win t w).active ≠ some b
  others : ∀ v, v ≠ w → win t v = win s v

theorem staged_stagePane (s : State) (o : Op) (w : Nat) (b : Bool) : Staged s o w b (stagePane s o w b) := by
  have hw := (win_stagePane s o w w b).trans (if_pos rfl)
  have hp : paneOf (win (stagePane s o w b) w) b =
      { Pane.reset with state := .staging, loader := some o.id, pin := (paneOf (win s w) b).pin } := by
    rw [hw]
    exact paneOf_setPane_same ..
  refine ⟨by rw [hp], by rw [hp], ?_, fun v hv => (win_stagePane s o w v b).trans (if_neg hv)⟩
  rw [hw]
  dsimp only
  split
  · exact nofun
  · assumption

/-- A staged pane stays so in a state with the same Windows. -/
theorem Staged.of_windows {s t u : State} {o : Op} {w : Nat} {b : Bool} (h : Staged s o w b t) (hw : u.windows = t.windows) :
    Staged s o w b u := by
  have hwin (v : Nat) : win u v = win t v := by rw [win, win, hw]
  exact ⟨hwin w ▸ h.state, hwin w ▸ h.loader, hwin w ▸ h.active, fun v hv => (hwin v).trans (h.others v hv)⟩

/-- The image stream's Window and pane named. -/
def aimed (w : Nat) (b : Bool) (x : Stream) : Stream := { x with win := w, half := b }

theorem startImage_eq {s : State} {o : Op} (sid d : Nat) {w : Nat} {b : Bool} (h : (paneOf (win s w) b).loader ≠ some o.id) :
    startImage s o sid d (w, b) = startOn (modStream (stagePane s o w b) sid (aimed w b)) sid d := by
  rw [startImage, if_neg h]
  rfl

/-- An image stream started: its pane is staged, and it is on its Dumbwaiter. -/
theorem startImage_starts {s : State} {o : Op} {sid : Nat} {x : Stream} (d : Nat) {w : Nat} {b : Bool}
    (hx : findStream s sid = some x) (hdw : x.dw = none) (h : (paneOf (win s w) b).loader ≠ some o.id) :
    findStream (startImage s o sid d (w, b)) sid = some (takenBy s d (aimed w b x)) ∧
      Staged s o w b (startImage s o sid d (w, b)) ∧ (startImage s o sid d (w, b)).mem = s.mem ∧
      (startImage s o sid d (w, b)).ops = s.ops := by
  rw [startImage_eq sid d h]
  have hfind : findStream (modStream (stagePane s o w b) sid (aimed w b)) sid = some (aimed w b x) := by
    rw [findStream_modStream, if_pos rfl, show findStream (stagePane s o w b) sid = some x from hx]
    rfl
  have hslot (cls : Nat) : dwSlot (modStream (stagePane s o w b) sid (aimed w b)) d cls = dwSlot s d cls :=
    (dwSlot_modStream (s := stagePane s o w b) (aimed w b) hx hdw hdw d cls).trans rfl
  have hsame : unstarted (startOn (modStream (stagePane s o w b) sid (aimed w b)) sid d) = unstarted (stagePane s o w b) :=
    (unstarted_startOn ..).trans (unstarted_modStream ..)
  refine ⟨(onDw_startOn hfind).stream.trans ?_, (staged_stagePane s o w b).of_windows ?_, ?_, ?_⟩
  · rw [takenBy, hslot]
    rfl
  · exact eq_of_view unstarted State.windows (fun _ => rfl) hsame
  · exact (congrArg State.mem hsame :)
  · exact (congrArg State.ops hsame :)

/-! ### STREAM_START, FEED_PREFETCH, IMAGE_PREFETCH -/

/-- An image that has a pane to enter has a Window in service. -/
theorem imageTarget_inService {s : State} {o : Op} {x : Stream} {w : Nat} {b : Bool} (h : imageTarget s o x = some (w, b))
    (hl : (paneOf (win s w) b).loader ≠ some o.id) : (inService s x.win || (runWindow s x.win).isSome) = true := by
  unfold imageTarget at h
  split at h
  next hload =>
    cases h
    exact absurd hload hl
  next =>
    split at h
    next hin => rw [hin, Bool.true_or]
    next =>
      split at h
      next hrun => rw [hrun, Option.isSome_some, Bool.or_true]
      next => cases h

theorem execStreamStart_eq {s : State} {sid : Nat} {d : Fin 16} {x : Stream} {o : Op} (hp : powered s = true) (hx : findStream s sid = some x)
    (ho : findOp s x.op = some o) (hst : x.state = .ready) (hdw : x.dw = none) (hstart : o.started = true) (hdone : o.done = none)
    (hfree : dwFree s d.val x.cls = true) : exec (.streamStart sid d) s = .next (streamStart s sid d.val x o) := by
  show execStreamStart sid d s = _
  rw [execStreamStart, hx]
  dsimp only
  rw [ho]
  dsimp only
  rw [if_pos (by simp [hp, hst, hdw, hstart, hdone, hfree])]

theorem streamStart_plain {s : State} {sid d : Nat} {x : Stream} (o : Op) (hi : x.kind ≠ .image) (hs : x.kind ≠ .slot) :
    streamStart s sid d x o = startOn s sid d := by
  unfold streamStart
  split
  next h => exact absurd h hi
  next h => exact absurd h hs
  next => rfl

theorem streamStart_image {s : State} {sid d : Nat} {x : Stream} {o : Op} {t : Nat × Bool} (hi : x.kind = .image)
    (hin : (inService s x.win || (runWindow s x.win).isSome) = true) (ht : imageTarget s o x = some t) :
    streamStart s sid d x o = startImage s o sid d t := by
  unfold streamStart
  rw [hi]
  dsimp only
  rw [if_pos hin, ht]

/-- The segments of a slot read put into its stream. -/
def segmented (segs : List (Nat × List Byte)) (x : Stream) : Stream := { x with segs := segs }

/-- A slot transfer over which no tree is open starts (R141, R142). -/
theorem streamStart_slot {s : State} {sid : Nat} (d : Nat) {x : Stream} {o : Op} {tile met w slot sr : Nat} {f : AFmt} (hk : x.kind = .slot)
    (hx : findStream s sid = some x) (hc : o.cmd = .slotRead tile met w slot sr f ∨ o.cmd = .slotWrite tile met w slot sr f)
    (hover : treeOver s w (slotRange s o.ctx slot sr f) = false) : ∃ s0 y,
      streamStart s sid d x o = startOn s0 sid d ∧ findStream s0 sid = some y ∧ s0.mem = s.mem ∧ s0.pantries = s.pantries := by
  unfold streamStart
  rw [hk]
  dsimp only
  rcases hc with hc | hc
  · rw [hc]
    dsimp only
    rw [if_neg (by rw [hover]; exact Bool.false_ne_true)]
    generalize slotTile s o.ctx tile met w slot sr f = r
    refine ⟨modStream (modOp s o.id (fun o => addRecord o r.2)) sid (segmented r.1), segmented r.1 x, rfl, ?_, ?_, ?_⟩
    · rw [findStream_modStream, if_pos rfl, show findStream (modOp s o.id (fun o => addRecord o r.2)) sid = some x from hx]
      rfl
    · exact modStream_mem ..
    · exact modStream_pantries ..
  · rw [hc]
    dsimp only
    rw [if_neg (by rw [hover]; exact Bool.false_ne_true)]
    exact ⟨s, x, rfl, hx, rfl, rfl⟩

theorem streamStart_waits {s : State} {sid d : Nat} {x : Stream} {o : Op} {tile met w slot sr : Nat} {f : AFmt} (hk : x.kind = .slot)
    (hc : o.cmd = .slotRead tile met w slot sr f ∨ o.cmd = .slotWrite tile met w slot sr f)
    (hover : treeOver s w (slotRange s o.ctx slot sr f) = true) : streamStart s sid d x o = s := by
  unfold streamStart
  rw [hk]
  dsimp only
  rcases hc with hc | hc
  · rw [hc]
    exact if_pos hover
  · rw [hc]
    exact if_pos hover

/-- The FEED stream of a pass (R548). -/
def feedStream (o : Op) (c : WinCmd) (p w : Nat) (half : Bool) : Stream := { mkStream o .feed with
  src := c.inAddr + (p - c.kFirst) * c.inStride, rowLen := rowBytes c.infmt, nRows := c.nrows, sStride := rowBytes c.infmt,
  dStride := rowBytes c.infmt, win := w, half := half }

/-- The IMAGE stream of a load. -/
def imageStream (o : Op) (addr w : Nat) (b : Bool) : Stream := { mkStream o .image with
  src := addr, rowLen := imageBytes, sStride := imageBytes, dStride := imageBytes, win := w, half := b }

/-- PREFCNT of a Dumbwaiter that takes a stream ahead of its turn (Table 7.9). -/
def ahead (s : State) (o : Op) (d : Nat) : State :=
  if (before s o).isEmpty then s else modDumb s d (fun u => { u with prefCnt := u.prefCnt + 1 })

theorem dumb_ahead (s : State) (o : Op) (d : Nat) :
    (dumb (ahead s o d) d).prefCnt = (dumb s d).prefCnt + (if (before s o).isEmpty then 0 else 1) := by
  unfold ahead
  split
  · exact (BitVec.add_zero _).symm
  · rw [dumb_modDumb, if_pos rfl]

theorem unstarted_ahead (s : State) (o : Op) (d : Nat) : unstarted (ahead s o d) = unstarted s := by
  unfold ahead
  split <;> rfl

theorem findStream_ahead (s : State) (o : Op) (d sid : Nat) : findStream (ahead s o d) sid = findStream s sid := by
  unfold ahead
  split <;> rfl

/-- The part with a FEED and the half that it fills. -/
def fed (s : State) (w : Nat) (o : Op) (c : WinCmd) (p : Nat) (half : Bool) : State :=
  modWin (addStream s (feedStream o c p w half)) w (fun x => x.setHalf half (some ⟨o.id, p, s.nextSid, [], false⟩))

theorem feedPrefetch_empty {s : State} {w : Nat} {o : Op} {c : WinCmd} {p : Nat} {half : Bool} (d : Nat) (h : halfOf (win s w) half = none) :
    feedPrefetch s w o c p half d = startOn (ahead (fed s w o c p half) o d) s.nextSid d := by
  rw [feedPrefetch, takeHalf, if_pos h]
  rfl

theorem halfOf_setHalf (x : Window) (b : Bool) (h : Option FeedHalf) : halfOf (x.setHalf b h) b = h := by cases b <;> rfl

theorem execFeedPrefetch_eq {s : State} {w : Fin 8} {q : Fin 256} {idx : Fin 65536} {p : Nat} {half : Bool} {d : Fin 16} {o : Op} {c : WinCmd}
    (hp : powered s = true) (ho : findOp s (q.val, idx.val) = some o) (hc : o.cmd = .window c) (hdone : o.done = none)
    (hlook : lookahead s o = true) (hall : allowedOn s o p w.val = true) (hst : o.started = true ∨ o.cls ≠ 0)
    (hnext : nextFeed s o c = some p) (hfree : dwFree s d.val o.cls = true) :
    exec (.feedPrefetch w q idx p half d) s = .next (feedPrefetch s w.val o c p half d.val) := by
  show execFeedPrefetch w q idx p half d s = _
  rw [execFeedPrefetch, ho]
  dsimp only
  rw [hc]
  dsimp only
  rw [if_pos (by simp [hp, hdone, hlook, hall, hst, hnext, hfree])]

/-- A command that has started. -/
def Op.begun (o : Op) : Op := { o with started := true }

theorem execImagePrefetch_eq {s : State} {q : Fin 256} {idx : Fin 65536} {d : Fin 16} {o : Op} {addr w : Nat} {b : Bool}
    (hp : powered s = true) (ho : findOp s (q.val, idx.val) = some o) (hc : o.cmd = .imageLoad addr w b) (hst : o.started = false)
    (hdone : o.done = none) (hok : prefetchOk s o w b = true) (hfree : dwFree s d.val o.cls = true) (hstage : mayStage s o w b = true) :
    exec (.imagePrefetch q idx d) s = .next (startImage (ahead (modOp (addStream s (imageStream o addr w b)) o.id Op.begun) o d.val)
      o s.nextSid d.val (w, b)) := by
  show execImagePrefetch q idx d s = _
  rw [execImagePrefetch, ho]
  dsimp only
  rw [hc]
  dsimp only
  rw [if_pos (by simp [hp, hst, hdone, hok, hfree, hstage])]
  rfl

theorem mayStage_loader {s : State} {o : Op} {w : Nat} {b : Bool} (h : mayStage s o w b = true) :
    (paneOf (win s w) b).loader ≠ some o.id := by
  intro hl
  unfold mayStage at h
  simp [hl] at h

theorem findOp_id {s : State} {id : OpId} {o : Op} (h : findOp s id = some o) : o.id = id := by
  have := List.find?_some h
  simpa using this

/-- Settles O37: each form ends in handing one stream to a Dumbwaiter, which changes neither memory nor Window. -/
theorem streamsTakeADumbwaiter : Obligations.StreamsTakeADumbwaiter := by
  unfold Obligations.StreamsTakeADumbwaiter
  intro s d hp
  refine ⟨fun sid x o hx ho hst hdw hstart hdone hfree => ?_, fun w q idx p half o c ho hc hdone hlook hall hst hnext hfree hhalf => ?_,
    fun q idx o addr w b ho hc hst hdone hok hfree hstage => ?_⟩
  · have hexec := execStreamStart_eq hp hx ho hst hdw hstart hdone hfree
    refine ⟨fun hi hs => ?_, fun tile met w slot sr f hk hc => ?_, fun w b hi ht hl => ?_⟩
    · have hon := onDw_startOn (d := d.val) hx
      rw [streamStart_plain o hi hs] at hexec
      exact ⟨_, hexec, hon.stream, hon.take, hon.st, hon.kind, hon.cls, hon.ctxId, (congrArg State.mem hon.same :),
        (congrArg State.ops hon.same :), (congrArg State.windows hon.same :)⟩
    · cases hover : treeOver s w (slotRange s o.ctx slot sr f) with
      | true =>
        rw [streamStart_waits hk hc hover] at hexec
        exact .inl ⟨hexec, rfl⟩
      | false =>
        obtain ⟨s0, y, he, hy, hmem, hpan⟩ := streamStart_slot d.val hk hx hc hover
        have hon := onDw_startOn (d := d.val) hy
        rw [he] at hexec
        exact .inr ⟨_, _, hexec, hon.stream, rfl, rfl, (congrArg State.mem hon.same :).trans hmem,
          (congrArg State.pantries hon.same :).trans hpan⟩
    · rw [streamStart_image hi (imageTarget_inService ht hl) ht] at hexec
      obtain ⟨hstream, hstaged, hmem, -⟩ := startImage_starts d.val hx hdw hl
      exact ⟨_, hexec, hstream, hstaged.state, hstaged.loader, hstaged.active, hstaged.others, hmem⟩
  · have hexec := execFeedPrefetch_eq (half := half) hp ho hc hdone hlook hall hst hnext hfree
    rw [feedPrefetch_empty d.val hhalf] at hexec
    have hfind : findStream (ahead (fed s w.val o c p half) o d.val) s.nextSid = some (feedStream o c p w.val half) :=
      (findStream_ahead ..).trans (findStream_addStream ..)
    have hon := onDw_startOn (d := d.val) hfind
    have hsame : unstarted (startOn (ahead (fed s w.val o c p half) o d.val) s.nextSid d.val) = unstarted (fed s w.val o c p half) :=
      hon.same.trans (unstarted_ahead ..)
    have hwin : (startOn (ahead (fed s w.val o c p half) o d.val) s.nextSid d.val).windows = (fed s w.val o c p half).windows :=
      eq_of_view unstarted State.windows (fun _ => rfl) hsame
    refine ⟨_, _, hexec, hon.stream, rfl, rfl, rfl, rfl, rfl, rfl, rfl, ?_, (congrArg State.mem hsame :), (congrArg State.ops hsame :), ?_⟩
    · rw [win, hwin]
      refine (congrArg (halfOf · half) ((win_modWin ..).trans (if_pos rfl))).trans ?_
      exact halfOf_setHalf ..
    · exact hon.prefCnt.trans (dumb_ahead ..)
  · have hexec := execImagePrefetch_eq hp ho hc hst hdone hok hfree hstage
    have hid := findOp_id ho
    generalize hu : ahead (modOp (addStream s (imageStream o addr w b)) o.id Op.begun) o d.val = u at hexec
    have hsame : unstarted u = unstarted (modOp (addStream s (imageStream o addr w b)) o.id Op.begun) := hu ▸ unstarted_ahead ..
    have hfind : findStream u s.nextSid = some (imageStream o addr w b) := by
      rw [← hu]
      exact (findStream_ahead ..).trans (findStream_addStream ..)
    have hwin : u.windows = s.windows := (congrArg State.windows hsame :)
    have hpane : (paneOf (win u w) b).loader ≠ some o.id := by
      rw [win, hwin]
      exact mayStage_loader hstage
    obtain ⟨hstream, hstaged, hmem, hops⟩ := startImage_starts d.val hfind rfl hpane
    refine ⟨_, _, hexec, hstream, rfl, rfl, rfl, rfl, ?_, hstaged.state, hstaged.loader, hmem.trans (congrArg State.mem hsame :)⟩
    have huops : u.ops = (modOp (addStream s (imageStream o addr w b)) o.id Op.begun).ops := (congrArg State.ops hsame :)
    rw [findOp, hops, huops]
    refine (findOp_modOp (s := addStream s (imageStream o addr w b)) (f := Op.begun) (fun _ => rfl) _).trans ?_
    rw [if_pos hid.symm, hid]
    exact congrArg (Option.map Op.begun) ho

end Sys2Proof.Machine


/-!
The ends of streams: faults, walks and finished streams (R233, R237, R246 to R253, R389, R555), and the obligation O39.
-/

namespace Sys2Proof.Machine

open Sys2Proof

/-! ### A context that is lost (R389) -/

/-- A command of a lost context ended. -/
def lostEnd (n : Nat) (o : Op) : Op := if o.ctx = n then { o with done := some .ctxLost } else o

theorem ops_endCtx (s : State) (n : Nat) : ∃ u, (endCtx s n).ops = u.ops.map (lostEnd n) ∧ OpsGo (.nop : Cmd) s u := by
  let q : State := { s with queues := s.queues.map (fun e => (e.1, if e.2.ctx = n then { e.2 with state := .lost } else e.2)) }
  refine ⟨endOps .ctxLost false ((q.ops.filter (fun o => o.ctx = n)).map Op.id) q, ?_, OpsGo.trans (.of_eq rfl) (.endOps ..)⟩
  refine (ops_clearRegion ..).trans ?_
  exact (ops_dropResvs ..).trans rfl

/-- The loss of a context marks it with its cause and ends each of its commands. -/
theorem loseCtx3_ends {s : State} {n : Nat} {c : Context} (h : ctxOf s n = some c) (hl : c.lost = false) (cause addr node : Nat) :
    (∃ c', ctxOf (loseCtx3 s n cause addr node) n = some c' ∧ c'.lost = true ∧ c'.lossCause = cause) ∧
      ∀ id o, findOp s id = some o → o.ctx = n → ∃ u, findOp (loseCtx3 s n cause addr node) id = some u ∧ u.done.isSome = true := by
  rw [loseCtx3_eq h hl]
  generalize hm : (modCtx s n fun c =>
    { c with lost := true, lossCause := cause, lossAddr := BitVec.ofNat 64 addr, pinned := false }) = m
  have hctxs : (raiseEvent3 (endCtx m n) 0x03 n cause addr node).ctxs = m.ctxs :=
    (eq_of_view quiet State.ctxs (fun _ => rfl) (quiet_raiseEvent3 ..)).trans (ctxs_endCtx ..)
  refine ⟨?_, fun id o ho hc => ?_⟩
  · rw [ctxOf, hctxs]
    have hctx : ctxOf m n = _ := hm ▸ (ctxOf_modCtx ..).trans (if_pos rfl)
    rw [h] at hctx
    exact ⟨_, hctx, rfl, rfl⟩
  · obtain ⟨u, hops, hgo⟩ := ops_endCtx m n
    have hold : findOp m id = some o := by
      rw [findOp, ← hm, modCtx_ops]
      exact ho
    obtain ⟨g, hfind, hg⟩ := hgo.findOp id
    have hid (o : Op) : (lostEnd n o).id = o.id := by
      unfold lostEnd
      split <;> rfl
    have hend : findOp (raiseEvent3 (endCtx m n) 0x03 n cause addr node) id = (findOp u id).map (lostEnd n) := by
      rw [findOp, ops_raiseEvent3, hops]
      exact find?_map_of_pred (fun o => by rw [hid]) u.ops
    rw [hfind, hold] at hend
    refine ⟨_, hend, ?_⟩
    rw [lostEnd, if_pos ((hg o).ctx.trans hc)]
    rfl

/-! ### Faults (R246 to R249) -/

theorem flushOut_still {s : State} {sid : Nat} {x : Stream} (n : Nat) (hx : findStream s sid = some x) (hw : x.canWrite = false) :
    flushOut sid n s = s := by
  cases n with
  | zero => rfl
  | succ n =>
    rw [flushOut, hx]
    dsimp only
    rw [hw]
    rfl

theorem execTranslationFault_eq {s : State} {sid : Nat} {x : Stream} {c : FCode} {va : Nat} (hp : powered s = true)
    (hx : findStream s sid = some x) (hf : x.pending = some (c, va)) (hwait : waiting s sid = false) (hw : x.canWrite = false) :
    exec (.translationFault sid) s = .next (haltStream s sid c va) := by
  show execTranslationFault sid s = _
  rw [execTranslationFault, hx]
  dsimp only
  rw [if_pos (by simp [hp, hf, hwait]), flushOut_still _ hx hw, hx]
  dsimp only
  rw [hf]
  dsimp only
  rw [if_neg (by simp [hw, hwait])]

/-- A stream halted with a fault (R246 to R248, R253). -/
def haltedAt (c : FCode) (va : Nat) (x : Stream) : Stream :=
  let back := decide (x.kind = .feed) || decide (x.kind = .image)
  { x with state := .halt, fcode := c, faultVa := va, pending := none, pos := if back then 0 else x.pos,
           rpos := if back then 0 else if x.kind = .copy then x.pos else x.rpos, buf := if x.kind = .copy then [] else x.buf }

/-- What the halt of a stream does to its input half or pane (R249). -/
def haltWork (s : State) (x : Stream) : State :=
  match x.kind with
  | .feed => modWin s x.win (fun w => match halfOf w x.half with
    | some h => w.setHalf x.half (some { h with bytes := [] })
    | none => w)
  | .image => modPane s x.win x.half (fun p => { p with state := .empty, image := none, staged := [], loader := none })
  | _ => s

/-- The Dumbwaiter of a halted stream (Table 7.9). -/
def faulted (u : Dumb) : Dumb := { u with flags := u.flags ||| 1, faultCnt := u.faultCnt + 1 }

/-- DSTAT of a Dumbwaiter that holds a halted stream. -/
def showsHalt (x : Stream) (u : Dumb) : Dumb := { u with kind := x.kind.code, cls := x.cls, ctxId := x.ctx, st := 2 }

theorem haltStream_eq {s : State} {sid d : Nat} {x : Stream} (c : FCode) (va : Nat) (hx : findStream s sid = some x) (hd : x.dw = some d) :
    haltStream s sid c va = pageFault (modDumb (modDumb (haltWork (modStream s sid (haltedAt c va)) (haltedAt c va x)) d faulted) d
      (showsHalt (haltedAt c va x))) (haltedAt c va x) := by
  have hfind : findStream (modStream s sid (haltedAt c va)) sid = some (haltedAt c va x) := by
    rw [findStream_modStream, if_pos rfl, hx]
    rfl
  have hunfold : haltStream s sid c va = match findStream (modStream s sid (haltedAt c va)) sid with
      | none => modStream s sid (haltedAt c va)
      | some y => pageFault (showDw (match y.dw with
          | some d => modDumb (haltWork (modStream s sid (haltedAt c va)) y) d faulted
          | none => haltWork (modStream s sid (haltedAt c va)) y) y 2) y := rfl
  have hdw : (haltedAt c va x).dw = some d := hd
  rw [hunfold, hfind]
  dsimp only
  rw [showDw, hdw]
  rfl

theorem haltWork_eq (s : State) (x : Stream) : ∃ ws, haltWork s x = { s with windows := ws } := by
  unfold haltWork
  split
  · exact ⟨_, rfl⟩
  · exact ⟨_, rfl⟩
  · exact ⟨s.windows, rfl⟩

/-- What a halt leaves: the stream and its Dumbwaiter marked, one event, and nothing else but the half or pane. -/
structure Halted (s : State) (sid d : Nat) (c : FCode) (va : Nat) (x : Stream) (t : State) : Prop where
  stream : findStream t sid = some (haltedAt c va x)
  faultCnt : (dumb t d).faultCnt = (dumb s d).faultCnt + 1
  st : (dumb t d).st = 2
  flags : (dumb t d).flags = (dumb s d).flags ||| 1
  evSeq : t.evSeq = s.evSeq + 1
  mem : t.mem = s.mem
  ops : t.ops = s.ops
  ctxs : t.ctxs = s.ctxs

theorem halted_haltStream {s : State} {sid d : Nat} {x : Stream} (c : FCode) (va : Nat) (hx : findStream s sid = some x) (hd : x.dw = some d) :
    Halted s sid d c va x (haltStream s sid c va) := by
  rw [haltStream_eq c va hx hd]
  obtain ⟨ws, hwork⟩ := haltWork_eq (modStream s sid (haltedAt c va)) (haltedAt c va x)
  rw [hwork]
  have hfind : findStream (modStream s sid (haltedAt c va)) sid = some (haltedAt c va x) := by
    rw [findStream_modStream, if_pos rfl, hx]
    rfl
  have hdumbs : (modStream s sid (haltedAt c va)).dumbs = s.dumbs := modStream_dumbs ..
  have hseq : (modStream s sid (haltedAt c va)).evSeq = s.evSeq := modStream_evSeq ..
  have hmem : (modStream s sid (haltedAt c va)).mem = s.mem := modStream_mem ..
  have hops : (modStream s sid (haltedAt c va)).ops = s.ops := modStream_ops ..
  have hctxs : (modStream s sid (haltedAt c va)).ctxs = s.ctxs := modStream_ctxs ..
  generalize modStream s sid (haltedAt c va) = u at hfind hdumbs hseq hmem hops hctxs ⊢
  generalize hyx : haltedAt c va x = y at hfind ⊢
  have hd2 (w : State) : dumb (modDumb (modDumb w d faulted) d (showsHalt y)) d = showsHalt y (faulted (dumb w d)) := by
    rw [dumb_modDumb, if_pos rfl, dumb_modDumb, if_pos rfl]
  have hdu : dumb { u with windows := ws } d = dumb s d := congrArg (bankGet · Dumb.reset d) hdumbs
  generalize hv : modDumb (modDumb { u with windows := ws } d faulted) d (showsHalt y) = v
  have hq : quiet (pageFault v y) = quiet v := quiet_raiseEvent ..
  have hdumb : dumb (pageFault v y) d = showsHalt y (faulted (dumb s d)) := by
    rw [dumb, eq_of_view quiet State.dumbs (fun _ => rfl) hq, ← hdu, ← hd2, hv]
    rfl
  refine ⟨?_, hdumb ▸ rfl, hdumb ▸ rfl, hdumb ▸ rfl, ?_, ?_, ?_, ?_⟩
  · rw [findStream, eq_of_view quiet State.streams (fun _ => rfl) hq, ← hv]
    exact hfind.trans (congrArg some hyx.symm)
  · refine (raiseEvent_evSeq ..).trans ?_
    rw [← hv]
    exact congrArg (· + 1) hseq
  · rw [eq_of_view quiet State.mem (fun _ => rfl) hq, ← hv]
    exact hmem
  · rw [eq_of_view quiet State.ops (fun _ => rfl) hq, ← hv]
    exact hops
  · rw [eq_of_view quiet State.ctxs (fun _ => rfl) hq, ← hv]
    exact hctxs

/-! ### Walks (R234, R389, R555) -/

/-- The part when a walk has ended and been counted. -/
def walked (s : State) (n page : Nat) : State := { s with
  xlate := { s.xlate with walks := s.xlate.walks.filter (· ≠ (n, page)), walkCnt := s.xlate.walkCnt + 1 } }

/-- The part with a new translation in the DTC. -/
def entered (s : State) (n page : Nat) (m : Mapping) : State := { walked s n page with
  xlate := { (walked s n page).xlate with
    dtc := bankPut (walked s n page).xlate.dtc (dtcSlot (walked s n page)) ⟨n, m, s.xlate.clock⟩,
    clock := s.xlate.clock + 1 } }

theorem execTranslationWalk_enters {s : State} {n : Fin 4096} {page : Nat} {c : Context} {m : Mapping} (hp : powered s = true)
    (hw : (n.val, page) ∈ s.xlate.walks) (hc : ctxOf s n.val = some c) (hr : c.resident = true)
    (hm : tableFind s n.val (page * 0x10000) = some m) :
    exec (.translationWalk n page false) s = .next (entered s n.val page m) := by
  have hm' : tableFind (walked s n.val page) n.val (page * 0x10000) = some m := hm
  have hc' : (ctxOf (walked s n.val page) n.val).map (·.resident) = some true := by
    rw [show ctxOf (walked s n.val page) n.val = some c from hc, Option.map_some, hr]
  show execTranslationWalk n page false s = _
  rw [execTranslationWalk, if_pos (by simp [hp, hw])]
  dsimp only
  rw [if_neg Bool.false_ne_true]
  show Host.Outcome.next (match tableFind (walked s n.val page) n.val (page * 0x10000),
    (ctxOf (walked s n.val page) n.val).map (·.resident) with | some m, some true => _ | _, _ => _) = _
  rw [hm', hc']
  rfl

theorem execTranslationWalk_error {s : State} {n : Fin 4096} {page : Nat} (hp : powered s = true) (hw : (n.val, page) ∈ s.xlate.walks) :
    ∃ s1 addr, exec (.translationWalk n page true) s = .next (loseCtx3 s1 n.val 3 addr 0) ∧ s1.ctxs = s.ctxs ∧ s1.ops = s.ops :=
  ⟨(freshNat (walked s n.val page)).2, _, congrArg Host.Outcome.next (if_pos (by simp [hp, hw])), rfl, rfl⟩

/-! ### Finished streams (R237) -/

/-- A state without what the end of a stream changes beside streams and the count of transfers. -/
def unended (s : State) : State :=
  { treeless s with windows := [] }

theorem unended_streamEnd (s : State) (x : Stream) (o : Op) : unended (streamEnd s x o) = unended s := by
  have hok (u : State) : unended (if u.streams.any (fun e => e.2.op = o.id) then u
      else modOp u o.id (fun o => { o with done := some .ok })) = unended u := by
    split <;> rfl
  unfold streamEnd
  dsimp only
  split
  · exact hok s
  · exact hok s
  · rfl
  · rfl
  · split
    · exact (hok _).trans (congrArg (fun t : State => { t with windows := [] }) (treeless_shutTree ..) :)
    · exact hok s
  · rfl
  · split
    · unfold slotWriteDone
      dsimp only
      split <;> rfl
    · exact hok s

theorem aud_shutTree (s : State) (t : Tree) {q : Nat} (hq : q ≠ 6) : audOf (shutTree s t) q = audOf s q := by
  unfold shutTree
  dsimp only
  rw [audOf_audGive, if_neg hq]
  split <;> rfl

theorem aud_streamEnd (s : State) (x : Stream) (o : Op) {q : Nat} (hq : q ≠ 6) : audOf (streamEnd s x o) q = audOf s q := by
  have hok (u : State) : audOf (if u.streams.any (fun e => e.2.op = o.id) then u
      else modOp u o.id (fun o => { o with done := some .ok })) q = audOf u q := by
    split <;> rfl
  unfold streamEnd
  dsimp only
  split
  · exact hok s
  · exact hok s
  · rfl
  · rfl
  · split
    · exact (hok _).trans (aud_shutTree _ _ hq)
    · exact hok s
  · rfl
  · split
    · unfold slotWriteDone
      dsimp only
      split <;> rfl
    · exact hok s

/-- The part when a finished stream has left its Dumbwaiter. -/
def released (s : State) (sid : Nat) (x : Stream) : State := audGive { (showDw s x 0) with streams := bankErase s.streams sid } 3 1

theorem execStreamDone_eq {s : State} {sid : Nat} {x : Stream} {o : Op} (hp : powered s = true) (hx : findStream s sid = some x)
    (ho : findOp s x.op = some o) (hf : x.finished = true) (hw : waiting s sid = false) (hs : slotHeld s x o = false) :
    exec (.streamDone sid) s = .next (streamEnd (released s sid x) x o) := by
  show execStreamDone sid s = _
  rw [execStreamDone, hx]
  dsimp only
  rw [ho]
  dsimp only
  rw [if_pos (by simp [hp, hf, hw, hs])]
  rfl

theorem unstarted_released (s : State) (sid : Nat) (x : Stream) : unstarted (released s sid x) = unstarted s :=
  (show unstarted (released s sid x) = unstarted (showDw s x 0) from rfl).trans (unstarted_showDw ..)

theorem streams_released (s : State) (sid : Nat) (x : Stream) : (released s sid x).streams = bankErase s.streams sid := rfl

theorem aud_released (s : State) (sid : Nat) (x : Stream) : (audOf (released s sid x) 3).give = (audOf s 3).give + 1 := by
  have hshow : (showDw s x 0).corr = s.corr := by
    unfold showDw
    split <;> rfl
  rw [released, audOf_audGive, if_pos rfl]
  exact congrArg (fun c : Corridor => (bankGet c.aud ⟨0, 0, 0⟩ 3).give + 1) hshow

/-- A command that has ended well. -/
def Op.ok (o : Op) : Op := { o with done := some .ok }

/-- The last stream of a copy or fill ends its command. -/
theorem streamEnd_ok {s : State} {x : Stream} {o : Op} (hk : x.kind = .copy ∨ x.kind = .fill)
    (h : s.streams.any (fun e => e.2.op = o.id) = false) : streamEnd s x o = modOp s o.id Op.ok := by
  unfold streamEnd
  dsimp only
  rcases hk with hk | hk <;> rw [hk] <;> exact if_neg (by rw [h]; exact Bool.false_ne_true)

/-- Settles O39: a halt, a walk's end and a stream's end each touch the stream, its Dumbwaiter and its command only. -/
theorem streamFaultsWalksAndEnds : Obligations.StreamFaultsWalksAndEnds := by
  unfold Obligations.StreamFaultsWalksAndEnds
  intro s hp
  refine ⟨fun sid x c va d hx hf hwait hw hd => ?_, fun n page c hwalk hc => ⟨fun m hr hm => ?_, fun hl => ?_⟩,
    fun sid x o hx ho hf hwait hheld => ?_⟩
  · have h := halted_haltStream c va hx hd
    refine ⟨_, _, execTranslationFault_eq hp hx hf hwait hw, h.stream, rfl, rfl, rfl, rfl, ?_, h.faultCnt, h.st, h.flags, h.evSeq, h.mem,
      h.ops, h.ctxs⟩
    have hback : (decide (x.kind = .feed) || decide (x.kind = .image)) = true ↔ (x.kind = .feed ∨ x.kind = .image) := by simp
    exact if_congr hback rfl rfl
  · refine ⟨_, dtcSlot (walked s n.val page), execTranslationWalk_enters hp hwalk hc hr hm, rfl, bankFind_put_same .., fun h => ?_, rfl⟩
    exact absurd rfl (of_decide_eq_true (List.mem_filter.mp h).2)
  · obtain ⟨s1, addr, hexec, hctxs, hops⟩ := execTranslationWalk_error hp hwalk
    have hc1 : ctxOf s1 n.val = some c := by rw [ctxOf, hctxs]; exact hc
    obtain ⟨⟨c', hc', hlost, hcause⟩, hends⟩ := loseCtx3_ends hc1 hl 3 addr 0
    refine ⟨_, c', hexec, hc', hlost, hcause, fun id o ho hctx => hends id o ?_ hctx⟩
    rw [findOp, hops]
    exact ho
  · have hsame := unended_streamEnd (released s sid x) x o
    have hrel := unstarted_released s sid x
    refine ⟨_, execStreamDone_eq hp hx ho hf hwait hheld, ?_, ?_, ?_, fun hk hlast => ?_, fun h hk hh => ?_⟩
    · rw [findStream, eq_of_view unended State.streams (fun _ => rfl) hsame]
      exact bankFind_erase_same ..
    · rw [aud_streamEnd _ _ _ (by decide)]
      exact aud_released s sid x
    · exact (eq_of_view unended State.mem (fun _ => rfl) hsame).trans (eq_of_view unstarted State.mem (fun _ => rfl) hrel)
    · have hid := findOp_id ho
      have hnone : (released s sid x).streams.any (fun e => e.2.op = o.id) = false := by
        rw [streams_released, List.any_eq_false]
        intro e he
        have hm := List.mem_filter.mp he
        have hne : e.1 ≠ sid := by simpa using hm.2
        rw [hid]
        exact fun hop => hne (hlast e hm.1 (of_decide_eq_true hop))
      have hops : (released s sid x).ops = s.ops := eq_of_view unstarted State.ops (fun _ => rfl) hrel
      rw [streamEnd_ok hk hnone, findOp_modOp (f := Op.ok) (fun _ => rfl), if_pos hid.symm, hid, findOp, hops]
      exact congrArg (Option.map Op.ok) ho
    · have hwin : (released s sid x).windows = s.windows := eq_of_view unstarted State.windows (fun _ => rfl) hrel
      have hops : (released s sid x).ops = s.ops := eq_of_view unstarted State.ops (fun _ => rfl) hrel
      generalize released s sid x = u at hwin hops
      have hh' : halfOf (win u x.win) x.half = some h := by rw [win, hwin]; exact hh
      unfold streamEnd
      rw [hk]
      refine ⟨?_, hops⟩
      dsimp only
      rw [win_modWin, if_pos rfl, hh']
      exact halfOf_setHalf ..

end Sys2Proof.Machine


/-!
Transactions of streams (R243, R246, R253 to R256, R337): the obligation O38.
-/

namespace Sys2Proof.Machine

open Sys2Proof

/-! ### What a transaction changes -/

/-- A state without what the transactions of streams change beside Windows and commands. -/
def afloat (s : State) : State :=
  { unwritten s with
    freeIx := 0, streams := [], dumbs := [], link := Link.reset, corr := State.reset.corr, mem := State.reset.mem, host := State.reset.host }

theorem afloat_of_unwritten {s t : State} (h : unwritten t = unwritten s) : afloat t = afloat s := (congrArg afloat h :)
theorem afloat_of_unread {s t : State} (h : unread t = unread s) : afloat t = afloat s := (congrArg afloat h :)
theorem afloat_of_quiet {s t : State} (h : quiet t = quiet s) : afloat t = afloat s := (congrArg afloat h :)

theorem afloat_modStream (s : State) (sid : Nat) (f : Stream → Stream) : afloat (modStream s sid f) = afloat s := by
  unfold modStream
  split <;> rfl

theorem afloat_freeHeld (s : State) (x : Stream) : afloat (freeHeld s x) = afloat s := by
  unfold freeHeld
  split <;> rfl

theorem afloat_countBytes (s : State) (x : Stream) (n : Nat) : afloat (countBytes s x n) = afloat s := by
  unfold countBytes
  split <;> rfl

theorem afloat_setFault (s : State) (sid : Nat) (dst : Bool) (c : FCode) (va : Nat) : afloat (setFault s sid dst c va) = afloat s := by
  unfold setFault
  dsimp only
  rw [afloat_modStream]
  split
  · exact afloat_freeHeld ..
  · rfl

/-- The buffers that a transaction's request and response hold are given back, and counted (R276). -/
def countTxn (s : State) (x : Stream) (later : Bool) : State :=
  let s := if x.held.isSome then audGive s 1 1 else audPass s 1 1
  if x.held.isSome then audGive s 2 1 else if later then s else audPass s 2 1

/-- Only the counts of the audited quantities differ. -/
def AudMoved (s t : State) : Prop := ∃ a, t = { s with corr := { s.corr with aud := a } }

theorem AudMoved.refl (s : State) : AudMoved s s := ⟨s.corr.aud, rfl⟩
theorem AudMoved.trans {s t u : State} : AudMoved s t → AudMoved t u → AudMoved s u
  | ⟨_, h⟩, ⟨b, k⟩ => ⟨b, by rw [k, h]⟩
theorem audMoved_audGive (s : State) (q n : Nat) : AudMoved s (audGive s q n) := ⟨_, rfl⟩
theorem audMoved_audPass (s : State) (q n : Nat) : AudMoved s (audPass s q n) := AudMoved.trans (t := audTake s q n) ⟨_, rfl⟩ (audMoved_audGive ..)

theorem audMoved_countTxn (s : State) (x : Stream) (later : Bool) : AudMoved s (countTxn s x later) := by
  unfold countTxn
  dsimp only
  cases x.held.isSome with
  | true => exact (audMoved_audGive ..).trans (audMoved_audGive ..)
  | false =>
    cases later with
    | true => exact audMoved_audPass ..
    | false => exact (audMoved_audPass ..).trans (audMoved_audPass ..)

/-- A stream whose request waits at no port. -/
def unheld (x : Stream) : Stream := { x with held := none }

theorem takeTxn_frame (s : State) (sid : Nat) (x : Stream) (pieces : Nat) (later : Bool) : ∃ a ds,
    takeTxn s sid x pieces later = { modStream { s with corr := { s.corr with aud := a } } sid unheld with dumbs := ds } := by
  obtain ⟨a, ha⟩ := audMoved_countTxn s x later
  have hunfold : takeTxn s sid x pieces later = match x.dw with
      | some d => modDumb (showDw (modStream (countTxn s x later) sid unheld) x 1) d
          (fun u => { u with mergeCnt := u.mergeCnt + BitVec.ofNat 32 (pieces - 1) })
      | none => modStream (countTxn s x later) sid unheld := rfl
  refine ⟨a, ?_⟩
  rw [hunfold, ha]
  generalize modStream { s with corr := { s.corr with aud := a } } sid unheld = u
  cases hd : x.dw with
  | none => exact ⟨u.dumbs, rfl⟩
  | some d =>
    rw [showDw, hd]
    exact ⟨_, rfl⟩

theorem translate_frame (s : State) (ctx va : Nat) (write : Bool) : ∃ xl, (translate s ctx va write).1 = { s with xlate := xl } := by
  unfold translate
  split
  · exact ⟨s.xlate, rfl⟩
  · unfold lookup
    split <;> exact ⟨_, rfl⟩

theorem translate_eq {s t : State} {ctx va : Nat} {write : Bool} {r : Xl} (h : translate s ctx va write = (t, r)) :
    ∃ xl, t = { s with xlate := xl } := by
  obtain ⟨xl, hx⟩ := translate_frame s ctx va write
  rw [h] at hx
  exact ⟨xl, hx⟩

theorem spendCls_frame (s : State) (ctx cls pa n : Nat) : ∃ rs a,
    spendCls s ctx cls pa n = { s with mem := { s.mem with resvs := rs }, corr := { s.corr with aud := a } } := by
  unfold spendCls
  split
  · split
    · exact ⟨_, _, rfl⟩
    · exact ⟨s.mem.resvs, s.corr.aud, rfl⟩
  · exact ⟨s.mem.resvs, s.corr.aud, rfl⟩

theorem countBytes_frame (s : State) (x : Stream) (n : Nat) : ∃ ds, countBytes s x n = { s with dumbs := ds } := by
  unfold countBytes
  split
  · exact ⟨_, rfl⟩
  · exact ⟨s.dumbs, rfl⟩

theorem modStream_frame (s : State) (sid : Nat) (f : Stream → Stream) : ∃ ss, modStream s sid f = { s with streams := ss } := by
  unfold modStream
  split
  · exact ⟨_, rfl⟩
  · exact ⟨s.streams, rfl⟩

/-- The bytes that arrive change the stream, its Dumbwaiter, and a half or pane. -/
theorem takeBytes_frame (s : State) (sid : Nat) (x : Stream) (bs : List Byte) : ∃ ss ds ws,
    takeBytes s sid x bs = { s with streams := ss, dumbs := ds, windows := ws } := by
  unfold takeBytes
  dsimp only
  split
  · obtain ⟨ss, h⟩ := modStream_frame s sid (fun x => { x with buf := x.buf ++ bs, rpos := x.rpos + bs.length })
    exact ⟨ss, s.dumbs, s.windows, h⟩
  · obtain ⟨ss, h⟩ := modStream_frame s sid (fun x => { x with pos := x.pos + bs.length, rpos := x.rpos + bs.length })
    rw [h]
    obtain ⟨ds, hd⟩ := countBytes_frame (modWin { s with streams := ss } x.win (fun w => match halfOf w x.half with
      | some h => w.setHalf x.half (some { h with bytes := h.bytes ++ bs })
      | none => w)) x bs.length
    exact ⟨ss, ds, _, hd⟩
  · obtain ⟨ss, h⟩ := modStream_frame s sid (fun x => { x with pos := x.pos + bs.length, rpos := x.rpos + bs.length })
    rw [h]
    obtain ⟨ds, hd⟩ := countBytes_frame (modPane { s with streams := ss } x.win x.half (fun p => { p with staged := p.staged ++ bs })) x bs.length
    exact ⟨ss, ds, _, hd⟩
  · obtain ⟨ss, h⟩ := modStream_frame s sid (fun x => { x with buf := x.buf ++ bs, pos := x.pos + bs.length, rpos := x.rpos + bs.length })
    rw [h]
    obtain ⟨ds, hd⟩ := countBytes_frame { s with streams := ss } x bs.length
    exact ⟨ss, ds, s.windows, hd⟩

/-- A grant moves the arbiters alone. -/
theorem grants_frame (s u : State) (x : Stream) (rd : Bool) : ∃ c, takePort s (takeDw s u x) x rd = { u with corr := c } := by
  have hdw : ∃ c, takeDw s u x = { u with corr := c } := by
    unfold takeDw
    split
    · exact ⟨u.corr, rfl⟩
    · exact ⟨_, rfl⟩
  obtain ⟨c, hc⟩ := hdw
  rw [hc]
  unfold takePort
  split
  · exact ⟨_, rfl⟩
  · exact ⟨c, rfl⟩

/-- A transaction that is served now. -/
theorem execStreamTransaction_eq {s : State} {sid : Nat} {x : Stream} {rd : Bool} (env : Env) (hx : findStream s sid = some x)
    (hs : txnServed s sid x rd = true) : ∃ c, exec (.streamTransaction sid rd env) s =
      .next { (if rd then readTxn s sid x env else writeTxn s sid x env) with corr := c } := by
  obtain ⟨c, hc⟩ := grants_frame s (if rd then readTxn s sid x env else writeTxn s sid x env) x rd
  refine ⟨c, ?_⟩
  show execStreamTransaction sid rd env s = _
  rw [execStreamTransaction, hx]
  dsimp only
  rw [if_pos hs, hc]

theorem findStream_takeTxn {s : State} {sid : Nat} {x : Stream} (pieces : Nat) (later : Bool) (hx : findStream s sid = some x) :
    findStream (takeTxn s sid x pieces later) sid = some (unheld x) := by
  obtain ⟨a, ds, h⟩ := takeTxn_frame s sid x pieces later
  rw [h]
  refine (findStream_modStream { s with corr := { s.corr with aud := a } } sid sid unheld).trans ?_
  rw [if_pos rfl]
  exact congrArg (Option.map unheld) hx

theorem afloat_takeTxn (s : State) (sid : Nat) (x : Stream) (pieces : Nat) (later : Bool) : afloat (takeTxn s sid x pieces later) = afloat s := by
  obtain ⟨a, ds, h⟩ := takeTxn_frame s sid x pieces later
  rw [h]
  exact (afloat_modStream { s with corr := { s.corr with aud := a } } sid unheld :)

theorem mem_takeTxn (s : State) (sid : Nat) (x : Stream) (pieces : Nat) (later : Bool) : (takeTxn s sid x pieces later).mem = s.mem := by
  obtain ⟨a, ds, h⟩ := takeTxn_frame s sid x pieces later
  rw [h]
  exact (modStream_mem { s with corr := { s.corr with aud := a } } sid unheld :)

/-! ### Writes (R243, R246) -/

/-- A stream that has written n bytes. -/
def moved (n : Nat) (x : Stream) : Stream := { x with pos := x.pos + n, buf := x.buf.drop n }

/-- The part when a stream's bytes are in device memory, before the stream moves on. -/
def stored (s : State) (sid : Nat) (x : Stream) (env : Env) (pa pieces n : Nat) : State :=
  writePa (spendCls (takeTxn s sid x pieces false) x.ctx x.cls pa n) env .dev pa (x.outBytes n)

theorem writeTxn_dev {s s1 : State} {sid : Nat} {x : Stream} {m : Mapping} {pa : Nat} (env : Env)
    (ht : translate s x.ctx (x.addrAt false x.pos).1 true = (s1, .ok m)) (hm : m.at (x.addrAt false x.pos).1 = .dev pa)
    (ho : firstOut s1 pa (txnOf x false m x.pos x.writeLimit).1 = none) : writeTxn s sid x env =
      countBytes (modStream (testFences (stored s1 sid x env pa (txnOf x false m x.pos x.writeLimit).2 (txnOf x false m x.pos x.writeLimit).1))
        sid (moved (txnOf x false m x.pos x.writeLimit).1)) x (txnOf x false m x.pos x.writeLimit).1 := by
  rw [writeTxn]
  dsimp only
  rw [ht]
  dsimp only
  rw [hm]
  dsimp only
  rw [ho]
  rfl

theorem afloat_stored (s : State) (sid : Nat) (x : Stream) (env : Env) (pa pieces n : Nat) :
    afloat (stored s sid x env pa pieces n) = afloat s :=
  (afloat_of_unwritten (unwritten_writePa ..)).trans ((afloat_of_unread (unread_spendCls ..)).trans (afloat_takeTxn ..))

theorem data_stored (s : State) (sid : Nat) (x : Stream) (env : Env) (pa pieces n : Nat) :
    (stored s sid x env pa pieces n).mem.data = s.mem.data.write pa (x.outBytes n) := by
  obtain ⟨rs, a, h⟩ := spendCls_frame (takeTxn s sid x pieces false) x.ctx x.cls pa n
  have hmem := congrArg (fun m : Mem => m.data.write pa (x.outBytes n)) (mem_takeTxn s sid x pieces false)
  rw [stored, writePa_data, h]
  exact hmem

theorem findStream_stored {s : State} {sid : Nat} {x : Stream} (env : Env) (pa pieces n : Nat) (hx : findStream s sid = some x) :
    findStream (stored s sid x env pa pieces n) sid = some (unheld x) := by
  have hs : (stored s sid x env pa pieces n).streams = (takeTxn s sid x pieces false).streams :=
    (eq_of_view unwritten State.streams (fun _ => rfl) (unwritten_writePa ..)).trans
      (eq_of_view unread State.streams (fun _ => rfl) (unread_spendCls ..))
  rw [findStream, hs]
  exact findStream_takeTxn pieces false hx

/-- What a write transaction into device memory does. -/
theorem stored_moves {s : State} {sid : Nat} {x : Stream} (env : Env) (pa pieces n : Nat) (hx : findStream s sid = some x) :
    let t := countBytes (modStream (testFences (stored s sid x env pa pieces n)) sid (moved n)) x n
    t.mem.data = s.mem.data.write pa (x.outBytes n) ∧ findStream t sid = some (moved n (unheld x)) ∧ t.windows = s.windows ∧
      t.pantries = s.pantries ∧ t.fuses = s.fuses := by
  have hdata := data_stored s sid x env pa pieces n
  have hfind := findStream_stored env pa pieces n hx
  have hsame := afloat_stored s sid x env pa pieces n
  obtain ⟨ops, corr, hf⟩ := testFences_frame (stored s sid x env pa pieces n)
  rw [hf]
  generalize stored s sid x env pa pieces n = u at hdata hfind hsame
  have hstream : findStream (modStream { u with ops := ops, corr := corr } sid (moved n)) sid = some (moved n (unheld x)) := by
    refine (findStream_modStream { u with ops := ops, corr := corr } sid sid (moved n)).trans ?_
    rw [if_pos rfl]
    exact congrArg (Option.map (moved n)) hfind
  obtain ⟨ss, hss⟩ := modStream_frame { u with ops := ops, corr := corr } sid (moved n)
  obtain ⟨ds, hds⟩ := countBytes_frame (modStream { u with ops := ops, corr := corr } sid (moved n)) x n
  dsimp only
  rw [hds]
  refine ⟨?_, hstream, ?_, ?_, ?_⟩
  · rw [hss]
    exact hdata
  · rw [hss]
    exact (congrArg State.windows hsame :)
  · rw [hss]
    exact (congrArg State.pantries hsame :)
  · rw [hss]
    exact (congrArg State.fuses hsame :)

/-! ### Faults of a transaction (R246) -/

theorem setFault_spec {s : State} {sid : Nat} {x : Stream} (dst : Bool) (c : FCode) (va : Nat) (hx : findStream s sid = some x) :
    ∃ y, findStream (setFault s sid dst c va) sid = some y ∧ y.pending = some (c, va) ∧ y.pos = x.pos ∧ y.state = x.state ∧
      (setFault s sid dst c va).mem = s.mem := by
  have hheld : findStream (freeHeld s x) sid = some x ∧ (freeHeld s x).mem = s.mem := by
    unfold freeHeld
    split
    · exact ⟨hx, rfl⟩
    · exact ⟨hx, rfl⟩
  unfold setFault
  rw [hx]
  dsimp only
  rw [findStream_modStream, if_pos rfl, hheld.1, Option.map_some, modStream_mem, hheld.2]
  refine ⟨_, rfl, ?_⟩
  split
  · exact ⟨rfl, rfl, rfl, rfl⟩
  · exact ⟨rfl, rfl, rfl, rfl⟩

/-- A stream whose read is served runs. -/
theorem txnServed_runs {s : State} {sid : Nat} {x : Stream} (hs : txnServed s sid x true = true) : x.state = .run := by
  by_contra h
  simp [txnServed, wantsTxn, Stream.canRead, h] at hs

theorem writeTxn_fault {s s1 : State} {sid : Nat} {x : Stream} {c : FCode} (env : Env)
    (ht : translate s x.ctx (x.addrAt false x.pos).1 true = (s1, .fault c)) :
    writeTxn s sid x env = setFault s1 sid true c (x.addrAt false x.pos).1 := by
  rw [writeTxn]
  dsimp only
  rw [ht]

theorem readTxn_fault {s s1 : State} {sid : Nat} {x : Stream} {c : FCode} (env : Env)
    (ht : translate s x.ctx (x.addrAt true x.rpos).1 false = (s1, .fault c)) :
    readTxn s sid x env = setFault s1 sid false c (x.addrAt true x.rpos).1 := by
  rw [readTxn]
  dsimp only
  rw [ht]

/-! ### Reads (R243, R254, R337) -/

/-- The part as a read transaction reads device memory. -/
def reading (s : State) (sid : Nat) (x : Stream) (pa pieces n : Nat) : State :=
  spendCls (takeTxn s sid x pieces false) x.ctx x.cls pa n

theorem reading_mem (s : State) (sid : Nat) (x : Stream) (pa pieces n : Nat) : ∃ rs, (reading s sid x pa pieces n).mem = { s.mem with resvs := rs } := by
  obtain ⟨rs, a, h⟩ := spendCls_frame (takeTxn s sid x pieces false) x.ctx x.cls pa n
  refine ⟨rs, ?_⟩
  rw [reading, h]
  exact congrArg (fun m : Mem => { m with resvs := rs }) (mem_takeTxn ..)

theorem afloat_reading (s : State) (sid : Nat) (x : Stream) (pa pieces n : Nat) : afloat (reading s sid x pa pieces n) = afloat s :=
  (afloat_of_unread (unread_spendCls ..)).trans (afloat_takeTxn ..)

theorem findStream_reading {s : State} {sid : Nat} {x : Stream} (pa pieces n : Nat) (hx : findStream s sid = some x) :
    findStream (reading s sid x pa pieces n) sid = some (unheld x) := by
  have hs : (reading s sid x pa pieces n).streams = (takeTxn s sid x pieces false).streams :=
    eq_of_view unread State.streams (fun _ => rfl) (unread_spendCls ..)
  rw [findStream, hs]
  exact findStream_takeTxn pieces false hx

theorem readTxn_dev {s s1 : State} {sid : Nat} {x : Stream} {m : Mapping} {pa : Nat} (env : Env)
    (ht : translate s x.ctx (x.addrAt true x.rpos).1 false = (s1, .ok m)) (hm : m.at (x.addrAt true x.rpos).1 = .dev pa) :
    readTxn s sid x env =
      match readPa (reading s1 sid x pa (txnOf x true m x.rpos x.total).2 (txnOf x true m x.rpos x.total).1) env .dev (some x.ctx) pa
        (txnOf x true m x.rpos x.total).1 with
      | (s, none, bs) => takeBytes s sid x bs
      | (t, some g, _) => streamPoison s (takeBytes t sid x (t.mem.data.read pa (64 * g - pa))) sid x (64 * g) 0 := by
  rw [readTxn]
  dsimp only
  rw [ht]
  dsimp only
  rw [hm]
  rfl

/-- A read is clean where memory is as it was. -/
theorem cleanRead_of_mem {s t : State} {env : Env} {pa n : Nat} (hp : t.mem.poison = s.mem.poison) (hu : t.mem.stkUp = s.mem.stkUp)
    (hi : t.mem.stacksIn = s.mem.stacksIn) (h : CleanRead s env pa n) : CleanRead t env pa n := by
  obtain ⟨hue, hce, hg⟩ := h
  refine ⟨hue, hce, fun g hmem => ⟨hp ▸ (hg g hmem).1, ?_⟩⟩
  have hout := (hg g hmem).2
  rw [stackOut, inCellar, cellarEnd, stackOf] at hout ⊢
  rw [hu, hi]
  exact hout

/-- A copy stream that has read bytes. -/
def gained (bs : List Byte) (x : Stream) : Stream := { x with buf := x.buf ++ bs, rpos := x.rpos + bs.length }

theorem takeBytes_copy {s : State} {sid : Nat} {x : Stream} (bs : List Byte) (hk : x.kind = .copy) :
    takeBytes s sid x bs = modStream s sid (gained bs) := by
  rw [takeBytes, hk]
  rfl

theorem takeBytes_feed {s : State} {sid : Nat} {x : Stream} {h : FeedHalf} (bs : List Byte) (hk : x.kind = .feed)
    (hh : halfOf (win s x.win) x.half = some h) :
    halfOf (win (takeBytes s sid x bs) x.win) x.half = some { h with bytes := h.bytes ++ bs } := by
  rw [takeBytes, hk]
  dsimp only
  obtain ⟨ss, hss⟩ := modStream_frame s sid (fun x => { x with pos := x.pos + bs.length, rpos := x.rpos + bs.length })
  rw [hss]
  generalize hw : (modWin { s with streams := ss } x.win fun w => match halfOf w x.half with
      | some h => w.setHalf x.half (some { h with bytes := h.bytes ++ bs })
      | none => w) = u
  obtain ⟨ds, hds⟩ := countBytes_frame u x bs.length
  have hwin := congrArg (fun v => win v x.win) hw
  rw [hds]
  refine (congrArg (halfOf · x.half) ((hwin.symm.trans (win_modWin ..)).trans (if_pos rfl))).trans ?_
  rw [show halfOf (win { s with streams := ss } x.win) x.half = some h from hh]
  exact halfOf_setHalf ..

theorem takeBytes_image {s : State} {sid : Nat} {x : Stream} (bs : List Byte) (hk : x.kind = .image) :
    (paneOf (win (takeBytes s sid x bs) x.win) x.half).staged = (paneOf (win s x.win) x.half).staged ++ bs := by
  rw [takeBytes, hk]
  dsimp only
  obtain ⟨ss, hss⟩ := modStream_frame s sid (fun x => { x with pos := x.pos + bs.length, rpos := x.rpos + bs.length })
  rw [hss]
  generalize hw : (modPane { s with streams := ss } x.win x.half fun p => { p with staged := p.staged ++ bs }) = u
  obtain ⟨ds, hds⟩ := countBytes_frame u x bs.length
  have hwin := congrArg (fun v => win v x.win) hw
  rw [hds]
  refine (congrArg (fun w => (paneOf w x.half).staged) ((hwin.symm.trans (win_modWin ..)).trans (if_pos rfl))).trans ?_
  rw [paneOf_setPane_same]
  rfl

theorem length_read (m : Memory) (a n : Nat) : (m.read a n).length = n := by rw [Memory.read, List.length_map, List.length_range]

/-- What a clean read transaction does. -/
theorem reading_delivers {s : State} {sid : Nat} {x : Stream} (pa pieces n : Nat) (bs : List Byte) (hx : findStream s sid = some x) :
    let u := reading s sid x pa pieces n
    let t := takeBytes u sid x bs
    t.mem.data = s.mem.data ∧ t.mem.poison = s.mem.poison ∧ t.pantries = s.pantries ∧
      (x.kind = .copy → t.windows = s.windows ∧ findStream t sid = some (gained bs (unheld x))) ∧
      (∀ h, x.kind = .feed → halfOf (win s x.win) x.half = some h → halfOf (win t x.win) x.half = some { h with bytes := h.bytes ++ bs }) ∧
      (x.kind = .image → (paneOf (win t x.win) x.half).staged = (paneOf (win s x.win) x.half).staged ++ bs) := by
  obtain ⟨rs, hmem⟩ := reading_mem s sid x pa pieces n
  have hfind := findStream_reading pa pieces n hx
  have hsame := afloat_reading s sid x pa pieces n
  have hwin : (reading s sid x pa pieces n).windows = s.windows := (congrArg State.windows hsame :)
  have hpan : (reading s sid x pa pieces n).pantries = s.pantries := (congrArg State.pantries hsame :)
  generalize reading s sid x pa pieces n = u at hmem hfind hwin hpan
  have hw (v : Nat) : win u v = win s v := by rw [win, win, hwin]
  obtain ⟨ss, ds, ws, hframe⟩ := takeBytes_frame u sid x bs
  refine ⟨?_, ?_, ?_, fun hk => ?_, fun h hk hh => takeBytes_feed bs hk ((hw x.win).symm ▸ hh), fun hk => hw x.win ▸ takeBytes_image bs hk⟩
  · rw [hframe]
    exact (congrArg Mem.data hmem :)
  · rw [hframe]
    exact (congrArg Mem.poison hmem :)
  · rw [hframe]
    exact hpan
  · rw [takeBytes_copy bs hk, modStream_windows, hwin, findStream_modStream, if_pos rfl, hfind]
    exact ⟨rfl, rfl⟩

theorem readTxn_host {s s1 : State} {sid : Nat} {x : Stream} {m : Mapping} {a : Nat} (env : Env)
    (ht : translate s x.ctx (x.addrAt true x.rpos).1 false = (s1, .ok m)) (hm : m.at (x.addrAt true x.rpos).1 = .host a) : ∃ k,
    readTxn s sid x env = emit { audTake (takeTxn s1 sid x k true) 2 1 with
      host := { (takeTxn s1 sid x k true).host with
        reqs := (takeTxn s1 sid x k true).host.reqs ++ [⟨hostTag s1, sid, min (txnOf x true m x.rpos x.total).1 (maxRead s1), x.ctx⟩],
        nextTag := hostTag s1 + 1 } } (.hostRead (hostTag s1) a (min (txnOf x true m x.rpos x.total).1 (maxRead s1))) := by
  refine ⟨(txnOf x true m x.rpos x.total).2, ?_⟩
  rw [readTxn]
  dsimp only
  rw [ht]
  dsimp only
  rw [hm]
  rfl

/-! ### Poison (R255) -/

/-- Contexts as lost as before, and commands gone on. -/
def Bears (s t : State) : Prop := (∀ n, lostOf t n = lostOf s n) ∧ OpsGo .nop s t

theorem Bears.of_eq {s t : State} (hc : t.ctxs = s.ctxs) (ho : t.ops = s.ops) : Bears s t := ⟨lostOf_of_ctxs hc, .of_eq ho⟩
theorem Bears.refl (s : State) : Bears s s := .of_eq rfl rfl
theorem Bears.of_afloat {s t : State} (h : afloat t = afloat s) : Bears s t := .of_eq (congrArg State.ctxs h :) (congrArg State.ops h :)
theorem Bears.trans {s t u : State} (h : Bears s t) (k : Bears t u) : Bears s u := ⟨fun n => (k.1 n).trans (h.1 n), h.2.trans k.2⟩

theorem Bears.endOp (s : State) (id : OpId) (st : Status) (aborted : Bool) : Bears s (endOp s id st aborted) :=
  ⟨lostOf_of_ctxs (eq_of_view endless State.ctxs (fun _ => rfl) (endless_endOp ..)), .endOp ..⟩

theorem Bears.testFences (s : State) : Bears s (testFences s) := by
  refine ⟨lostOf_of_ctxs ?_, .testFences s⟩
  obtain ⟨ops, corr, h⟩ := testFences_frame s
  rw [h]

theorem Bears.dropSignal (s : State) (n : Nat) : Bears s (dropSignal s n) := ⟨lostOf_modCtx fun _ => rfl, .of_eq (modCtx_ops ..)⟩

theorem Bears.raiseQueueVec (s : State) (q : Nat) : Bears s (raiseQueueVec s q) := by
  unfold Machine.raiseQueueVec
  split
  · exact .of_afloat (afloat_of_quiet (quiet_raiseVec ..))
  · exact .refl s

theorem afloat_reqTimedOut (s : State) (tag : Nat) (r : RemReq) : afloat (reqTimedOut s tag r) = afloat s :=
  (afloat_of_quiet (quiet_raiseEvent ..)).trans rfl

/-- A request that fails may end a command, and loses no context (R433, R436). -/
theorem Bears.failReq (s : State) (tag : Nat) : Bears s (failReq s tag) := by
  rw [failReq_eq]
  split
  · exact .refl s
  next r _ =>
    refine Bears.trans (.of_afloat (afloat_reqTimedOut s tag r)) ?_
    generalize reqTimedOut s tag r = u
    split
    · split
      · exact .endOp ..
      · exact .refl u
    · split
      · exact (Bears.dropSignal ..).trans (.raiseQueueVec ..)
      · exact .dropSignal ..
    · exact .endOp ..

theorem afloat_goAlt (s : State) (a b : Nat) : afloat (goAlt s a b) = afloat s := by
  unfold goAlt
  split
  · rfl
  · have hdoor (u : State) (f : Door → Door) : afloat (modDoor u a f) = afloat u := rfl
    rw [hdoor]
    exact afloat_of_quiet (quiet_raiseEvent ..)

theorem afloat_countOvr (s : State) (dst : Nat) : afloat (countOvr s dst) = afloat s := by
  unfold countOvr
  repeat' split
  all_goals rfl

theorem afloat_routeOf (s : State) (dst : Nat) (arrival : Option (Nat × Nat)) : afloat (routeOf s dst arrival).1 = afloat s := by
  unfold routeOf
  split
  · rfl
  · dsimp only
    split
    · exact afloat_countOvr ..
    · split
      · exact afloat_countOvr ..
      · split
        · dsimp only
          split
          · exact (afloat_goAlt ..).trans (afloat_countOvr ..)
          · exact afloat_countOvr ..
        · exact afloat_countOvr ..

theorem afloat_sendMsg (s : State) (m : Msg) : afloat (sendMsg s m).1 = afloat s := by
  have hroute := afloat_routeOf s m.dst none
  unfold sendMsg
  split
  next t h => rw [h] at hroute; exact hroute
  next t d lane h =>
    rw [h] at hroute
    split
    · split
      · exact hroute
      · exact hroute
    · exact hroute
  next t h => rw [h] at hroute; exact hroute

theorem Bears.sendReq (s : State) (tag : Nat) (m : Msg) : Bears s (sendReq s tag m) := by
  have hsend := afloat_sendMsg s m
  unfold Machine.sendReq
  split
  next t h => rw [h] at hsend; exact .of_afloat hsend
  next t h =>
    rw [h] at hsend
    exact (Bears.of_afloat hsend).trans (.failReq ..)

theorem Bears.newReq (s : State) (mt cls atop dst addr len : Nat) (data : List Byte) (owner : RemOwner) (va ctx : Nat) :
    Bears s (newReq s mt cls atop dst addr len data owner va ctx) :=
  Bears.trans (.of_eq rfl rfl) (.sendReq ..)

/-- The stream moves on by what it has written. -/
theorem Bears.advance (s : State) (sid : Nat) (x : Stream) (f : Stream → Stream) (n : Nat) :
    Bears s (countBytes (modStream s sid f) x n) :=
  .of_afloat ((afloat_countBytes ..).trans (afloat_modStream ..))

theorem afloat_translate {s t : State} {ctx va : Nat} {write : Bool} {r : Xl} (h : translate s ctx va write = (t, r)) : afloat t = afloat s := by
  obtain ⟨xl, rfl⟩ := translate_eq h
  rfl

/-- A write transaction loses no context, and takes no command away. -/
theorem Bears.writeTxn (s : State) (sid : Nat) (x : Stream) (env : Env) : Bears s (writeTxn s sid x env) := by
  unfold Machine.writeTxn
  dsimp only
  split
  next t c h => exact .of_afloat ((afloat_setFault ..).trans (afloat_translate h))
  next t m h =>
    refine Bears.trans (.of_afloat (afloat_translate h)) ?_
    split
    · split
      · exact .of_afloat ((afloat_setFault ..).trans (afloat_of_unread (unread_elog ..)))
      · exact Bears.trans (.of_afloat (afloat_stored ..)) (Bears.trans (.testFences _) (.advance ..))
    · exact Bears.trans (.of_afloat ((afloat_of_quiet (quiet_hostWrites ..)).trans (afloat_takeTxn ..))) (.advance ..)
    · exact Bears.trans (.of_afloat (afloat_takeTxn ..)) (.newReq ..)

theorem Bears.flushOut (sid n : Nat) : ∀ s : State, Bears s (flushOut sid n s) := by
  induction n with
  | zero => exact .refl
  | succ n ih =>
    intro s
    rw [Machine.flushOut]
    split
    · split
      · exact Bears.trans (.writeTxn ..) (ih _)
      · exact .refl s
    · exact .refl s

/-- The part when a stream that met poison has written out what came before it. -/
def poisonMet (s : State) (sid : Nat) (x : Stream) : State :=
  let s := match findStream s sid with | some x => flushOut sid (flushFuel x) s | none => s
  match x.dw with
  | some d => modDumb s d (fun u => { u with flags := u.flags ||| 3, faultCnt := u.faultCnt + 1 })
  | none => s

theorem Bears.poisonMet (s : State) (sid : Nat) (x : Stream) : Bears s (poisonMet s sid x) := by
  unfold Machine.poisonMet
  dsimp only
  have hflush : Bears s (match findStream s sid with | some x => Machine.flushOut sid (flushFuel x) s | none => s) := by
    split
    · exact .flushOut ..
    · exact .refl s
  split
  · exact hflush.trans (.of_eq rfl rfl)
  · exact hflush

/-- A poisoned read loses its context with cause 1 (R255). -/
theorem poisonRead_loses {s0 s : State} {n : Nat} {pa : Nat} (hl : lostOf s n = some false) :
    (∃ c', ctxOf (poisonRead s0 s n pa) n = some c' ∧ c'.lost = true ∧ c'.lossCause = 1) ∧
      ∀ id o, findOp s id = some o → o.ctx = n → ∃ u, findOp (poisonRead s0 s n pa) id = some u ∧ u.done.isSome = true := by
  obtain ⟨t, ht, hctxs, hops⟩ : ∃ t, poisonRead s0 s n pa = loseCtx3 t n 1 pa 0 ∧ t.ctxs = s.ctxs ∧ t.ops = s.ops := by
    unfold poisonRead
    dsimp only
    split
    · exact ⟨_, rfl, eq_of_view unrecorded State.ctxs (fun _ => rfl) (unrecorded_addFrec ..),
        eq_of_view unrecorded State.ops (fun _ => rfl) (unrecorded_addFrec ..)⟩
    · exact ⟨s, rfl, rfl, rfl⟩
  obtain ⟨c, hc, hlc⟩ : ∃ c, ctxOf t n = some c ∧ c.lost = false := by
    rw [← lostOf_of_ctxs hctxs, lostOf, Option.map_eq_some_iff] at hl
    exact hl
  obtain ⟨hlost, hends⟩ := loseCtx3_ends hc hlc 1 pa 0
  rw [ht]
  refine ⟨hlost, fun id o ho hctx => hends id o ?_ hctx⟩
  rw [findOp, hops]
  exact ho

/-- A read that touches a bad granule delivers poison. -/
theorem readGranules_meets {env : Env} (src : Finder) (who : Option Nat) (gs : List Nat) (s : State)
    (h : ∃ g ∈ gs, g ∈ s.mem.poison ∨ stackOut s (64 * g) = true ∨ g ∈ env.ue) : (readGranules env src who gs s).2.isSome = true := by
  induction gs generalizing s with
  | nil =>
    obtain ⟨g, hg, -⟩ := h
    cases hg
  | cons a gs ih =>
    rw [readGranules]
    split
    · rfl
    next hclean =>
      have hstep : readGranule s env src who a = ((readGranule s env src who a).1, false) := Prod.ext rfl (Bool.eq_false_iff.mpr hclean)
      have hsame := uncounted_readGranule hstep
      generalize (readGranule s env src who a).1 = t at hsame ⊢
      have hpois : t.mem.poison = s.mem.poison := (congrArg (fun u : State => u.mem.poison) hsame :)
      have hout (pa : Nat) : stackOut t pa = stackOut s pa := (congrArg (stackOut · pa) hsame :)
      obtain ⟨g, hg, hbad⟩ := h
      rcases List.mem_cons.mp hg with rfl | hg
      · refine absurd ?_ hclean
        unfold readGranule
        rcases hbad with hp | ho | hu
        · simp [hp]
        · simp [ho]
        · dsimp only
          rw [List.contains_iff_mem.mpr hu]
          split <;> rfl
      · exact ih t ⟨g, hg, by rw [hpois, hout]; exact hbad⟩

theorem readPa_meets {s : State} {env : Env} (src : Finder) (who : Option Nat) {pa n : Nat}
    (h : ∃ g ∈ granulesOf pa n, g ∈ s.mem.poison ∨ stackOut s (64 * g) = true ∨ g ∈ env.ue) :
    ∃ t g bs, readPa s env src who pa n = (t, some g, bs) ∧ afloat t = afloat s := by
  have hmeet := readGranules_meets src who _ s h
  have hsame := unread_readPa s env src who pa n
  obtain ⟨g, hg⟩ := Option.isSome_iff_exists.mp hmeet
  exact ⟨_, g, _, Prod.ext rfl (Prod.ext hg rfl), afloat_of_unread hsame⟩

/-- A demand read that meets poison loses the stream's context and ends its commands (R255). -/
theorem readTxn_poison {s s1 : State} {sid : Nat} {x : Stream} {m : Mapping} {pa : Nat} {env : Env} {c : Context}
    (ht : translate s x.ctx (x.addrAt true x.rpos).1 false = (s1, .ok m)) (hm : m.at (x.addrAt true x.rpos).1 = .dev pa)
    (hc : ctxOf s x.ctx = some c) (hl : c.lost = false)
    (hbad : ∃ g ∈ granulesOf pa (txnOf x true m x.rpos x.total).1, g ∈ s.mem.poison ∨ stackOut s (64 * g) = true ∨ g ∈ env.ue) :
    (∃ c', ctxOf (readTxn s sid x env) x.ctx = some c' ∧ c'.lost = true ∧ c'.lossCause = 1) ∧
      ∀ id o, findOp s id = some o → o.ctx = x.ctx → ∃ u, findOp (readTxn s sid x env) id = some u ∧ u.done.isSome = true := by
  rw [readTxn_dev env ht hm]
  obtain ⟨xl, rfl⟩ := translate_eq ht
  generalize (txnOf x true m x.rpos x.total).2 = k
  generalize (txnOf x true m x.rpos x.total).1 = n at hbad ⊢
  obtain ⟨rs, hmem⟩ := reading_mem { s with xlate := xl } sid x pa k n
  have hread := afloat_reading { s with xlate := xl } sid x pa k n
  generalize reading { s with xlate := xl } sid x pa k n = u at hmem hread ⊢
  have hout (a : Nat) : stackOut u a = stackOut s a := by
    rw [stackOut, inCellar, cellarEnd, stackOf, hmem]
    rfl
  obtain ⟨t, g, bs, hpa, hsame⟩ := readPa_meets (s := u) (env := env) .dev (some x.ctx) (pa := pa) (n := n) (by
    obtain ⟨g, hg, hb⟩ := hbad
    exact ⟨g, hg, by rw [hout, hmem]; exact hb⟩)
  rw [hpa]
  dsimp only
  obtain ⟨ss, ds, ws, htake⟩ := takeBytes_frame t sid x (t.mem.data.read pa (64 * g - pa))
  have hbears : Bears s (poisonMet (takeBytes t sid x (t.mem.data.read pa (64 * g - pa))) sid x) := by
    refine Bears.trans (.of_afloat (hsame.trans (hread.trans rfl))) (Bears.trans ?_ (.poisonMet ..))
    rw [htake]
    exact .of_eq rfl rfl
  have hpoison : streamPoison s (takeBytes t sid x (t.mem.data.read pa (64 * g - pa))) sid x (64 * g) 0 =
      poisonRead s (poisonMet (takeBytes t sid x (t.mem.data.read pa (64 * g - pa))) sid x) x.ctx (64 * g) := rfl
  rw [hpoison]
  generalize poisonMet (takeBytes t sid x (t.mem.data.read pa (64 * g - pa))) sid x = v at hbears ⊢
  obtain ⟨hlost, hgo⟩ := hbears
  obtain ⟨hloses, hends⟩ := poisonRead_loses (s0 := s) (pa := 64 * g) ((hlost x.ctx).trans (by rw [lostOf, hc, Option.map_some, hl]))
  refine ⟨hloses, fun id o ho hctx => ?_⟩
  obtain ⟨f, hfind, hf⟩ := hgo.findOp id
  exact hends id (f o) (by rw [hfind, ho]; rfl) ((hf o).ctx.trans hctx)

/-- Settles O38: a served transaction moves its bytes between memory and its stream, or ends as its fault or poison says; the
grants that let it through change the arbiters alone. -/
theorem streamTransactionsMoveBytes : Obligations.StreamTransactionsMoveBytes := by
  unfold Obligations.StreamTransactionsMoveBytes
  intro s sid env x o hx ho
  refine ⟨fun s1 m pa hs ht hm hout => ?_, fun s1 c hs ht => ?_, fun hs => ⟨fun s1 c ht => ?_, fun s1 m ht => ⟨fun pa hm hclean => ?_,
    fun pa c hm hc hl hbad => ?_, fun a hm => ?_⟩⟩⟩
  · obtain ⟨c, hexec⟩ := execStreamTransaction_eq env hx hs
    obtain ⟨xl, rfl⟩ := translate_eq ht
    rw [if_neg Bool.false_ne_true, writeTxn_dev env ht hm hout] at hexec
    obtain ⟨hdata, hfind, hwin, hpan, hfuse⟩ := stored_moves (s := { s with xlate := xl }) env pa (txnOf x false m x.pos x.writeLimit).2
      (txnOf x false m x.pos x.writeLimit).1 hx
    exact ⟨_, hexec, hdata, hfind, hwin, hpan, hfuse⟩
  · obtain ⟨c', hexec⟩ := execStreamTransaction_eq env hx hs
    obtain ⟨xl, rfl⟩ := translate_eq ht
    rw [if_neg Bool.false_ne_true, writeTxn_fault env ht] at hexec
    obtain ⟨y, hy, hpend, hpos, -, hmem⟩ := setFault_spec (s := { s with xlate := xl }) true c (x.addrAt false x.pos).1 hx
    exact ⟨_, y, hexec, hy, hpend, hpos, hmem⟩
  · obtain ⟨c', hexec⟩ := execStreamTransaction_eq env hx hs
    obtain ⟨xl, rfl⟩ := translate_eq ht
    rw [if_pos rfl, readTxn_fault env ht] at hexec
    obtain ⟨y, hy, hpend, hpos, hstate, hmem⟩ := setFault_spec (s := { s with xlate := xl }) false c (x.addrAt true x.rpos).1 hx
    exact ⟨_, y, hexec, hy, hpend, hpos, hstate.trans (txnServed_runs hs), hmem⟩
  · obtain ⟨c', hexec⟩ := execStreamTransaction_eq env hx hs
    rw [if_pos rfl, readTxn_dev env ht hm] at hexec
    obtain ⟨xl, rfl⟩ := translate_eq ht
    generalize (txnOf x true m x.rpos x.total).2 = k at hexec
    generalize (txnOf x true m x.rpos x.total).1 = n at hclean hexec ⊢
    obtain ⟨rs, hmem⟩ := reading_mem { s with xlate := xl } sid x pa k n
    have hclean' : CleanRead (reading { s with xlate := xl } sid x pa k n) env pa n :=
      cleanRead_of_mem (congrArg Mem.poison hmem :) (congrArg Mem.stkUp hmem :) (congrArg Mem.stacksIn hmem :) hclean
    have hbytes : (reading { s with xlate := xl } sid x pa k n).mem.data.read pa n = s.mem.data.read pa n := by rw [hmem]
    rw [readPa_clean hclean', hbytes] at hexec
    obtain ⟨hdata, hpois, hpan, hcopy, hfeed, himage⟩ := reading_delivers (s := { s with xlate := xl }) pa k n (s.mem.data.read pa n) hx
    refine ⟨_, hexec, hdata, hpois, hpan, fun hk => ⟨(hcopy hk).1, (hcopy hk).2.trans ?_⟩, hfeed, himage⟩
    rw [gained, length_read]
    rfl
  · obtain ⟨c', hexec⟩ := execStreamTransaction_eq env hx hs
    rw [if_pos rfl] at hexec
    obtain ⟨⟨d, hd, hlost, hcause⟩, hends⟩ := readTxn_poison (sid := sid) ht hm hc hl hbad
    exact ⟨_, d, hexec, hd, hlost, hcause, fun hctx => hends _ o ho hctx⟩
  · obtain ⟨c', hexec⟩ := execStreamTransaction_eq env hx hs
    obtain ⟨k, hk⟩ := readTxn_host env ht hm
    obtain ⟨xl, rfl⟩ := translate_eq ht
    rw [if_pos rfl, hk] at hexec
    obtain ⟨a', ds, htake⟩ := takeTxn_frame { s with xlate := xl } sid x k true
    obtain ⟨ss, hss⟩ := modStream_frame { s with xlate := xl, corr := { s.corr with aud := a' } } sid unheld
    have hhost : (takeTxn { s with xlate := xl } sid x k true).host = s.host := by rw [htake, hss]
    have hout : (takeTxn { s with xlate := xl } sid x k true).out = s.out := by rw [htake, hss]
    have hfind := findStream_takeTxn (s := { s with xlate := xl }) k true hx
    refine ⟨_, hexec, ?_, ?_, hfind, ?_⟩
    · exact congrArg (fun h : HostIf => h.reqs ++ [_]) hhost
    · exact congrArg (· ++ [_]) hout
    · exact (congrArg Mem.data (mem_takeTxn ..) :)

end Sys2Proof.Machine


/-!
Doors that train, fail and recover (R397 to R402, R407, R408, R435, R438): the obligation O48.
-/

namespace Sys2Proof.Machine

open Sys2Proof

/-! ### Training (R397 to R400) -/

theorem raiseEvent3_evSeq (s : State) (type ctx a0 a1 a2 : Nat) : (raiseEvent3 s type ctx a0 a1 a2).evSeq = s.evSeq + 1 := by
  unfold raiseEvent3
  dsimp only
  split
  · exact raiseVec_evSeq ..
  · split <;> rfl

theorem audOf_of_quiet {s t : State} (h : quiet t = quiet s) (q : Nat) : audOf t q = audOf s q := (congrArg (audOf · q) h :)

theorem audOf_grantCred (s : State) (d code n : Nat) : (audOf (grantCred s d code n) 8).take = (audOf s 8).take + BitVec.ofNat 32 n := by
  rw [grantCred, audOf_audTake, if_pos rfl]
  rfl

/-- A Door that opens grants its partner all its buffers (R400). -/
theorem audOf_openDoor (s : State) (d : Nat) : (audOf (openDoor s d) 8).take = (audOf s 8).take + 640 := by
  unfold openDoor
  dsimp only
  rw [audOf_of_quiet (quiet_raiseEvent ..)]
  have hmod (u : State) (f : Door → Door) : audOf (modDoor u d f) 8 = audOf u 8 := rfl
  rw [hmod]
  simp only [List.foldl_cons, List.foldl_nil, audOf_grantCred, BitVec.add_assoc]
  rfl

theorem evSeq_openDoor (s : State) (d : Nat) : (openDoor s d).evSeq = s.evSeq + 1 := by
  unfold openDoor
  dsimp only
  have hgrant := foldl_keeps (g := fun s code => grantCred s d code (vcBuf (code / 2))) State.evSeq (fun _ _ => rfl) [2, 3, 0, 1, 4, 5] s
  have hmod (u : State) (f : Door → Door) : (modDoor u d f).evSeq = u.evSeq := rfl
  rw [raiseEvent_evSeq, hmod, hgrant]

theorem peer_grantCred (s : State) (d code n : Nat) : (doorOf (grantCred s d code n) d).peer = (doorOf s d).peer := by
  have h : doorOf (grantCred s d code n) d = { doorOf s d with
      dcGiven := bankMod (doorOf s d).dcGiven 0 (code / 2) (· + BitVec.ofNat 32 n),
      owed := bankMod (doorOf s d).owed 0 code (· + n) } := doorOf_modDoor_same ..
  rw [h]

theorem peer_openDoor (s : State) (d : Nat) : (doorOf (openDoor s d) d).peer = (doorOf s d).peer := by
  unfold openDoor
  dsimp only
  rw [doorOf_of_quiet (quiet_raiseEvent ..), doorOf_modDoor_same]
  exact foldl_keeps (g := fun s code => grantCred s d code (vcBuf (code / 2))) (fun u : State => (doorOf u d).peer)
    (fun u code => peer_grantCred u d code _) [2, 3, 0, 1, 4, 5] s

/-- What R399 does to a TRAINED Door. -/
theorem tryOpen_trained {s : State} {d : Nat} {tp : Topo} (ht : s.link.topo = some tp) (hd : (doorOf s d).state = .trained) :
    (doorOf (tryOpen s d) d).peer = (doorOf s d).peer ∧ (tryOpen s d).evSeq = s.evSeq + 1 ∧
      if tp.expected s.nodeId.toNat d = some (doorOf s d).peer.toNat
      then (doorOf (tryOpen s d) d).state = .open_ ∧ (audOf (tryOpen s d) 8).take = (audOf s 8).take + 640
      else (doorOf (tryOpen s d) d).state = .trained ∧ (doorOf (tryOpen s d) d).flags = (doorOf s d).flags ||| 2 := by
  unfold tryOpen
  rw [ht]
  dsimp only
  rw [if_pos hd]
  by_cases he : tp.expected s.nodeId.toNat d = some (doorOf s d).peer.toNat
  · rw [if_pos he, if_pos he]
    exact ⟨peer_openDoor s d, evSeq_openDoor s d, openDoor_state s d, audOf_openDoor s d⟩
  · rw [if_neg he, if_neg he, doorOf_of_quiet (quiet_raiseEvent3 ..), doorOf_modDoor_same]
    exact ⟨rfl, raiseEvent3_evSeq .., hd, rfl⟩

/-- A Door whose training has ended (R397). -/
def trainedAs (peer : Half) (x : Door) : Door := { x with state := .trained, peer := peer, linkDue := true, retry := false }

theorem execDoorTrained_eq {s : State} {d : Fin 16} {peer : Half} (hp : powered s = true) (hx : (doorOf s d.val).state = .training) :
    exec (.doorTrained d peer) s = .next (if isReady s then tryOpen (modDoor s d.val (trainedAs peer)) d.val
      else modDoor s d.val (trainedAs peer)) := by
  refine congrArg Host.Outcome.next ((if_pos (by simp [hp, hx])).trans ?_)
  rfl

theorem tryOpen_others (s : State) (d : Nat) (peer : Half) {k : Nat} (hk : k ≠ d) :
    doorOf (tryOpen (modDoor s d (trainedAs peer)) d) k = doorOf s k :=
  (doorOf_tryOpen_other _ hk).trans (doorOf_modDoor_other s _ hk)

/-! ### A Door that goes DOWN (R435, R436) -/

/-- While requests fail and messages find other routes, no request is added, no fuse blown, and a Door keeps its flags and credits. -/
structure Drains (s t : State) : Prop where
  reqs : ∀ r ∈ t.link.reqs, r ∈ s.link.reqs
  doors : ∀ d, (doorOf t d).flags = (doorOf s d).flags ∧ (doorOf t d).dcGiven = (doorOf s d).dcGiven ∧
    (doorOf t d).dcBack = (doorOf s d).dcBack

namespace Drains

theorem refl (s : State) : Drains s s := ⟨fun _ h => h, fun _ => ⟨rfl, rfl, rfl⟩⟩

theorem trans {s t u : State} (h : Drains s t) (k : Drains t u) : Drains s u :=
  ⟨fun r hr => h.reqs r (k.reqs r hr), fun d => ⟨(k.doors d).1.trans (h.doors d).1, (k.doors d).2.1.trans (h.doors d).2.1,
    (k.doors d).2.2.trans (h.doors d).2.2⟩⟩

theorem of_link {s t : State} (h : t.link.doors = s.link.doors) (hr : ∀ r ∈ t.link.reqs, r ∈ s.link.reqs) : Drains s t :=
  ⟨hr, fun d => by rw [doorOf_congr h]; exact ⟨rfl, rfl, rfl⟩⟩

theorem of_bystanders {s t : State} (h : bystanders t = bystanders s) : Drains s t := by
  have hl : t.link = s.link := congrArg Prod.fst h
  exact .of_link (congrArg Link.doors hl) fun r hr => hl ▸ hr

theorem of_quiet {s t : State} (h : quiet t = quiet s) : Drains s t := .of_bystanders (bystanders_of_quiet h)

theorem modDoor (s : State) (d : Nat) {f : Door → Door} (hf : ∀ x, (f x).flags = x.flags ∧ (f x).dcGiven = x.dcGiven ∧ (f x).dcBack = x.dcBack) :
    Drains s (Machine.modDoor s d f) :=
  ⟨fun _ h => h, fun e => by
    by_cases he : e = d
    · subst he
      rw [doorOf_modDoor_same]
      exact hf _
    · rw [doorOf_modDoor_other s f he]
      exact ⟨rfl, rfl, rfl⟩⟩

theorem foldl {α : Type} {g : State → α → State} (hg : ∀ s a, Drains s (g s a)) : ∀ (l : List α) (s : State), Drains s (l.foldl g s)
  | [], s => refl s
  | a :: l, s => (hg s a).trans (foldl hg l _)

theorem countOvr (s : State) (dst : Nat) : Drains s (countOvr s dst) := by
  unfold Machine.countOvr
  split
  · split
    · exact .of_link rfl fun _ h => h
    · exact refl s
  · exact refl s

theorem goAlt (s : State) (a b : Nat) : Drains s (goAlt s a b) := by
  unfold Machine.goAlt
  split
  · exact refl s
  · exact (of_quiet (quiet_raiseEvent ..)).trans (modDoor _ a fun _ => ⟨rfl, rfl, rfl⟩)

theorem routeOf (s : State) (dst : Nat) (arrival : Option (Nat × Nat)) : Drains s (routeOf s dst arrival).1 := by
  unfold Machine.routeOf
  split
  · exact refl s
  · have h := countOvr s dst
    dsimp only
    split
    · exact h
    · split
      · exact h
      · split
        · dsimp only
          split
          · exact h.trans (goAlt ..)
          · exact h
        · exact h

theorem enqueue (s : State) (d lane : Nat) (m : Msg) : Drains s (enqueue s d lane m) := modDoor s d fun _ => ⟨rfl, rfl, rfl⟩

theorem deliver (s : State) (d code : Nat) (flits : List Nat) (m : Msg) : Drains s (deliver s d code flits m) := of_link rfl fun _ h => h

theorem sendMsg (s : State) (m : Msg) : Drains s (sendMsg s m).1 := by
  have hr := routeOf s m.dst none
  unfold Machine.sendMsg
  split
  next e => rw [e] at hr; exact hr.trans (deliver ..)
  next u d lane e =>
    rw [e] at hr
    split
    · split
      · exact hr.trans (of_link rfl fun _ h => h)
      · exact (hr.trans (modDoor u d (f := fun x => { x with onAlt := false }) fun _ => ⟨rfl, rfl, rfl⟩)).trans (enqueue ..)
    · exact hr.trans (enqueue ..)
  next e => rw [e] at hr; exact hr

theorem reqTimedOut (s : State) (tag : Nat) (r : RemReq) : Drains s (reqTimedOut s tag r) ∧ ∀ q ∈ (reqTimedOut s tag r).link.reqs, q.tag ≠ tag := by
  have hreqs : (Machine.reqTimedOut s tag r).link.reqs = s.link.reqs.filter (fun q => q.tag ≠ tag) :=
    eq_of_view quiet (fun u : State => u.link.reqs) (fun _ => rfl) (quiet_raiseEvent ..)
  refine ⟨⟨fun q hq => List.mem_of_mem_filter (hreqs ▸ hq), ?_⟩, fun q hq => ?_⟩
  · have h := (of_link (s := s) (t := dropReq s tag) rfl fun q hq => List.mem_of_mem_filter hq).trans
      (modDoor (dropReq s tag) ((r.door.orElse (fun _ => primaryDoor (dropReq s tag) r.msg.dst)).getD 0)
        (f := fun x => { x with toutCnt := x.toutCnt + 1 }) fun _ => ⟨rfl, rfl, rfl⟩)
    intro d
    have hd := h.doors d
    have hq : doorOf (Machine.reqTimedOut s tag r) d = _ := doorOf_of_quiet (quiet_raiseEvent ..) d
    rw [hq]
    exact hd
  · rw [hreqs] at hq
    exact of_decide_eq_true (List.mem_filter.mp hq).2

theorem failReq (s : State) (tag : Nat) : Drains s (failReq s tag) ∧ ∀ q ∈ (failReq s tag).link.reqs, q.tag ≠ tag := by
  rw [failReq_eq]
  split
  next hnone =>
    exact ⟨refl s, fun q hq => by simpa using List.find?_eq_none.mp hnone q hq⟩
  next r _ =>
    obtain ⟨hd, htag⟩ := reqTimedOut s tag r
    generalize Machine.reqTimedOut s tag r = u at hd htag
    have hend {t : State} (h : bystanders t = bystanders u) : Drains s t ∧ ∀ q ∈ t.link.reqs, q.tag ≠ tag := by
      have hl : t.link = u.link := congrArg Prod.fst h
      exact ⟨hd.trans (of_bystanders h), fun q hq => htag q (hl ▸ hq)⟩
    split
    · split
      · exact hend (bystanders_endOp ..)
      · exact ⟨hd, htag⟩
    · split
      · exact hend ((bystanders_raiseQueueVec ..).trans (bystanders_dropSignal ..))
      · exact hend (bystanders_dropSignal ..)
    · exact hend (bystanders_endOp ..)

theorem failMsg (s : State) (m : Msg) : Drains s (failMsg s m) := by
  unfold Machine.failMsg
  split
  · exact (failReq ..).1
  · exact refl s

theorem sendHeld (s : State) (e : Nat × Msg) : Drains s (sendHeld s e) := by
  have h := sendMsg s e.2
  unfold Machine.sendHeld
  split
  next hs => rw [hs] at h; exact h
  next hs => rw [hs] at h; exact h.trans (failMsg ..)

theorem releaseHeld (s : State) : Drains s (releaseHeld s) := by
  have h : Drains s { s with link := { s.link with held := [] } } := of_link rfl fun _ h => h
  exact h.trans (foldl sendHeld s.link.held _)

theorem reroute (s : State) (m : Msg) : Drains s (reroute s m) := by
  have hr := routeOf s m.dst none
  unfold Machine.reroute
  split
  next e => rw [e] at hr; exact hr.trans (enqueue ..)
  next e => rw [e] at hr; exact hr.trans (deliver ..)
  next e => rw [e] at hr; exact hr.trans (failMsg ..)

/-- Every request of a list of TAGs has failed. -/
theorem failReqs (tags : List Nat) : ∀ s : State, Drains s (tags.foldl Machine.failReq s) ∧
    ∀ r ∈ (tags.foldl Machine.failReq s).link.reqs, r.tag ∉ tags := by
  induction tags with
  | nil => exact fun s => ⟨refl s, fun r _ => List.not_mem_nil⟩
  | cons a tags ih =>
    intro s
    obtain ⟨hfail, hgone⟩ := failReq s a
    obtain ⟨hrest, hout⟩ := ih (Machine.failReq s a)
    refine ⟨hfail.trans hrest, fun r hr hm => ?_⟩
    rcases List.mem_cons.mp hm with h | h
    · exact hgone r (hrest.reqs r hr) h
    · exact hout r hr h

end Drains

theorem dcLevel_backCred (s : State) (d v u : Nat) : dcLevel (doorOf (backCred s d v (dcLevel (doorOf s d) v).toNat) d) u =
    if u = v then 0 else dcLevel (doorOf s d) u := by
  have hdoor : doorOf (backCred s d v (dcLevel (doorOf s d) v).toNat) d = { doorOf s d with
      dcBack := bankMod (doorOf s d).dcBack 0 v (· + BitVec.ofNat 32 (dcLevel (doorOf s d) v).toNat) } := doorOf_modDoor_same ..
  rw [hdoor]
  split
  next h =>
    subst h
    rw [dcLevel, bankGet_mod_same, dcLevel, BitVec.ofNat_toNat, BitVec.setWidth_eq]
    bv_omega
  next h => rw [dcLevel, bankGet_mod_other _ _ _ h]; rfl

/-- The credits of a Door returned, VC by VC (R435). -/
def creditless (s : State) (d : Nat) : State := [0, 1, 2].foldl (fun s v => backCred s d v (dcLevel (doorOf s d) v).toNat) s

theorem dcLevel_creditless (s : State) (d : Nat) {v : Nat} (hv : v < 3) : dcLevel (doorOf (creditless s d) d) v = 0 := by
  simp only [creditless, List.foldl_cons, List.foldl_nil]
  have h0 := dcLevel_backCred s d 0
  generalize backCred s d 0 (dcLevel (doorOf s d) 0).toNat = a at h0 ⊢
  have h1 := dcLevel_backCred a d 1
  generalize backCred a d 1 (dcLevel (doorOf a d) 1).toNat = b at h1 ⊢
  rw [dcLevel_backCred b d 2, h1, h0]
  obtain rfl | rfl | rfl : v = 0 ∨ v = 1 ∨ v = 2 := by omega
  all_goals rfl

/-- A Door as R435 leaves it before its messages find other routes. -/
def fallen (x : Door) : Door := { x with
  txCred := [], sendQ := [], partTx := [], replay := [], nextSeq := 0, expSeq := 0, nakSent := false, sendNak := false,
  rxBuf := [], rxFlits := [], owed := [], rspFirst := false, linkDue := false, onAlt := false }

/-- A Door marked DOWN. -/
def downed (x : Door) : Door := { x with state := .down, flags := x.flags ||| 1 }

/-- The part when a Door has been cleared and marked DOWN, with its event. -/
def doorLost (s : State) (d cause : Nat) : State :=
  raiseEvent (modDoor (modDoor { creditless s d with
    link := { (creditless s d).link with inbox := (creditless s d).link.inbox.filter (fun e => e.door ≠ d) } } d fallen) d downed) 0x41 noCtx d cause

theorem downDoor_eq (s : State) (d cause : Nat) : downDoor s d cause =
    releaseHeld (([2, 3, 4, 5, 0, 1].flatMap (fun code => bankGet (doorOf s d).sendQ [] code)).foldl reroute
      (((s.link.reqs.filter (fun r => r.door = some d)).map (·.tag)).foldl failReq (doorLost s d cause))) := rfl

theorem workless_creditless (s : State) (d : Nat) : workless (creditless s d) = workless s :=
  foldl_keeps (g := fun u v => backCred u d v (dcLevel (doorOf u d) v).toNat) workless (fun _ _ => rfl) [0, 1, 2] s

theorem reqs_creditless (s : State) (d : Nat) : (creditless s d).link.reqs = s.link.reqs :=
  foldl_keeps (g := fun u v => backCred u d v (dcLevel (doorOf u d) v).toNat) (fun u : State => u.link.reqs) (fun _ _ => rfl) [0, 1, 2] s

theorem doorOf_doorLost (s : State) (d cause : Nat) : doorOf (doorLost s d cause) d = downed (fallen (doorOf (creditless s d) d)) := by
  unfold doorLost
  rw [doorOf_of_quiet (quiet_raiseEvent ..), doorOf_modDoor_same, doorOf_modDoor_same]
  rfl

theorem reqs_doorLost (s : State) (d cause : Nat) : (doorLost s d cause).link.reqs = s.link.reqs :=
  (eq_of_view quiet (fun u : State => u.link.reqs) (fun _ => rfl) (quiet_raiseEvent ..)).trans (reqs_creditless s d)

theorem workless_doorLost (s : State) (d cause : Nat) : workless (doorLost s d cause) = workless s := by
  unfold doorLost
  rw [workless_raiseEvent, workless_modDoor, workless_modDoor]
  exact (show workless _ = workless (creditless s d) from rfl).trans (workless_creditless s d)

/-- What a Door's fall leaves (R435, R436). -/
theorem downDoor_falls (s : State) (d cause : Nat) : (doorOf (downDoor s d cause) d).state = .down ∧
    (doorOf (downDoor s d cause) d).sendQ = [] ∧ (doorOf (downDoor s d cause) d).replay = [] ∧
    (doorOf (downDoor s d cause) d).flags.getLsbD 0 = true ∧ (∀ r ∈ (downDoor s d cause).link.reqs, r.door ≠ some d) ∧
    (∀ v < 3, dcLevel (doorOf (downDoor s d cause) d) v = 0) ∧ workless (downDoor s d cause) = workless s := by
  have hlost := doorOf_doorLost s d cause
  have hreqs := reqs_doorLost s d cause
  have hwork := workless_doorLost s d cause
  rw [downDoor_eq]
  generalize [2, 3, 4, 5, 0, 1].flatMap (fun code => bankGet (doorOf s d).sendQ [] code) = unsent
  generalize doorLost s d cause = u at hlost hreqs hwork
  obtain ⟨hfail, hgone⟩ := Drains.failReqs ((s.link.reqs.filter (fun r => r.door = some d)).map (·.tag)) u
  have hrfail := Routes.foldl routes_failReq ((s.link.reqs.filter (fun r => r.door = some d)).map (·.tag)) u
  have hwfail := foldl_keeps workless workless_failReq ((s.link.reqs.filter (fun r => r.door = some d)).map (·.tag)) u
  generalize ((s.link.reqs.filter (fun r => r.door = some d)).map (·.tag)).foldl failReq u = v at hfail hgone hrfail hwfail
  have hrest := (Drains.foldl Drains.reroute unsent v).trans (.releaseHeld _)
  have hroutes := hrfail.trans ((Routes.foldl routes_reroute unsent v).trans (routes_releaseHeld _))
  have hwrest := (workless_releaseHeld _).trans (foldl_keeps workless workless_reroute unsent v)
  generalize releaseHeld (unsent.foldl reroute v) = t at hrest hroutes hwrest
  obtain ⟨hst, hrep, hq⟩ := hroutes.doors d
  obtain ⟨hfl, hgive, hback⟩ := (hfail.trans hrest).doors d
  rw [hlost] at hst hrep hq hfl hgive hback
  refine ⟨hst, hq nofun, hrep, ?_, fun r hr hdoor => ?_, fun v hv => ?_, hwrest.trans (hwfail.trans hwork)⟩
  · rw [hfl, downed, BitVec.getLsbD_or]
    simp
  · have hold : r ∈ s.link.reqs := hreqs ▸ hfail.reqs r (hrest.reqs r hr)
    exact hgone r (hrest.reqs r hr) (List.mem_map_of_mem (List.mem_filter.mpr ⟨hold, decide_eq_true hdoor⟩))
  · rw [dcLevel, hgive, hback]
    exact dcLevel_creditless s d hv

/-! ### Retraining and degradation (R408, R438) -/

/-- A Door whose retraining has failed. -/
def retrainFailed (x : Door) : Door := { x with state := .down, retrains := x.retrains + 1, retry := false }

/-- A Door out of service. -/
def disabledDoor (x : Door) : Door := { x with state := .disabled }

theorem execDoorRetrain_fails {s : State} {d : Fin 16} (hg : (powered s && (decide ((doorOf s d.val).state = .down) ||
    (decide ((doorOf s d.val).state = .training) && (doorOf s d.val).retry))) = true) :
    exec (.doorRetrain d true) s = .next (if 3 ≤ (doorOf s d.val).retrains + 1 then
      addFrec (raiseEvent (modDoor (modDoor s d.val retrainFailed) d.val disabledDoor) 0x43 noCtx d.val 0) 17 0 d.val d.val 0 noCtx
      else modDoor s d.val retrainFailed) :=
  congrArg Host.Outcome.next ((if_pos hg).trans (if_pos rfl))

/-- Settles O48: each event of a Door writes that Door; what the others see of it are requests that fail and messages that go
another way. -/
theorem doorsTrainFailAndRecover : Obligations.DoorsTrainFailAndRecover := by
  unfold Obligations.DoorsTrainFailAndRecover
  intro s d x hp hx
  subst hx
  refine ⟨fun peer hst => ?_, fun cause hst hcause => ?_, fun hst => ?_, fun hst => ?_, fun rate hst => ?_⟩
  · refine ⟨_, execDoorTrained_eq hp hst, ?_⟩
    have hdoor : doorOf (modDoor s d.val (trainedAs peer)) d.val = trainedAs peer (doorOf s d.val) := doorOf_modDoor_same ..
    cases hr : isReady s with
    | false =>
      rw [if_neg Bool.false_ne_true, hdoor]
      refine ⟨rfl, fun k hk => doorOf_modDoor_other s _ hk, rfl, ?_⟩
      split
      · rfl
      · exact rfl
    | true =>
      rw [if_pos rfl]
      have hmem : (tryOpen (modDoor s d.val (trainedAs peer)) d.val).mem = s.mem :=
        (eq_of_view doorless State.mem (fun _ => rfl) (doorless_tryOpen (modDoor s d.val (trainedAs peer)) d.val) :)
      cases ht : s.link.topo with
      | none =>
        have hsame : tryOpen (modDoor s d.val (trainedAs peer)) d.val = modDoor s d.val (trainedAs peer) := by
          rw [tryOpen, show (modDoor s d.val (trainedAs peer)).link.topo = none from ht]
        rw [hsame, hdoor]
        exact ⟨rfl, fun k hk => doorOf_modDoor_other s _ hk, rfl, rfl⟩
      | some tp =>
        obtain ⟨hpeer, hseq, hopen⟩ := tryOpen_trained (s := modDoor s d.val (trainedAs peer)) (d := d.val) ht (by rw [hdoor]; rfl)
        rw [hdoor] at hpeer hopen
        dsimp only
        rw [if_pos rfl]
        exact ⟨hpeer, fun k hk => tryOpen_others s d.val peer hk, hmem, hopen, hseq⟩
  · obtain ⟨hstate, hq, hrep, hfl, hreqs, hcred, hwork⟩ := downDoor_falls s d.val cause.val
    refine ⟨_, congrArg Host.Outcome.next (if_pos ?_), hstate, hq, hrep, hfl, hreqs, hcred, ?_, ?_⟩
    · rcases hcause with h | h | ⟨h, g, hg, hge⟩
      · simp [hp, hst, h]
      · simp [hp, hst, h]
      · simpa [hp, hst, h] using ⟨g.1, g.2, hg, hge⟩
    · exact (congrArg (fun u : State => u.mem.data) hwork :)
    · exact (congrArg State.fuses hwork :)
  · refine ⟨_, congrArg Host.Outcome.next ((if_pos (by simp [hp, hst])).trans (if_neg Bool.false_ne_true)), doorOf_modDoor_same ..,
      fun k hk => doorOf_modDoor_other s _ hk, rfl⟩
  · refine ⟨_, execDoorRetrain_fails (by simp [hp, hst]), ?_⟩
    by_cases hlast : 2 ≤ (doorOf s d.val).retrains
    · rw [if_pos (by omega), if_pos hlast]
      generalize hu : modDoor (modDoor s d.val retrainFailed) d.val disabledDoor = u
      have hq := quiet_raiseEvent u 0x43 noCtx d.val 0
      have hrec := unrecorded_addFrec (raiseEvent u 0x43 noCtx d.val 0) 17 0 d.val d.val 0 noCtx
      have happ := addFrec_appends (s := raiseEvent u 0x43 noCtx d.val 0) 17 0 d.val d.val 0 noCtx
      have hnvm : (raiseEvent u 0x43 noCtx d.val 0).nvm = s.nvm := by rw [raiseEvent_nvm, ← hu]; rfl
      have hlink : (addFrec (raiseEvent u 0x43 noCtx d.val 0) 17 0 d.val d.val 0 noCtx).link = u.link :=
        (congrArg State.link hrec :).trans (congrArg State.link hq :)
      have hdoor (k : Nat) : doorOf (addFrec (raiseEvent u 0x43 noCtx d.val 0) 17 0 d.val d.val 0 noCtx) k = doorOf u k :=
        doorOf_congr (congrArg Link.doors hlink) k
      have hown : doorOf u d.val = disabledDoor (retrainFailed (doorOf s d.val)) := by
        rw [← hu, doorOf_modDoor_same, doorOf_modDoor_same]
      refine ⟨?_, fun k hk => ?_, ?_, ?_, fun hroom => ?_⟩
      · rw [hdoor, hown]
        rfl
      · rw [hdoor, ← hu, doorOf_modDoor_other _ _ hk, doorOf_modDoor_other _ _ hk]
      · rw [addFrec_mem, raiseEvent_mem, ← hu]
        rfl
      · rw [hdoor, hown]
        rfl
      · obtain ⟨-, e, he, hkind, hindex⟩ := happ (hnvm ▸ hroom)
        exact ⟨e, hnvm ▸ he, hkind, hindex⟩
    · rw [if_neg (by omega), if_neg hlast, doorOf_modDoor_same]
      exact ⟨rfl, fun k hk => doorOf_modDoor_other s _ hk, rfl, rfl⟩
  · refine ⟨_, congrArg Host.Outcome.next (if_pos (by simp [hp, hst])), ?_⟩
    by_cases hhigh : 100000 < rate.toNat
    · have hlow : ¬ rate.toNat < 100000 := by omega
      rw [if_pos hhigh, if_neg hlow]
      cases hdeg : (doorOf s d.val).degraded with
      | true =>
        rw [if_pos rfl, if_pos (.inr rfl)]
        exact ⟨fun _ _ => rfl, rfl, rfl⟩
      | false =>
        have hreport : ¬ (rate.toNat = 100000 ∨ false = true) := by simp; omega
        rw [if_neg Bool.false_ne_true, if_neg hreport]
        refine ⟨fun k hk => (doorOf_of_quiet (quiet_raiseEvent ..) k).trans (doorOf_modDoor_other s _ hk), ?_, ?_, raiseEvent_evSeq ..⟩
        · exact raiseEvent_mem ..
        · exact (doorOf_of_quiet (quiet_raiseEvent ..) d.val).trans (doorOf_modDoor_same ..)
    · rw [if_neg hhigh]
      by_cases hlow : rate.toNat < 100000
      · rw [if_pos hlow, if_pos hlow]
        exact ⟨fun k hk => doorOf_modDoor_other s _ hk, rfl, doorOf_modDoor_same .., rfl⟩
      · rw [if_neg hlow, if_neg hlow, if_pos (.inl (by omega : rate.toNat = 100000))]
        exact ⟨fun _ _ => rfl, rfl, rfl⟩

end Sys2Proof.Machine


/-!
Flits (R398, R401, R403 to R406, R409, R413): the obligation O49.
-/

namespace Sys2Proof.Machine

open Sys2Proof

/-! ### Flits that are sent (R403, R405, R409) -/

/-- The credits of VC v that a flit of Door x can return on a lane: RSP first (R400). -/
def owedOn (x : Door) (v l : Nat) : Nat := if x.rspFirst && decide (v ≠ 1) then 0 else min 255 (bankGet x.owed 0 (2 * v + l))

/-- The lane whose credits the next flit of Door x returns. -/
def credLane (x : Door) : Nat := if [0, 1, 2].any (fun v => decide (0 < owedOn x v 0)) then 0 else 1

/-- The flit that a Door sends next with a VC, lane and payload. -/
def nextFlit (x : Door) (vc lane : Nat) (null : Bool) (payload : List Byte) : Flit :=
  { vc := vc, lane := lane, nak := x.sendNak, null := null, seq := x.nextSeq, ack := (x.expSeq + 4095) % 4096,
    cret := [owedOn x 0 (credLane x), owedOn x 1 (credLane x), owedOn x 2 (credLane x)], clane := credLane x, payload := payload }

/-- The credits that a Door owes after its next flit. -/
def owedLeft (x : Door) : Bank Nat := [0, 1, 2].foldl (fun (b : Bank Nat) v => bankMod b 0 (2 * v + credLane x) (· -
  [owedOn x 0 (credLane x), owedOn x 1 (credLane x), owedOn x 2 (credLane x)].getD v 0)) x.owed

/-- A Door that has sent a flit. -/
def flitSent (f : Flit) (left : Bank Nat) (x : Door) : Door := { x with
  nextSeq := (x.nextSeq + 1) % 4096, sendNak := false, replay := x.replay ++ [(f, 0)], txFlit := x.txFlit + 1, owed := left,
  rspFirst := x.rspFirst && decide (bankGet left 0 2 + bankGet left 0 3 ≠ 0) }

theorem sendFlit_eq (s : State) (d vc lane : Nat) (null : Bool) (payload : List Byte) : sendFlit s d vc lane null payload =
    emit (audPass (modDoor s d (flitSent (nextFlit (doorOf s d) vc lane null payload) (owedLeft (doorOf s d)))) 9 32)
      (.flit d (nextFlit (doorOf s d) vc lane null payload)) := rfl

theorem doorOf_emit_audPass (s : State) (o : Out) (q n e : Nat) : doorOf (emit (audPass s q n) o) e = doorOf s e := rfl

/-- What sending a flit does. -/
theorem sendFlit_sends (s : State) (d vc lane : Nat) (null : Bool) (payload : List Byte) :
    (sendFlit s d vc lane null payload).out = s.out ++ [.flit d (nextFlit (doorOf s d) vc lane null payload)] ∧
      doorOf (sendFlit s d vc lane null payload) d =
        flitSent (nextFlit (doorOf s d) vc lane null payload) (owedLeft (doorOf s d)) (doorOf s d) ∧
      (∀ k, k ≠ d → doorOf (sendFlit s d vc lane null payload) k = doorOf s k) ∧ (sendFlit s d vc lane null payload).mem = s.mem := by
  rw [sendFlit_eq]
  refine ⟨rfl, ?_, fun k hk => ?_, rfl⟩
  · rw [doorOf_emit_audPass, doorOf_modDoor_same]
  · rw [doorOf_emit_audPass, doorOf_modDoor_other _ _ hk]

theorem fillFlit_frame (d code : Nat) (n : Nat) : ∀ (s : State) (x : Door) (pay : List Byte) (cred : Nat) (st : List Msg),
    ∃ c, (fillFlit d code n s x pay cred st).1 = { s with corr := c } := by
  induction n with
  | zero => exact fun s _ _ _ _ => ⟨s.corr, rfl⟩
  | succ n ih =>
    intro s x pay cred st
    rw [fillFlit]
    dsimp only
    split
    · exact ⟨s.corr, rfl⟩
    · split
      · exact ⟨s.corr, rfl⟩
      next c m _ =>
        obtain ⟨k, hk⟩ := ih (arbTake s (doorPlace d (code / 2)) 2 c (code % 2) _ _) _ _ _ _
        exact ⟨k, hk⟩

/-- Messages begun mark their requests alone (R430). -/
theorem markSent_frame (d : Nat) (ms : List Msg) : ∀ s : State, ∃ rs, ms.foldl (markSent d) s = { s with link := { s.link with reqs := rs } } := by
  induction ms with
  | nil => exact fun s => ⟨s.link.reqs, rfl⟩
  | cons m ms ih =>
    intro s
    obtain ⟨qs, hq⟩ : ∃ qs, markSent d s m = { s with link := { s.link with reqs := qs } } := by
      unfold markSent
      split
      · exact ⟨_, rfl⟩
      · split
        · exact ⟨_, rfl⟩
        · exact ⟨s.link.reqs, rfl⟩
    obtain ⟨rs, hr⟩ := ih (markSent d s m)
    exact ⟨rs, by rw [List.foldl_cons, hr, hq]⟩

/-- A Door whose lane has given bytes to a flit: the messages begun leave its queue, a credit is used. -/
def laneSent (code : Nat) (left : List Byte) (ms : List Msg) (x : Door) : Door := { x with
  sendQ := bankMod x.sendQ [] code (fun q => ms.foldl (fun q m => q.erase m) q),
  partTx := bankPut x.partTx code left, txCred := bankMod x.txCred 0 code (· - 1) }

theorem txCred_laneSent (f : Flit) (owed : Bank Nat) (code : Nat) (left : List Byte) (ms : List Msg) (x : Door) :
    bankGet (flitSent f owed (laneSent code left ms x)).txCred 0 code = bankGet x.txCred 0 code - 1 := bankGet_mod_same x.txCred 0 code (· - 1)

/-- The part as a lane's flit is sent: grants counted, messages taken from the queue, their requests marked. -/
theorem sendLane_eq {s : State} {d code : Nat} {y : Door} {o cred : Nat} (h : laneStart y code = some (o, cred)) :
    ∃ u, doorOf u d = laneSent code ((fillFlit d code ((bankGet y.sendQ [] code).length + 1) s y (bankGet y.partTx [] code) cred []).2.1.drop 240)
        (fillFlit d code ((bankGet y.sendQ [] code).length + 1) s y (bankGet y.partTx [] code) cred []).2.2 (doorOf s d) ∧
      u.out = s.out ∧ u.mem = s.mem ∧
      sendLane s d code y = sendFlit u d (code / 2) (code % 2) false
        ((fillFlit d code ((bankGet y.sendQ [] code).length + 1) s y (bankGet y.partTx [] code) cred []).2.1.take 240) := by
  have hunfold : sendLane s d code y = match laneStart y code with
      | none => s
      | some (_, cred) =>
        sendFlit ((fillFlit d code ((bankGet y.sendQ [] code).length + 1) s y (bankGet y.partTx [] code) cred []).2.2.foldl (markSent d)
          (modDoor (fillFlit d code ((bankGet y.sendQ [] code).length + 1) s y (bankGet y.partTx [] code) cred []).1 d
            (laneSent code ((fillFlit d code ((bankGet y.sendQ [] code).length + 1) s y (bankGet y.partTx [] code) cred []).2.1.drop 240)
              (fillFlit d code ((bankGet y.sendQ [] code).length + 1) s y (bankGet y.partTx [] code) cred []).2.2)))
          d (code / 2) (code % 2) false
          ((fillFlit d code ((bankGet y.sendQ [] code).length + 1) s y (bankGet y.partTx [] code) cred []).2.1.take 240) := rfl
  rw [hunfold, h]
  dsimp only
  obtain ⟨c, hc⟩ := fillFlit_frame d code ((bankGet y.sendQ [] code).length + 1) s y (bankGet y.partTx [] code) cred []
  generalize fillFlit d code ((bankGet y.sendQ [] code).length + 1) s y (bankGet y.partTx [] code) cred [] = r at hc ⊢
  rw [hc]
  obtain ⟨rs, hr⟩ := markSent_frame d r.2.2 (modDoor { s with corr := c } d (laneSent code (r.2.1.drop 240) r.2.2))
  refine ⟨_, ?_, ?_, ?_, rfl⟩
  · rw [hr]
    exact (doorOf_modDoor_same { s with corr := c } d _).trans rfl
  · rw [hr]
    rfl
  · rw [hr]
    rfl

theorem maySend_up {s : State} {d : Nat} (hp : powered s = true) (hst : (doorOf s d).state = .open_ ∨ (doorOf s d).state = .trained)
    (hroom : (doorOf s d).replay.length < 512) : maySend s d = true := by
  simp [maySend, hp, hst, hroom]

/-- A Door whose LINK flit is on its way. -/
def linkSent (x : Door) : Door := { x with linkDue := false }

theorem execFlitTransmit_link {s : State} {d : Fin 16} (hm : maySend s d.val = true) (hl : (doorOf s d.val).linkDue = true) :
    exec (.flitTransmit d) s = .next (sendLink s d.val) :=
  congrArg Host.Outcome.next ((if_neg (by rw [hm]; exact Bool.false_ne_true)).trans (if_pos hl))

theorem execFlitTransmit_lane {s : State} {d : Fin 16} {code : Nat} (hm : maySend s d.val = true) (hl : (doorOf s d.val).linkDue = false)
    (ho : (doorOf s d.val).state = .open_) (hpick : pickLane s d.val (sendable s d.val (doorOf s d.val)) = some code) :
    exec (.flitTransmit d) s = .next (sendLane s d.val code (sendable s d.val (doorOf s d.val))) := by
  refine congrArg Host.Outcome.next ((if_neg (by rw [hm]; exact Bool.false_ne_true)).trans
    ((if_neg (by rw [hl]; exact Bool.false_ne_true)).trans ((if_pos (decide_eq_true ho)).trans ?_)))
  rw [hpick]

theorem execNullFlitTimer_link {s : State} {d : Fin 16} (hm : maySend s d.val = true)
    (hl : ((doorOf s d.val).linkDue || !(doorOpen s d.val)) = true) : exec (.nullFlitTimer d) s = .next (sendLink s d.val) :=
  congrArg Host.Outcome.next ((if_neg (by rw [hm]; exact Bool.false_ne_true)).trans (if_pos hl))

theorem execNullFlitTimer_null {s : State} {d : Fin 16} (hm : maySend s d.val = true) (hl : (doorOf s d.val).linkDue = false)
    (ho : (doorOf s d.val).state = .open_) (hpick : pickLane s d.val (sendable s d.val (doorOf s d.val)) = none) :
    exec (.nullFlitTimer d) s = .next (sendFlit s d.val 3 0 true []) := by
  have hopen : doorOpen s d.val = true := decide_eq_true ho
  refine congrArg Host.Outcome.next ((if_neg (by rw [hm]; exact Bool.false_ne_true)).trans
    ((if_neg (by rw [hl, hopen]; exact Bool.false_ne_true)).trans (if_neg ?_)))
  rw [hpick]
  exact Bool.false_ne_true

/-! ### Flits that arrive (R404 to R406) -/

/-- What the receiver of a Door counts. -/
def counts (x : Door) : Word × Word × Nat × Word × Bool := (x.fecCorr, x.fecUnc, x.expSeq, x.rxFlit, x.nakSent)

/-- A Door's receive buffer of a VC lane after a flit: the bytes of a message begun, and the flits that hold them. -/
def buffered (code : Nat) (left : List Byte) (rest : List Nat) (x : Door) : Door :=
  { x with rxBuf := bankPut x.rxBuf code left, rxFlits := bankPut x.rxFlits code rest, rxIx := x.rxIx + 1 }

/-- Messages handed over leave memory, contexts and what receivers count. -/
structure Passes (s t : State) : Prop where
  mem : t.mem = s.mem
  ctxs : t.ctxs = s.ctxs
  doors : ∀ e, counts (doorOf t e) = counts (doorOf s e)

namespace Passes

theorem refl (s : State) : Passes s s := ⟨rfl, rfl, fun _ => rfl⟩

theorem trans {s t u : State} (h : Passes s t) (k : Passes t u) : Passes s u :=
  ⟨k.mem.trans h.mem, k.ctxs.trans h.ctxs, fun e => (k.doors e).trans (h.doors e)⟩

theorem of_doors {s t : State} (hm : t.mem = s.mem) (hc : t.ctxs = s.ctxs) (hd : t.link.doors = s.link.doors) : Passes s t :=
  ⟨hm, hc, fun e => by rw [doorOf_congr hd]⟩

theorem of_quiet {s t : State} (h : quiet t = quiet s) : Passes s t :=
  .of_doors (eq_of_view quiet State.mem (fun _ => rfl) h) (eq_of_view quiet State.ctxs (fun _ => rfl) h)
    (eq_of_view quiet (fun u : State => u.link.doors) (fun _ => rfl) h)

theorem modDoor (s : State) (d : Nat) {f : Door → Door} (hf : ∀ x, counts (f x) = counts x) : Passes s (Machine.modDoor s d f) :=
  ⟨rfl, rfl, fun e => by
    by_cases he : e = d
    · subst he
      rw [doorOf_modDoor_same]
      exact hf _
    · rw [doorOf_modDoor_other s f he]⟩

theorem foldl {α : Type} {g : State → α → State} (hg : ∀ s a, Passes s (g s a)) : ∀ (l : List α) (s : State), Passes s (l.foldl g s)
  | [], s => refl s
  | a :: l, s => (hg s a).trans (foldl hg l _)

theorem countOvr (s : State) (dst : Nat) : Passes s (countOvr s dst) := by
  unfold Machine.countOvr
  split
  · split
    · exact .of_doors rfl rfl rfl
    · exact refl s
  · exact refl s

theorem goAlt (s : State) (a b : Nat) : Passes s (goAlt s a b) := by
  unfold Machine.goAlt
  split
  · exact refl s
  · exact (of_quiet (quiet_raiseEvent ..)).trans (modDoor _ a fun _ => rfl)

theorem routeOf (s : State) (dst : Nat) (arrival : Option (Nat × Nat)) : Passes s (routeOf s dst arrival).1 := by
  unfold Machine.routeOf
  split
  · exact refl s
  · have h := countOvr s dst
    dsimp only
    split
    · exact h
    · split
      · exact h
      · split
        · dsimp only
          split
          · exact h.trans (goAlt ..)
          · exact h
        · exact h

theorem arrive (d code : Nat) (s : State) (e : List Nat × Msg) : Passes s (arrive d code s e) := by
  have hr := routeOf s e.2.dst (some (d, code % 2))
  unfold Machine.arrive
  split
  next h => rw [h] at hr; exact hr.trans (of_doors rfl rfl rfl)
  next h => rw [h] at hr; exact hr.trans (modDoor _ _ fun _ => rfl)
  next h => rw [h] at hr; exact hr

theorem grantCred (s : State) (d code n : Nat) : Passes s (grantCred s d code n) :=
  ⟨rfl, rfl, fun e => by
    by_cases he : e = d
    · subst he
      have h : doorOf (Machine.grantCred s e code n) e = { doorOf s e with
          dcGiven := bankMod (doorOf s e).dcGiven 0 (code / 2) (· + BitVec.ofNat 32 n),
          owed := bankMod (doorOf s e).owed 0 code (· + n) } := doorOf_modDoor_same ..
      rw [h]
      rfl
    · rw [doorOf_grantCred_other s code n he]⟩

theorem backCred (s : State) (d v n : Nat) : Passes s (backCred s d v n) :=
  ⟨rfl, rfl, fun e => by
    by_cases he : e = d
    · subst he
      have h : doorOf (Machine.backCred s e v n) e = { doorOf s e with
          dcBack := bankMod (doorOf s e).dcBack 0 v (· + BitVec.ofNat 32 n) } := doorOf_modDoor_same ..
      rw [h]
      rfl
    · exact congrArg counts (doorOf_modDoor_other s _ he)⟩

theorem freeFlits (s : State) (d code : Nat) (ids : List Nat) : Passes s (freeFlits s d code ids) := by
  unfold Machine.freeFlits
  dsimp only
  split
  · exact refl s
  · exact grantCred ..

theorem handOver (s : State) (d code : Nat) (f : Flit) (credit : Bool) : Passes s (handOver s d code f credit) := by
  unfold Machine.handOver
  dsimp only
  have hdoor (left : List Byte) (rest : List Nat) : Passes s (Machine.modDoor s d (buffered code left rest)) := modDoor s d fun _ => rfl
  exact (hdoor ..).trans ((foldl (arrive d code) _ _).trans (freeFlits ..))

theorem takeLink (s : State) (d : Nat) (f : Flit) : Passes s (takeLink s d f) := by
  unfold Machine.takeLink
  split
  · exact refl s
  · exact modDoor s d fun _ => rfl

theorem doReplay (s : State) (d : Nat) : Passes s (doReplay s d) := by
  have hemit := foldl (g := fun u (f : Flit × Nat) => emit u (.flit d f.1)) (fun u a => of_doors rfl rfl rfl) (doorOf s d).replay s
  unfold Machine.doReplay
  dsimp only
  split
  · exact hemit
  · exact hemit.trans (modDoor _ d fun _ => rfl)

end Passes

/-- A Door that has taken the flit it expected. -/
def flitTaken (x : Door) : Door := { x with expSeq := (x.expSeq + 1) % 4096, nakSent := false, rxFlit := x.rxFlit + 1 }

/-- The part before a taken flit's content is looked at. -/
def acked (s : State) (d : Nat) (f : Flit) : State :=
  if f.nak then doReplay (takeAck (modDoor s d flitTaken) d f) d else takeAck (modDoor s d flitTaken) d f

theorem acceptFlit_eq (s : State) (d : Nat) (f : Flit) : acceptFlit s d f =
    if f.vc = 3 then takeLink (acked s d f) d f
    else if doorOpen (acked s d f) d then handOver (backCred (acked s d f) d f.vc 1) d (2 * f.vc + f.lane) f true
    else handOver (acked s d f) d (2 * f.vc + f.lane) f false := rfl

theorem passes_acked (s : State) (d : Nat) (f : Flit) : Passes (modDoor s d flitTaken) (acked s d f) := by
  have hack : Passes (modDoor s d flitTaken) (takeAck (modDoor s d flitTaken) d f) := .modDoor _ d fun _ => rfl
  unfold acked
  split
  · exact hack.trans (.doReplay ..)
  · exact hack

theorem passes_acceptFlit (s : State) (d : Nat) (f : Flit) : Passes (modDoor s d flitTaken) (acceptFlit s d f) := by
  have h := passes_acked s d f
  rw [acceptFlit_eq]
  split
  · exact h.trans (.takeLink ..)
  · split
    · exact h.trans ((Passes.backCred ..).trans (.handOver ..))
    · exact h.trans (.handOver ..)

/-- What looking at ACK, NAK and credits leaves of a Door's receiver and of the messages that have arrived. -/
theorem acked_keeps (s : State) (d : Nat) (f : Flit) : (doorOf (acked s d f) d).state = (doorOf s d).state ∧
    (doorOf (acked s d f) d).rxBuf = (doorOf s d).rxBuf ∧ (doorOf (acked s d f) d).rxIx = (doorOf s d).rxIx ∧
    (acked s d f).link.inbox = s.link.inbox ∧ (acked s d f).link.topo = s.link.topo ∧ (acked s d f).nodeId = s.nodeId := by
  have hack : doorOf (takeAck (modDoor s d flitTaken) d f) d = _ := doorOf_modDoor_same ..
  rw [doorOf_modDoor_same] at hack
  unfold acked
  split
  · unfold doReplay
    dsimp only
    have hemit (l : List (Flit × Nat)) : ∀ u : State, ∃ o, l.foldl (fun u f => emit u (.flit d f.1)) u = { u with out := o } := by
      induction l with
      | nil => exact fun u => ⟨u.out, rfl⟩
      | cons a l ih =>
        intro u
        obtain ⟨o, ho⟩ := ih (emit u (.flit d a.1))
        exact ⟨o, ho⟩
    obtain ⟨o, ho⟩ := hemit (doorOf (takeAck (modDoor s d flitTaken) d f) d).replay (takeAck (modDoor s d flitTaken) d f)
    rw [ho]
    have hdoor : doorOf { takeAck (modDoor s d flitTaken) d f with out := o } d = doorOf (takeAck (modDoor s d flitTaken) d f) d := rfl
    split
    · rw [hdoor, hack]
      exact ⟨rfl, rfl, rfl, rfl, rfl, rfl⟩
    · rw [doorOf_modDoor_same, hdoor, hack]
      exact ⟨rfl, rfl, rfl, rfl, rfl, rfl⟩
  · rw [hack]
    exact ⟨rfl, rfl, rfl, rfl, rfl, rfl⟩

theorem inbox_freeFlits (s : State) (d code : Nat) (ids : List Nat) : (freeFlits s d code ids).link.inbox = s.link.inbox := by
  unfold freeFlits
  dsimp only
  split <;> rfl

/-- A flit that holds one whole message for this node delivers it (R406). -/
theorem handOver_delivers {s : State} {d code : Nat} {f : Flit} {m : Msg} (ht : s.link.topo = none) (hm : m.dst = s.nodeId.toNat)
    (hb : bankGet (doorOf s d).rxBuf [] code = []) (hs : splitMsgs 240 f.payload = ([m], [])) :
    (handOver s d code f true).link.inbox = s.link.inbox ++ [⟨d, code, [(doorOf s d).rxIx], m⟩] := by
  unfold handOver
  dsimp only
  rw [inbox_freeFlits, hb, List.nil_append, hs]
  have harrive (u : State) (hu : u.link.topo = none) (hn : u.nodeId = s.nodeId) (ids : List Nat) :
      (arrive d code u (ids, m)).link.inbox = u.link.inbox ++ [⟨d, code, ids, m⟩] := by
    unfold arrive
    rw [routeOf, hu]
    dsimp only
    rw [hn, if_pos hm]
    rfl
  simp only [List.zipIdx_cons, List.zipIdx_nil, List.map_cons, List.map_nil, List.foldl_cons, List.foldl_nil]
  refine (harrive _ ?_ ?_ _).trans ?_
  · exact ht
  · rfl
  · rfl

theorem topo_backCred (s : State) (d v n : Nat) : (backCred s d v n).link.topo = s.link.topo ∧ (backCred s d v n).nodeId = s.nodeId ∧
    (backCred s d v n).link.inbox = s.link.inbox := ⟨rfl, rfl, rfl⟩

theorem doorOf_backCred (s : State) (d v n : Nat) : (doorOf (backCred s d v n) d).rxBuf = (doorOf s d).rxBuf ∧
    (doorOf (backCred s d v n) d).rxIx = (doorOf s d).rxIx := by
  have h : doorOf (backCred s d v n) d = { doorOf s d with dcBack := bankMod (doorOf s d).dcBack 0 v (· + BitVec.ofNat 32 n) } :=
    doorOf_modDoor_same ..
  rw [h]
  exact ⟨rfl, rfl⟩

/-- What a taken flit hands over (R398, R406). -/
theorem acceptFlit_hands (s : State) (d : Nat) (f : Flit) : (f.vc = 3 → (acceptFlit s d f).link.inbox = s.link.inbox) ∧
    ∀ m, f.vc ≠ 3 → (doorOf s d).state = .open_ → s.link.topo = none → m.dst = s.nodeId.toNat →
      bankGet (doorOf s d).rxBuf [] (2 * f.vc + f.lane) = [] → splitMsgs 240 f.payload = ([m], []) →
      (acceptFlit s d f).link.inbox = s.link.inbox ++ [⟨d, 2 * f.vc + f.lane, [(doorOf s d).rxIx], m⟩] := by
  obtain ⟨hstate, hbuf, hix, hinbox, htopo, hnode⟩ := acked_keeps s d f
  rw [acceptFlit_eq]
  generalize acked s d f = u at hstate hbuf hix hinbox htopo hnode
  refine ⟨fun hv => ?_, fun m hv ho ht hm hb hs => ?_⟩
  · rw [if_pos hv]
    unfold takeLink
    split
    · exact hinbox
    · exact hinbox
  · obtain ⟨hbt, hbn, hbi⟩ := topo_backCred u d f.vc 1
    obtain ⟨hbb, hbx⟩ := doorOf_backCred u d f.vc 1
    have hopen : doorOpen u d = true := decide_eq_true (hstate.trans ho)
    rw [if_neg hv, if_pos hopen, handOver_delivers (hbt.trans (htopo.trans ht)) (by rw [hbn, hnode]; exact hm) (by rw [hbb, hbuf]; exact hb) hs,
      hbi, hbx, hinbox, hix]

/-- A Door that has counted its codewords (Table 11.10). -/
def fecCounted (corr unc : Nat) (x : Door) : Door :=
  { x with fecCorr := x.fecCorr + BitVec.ofNat 32 corr, fecUnc := x.fecUnc + BitVec.ofNat 32 unc }

theorem doorOf_countFec (s : State) (d corr unc : Nat) : doorOf (countFec s d corr unc) d = fecCounted corr unc (doorOf s d) :=
  doorOf_modDoor_same ..

/-- A Door that has refused a flit. -/
def naked (x : Door) : Door := if x.nakSent then x else { x with nakSent := true, sendNak := true }

theorem naked_eq (x : Door) : naked x = { x with nakSent := true, sendNak := (naked x).sendNak } := by
  unfold naked
  cases h : x.nakSent with
  | true =>
    rw [if_pos rfl, ← h]
  | false => rfl

theorem doorOf_discardFlit (s : State) (d : Nat) : doorOf (discardFlit s d) d = naked (doorOf s d) := doorOf_modDoor_same ..

/-- A Door that has counted a bad CRC. -/
def crcCounted (x : Door) : Door := { x with crcCnt := x.crcCnt + 1, flags := x.flags ||| 4 }

theorem execFlitReceive_eq {s : State} {d : Fin 16} (corr unc : Nat) (bytes : List Byte) (hp : powered s = true)
    (hst : (doorOf s d.val).state = .open_ ∨ (doorOf s d.val).state = .trained) :
    exec (.flitReceive d corr unc bytes) s = .next (match parseFlit bytes with
      | none => discardFlit (modDoor (countFec s d.val corr unc) d.val crcCounted) d.val
      | some f => if f.seq = (doorOf s d.val).expSeq then acceptFlit (audPass (countFec s d.val corr unc) 9 32) d.val f
        else discardFlit (countFec s d.val corr unc) d.val) := by
  refine congrArg Host.Outcome.next ((if_pos ?_).trans rfl)
  simp [hp, hst]

/-- Settles O49: a received flit is refused or taken by its SEQ, and a sent one is the Door's next, kept for replay. -/
theorem flitsAreCheckedAndSent : Obligations.FlitsAreCheckedAndSent := by
  unfold Obligations.FlitsAreCheckedAndSent
  intro s d x hp hx
  subst hx
  refine ⟨fun corr unc bytes hst => ?_, fun hroom => ⟨fun y code o cred hy hl hst hpick hstart => ?_, fun c hc => ?_, fun hst hl hpick => ?_⟩⟩
  · refine ⟨_, execFlitReceive_eq corr unc bytes hp hst, ?_⟩
    have hfec := doorOf_countFec s d.val corr unc
    cases hparse : parseFlit bytes with
    | none =>
      have hdoor : doorOf (discardFlit (modDoor (countFec s d.val corr unc) d.val crcCounted) d.val) d.val =
          naked (crcCounted (fecCounted corr unc (doorOf s d.val))) := by rw [doorOf_discardFlit, doorOf_modDoor_same, hfec]
      dsimp only
      rw [hdoor, naked_eq]
      exact ⟨rfl, rfl, rfl, rfl, fun _ => ⟨rfl, rfl, rfl, rfl, rfl⟩, nofun, nofun⟩
    | some f =>
      dsimp only
      by_cases hseq : f.seq = (doorOf s d.val).expSeq
      · rw [if_pos hseq]
        have hpass := passes_acceptFlit (audPass (countFec s d.val corr unc) 9 32) d.val f
        obtain ⟨hlink, hhand⟩ := acceptFlit_hands (audPass (countFec s d.val corr unc) 9 32) d.val f
        have haud (u : State) : doorOf (audPass u 9 32) d.val = doorOf u d.val := rfl
        rw [haud, hfec] at hhand
        have hcounts := hpass.doors d.val
        rw [doorOf_modDoor_same, haud, hfec] at hcounts
        generalize acceptFlit (audPass (countFec s d.val corr unc) 9 32) d.val f = t at hpass hlink hhand hcounts ⊢
        obtain ⟨hcorr, hunc, hexp, hrx, hnak⟩ : (doorOf t d.val).fecCorr = (doorOf s d.val).fecCorr + BitVec.ofNat 32 corr ∧
            (doorOf t d.val).fecUnc = (doorOf s d.val).fecUnc + BitVec.ofNat 32 unc ∧
            (doorOf t d.val).expSeq = ((doorOf s d.val).expSeq + 1) % 4096 ∧ (doorOf t d.val).rxFlit = (doorOf s d.val).rxFlit + 1 ∧
            (doorOf t d.val).nakSent = false := by
          simpa only [counts, flitTaken, fecCounted, Prod.mk.injEq] using hcounts
        refine ⟨hpass.mem, hpass.ctxs, hcorr, hunc, nofun, fun g hg hne => ?_, fun g hg _ => ?_⟩
        · cases hg
          exact absurd hseq hne
        · cases hg
          exact ⟨hexp, hrx, hnak, hlink, hhand⟩
      · rw [if_neg hseq, doorOf_discardFlit, hfec, naked_eq]
        refine ⟨rfl, rfl, rfl, rfl, nofun, fun g hg hne => ⟨rfl, rfl, rfl, rfl⟩, fun g hg he => ?_⟩
        cases hg
        exact absurd he hseq
  · subst hy
    obtain ⟨u, hdoor, hout, hmem, hlane⟩ := sendLane_eq (s := s) (d := d.val) hstart
    obtain ⟨hsent, hown, -, hkept⟩ := sendFlit_sends u d.val (code / 2) (code % 2) false
      ((fillFlit d.val code ((bankGet (sendable s d.val (doorOf s d.val)).sendQ [] code).length + 1) s (sendable s d.val (doorOf s d.val))
        (bankGet (sendable s d.val (doorOf s d.val)).partTx [] code) cred []).2.1.take 240)
    rw [← hlane] at hsent hown hkept
    rw [hdoor] at hsent hown
    refine ⟨_, _, execFlitTransmit_lane (maySend_up hp (.inl hst) hroom) hl hst hpick, hsent.trans (by rw [hout]), rfl, rfl, rfl, rfl, rfl, ?_,
      ?_, ?_, ?_, hkept.trans hmem⟩
    · rw [hown]
      rfl
    · rw [hown]
      rfl
    · rw [hown]
      rfl
    · rw [hown]
      exact txCred_laneSent ..
  · have hexec : exec c s = .next (sendLink s d.val) := by
      rcases hc with ⟨rfl, hst, hl⟩ | ⟨rfl, hst⟩
      · exact execFlitTransmit_link (maySend_up hp hst hroom) hl
      · rcases hst with hst | ⟨hst, hl⟩
        · exact execNullFlitTimer_link (maySend_up hp (.inr hst) hroom) (by simp [doorOpen, hst])
        · exact execNullFlitTimer_link (maySend_up hp (.inl hst) hroom) (by simp [hl])
    have hdoor : doorOf (modDoor s d.val linkSent) d.val = linkSent (doorOf s d.val) := doorOf_modDoor_same ..
    obtain ⟨hsent, hown, hothers, hkept⟩ := sendFlit_sends (modDoor s d.val linkSent) d.val 3 0 false (linkIdentity s d.val)
    rw [hdoor] at hsent hown
    exact ⟨_, _, hexec, hsent, rfl, rfl, rfl, rfl, congrArg Door.replay hown, congrArg Door.linkDue hown,
      fun k hk => (hothers k hk).trans (doorOf_modDoor_other _ _ hk), hkept⟩
  · obtain ⟨hsent, hown, hothers, hkept⟩ := sendFlit_sends s d.val 3 0 true []
    exact ⟨_, _, execNullFlitTimer_null (maySend_up hp (.inl hst) hroom) hl hst hpick, hsent, rfl, rfl, rfl, rfl, rfl,
      congrArg Door.replay hown, congrArg Door.nextSeq hown, hothers, hkept⟩

end Sys2Proof.Machine

/-!
Temperature sensing and the thermal policy (R187 to R197, R478 to R486): what a period does to each sensor, what the policy leaves alone
beyond its own registers, and what a trip ends.
-/

namespace Sys2Proof.Machine

open Sys2Proof

/-! ### A channel's period (R187 to R193) -/

theorem sensorOf_putSensor (s : State) (n k : Nat) (x : Sensor) : sensorOf (putSensor s n x) k = if k = n then x else sensorOf s k :=
  bankGet_put ..

theorem sensorOf_putSensor_same (s : State) (n : Nat) (x : Sensor) : sensorOf (putSensor s n x) n = x :=
  (sensorOf_putSensor ..).trans (if_pos rfl)

/-- A state without its events, records and audit, and without sensors and their counters: what a channel's period can change. -/
def unsensed (s : State) : State := { unrecorded s with
  thermo := { s.thermo with sensors := [], flags := 0, openCnt := 0 }, corr := { s.corr with aud := [] } }

/-- A change of sensor n, with its events and entries. -/
structure Senses (n : Nat) (s t : State) : Prop where
  same : unsensed t = unsensed s
  others : ∀ k, k ≠ n → sensorOf t k = sensorOf s k

namespace Senses

variable {n : Nat} {s t u : State}

theorem refl (s : State) : Senses n s s := ⟨rfl, fun _ _ => rfl⟩

theorem trans (h : Senses n s t) (k : Senses n t u) : Senses n s u :=
  ⟨k.same.trans h.same, fun i hi => (k.others i hi).trans (h.others i hi)⟩

theorem of_unrecorded (h : unrecorded t = unrecorded s) : Senses n s t where
  same := congrArg (fun u : State => ({ u with
    thermo := { u.thermo with sensors := [], flags := 0, openCnt := 0 }, corr := { u.corr with aud := [] } } : State)) h
  others k _ := eq_of_view unrecorded (fun u => sensorOf u k) (fun _ => rfl) h

theorem raiseEvent (s : State) (type ctx a0 a1 : Nat) : Senses n s (raiseEvent s type ctx a0 a1) :=
  .of_unrecorded (congrArg unrecorded (quiet_raiseEvent s type ctx a0 a1) :)

theorem addFrec (s : State) (kind unit index cause paddr ctx : Nat) : Senses n s (addFrec s kind unit index cause paddr ctx) :=
  .of_unrecorded (unrecorded_addFrec ..)

theorem putSensor (s : State) (n : Nat) (x : Sensor) : Senses n s (putSensor s n x) :=
  ⟨rfl, fun _ h => (sensorOf_putSensor ..).trans (if_neg h)⟩

theorem counters (s : State) (flags : BitVec 6) (openCnt : Word) :
    Senses n s { s with thermo := { s.thermo with flags := flags, openCnt := openCnt } } := ⟨rfl, fun _ _ => rfl⟩

theorem ite {p : Prop} [Decidable p] (h : Senses n s t) : Senses n s (if p then t else s) := by
  split
  · exact h
  · exact .refl s

theorem audPass (s : State) (q m : Nat) : Senses n s (audPass s q m) := ⟨rfl, fun _ _ => rfl⟩

theorem writeEstimate (s : State) (n : Nat) : Senses n s (writeEstimate s n) := by
  unfold Machine.writeEstimate
  split
  · exact .putSensor ..
  · exact .refl s

theorem sensorBreak (s : State) (n : Nat) : Senses n s (sensorBreak s n) := by
  unfold Machine.sensorBreak
  exact ((putSensor ..).trans (counters ..)).trans ((raiseEvent ..).trans (addFrec ..))

theorem rangeSet (s : State) (n : Nat) : Senses n s (rangeSet s n) :=
  (putSensor s n _).trans (counters ..)

theorem publish (s : State) (n : Nat) (v : Int) : Senses n s (publish s n v) := by
  unfold Machine.publish
  dsimp only
  generalize (if n < 64 then sensorOf s n else _) = x
  split
  · exact .putSensor ..
  · split
    · exact (putSensor ..).trans (raiseEvent ..)
    · exact .putSensor ..

theorem discard (s : State) (n : Nat) : Senses n s (discard s n) := by
  unfold Machine.discard
  dsimp only
  split
  · split
    · exact (putSensor ..).trans (writeEstimate ..)
    · exact .putSensor ..
  · exact .refl s

theorem channelEnd (reads : List (Nat × SensorRead)) (s : State) (n : Nat) : Senses n s (channelEnd reads s n) := by
  unfold Machine.channelEnd
  extract_lets x r own wire bad s₁ s₂
  split
  · exact .refl s
  · have hrange (u : State) (p : Bool) : Senses n u (if p then Machine.rangeSet u n else u) := ite (rangeSet u n)
    have hbreak (u : State) (p : Bool) : Senses n u (if p then Machine.sensorBreak u n else u) := ite (sensorBreak u n)
    have hs : Senses n s s₂ := (putSensor ..).trans (hrange ..)
    refine hs.trans ?_
    · split
      · split
        · exact (audPass ..).trans ((publish ..).trans (writeEstimate ..))
        · exact (audPass ..).trans (publish ..)
      · split
        · exact .sensorBreak ..
        · exact trans (hbreak _ _) (discard ..)

end Senses

/-- All channels' periods. -/
def allChannels (reads : List (Nat × SensorRead)) (s : State) : State := (List.range 66).foldl (channelEnd reads) s

theorem unsensed_allChannels (reads : List (Nat × SensorRead)) (s : State) : unsensed (allChannels reads s) = unsensed s :=
  foldl_keeps (g := channelEnd reads) unsensed (fun s n => (Senses.channelEnd reads s n).same) _ s

theorem sensorOf_channels_other (reads : List (Nat × SensorRead)) {n : Nat} : ∀ (l : List Nat) (s : State), n ∉ l →
    sensorOf (l.foldl (channelEnd reads) s) n = sensorOf s n
  | [], _, _ => rfl
  | k :: l, s, h => (sensorOf_channels_other reads l _ fun hl => h (List.mem_cons_of_mem _ hl)).trans
      ((Senses.channelEnd reads s k).others n fun e => h (e ▸ List.mem_cons_self ..))

/-- A period serves each sensor once: what it makes of sensor n is what n's own channel makes of it, before which nothing but other
channels' periods has run. -/
theorem sensorOf_allChannels (reads : List (Nat × SensorRead)) (s : State) {n : Nat} (hn : n < 66) :
    ∃ u, sensorOf u n = sensorOf s n ∧ sensorOf (allChannels reads s) n = sensorOf (channelEnd reads u n) n := by
  obtain ⟨l, r, hlr⟩ := List.mem_iff_append.1 (List.mem_range.2 hn)
  have hnd : (l ++ n :: r).Nodup := hlr ▸ List.nodup_range
  obtain ⟨-, hr, hd⟩ := List.nodup_append.1 hnd
  refine ⟨l.foldl (channelEnd reads) s, sensorOf_channels_other reads l s fun h => hd n h n (List.mem_cons_self ..) rfl, ?_⟩
  rw [allChannels, hlr, List.foldl_append, List.foldl_cons]
  exact sensorOf_channels_other reads r _ (List.nodup_cons.1 hr).1

theorem sensorOf_sensorBreak {s : State} {n : Nat} (h : (sensorOf s n).recovering = false) : sensorOf (sensorBreak s n) n =
    { sensorOf s n with open_ := true, valid := false, hold := true, recovering := true, run := 0, lostFor := 0 } := by
  unfold sensorBreak
  dsimp only
  rw [h]
  refine (eq_of_view unrecorded (fun u => sensorOf u n) (fun _ => rfl) (unrecorded_addFrec ..)).trans ?_
  refine (eq_of_view quiet (fun u => sensorOf u n) (fun _ => rfl) (quiet_raiseEvent ..)).trans ?_
  exact sensorOf_putSensor_same ..

/-- An on-die sensor in service whose checks pass takes the value converted, rounded, or breaks where it is out of range (R188, R189). -/
theorem channelEnd_onDie {reads : List (Nat × SensorRead)} {s : State} {n k : Nat} {r : SensorRead} (hn : n < 64)
    (hr : reads.find? (fun e => e.1 = n) = some (k, r)) (hrec : (sensorOf s n).recovering = false) (hest : (sensorOf s n).est = false)
    (hown : (sensorOf s n).chkOk.getD r.ownOk = true) (hwire : r.wireOk = true) :
    (-3276800 ≤ r.val ∧ r.val ≤ 10485760 → (sensorOf (channelEnd reads s n) n).temp = BitVec.ofInt 16 (dieTemp r.val) ∧
      (sensorOf (channelEnd reads s n) n).valid = true) ∧
    (r.val < -3276800 ∨ 10485760 < r.val → (sensorOf (channelEnd reads s n) n).temp = (sensorOf s n).temp ∧
      (sensorOf (channelEnd reads s n) n).valid = false ∧ (sensorOf (channelEnd reads s n) n).hold = true ∧
      (sensorOf (channelEnd reads s n) n).range = true ∧ (sensorOf (channelEnd reads s n) n).recovering = true) := by
  have hon : chanOn n (sensorOf s n) = true := by simp [chanOn, hn]
  unfold channelEnd
  generalize hy : sensorOf s n = y at *
  simp only [hon, hr, Option.map_some, hown, hwire, Bool.not_true, Bool.true_and, Bool.false_eq_true, if_false, Bool.and_true]
  refine ⟨fun hin => ?_, fun hout => ?_⟩
  · have hi : inRange n y r.val = true := by simp [inRange, hn, hin.1, hin.2]
    simp only [hi, Bool.not_true, Bool.not_false, Bool.false_eq_true, if_false, if_true]
    generalize hx : ({ y with chkOk := some true, outRange := false } : Sensor) = x
    have hp : publish (audPass (putSensor s n x) 9 1) n r.val =
        putSensor (audPass (putSensor s n x) 9 1) n { x with temp := tempOf n x r.val, valid := true } := by
      have hs : sensorOf (audPass (putSensor s n x) 9 1) n = x := sensorOf_putSensor_same ..
      unfold publish
      simp only [hs, if_pos hn]
      exact if_pos (by rw [← hx, hrec]; rfl)
    rw [hp, sensorOf_putSensor_same, if_neg (by rw [← hx, hest]; exact Bool.false_ne_true), sensorOf_putSensor_same]
    exact ⟨congrArg (BitVec.ofInt 16) (if_pos hn), rfl⟩
  · have hi : inRange n y r.val = false := by
      simp only [inRange, if_pos hn, Bool.and_eq_false_iff, decide_eq_false_iff_not]
      omega
    simp only [hi, Bool.not_true, Bool.not_false, Bool.false_eq_true, if_false, if_true]
    generalize hx : ({ y with chkOk := some true, outRange := true } : Sensor) = x
    simp only [hrec, Bool.not_false, if_true]
    have hs : sensorOf (rangeSet (putSensor s n x) n) n = { x with range := true } := by
      refine (sensorOf_putSensor_same ..).trans ?_
      rw [sensorOf_putSensor_same]
    rw [sensorOf_sensorBreak (by rw [hs, ← hx]; exact hrec), hs, ← hx]
    exact ⟨rfl, rfl, rfl, rfl, rfl⟩

/-! ### The policy (R478 to R489) -/

/-- A state without its events and alert, and without the throttle's level, its counters and flags: what the policy can change. -/
def unthrottled (s : State) : State := { quiet s with
  alertN := true, power := { s.power with
    thlvl := 0, byTemp := false, byPwr := false, byCool := false, byEst := false, flags := 0, thRaise := 0, sinceChange := 0,
    coolAbove := false } }

theorem unthrottled_raiseEvent (s : State) (type ctx a0 a1 : Nat) : unthrottled (raiseEvent s type ctx a0 a1) = unthrottled s :=
  (congrArg unthrottled (quiet_raiseEvent s type ctx a0 a1) :)

theorem unthrottled_setAlert (s : State) : unthrottled (setAlert s) = unthrottled s := by
  obtain ⟨a, o, h⟩ := setAlert_eq s
  rw [h]
  rfl

theorem unthrottled_setThlvl (s : State) (l : BitVec 3) : unthrottled (setThlvl s l) = unthrottled s := by
  unfold setThlvl
  dsimp only
  split
  · exact (unthrottled_raiseEvent ..).trans rfl
  · split
    · exact (unthrottled_raiseEvent ..).trans rfl
    · rfl

theorem unthrottled_throttleRaise (s : State) : unthrottled (throttleRaise s) = unthrottled s := by
  unfold throttleRaise
  dsimp only
  split
  · exact (unthrottled_setThlvl ..).trans rfl
  · rfl

theorem unthrottled_thermalHot (s : State) (before : Int) : unthrottled (thermalHot s before) = unthrottled s := by
  unfold thermalHot
  dsimp only
  split
  · rw [unthrottled_setAlert, unthrottled_raiseEvent]
    split
    · exact (unthrottled_setThlvl ..).trans rfl
    · rfl
  · rfl

theorem unthrottled_coolantHot (s : State) : unthrottled (coolantHot s) = unthrottled s := by
  unfold coolantHot
  dsimp only
  split
  · exact (unthrottled_raiseEvent ..).trans rfl
  · rfl

theorem power_raiseEvent (s : State) (type ctx a0 a1 : Nat) : (raiseEvent s type ctx a0 a1).power = s.power :=
  eq_of_view quiet State.power (fun _ => rfl) (quiet_raiseEvent ..)

/-- A level set is the level, and a change starts the wait for the next anew (R480, R482). -/
theorem power_setThlvl (s : State) (l : BitVec 3) : (setThlvl s l).power.thlvl = l ∧
    (s.power.thlvl ≠ l → (setThlvl s l).power.sinceChange = 0) := by
  unfold setThlvl
  dsimp only
  split
  · rw [power_raiseEvent]
    exact ⟨rfl, fun h => if_neg h⟩
  · split
    · rw [power_raiseEvent]
      exact ⟨rfl, fun h => if_neg h⟩
    · exact ⟨rfl, fun h => if_neg h⟩

theorem thlvl_throttleRaise (s : State) : (throttleRaise s).power.thlvl =
    if raiseCond s = true ∧ 10 ≤ s.power.sinceChange ∧ s.power.thlvl ≠ 7 then s.power.thlvl + 1 else s.power.thlvl := by
  unfold throttleRaise
  dsimp only
  split
  next h =>
    simp only [Bool.and_eq_true, decide_eq_true_eq] at h
    rw [if_pos ⟨h.1.1, h.1.2, h.2⟩]
    exact (power_setThlvl ..).1
  next h =>
    simp only [Bool.and_eq_true, decide_eq_true_eq] at h
    rw [if_neg fun k => h ⟨⟨k.1, k.2.1⟩, k.2.2⟩]

theorem thlvl_coolantHot (s : State) : (coolantHot s).power.thlvl = s.power.thlvl := by
  unfold coolantHot
  dsimp only
  split
  · rw [power_raiseEvent]
  · rfl

theorem thermalHot_cool {s : State} (h : s.power.tpol.toInt < 12800) (before : Int) : thermalHot s before = s := by
  unfold thermalHot
  rw [if_neg]
  simp only [Bool.and_eq_true, decide_eq_true_eq]
  omega

/-! ### Trips (R486) -/

theorem heaterOf_mapHeaters (f : Heater → Heater) (t : Thermo) {h : Nat} (hh : h < 262144) :
    heaterOf (mapHeaters f t) h = f (heaterOf t h) := by
  unfold heaterOf mapHeaters
  dsimp only
  rw [bankGet_range _ _ (by omega : h / 32768 < 8)]
  exact bankGet_map f _ rfl _

theorem parkAll_parks {s : State} (hn : s.thermo.nvmOk = true) {h : Nat} (hh : h < 262144) :
    (heaterOf (parkAll s).thermo h).out = (heaterOf s.thermo h).park := by
  have ht : heaterOf (parkAll s).thermo h = heaterOf (mapHeaters Heater.parked s.thermo) h := by
    unfold parkAll
    dsimp only
    rw [if_pos hn]
    rfl
  rw [ht, heaterOf_mapHeaters _ _ hh]
  rfl

theorem isSome_done_endOp {s : State} {id k : OpId} {o : Op} (ho : findOp s k = some o) (st : Status) (aborted : Bool) :
    ∃ u, findOp (endOp s id st aborted) k = some u ∧ (o.done.isSome = true ∨ k = id → u.done.isSome = true) := by
  have hops := ops_endOp s id st aborted
  by_cases hk : k = id
  · subst hk
    cases hd : o.done with
    | none => exact ⟨_, findOp_endOp_same ho hd st aborted, fun _ => rfl⟩
    | some d =>
      rw [if_neg (by rw [ho, Option.any_some, hd]; exact Bool.false_ne_true)] at hops
      exact ⟨o, by rw [findOp, hops]; exact ho, fun _ => hd ▸ rfl⟩
  · exact ⟨o, (findOp_endOp_other hk st aborted).trans ho, fun h => h.resolve_right hk⟩

/-- Commands that are ended have a status, and those that had one keep it. -/
theorem isSome_done_endOps (st : Status) (aborted : Bool) {k : OpId} : ∀ (ids : List OpId) {s : State} {o : Op}, findOp s k = some o →
    ∃ u, findOp (endOps st aborted ids s) k = some u ∧ (o.done.isSome = true ∨ k ∈ ids → u.done.isSome = true)
  | [], _, o, h => ⟨o, h, fun hd => hd.resolve_right (List.not_mem_nil)⟩
  | id :: ids, _, o, h => by
    obtain ⟨v, hv, hvd⟩ := isSome_done_endOp (id := id) h st aborted
    obtain ⟨u, hu, hud⟩ := isSome_done_endOps st aborted ids hv
    refine ⟨u, hu, fun hd => hud ?_⟩
    rcases hd with hd | hd
    · exact .inl (hvd (.inl hd))
    · exact (List.mem_cons.1 hd).imp (fun e => hvd (.inr e)) (fun h => h)

/-- The policy's inputs of a period once its channels have run (R478, R479). -/
def periodRead (s : State) (p : Period) : State :=
  policyInputs { s with thermo := { s.thermo with sensCnt := s.thermo.sensCnt + 1 } } p

theorem sinceChange_periodRead (s : State) (p : Period) : (periodRead s p).power.sinceChange = s.power.sinceChange + 1 := rfl

theorem thlvl_periodRead (s : State) (p : Period) : (periodRead s p).power.thlvl = s.power.thlvl := rfl

theorem periodRead_frame (s : State) (p : Period) : (periodRead s p).mem = s.mem ∧ (periodRead s p).windows = s.windows ∧
    (periodRead s p).lamp = s.lamp ∧ ∀ n, sensorOf (periodRead s p) n = sensorOf s n := ⟨rfl, rfl, rfl, fun _ => rfl⟩

theorem sensorPeriod_eq (s : State) (p : Period) : sensorPeriod s p =
    coolantHot (thermalHot (throttleRaise (periodRead (allChannels p.reads s) p)) s.power.tpol.toInt) := by
  unfold sensorPeriod periodRead allChannels
  rfl

theorem unthrottled_sensorPeriod (s : State) (p : Period) : unthrottled (sensorPeriod s p) = unthrottled (periodRead (allChannels p.reads s) p) := by
  rw [sensorPeriod_eq, unthrottled_coolantHot, unthrottled_thermalHot, unthrottled_throttleRaise]

theorem thlvl_sensorPeriod {s : State} {p : Period} (h : (sensorPeriod s p).power.tpol.toInt < 12800) : (sensorPeriod s p).power.thlvl =
    if raiseCond (sensorPeriod s p) = true ∧ 9 ≤ s.power.sinceChange ∧ s.power.thlvl ≠ 7 then s.power.thlvl + 1 else s.power.thlvl := by
  have hcond : raiseCond (sensorPeriod s p) = raiseCond (periodRead (allChannels p.reads s) p) :=
    eq_of_view unthrottled raiseCond (fun _ => rfl) (unthrottled_sensorPeriod s p)
  have htpol : (throttleRaise (periodRead (allChannels p.reads s) p)).power.tpol = (sensorPeriod s p).power.tpol :=
    eq_of_view unthrottled (fun u => u.power.tpol) (fun _ => rfl)
      ((unthrottled_throttleRaise ..).trans (unthrottled_sensorPeriod s p).symm)
  have hpower : (allChannels p.reads s).power = s.power := eq_of_view unsensed State.power (fun _ => rfl) (unsensed_allChannels ..)
  rw [hcond, sensorPeriod_eq, thermalHot_cool (by rw [htpol]; exact h), thlvl_coolantHot, thlvl_throttleRaise, sinceChange_periodRead,
    thlvl_periodRead, hpower]
  simp only [Nat.add_le_add_iff_right (n := 1) (m := 9)]

theorem findOp_of_ops {s t : State} (h : t.ops = s.ops) (id : OpId) : findOp t id = findOp s id := by rw [findOp, h, findOp]

/-- Every command has a status once all are ended. -/
theorem isSome_done_endAll {s : State} {id : OpId} {o : Op} (h : findOp s id = some o) (st : Status) (aborted : Bool) :
    ∃ u, findOp (endOps st aborted (s.ops.map Op.id) s) id = some u ∧ u.done.isSome = true := by
  obtain ⟨u, hu, hd⟩ := isSome_done_endOps st aborted (s.ops.map Op.id) h
  refine ⟨u, hu, hd (.inr ?_)⟩
  rw [← findOp_id h]
  exact List.mem_map_of_mem (List.mem_of_find?_eq_some h)

/-- The Lamp dark and every channel parked, with the commands ended (R486). -/
def darkened (s : State) : State := endOps .aborted false ((parkAll (lampOff s)).ops.map Op.id) (parkAll (lampOff s))

/-- A trip as the part shows it, before its event: Windows OFF, THERMTRIP_N, TRIP and its count. -/
def tripped (s : State) : State := { darkened s with
  windows := (List.range 8).map (fun w => (w, (win (darkened s) w).off))
  thermTripN := false
  power := { (darkened s).power with trip := true, flags := (darkened s).power.flags ||| 4 }
  out := (darkened s).out ++ [.pin "THERMTRIP_N" false]
  nvm := { (darkened s).nvm with frecSum := { (darkened s).nvm.frecSum with tripCnt := (darkened s).nvm.frecSum.tripCnt + 1 } } }

theorem thermalTrip_eq (s : State) (c : Nat) : thermalTrip s c =
    addFrec (setAlert (raiseEvent (tripped s) 0x63 noCtx c 0)) 13 0 0 c 0 noCtx := rfl

theorem endless_darkened (s : State) : endless (darkened s) = endless (parkAll (lampOff s)) := endless_endOps ..

/-- A state without its events, records and alert. -/
def unalerted (s : State) : State := { unrecorded s with alertN := true }

theorem unalerted_thermalTrip (s : State) (c : Nat) : unalerted (thermalTrip s c) = unalerted (tripped s) := by
  rw [thermalTrip_eq]
  refine (congrArg (fun u : State => ({ u with alertN := true } : State)) (unrecorded_addFrec ..) :).trans ?_
  obtain ⟨a, o, h⟩ := setAlert_eq (raiseEvent (tripped s) 0x63 noCtx c 0)
  rw [h]
  exact (congrArg unalerted (quiet_raiseEvent (tripped s) 0x63 noCtx c 0) :)

theorem alertN_setAlert {s : State} (h : s.power.trip = true) : (setAlert s).alertN = false := by
  unfold setAlert
  simp only [h, Bool.true_or, Bool.not_true]
  split
  · rfl
  · exact Bool.eq_false_of_not_eq_true ‹_›

theorem frec_thermalTrip {s : State} (c : Nat) (h : s.nvm.frec.length < 1024) :
    ∃ e, (thermalTrip s c).nvm.frec = s.nvm.frec ++ [e] ∧ e.kind = 13 ∧ e.cause = c := by
  rw [thermalTrip_eq]
  obtain ⟨a, o, ha⟩ := setAlert_eq (raiseEvent (tripped s) 0x63 noCtx c 0)
  have hfrec : (setAlert (raiseEvent (tripped s) 0x63 noCtx c 0)).nvm.frec = s.nvm.frec := by
    rw [ha]
    refine (congrArg Nvm.frec (raiseEvent_nvm ..)).trans ?_
    exact (eq_of_view endless (fun u => u.nvm.frec) (fun _ => rfl) (endless_darkened s)).trans rfl
  refine ⟨_, (congrArg (fun u : State => u.nvm.frec) (if_pos (by rw [hfrec]; exact h))).trans (congrArg (· ++ [_]) hfrec), rfl, rfl⟩

theorem alertN_thermalTrip (s : State) (c : Nat) : (thermalTrip s c).alertN = false := by
  rw [thermalTrip_eq]
  refine (eq_of_view unrecorded State.alertN (fun _ => rfl) (unrecorded_addFrec ..)).trans (alertN_setAlert ?_)
  rw [power_raiseEvent]
  rfl

/-- Settles O47: a period serves each sensor once and the policy sets the level from what it then reads; a trip ends every command and
parks every channel before its event. -/
theorem sensorsThrottleAndTrip : Obligations.SensorsThrottleAndTrip := by
  unfold Obligations.SensorsThrottleAndTrip
  intro s hp
  refine ⟨fun p => ?_, fun n hon hrec hhold hlost => ?_, fun hcalm hlvl => ?_, fun c htrip hc => ?_, fun a hn => ?_⟩
  · have hsame := unthrottled_sensorPeriod s p
    have hch := unsensed_allChannels p.reads s
    obtain ⟨hmem, hwin, hlamp, hsens⟩ := periodRead_frame (allChannels p.reads s) p
    refine ⟨sensorPeriod s p, congrArg Host.Outcome.next (if_pos hp), ?_, ?_, ?_, ?_, ?_, ?_, fun n hn k r hr hrec hest hown hwire => ?_,
      thlvl_sensorPeriod⟩
    · rw [eq_of_view unthrottled (fun u => u.thermo.sensCnt) (fun _ => rfl) hsame,
        ← eq_of_view unsensed (fun u => u.thermo.sensCnt) (fun _ => rfl) hch]
      rfl
    · exact eq_of_view unthrottled (fun u => u.power.pavg) (fun _ => rfl) hsame
    · exact eq_of_view unthrottled (fun u => u.corr.cspeed) (fun _ => rfl) hsame
    · exact (eq_of_view unthrottled State.mem (fun _ => rfl) hsame).trans (hmem.trans <| eq_of_view unsensed State.mem (fun _ => rfl) hch)
    · exact (eq_of_view unthrottled State.windows (fun _ => rfl) hsame).trans (hwin.trans <| eq_of_view unsensed State.windows (fun _ => rfl) hch)
    · exact (eq_of_view unthrottled State.lamp (fun _ => rfl) hsame).trans (hlamp.trans <| eq_of_view unsensed State.lamp (fun _ => rfl) hch)
    · obtain ⟨u, hu, hn'⟩ := sensorOf_allChannels p.reads s (show n < 66 by omega)
      have ht : sensorOf (sensorPeriod s p) n = sensorOf (allChannels p.reads s) n :=
        (eq_of_view unthrottled (fun u => sensorOf u n) (fun _ => rfl) hsame).trans (hsens n)
      rw [ht, hn', ← hu]
      exact channelEnd_onDie hn hr (hu ▸ hrec) (hu ▸ hest) (hu ▸ hown) hwire
  · have hexec : exec (.sensorHoldExpiry n) s = .next
        (writeEstimate (putSensor s n.val { sensorOf s n.val with hold := false, est := true }) n.val) :=
      congrArg Host.Outcome.next (if_pos (by simp [hp, hon, hrec, hhold, hlost]))
    generalize hx : ({ sensorOf s n.val with hold := false, est := true } : Sensor) = x at hexec
    have hx' := sensorOf_putSensor_same s n.val x
    refine ⟨_, hexec, ?_⟩
    have hother := ((Senses.putSensor s n.val x).trans (.writeEstimate ..)).others
    unfold writeEstimate at hother ⊢
    split
    next v hv =>
      rw [hv, hx'] at hother
      rw [hx', sensorOf_putSensor_same, ← hx]
      exact ⟨rfl, rfl, hx ▸ hother, rfl⟩
    next hv =>
      rw [hv] at hother
      rw [hx', ← hx]
      exact ⟨rfl, rfl, hx ▸ hother, rfl⟩
  · have hne : s.power.thlvl ≠ s.power.thlvl - 1 := by bv_omega
    have hexec : exec .throttleLower s = .next
        { setThlvl s (s.power.thlvl - 1) with power := { (setThlvl s (s.power.thlvl - 1)).power with calm := 0 } } :=
      congrArg Host.Outcome.next (if_pos (by simp only [hp, hcalm, decide_true, Bool.true_and]; exact decide_eq_true hlvl))
    obtain ⟨hl, hs⟩ := power_setThlvl s (s.power.thlvl - 1)
    have hsame := unthrottled_setThlvl s (s.power.thlvl - 1)
    have hmem : (setThlvl s (s.power.thlvl - 1)).mem = s.mem := eq_of_view unthrottled State.mem (fun _ => rfl) hsame
    have hwin : (setThlvl s (s.power.thlvl - 1)).windows = s.windows := eq_of_view unthrottled State.windows (fun _ => rfl) hsame
    refine ⟨_, hexec, hl, rfl, hs hne, hmem, hwin, ?_⟩
    refine (?_ : (setThlvl s (s.power.thlvl - 1)).evSeq = _)
    unfold setThlvl
    dsimp only
    rw [if_neg fun h => hlvl h.1]
    by_cases h1 : s.power.thlvl = 1
    · rw [if_pos ⟨hlvl, by rw [h1]; rfl⟩, raiseEvent_evSeq, if_pos h1]
    · rw [if_neg (fun h => h1 (by bv_omega)), if_neg h1]
  · have hexec : exec .thermalTrip s = .next (thermalTrip s c) := by
      refine congrArg Host.Outcome.next ((if_pos (by simp [hp, htrip])).trans ?_)
      rw [hc]
    have hsame := unalerted_thermalTrip s c
    have hdark := endless_darkened s
    have hdata : (darkened s).mem.data = s.mem.data :=
      eq_of_view (s := parkAll (lampOff s)) endless (fun u => u.mem.data) (fun _ => rfl) hdark
    have hfuses : (darkened s).fuses = s.fuses := eq_of_view (s := parkAll (lampOff s)) endless State.fuses (fun _ => rfl) hdark
    refine ⟨_, hexec, ?_, ?_, alertN_thermalTrip s c, ?_, ?_, ?_, fun w hw => ?_, fun hn h hh => ?_, fun id o ho => ?_, ?_, ?_,
      frec_thermalTrip c⟩
    · exact eq_of_view unalerted (fun u => u.power.trip) (fun _ => rfl) hsame
    · exact eq_of_view unalerted State.thermTripN (fun _ => rfl) hsame
    · exact (eq_of_view unalerted (fun u => u.lamp.lok) (fun _ => rfl) hsame).trans
        (eq_of_view endless (fun u => u.lamp.lok) (fun _ => rfl) hdark)
    · exact (eq_of_view unalerted (fun u => u.lamp.enabled) (fun _ => rfl) hsame).trans
        (eq_of_view endless (fun u => u.lamp.enabled) (fun _ => rfl) hdark)
    · exact (eq_of_view unalerted (fun u => u.thermo.parkAll) (fun _ => rfl) hsame).trans
        (eq_of_view endless (fun u => u.thermo.parkAll) (fun _ => rfl) hdark)
    · rw [eq_of_view unalerted (fun u => win u w) (fun _ => rfl) hsame, show win (tripped s) w = (win (darkened s) w).off from
        bankGet_range _ _ hw]
      exact ⟨rfl, rfl⟩
    · rw [eq_of_view unalerted State.thermo (fun _ => rfl) hsame]
      refine (congrArg (fun t => (heaterOf t h).out) (eq_of_view endless State.thermo (fun _ => rfl) hdark)).trans ?_
      exact parkAll_parks (s := lampOff s) hn hh
    · obtain ⟨u, hu, hd⟩ := isSome_done_endAll (s := parkAll (lampOff s)) ho .aborted false
      exact ⟨u, (findOp_of_ops (eq_of_view unalerted State.ops (fun _ => rfl) hsame) id).trans hu, hd⟩
    · exact (eq_of_view unalerted (fun u => u.mem.data) (fun _ => rfl) hsame).trans hdata
    · exact (eq_of_view unalerted State.fuses (fun _ => rfl) hsame).trans hfuses
  · have hon : radiatorOn s = true := by simp [radiatorOn, hp, hn]
    have hthermo : (auxLost s a.val).thermo = { s.thermo with
        aux := bankPut s.thermo.aux a.val { auxOf s.thermo a.val with compl := true }, flags := s.thermo.flags ||| 32 } :=
      (eq_of_view quiet State.thermo (fun _ => rfl) (quiet_raiseEvent ..)).trans rfl
    refine ⟨auxLost s a.val, congrArg Host.Outcome.next (if_pos hon), ?_, ?_, raiseEvent_evSeq .., fun k => ?_, raiseEvent_mem ..⟩
    · rw [hthermo]
      exact (bankGet_put ..).trans (if_pos rfl)
    · rw [hthermo]
    · rw [hthermo]
      rfl

end Sys2Proof.Machine

/-!
The Letterbox's own refusals (R12, R347, R349, R350), before any command's rule.
-/

namespace Sys2Proof.Machine

open Sys2Proof

section
variable {s : State} {mb : MbRef} {code : Nat} {user : Bool} {body : State → Mailbox → State × Ans} {st : Status}

theorem lbStep_idle (h : lbOpen s = false ∨ reqCmd (mbGet s mb) ≠ code ∨ (mbGet s mb).busy = false ∧ mbNext s ≠ some (mbIx mb)) :
    lbStep mb code user body s = s := by
  unfold lbStep
  refine if_pos ?_
  simpa only [Bool.or_eq_true, Bool.not_eq_true', decide_eq_true_eq, Bool.or_eq_false_iff, decide_eq_false_iff_not, or_assoc] using h

/-- A request that Yilium takes is refused, denied, or meets the command's own rule. -/
theorem lbStep_turn (hup : lbOpen s = true) (hcmd : reqCmd (mbGet s mb) = code)
    (hturn : (mbGet s mb).busy = true ∨ mbNext s = some (mbIx mb)) : lbStep mb code user body s = lbEnd mb
      (match lbRefusal s (mbGet s mb) with
       | some st => (begun s mb, .done st [])
       | none =>
         if (match mb with | .unpriv _ => !user | .priv _ => false) then (begun s mb, .done .denied [])
         else body (begun s mb) (mbGet s mb)) := by
  have hgo : (!(lbOpen s) || decide (reqCmd (mbGet s mb) ≠ code) ||
      !((mbGet s mb).busy || decide (mbNext s = some (mbIx mb)))) = false := by
    simpa [hup, hcmd, Classical.or_iff_not_imp_left] using hturn
  have hr : lbRefusal (begun s mb) (mbGet s mb) = lbRefusal s (mbGet s mb) := by
    obtain ⟨p, u, l, e⟩ := begun_eq_setBoxes s mb
    rw [e]
    rfl
  rw [← hr]
  unfold lbStep
  simp only [hgo, Bool.false_eq_true, if_false]
  change (match lbRefusal (begun s mb) (mbGet s mb) with | some _ => _ | none => _) = _
  cases lbRefusal (begun s mb) (mbGet s mb) with
  | some st => rfl
  | none =>
    cases mb with
    | priv k => rfl
    | unpriv n => cases user <;> rfl

/-- A request refused by the Letterbox itself ends with its status and no effect. -/
theorem ran_refused (hknown : lbCodes.contains (reqCmd (mbGet s mb)) = true) :
    Ran s (lbEnd mb (begun s mb, .done st [])) mb st [] s := by
  obtain ⟨-, hreq, hseq⟩ := mbGet_begun s mb
  have ha : mbGet (mbAnswer (begun s mb) mb st []) mb = answered st [] (mbGet (begun s mb) mb) := mbGet_mbAnswer_same ..
  have ht : mbGet (lbEnd mb (begun s mb, .done st [])) mb = answered st [] (mbGet (begun s mb) mb) := by
    refine (mbGet_lbIdle _ ?_).trans ha
    rw [ha]
    unfold reqCmd at hknown ⊢
    exact (congrArg (fun r : Memory => lbCodes.contains (r.nat 0x10 2)) hreq).trans hknown
  refine ⟨?_, ?_, ?_, ?_, same_of_boxless ?_⟩
  · rw [ht]; simp [answered]
  · rw [ht]; rfl
  · rw [ht]; rfl
  · rw [ht, ← hseq]; rfl
  · exact (boxless_lbIdle ..).trans ((boxless_mbAnswer ..).trans (boxless_begun ..))

theorem ran_lbStep_refused (hup : lbOpen s = true) (hcmd : reqCmd (mbGet s mb) = code)
    (hturn : (mbGet s mb).busy = true ∨ mbNext s = some (mbIx mb)) (hknown : lbCodes.contains code = true)
    (hr : lbRefusal s (mbGet s mb) = some st) : Ran s (lbStep mb code user body s) mb st [] s := by
  rw [lbStep_turn hup hcmd hturn, hr]
  exact ran_refused (hcmd ▸ hknown)

end

/-- A row of the Letterbox is one application of its protocol, with a code it knows (R347). -/
def LetterboxRow (s : State) (mb : MbRef) (r : Instr × Nat × Bool) : Prop :=
  ∃ body, exec r.1 s = .next (lbStep mb r.2.1 r.2.2 body s) ∧ lbCodes.contains r.2.1 = true

theorem LetterboxRow.refuses {s : State} {mb : MbRef} {c : Instr} {code : Nat} {user : Bool} (h : LetterboxRow s mb (c, code, user)) :
    (lbOpen s = false ∨ reqCmd (mbGet s mb) ≠ code ∨ (mbGet s mb).busy = false ∧ mbNext s ≠ some (mbIx mb) → exec c s = .next s) ∧
    (lbOpen s = true → reqCmd (mbGet s mb) = code → ((mbGet s mb).busy = true ∨ mbNext s = some (mbIx mb)) →
      (s.ifLevel.toNat < reqLevel (mbGet s mb) → ∃ t, exec c s = .next t ∧ Ran s t mb .levelUnsupported [] s) ∧
      (reqLevel (mbGet s mb) = 0 → ∃ t, exec c s = .next t ∧ Ran s t mb .invalid [] s) ∧
      (∀ n, mb = .unpriv n → user = false → 1 ≤ reqLevel (mbGet s mb) → reqLevel (mbGet s mb) ≤ s.ifLevel.toNat →
        ∃ t, exec c s = .next t ∧ Ran s t mb .denied [] s)) := by
  obtain ⟨body, hexec, hknown⟩ := h
  refine ⟨fun hidle => hexec.trans (congrArg Host.Outcome.next (lbStep_idle hidle)), fun hup hcmd hturn => ⟨fun hl => ?_, fun h0 => ?_,
    fun n hmb huser h1 hl => ?_⟩⟩
  · exact ⟨_, hexec, ran_lbStep_refused hup hcmd hturn hknown (if_pos hl)⟩
  · refine ⟨_, hexec, ran_lbStep_refused hup hcmd hturn hknown ((if_neg (by omega)).trans (if_pos ?_))⟩
    rw [h0]
    simp
  · have hr : lbRefusal s (mbGet s mb) = none := by
      refine (if_neg (by omega)).trans (if_neg ?_)
      have hk : lbCodes.contains (reqCmd (mbGet s mb)) = true := hcmd ▸ hknown
      rw [hk, decide_eq_false (by omega)]
      decide
    refine ⟨_, hexec, ?_⟩
    subst hmb huser
    rw [lbStep_turn hup hcmd hturn, hr]
    exact ran_refused (hcmd ▸ hknown)

/-- Settles O53: each row is one application of the Letterbox's protocol, which refuses before the command's own rule. -/
theorem letterboxRefusesAndWaits : Obligations.LetterboxRefusesAndWaits := by
  unfold Obligations.LetterboxRefusesAndWaits
  intro s mb env b k ps h ra rb rnd c code user hc
  refine LetterboxRow.refuses ?_
  revert hc
  generalize (c, code, user) = r
  revert r
  simp only [List.forall_mem_cons, List.not_mem_nil, false_imp_iff, implies_true, and_true]
  repeat' apply And.intro
  all_goals exact ⟨_, rfl, rfl⟩

end Sys2Proof.Machine

/-!
Context commands (R352 to R358, R388): how each one's own rule ends, and what eviction, room and destruction leave alone.
-/

namespace Sys2Proof.Machine

open Sys2Proof

/-! ### Rules on a context -/

theorem onCtx_found {s : State} {mb : MbRef} {m : Mailbox} {c : Context} (f : State → Mailbox → Nat → Context → State × Ans)
    (hown : mbOwns mb (reqArg m 0) = true) (hc : ctxOf s (reqArg m 0) = some c) : onCtx mb f s m = f s m (reqArg m 0) c := by
  unfold onCtx
  rw [hown, hc]
  rfl

section
variable {s : State} {mb : MbRef} {code : Nat} {user : Bool} {body : State → Mailbox → State × Ans} {st : Status} {vs : List Nat}

/-- A command whose rule applies F to the state and touches no mailbox of its kind. -/
theorem ran_of_rule {F : State → State} (h : Taken s mb code) (hv : ∀ n, mb = .unpriv n → user = true)
    (hb : ∀ p q l, body (setBoxes s p q l) (mbGet s mb) = (F (setBoxes s p q l), .done st vs))
    (hm : ∀ p q l, mbGet (F (setBoxes s p q l)) mb = mbGet (setBoxes s p q l) mb) :
    ∃ p q l, Ran s (lbStep mb code user body s) mb st vs (F (setBoxes s p q l)) := by
  obtain ⟨p, q, l, e⟩ := begun_eq_setBoxes s mb
  exact ⟨p, q, l, ran_lbStep h hv (by rw [e]; exact hb p q l) (by rw [e]; exact hm p q l)⟩

end

section
variable {s : State} {k : Fin 16} {code : Nat} {user : Bool} {f : State → Mailbox → Nat → Context → State × Ans} {c : Context} {st : Status}
  {vs : List Nat}

theorem ran_onCtx {u : State} (h : Taken s (.priv k) code) (hc : ctxOf s (argOf s (.priv k) 0) = some c)
    (hb : ∀ p q l, f (setBoxes s p q l) (mbGet s (.priv k)) (argOf s (.priv k) 0) c = (setBoxes u p q l, .done st vs)) :
    Ran s (lbStep (.priv k) code user (onCtx (.priv k) f) s) (.priv k) st vs u :=
  ran_of_body h nofun fun p q l => (onCtx_found (s := setBoxes s p q l) f rfl hc).trans (hb p q l)

theorem ran_rule_onCtx {F : State → State} (h : Taken s (.priv k) code) (hc : ctxOf s (argOf s (.priv k) 0) = some c)
    (hb : ∀ p q l, f (setBoxes s p q l) (mbGet s (.priv k)) (argOf s (.priv k) 0) c = (F (setBoxes s p q l), .done st vs))
    (hm : ∀ p q l, (F (setBoxes s p q l)).mboxes = p) :
    ∃ p q l, Ran s (lbStep (.priv k) code user (onCtx (.priv k) f) s) (.priv k) st vs (F (setBoxes s p q l)) :=
  ran_of_rule h nofun (fun p q l => (onCtx_found (s := setBoxes s p q l) f rfl hc).trans (hb p q l))
    fun p q l => congrArg (fun b => bankGet b Mailbox.reset k.val) (hm p q l)

end

/-! ### Contexts as a bank -/

theorem bankPut_bankPut {α : Type} (b : Bank α) (i : Nat) (x y : α) : bankPut (bankPut b i x) i y = bankPut b i y := by
  induction b with
  | nil => simp [bankPut]
  | cons e b ih =>
    obtain ⟨j, z⟩ := e
    rw [bankPut]
    split
    · simp only [bankPut, lt_irrefl, if_false, if_true, if_pos ‹i < j›]
    · split
      · simp only [bankPut, lt_irrefl, if_false, if_true, if_neg ‹¬ i < j›, if_pos ‹i = j›]
      · simp only [bankPut, if_neg ‹¬ i < j›, if_neg ‹¬ i = j›, ih]

/-- Two changes of a context are one. -/
theorem modCtx_modCtx {s : State} {n : Nat} {c : Context} (h : ctxOf s n = some c) (f g : Context → Context) :
    modCtx (modCtx s n f) n g = { s with ctxs := bankPut s.ctxs n (g (f c)) } := by
  rw [modCtx_some h]
  have hfc : ctxOf { s with ctxs := bankPut s.ctxs n (f c) } n = some (f c) := bankFind_put_same ..
  exact (modCtx_some hfc g).trans (congrArg (fun b => { s with ctxs := b }) (bankPut_bankPut ..))

/-! ### Eviction (R354, R356) -/

/-- A state without what an eviction can change, beyond contexts and mailboxes. -/
def unsaved (s : State) : State := { unwritten s with freeIx := 0, ops := [], pantries := [], corr := State.reset.corr }

theorem unsaved_of_unwritten {s t : State} (h : unwritten t = unwritten s) : unsaved t = unsaved s :=
  congrArg (fun u : State => { u with freeIx := 0, ops := [], pantries := [], corr := State.reset.corr }) h

theorem unsaved_testFences (s : State) : unsaved (testFences s) = unsaved s := by
  obtain ⟨ops, corr, h⟩ := testFences_frame s
  rw [h]
  rfl

theorem unsaved_clearRegion (s : State) (n : Nat) : unsaved (clearRegion s n) = unsaved s := by unfold clearRegion; split <;> rfl

theorem unwritten_putHost (s : State) (a : Nat) (bs : List Byte) : unwritten (putHost s a bs) = unwritten s :=
  unwritten_of_quiet (quiet_hostWrites ..)

theorem unwritten_putPieces (env : Env) : ∀ (ps : List (Target × Nat)) (bs : List Byte) (s : State),
    unwritten (putPieces env ps bs s) = unwritten s
  | [], _, _ => rfl
  | (.dev _, _) :: ps, _, _ => (unwritten_putPieces env ps _ _).trans (unwritten_writePa ..)
  | (.host _, _) :: ps, _, _ => (unwritten_putPieces env ps _ _).trans (unwritten_putHost ..)
  | (.remote _ _ _, _) :: ps, _, _ => unwritten_putPieces env ps _ _

theorem piecesOf_setBoxes (s : State) (p q : Bank Mailbox) (l ctx : Nat) (write : Bool) : ∀ cs : List (Nat × Nat),
    piecesOf (setBoxes s p q l) ctx write cs = piecesOf s ctx write cs
  | [] => rfl
  | (va, n) :: cs => by
    rw [piecesOf, piecesOf, piecesOf_setBoxes s p q l ctx write cs]
    rfl

theorem evictable_setBoxes (s : State) (p q : Bank Mailbox) (l n : Nat) (c : Context) :
    evictable (setBoxes s p q l) n c = evictable s n c := by
  unfold evictable tablePieces
  rw [piecesOf_setBoxes, piecesOf_setBoxes]
  rfl

/-- The save area written and the region cleared, before the context's slot is free. -/
def evictSaved (s : State) (env : Env) (n : Nat) (c : Context) : State :=
  let u := match tablePieces (freshNat s).2 n c.saveVa (saveLen c) true with
    | some ps => testFences (putPieces env ps (toBytes (saveLen c) (freshNat s).1) (freshNat s).2)
    | none => (freshNat s).2
  if c.lost then u else clearRegion u n

theorem unsaved_evictSaved (s : State) (env : Env) (n : Nat) (c : Context) : unsaved (evictSaved s env n c) = unsaved s := by
  have hfresh : unsaved (freshNat s).2 = unsaved s := rfl
  unfold evictSaved
  dsimp only
  have hput : ∀ r : Option (List (Target × Nat)), unsaved (match r with
      | some ps => testFences (putPieces env ps (toBytes (saveLen c) (freshNat s).1) (freshNat s).2)
      | none => (freshNat s).2) = unsaved s
    | some ps => (unsaved_testFences _).trans ((unsaved_of_unwritten (unwritten_putPieces ..)).trans hfresh)
    | none => hfresh
  split
  · exact hput _
  · exact (unsaved_clearRegion ..).trans (hput _)

theorem evict_eq {s : State} {n : Nat} {c : Context} (env : Env) (hc : ctxOf s n = some c) : evict s env n =
    releaseSlot (modCtx (evictSaved s env n c) n fun x =>
      { x with saved := if c.lost then [] else regionCopy s c, saveKey := some s.freeIx }) n := by
  unfold evict
  rw [hc]
  rfl

/-- An evicted context keeps its table and has its region's bytes saved. -/
theorem evict_spec {s : State} {n : Nat} {c : Context} (env : Env) (hc : ctxOf s n = some c) :
    (∃ c', ctxOf (evict s env n) n = some c' ∧ c'.resident = false ∧ c'.table = c.table ∧ (c.lost = false → c'.saved = regionCopy s c)) ∧
      (evict s env n).queues = s.queues ∧ (evict s env n).mboxes = s.mboxes := by
  have hsame := unsaved_evictSaved s env n c
  rw [evict_eq env hc]
  generalize evictSaved s env n c = u at hsame ⊢
  generalize hf : (fun x : Context => { x with saved := if c.lost then [] else regionCopy s c, saveKey := some s.freeIx }) = f
  have hu : ctxOf u n = some c := (eq_of_view unsaved (fun u => ctxOf u n) (fun _ => rfl) hsame).trans hc
  have hfc : f c = { c with saved := if c.lost then [] else regionCopy s c, saveKey := some s.freeIx } := by rw [← hf]
  refine ⟨⟨{ f c with resident := false }, ?_, rfl, by rw [hfc], fun hl => by rw [hfc, hl]; rfl⟩, ?_, ?_⟩
  · refine (?_ : ctxOf (modCtx (modCtx u n f) n fun c => { c with resident := false }) n = _)
    rw [ctxOf_modCtx, if_pos rfl, ctxOf_modCtx, if_pos rfl, hu]
    rfl
  · refine (?_ : (modCtx (modCtx u n f) n fun c => { c with resident := false }).queues = _)
    rw [modCtx_queues, modCtx_queues]
    exact eq_of_view unsaved State.queues (fun _ => rfl) hsame
  · refine (?_ : (modCtx (modCtx u n f) n fun c => { c with resident := false }).mboxes = _)
    rw [modCtx_mboxes, modCtx_mboxes]
    exact eq_of_view unsaved State.mboxes (fun _ => rfl) hsame

/-! ### Making resident (R353, R355) -/

theorem makeRoom_fits {s : State} {n len want : Nat} (env : Env) (j : Nat) (h48 : (residents s).length < 48)
    (h32 : ((residents s).map (fun e => regionUnits e.2)).sum + len ≤ 32) (hfree : unitsFree s n len want = true) :
    makeRoom env n len want (j + 1) s = some (s, want) := by
  have hplace : placeFor s n len want = some want := if_pos hfree
  rw [makeRoom]
  rw [if_pos ⟨h48, h32⟩, hplace]

theorem clearRegion_eq (s : State) (n : Nat) : clearRegion s n = { s with pantries := (clearRegion s n).pantries } := by
  unfold clearRegion
  split <;> rfl

/-- A context in its region: cleared, as it is resident for the first time. -/
def settled (s : State) (n b : Nat) (c : Context) : State := { s with
  ctxs := bankPut s.ctxs n { c with resident := true, base := b, wantRes := false, saved := [], saveKey := none }
  pantries := (clearRegion { s with ctxs := bankPut s.ctxs n { c with resident := true, base := b, wantRes := false } } n).pantries }

theorem makeResident_first {s : State} {n b : Nat} {c : Context} (env : Env) (hc : ctxOf s n = some c) (hr : c.resident = false)
    (hl : c.lost = false) (hk : c.saveKey = none) (h48 : (residents s).length < 48)
    (h32 : ((residents s).map (fun e => regionUnits e.2)).sum + c.pregion ≤ 32) (hfree : unitsFree s n c.pregion b = true) :
    makeResident s env n b = some (settled s n b c) := by
  have hunits : regionUnits c = c.pregion := if_neg (by rw [hl]; exact Bool.false_ne_true)
  have hroom : makeRoom env n (regionUnits c) b 49 s = some (s, b) := by
    rw [hunits]
    exact makeRoom_fits env 48 h48 h32 hfree
  unfold settled
  generalize hx : ({ c with resident := true, base := b, wantRes := false } : Context) = x
  have hm : modCtx s n (fun c => { c with resident := true, base := b, wantRes := false }) = { s with ctxs := bankPut s.ctxs n x } := by
    rw [modCtx_some hc, hx]
  have hcx : ctxOf { s with ctxs := bankPut s.ctxs n x } n = some x := bankFind_put_same ..
  have hps := clearRegion_eq { s with ctxs := bankPut s.ctxs n x } n
  have hrest : restore { s with ctxs := bankPut s.ctxs n x } env n x = clearRegion { s with ctxs := bankPut s.ctxs n x } n := by
    unfold restore
    rw [if_neg (by rw [← hx, hl]; exact Bool.false_ne_true), show x.saveKey = none by rw [← hx]; exact hk]
  unfold makeResident
  rw [hc]
  dsimp only
  rw [if_neg (by rw [hr]; exact Bool.false_ne_true), hroom]
  dsimp only
  rw [hm, hcx]
  dsimp only
  rw [hrest, hps, modCtx_some (c := x) (by exact bankFind_put_same ..)]
  simp only [bankPut_bankPut, ← hx]

/-! ### Destruction (R387, R388) -/

/-- A command but for what ends a wait. -/
def Op.unwaited (o : Op) : Op := { o with armed := false, done := none }

/-- A state without what records of aborted commands can change, and with commands but for the end of waits. -/
def unaborted (s : State) : State := { unwritten s with ops := s.ops.map Op.unwaited, corr := State.reset.corr }

/-- A state without what a forced destruction of queues can change. -/
def unforced (s : State) : State := { unaborted s with queues := [] }

theorem unaborted_of_unwritten {s t : State} (h : unwritten t = unwritten s) : unaborted t = unaborted s :=
  congrArg (fun u : State => { u with ops := u.ops.map Op.unwaited, corr := State.reset.corr }) h

theorem unforced_of_unaborted {s t : State} (h : unaborted t = unaborted s) : unforced t = unforced s :=
  congrArg (fun u : State => { u with queues := [] }) h

/-- Waits that end are told apart by nothing but their end. -/
theorem unwaited_endWait (p : Op → Bool) (st : Status) (ops : List Op) :
    (ops.map (fun o => if p o then endWait st o else o)).map Op.unwaited = ops.map Op.unwaited := by
  rw [List.map_map]
  refine List.map_congr_left fun o _ => ?_
  simp only [Function.comp_apply]
  split <;> rfl

theorem unaborted_testFences (s : State) : unaborted (testFences s) = unaborted s := by
  unfold testFences
  dsimp only
  split
  · rfl
  · exact congrArg (fun os => { unaborted s with ops := os }) (unwaited_endWait (fun o => o.armed && waitMet s o) .ok s.ops)

theorem unforced_modQueue (s : State) (n : Nat) (f : Queue → Queue) : unforced (modQueue s n f) = unforced s := by
  unfold modQueue
  split <;> rfl

theorem unaborted_abortOne (env : Env) (n : Nat) (q : Queue) (s : State) (idx : Nat) : unaborted (abortOne env n q s idx) = unaborted s := by
  have hw (bs : List Byte) : unaborted (writeRecord s env q idx bs) = unaborted s :=
    (unaborted_testFences _).trans (unaborted_of_unwritten (unwritten_writeVa ..))
  unfold abortOne
  dsimp only
  split
  · exact (unaborted_of_unwritten (unwritten_of_quiet (quiet_raiseVec ..))).trans (hw _)
  · exact hw _

theorem unforced_abortPending (s : State) (env : Env) (n : Nat) : unforced (abortPending s env n) = unforced s := by
  unfold abortPending
  split
  · rfl
  next q _ =>
    exact (unforced_modQueue ..).trans
      (unforced_of_unaborted (foldl_keeps (g := abortOne env n q) unaborted (unaborted_abortOne env n q) _ s))

theorem unforced_forceBegin (s : State) (env : Env) (n : Nat) : unforced (forceBegin s env n) = unforced s := by
  unfold forceBegin
  split
  · rfl
  next q _ =>
    dsimp only
    refine (unforced_modQueue ..).trans ?_
    have hp : unforced (if pendingN q = 0 then s else abortPending s env n) = unforced s := by
      split
      · rfl
      · exact unforced_abortPending ..
    refine Eq.trans ?_ hp
    exact congrArg (fun os => { unforced _ with ops := os }) (unwaited_endWait (fun o => decide (o.q = n) && o.armed) .fenceTimeout _)

theorem ctx_of_unforced {s t : State} (h : unforced t = unforced s) {n : Nat} (hs : ∀ o ∈ s.ops, o.ctx ≠ n) : ∀ o ∈ t.ops, o.ctx ≠ n := by
  intro o ho
  have hops : t.ops.map Op.unwaited = s.ops.map Op.unwaited := congrArg State.ops h
  obtain ⟨v, hv, he⟩ := List.mem_map.1 (hops ▸ List.mem_map_of_mem ho : o.unwaited ∈ s.ops.map Op.unwaited)
  exact (congrArg Op.ctx he :) ▸ hs v hv

/-- The queues left when some are dropped. -/
theorem queues_dropQueue (l : List Nat) (s : State) : (l.foldl dropQueue s).queues = s.queues.filter (fun e => e.1 ∉ l) := by
  induction l generalizing s with
  | nil => simp
  | cons n l ih =>
    rw [List.foldl_cons, ih, dropQueue, bankErase, List.filter_filter]
    refine List.filter_congr fun e _ => ?_
    simp [not_or, Bool.and_comm]

theorem queues_queuesOf_dropped (s : State) (n : Nat) : ∀ e ∈ ((queuesOf s n).foldl dropQueue s).queues, e.2.ctx ≠ n := by
  intro e he hn
  rw [queues_dropQueue] at he
  obtain ⟨hs, hnot⟩ := List.mem_filter.1 he
  refine of_decide_eq_true hnot ?_
  exact List.mem_map_of_mem (List.mem_filter.2 ⟨hs, decide_eq_true hn⟩)

/-- A state without what withdrawing a context's reservations, panes, shares and pages can change. -/
def withdrawn (s : State) : State := { unwritten s with
  windows := [], pantries := [], shares := [], ctxs := [], corr := State.reset.corr }

theorem withdrawn_of_unwritten {s t : State} (h : unwritten t = unwritten s) : withdrawn t = withdrawn s :=
  congrArg (fun u : State => { u with windows := [], pantries := [], shares := [], ctxs := [], corr := State.reset.corr }) h

theorem withdrawn_modCtx (s : State) (n : Nat) (f : Context → Context) : withdrawn (modCtx s n f) = withdrawn s := by
  unfold modCtx
  split <;> rfl

theorem withdrawn_clearRegion (s : State) (n : Nat) : withdrawn (clearRegion s n) = withdrawn s := by unfold clearRegion; split <;> rfl

theorem withdrawn_dtcFlush (s : State) (ctx lo n : Nat) : withdrawn (dtcFlush s ctx lo n) = withdrawn s := rfl

theorem withdrawn_freePage (s : State) (page : Nat) : withdrawn (freePage s page) = withdrawn s := by
  unfold freePage
  dsimp only
  split
  · exact (withdrawn_of_unwritten (unwritten_of_unread (unread_retirePage ..))).trans rfl
  · rfl

theorem withdrawn_freePages (ps : List Nat) (s : State) : withdrawn (ps.foldl freePage s) = withdrawn s :=
  foldl_keeps (g := freePage) withdrawn withdrawn_freePage ps s

theorem withdrawn_freeMap (s : State) (m : Mapping) : withdrawn (freeMap s m) = withdrawn s := by
  unfold freeMap
  split
  · exact foldl_keeps withdrawn (fun _ _ => withdrawn_freePage ..) _ s
  · rfl

theorem withdrawn_unmapRange (s : State) (n lo len : Nat) : withdrawn (unmapRange s n lo len) = withdrawn s := by
  unfold unmapRange
  split
  · rfl
  · exact (foldl_keeps (g := freeMap) withdrawn withdrawn_freeMap _ _).trans ((withdrawn_dtcFlush ..).trans (withdrawn_modCtx ..))

theorem withdrawn_countZero (s : State) (env : Env) (x : Share) : withdrawn (countZero s env x).1 = withdrawn s := by
  have h := withdrawn_of_unwritten (unwritten_of_unread (unread_readPa s env .sweep none (x.pages.headD 0 * 0x10000) 8))
  unfold countZero
  split
  all_goals next he => rw [he] at h; exact h

theorem withdrawn_freeShare (s : State) (k : Nat) (x : Share) : withdrawn (freeShare s k x) = withdrawn s :=
  Eq.trans rfl (withdrawn_freePages x.pages s)

theorem withdrawn_unmapShare (s : State) (env : Env) (n k : Nat) : withdrawn (unmapShare s env n k) = withdrawn s := by
  unfold unmapShare
  split
  next x c _ _ =>
    dsimp only
    have hu : withdrawn ((c.table.filter (fun m => decide (m.shid = some k))).foldl (fun s m => dtcFlush s n m.va m.size)
        (modCtx s n fun c => { c with table := c.table.filter (fun m => decide (m.shid ≠ some k)) })) = withdrawn s :=
      (foldl_keeps withdrawn (fun _ _ => withdrawn_dtcFlush ..) _ _).trans (withdrawn_modCtx ..)
    split
    · split
      · exact (withdrawn_freeShare ..).trans ((withdrawn_countZero ..).trans (Eq.trans rfl hu))
      · exact (withdrawn_countZero ..).trans (Eq.trans rfl hu)
    · exact Eq.trans rfl hu
  · rfl

theorem resvs_dropResv (s : State) (n c : Nat) : (dropResv s n c).mem.resvs = s.mem.resvs.filter (fun r => ¬ (r.ctx = n ∧ r.cls = c)) := rfl

/-- A context without its reservations of C0 to C3 (R388). -/
theorem resvs_dropResvs (s : State) (n : Nat) : ∀ r ∈ (dropResvs s n).mem.resvs, r.ctx = n → 3 < r.cls := by
  unfold dropResvs
  rw [mem_checkGuarantee]
  simp only [List.foldl_cons, List.foldl_nil, resvs_dropResv, List.mem_filter, decide_eq_true_eq, not_and]
  intro r ⟨⟨⟨⟨_, h0⟩, h1⟩, h2⟩, h3⟩ hn
  have := h0 hn
  have := h1 hn
  have := h2 hn
  have := h3 hn
  omega

/-- What is left of a context that has no command in flight: neither the context, nor a queue, an export or a reservation of it. -/
structure Destroyed (s t : State) (n : Nat) : Prop where
  ctx : ctxOf t n = none
  queues : ∀ e ∈ t.queues, e.2.ctx ≠ n
  exports : ∀ e ∈ t.link.exports, e.2.ctx ≠ n
  resvs : ∀ r ∈ t.mem.resvs, r.ctx = n → 3 < r.cls
  fuses : t.fuses = s.fuses
  mboxes : t.mboxes = s.mboxes

theorem destroyed_dropCtx {s : State} {n : Nat} {c : Context} (env : Env) (hc : ctxOf s n = some c) : Destroyed s (dropCtx s env n) n := by
  unfold dropCtx
  rw [hc]
  dsimp only
  generalize hq : (queuesOf s n).foldl dropQueue s = q
  have hqd : ∀ e ∈ q.queues, e.2.ctx ≠ n := hq ▸ queues_queuesOf_dropped s n
  have hqf : { q with queues := [] } = { s with queues := [] } := by
    rw [← hq]
    exact foldl_keeps (g := dropQueue) (fun u : State => { u with queues := [] }) (fun _ _ => rfl) _ s
  have hr := resvs_dropResvs q n
  have hd := unreserved_dropResvs q n
  generalize dropResvs q n = d at hr hd
  generalize hw : dtcFlushAll (unmapRange ((sharesOf _ n).foldl (fun s k => unmapShare s env n k) _) n 0 (2 ^ 48)) n = w
  have hsame : withdrawn w = withdrawn d := by
    rw [← hw]
    refine (withdrawn_dtcFlush ..).trans ((withdrawn_unmapRange ..).trans ?_)
    refine (foldl_keeps withdrawn (fun _ _ => withdrawn_unmapShare ..) _ _).trans ?_
    split
    · exact (withdrawn_clearRegion ..).trans rfl
    · rfl
  have hqueues : w.queues = q.queues := (eq_of_view withdrawn State.queues (fun _ => rfl) hsame).trans (congrArg State.queues hd :)
  have hfuses : w.fuses = s.fuses := (eq_of_view withdrawn State.fuses (fun _ => rfl) hsame).trans
    ((congrArg State.fuses hd :).trans (congrArg State.fuses hqf :))
  have hboxes : w.mboxes = s.mboxes := (eq_of_view withdrawn State.mboxes (fun _ => rfl) hsame).trans
    ((congrArg State.mboxes hd :).trans (congrArg State.mboxes hqf :))
  have hresvs : w.mem.resvs.map Resv.unspent = d.mem.resvs.map Resv.unspent := (congrArg (fun u : State => u.mem.resvs) hsame :)
  refine ⟨bankFind_erase_same .., fun e he => hqd e (hqueues ▸ he), fun e he => of_decide_eq_true (List.mem_filter.1 he).2,
    fun r hrm hn => ?_, hfuses, hboxes⟩
  obtain ⟨v, hv, he⟩ := List.mem_map.1 (hresvs ▸ List.mem_map_of_mem hrm : r.unspent ∈ d.mem.resvs.map Resv.unspent)
  exact (congrArg Resv.cls he :) ▸ hr v hv ((congrArg Resv.ctx he :).trans hn)

/-- CTX_DESTROY's rule for a context with no command in flight and no access under way. -/
theorem destroy_rule {s : State} {n : Nat} {c : Context} (env : Env) (hc : ctxOf s n = some c) (ho : ∀ o ∈ s.ops, o.ctx ≠ n)
    (ha : accessesOut s n = false) : ∃ u, unforced u = unforced s ∧ Destroyed u (dropCtx u env n) n ∧
      (fun s : State =>
        let s := (queuesOf s n).foldl (fun s q => forceBegin s env q) s
        let s := endOps .pageFault true (haltedOps s n) s
        if s.ops.any (fun o => decide (o.ctx = n)) ∨ accessesOut s n then (s, Ans.wait) else (dropCtx s env n, .ok)) s =
        (dropCtx u env n, .ok) := by
  have hsame : unforced ((queuesOf s n).foldl (fun s q => forceBegin s env q) s) = unforced s :=
    foldl_keeps unforced (fun _ _ => unforced_forceBegin ..) _ s
  dsimp only
  generalize (queuesOf s n).foldl (fun s q => forceBegin s env q) s = u at hsame
  have hops := ctx_of_unforced hsame ho
  have hhalt : haltedOps u n = [] := by
    rw [haltedOps, List.map_eq_nil_iff, List.filter_eq_nil_iff]
    intro o ho
    simp [hops o ho]
  have hacc : accessesOut u n = false := by
    rw [← ha]
    exact eq_of_view unforced (fun u => accessesOut u n) (fun _ => rfl) hsame
  have hctx : ctxOf u n = some c := (eq_of_view unforced (fun u => ctxOf u n) (fun _ => rfl) hsame).trans hc
  refine ⟨u, hsame, destroyed_dropCtx env hctx, ?_⟩
  rw [hhalt, show endOps .pageFault true [] u = u from rfl, hacc]
  refine if_neg ?_
  rw [List.any_eq_false.2 fun o ho => by simp [hops o ho]]
  decide

/-! ### Table 10.6 -/

section
variable {s : State} {k : Fin 16} {env : Env} {n : Nat}

theorem ctxCreate_answer (hn : n = argOf s (.priv k) 0) (h : Taken s (.priv k) 0x01) :
    (n ≤ 4095 → argOf s (.priv k) 2 ≤ 32 → argOf s (.priv k) 4 ≤ 2047 →
      (ctxOf s n = none → ∃ t c, exec (.ctxCreate (.priv k)) s = .next t ∧
        Ran s t (.priv k) .ok [] { s with ctxs := bankPut s.ctxs n c } ∧ c.cseed = BitVec.ofNat 64 (argOf s (.priv k) 1) ∧
        c.pregion = argOf s (.priv k) 2 ∧ c.saveVa = argOf s (.priv k) 3 ∧ c.vec = argOf s (.priv k) 4 ∧ c.resident = false ∧
        c.lost = false ∧ c.table = [] ∧ c.arena = none ∧ c.kernels = []) ∧
      (ctxOf s n ≠ none → ∃ t, exec (.ctxCreate (.priv k)) s = .next t ∧ Ran s t (.priv k) .busy [] s)) ∧
    (4095 < n ∨ 32 < argOf s (.priv k) 2 ∨ 2047 < argOf s (.priv k) 4 →
      ∃ t, exec (.ctxCreate (.priv k)) s = .next t ∧ Ran s t (.priv k) .invalid [] s) := by
  subst hn
  refine ⟨fun h0 h2 h4 => ?_, fun hbad => ⟨_, rfl, ran_of_body h nofun fun p q l => if_pos hbad⟩⟩
  have hargs : ¬ (4095 < argOf s (.priv k) 0 ∨ 32 < argOf s (.priv k) 2 ∨ 2047 < argOf s (.priv k) 4) := by omega
  refine ⟨fun hnone => ?_, fun hsome => ⟨_, rfl, ran_of_body h nofun fun p q l => (if_neg hargs).trans (if_pos ?_)⟩⟩
  · obtain ⟨p, q, l, hran⟩ := ran_of_rule (user := false) (body := bodyCtxCreate) (st := .ok) (vs := []) h nofun
      (F := fun u => { u with
        ctxs := bankPut u.ctxs (argOf s (.priv k) 0)
          (Context.create (argOf s (.priv k) 1) (argOf s (.priv k) 2) (argOf s (.priv k) 3) (argOf s (.priv k) 4)),
        umboxes := bankErase u.umboxes (argOf s (.priv k) 0) })
      (fun p q l => (if_neg hargs).trans (if_neg (by
        rw [ctxOf_setBoxes, show ctxOf s (reqArg (mbGet s (.priv k)) 0) = none from hnone]
        exact Bool.false_ne_true))) (fun _ _ _ => rfl)
    exact ⟨_, _, rfl, hran.congr rfl, rfl, rfl, rfl, rfl, rfl, rfl, rfl, rfl, rfl⟩
  · rw [ctxOf_setBoxes]
    exact Option.isSome_iff_ne_none.2 hsome

theorem ctxDestroy_answer {c : Context} (hn : n = argOf s (.priv k) 0) (hc : ctxOf s n = some c) (h : Taken s (.priv k) 0x02)
    (ho : ∀ o ∈ s.ops, o.ctx ≠ n) (ha : accessesOut s n = false) :
    ∃ t, exec (.ctxDestroy (.priv k) env) s = .next t ∧ Ran s t (.priv k) .ok [] t ∧ ctxOf t n = none ∧
      (∀ e ∈ t.queues, e.2.ctx ≠ n) ∧ (∀ e ∈ t.link.exports, e.2.ctx ≠ n) ∧
      (∀ r ∈ t.mem.resvs, r.ctx = n → 3 < r.cls) ∧ t.fuses = s.fuses := by
  subst hn
  obtain ⟨p, q, l, e⟩ := begun_eq_setBoxes s (.priv k)
  obtain ⟨u, hsame, ⟨hctx, hqueues, hexports, hresvs, hfuses, hboxes⟩, hrule⟩ := destroy_rule (s := setBoxes s p q l) env hc ho ha
  have hran := ran_lbStep (user := false) (body := bodyCtxDestroy (.priv k) env) h nofun
    (by rw [e]; exact (onCtx_found (s := setBoxes s p q l) (mb := .priv k) _ rfl hc).trans hrule)
    (by
      rw [e]
      exact congrArg (fun b => bankGet b Mailbox.reset k.val)
        (hboxes.trans (eq_of_view unforced State.mboxes (fun _ => rfl) hsame)))
  have ht := hran.boxless_eq
  refine ⟨_, rfl, hran.self, ?_, ?_, ?_, ?_, ?_⟩
  · exact (eq_of_view boxless (fun u => ctxOf u _) (fun _ => rfl) ht).trans hctx
  · rw [eq_of_view boxless State.queues (fun _ => rfl) ht]
    exact hqueues
  · rw [eq_of_view boxless (fun u => u.link.exports) (fun _ => rfl) ht]
    exact hexports
  · rw [eq_of_view boxless (fun u => u.mem.resvs) (fun _ => rfl) ht]
    exact hresvs
  · rw [eq_of_view boxless State.fuses (fun _ => rfl) ht]
    exact hfuses.trans (eq_of_view (s := setBoxes s p q l) unforced State.fuses (fun _ => rfl) hsame)

theorem ctxPin_resident {b : Fin 32} {c : Context} (hn : n = argOf s (.priv k) 0) (hc : ctxOf s n = some c) (h : Taken s (.priv k) 0x03)
    (hr : c.resident = true) : ∃ t, exec (.ctxPin (.priv k) b env) s = .next t ∧
      Ran s t (.priv k) .ok [] { s with ctxs := bankPut s.ctxs n { c with wantRes := false, pinned := true } } := by
  subst hn
  refine ⟨_, rfl, ran_onCtx h hc fun p q l => ?_⟩
  have hm : makeResident (setBoxes s p q l) env (argOf s (.priv k) 0) b.val =
      some (modCtx (setBoxes s p q l) (argOf s (.priv k) 0) fun c => { c with wantRes := false }) := by
    unfold makeResident
    rw [ctxOf_setBoxes, hc]
    exact if_pos hr
  rw [hm]
  exact congrArg (·, Ans.ok) (modCtx_modCtx (s := setBoxes s p q l) hc _ _)

theorem ctxPin_first {b : Fin 32} {c : Context} (hn : n = argOf s (.priv k) 0) (hc : ctxOf s n = some c) (h : Taken s (.priv k) 0x03)
    (hr : c.resident = false) (hl : c.lost = false) (hk : c.saveKey = none) (h48 : (residents s).length < 48)
    (h32 : ((residents s).map (fun e => regionUnits e.2)).sum + c.pregion ≤ 32) (hfree : unitsFree s n c.pregion b.val = true) :
    ∃ t c', exec (.ctxPin (.priv k) b env) s = .next t ∧ Ran s t (.priv k) .ok [] { s with
        ctxs := t.ctxs, pantries := t.pantries } ∧ ctxOf t n = some c' ∧ c'.resident = true ∧ c'.pinned = true ∧
      c'.base = b.val ∧ c'.wantRes = false ∧ c'.table = c.table := by
  subst hn
  obtain ⟨p, q, l, hran⟩ := ran_of_rule (user := false) (st := .ok) (vs := []) (body := bodyCtxPin (.priv k) b.val env)
    (F := fun u => modCtx (settled u (argOf s (.priv k) 0) b.val c) (argOf s (.priv k) 0) fun c => { c with pinned := true }) h nofun
    (fun p q l => by
      refine (onCtx_found (s := setBoxes s p q l) (mb := .priv k) _ rfl hc).trans ?_
      rw [makeResident_first (s := setBoxes s p q l) (n := reqArg (mbGet s (.priv k)) 0) env hc hr hl hk h48 h32 hfree]
      rfl)
    (fun p q l => mbGet_congr (modCtx_mboxes ..) (modCtx_umboxes ..) _)
  have ht := hran.boxless_eq
  have hput : ctxOf (settled (setBoxes s p q l) (argOf s (.priv k) 0) b.val c) (argOf s (.priv k) 0) = _ := bankFind_put_same ..
  rw [modCtx_some hput] at hran ht
  refine ⟨_, _, rfl, hran.congr ?_, (eq_of_view boxless (fun u => ctxOf u _) (fun _ => rfl) ht).trans (bankFind_put_same ..),
    rfl, rfl, rfl, rfl, rfl⟩
  rw [eq_of_view boxless State.ctxs (fun _ => rfl) ht, eq_of_view boxless State.pantries (fun _ => rfl) ht]
  rfl

theorem ctxEvict_answer {c : Context} (hn : n = argOf s (.priv k) 0) (hc : ctxOf s n = some c) (h : Taken s (.priv k) 0x05) :
    (c.resident = false → ∃ t, exec (.ctxEvict (.priv k) env) s = .next t ∧ Ran s t (.priv k) .busy [] s) ∧
    (c.resident = true → evictable s n c = true → ∃ t c', exec (.ctxEvict (.priv k) env) s = .next t ∧
      Ran s t (.priv k) .ok [] t ∧ ctxOf t n = some c' ∧ c'.resident = false ∧ c'.table = c.table ∧
      (c.lost = false → c'.saved = regionCopy s c) ∧ t.queues = s.queues) ∧
    (c.resident = true → evictable s n c = false → ∃ t, exec (.ctxEvict (.priv k) env) s = .next t ∧
      Ran s t (.priv k) .busy [] s) := by
  subst hn
  have hbusy (he : evictable s (argOf s (.priv k) 0) c = false) : ∃ t, exec (.ctxEvict (.priv k) env) s = .next t ∧
      Ran s t (.priv k) .busy [] s :=
    ⟨_, rfl, ran_onCtx h hc fun p q l => if_neg (Bool.eq_false_iff.1 ((evictable_setBoxes s p q l _ c).trans he))⟩
  refine ⟨fun hr => hbusy ?_, fun hr he => ?_, fun _ => hbusy⟩
  · unfold evictable
    rw [hr]
    rfl
  · obtain ⟨p, q, l, hran⟩ := ran_rule_onCtx (user := false) (st := .ok) (vs := [])
      (f := fun s _ n c => if evictable s n c then (evict s env n, .ok) else refuse s .busy)
      (F := fun u => evict u env (argOf s (.priv k) 0)) h hc
      (fun p q l => if_pos ((evictable_setBoxes s p q l _ c).trans he))
      (fun p q l => (evict_spec (s := setBoxes s p q l) env hc).2.2)
    obtain ⟨⟨c', hc', hres, htab, hsav⟩, hqueues, -⟩ := evict_spec (s := setBoxes s p q l) env hc
    have ht := hran.boxless_eq
    exact ⟨_, c', rfl, hran.self, (eq_of_view boxless (fun u => ctxOf u _) (fun _ => rfl) ht).trans hc', hres, htab, hsav,
      (eq_of_view boxless State.queues (fun _ => rfl) ht).trans hqueues⟩

end

/-- Settles O54: one lemma for each command; room, eviction and destruction leave alone what the Letterbox and the other objects hold. -/
theorem contextCommandsAnswer : Obligations.ContextCommandsAnswer := by
  unfold Obligations.ContextCommandsAnswer
  intro s k env b n hn
  refine ⟨fun h => (ctxCreate_answer hn h).1, fun h => (ctxCreate_answer hn h).2, fun c hc => ⟨ctxDestroy_answer hn hc,
    ctxPin_resident hn hc, ctxPin_first hn hc, fun h => ?_, ctxEvict_answer hn hc⟩,
    fun m c hc hp hready hw hl hr hk h48 h32 hfree => ?_, fun mb c h hown hc => ?_⟩
  · subst hn
    exact ⟨_, rfl, ran_onCtx h hc fun p q l => congrArg (·, Ans.ok) (modCtx_some (s := setBoxes s p q l) hc _)⟩
  · refine ⟨settled s m.val b.val c, _, ?_, bankFind_put_same .., rfl, rfl, rfl, rfl, rfl⟩
    refine congrArg Host.Outcome.next ?_
    rw [hc]
    dsimp only
    rw [if_pos (by simp [hp, hready, hw, hl]), makeResident_first env hc hr hl hk h48 h32 hfree]
  · exact ⟨_, rfl, ran_of_body h (fun _ _ => rfl) fun p q l => onCtx_found (s := setBoxes s p q l) _ hown hc⟩

end Sys2Proof.Machine

/-!
Queue and stream commands (R250, R251, R359, R366, R387): how each one's own rule ends.
-/

namespace Sys2Proof.Machine

open Sys2Proof

section
variable {s : State} {k : Fin 16} {env : Env}

/-! ### QUEUE_CREATE (R355, R359) -/

/-- A queue as QUEUE_CREATE makes it. -/
def Queue.create (m : Mailbox) : Queue :=
  { ctx := reqArg m 0, cls := reqArg m 4 / 2 ^ 16 % 4, ringVa := reqArg m 2, cqVa := reqArg m 3, ringN := reqArg m 4 % 0x2000,
    vector := reqArg m 4 / 2 ^ 32 % 0x800, head := 0, tail := 0, state := .active, ovr := false, bell := 0, group := none, dying := false }

/-- A queue created by a request m for a context c, whose wait for residency then ends. -/
def queueMade (u : State) (m : Mailbox) (c : Context) : State := { u with
  ctxs := if reqArg m 4 / 2 ^ 16 % 4 = 0 then bankPut u.ctxs (reqArg m 0) { c with wantRes := false } else u.ctxs
  queues := bankPut u.queues (reqArg m 1) (Queue.create m) }

/-- A queue is created for a context that its class finds resident. -/
theorem bodyQueueCreate_ok {u : State} {m : Mailbox} {c : Context} {base : Nat} (hc : ctxOf u (reqArg m 0) = some c)
    (hq : reqArg m 1 ≤ 255) (hfree : queueOf u (reqArg m 1) = none) (h2 : reqArg m 2 % 4096 = 0) (h3 : reqArg m 3 % 4096 = 0)
    (hn : reqArg m 4 % 0x2000 ∈ [64, 128, 256, 512, 1024, 2048, 4096]) (hv : reqArg m 4 / 2 ^ 32 % 0x800 ≠ 0)
    (hr : reqArg m 4 / 2 ^ 16 % 4 = 0 → c.resident = true) : bodyQueueCreate base env u m =
      (queueMade u m c, .ok) := by
  have hring : [64, 128, 256, 512, 1024, 2048, 4096].contains (reqArg m 4 % 0x2000) = true := List.contains_iff_mem.2 hn
  have hargs : ¬ (!([64, 128, 256, 512, 1024, 2048, 4096].contains (reqArg m 4 % 0x2000)) || decide (reqArg m 2 % 4096 ≠ 0) ||
      decide (reqArg m 3 % 4096 ≠ 0) || decide (reqArg m 4 / 2 ^ 32 % 0x800 = 0)) = true := by
    rw [hring, decide_eq_false (not_not.2 h2), decide_eq_false (not_not.2 h3), decide_eq_false hv]
    decide
  unfold bodyQueueCreate queueMade
  dsimp only
  rw [hc]
  dsimp only
  rw [if_neg (Nat.not_lt.2 hq), if_neg (by rw [hfree]; exact Bool.false_ne_true), if_neg hargs]
  by_cases h0 : reqArg m 4 / 2 ^ 16 % 4 = 0
  · have hm : makeResident u env (reqArg m 0) base = some { u with ctxs := bankPut u.ctxs (reqArg m 0) { c with wantRes := false } } := by
      unfold makeResident
      rw [hc]
      exact (if_pos (hr h0)).trans (congrArg some (modCtx_some hc _))
    rw [if_pos h0, if_pos h0, hm]
    rfl
  · rw [if_neg h0, if_neg h0]
    rfl

theorem queueCreate_answer {base : Fin 32} {c : Context} {q : Nat} (h : Taken s (.priv k) 0x10) (hc : ctxOf s (argOf s (.priv k) 0) = some c)
    (hq : q = argOf s (.priv k) 1) (hle : q ≤ 255) :
    (queueOf s q ≠ none → ∃ t, exec (.queueCreate (.priv k) base env) s = .next t ∧ Ran s t (.priv k) .busy [] s) ∧
    (queueOf s q = none → argOf s (.priv k) 2 % 4096 = 0 → argOf s (.priv k) 3 % 4096 = 0 →
      argOf s (.priv k) 4 % 0x2000 ∈ [64, 128, 256, 512, 1024, 2048, 4096] → argOf s (.priv k) 4 / 2 ^ 32 % 0x800 ≠ 0 →
      (argOf s (.priv k) 4 / 2 ^ 16 % 4 = 0 → c.resident = true) →
      ∃ t x, exec (.queueCreate (.priv k) base env) s = .next t ∧ queueOf t q = some x ∧
        Ran s t (.priv k) .ok [] { s with queues := t.queues, ctxs := t.ctxs } ∧ x.ctx = argOf s (.priv k) 0 ∧
        x.cls = argOf s (.priv k) 4 / 2 ^ 16 % 4 ∧ x.ringVa = argOf s (.priv k) 2 ∧ x.cqVa = argOf s (.priv k) 3 ∧
        x.ringN = argOf s (.priv k) 4 % 0x2000 ∧ x.vector = argOf s (.priv k) 4 / 2 ^ 32 % 0x800 ∧ x.head = 0 ∧ x.tail = 0 ∧
        x.state = .active ∧ (∀ i, i ≠ q → queueOf t i = queueOf s i)) := by
  subst hq
  refine ⟨fun hbusy => ⟨_, rfl, ran_of_body h nofun fun p q l => ?_⟩, fun hfree h2 h3 hn hv hr => ?_⟩
  · unfold bodyQueueCreate
    dsimp only
    rw [show ctxOf (setBoxes s p q l) (reqArg (mbGet s (.priv k)) 0) = some c from hc]
    exact (if_neg (Nat.not_lt.2 hle)).trans (if_pos (Option.isSome_iff_ne_none.2 hbusy))
  · have hran := ran_of_body (user := false) (body := bodyQueueCreate base.val env) (u := queueMade s (mbGet s (.priv k)) c) h nofun fun p q l =>
      bodyQueueCreate_ok (u := setBoxes s p q l) (base := base.val) (env := env) hc hle hfree h2 h3 hn hv hr
    have ht := hran.boxless_eq
    have hqs := eq_of_view boxless State.queues (fun _ => rfl) ht
    have hcs := eq_of_view boxless State.ctxs (fun _ => rfl) ht
    refine ⟨_, Queue.create (mbGet s (.priv k)), rfl, ?_, hran.congr ?_, rfl, rfl, rfl, rfl, rfl, rfl, rfl, rfl, rfl, fun i hi => ?_⟩
    · rw [queueOf, hqs]
      exact bankFind_put_same ..
    · rw [hqs, hcs]
      rfl
    · rw [queueOf, hqs]
      exact bankFind_put_other _ _ hi

/-! ### QUEUE_DESTROY (R387) -/

theorem inFlight_of_unforced {s t : State} (h : unforced t = unforced s) {n : Nat} (hs : inFlight s n = 0) : inFlight t n = 0 := by
  have hops : t.ops.map Op.unwaited = s.ops.map Op.unwaited := congrArg State.ops h
  have hlen : ∀ l : List Op, (l.filter (fun o => decide (o.q = n))).length = ((l.map Op.unwaited).filter (fun o => decide (o.q = n))).length :=
    fun l => by rw [List.filter_map, List.length_map]; rfl
  unfold inFlight at hs ⊢
  rw [hlen, hops, ← hlen, hs]

theorem queueDestroy_answer {q : Queue} {n : Nat} (h : Taken s (.priv k) 0x11) (hn : n = argOf s (.priv k) 0) (hq : queueOf s n = some q) :
    ((argOf s (.priv k) 1).testBit 0 = false → pendingN q ≠ 0 ∨ inFlight s n ≠ 0 ∨ q.dying = true →
      ∃ t, exec (.queueDestroy (.priv k) env) s = .next t ∧ Ran s t (.priv k) .busy [] s) ∧
    ((argOf s (.priv k) 1).testBit 0 = false → pendingN q = 0 → inFlight s n = 0 → q.dying = false →
      ∃ t, exec (.queueDestroy (.priv k) env) s = .next t ∧
        Ran s t (.priv k) .ok [] { s with queues := bankErase s.queues n }) ∧
    ((argOf s (.priv k) 1).testBit 0 = true → inFlight s n = 0 → ∃ t, exec (.queueDestroy (.priv k) env) s = .next t ∧
      Ran s t (.priv k) .ok [] t ∧ queueOf t n = none) := by
  subst hn
  refine ⟨fun h0 hbusy => ⟨_, rfl, ran_of_body h nofun fun p q' l => ?_⟩, fun h0 hp hf hd => ⟨_, rfl, ran_of_body h nofun fun p q' l => ?_⟩,
    fun h1 hf => ?_⟩
  · exact (onQueue_priv (s := setBoxes s p q' l) hq).trans <| (if_neg (Bool.eq_false_iff.1 h0)).trans (if_pos hbusy)
  · refine (onQueue_priv (s := setBoxes s p q' l) hq).trans <| (if_neg (Bool.eq_false_iff.1 h0)).trans (if_neg ?_)
    rintro (h | h | h)
    · exact h hp
    · exact h hf
    · exact Bool.eq_false_iff.1 hd h
  · have hforce (p q' : Bank Mailbox) (l : Nat) := unforced_forceBegin (setBoxes s p q' l) env (argOf s (.priv k) 0)
    have hdrop (p q' : Bank Mailbox) (l : Nat) : unforced (dropQueue (forceBegin (setBoxes s p q' l) env (argOf s (.priv k) 0))
        (argOf s (.priv k) 0)) = unforced (setBoxes s p q' l) := Eq.trans rfl (hforce p q' l)
    obtain ⟨p, q', l, hran⟩ := ran_of_rule (user := false) (st := .ok) (vs := []) (body := bodyQueueDestroy (.priv k) env)
      (F := fun u => dropQueue (forceBegin u env (argOf s (.priv k) 0)) (argOf s (.priv k) 0)) h nofun
      (fun p q' l => (onQueue_priv (s := setBoxes s p q' l) hq).trans <| (if_pos h1).trans
        (if_pos (inFlight_of_unforced (hforce p q' l) hf)))
      (fun p q' l => mbGet_congr (eq_of_view unforced State.mboxes (fun _ => rfl) (hdrop p q' l))
        (eq_of_view unforced State.umboxes (fun _ => rfl) (hdrop p q' l)) _)
    exact ⟨_, rfl, hran.self, (eq_of_view boxless (fun u => queueOf u _) (fun _ => rfl) hran.boxless_eq).trans (bankFind_erase_same ..)⟩

/-! ### QUEUE_RESUME, QUEUE_FLUSH and QUEUE_QUERY (R366) -/

theorem onQueue_found {u : State} {mb : MbRef} {m : Mailbox} {x : Queue} (f : State → Mailbox → Nat → Queue → State × Ans)
    (hx : queueOf u (reqArg m 0) = some x) (hown : mbOwns mb x.ctx = true) : onQueue mb f u m = f u m (reqArg m 0) x := by
  unfold onQueue
  rw [hx]
  exact if_pos hown

/-- The pending commands of a queue end and HEAD becomes TAIL; the queue itself stays as it is. -/
theorem abortPending_spec {u : State} {n : Nat} {q : Queue} (hq : queueOf u n = some q) :
    queueOf (abortPending u env n) n = some { q with head := q.tail } := by
  unfold abortPending
  rw [hq]
  dsimp only
  have hsame := foldl_keeps (g := abortOne env n q) unaborted (unaborted_abortOne env n q)
    ((List.range (pendingN q)).map (fun k => (q.head + k) % 65536)) u
  generalize ((List.range (pendingN q)).map (fun k => (q.head + k) % 65536)).foldl (abortOne env n q) u = v at hsame
  rw [modQueue_of_find _ ((eq_of_view unaborted (fun u => queueOf u n) (fun _ => rfl) hsame).trans hq)]
  exact bankFind_put_same ..

theorem queueResume_answer {mb : MbRef} {n : Nat} {q : Queue} (h : Taken s mb 0x12) (hn : n = argOf s mb 0) (hq : queueOf s n = some q)
    (hown : mbOwns mb q.ctx = true) : ∃ t, exec (.queueResume mb) s = .next t ∧ Ran s t mb .ok [] { s with queues := t.queues } ∧
      queueOf t n = some (if q.state = .stopped then { q with state := .active } else q) := by
  subst hn
  by_cases hst : q.state = .stopped
  · have hran := ran_of_body (user := true) (body := onQueue mb fun s _ n q =>
        (if q.state = .stopped then modQueue s n (fun x => { x with state := .active }) else s, .ok))
        (u := { s with queues := bankPut s.queues (argOf s mb 0) { q with state := .active } }) h (fun _ _ => rfl) fun p q' l =>
      (onQueue_found (u := setBoxes s p q' l) _ hq hown).trans <|
        congrArg (·, Ans.ok) ((if_pos hst).trans (modQueue_of_find (s := setBoxes s p q' l) _ hq))
    have hqs := eq_of_view boxless State.queues (fun _ => rfl) hran.boxless_eq
    refine ⟨_, rfl, hran.congr ?_, ?_⟩
    · rw [hqs]
    · rw [queueOf, hqs, if_pos hst]
      exact bankFind_put_same ..
  · have hran := ran_of_body (user := true) (body := onQueue mb fun s _ n q =>
        (if q.state = .stopped then modQueue s n (fun x => { x with state := .active }) else s, .ok)) h (fun _ _ => rfl) fun p q' l =>
      (onQueue_found (u := setBoxes s p q' l) _ hq hown).trans <| congrArg (·, Ans.ok) (if_neg hst)
    have hqs := eq_of_view boxless State.queues (fun _ => rfl) hran.boxless_eq
    refine ⟨_, rfl, hran.congr ?_, ?_⟩
    · rw [hqs]
    · rw [queueOf, hqs, if_neg hst]
      exact hq

/-- A queue that is not stopped, as QUEUE_FLUSH leaves it (R366). -/
def goOn (x : Queue) : Queue := if x.state = .stopped then { x with state := .active } else x

theorem queueFlush_answer {mb : MbRef} {n : Nat} {q : Queue} (h : Taken s mb 0x13) (hn : n = argOf s mb 0) (hq : queueOf s n = some q)
    (hown : mbOwns mb q.ctx = true) (hd : q.dying = false) : ∃ t x, exec (.queueFlush mb env) s = .next t ∧
      Ran s t mb .ok [pendingN q] t ∧ queueOf t n = some x ∧ x.head = q.tail ∧ x.tail = q.tail ∧ x.state ≠ .stopped := by
  subst hn
  have hkeep (p q' : Bank Mailbox) (l : Nat) : unforced (modQueue (abortPending (setBoxes s p q' l) env (argOf s mb 0)) (argOf s mb 0) goOn) =
      unforced (setBoxes s p q' l) := (unforced_modQueue ..).trans (unforced_abortPending ..)
  obtain ⟨p, q', l, hran⟩ := ran_of_rule (user := true) (st := .ok) (vs := [pendingN q]) (body := onQueue mb fun s _ n q =>
      if q.dying then refuse s .busy
      else (modQueue (abortPending s env n) n (fun x => if x.state = .stopped then { x with state := .active } else x),
        .done .ok [pendingN q]))
    (F := fun u => modQueue (abortPending u env (argOf s mb 0)) (argOf s mb 0) goOn) h (fun _ _ => rfl)
    (fun p q' l => (onQueue_found (u := setBoxes s p q' l) _ hq hown).trans (if_neg (Bool.eq_false_iff.1 hd)))
    (fun p q' l => mbGet_congr (eq_of_view unforced State.mboxes (fun _ => rfl) (hkeep p q' l))
      (eq_of_view unforced State.umboxes (fun _ => rfl) (hkeep p q' l)) _)
  have hab := abortPending_spec (u := setBoxes s p q' l) (env := env) hq
  have ht := (eq_of_view boxless (fun u => queueOf u (argOf s mb 0)) (fun _ => rfl) hran.boxless_eq)
  rw [modQueue_of_find _ hab] at ht
  refine ⟨_, goOn { q with head := q.tail }, rfl, hran.self, ht.trans (bankFind_put_same ..), ?_⟩
  unfold goOn
  split
  · exact ⟨rfl, rfl, nofun⟩
  · exact ⟨rfl, rfl, ‹_›⟩

/-! ### STREAM_RESUME and STREAM_ABORT (R250, R251) -/

/-- The rule of a command on halted streams, where the command named is the context's and has some. -/
theorem onHalted_found {u : State} {k : Fin 16} {m : Mailbox} {c : Context} {o : Op} (f : State → OpId → Context → State × Ans)
    (hc : ctxOf u (reqArg m 0) = some c) (ho : findOp u (reqArg m 1 % 256, reqArg m 1 / 65536 % 65536) = some o)
    (hctx : o.ctx = reqArg m 0) (hh : haltedOf u (reqArg m 1 % 256, reqArg m 1 / 65536 % 65536) ≠ []) :
    onHalted (.priv k) f u m = f u (reqArg m 1 % 256, reqArg m 1 / 65536 % 65536) c := by
  refine (onCtx_found (mb := .priv k) _ rfl hc).trans ?_
  dsimp only
  rw [ho]
  refine if_pos ⟨hctx, ?_⟩
  rw [List.isEmpty_eq_false_iff.2 hh]
  rfl

/-- The halted streams of a command resumed, or a wait for the context (R250, R252). -/
def resumeRule (s : State) (id : OpId) (c : Context) : State × Ans :=
  if c.resident then ((haltedOf s id).foldl resumeOne s, .ok) else (s, .wait)

theorem streamResume_exec : exec (.streamResume (.priv k)) s = .next (lbStep (.priv k) 0x50 false (onHalted (.priv k) resumeRule) s) := rfl

theorem streamAbort_exec : exec (.streamAbort (.priv k) env) s =
    .next (lbStep (.priv k) 0x51 false (onHalted (.priv k) fun s id _ => (endOp s id .pageFault true, .ok)) s) := rfl

/-- A state without its Dumbwaiters and events: what showing and reporting a halt change. -/
def undumbed (s : State) : State := { quiet s with dumbs := [] }

theorem undumbed_showDw (s : State) (x : Stream) (st : Nat) : undumbed (showDw s x st) = undumbed s := by
  unfold showDw
  split <;> rfl

/-- A copy that halts, with or without its Dumbwaiter, keeps its place and changes no memory (R246, R249). -/
theorem haltStream_copy {s : State} {sid : Nat} {x : Stream} (c : FCode) (va : Nat) (hx : findStream s sid = some x) (hk : x.kind = .copy) :
    findStream (haltStream s sid c va) sid = some (haltedAt c va x) ∧ undumbed (haltStream s sid c va) = undumbed (modStream s sid (haltedAt c va)) := by
  have hfind : findStream (modStream s sid (haltedAt c va)) sid = some (haltedAt c va x) := by
    rw [findStream_modStream, if_pos rfl, hx]
    rfl
  have hsame : undumbed (haltStream s sid c va) = undumbed (modStream s sid (haltedAt c va)) := by
    unfold haltStream
    change undumbed (match findStream (modStream s sid (haltedAt c va)) sid with | none => _ | some x => _) = _
    rw [hfind]
    dsimp only
    rw [show (haltedAt c va x).kind = .copy from hk]
    dsimp only
    refine (congrArg undumbed (quiet_raiseEvent ..) :).trans ((undumbed_showDw ..).trans ?_)
    split <;> rfl
  exact ⟨(eq_of_view undumbed (fun u => findStream u sid) (fun _ => rfl) hsame).trans hfind, hsame⟩

theorem streamResume_waits {n : Nat} {c : Context} {id : OpId} {o : Op} (hn : n = argOf s (.priv k) 0) (hc : ctxOf s n = some c)
    (hid : id = (argOf s (.priv k) 1 % 256, argOf s (.priv k) 1 / 65536 % 65536)) (ho : findOp s id = some o) (hctx : o.ctx = n)
    (h : Taken s (.priv k) 0x50) (hr : c.resident = false) (hh : haltedOf s id ≠ []) :
    ∃ t, exec (.streamResume (.priv k)) s = .next t ∧ LbWaits s t (.priv k) := by
  subst hn hid
  exact ⟨_, streamResume_exec, lbWaits_of_body h nofun fun p q l =>
    (onHalted_found (u := setBoxes s p q l) _ hc ho hctx hh).trans (if_neg (Bool.eq_false_iff.1 hr))⟩

/-- A halted copy tries its address again (R250): it goes on, or halts anew. -/
theorem resumeOne_copy {u : State} {sid : Nat} {x : Stream} (hx : findStream u sid = some x) (hk : x.kind = .copy) :
    (stillFaults u x = none → findStream (resumeOne u (sid, x)) sid = some { x with state := .run, fcode := .none }) ∧
    (∀ f, stillFaults u x = some f → findStream (resumeOne u (sid, x)) sid = some (haltedAt f x.faultVa x)) ∧
    (resumeOne u (sid, x)).mem = u.mem ∧ (resumeOne u (sid, x)).mboxes = u.mboxes := by
  have hkeep {v : State} {y : Stream} (hv : resumeStream u sid x = v) (hy : findStream v sid = some y) (hyk : y.kind = .copy) :
      resumeOne u (sid, x) = v := by
    unfold resumeOne
    dsimp only
    rw [hv, hy]
    refine if_neg fun h => ?_
    rw [hyk] at h
    exact nomatch h.1
  cases hf : stillFaults u x with
  | none =>
    generalize hg : (fun x : Stream => { x with state := .run, fcode := .none }) = g
    have hgx : g x = { x with state := .run, fcode := .none } := by rw [← hg]
    have hres : resumeStream u sid x = showDw (modStream u sid g) x 1 := by
      unfold resumeStream
      rw [hf]
      dsimp only
      rw [hk, hg]
    have hfind : findStream (showDw (modStream u sid g) x 1) sid = some (g x) := by
      refine (eq_of_view undumbed (fun u => findStream u sid) (fun _ => rfl) (undumbed_showDw ..)).trans ?_
      rw [findStream_modStream, if_pos rfl, hx]
      rfl
    rw [hkeep hres hfind (by rw [hgx]; exact hk)]
    refine ⟨fun _ => hgx ▸ hfind, nofun, ?_, ?_⟩
    · exact (eq_of_view undumbed State.mem (fun _ => rfl) (undumbed_showDw ..)).trans (modStream_mem ..)
    · exact (eq_of_view undumbed State.mboxes (fun _ => rfl) (undumbed_showDw ..)).trans (modStream_mboxes ..)
  | some c =>
    have hres : resumeStream u sid x = haltStream u sid c x.faultVa := by
      unfold resumeStream
      rw [hf]
    obtain ⟨hfind, hsame⟩ := haltStream_copy c x.faultVa hx hk
    rw [hkeep hres hfind hk]
    refine ⟨nofun, fun f hf' => Option.some.inj hf' ▸ hfind, ?_, ?_⟩
    · exact (eq_of_view undumbed State.mem (fun _ => rfl) hsame).trans (modStream_mem ..)
    · exact (eq_of_view undumbed State.mboxes (fun _ => rfl) hsame).trans (modStream_mboxes ..)

theorem streamResume_copy {n sid : Nat} {c : Context} {id : OpId} {o : Op} {x : Stream} (hn : n = argOf s (.priv k) 0)
    (hc : ctxOf s n = some c) (hid : id = (argOf s (.priv k) 1 % 256, argOf s (.priv k) 1 / 65536 % 65536)) (ho : findOp s id = some o)
    (hctx : o.ctx = n) (h : Taken s (.priv k) 0x50) (hr : c.resident = true) (hh : haltedOf s id = [(sid, x)])
    (hx : findStream s sid = some x) (hk : x.kind = .copy) :
    ∃ t, exec (.streamResume (.priv k)) s = .next t ∧ Ran s t (.priv k) .ok [] t ∧ t.mem = s.mem ∧
      (stillFaults s x = none → findStream t sid = some { x with state := .run, fcode := .none }) ∧
      (∀ f, stillFaults s x = some f → ∃ y, findStream t sid = some y ∧ y.state = .halt ∧ y.fcode = f ∧ y.pos = x.pos) := by
  subst hn hid
  have hcopy (p q : Bank Mailbox) (l : Nat) := resumeOne_copy (u := setBoxes s p q l) hx hk
  have hhalted (p q : Bank Mailbox) (l : Nat) :
      haltedOf (setBoxes s p q l) (reqArg (mbGet s (.priv k)) 1 % 256, reqArg (mbGet s (.priv k)) 1 / 65536 % 65536) = [(sid, x)] := hh
  obtain ⟨p, q, l, hran⟩ := ran_of_rule (user := false) (st := .ok) (vs := []) (body := onHalted (.priv k) resumeRule)
    (F := fun u => resumeOne u (sid, x)) h nofun
    (fun p q l => (onHalted_found (u := setBoxes s p q l) _ hc ho hctx (by rw [hhalted]; exact List.cons_ne_nil _ _)).trans <|
      (if_pos hr).trans (by rw [hhalted]; rfl))
    (fun p q l => congrArg (fun b => bankGet b Mailbox.reset k.val) (hcopy p q l).2.2.2)
  obtain ⟨hgo, hhalt, hmem, -⟩ := hcopy p q l
  have ht := hran.boxless_eq
  have hfind := eq_of_view boxless (fun u => findStream u sid) (fun _ => rfl) ht
  refine ⟨_, streamResume_exec, hran.self, (eq_of_view boxless State.mem (fun _ => rfl) ht).trans hmem, fun hf => hfind.trans (hgo hf),
    fun f hf => ⟨_, hfind.trans (hhalt f hf), rfl, rfl, ?_⟩⟩
  unfold haltedAt
  rw [hk]
  rfl

theorem streams_freeHeld (s : State) (x : Stream) : (freeHeld s x).streams = s.streams := by unfold freeHeld; split <;> rfl

/-- A command that ends loses its streams (R251). -/
theorem streams_endOp {u : State} {id : OpId} {o : Op} (ho : findOp u id = some o) (hd : o.done = none) (st : Status) (aborted : Bool) :
    (endOp u id st aborted).streams = u.streams.filter (fun e => ¬ (e.2.op = id)) := by
  have hdrop : (dropStreams u id aborted).streams = u.streams.filter (fun e => ¬ (e.2.op = id)) := by
    refine foldl_keeps State.streams (fun s e => ?_) _ _
    split
    · exact streams_freeHeld ..
    · rfl
  have hclose (v : State) : (closeTrees v id).streams = v.streams := by
    refine (foldl_keeps State.streams (fun s t => ?_) _ _).trans rfl
    split <;> rfl
  unfold endOp
  rw [ho]
  dsimp only
  rw [if_neg (by rw [hd]; exact Bool.false_ne_true)]
  split
  · exact Eq.trans rfl ((hclose _).trans hdrop)
  · exact Eq.trans rfl ((hclose _).trans hdrop)

theorem streamAbort_ends {n : Nat} {c : Context} {id : OpId} {o : Op} (hn : n = argOf s (.priv k) 0) (hc : ctxOf s n = some c)
    (hid : id = (argOf s (.priv k) 1 % 256, argOf s (.priv k) 1 / 65536 % 65536)) (ho : findOp s id = some o) (hctx : o.ctx = n)
    (h : Taken s (.priv k) 0x51) (hh : haltedOf s id ≠ []) (hd : o.done = none) : ∃ t u, exec (.streamAbort (.priv k) env) s = .next t ∧
      Ran s t (.priv k) .ok [] t ∧ findOp t id = some u ∧ u.done = some .pageFault ∧ haltedOf t id = [] ∧ t.mem = s.mem := by
  subst hn
  obtain ⟨p, q, l, hran⟩ := ran_of_rule (user := false) (st := .ok) (vs := [])
    (body := onHalted (.priv k) fun s id _ => (endOp s id .pageFault true, .ok)) (F := fun u => endOp u id .pageFault true) h nofun
    (fun p q l => by subst hid; exact onHalted_found (u := setBoxes s p q l) _ hc ho hctx hh)
    (fun p q l => mbGet_congr (eq_of_view endless State.mboxes (fun _ => rfl) (endless_endOp ..))
      (eq_of_view endless State.umboxes (fun _ => rfl) (endless_endOp ..)) _)
  have ht := hran.boxless_eq
  refine ⟨_, _, streamAbort_exec, hran.self,
    (eq_of_view boxless (fun u => findOp u id) (fun _ => rfl) ht).trans (findOp_endOp_same (s := setBoxes s p q l) ho hd ..), rfl, ?_, ?_⟩
  · refine (eq_of_view boxless (fun u => haltedOf u id) (fun _ => rfl) ht).trans ?_
    rw [haltedOf, streams_endOp (u := setBoxes s p q l) ho hd, List.filter_filter, List.filter_eq_nil_iff]
    intro e _
    by_cases he : e.2.op = id <;> simp [he]
  · exact (eq_of_view boxless State.mem (fun _ => rfl) ht).trans
      (eq_of_view (s := setBoxes s p q l) endless State.mem (fun _ => rfl) (endless_endOp ..))

end

/-- Settles O55: one lemma for each command; a copy that resumes keeps its place, and an aborted command loses its streams. -/
theorem queueAndStreamCommandsAnswer : Obligations.QueueAndStreamCommandsAnswer := by
  unfold Obligations.QueueAndStreamCommandsAnswer
  intro s k env base
  refine ⟨fun c q h => queueCreate_answer h, fun q n h => queueDestroy_answer h, fun mb n q hn hq hown =>
    ⟨fun h => queueResume_answer h hn hq hown, fun h => queueFlush_answer h hn hq hown, fun h => ?_⟩,
    fun n c id o hn hc hid ho hctx => ⟨streamResume_waits hn hc hid ho hctx, fun sid x => streamResume_copy hn hc hid ho hctx,
      streamAbort_ends hn hc hid ho hctx⟩⟩
  subst hn
  refine ⟨_, rfl, ran_of_body h (fun _ _ => rfl) fun p q' l => (onQueue_found (u := setBoxes s p q' l) _ hq hown).trans ?_⟩
  cases q.state <;> rfl

end Sys2Proof.Machine

/-!
Mapping commands (R377 to R382, R423): pages given to an owner, translations entered, protected and removed.
-/

namespace Sys2Proof.Machine

open Sys2Proof

/-! ### Cleared bytes -/

theorem cellsGet_of_not_mem {x : Nat} : ∀ {l : List Host.Cell}, (∀ c ∈ l, c.1 ≠ x) → cellsGet l x = 0
  | [], _ => rfl
  | (k, v) :: l, h => by
    rw [cellsGet, if_neg (h (k, v) (List.mem_cons_self ..))]
    split
    · rfl
    · exact cellsGet_of_not_mem fun c hc => h c (List.mem_cons_of_mem _ hc)

theorem lt_of_wfFrom : ∀ {l : List Host.Cell} {k : Nat}, Memory.wfFrom (some k) l = true → ∀ c ∈ l, k < c.1
  | (j, v) :: l, k, h, c, hc => by
    simp only [Memory.wfFrom, Bool.and_eq_true, decide_eq_true_eq] at h
    rcases List.mem_cons.1 hc with rfl | hc
    · exact h.1.1
    · exact h.1.1.trans (lt_of_wfFrom h.2 c hc)

/-- Removing other cells of a canonical memory leaves a byte as it is. -/
theorem cellsGet_filter {x : Nat} {p : Host.Cell → Bool} (hp : ∀ v, p (x, v) = true) : ∀ {l : List Host.Cell} {lo : Option Nat},
    Memory.wfFrom lo l = true → cellsGet (l.filter p) x = cellsGet l x
  | [], _, _ => rfl
  | (k, v) :: l, lo, h => by
    simp only [Memory.wfFrom, Bool.and_eq_true] at h
    by_cases hk : p (k, v) = true
    · rw [List.filter_cons_of_pos hk, cellsGet, cellsGet, cellsGet_filter hp h.2]
    · have hne : k ≠ x := fun e => hk (e ▸ hp v)
      rw [List.filter_cons_of_neg hk, cellsGet, if_neg hne]
      by_cases hlt : x < k
      · rw [if_pos hlt]
        refine cellsGet_of_not_mem fun c hc e => ?_
        have hkc := lt_of_wfFrom h.2 c (List.mem_of_mem_filter hc)
        omega
      · rw [if_neg hlt]
        exact cellsGet_filter hp h.2

theorem get_clear_outside {m : Memory} (h : m.wf = true) {a n x : Nat} (hx : x < a ∨ a + n ≤ x) : (m.clear a n).get x = m.get x :=
  cellsGet_filter (fun v => by simpa using hx) h

/-! ### Pages given (R378) -/

/-- The pages of runs of units pages. -/
def runPages (units : Nat) (ps : List Nat) : List Nat := ps.flatMap fun p => (List.range units).map fun k => p + k

theorem takePages_eq (s : State) (o : Owner) (units : Nat) (ps : List Nat) :
    takePages s o units ps = (runPages units ps).foldl (fun s q => takePage s o q) s := by
  unfold takePages runPages
  induction ps generalizing s with
  | nil => rfl
  | cons p ps ih => rw [List.foldl_cons, ih, List.flatMap_cons, List.foldl_append, List.foldl_map]

theorem mem_runPages {units q : Nat} {ps : List Nat} : q ∈ runPages units ps ↔ ∃ p ∈ ps, ∃ k < units, p + k = q := by
  simp [runPages]

/-- Pages given to an owner, one by one. -/
def givePages (s : State) (o : Owner) (qs : List Nat) : State := qs.foldl (fun s q => takePage s o q) s

theorem givePages_frame (o : Owner) : ∀ (qs : List Nat) (s : State), givePages s o qs = { s with mem := (givePages s o qs).mem }
  | [], _ => rfl
  | q :: qs, s => (givePages_frame o qs (takePage s o q)).trans rfl

theorem givePages_setBoxes (o : Owner) (p q : Bank Mailbox) (l : Nat) : ∀ (qs : List Nat) (s : State),
    givePages (setBoxes s p q l) o qs = setBoxes (givePages s o qs) p q l
  | [], _ => rfl
  | r :: qs, s => givePages_setBoxes o p q l qs (takePage s o r)

theorem owners_givePages (o : Owner) {q : Nat} : ∀ (qs : List Nat) {s : State}, q ∈ qs ∨ bankFind s.mem.owners q = some o →
    bankFind (givePages s o qs).mem.owners q = some o
  | [], _, h => h.resolve_left List.not_mem_nil
  | r :: qs, s, h => by
    refine owners_givePages o qs (s := takePage s o r) ?_
    by_cases hr : q = r
    · exact .inr (hr ▸ bankFind_put_same ..)
    · refine (h.imp_left fun hq => (List.mem_cons.1 hq).resolve_left hr).imp_right fun hb => ?_
      exact (bankFind_put_other _ _ hr).trans hb

/-- The bytes of a page given have no cell left. -/
theorem cells_givePages (o : Owner) {a : Nat} : ∀ (qs : List Nat) {s : State}, (a / 0x10000 ∈ qs ∨ ∀ c ∈ s.mem.data.cells, c.1 ≠ a) →
    ∀ c ∈ (givePages s o qs).mem.data.cells, c.1 ≠ a
  | [], _, h => h.resolve_left List.not_mem_nil
  | r :: qs, s, h => by
    refine cells_givePages o qs (s := takePage s o r) ?_
    have hcells : (takePage s o r).mem.data.cells = (s.mem.data.clear (r * 0x10000) 0x10000).cells := rfl
    rw [hcells]
    by_cases hr : a / 0x10000 = r
    · refine .inr fun c hc e => ?_
      have := (List.mem_filter.1 hc).2
      simp only [Bool.or_eq_true, decide_eq_true_eq] at this
      omega
    · exact (h.imp_left fun hq => (List.mem_cons.1 hq).resolve_left hr).imp_right fun hz c hc => hz c (List.mem_of_mem_filter hc)

theorem get_givePages_zero (s : State) (o : Owner) {a : Nat} {qs : List Nat} (h : a / 0x10000 ∈ qs) :
    (givePages s o qs).mem.data.get a = 0 :=
  cellsGet_of_not_mem (cells_givePages o qs (.inl h))

theorem get_givePages_other (o : Owner) {a : Nat} : ∀ (qs : List Nat) {s : State}, s.mem.data.wf = true → a / 0x10000 ∉ qs →
    (givePages s o qs).mem.data.get a = s.mem.data.get a
  | [], _, _, _ => rfl
  | r :: qs, s, hwf, h => by
    rw [List.mem_cons, not_or] at h
    refine (get_givePages_other o qs (s := takePage s o r) (Memory.clear_wf hwf _ _) h.2).trans ?_
    exact get_clear_outside hwf (by omega)

theorem pickPages_want {s : State} {larder : Bool} {units k : Nat} {want : List Nat} (hk : want.length = k) (hd : allDistinct want = true)
    (hf : want.all (runFree s larder units) = true) : pickPages s larder units k want = some want := if_pos ⟨hk, hd, hf⟩

/-! ### MEM_MAP (R377, R378) -/

section
variable {s : State} {k : Fin 16} {n : Nat} {c : Context}

/-- What MEM_MAP checks of its arguments (Table 10.6): the source, the attributes, the page size and the range. -/
structure MapArgs (m : Mailbox) : Prop where
  src : reqArg m 3 / 4 % 4 ≠ 3
  large : (reqArg m 3).testBit 0 = true → reqArg m 3 / 4 % 4 = 0
  shared : reqArg m 3 / 4 % 4 = 2 → (reqArg m 3).testBit 10 = false

/-- Bytes of one translation that MEM_MAP enters. -/
def mapSize (m : Mailbox) : Nat := if (reqArg m 3).testBit 0 then 0x2000000 else 0x10000

/-- The translation that MEM_MAP enters at place i. -/
def mapEntry (m : Mailbox) (tgt : Nat → Target) (alloc : Bool) (i : Nat) : Mapping :=
  ⟨reqArg m 1 + i * mapSize m, (reqArg m 3).testBit 0, tgt i, BitVec.ofNat 8 (reqArg m 3 / 256 % 16), alloc, none⟩

/-- MEM_MAP's rule for well-formed arguments: the range decides, then the source. -/
theorem bodyMemMap_args {u : State} {m : Mailbox} {want : List Nat} (hc : ctxOf u (reqArg m 0) = some c) (ha : MapArgs m) :
    bodyMemMap (.priv k) want u m = match mapRefusal u c (reqArg m 1) (mapSize m) (reqArg m 2) with
      | some st => refuse u st
      | none =>
        if reqArg m 3 / 4 % 4 = 2 then
          (addMaps u (reqArg m 0) ((List.range (reqArg m 2)).map (mapEntry m (fun i => .host (reqArg m 4 + i * mapSize m)) false)), .ok)
        else match pickPages u (decide (reqArg m 3 / 4 % 4 = 1)) (mapSize m / 0x10000) (reqArg m 2) want with
          | none => refuse u .noMemory
          | some ps =>
            (testFences (addMaps (takePages u (.ctx (reqArg m 0)) (mapSize m / 0x10000) ps) (reqArg m 0)
              ((List.range (reqArg m 2)).map (mapEntry m (fun i => .dev (ps.getD i 0 * 0x10000)) true))), .ok) := by
  have hattr : reqArg m 3 / 4 % 4 = 2 → (BitVec.ofNat 8 (reqArg m 3 / 256 % 16)).getLsbD 2 = false := by
    intro h2
    have := ha.shared h2
    rw [BitVec.getLsbD_ofNat]
    simp only [Nat.testBit, Nat.shiftRight_eq_div_pow] at this ⊢
    have e : reqArg m 3 / 256 % 16 / 2 ^ 2 % 2 = reqArg m 3 / 2 ^ 10 % 2 := by omega
    simp_all
  unfold bodyMemMap
  refine (onCtx_found (mb := .priv k) _ rfl hc).trans ?_
  refine (if_neg ?_).trans rfl
  rintro (h | ⟨h, h2⟩ | ⟨hl, h0⟩)
  · exact ha.src h
  · exact Bool.eq_false_iff.1 (hattr h2) h
  · exact h0 (ha.large hl)

theorem mapRefusal_mapped {u : State} {va size cnt : Nat} (h0 : cnt ≠ 0) (hva : va % size = 0) (hend : va + cnt * size ≤ 2 ^ 48)
    (hhit : c.table.any (fun m => m.meets va (cnt * size)) = true) : mapRefusal u c va size cnt = some .mapped :=
  (if_neg (by omega)).trans (if_pos hhit)

theorem mapRefusal_none {u : State} {va size cnt : Nat} (h0 : cnt ≠ 0) (hva : va % size = 0) (hend : va + cnt * size ≤ 2 ^ 48)
    (hfree : c.table.any (fun m => m.meets va (cnt * size)) = false) (hroom : tableSize u + cnt ≤ 786432) :
    mapRefusal u c va size cnt = none :=
  (if_neg (by omega)).trans <| (if_neg (Bool.eq_false_iff.1 hfree)).trans (if_neg (by omega))

theorem addMaps_eq {u : State} (hc : ctxOf u n = some c) (ms : List Mapping) :
    addMaps u n ms = { u with ctxs := bankPut u.ctxs n { c with table := c.table ++ ms } } := modCtx_some hc _

/-- MEM_MAP of a range that is taken, or of host pages: nothing but the table changes. -/
theorem memMap_host {pages : List Nat} {size : Nat} (hn : n = argOf s (.priv k) 0) (hc : ctxOf s n = some c) (h : Taken s (.priv k) 0x20)
    (ha : MapArgs (mbGet s (.priv k))) (hsize : size = mapSize (mbGet s (.priv k))) (h0 : argOf s (.priv k) 2 ≠ 0)
    (hva : argOf s (.priv k) 1 % size = 0) (hend : argOf s (.priv k) 1 + argOf s (.priv k) 2 * size ≤ 2 ^ 48) :
    (c.table.any (fun m => m.meets (argOf s (.priv k) 1) (argOf s (.priv k) 2 * size)) = true →
      ∃ t, exec (.memMap (.priv k) pages) s = .next t ∧ Ran s t (.priv k) .mapped [] s) ∧
    (c.table.any (fun m => m.meets (argOf s (.priv k) 1) (argOf s (.priv k) 2 * size)) = false →
      tableSize s + argOf s (.priv k) 2 ≤ 786432 → argOf s (.priv k) 3 / 4 % 4 = 2 →
      ∃ t, exec (.memMap (.priv k) pages) s = .next t ∧ Ran s t (.priv k) .ok [] { s with
        ctxs := bankPut s.ctxs n { c with
          table := c.table ++ (List.range (argOf s (.priv k) 2)).map
            (mapEntry (mbGet s (.priv k)) (fun i => .host (argOf s (.priv k) 4 + i * size)) false) } }) := by
  subst hn hsize
  refine ⟨fun hhit => ⟨_, rfl, ran_of_body h nofun fun p q l => ?_⟩, fun hfree hroom h2 => ⟨_, rfl, ran_of_body h nofun fun p q l => ?_⟩⟩
  · refine (bodyMemMap_args (u := setBoxes s p q l) hc ha).trans ?_
    have hr : mapRefusal (setBoxes s p q l) c (reqArg (mbGet s (.priv k)) 1) (mapSize (mbGet s (.priv k))) (reqArg (mbGet s (.priv k)) 2) =
        some .mapped := mapRefusal_mapped h0 hva hend hhit
    rw [hr]
    rfl
  · refine (bodyMemMap_args (u := setBoxes s p q l) hc ha).trans ?_
    have hr : mapRefusal (setBoxes s p q l) c (reqArg (mbGet s (.priv k)) 1) (mapSize (mbGet s (.priv k))) (reqArg (mbGet s (.priv k)) 2) =
        none := mapRefusal_none (u := setBoxes s p q l) h0 hva hend hfree hroom
    rw [hr]
    exact (if_pos h2).trans (congrArg (·, Ans.ok) (addMaps_eq (u := setBoxes s p q l) hc _))

/-- The pages of a MEM_MAP given to the context and entered in its table. -/
def mappedTo (s : State) (n : Nat) (c : Context) (m : Mailbox) (pages : List Nat) : State := { s with
  mem := (givePages s (.ctx n) (runPages (mapSize m / 0x10000) pages)).mem
  ctxs := bankPut s.ctxs n { c with
    table := c.table ++ (List.range (reqArg m 2)).map (mapEntry m (fun i => .dev (pages.getD i 0 * 0x10000)) true) } }

/-- MEM_MAP of device pages that Yilium can take: they are the context's and read 0, and nothing else changes. -/
theorem memMap_device {pages : List Nat} {size : Nat} (hn : n = argOf s (.priv k) 0) (hc : ctxOf s n = some c) (h : Taken s (.priv k) 0x20)
    (ha : MapArgs (mbGet s (.priv k))) (hsize : size = mapSize (mbGet s (.priv k))) (h0 : argOf s (.priv k) 2 ≠ 0)
    (hva : argOf s (.priv k) 1 % size = 0) (hend : argOf s (.priv k) 1 + argOf s (.priv k) 2 * size ≤ 2 ^ 48)
    (hfree : c.table.any (fun m => m.meets (argOf s (.priv k) 1) (argOf s (.priv k) 2 * size)) = false)
    (hroom : tableSize s + argOf s (.priv k) 2 ≤ 786432) (h2 : argOf s (.priv k) 3 / 4 % 4 ≠ 2)
    (hlen : pages.length = argOf s (.priv k) 2) (hd : allDistinct pages = true)
    (hrun : pages.all (runFree s (decide (argOf s (.priv k) 3 / 4 % 4 = 1)) (size / 0x10000)) = true) :
    ∃ t c', exec (.memMap (.priv k) pages) s = .next t ∧
      Ran s t (.priv k) .ok [] { s with ctxs := t.ctxs, mem := t.mem, ops := t.ops, corr := t.corr } ∧ ctxOf t n = some c' ∧
      c'.table = c.table ++ (List.range (argOf s (.priv k) 2)).map
        (mapEntry (mbGet s (.priv k)) (fun i => .dev (pages.getD i 0 * 0x10000)) true) ∧
      t.mem = (givePages s (.ctx n) (runPages (size / 0x10000) pages)).mem := by
  subst hn hsize
  have hrule (p q : Bank Mailbox) (l : Nat) : bodyMemMap (.priv k) pages (setBoxes s p q l) (mbGet s (.priv k)) =
      (testFences (setBoxes (mappedTo s (argOf s (.priv k) 0) c (mbGet s (.priv k)) pages) p q l), .ok) := by
    refine (bodyMemMap_args (u := setBoxes s p q l) hc ha).trans ?_
    have hr : mapRefusal (setBoxes s p q l) c (reqArg (mbGet s (.priv k)) 1) (mapSize (mbGet s (.priv k))) (reqArg (mbGet s (.priv k)) 2) =
        none := mapRefusal_none (u := setBoxes s p q l) h0 hva hend hfree hroom
    have hpick : pickPages (setBoxes s p q l) (decide (reqArg (mbGet s (.priv k)) 3 / 4 % 4 = 1)) (mapSize (mbGet s (.priv k)) / 0x10000)
        (reqArg (mbGet s (.priv k)) 2) pages = some pages := pickPages_want (s := setBoxes s p q l) hlen hd hrun
    rw [hr]
    refine (if_neg h2).trans ?_
    rw [hpick]
    dsimp only
    rw [takePages_eq]
    have hctx : ctxOf (givePages (setBoxes s p q l) (.ctx (reqArg (mbGet s (.priv k)) 0))
        (runPages (mapSize (mbGet s (.priv k)) / 0x10000) pages)) (reqArg (mbGet s (.priv k)) 0) = some c := by
      rw [givePages_frame]
      exact hc
    refine congrArg (fun u => (testFences u, Ans.ok)) ((addMaps_eq hctx _).trans ?_)
    rw [givePages_setBoxes, givePages_frame]
    rfl
  obtain ⟨p, q, l, hran⟩ := ran_of_rule (user := false) (st := .ok) (vs := []) (body := bodyMemMap (.priv k) pages)
    (F := fun u => testFences (setBoxes (mappedTo s (argOf s (.priv k) 0) c (mbGet s (.priv k)) pages) u.mboxes u.umboxes u.lastMbox)) h nofun
    hrule (fun p q l => by
      obtain ⟨ops, corr, ht⟩ := testFences_frame (setBoxes (mappedTo s (argOf s (.priv k) 0) c (mbGet s (.priv k)) pages) p q l)
      exact (congrArg (fun u => mbGet u (.priv k)) ht).trans rfl)
  obtain ⟨ops, corr, ht⟩ := testFences_frame (setBoxes (mappedTo s (argOf s (.priv k) 0) c (mbGet s (.priv k)) pages) p q l)
  have hsame := hran.boxless_eq
  have hmapped : testFences (setBoxes (mappedTo s (argOf s (.priv k) 0) c (mbGet s (.priv k)) pages) (setBoxes s p q l).mboxes
      (setBoxes s p q l).umboxes (setBoxes s p q l).lastMbox) = _ := ht
  rw [hmapped] at hran hsame
  have hctxs := eq_of_view boxless State.ctxs (fun _ => rfl) hsame
  have hmem := eq_of_view boxless State.mem (fun _ => rfl) hsame
  refine ⟨_, { c with table := _ }, rfl, hran.congr ?_, ?_, rfl, hmem⟩
  · rw [hctxs, hmem, eq_of_view boxless State.ops (fun _ => rfl) hsame, eq_of_view boxless State.corr (fun _ => rfl) hsame]
    rfl
  · rw [ctxOf, hctxs]
    exact bankFind_put_same ..

/-! ### MEM_UNMAP and MEM_PROTECT (R379, R380) -/

/-- A flushed range leaves no entry of the context that meets it (R379). -/
theorem dtc_dtcFlush (u : State) (va len : Nat) : ∀ e ∈ (dtcFlush u n va len).xlate.dtc, e.2.ctx = n → e.2.map.meets va len = false := by
  intro e he hn
  have hkeep := of_decide_eq_true (List.mem_filter.1 he).2
  unfold Mapping.meets
  by_contra hm
  simp only [Bool.not_eq_false, Bool.and_eq_true, decide_eq_true_eq] at hm
  exact hkeep ⟨hn, hm.1, hm.2⟩

/-- Pages that go back to the pool change owners, bad pages and retired pages alone. -/
def unfreed (s : State) : State := { s with mem := { s.mem with owners := [], badPages := [] }, nvm := State.reset.nvm }

theorem unfreed_freePage (s : State) (page : Nat) : unfreed (freePage s page) = unfreed s := by
  unfold freePage retirePage
  dsimp only
  split
  · split <;> rfl
  · rfl

theorem unfreed_freeMap (s : State) (m : Mapping) : unfreed (freeMap s m) = unfreed s := by
  unfold freeMap
  split
  · exact foldl_keeps unfreed (fun _ _ => unfreed_freePage ..) _ s
  · rfl

/-- A range unmapped but for the pages that go back to the pool. -/
def unmapped (s : State) (n : Nat) (c : Context) (va len : Nat) : State :=
  dtcFlush { s with ctxs := bankPut s.ctxs n { c with table := c.table.filter (fun m => !(m.meets va len)) } } n va len

theorem unfreed_unmapRange {u : State} (hc : ctxOf u n = some c) (va len : Nat) :
    unfreed (unmapRange u n va len) = unfreed (unmapped u n c va len) := by
  unfold unmapRange
  rw [hc]
  dsimp only
  rw [modCtx_some hc]
  exact foldl_keeps (g := freeMap) unfreed unfreed_freeMap _ _

theorem memUnmap_ok {va len : Nat} (hn : n = argOf s (.priv k) 0) (hc : ctxOf s n = some c) (hva : va = argOf s (.priv k) 1)
    (hl : len = argOf s (.priv k) 2 * 0x10000) (hunits : unitsRefusal c va (argOf s (.priv k) 2) = none)
    (hacc : accessesOut s n = false) (h : Taken s (.priv k) 0x21) (ha : c.arena = none) (hx : exported s n va len = false)
    (hsh : c.table.any (fun x => x.meets va len && x.shid.isSome) = false) : ∃ t c', exec (.memUnmap (.priv k)) s = .next t ∧
      Ran s t (.priv k) .ok [] { s with ctxs := t.ctxs, xlate := t.xlate, mem := t.mem, nvm := t.nvm } ∧ ctxOf t n = some c' ∧
      c'.table = c.table.filter (fun m => !(m.meets va len)) ∧ t.mem.data = s.mem.data ∧
      (∀ e ∈ t.xlate.dtc, e.2.ctx = n → e.2.map.meets va len = false) := by
  subst hn hva hl
  have hkeep (p q : Bank Mailbox) (l : Nat) := unfreed_unmapRange (u := setBoxes s p q l) hc (argOf s (.priv k) 1) (argOf s (.priv k) 2 * 0x10000)
  obtain ⟨p, q, l, hran⟩ := ran_of_rule (user := false) (st := .ok) (vs := []) (body := bodyMemUnmap (.priv k))
    (F := fun u => unmapRange u (argOf s (.priv k) 0) (argOf s (.priv k) 1) (argOf s (.priv k) 2 * 0x10000)) h nofun
    (fun p q l => by
      refine (onCtx_found (s := setBoxes s p q l) (mb := .priv k) _ rfl hc).trans ?_
      dsimp only
      rw [show unitsRefusal c (reqArg (mbGet s (.priv k)) 1) (reqArg (mbGet s (.priv k)) 2) = none from hunits, ha]
      refine (if_neg ?_).trans <| (if_neg (Bool.eq_false_iff.1 hsh)).trans (if_neg (Bool.eq_false_iff.1 hacc))
      rw [Bool.false_or]
      exact Bool.eq_false_iff.1 hx)
    (fun p q l => mbGet_congr (eq_of_view unfreed State.mboxes (fun _ => rfl) ((hkeep p q l).trans rfl))
      (eq_of_view unfreed State.umboxes (fun _ => rfl) ((hkeep p q l).trans rfl)) _)
  have hk := hkeep p q l
  have ht := hran.boxless_eq
  generalize unmapRange (setBoxes s p q l) (argOf s (.priv k) 0) (argOf s (.priv k) 1) (argOf s (.priv k) 2 * 0x10000) = v at hk hran ht
  have hv : v = { unmapped (setBoxes s p q l) (argOf s (.priv k) 0) c (argOf s (.priv k) 1) (argOf s (.priv k) 2 * 0x10000) with
      mem := v.mem, nvm := v.nvm } := congrArg (fun u : State => { u with mem := v.mem, nvm := v.nvm }) hk
  have hctxs := eq_of_view boxless State.ctxs (fun _ => rfl) ht
  have hxlate := eq_of_view boxless State.xlate (fun _ => rfl) ht
  have hmem := eq_of_view boxless State.mem (fun _ => rfl) ht
  have hnvm := eq_of_view boxless State.nvm (fun _ => rfl) ht
  refine ⟨_, { c with table := _ }, rfl, hran.congr ?_, ?_, rfl, ?_, ?_⟩
  · rw [hctxs, hxlate, hmem, hnvm]
    rw [hv]
    rfl
  · rw [ctxOf, hctxs, hv]
    exact bankFind_put_same ..
  · rw [hmem]
    exact (congrArg (fun u : State => u.mem.data) hk :)
  · rw [hxlate, hv]
    exact fun e he => dtc_dtcFlush _ _ _ e he

theorem memProtect_ok {va len : Nat} (hn : n = argOf s (.priv k) 0) (hc : ctxOf s n = some c) (hva : va = argOf s (.priv k) 1)
    (hl : len = argOf s (.priv k) 2 * 0x10000) (hunits : unitsRefusal c va (argOf s (.priv k) 2) = none)
    (hacc : accessesOut s n = false) (h : Taken s (.priv k) 0x22) (hb : (argOf s (.priv k) 3).testBit 2 = false) :
    ∃ t c', exec (.memProtect (.priv k)) s = .next t ∧
      Ran s t (.priv k) .ok [] { s with ctxs := t.ctxs, xlate := t.xlate } ∧ ctxOf t n = some c' ∧
      c'.table = c.table.map (fun m => if m.meets va len then
        { m with attr := if m.shid.isSome then BitVec.ofNat 8 (argOf s (.priv k) 3 % 16) ||| 4
                         else BitVec.ofNat 8 (argOf s (.priv k) 3 % 16) } else m) ∧
      (∀ e ∈ t.xlate.dtc, e.2.ctx = n → e.2.map.meets va len = false) := by
  subst hn hva hl
  have hattr : (BitVec.ofNat 8 (argOf s (.priv k) 3 % 16) : Byte).getLsbD 2 = false := by
    rw [BitVec.getLsbD_ofNat]
    simp only [Nat.testBit, Nat.shiftRight_eq_div_pow] at hb ⊢
    have e : argOf s (.priv k) 3 % 16 / 2 ^ 2 % 2 = argOf s (.priv k) 3 / 2 ^ 2 % 2 := by omega
    simp_all
  generalize hf : (fun x : Mapping => if x.meets (argOf s (.priv k) 1) (argOf s (.priv k) 2 * 0x10000) then
    x.protect (BitVec.ofNat 8 (argOf s (.priv k) 3 % 16)) else x) = f
  have hran := ran_of_body (user := false) (st := .ok) (vs := []) (body := bodyMemProtect (.priv k))
    (u := dtcFlush { s with ctxs := bankPut s.ctxs (argOf s (.priv k) 0) { c with table := c.table.map f } } (argOf s (.priv k) 0)
      (argOf s (.priv k) 1) (argOf s (.priv k) 2 * 0x10000)) h nofun fun p q l => by
    refine (onCtx_found (s := setBoxes s p q l) (mb := .priv k) _ rfl hc).trans ?_
    dsimp only
    rw [show unitsRefusal c (reqArg (mbGet s (.priv k)) 1) (reqArg (mbGet s (.priv k)) 2) = none from hunits,
      show (BitVec.ofNat 8 (reqArg (mbGet s (.priv k)) 3 % 16) : Byte).getLsbD 2 = false from hattr]
    refine (if_neg ?_).trans <| (if_neg (Bool.eq_false_iff.1 hacc)).trans ?_
    · rw [Bool.false_and]
      exact Bool.false_ne_true
    · rw [← hf]
      exact congrArg (fun u => (dtcFlush u (argOf s (.priv k) 0) (argOf s (.priv k) 1) (argOf s (.priv k) 2 * 0x10000), Ans.ok))
        (modCtx_some (s := setBoxes s p q l) hc _)
  have ht := hran.boxless_eq
  have hctxs := eq_of_view boxless State.ctxs (fun _ => rfl) ht
  have hxlate := eq_of_view boxless State.xlate (fun _ => rfl) ht
  refine ⟨_, { c with table := c.table.map f }, rfl, hran.congr ?_, ?_, ?_, ?_⟩
  · rw [hctxs, hxlate]
    rfl
  · rw [ctxOf, hctxs]
    exact bankFind_put_same ..
  · rw [← hf]
    rfl
  · rw [hxlate]
    exact fun e he => dtc_dtcFlush _ _ _ e he

/-! ### ARENA_SET and REMOTE_MAP (R381, R423) -/

/-- A context's arena as ARENA_SET leaves it: gone where the size is 0. -/
def arenaMade (u : State) (m : Mailbox) (c : Context) : State := { u with ctxs := bankPut u.ctxs (reqArg m 0) { c with
  arena := if reqArg m 2 = 0 then none else some ⟨reqArg m 1, reqArg m 2, []⟩ } }

theorem bodyArenaSet_rule {u : State} {m : Mailbox} (hc : ctxOf u (reqArg m 0) = some c) (ho : ∀ o ∈ u.ops, o.ctx ≠ reqArg m 0)
    (hargs : reqArg m 2 ≠ 0 → arenaSize (reqArg m 2) = true ∧ reqArg m 1 % max 1 (reqArg m 2) = 0 ∧ reqArg m 1 + reqArg m 2 ≤ 2 ^ 48 ∧
      reqArg m 2 ≤ ((c.table.filter (fun x => x.meets (reqArg m 1) (reqArg m 2))).map
        (fun x => min (x.va + x.size) (reqArg m 1 + reqArg m 2) - max x.va (reqArg m 1))).sum ∧
      ∀ x ∈ c.table.filter (fun x => x.meets (reqArg m 1) (reqArg m 2)), x.r = true ∧ x.w = true ∧ x.sho = false) :
    bodyArenaSet (.priv k) u m = (arenaMade u m c, .ok) := by
  have hops : u.ops.any (fun o => decide (o.ctx = reqArg m 0)) = false := List.any_eq_false.2 fun o h => by simp [ho o h]
  refine (onCtx_found (mb := .priv k) _ rfl hc).trans ?_
  refine (if_neg ?_).trans <| (if_neg ?_).trans <| (if_neg ?_).trans <| (if_neg (Bool.eq_false_iff.1 hops)).trans ?_
  · rintro ⟨h0, h⟩
    obtain ⟨h1, h2, h3, -⟩ := hargs h0
    rcases h with h | h | h
    · rw [h1] at h
      exact Bool.noConfusion h
    · exact h h2
    · exact absurd h3 (Nat.not_le.2 h)
  · rintro ⟨h0, h⟩
    exact absurd (hargs h0).2.2.2.1 (Nat.not_le.2 h)
  · rintro ⟨h0, h⟩
    obtain ⟨x, hx, hbad⟩ := List.any_eq_true.1 h
    obtain ⟨hr, hw, hs⟩ := (hargs h0).2.2.2.2 x hx
    rw [hr, hw, hs] at hbad
    exact Bool.noConfusion hbad
  · exact congrArg (·, Ans.ok) (modCtx_some hc _)

theorem remoteMap_ok {tp : Topo} (hn : n = argOf s (.priv k) 0) (hc : ctxOf s n = some c) (h : Taken s (.priv k) 0x97) (hS : isS s = false)
    (ht : s.link.topo = some tp) (hnode : argOf s (.priv k) 3 < tp.nodes) (hex : argOf s (.priv k) 4 ≤ 63)
    (hoff : argOf s (.priv k) 5 + argOf s (.priv k) 2 ≤ 2 ^ 26)
    (hmap : mapRefusal s c (argOf s (.priv k) 1) 0x10000 (argOf s (.priv k) 2) = none) : ∃ t, exec (.remoteMap (.priv k)) s = .next t ∧
      Ran s t (.priv k) .ok [] { s with
        ctxs := bankPut s.ctxs n { c with
        table := c.table ++ (List.range (argOf s (.priv k) 2)).map (fun i => ⟨argOf s (.priv k) 1 + i * 0x10000, false,
          .remote (argOf s (.priv k) 3) (argOf s (.priv k) 4) (argOf s (.priv k) 5 + i),
          BitVec.ofNat 8 (argOf s (.priv k) 6 % 16), false, none⟩) } } := by
  subst hn
  refine ⟨_, rfl, ran_onLinks (body := onCtx (.priv k) _) hS h fun p q l => (onCtx_found (s := setBoxes s p q l) (mb := .priv k) _ rfl hc).trans ?_⟩
  dsimp only
  rw [show (setBoxes s p q l).link.topo = some tp from ht]
  dsimp only
  have hargs : ¬ (tp.nodes ≤ reqArg (mbGet s (.priv k)) 3 ∨ 63 < reqArg (mbGet s (.priv k)) 4 ∨
      2 ^ 26 < reqArg (mbGet s (.priv k)) 5 + reqArg (mbGet s (.priv k)) 2) := by
    change ¬ (tp.nodes ≤ argOf s (.priv k) 3 ∨ 63 < argOf s (.priv k) 4 ∨ 2 ^ 26 < argOf s (.priv k) 5 + argOf s (.priv k) 2)
    omega
  refine (if_neg hargs).trans ?_
  rw [show mapRefusal (setBoxes s p q l) c (reqArg (mbGet s (.priv k)) 1) 0x10000 (reqArg (mbGet s (.priv k)) 2) = none from hmap]
  exact congrArg (·, Ans.ok) (addMaps_eq (u := setBoxes s p q l) hc _)

end

/-- Settles O56: one lemma for each command; pages given, entries flushed and pages freed are told once for all. -/
theorem mappingCommandsAnswer : Obligations.MappingCommandsAnswer := by
  unfold Obligations.MappingCommandsAnswer
  intro s k n c hn hc
  refine ⟨fun pages h va cnt src size large hva hcnt hlarge hsrc hsize h3 hl hsh h0 hal hend => ?_,
    fun va len hva hl hunits hacc => ⟨memUnmap_ok hn hc hva hl hunits hacc, memProtect_ok hn hc hva hl hunits hacc⟩, fun h ho h0 => ?_,
    fun base size hit h hb hs hh has hal hend hcov hok ho => ?_, fun h => ?_, fun tp h hS => remoteMap_ok hn hc h hS⟩
  · subst hva hcnt hlarge hsrc
    have ha : MapArgs (mbGet s (.priv k)) := ⟨h3, hl, hsh⟩
    have hsz : size = mapSize (mbGet s (.priv k)) := hsize
    obtain ⟨hmapped, hhost⟩ := memMap_host (pages := pages) hn hc h ha hsz h0 hal hend
    refine ⟨hmapped, fun hfree hroom => ⟨fun h2 => ?_, fun h2 hlen hd hrun => ?_⟩⟩
    · have hsmall : (argOf s (.priv k) 3).testBit 0 = false := by
        by_contra hb
        have := hl (Bool.eq_true_of_not_eq_false hb)
        omega
      have hentry : mapEntry (mbGet s (.priv k)) (fun i => .host (argOf s (.priv k) 4 + i * size)) false =
          fun i => ⟨argOf s (.priv k) 1 + i * size, false, .host (argOf s (.priv k) 4 + i * size),
            BitVec.ofNat 8 (argOf s (.priv k) 3 / 256 % 16), false, none⟩ := by
        funext i
        unfold mapEntry
        rw [← hsz, show (reqArg (mbGet s (.priv k)) 3).testBit 0 = false from hsmall]
        rfl
      rw [← hentry]
      exact hhost hfree hroom h2
    · obtain ⟨t, c', hexec, hran, hctx, htab, hmem⟩ := memMap_device hn hc h ha hsz h0 hal hend hfree hroom h2 hlen hd hrun
      have hentry : mapEntry (mbGet s (.priv k)) (fun i => .dev (pages.getD i 0 * 0x10000)) true =
          fun i => ⟨argOf s (.priv k) 1 + i * size, (argOf s (.priv k) 3).testBit 0, .dev (pages.getD i 0 * 0x10000),
            BitVec.ofNat 8 (argOf s (.priv k) 3 / 256 % 16), true, none⟩ := by
        funext i
        unfold mapEntry
        rw [← hsz]
        rfl
      have hunit : size / 0x10000 * 0x10000 = size := by
        rw [hsize]
        split <;> rfl
      refine ⟨t, c', hexec, hran, hctx, hentry ▸ htab, fun p hp j hj => ?_, fun p hp a hlo hhi => ?_, fun hwf a hout => ?_⟩
      · rw [hmem]
        exact owners_givePages _ _ (.inl (mem_runPages.2 ⟨p, hp, j, hj, rfl⟩))
      · rw [hmem]
        exact get_givePages_zero _ _ (mem_runPages.2 ⟨p, hp, a / 0x10000 - p, by omega, by omega⟩)
      · rw [hmem]
        refine get_givePages_other _ _ hwf fun hin => ?_
        obtain ⟨p, hp, j, hj, he⟩ := mem_runPages.1 hin
        have := hout p hp
        omega
  · subst hn
    refine ⟨_, rfl, (ran_of_body (user := false) (body := bodyArenaSet (.priv k)) (u := arenaMade s (mbGet s (.priv k)) c) h nofun fun p q l =>
      bodyArenaSet_rule (u := setBoxes s p q l) hc ho (fun hne => absurd h0 hne)).congr ?_⟩
    unfold arenaMade
    rw [show reqArg (mbGet s (.priv k)) 2 = 0 from h0]
    rfl
  · subst hn hb hs hh
    have hpos : 0 < argOf s (.priv k) 2 := by
      obtain ⟨j, -, hj⟩ := List.any_eq_true.1 has
      rw [of_decide_eq_true hj]
      exact Nat.two_pow_pos _
    refine ⟨_, rfl, (ran_of_body (user := false) (body := bodyArenaSet (.priv k)) (u := arenaMade s (mbGet s (.priv k)) c) h nofun fun p q l =>
      bodyArenaSet_rule (u := setBoxes s p q l) hc ho (fun _ => ⟨has, ?_, hend, hcov, hok⟩)).congr ?_⟩
    · exact (congrArg (argOf s (.priv k) 1 % ·) (Nat.max_eq_right hpos)).trans hal
    · exact congrArg (fun a => boxless { s with ctxs := bankPut s.ctxs (argOf s (.priv k) 0) { c with arena := a } })
        (if_neg (Nat.pos_iff_ne_zero.1 hpos))
  · subst hn
    refine ⟨_, rfl, ran_onCtx h hc fun p q l => ?_⟩
    cases c.arena <;> rfl

end Sys2Proof.Machine

/-!
Shared objects and kernels (R378, R384 to R386, R564): how each command's own rule ends.
-/

namespace Sys2Proof.Machine

open Sys2Proof

section
variable {s : State} {k : Fin 16} {env : Env} {n : Nat} {c : Context}

/-! ### SHARE_CREATE and SHARE_MAP (R384) -/

/-- A shared object made of pages, its count word 1. -/
def shareMade (s : State) (sh : Nat) (pages : List Nat) : State := { s with
  shares := bankPut s.shares sh ⟨pages, []⟩
  mem := { (givePages s (.share sh) (runPages 1 pages)).mem with
    data := (givePages s (.share sh) (runPages 1 pages)).mem.data.write (pages.headD 0 * 0x10000) (toBytes 8 1) } }

theorem wf_givePages (o : Owner) : ∀ (qs : List Nat) {s : State}, s.mem.data.wf = true → (givePages s o qs).mem.data.wf = true
  | [], _, h => h
  | q :: qs, s, h => wf_givePages o qs (s := takePage s o q) (Memory.clear_wf h _ _)

theorem shareCreate_ok {shid : Fin 4096} {pages : List Nat} {cnt : Nat} (hn : n = argOf s (.priv k) 0) (hc : ctxOf s n = some c)
    (h : Taken s (.priv k) 0x30) (hcnt : cnt = argOf s (.priv k) 1) (h0 : cnt ≠ 0) (h2 : argOf s (.priv k) 2 ≤ 1)
    (hfree : bankFind s.shares shid.val = none) (hlen : pages.length = cnt) (hd : allDistinct pages = true)
    (hrun : pages.all (runFree s (decide (argOf s (.priv k) 2 = 1)) 1) = true) (hwf : s.mem.data.wf = true) :
    ∃ t, exec (.shareCreate (.priv k) shid pages) s = .next t ∧
      Ran s t (.priv k) .ok [shid.val, pages.headD 0 * 0x10000] { s with shares := t.shares, mem := t.mem } ∧
      bankFind t.shares shid.val = some ⟨pages, []⟩ ∧ t.mem.data.nat (pages.headD 0 * 0x10000) 8 = 1 ∧
      (∀ p ∈ pages, bankFind t.mem.owners p = some (.share shid.val)) := by
  subst hn hcnt
  have hargs : ¬ (argOf s (.priv k) 1 = 0 ∨ 1 < argOf s (.priv k) 2) := by omega
  have hran := ran_of_body (user := false) (body := bodyShareCreate (.priv k) shid.val pages) (u := shareMade s shid.val pages) h nofun
    fun p q l => by
      refine (onCtx_found (s := setBoxes s p q l) (mb := .priv k) _ rfl hc).trans ((if_neg hargs).trans ?_)
      have hsh : pickShid (setBoxes s p q l) shid.val = some shid.val :=
        if_pos (by rw [show bankFind (setBoxes s p q l).shares shid.val = none from hfree]; rfl)
      have hpick : pickPages (setBoxes s p q l) (decide (reqArg (mbGet s (.priv k)) 2 = 1)) 1 (reqArg (mbGet s (.priv k)) 1) pages =
          some pages := pickPages_want (s := setBoxes s p q l) hlen hd hrun
      have htake : takePages (setBoxes s p q l) (.share shid.val) 1 pages =
          setBoxes (givePages s (.share shid.val) (runPages 1 pages)) p q l := (takePages_eq ..).trans (givePages_setBoxes ..)
      rw [hsh, hpick]
      dsimp only
      rw [htake, givePages_frame]
      rfl
  have ht := hran.boxless_eq
  have hshares := eq_of_view boxless State.shares (fun _ => rfl) ht
  have hmem := eq_of_view boxless State.mem (fun _ => rfl) ht
  refine ⟨_, rfl, hran.congr ?_, ?_, ?_, fun p hp => ?_⟩
  · rw [hshares, hmem]
    rfl
  · rw [hshares]
    exact bankFind_put_same ..
  · rw [hmem]
    exact Memory.nat_write_toBytes (wf_givePages _ _ hwf) _ 8 1
  · rw [hmem]
    exact owners_givePages _ _ (.inl (mem_runPages.2 ⟨p, hp, 0, by decide, rfl⟩))

/-- A shared object mapped into a context's table, with one REF taken. -/
def shareMapped (s : State) (n : Nat) (c : Context) (sh : Nat) (x : Share) (ms : List Mapping) : State :=
  audTake { s with
    ctxs := bankPut s.ctxs n { c with table := c.table ++ ms }, shares := bankPut s.shares sh { x with maps := x.maps ++ [n] } } 5 1

theorem shareMap_ok {x : Share} {va sh : Nat} (hn : n = argOf s (.priv k) 0) (hc : ctxOf s n = some c) (h : Taken s (.priv k) 0x31)
    (hsh : sh = argOf s (.priv k) 1) (hva : va = argOf s (.priv k) 2) (hx : bankFind s.shares sh = some x) (hnot : n ∉ x.maps)
    (hmap : mapRefusal s c va 0x10000 x.pages.length = none) :
    ∃ t, exec (.shareMap (.priv k)) s = .next t ∧ Ran s t (.priv k) .ok [] { s with
        ctxs := bankPut s.ctxs n { c with
          table := c.table ++ (List.range x.pages.length).map (fun i =>
          ⟨va + i * 0x10000, false, .dev (x.pages.getD i 0 * 0x10000), BitVec.ofNat 8 (argOf s (.priv k) 3 % 16) ||| 4, false,
            some sh⟩) },
        shares := bankPut s.shares sh { x with maps := x.maps ++ [n] }, corr := t.corr } ∧
      (audOf t 5).take = (audOf s 5).take + 1 := by
  subst hn hsh hva
  have hran := ran_of_body (user := false) (body := bodyShareMap (.priv k))
    (u := shareMapped s (argOf s (.priv k) 0) c (argOf s (.priv k) 1) x ((List.range x.pages.length).map (fun i =>
      ⟨argOf s (.priv k) 2 + i * 0x10000, false, .dev (x.pages.getD i 0 * 0x10000), BitVec.ofNat 8 (argOf s (.priv k) 3 % 16) ||| 4, false,
        some (argOf s (.priv k) 1)⟩))) h nofun fun p q l => by
      refine (onCtx_found (s := setBoxes s p q l) (mb := .priv k) _ rfl hc).trans ?_
      dsimp only
      rw [show bankFind (setBoxes s p q l).shares (reqArg (mbGet s (.priv k)) 1) = some x from hx]
      refine (if_neg fun hin => hnot (List.contains_iff_mem.1 hin)).trans ?_
      rw [show mapRefusal (setBoxes s p q l) c (reqArg (mbGet s (.priv k)) 2) 0x10000 x.pages.length = none from hmap]
      dsimp only
      rw [addMaps_eq (show ctxOf (setBoxes s p q l) (reqArg (mbGet s (.priv k)) 0) = some c from hc)]
      rfl
  have hcorr := eq_of_view boxless State.corr (fun _ => rfl) hran.boxless_eq
  refine ⟨_, rfl, hran.congr ?_, ?_⟩
  · rw [hcorr]
    rfl
  · rw [audOf, hcorr]
    exact congrArg Aud.take ((audOf_audTake ..).trans (if_pos rfl))

/-! ### SHARE_UNMAP and SHARE_RELEASE (R385) -/

theorem corr_foundUe (u : State) (g : Nat) (src : Finder) (who : Option Nat) (event : Bool) : (foundUe u g src who event).corr = u.corr := by
  have hp (v : State) (pa : Nat) : (poisonedPage v pa).corr = v.corr := by
    unfold poisonedPage retirePage
    split
    · rfl
    · split <;> rfl
  have hs (v : State) : (setPoison v g).corr = v.corr := by unfold setPoison; split <;> rfl
  unfold foundUe
  dsimp only
  rw [hp]
  split
  · exact (raiseEvent_corr ..).trans ((addFrec_corr ..).trans (hs u))
  · exact (addFrec_corr ..).trans (hs u)

theorem corr_readGranule (u : State) (src : Finder) (who : Option Nat) (g : Nat) : (readGranule u env src who g).1.corr = u.corr := by
  have hq (v : State) : (queueScrub v g).corr = v.corr := by
    unfold queueScrub
    split <;> split <;> rfl
  unfold readGranule
  dsimp only
  split
  · rfl
  · split
    · exact corr_foundUe ..
    · split
      · exact (hq _).trans rfl
      · rfl

theorem corr_readGranules (src : Finder) (who : Option Nat) : ∀ (gs : List Nat) (u : State), (readGranules env src who gs u).1.corr = u.corr
  | [], _ => rfl
  | g :: gs, u => by
    rw [readGranules]
    split
    · exact corr_readGranule ..
    · exact (corr_readGranules src who gs _).trans (corr_readGranule ..)

theorem countZero_frame (u : State) (x : Share) : unread (countZero u env x).1 = unread u ∧ (countZero u env x).1.corr = u.corr := by
  have h : unread (readPa u env .sweep none (x.pages.headD 0 * 0x10000) 8).1 = unread u ∧
      (readPa u env .sweep none (x.pages.headD 0 * 0x10000) 8).1.corr = u.corr := ⟨unread_readPa .., corr_readGranules ..⟩
  unfold countZero
  split
  all_goals next he => rw [he] at h; exact h

theorem countZero_clean {u : State} {x : Share} (h : CleanRead u env (x.pages.headD 0 * 0x10000) 8) :
    countZero u env x = (u, decide (u.mem.data.nat (x.pages.headD 0 * 0x10000) 8 = 0)) := by
  unfold countZero
  rw [readPa_clean h]
  rfl

theorem unfreed_freePages (ps : List Nat) (u : State) : unfreed (ps.foldl freePage u) = unfreed u :=
  foldl_keeps (g := freePage) unfreed unfreed_freePage ps u

/-- The mappings of a shared object gone from a context's table, with its REF given back. -/
def shareLeft (u : State) (n : Nat) (c : Context) (sh : Nat) (x : Share) : State :=
  audGive { (c.table.filter (fun m => decide (m.shid = some sh))).foldl (fun u m => dtcFlush u n m.va m.size)
      { u with ctxs := bankPut u.ctxs n { c with table := c.table.filter (fun m => decide (m.shid ≠ some sh)) } } with
    shares := bankPut u.shares sh { x with maps := x.maps.filter (· ≠ n) } } 5 1

/-- What remains the same of a state when entries of its DTC go. -/
def unflushed (s : State) : State := { s with xlate := Xlate.reset }

theorem unflushed_shareLeft (u : State) (sh : Nat) (x : Share) : unflushed (shareLeft u n c sh x) = unflushed (audGive { u with
    ctxs := bankPut u.ctxs n { c with table := c.table.filter (fun m => decide (m.shid ≠ some sh)) },
    shares := bankPut u.shares sh { x with maps := x.maps.filter (· ≠ n) } } 5 1) := by
  have h := foldl_keeps (g := fun u m => dtcFlush u n m.va m.size) unflushed (fun _ _ => rfl)
    (c.table.filter (fun m => decide (m.shid = some sh)))
    { u with ctxs := bankPut u.ctxs n { c with table := c.table.filter (fun m => decide (m.shid ≠ some sh)) } }
  exact (congrArg (fun v => unflushed (audGive { v with
    shares := bankPut u.shares sh { x with maps := x.maps.filter (· ≠ n) } } 5 1)) h :)

theorem unmapShare_eq {u : State} {sh : Nat} {x : Share} (hc : ctxOf u n = some c) (hx : bankFind u.shares sh = some x) :
    unmapShare u env n sh =
      if (x.maps.filter (· ≠ n)).isEmpty then
        if (countZero (shareLeft u n c sh x) env { x with maps := x.maps.filter (· ≠ n) }).2 then
          freeShare (countZero (shareLeft u n c sh x) env { x with maps := x.maps.filter (· ≠ n) }).1 sh
            { x with maps := x.maps.filter (· ≠ n) }
        else (countZero (shareLeft u n c sh x) env { x with maps := x.maps.filter (· ≠ n) }).1
      else shareLeft u n c sh x := by
  have hshares : (modCtx u n fun c => { c with table := c.table.filter (fun m => decide (m.shid ≠ some sh)) }).shares = u.shares :=
    modCtx_shares ..
  have hfold (v : State) (ms : List Mapping) : (ms.foldl (fun u m => dtcFlush u n m.va m.size) v).shares = v.shares :=
    foldl_keeps (g := fun u m => dtcFlush u n m.va m.size) State.shares (fun _ _ => rfl) ms v
  unfold unmapShare
  rw [hx, hc]
  dsimp only
  rw [hfold, hshares, modCtx_some hc]
  rfl

/-- What SHARE_UNMAP leaves: the context without the object's translations, one REF given back, and every byte. -/
theorem unmapShare_spec {u : State} {sh : Nat} {x : Share} (hc : ctxOf u n = some c) (hx : bankFind u.shares sh = some x) :
    ctxOf (unmapShare u env n sh) n = some { c with table := c.table.filter (fun m => decide (m.shid ≠ some sh)) } ∧
      (audOf (unmapShare u env n sh) 5).give = (audOf u 5).give + 1 ∧ (unmapShare u env n sh).mem.data = u.mem.data ∧
      (unmapShare u env n sh).mboxes = u.mboxes ∧
      (x.maps.filter (· ≠ n) ≠ [] → bankFind (unmapShare u env n sh).shares sh = some { x with maps := x.maps.filter (· ≠ n) }) := by
  rw [unmapShare_eq hc hx]
  have hleft := unflushed_shareLeft (n := n) (c := c) u sh x
  generalize shareLeft u n c sh x = v at hleft
  have hctx : ctxOf v n = some { c with table := c.table.filter (fun m => decide (m.shid ≠ some sh)) } :=
    (eq_of_view unflushed (fun u => ctxOf u n) (fun _ => rfl) hleft).trans (bankFind_put_same ..)
  have haud : (audOf v 5).give = (audOf u 5).give + 1 :=
    (eq_of_view unflushed (fun u => (audOf u 5).give) (fun _ => rfl) hleft).trans
      (congrArg Aud.give ((audOf_audGive ..).trans (if_pos rfl)))
  have hdata : v.mem.data = u.mem.data := (eq_of_view unflushed (fun u => u.mem.data) (fun _ => rfl) hleft).trans rfl
  have hboxes : v.mboxes = u.mboxes := (eq_of_view unflushed State.mboxes (fun _ => rfl) hleft).trans rfl
  have hshare : bankFind v.shares sh = some { x with maps := x.maps.filter (· ≠ n) } :=
    (eq_of_view unflushed (fun u => bankFind u.shares sh) (fun _ => rfl) hleft).trans (bankFind_put_same ..)
  obtain ⟨hz, hzc⟩ := countZero_frame (env := env) v { x with maps := x.maps.filter (· ≠ n) }
  have hzctx := (eq_of_view unread (fun u => ctxOf u n) (fun _ => rfl) hz).trans hctx
  have hzaud := (congrArg (fun c : Corridor => (bankGet c.aud ⟨0, 0, 0⟩ 5).give) hzc).trans haud
  have hzdata := (eq_of_view unread (fun u => u.mem.data) (fun _ => rfl) hz).trans hdata
  have hzboxes := (eq_of_view unread State.mboxes (fun _ => rfl) hz).trans hboxes
  split
  next hempty =>
    have hnil : x.maps.filter (· ≠ n) ≠ [] → False := fun h => h (List.isEmpty_iff.1 hempty)
    generalize countZero v env { x with maps := x.maps.filter (· ≠ n) } = r at hzctx hzaud hzdata hzboxes
    split
    · have hf := unfreed_freePages x.pages r.1
      exact ⟨(eq_of_view unfreed (fun u => ctxOf u n) (fun _ => rfl) hf).trans hzctx,
        (eq_of_view unfreed (fun u => (audOf u 5).give) (fun _ => rfl) hf).trans hzaud,
        (eq_of_view unfreed (fun u => u.mem.data) (fun _ => rfl) hf).trans hzdata,
        (eq_of_view unfreed State.mboxes (fun _ => rfl) hf).trans hzboxes, fun h => (hnil h).elim⟩
    · exact ⟨hzctx, hzaud, hzdata, hzboxes, fun h => (hnil h).elim⟩
  next => exact ⟨hctx, haud, hdata, hboxes, fun _ => hshare⟩

theorem shareUnmap_ok {x : Share} {sh : Nat} (hn : n = argOf s (.priv k) 0) (hc : ctxOf s n = some c) (h : Taken s (.priv k) 0x32)
    (hsh : sh = argOf s (.priv k) 1) (hx : bankFind s.shares sh = some x) (hin : n ∈ x.maps) (hacc : accessesOut s n = false) :
    ∃ t c', exec (.shareUnmap (.priv k) env) s = .next t ∧ Ran s t (.priv k) .ok [] t ∧
      ctxOf t n = some c' ∧ c'.table = c.table.filter (fun m => decide (m.shid ≠ some sh)) ∧
      (audOf t 5).give = (audOf s 5).give + 1 ∧ t.mem.data = s.mem.data ∧
      (x.maps.filter (· ≠ n) ≠ [] → bankFind t.shares sh = some { x with maps := x.maps.filter (· ≠ n) }) := by
  subst hn hsh
  obtain ⟨p, q, l, e⟩ := begun_eq_setBoxes s (.priv k)
  obtain ⟨hctx, haud, hdata, hboxes, hshare⟩ := unmapShare_spec (u := setBoxes s p q l) (env := env) hc hx
  obtain ⟨body, hexec, hrule⟩ : ∃ body, exec (.shareUnmap (.priv k) env) s = .next (lbStep (.priv k) 0x32 false body s) ∧
      body (setBoxes s p q l) (mbGet s (.priv k)) =
        (unmapShare (setBoxes s p q l) env (argOf s (.priv k) 0) (argOf s (.priv k) 1), .ok) := by
    refine ⟨_, rfl, (onCtx_found (s := setBoxes s p q l) (mb := .priv k) _ rfl hc).trans ?_⟩
    rw [show bankFind (setBoxes s p q l).shares (reqArg (mbGet s (.priv k)) 1) = some x from hx]
    refine (if_neg ?_).trans (if_neg (Bool.eq_false_iff.1 hacc))
    rw [show x.maps.contains (reqArg (mbGet s (.priv k)) 0) = true from List.contains_iff_mem.2 hin]
    decide
  have hran := ran_lbStep (user := false) h nofun (by rw [e]; exact hrule)
    (by rw [e]; exact congrArg (fun b => bankGet b Mailbox.reset k.val) hboxes)
  have ht := hran.boxless_eq
  exact ⟨_, _, hexec, hran.self, (eq_of_view boxless (fun u => ctxOf u _) (fun _ => rfl) ht).trans hctx, rfl,
    (eq_of_view boxless (fun u => (audOf u 5).give) (fun _ => rfl) ht).trans haud,
    (eq_of_view boxless (fun u => u.mem.data) (fun _ => rfl) ht).trans hdata,
    fun hne => (eq_of_view boxless (fun u => bankFind u.shares _) (fun _ => rfl) ht).trans (hshare hne)⟩

theorem owners_freePages {q : Nat} : ∀ (ps : List Nat) {u : State}, q ∈ ps ∨ bankFind u.mem.owners q = none →
    bankFind (ps.foldl freePage u).mem.owners q = none
  | [], _, h => h.resolve_left List.not_mem_nil
  | p :: ps, u, h => by
    have hp : (freePage u p).mem.owners = bankErase u.mem.owners p := by
      unfold freePage retirePage
      dsimp only
      split
      · split <;> rfl
      · rfl
    refine owners_freePages ps (u := freePage u p) ?_
    rw [hp]
    by_cases hq : q = p
    · exact .inr (hq ▸ bankFind_erase_same ..)
    · refine (h.imp_left fun hin => (List.mem_cons.1 hin).resolve_left hq).imp_right fun hnone => ?_
      exact bankFind_filter_none hnone

/-- SHARE_RELEASE's rule for an object with a readable count word. -/
theorem shareRelease_exec (x : Share) (hx : bankFind s.shares (argOf s (.priv k) 0) = some x) :
    ∃ body, exec (.shareRelease (.priv k) env) s = .next (lbStep (.priv k) 0x33 false body s) ∧
      (x.maps ≠ [] → ∀ p q l, body (setBoxes s p q l) (mbGet s (.priv k)) = (setBoxes s p q l, .done .busy [])) ∧
      (x.maps = [] → CleanRead s env (x.pages.headD 0 * 0x10000) 8 → ∀ p q l, body (setBoxes s p q l) (mbGet s (.priv k)) =
        if s.mem.data.nat (x.pages.headD 0 * 0x10000) 8 = 0 then (freeShare (setBoxes s p q l) (argOf s (.priv k) 0) x, .ok)
        else (setBoxes s p q l, .done .busy [])) := by
  refine ⟨_, rfl, fun hm p q l => ?_, fun hm hclean p q l => ?_⟩
  · rw [show bankFind (setBoxes s p q l).shares (reqArg (mbGet s (.priv k)) 0) = some x from hx]
    refine if_pos ?_
    rw [List.isEmpty_eq_false_iff.2 hm]
    rfl
  · rw [show bankFind (setBoxes s p q l).shares (reqArg (mbGet s (.priv k)) 0) = some x from hx]
    dsimp only
    rw [countZero_clean (u := setBoxes s p q l) hclean, hm]
    refine (if_neg (by decide)).trans ?_
    dsimp only
    simp only [decide_eq_true_eq]
    rfl

theorem shareRelease_answer {x : Share} {sh : Nat} (h : Taken s (.priv k) 0x33) (hsh : sh = argOf s (.priv k) 0)
    (hx : bankFind s.shares sh = some x) :
    (x.maps ≠ [] → ∃ t, exec (.shareRelease (.priv k) env) s = .next t ∧ Ran s t (.priv k) .busy [] s) ∧
    (x.maps = [] → CleanRead s env (x.pages.headD 0 * 0x10000) 8 → s.mem.data.nat (x.pages.headD 0 * 0x10000) 8 ≠ 0 →
      ∃ t, exec (.shareRelease (.priv k) env) s = .next t ∧ Ran s t (.priv k) .busy [] s) ∧
    (x.maps = [] → CleanRead s env (x.pages.headD 0 * 0x10000) 8 → s.mem.data.nat (x.pages.headD 0 * 0x10000) 8 = 0 →
      ∃ t, exec (.shareRelease (.priv k) env) s = .next t ∧ bankFind t.shares sh = none ∧
        Ran s t (.priv k) .ok [] { s with shares := t.shares, mem := t.mem, nvm := t.nvm } ∧ t.mem.data = s.mem.data ∧
        (∀ p ∈ x.pages, bankFind t.mem.owners p = none)) := by
  subst hsh
  obtain ⟨body, hexec, hbusy, hfree⟩ := shareRelease_exec (env := env) x hx
  refine ⟨fun hm => ⟨_, hexec, ran_of_body h nofun (hbusy hm)⟩,
    fun hm hclean hne => ⟨_, hexec, ran_of_body h nofun fun p q l => (hfree hm hclean p q l).trans (if_neg hne)⟩, fun hm hclean hz => ?_⟩
  have hkeep (p q : Bank Mailbox) (l : Nat) := unfreed_freePages x.pages (setBoxes s p q l)
  have hboxes (p q : Bank Mailbox) (l : Nat) : (freeShare (setBoxes s p q l) (argOf s (.priv k) 0) x).mboxes = p :=
    eq_of_view unfreed State.mboxes (fun _ => rfl) (hkeep p q l)
  obtain ⟨p, q, l, hran⟩ := ran_of_rule (user := false) (F := fun u => freeShare u (argOf s (.priv k) 0) x) h nofun
    (fun p q l => (hfree hm hclean p q l).trans (if_pos hz))
    (fun p q l => congrArg (fun b => bankGet b Mailbox.reset k.val) (hboxes p q l))
  have hk := hkeep p q l
  have ho : ∀ p' ∈ x.pages, bankFind (x.pages.foldl freePage (setBoxes s p q l)).mem.owners p' = none :=
    fun p' hp' => owners_freePages x.pages (.inl hp')
  have ht : boxless (lbStep (.priv k) 0x33 false body s) = boxless { x.pages.foldl freePage (setBoxes s p q l) with
    shares := bankErase s.shares (argOf s (.priv k) 0) } := hran.boxless_eq
  have hmem := eq_of_view boxless State.mem (fun _ => rfl) ht
  have hshares := eq_of_view boxless State.shares (fun _ => rfl) ht
  have hnvm := eq_of_view boxless State.nvm (fun _ => rfl) ht
  refine ⟨_, hexec, ?_, hran.self.congr ?_, ?_, fun p' hp' => ?_⟩
  · rw [hshares]
    exact bankFind_erase_same ..
  · rw [hmem, hshares, hnvm, ht]
    generalize x.pages.foldl freePage (setBoxes s p q l) = v at hk
    have hv : v = { setBoxes s p q l with mem := v.mem, nvm := v.nvm } :=
      congrArg (fun u : State => { u with mem := v.mem, nvm := v.nvm }) hk
    rw [hv]
    rfl
  · rw [hmem]
    exact (congrArg (fun u : State => u.mem.data) hk :)
  · rw [hmem]
    exact ho p' hp'

/-! ### Kernels (R564) -/

theorem tablePieces_setBoxes (s : State) (p q : Bank Mailbox) (l ctx va n : Nat) (write : Bool) :
    tablePieces (setBoxes s p q l) ctx va n write = tablePieces s ctx va n write := piecesOf_setBoxes ..

theorem kernelLoad_answer {handle : Word} {va len pa : Nat} (hn : n = argOf s (.priv k) 0) (hc : ctxOf s n = some c)
    (h : Taken s (.priv k) 0x40) (hva : va = argOf s (.priv k) 1) (hl : len = argOf s (.priv k) 2) (h0 : len ≠ 0) (hend : va + len ≤ 2 ^ 48)
    (hp : tablePieces s n va len false = some [(.dev pa, len)]) (hclean : CleanRead s env pa len) (hroom : c.kernels.length < 256)
    (hfree : bankFind c.kernels handle.toNat = none) : ∃ t, exec (.kernelLoad (.priv k) handle env) s = .next t ∧
      (if Config.isCodeObject (s.mem.data.read pa len) s.ifLevel.toNat then
        Ran s t (.priv k) .ok [handle.toNat] { s with
          ctxs := bankPut s.ctxs n { c with kernels := bankPut c.kernels handle.toNat (s.mem.data.read pa len) } }
       else Ran s t (.priv k) .invalid [] s) := by
  subst hn hva hl
  have hargs : ¬ (argOf s (.priv k) 2 = 0 ∨ 2 ^ 48 < argOf s (.priv k) 1 + argOf s (.priv k) 2) := by omega
  have hrule (p q : Bank Mailbox) (l : Nat) : bodyKernelLoad (.priv k) handle.toNat env (setBoxes s p q l) (mbGet s (.priv k)) =
      if Config.isCodeObject (s.mem.data.read pa (argOf s (.priv k) 2)) s.ifLevel.toNat then
        (setBoxes { s with ctxs := bankPut s.ctxs (argOf s (.priv k) 0) { c with
          kernels := bankPut c.kernels handle.toNat (s.mem.data.read pa (argOf s (.priv k) 2)) } } p q l, .done .ok [handle.toNat])
      else (setBoxes s p q l, .done .invalid []) := by
    refine (onCtx_found (s := setBoxes s p q l) (mb := .priv k) _ rfl hc).trans ((if_neg hargs).trans ?_)
    have hpieces := (tablePieces_setBoxes s p q l (argOf s (.priv k) 0) (argOf s (.priv k) 1) (argOf s (.priv k) 2) false).trans hp
    have hget : getPieces env .sweep none [(.dev pa, argOf s (.priv k) 2)] (setBoxes s p q l) =
        (setBoxes s p q l, .ok, s.mem.data.read pa (argOf s (.priv k) 2)) := by
      rw [getPieces, readPa_clean (s := setBoxes s p q l) hclean]
      exact congrArg (fun bs => (setBoxes s p q l, Acc.ok, bs)) (List.append_nil _)
    have hpick : pickHandle c handle.toNat = handle.toNat := if_pos (by rw [hfree]; rfl)
    rw [show tablePieces (setBoxes s p q l) (reqArg (mbGet s (.priv k)) 0) (reqArg (mbGet s (.priv k)) 1) (reqArg (mbGet s (.priv k)) 2) false =
      some [(.dev pa, argOf s (.priv k) 2)] from hpieces]
    dsimp only
    rw [hget]
    dsimp only
    by_cases hcode : Config.isCodeObject (s.mem.data.read pa (argOf s (.priv k) 2)) s.ifLevel.toNat = true
    · rw [if_pos hcode]
      refine (if_neg ?_).trans ((if_neg (by omega)).trans ?_)
      · rw [show Config.isCodeObject (s.mem.data.read pa (argOf s (.priv k) 2)) (setBoxes s p q l).ifLevel.toNat = true from hcode]
        decide
      · rw [hpick]
        exact congrArg (·, Ans.done .ok [handle.toNat]) (modCtx_some (s := setBoxes s p q l) hc _)
    · rw [if_neg hcode]
      refine if_pos ?_
      rw [show Config.isCodeObject (s.mem.data.read pa (argOf s (.priv k) 2)) (setBoxes s p q l).ifLevel.toNat = false from
        Bool.eq_false_iff.2 hcode]
      rfl
  refine ⟨_, rfl, ?_⟩
  split
  next hcode => exact ran_of_body h nofun fun p q l => (hrule p q l).trans (if_pos hcode)
  next hcode => exact ran_of_body h nofun fun p q l => (hrule p q l).trans (if_neg hcode)

end

/-- Settles O57: one lemma for each command; an object that loses its last mapping may go, which touches no byte. -/
theorem shareAndKernelCommandsAnswer : Obligations.ShareAndKernelCommandsAnswer := by
  unfold Obligations.ShareAndKernelCommandsAnswer
  intro s k env
  refine ⟨fun n c hn hc => ⟨fun shid pages cnt h => shareCreate_ok hn hc h, fun x va sh h => shareMap_ok hn hc h,
    fun x sh h => shareUnmap_ok hn hc h, fun handle va len pa h => kernelLoad_answer hn hc h, fun h hk => ?_⟩,
    fun x sh h => shareRelease_answer h⟩
  subst hn
  refine ⟨_, rfl, ran_onCtx h hc fun p q l => (if_neg ?_).trans (congrArg (·, Ans.ok) (modCtx_some (s := setBoxes s p q l) hc _))⟩
  rw [show (bankFind c.kernels (reqArg (mbGet s (.priv k)) 1)).isNone = false by
    rw [← Option.not_isSome]
    exact congrArg not hk]
  exact Bool.false_ne_true

end Sys2Proof.Machine

/-!
Reservation, pane, Window, Radiator, event-ring, power and reset commands (R107, R114, R169, R198, R267, R272, R292, R392, Table 12.8): how
each one's own rule ends.
-/

namespace Sys2Proof.Machine

open Sys2Proof

section
variable {s : State} {k : Fin 16}

/-! ### RESV_SET (R267, R272) -/

/-- A state without its events and corridor. -/
def ungranted (s : State) : State := { quiet s with corr := State.reset.corr }

theorem ungranted_checkGuarantee (u : State) : ungranted (checkGuarantee u) = ungranted u := by
  unfold checkGuarantee
  split
  · exact (congrArg ungranted (quiet_raiseEvent { u with corr := { u.corr with gActive := true } } 0x0A noCtx 0 0) :)
  · rfl

theorem boxless_checkGuarantee (u : State) : boxless (checkGuarantee u) = { boxless u with corr := (checkGuarantee u).corr } :=
  congrArg (fun v : State => { v with corr := (checkGuarantee u).corr, mboxes := [], umboxes := [], lastMbox := 0 })
    (ungranted_checkGuarantee u)

/-- The reservation that a context has in a class, or none as one of rate 0. -/
def resvOf (s : State) (n cls : Nat) : Resv := (s.mem.resvs.find? (fun r => r.ctx = n ∧ r.cls = cls)).getD ⟨n, cls, 0, 0, 0⟩

/-- A reservation set: the context's place in its class, with the tokens that its bucket keeps (R267). -/
def newResv (s : State) (n cls rate : Nat) : Resv :=
  ⟨n, cls, rate, if (resvOf s n cls).rate < rate then s.mem.resvSeq else (resvOf s n cls).seq, min (resvOf s n cls).tokens (bucketDepth rate)⟩

/-- The reservations with one set. -/
def resvSetTo (s : State) (n cls rate : Nat) : State :=
  audGive { s with
    mem := { s.mem with
      resvs := s.mem.resvs.filter (fun r => ¬ (r.ctx = n ∧ r.cls = cls)) ++ [newResv s n cls rate], resvSeq := s.mem.resvSeq + 1 } } 7
    ((resvOf s n cls).tokens - min (resvOf s n cls).tokens (bucketDepth rate))

/-- Whether a reservation can grow to a rate within what the memories deliver (R271). -/
def resvTooMuch (s : State) (n cls rate : Nat) : Prop :=
  (resvOf s n cls).rate < rate ∧ (s.mem.deliv < resvSum s none - (resvOf s n cls).rate + rate ∨
    (cls = 0 ∧ s.mem.c0cap < resvSum s (some 0) - (resvOf s n cls).rate + rate))

theorem bodyResvSet_rule {u : State} {m : Mailbox} {c : Context} (hc : ctxOf u (reqArg m 0) = some c) (h3 : reqArg m 1 ≤ 3) :
    (reqArg m 2 = 0 → bodyResvSet (.priv k) u m = (checkGuarantee (dropResv u (reqArg m 0) (reqArg m 1)), .ok)) ∧
    (reqArg m 2 ≠ 0 → resvTooMuch u (reqArg m 0) (reqArg m 1) (reqArg m 2) → bodyResvSet (.priv k) u m = (u, .done .resvRefused [])) ∧
    (reqArg m 2 ≠ 0 → ¬ resvTooMuch u (reqArg m 0) (reqArg m 1) (reqArg m 2) → bodyResvSet (.priv k) u m =
      (checkGuarantee (resvSetTo u (reqArg m 0) (reqArg m 1) (reqArg m 2)), .ok)) := by
  have h3' : ¬ 3 < reqArg m 1 := by omega
  refine ⟨fun h0 => ?_, fun h0 ht => ?_, fun h0 ht => ?_⟩
  · exact (onCtx_found (mb := .priv k) _ rfl hc).trans ((if_neg h3').trans (if_pos h0))
  · exact (onCtx_found (mb := .priv k) _ rfl hc).trans ((if_neg h3').trans ((if_neg h0).trans (if_pos ht)))
  · exact (onCtx_found (mb := .priv k) _ rfl hc).trans ((if_neg h3').trans ((if_neg h0).trans (if_neg ht)))

theorem mboxes_checkGuarantee (u : State) : (checkGuarantee u).mboxes = u.mboxes :=
  eq_of_view ungranted State.mboxes (fun _ => rfl) (ungranted_checkGuarantee u)

/-- A change of reservations and of the corridor alone, as the Letterbox tells it. -/
theorem ran_checkGuarantee {t u : State} {p q : Bank Mailbox} {l : Nat}
    (h : Ran s t (.priv k) .ok [] (checkGuarantee u)) (hu : u = { setBoxes s p q l with mem := u.mem, corr := u.corr }) :
    Ran s t (.priv k) .ok [] { s with mem := t.mem, corr := t.corr } ∧ t.mem = u.mem := by
  have ht := h.boxless_eq
  have hmem : t.mem = u.mem := (eq_of_view boxless State.mem (fun _ => rfl) ht).trans (mem_checkGuarantee u)
  have hcorr := eq_of_view boxless State.corr (fun _ => rfl) ht
  refine ⟨h.congr ?_, hmem⟩
  rw [hmem, hcorr, boxless_checkGuarantee]
  generalize (checkGuarantee u).corr = c
  rw [hu]
  rfl

theorem resvSet_answer {n cls rate : Nat} {c : Context} {old : Resv} (h : Taken s (.priv k) 0x60) (hn : n = argOf s (.priv k) 0)
    (hc : ctxOf s n = some c) (hcls : cls = argOf s (.priv k) 1) (hrate : rate = argOf s (.priv k) 2) (h3 : cls ≤ 3)
    (hold : old = (s.mem.resvs.find? (fun r => r.ctx = n ∧ r.cls = cls)).getD ⟨n, cls, 0, 0, 0⟩) :
    (rate = 0 → ∃ t, exec (.resvSet (.priv k)) s = .next t ∧ Ran s t (.priv k) .ok [] { s with mem := t.mem, corr := t.corr } ∧
      (∀ r ∈ t.mem.resvs, ¬ (r.ctx = n ∧ r.cls = cls)) ∧ t.mem.data = s.mem.data) ∧
    (old.rate < rate → s.mem.deliv < resvSum s none - old.rate + rate ∨
        cls = 0 ∧ s.mem.c0cap < resvSum s (some 0) - old.rate + rate →
      ∃ t, exec (.resvSet (.priv k)) s = .next t ∧ Ran s t (.priv k) .resvRefused [] s) ∧
    (rate ≠ 0 → rate ≤ old.rate ∨ resvSum s none - old.rate + rate ≤ s.mem.deliv ∧
        (cls = 0 → resvSum s (some 0) - old.rate + rate ≤ s.mem.c0cap) →
      ∃ t r, exec (.resvSet (.priv k)) s = .next t ∧ Ran s t (.priv k) .ok [] { s with mem := t.mem, corr := t.corr } ∧
        t.mem.resvs.find? (fun r => r.ctx = n ∧ r.cls = cls) = some r ∧ r.rate = rate ∧
        r.tokens = min old.tokens (rate * 10000 / 64) ∧ t.mem.data = s.mem.data) := by
  subst hn hcls hrate
  have hrule (p q : Bank Mailbox) (l : Nat) := bodyResvSet_rule (k := k) (u := setBoxes s p q l) (m := mbGet s (.priv k)) hc h3
  have hresv : resvOf s (argOf s (.priv k) 0) (argOf s (.priv k) 1) = old := hold.symm
  refine ⟨fun h0 => ?_, fun hlt hbig => ⟨_, rfl, ran_of_body h nofun fun p q l => (hrule p q l).2.1 ?_ ?_⟩, fun h0 hfit => ?_⟩
  · obtain ⟨p, q, l, hran⟩ := ran_of_rule (user := false) (body := bodyResvSet (.priv k))
      (F := fun u => checkGuarantee (dropResv u (argOf s (.priv k) 0) (argOf s (.priv k) 1))) h nofun
      (fun p q l => (hrule p q l).1 h0) (fun p q l => congrArg (fun b => bankGet b Mailbox.reset k.val) (mboxes_checkGuarantee _))
    obtain ⟨hr, hmem⟩ := ran_checkGuarantee hran (p := p) (q := q) (l := l) rfl
    refine ⟨_, rfl, hr, fun r hin => ?_, ?_⟩
    · rw [hmem] at hin
      exact of_decide_eq_true (List.mem_filter.1 hin).2
    · rw [hmem]
      rfl
  · change argOf s (.priv k) 2 ≠ 0
    omega
  · change resvTooMuch s (argOf s (.priv k) 0) (argOf s (.priv k) 1) (argOf s (.priv k) 2)
    unfold resvTooMuch
    rw [hresv]
    exact ⟨hlt, hbig⟩
  · have hfits : ¬ resvTooMuch s (argOf s (.priv k) 0) (argOf s (.priv k) 1) (argOf s (.priv k) 2) := by
      unfold resvTooMuch
      rw [hresv]
      omega
    obtain ⟨p, q, l, hran⟩ := ran_of_rule (user := false) (body := bodyResvSet (.priv k))
      (F := fun u => checkGuarantee (resvSetTo u (argOf s (.priv k) 0) (argOf s (.priv k) 1) (argOf s (.priv k) 2))) h nofun
      (fun p q l => (hrule p q l).2.2 h0 hfits) (fun p q l => congrArg (fun b => bankGet b Mailbox.reset k.val) (mboxes_checkGuarantee _))
    obtain ⟨hr, hmem⟩ := ran_checkGuarantee hran (p := p) (q := q) (l := l) rfl
    refine ⟨_, newResv s (argOf s (.priv k) 0) (argOf s (.priv k) 1) (argOf s (.priv k) 2), rfl, hr, ?_, rfl, ?_, ?_⟩
    · rw [hmem]
      refine (List.find?_append ..).trans ?_
      rw [List.find?_eq_none.2 fun r hin => by simpa [← not_and_or] using (List.mem_filter.1 hin).2]
      exact List.find?_cons_of_pos (p := fun r : Resv => decide (r.ctx = argOf s (.priv k) 0 ∧ r.cls = argOf s (.priv k) 1))
        (a := newResv s (argOf s (.priv k) 0) (argOf s (.priv k) 1) (argOf s (.priv k) 2)) (l := []) (decide_eq_true ⟨rfl, rfl⟩)
    · rw [← hresv]
      rfl
    · rw [hmem]
      rfl

/-! ### PANE_PIN and PANE_UNPIN (R292) -/

theorem paneOf_modPane (u : State) (w : Nat) (b : Bool) (f : Pane → Pane) :
    paneOf (win (modPane u w b f) w) b = f (paneOf (win u w) b) ∧ ∀ v, v ≠ w → win (modPane u w b f) v = win u v := by
  obtain ⟨-, hother, hsame⟩ := modWin_frame u w fun x => x.setPane b (f (paneOf x b))
  exact ⟨(congrArg (paneOf · b) hsame).trans (paneOf_setPane_same ..), hother⟩

/-- A command that changes one pane. -/
theorem ran_modPane {code : Nat} {f : State → Mailbox → Nat → Context → State × Ans} {c : Context} (h : Taken s (.priv k) code)
    (hc : ctxOf s (argOf s (.priv k) 0) = some c) (w : Nat) (b : Bool) (g : Pane → Pane)
    (hb : ∀ p q l, f (setBoxes s p q l) (mbGet s (.priv k)) (argOf s (.priv k) 0) c = (modPane (setBoxes s p q l) w b g, .ok)) :
    Ran s (lbStep (.priv k) code false (onCtx (.priv k) f) s) (.priv k) .ok []
        { s with windows := (lbStep (.priv k) code false (onCtx (.priv k) f) s).windows } ∧
      paneOf (win (lbStep (.priv k) code false (onCtx (.priv k) f) s) w) b = g (paneOf (win s w) b) ∧
      ∀ v, v ≠ w → win (lbStep (.priv k) code false (onCtx (.priv k) f) s) v = win s v := by
  have hran := ran_onCtx (user := false) (u := modPane s w b g) h hc hb
  have ht := hran.boxless_eq
  have hwin (v : Nat) := eq_of_view boxless (fun u => win u v) (fun _ => rfl) ht
  obtain ⟨hsame, hother⟩ := paneOf_modPane s w b g
  refine ⟨hran.congr ?_, ?_, fun v hv => (hwin v).trans (hother v hv)⟩
  · rw [eq_of_view boxless State.windows (fun _ => rfl) ht]
    rfl
  · rw [hwin w]
    exact hsame

/-! ### Windows (R107, R114) -/

theorem windowQuarantine_serving {w : Nat} (h : Taken s (.priv k) 0x70) (hw : w = argOf s (.priv k) 0) (h7 : w ≤ 7)
    (hserve : inService s w = true) : ∃ t, exec (.windowQuarantine (.priv k)) s = .next t ∧ Ran s t (.priv k) .ok [] t ∧
      (win t w).state = .quar ∧ (win t w).quarcnt = (win s w).quarcnt + 1 ∧ (win t w).pass = none ∧
      (pantry t w).migr = !(pantry s w).out ∧ t.mem.data = s.mem.data := by
  subst hw
  have hst : (win s (argOf s (.priv k) 0)).state = .idle ∨ (win s (argOf s (.priv k) 0)).state = .run := by simpa [inService] using hserve
  obtain ⟨p, q, l, hran⟩ := ran_of_rule (user := false) (st := .ok) (vs := []) (F := fun u => quarantine u (argOf s (.priv k) 0) 3)
    (body := fun s m =>
      let w := reqArg m 0
      if 7 < w then refuse s .noObject else if inService s w then (quarantine s w 3, .ok) else (s, .ok)) h nofun
    (fun p q l => (if_neg (Nat.not_lt.2 h7)).trans (if_pos hserve))
    (fun p q l => mbGet_congr (eq_of_view steady State.mboxes (fun _ => rfl) (steady_quarantine ..))
      (eq_of_view steady State.umboxes (fun _ => rfl) (steady_quarantine ..)) _)
  have hq : (win (setBoxes s p q l) (argOf s (.priv k) 0)).state ≠ .quar := by
    change (win s (argOf s (.priv k) 0)).state ≠ .quar
    rcases hst with h | h <;> rw [h] <;> decide
  have hr : (win (setBoxes s p q l) (argOf s (.priv k) 0)).state ≠ .retired := by
    change (win s (argOf s (.priv k) 0)).state ≠ .retired
    rcases hst with h | h <;> rw [h] <;> decide
  have hends := win_quarantine 3 hq hr (argOf s (.priv k) 0)
  rw [if_pos rfl] at hends
  have ht := hran.boxless_eq
  have hwin := eq_of_view boxless (fun u => win u (argOf s (.priv k) 0)) (fun _ => rfl) ht
  refine ⟨_, rfl, hran.self, ?_, ?_, ?_, ?_, ?_⟩
  · exact (congrArg Window.state hwin).trans (hends.state.resolve_right fun h => nomatch h.1)
  · exact (congrArg Window.quarcnt hwin).trans (congrArg Window.quarcnt hends.same :)
  · exact (congrArg Window.pass hwin).trans (hends.pass.elim (fun e => e.trans rfl) fun e => e)
  · refine (eq_of_view boxless (fun u => (pantry u (argOf s (.priv k) 0)).migr) (fun _ => rfl) ht).trans ?_
    refine ((PantriesServe.quarantine 3 hq hr).migr _).trans ?_
    exact (congrArg Pantry.migr ((pantry_modPantry ..).trans (if_pos rfl)) :)
  · exact (eq_of_view boxless (fun u => u.mem.data) (fun _ => rfl) ht).trans
      ((eq_of_view steady (fun u => u.mem.data) (fun _ => rfl) (steady_quarantine ..)).trans rfl)

theorem win_intoService (u : State) (w : Nat) : win (intoService u w) w = { win u w with
    state := .idle, active := none, paneA := (win u w).paneA.emptied, paneB := (win u w).paneB.emptied,
    redir := false, qualTries := 0, requal := false } := by
  rw [win, intoService, windows_addFrec, windows_capacity]
  exact (win_modPantry ..).trans ((win_modWin ..).trans (if_pos rfl))

theorem steady_intoService (u : State) (w : Nat) : steady (intoService u w) = steady u := by
  rw [intoService, steady_addFrec, steady_capacity, steady_modPantry, steady_modWin]

theorem win_qualRun {u : State} {w : Nat} {a b : List (List Int)} (ha : a.length = 4096) (hb : b.length = 4096) :
    (win (qualRun u w a b).1 w).witcnt = (win u w).witcnt + 8192 ∧ (win (qualRun u w a b).1 w).state = (win u w).state ∧
      steady (qualRun u w a b).1 = steady u := by
  have hwin : win (qualRun u w a b).1 w = _ := (win_modWin ..).trans (if_pos rfl)
  have hsize : BitVec.ofNat 32 (a.length + b.length) = 8192 := by rw [ha, hb]; rfl
  refine ⟨?_, ?_, rfl⟩
  · rw [hwin, ← hsize]
  · rw [hwin]

/-- A Window that has run its qualification, in service again where it passed (R114). -/
def qualified (u : State) (w : Nat) (a b : List (List Int)) : State :=
  if qualPass u w (qualRun u w a b).2 then intoService (qualRun u w a b).1 w else (qualRun u w a b).1

theorem steady_qualified {u : State} {w : Nat} {a b : List (List Int)} (ha : a.length = 4096) (hb : b.length = 4096) :
    steady (qualified u w a b) = steady u := by
  unfold qualified
  split
  · exact (steady_intoService ..).trans (win_qualRun ha hb).2.2
  · exact (win_qualRun ha hb).2.2

theorem windowQualify_ok {w : Nat} {a b : List (List Int)} (h : Taken s (.priv k) 0x71) (hw : w = argOf s (.priv k) 0) (h7 : w ≤ 7)
    (hq : (win s w).state = .quar) (hlit : laserLit s w = true) (ha : a.length = 4096) (hb : b.length = 4096) :
    ∃ t, exec (.windowQualify (.priv k) a b) s = .next t ∧ Ran s t (.priv k) .ok [(qualRun s w a b).2.toNat] t ∧
      (win t w).witcnt = (win s w).witcnt + 8192 ∧ (win t w).state = (if qualPass s w (qualRun s w a b).2 then .idle else .quar) := by
  subst hw
  obtain ⟨p, q, l, hran⟩ := ran_of_rule (user := false) (body := bodyWindowQualify a b) (vs := [(qualRun s (argOf s (.priv k) 0) a b).2.toNat])
    (st := .ok) (F := fun u => qualified u (argOf s (.priv k) 0) a b) h nofun
    (fun p q l => by
      refine (if_neg (Nat.not_lt.2 h7)).trans ((if_neg (not_not.2 hq)).trans ((if_neg ?_).trans ((if_neg ?_).trans rfl)))
      · rw [show laserLit (setBoxes s p q l) (reqArg (mbGet s (.priv k)) 0) = true from hlit]
        decide
      · rw [qualSize, ha, hb]
        decide)
    (fun p q l => mbGet_congr (eq_of_view steady State.mboxes (fun _ => rfl) (steady_qualified ha hb))
      (eq_of_view steady State.umboxes (fun _ => rfl) (steady_qualified ha hb)) _)
  have hwin := eq_of_view boxless (fun u => win u (argOf s (.priv k) 0)) (fun _ => rfl) hran.boxless_eq
  obtain ⟨hcnt, hstate, -⟩ := win_qualRun (u := setBoxes s p q l) (w := argOf s (.priv k) 0) ha hb
  refine ⟨_, rfl, hran.self, ?_⟩
  rw [hwin]
  by_cases hpass : qualPass s (argOf s (.priv k) 0) (qualRun s (argOf s (.priv k) 0) a b).2 = true
  · have hqual : qualified (setBoxes s p q l) (argOf s (.priv k) 0) a b = intoService (qualRun (setBoxes s p q l) (argOf s (.priv k) 0) a b).1
        (argOf s (.priv k) 0) := if_pos hpass
    rw [hqual, win_intoService, if_pos hpass]
    exact ⟨hcnt, rfl⟩
  · have hqual : qualified (setBoxes s p q l) (argOf s (.priv k) 0) a b = (qualRun (setBoxes s p q l) (argOf s (.priv k) 0) a b).1 :=
      if_neg hpass
    rw [hqual, if_neg hpass]
    exact ⟨hcnt, hstate.trans hq⟩

/-! ### RADIATOR_PARK (R169) -/

theorem parkAll_code (u : State) {h : Nat} (hh : h < 262144) : (heaterOf (parkAll u).thermo h).code = (heaterOf u.thermo h).code := by
  cases hn : u.thermo.nvmOk with
  | true =>
    have ht : heaterOf (parkAll u).thermo h = heaterOf (mapHeaters Heater.parked u.thermo) h := by
      unfold parkAll
      dsimp only
      rw [if_pos hn]
      rfl
    rw [ht, heaterOf_mapHeaters _ _ hh]
    rfl
  | false =>
    unfold parkAll
    dsimp only
    rw [if_neg (by rw [hn]; exact Bool.false_ne_true)]
    rfl

theorem parkAll_aux {u : State} (hn : u.thermo.nvmOk = true) {a : Nat} (ha : a < 4) :
    (auxOf (parkAll u).thermo a).out = (auxOf u.thermo a).park := by
  have ht : auxOf (parkAll u).thermo a = auxOf (mapAux Aux.parked (mapHeaters Heater.parked u.thermo)) a := by
    unfold parkAll
    dsimp only
    rw [if_pos hn]
    rfl
  rw [ht]
  exact congrArg Aux.out (bankGet_range _ _ ha)

/-! ### EVQ_SET (R392, R393) -/

/-- From a state with an event ring: the ring stays where it is, no event is held anew, and only more is sent. -/
structure Rings (a n : Nat) (s t : State) : Prop where
  ring : (∃ r, s.evRing = some r ∧ r.addr = a ∧ r.entries = n) → ∃ r, t.evRing = some r ∧ r.addr = a ∧ r.entries = n
  events : (∃ r, s.evRing = some r ∧ r.addr = a ∧ r.entries = n) → t.events = s.events
  sends : ∃ xs, t.out = s.out ++ xs

namespace Rings

variable {a n : Nat}

theorem of_eq {s t : State} (hr : t.evRing = s.evRing) (he : t.events = s.events) (ho : t.out = s.out) : Rings a n s t :=
  ⟨fun h => by rw [hr]; exact h, fun _ => he, [], by rw [ho, List.append_nil]⟩

theorem trans {s t u : State} (h : Rings a n s t) (k : Rings a n t u) : Rings a n s u := by
  obtain ⟨xs, hx⟩ := h.sends
  obtain ⟨ys, hy⟩ := k.sends
  exact ⟨fun hr => k.ring (h.ring hr), fun hr => (k.events (h.ring hr)).trans (h.events hr), xs ++ ys, by rw [hy, hx, List.append_assoc]⟩

theorem raiseVec (s : State) (v : Nat) : Rings a n s (raiseVec s v) := by
  refine ⟨fun h => ?_, fun _ => ?_, raiseVec_sends ..⟩
  · rcases raiseVec_cases s v with ⟨_, _, _, _, e⟩ | e <;> rw [e] <;> exact h
  · rcases raiseVec_cases s v with ⟨_, _, _, _, e⟩ | e <;> rw [e] <;> rfl

theorem writeEvent {s : State} {r : EventRing} (hr : s.evRing = some r) (e : Event) : Rings a n s (writeEvent s r e) := by
  refine trans (t := { emit s (.hostWrite (r.addr + 32 * r.next) (eventBytes e)) with
    evRing := some { r with next := (r.next + 1) % r.entries } })
    ⟨fun ⟨q, hq, ha, hn⟩ => ⟨{ r with next := (r.next + 1) % r.entries }, rfl, ?_⟩, fun _ => rfl, [_], rfl⟩ (raiseVec _ 0)
  rw [hr] at hq
  cases hq
  exact ⟨ha, hn⟩

theorem raiseEvent (s : State) (type ctx a0 a1 : Nat) : Rings a n s (raiseEvent s type ctx a0 a1) := by
  have hring (r : EventRing) (hr : s.evRing = some r) : Rings a n s (Machine.raiseEvent s type ctx a0 a1) := by
    have he : Machine.raiseEvent s type ctx a0 a1 = Machine.writeEvent { s with evSeq := s.evSeq + 1 } r
        ⟨type, ctx, s.evSeq, BitVec.ofNat 64 a0, BitVec.ofNat 64 a1, BitVec.ofNat 64 0⟩ := by
      unfold Machine.raiseEvent raiseEvent3
      dsimp only
      rw [hr]
    rw [he]
    exact trans (t := { s with evSeq := s.evSeq + 1 }) (.of_eq rfl rfl rfl) (writeEvent (s := { s with evSeq := s.evSeq + 1 }) hr _)
  exact ⟨fun ⟨r, hr, har⟩ => (hring r hr).ring ⟨r, hr, har⟩, fun ⟨r, hr, har⟩ => (hring r hr).events ⟨r, hr, har⟩, raiseEvent_sends ..⟩

theorem mbMod (s : State) (mb : MbRef) (f : Mailbox → Mailbox) : Rings a n s (mbMod s mb f) := by
  cases mb <;> exact .of_eq rfl rfl rfl

theorem mbTake (s : State) (mb : MbRef) : Rings a n s (mbTake s mb) := (mbMod s mb _).trans (.of_eq rfl rfl rfl)

theorem mbAnswer (s : State) (mb : MbRef) (st : Status) (vs : List Nat) : Rings a n s (mbAnswer s mb st vs) := by
  unfold Machine.mbAnswer
  dsimp only
  split
  · cases mb with
    | priv k => exact (mbMod ..).trans (raiseEvent ..)
    | unpriv k =>
      dsimp only
      split
      · exact (mbMod ..).trans (raiseVec ..)
      · exact mbMod ..
  · exact mbMod ..

theorem lbIdle : ∀ (f : Nat) (s : State), Rings a n s (lbIdle f s)
  | 0, _ => .of_eq rfl rfl rfl
  | f + 1, s => by
    rw [Machine.lbIdle]
    split
    · exact .of_eq rfl rfl rfl
    · dsimp only
      split
      · exact .of_eq rfl rfl rfl
      · split
        · exact (mbTake ..).trans ((mbAnswer ..).trans (lbIdle f _))
        · exact .of_eq rfl rfl rfl

end Rings

/-- Every held event is written into the ring (R393). -/
theorem drainEvents_writes {a n : Nat} : ∀ (es : List Event) {u : State}, (∃ r, u.evRing = some r ∧ r.addr = a ∧ r.entries = n) →
    Rings a n u (drainEvents es u) ∧ (∀ e ∈ es, ∃ x, .hostWrite x (eventBytes e) ∈ (drainEvents es u).out) ∧
      quiet (drainEvents es u) = quiet u
  | [], _, _ => ⟨.of_eq rfl rfl rfl, fun _ h => absurd h List.not_mem_nil, rfl⟩
  | e :: es, u, h => by
    obtain ⟨r, hr, ha, hn⟩ := h
    have hstep : Rings a n u (writeEvent u r e) := .writeEvent hr e
    have hout : .hostWrite (r.addr + 32 * r.next) (eventBytes e) ∈ (writeEvent u r e).out := by
      obtain ⟨xs, hx⟩ := raiseVec_sends { emit u (.hostWrite (r.addr + 32 * r.next) (eventBytes e)) with
        evRing := some { r with next := (r.next + 1) % r.entries } } 0
      have : (writeEvent u r e).out = _ := hx
      rw [this]
      exact List.mem_append_left _ (List.mem_append_right _ (List.mem_singleton_self _))
    obtain ⟨hrest, hw, hq⟩ := drainEvents_writes es (hstep.ring ⟨r, hr, ha, hn⟩)
    have hd : drainEvents (e :: es) u = drainEvents es (writeEvent u r e) := by rw [drainEvents, hr]
    rw [hd]
    refine ⟨hstep.trans hrest, fun x hx => ?_, hq.trans (quiet_writeEvent ..)⟩
    rcases List.mem_cons.1 hx with rfl | hx
    · obtain ⟨ys, hy⟩ := hrest.sends
      exact ⟨_, hy ▸ List.mem_append_left _ hout⟩
    · exact hw x hx

/-- The held events of a state written into a new ring. -/
def ringSet (u : State) (a n : Nat) : State := drainEvents u.events { u with evRing := some ⟨a, n, 0⟩, events := [] }

theorem evqSet_ok (h : Taken s (.priv k) 0x80) (hn : ∃ j < 11, argOf s (.priv k) 1 = 64 * 2 ^ j) :
    ∃ t r, exec (.evqSet (.priv k)) s = .next t ∧ Ran s t (.priv k) .ok [] s ∧ t.events = [] ∧ t.evRing = some r ∧
      r.addr = argOf s (.priv k) 0 ∧ r.entries = argOf s (.priv k) 1 ∧ (∀ e ∈ s.events, ∃ a, .hostWrite a (eventBytes e) ∈ t.out) := by
  have hsize : [64, 128, 256, 512, 1024, 2048, 4096, 8192, 16384, 32768, 65536].contains (argOf s (.priv k) 1) = true := by
    obtain ⟨j, hj, he⟩ := hn
    rw [he]
    interval_cases j <;> decide
  obtain ⟨p, q, l, e⟩ := begun_eq_setBoxes s (.priv k)
  obtain ⟨body, hexec, hrule⟩ : ∃ body, exec (.evqSet (.priv k)) s = .next (lbStep (.priv k) 0x80 false body s) ∧
      body (setBoxes s p q l) (mbGet s (.priv k)) = (ringSet (setBoxes s p q l) (argOf s (.priv k) 0) (argOf s (.priv k) 1), .ok) := by
    refine ⟨_, rfl, if_neg ?_⟩
    rw [show [64, 128, 256, 512, 1024, 2048, 4096, 8192, 16384, 32768, 65536].contains (reqArg (mbGet s (.priv k)) 1) = true from hsize]
    decide
  obtain ⟨hrings, hwrites, hquiet⟩ := drainEvents_writes (a := argOf s (.priv k) 0) (n := argOf s (.priv k) 1) s.events
    (u := { setBoxes s p q l with evRing := some ⟨argOf s (.priv k) 0, argOf s (.priv k) 1, 0⟩, events := [] }) ⟨_, rfl, rfl, rfl⟩
  have hring := hrings.ring ⟨_, rfl, rfl, rfl⟩
  have hevents := hrings.events ⟨_, rfl, rfl, rfl⟩
  have hran := ran_lbStep (user := false) h nofun (by rw [e]; exact hrule)
    (by rw [e]; exact mbGet_congr (eq_of_view quiet State.mboxes (fun _ => rfl) hquiet) (eq_of_view quiet State.umboxes (fun _ => rfl) hquiet) _)
  have hend : lbStep (.priv k) 0x80 false body s =
      lbEnd (.priv k) (ringSet (setBoxes s p q l) (argOf s (.priv k) 0) (argOf s (.priv k) 1), .ok) := by
    rw [lbStep_taken h nofun, e, hrule]
  have hlast : Rings (argOf s (.priv k) 0) (argOf s (.priv k) 1) (ringSet (setBoxes s p q l) (argOf s (.priv k) 0) (argOf s (.priv k) 1))
      (lbStep (.priv k) 0x80 false body s) := by
    rw [hend]
    exact (Rings.mbAnswer ..).trans (.lbIdle ..)
  obtain ⟨r, hr, ha, hn⟩ := hlast.ring hring
  obtain ⟨ys, hy⟩ := hlast.sends
  refine ⟨_, r, hexec, hran.congr ?_, (hlast.events hring).trans hevents, hr, ha, hn, fun x hx => ?_⟩
  · exact (congrArg boxless hquiet :)
  · obtain ⟨y, hy'⟩ := hwrites x hx
    exact ⟨y, hy ▸ List.mem_append_left _ hy'⟩

end

/-- Settles O58: one lemma for each command; the events and CAPACITY reports that follow change neither memory nor mailboxes. -/
theorem resourceCommandsAnswer : Obligations.ResourceCommandsAnswer := by
  unfold Obligations.ResourceCommandsAnswer
  intro s k
  refine ⟨fun n cls rate c old h => resvSet_answer h, fun n w b c hn hc hw hb => ⟨fun h => ⟨fun i hi hne => ?_, fun hpin => ?_⟩,
    fun h => ⟨fun hpin => ?_, fun hpin => ?_⟩⟩, fun w h hw => ⟨fun h7 => ?_, fun h7 hs => ?_, fun h7 hs => windowQuarantine_serving h hw h7 hs⟩,
    fun w a b h => windowQualify_ok h, fun h => ?_, fun h h0 h1 h2 => ?_, evqSet_ok, fun h => ?_, fun h => ?_, fun h => ?_⟩
  · subst hn hw hb
    refine ⟨_, rfl, ran_onCtx h hc fun p q l => if_pos ⟨?_, ?_⟩⟩
    · exact fun hnone => Option.some_ne_none _ (hi.symm.trans hnone)
    · exact fun hsome => hne (Option.some.inj (hi.symm.trans hsome))
  · subst hn hw hb
    obtain ⟨hran, hp, hother⟩ := ran_modPane h hc (argOf s (.priv k) 1 % 8) ((argOf s (.priv k) 1).testBit 3)
      (fun p => { p with pin := some (argOf s (.priv k) 0) }) (f := fun s m n _ =>
        if (paneOf (win s (reqArg m 1 % 8)) ((reqArg m 1).testBit 3)).pin ≠ none ∧
          (paneOf (win s (reqArg m 1 % 8)) ((reqArg m 1).testBit 3)).pin ≠ some n then refuse s .busy
        else (modPane s (reqArg m 1 % 8) ((reqArg m 1).testBit 3) (fun p => { p with pin := some n }), .ok))
      (fun p q l => if_neg fun hne => hpin.elim hne.1 hne.2)
    exact ⟨_, rfl, hran, hp, hother⟩
  · subst hn hw hb
    obtain ⟨hran, hp, hother⟩ := ran_modPane h hc (argOf s (.priv k) 1 % 8) ((argOf s (.priv k) 1).testBit 3)
      (fun p => { p with pin := none }) (f := fun s m n _ =>
        if (paneOf (win s (reqArg m 1 % 8)) ((reqArg m 1).testBit 3)).pin ≠ some n then refuse s .noObject
        else (modPane s (reqArg m 1 % 8) ((reqArg m 1).testBit 3) (fun p => { p with pin := none }), .ok))
      (fun p q l => if_neg (not_not.2 hpin))
    exact ⟨_, rfl, hran, hp, hother⟩
  · subst hn hw hb
    exact ⟨_, rfl, ran_onCtx h hc fun p q l => if_pos hpin⟩
  · subst hw
    exact ⟨_, rfl, ran_of_body h nofun fun p q l => if_pos h7⟩
  · subst hw
    exact ⟨_, rfl, ran_of_body h nofun fun p q l => (if_neg (Nat.not_lt.2 h7)).trans (if_neg (Bool.eq_false_iff.1 hs))⟩
  · have hran := ran_of_body (user := false) (body := fun s _ => (parkAll s, .ok)) (u := parkAll s) h nofun fun p q l => rfl
    have ht := eq_of_view boxless State.thermo (fun _ => rfl) hran.boxless_eq
    refine ⟨_, rfl, hran.congr ?_, ?_, fun i hi => ?_, fun hn => ⟨fun i hi => ?_, fun a ha => ?_⟩⟩
    · rw [ht]
      rfl
    · rw [ht]
      rfl
    · rw [ht]
      exact parkAll_code s hi
    · rw [ht]
      exact parkAll_parks hn hi
    · rw [ht]
      exact parkAll_aux hn ha
  · refine ⟨_, rfl, ?_⟩
    have h0' : ¬ 3 < argOf s (.priv k) 0 := by omega
    have h1' : ¬ (0xFFFF < argOf s (.priv k) 1 ∨ 0xFFFF < argOf s (.priv k) 2) := by omega
    split
    next hw => exact ran_of_body h nofun fun p q l => (if_neg h0').trans ((if_neg h1').trans (if_pos hw))
    next hw => exact ran_of_body h nofun fun p q l => (if_neg h0').trans ((if_neg h1').trans (if_neg hw))
  · refine ⟨_, rfl, ?_⟩
    split
    next hr => exact ran_of_body h nofun fun p q l => if_neg (by change ¬ (argOf s (.priv k) 0 < 300 ∨ 480 < argOf s (.priv k) 0); omega)
    next hr => exact ran_of_body h nofun fun p q l => if_pos (by change argOf s (.priv k) 0 < 300 ∨ 480 < argOf s (.priv k) 0; omega)
  · exact ⟨_, rfl, ran_of_body h nofun fun _ _ _ => rfl⟩
  · refine ⟨_, rfl, ?_⟩
    split
    next hr => exact ran_of_body h nofun fun p q l => if_neg (by change ¬ (argOf s (.priv k) 0 < 20 ∨ 60 < argOf s (.priv k) 0); omega)
    next hr => exact ran_of_body h nofun fun p q l => if_pos (by change argOf s (.priv k) 0 < 20 ∨ 60 < argOf s (.priv k) 0; omega)

end Sys2Proof.Machine

/-!
Service and security (R505 to R522, R529): what test mode leaves of a part, and how each command's own rule ends.
-/

namespace Sys2Proof.Machine

open Sys2Proof

/-! ### What destroying every context leaves (Table 13.9) -/

/-- A state without what destroying a context can change. -/
def residue (s : State) : State := { withdrawn s with
  queues := [], umboxes := [], link := Link.reset, mem := State.reset.mem, host := State.reset.host }

/-- Whether the part has ever been in test mode, and which contexts there are. -/
def standing (s : State) : Bool × (Nat → Bool) := (s.nvm.everTest, fun n => (ctxOf s n).isSome)

theorem isSome_ctxOf_modCtx (s : State) (n m : Nat) (f : Context → Context) :
    (ctxOf (modCtx s n f) m).isSome = (ctxOf s m).isSome := by
  rw [ctxOf_modCtx]
  split
  next h => rw [h, Option.isSome_map]
  next => rfl

theorem standing_modCtx (s : State) (n : Nat) (f : Context → Context) : standing (modCtx s n f) = standing s :=
  Prod.ext (by unfold modCtx; split <;> rfl) (funext fun m => isSome_ctxOf_modCtx s n m f)

theorem standing_retirePage (s : State) (page : Nat) : standing (retirePage s page) = standing s := by unfold retirePage; split <;> rfl

theorem standing_freePage (s : State) (page : Nat) : standing (freePage s page) = standing s := by
  unfold freePage
  dsimp only
  split
  · exact (standing_retirePage ..).trans rfl
  · rfl

theorem standing_freePages (ps : List Nat) (s : State) : standing (ps.foldl freePage s) = standing s :=
  foldl_keeps (g := freePage) standing standing_freePage ps s

theorem standing_freeMap (s : State) (m : Mapping) : standing (freeMap s m) = standing s := by
  unfold freeMap
  split
  · exact foldl_keeps standing (fun _ _ => standing_freePage ..) _ s
  · rfl

theorem standing_addFrec (s : State) (kind unit index cause paddr ctx : Nat) :
    standing (addFrec s kind unit index cause paddr ctx) = standing s := by
  obtain ⟨-, f, fs, ov, hnvm⟩ := addFrec_keeps s kind unit index cause paddr ctx
  refine Prod.ext (by rw [standing, hnvm]; rfl) (funext fun n => ?_)
  exact eq_of_view unrecorded (fun u => (ctxOf u n).isSome) (fun _ => rfl) (unrecorded_addFrec ..)

theorem standing_foundUe (s : State) (g : Nat) (src : Finder) (who : Option Nat) (event : Bool) :
    standing (foundUe s g src who event) = standing s := by
  have hpoison : standing (setPoison s g) = standing s := by unfold setPoison; split <;> rfl
  have hpage (u : State) (pa : Nat) : standing (poisonedPage u pa) = standing u := by
    unfold poisonedPage
    split
    · rfl
    · exact standing_retirePage ..
  unfold foundUe
  dsimp only
  rw [hpage]
  split
  · exact (eq_of_view quiet standing (fun _ => rfl) (quiet_raiseEvent ..)).trans ((standing_addFrec ..).trans hpoison)
  · exact (standing_addFrec ..).trans hpoison

theorem standing_readGranule (s : State) (env : Env) (src : Finder) (who : Option Nat) (g : Nat) :
    standing (readGranule s env src who g).1 = standing s := by
  have hqueue (u : State) : standing (queueScrub u g) = standing u := by
    unfold queueScrub
    split <;> split <;> rfl
  unfold readGranule
  dsimp only
  split
  · rfl
  · split
    · exact standing_foundUe ..
    · split
      · exact (hqueue _).trans rfl
      · rfl

theorem standing_readGranules (env : Env) (src : Finder) (who : Option Nat) :
    ∀ (gs : List Nat) (s : State), standing (readGranules env src who gs s).1 = standing s
  | [], _ => rfl
  | g :: gs, s => by
    rw [readGranules]
    split
    · exact standing_readGranule ..
    · exact (standing_readGranules env src who gs _).trans (standing_readGranule ..)

theorem standing_countZero (s : State) (env : Env) (x : Share) : standing (countZero s env x).1 = standing s := by
  have h : standing (readPa s env .sweep none (x.pages.headD 0 * 0x10000) 8).1 = standing s := standing_readGranules ..
  unfold countZero
  split
  all_goals next he => rw [he] at h; exact h

theorem standing_unmapShare (s : State) (env : Env) (n k : Nat) : standing (unmapShare s env n k) = standing s := by
  unfold unmapShare
  split
  next x c _ _ =>
    dsimp only
    have hu : standing ((c.table.filter (fun m => decide (m.shid = some k))).foldl (fun s m => dtcFlush s n m.va m.size)
        (modCtx s n fun c => { c with table := c.table.filter (fun m => decide (m.shid ≠ some k)) })) = standing s :=
      (foldl_keeps (g := fun u (m : Mapping) => dtcFlush u n m.va m.size) standing (fun _ _ => rfl) _ _).trans (standing_modCtx ..)
    split
    · split
      · exact (standing_freePages ..).trans ((standing_countZero ..).trans (Eq.trans rfl hu))
      · exact (standing_countZero ..).trans (Eq.trans rfl hu)
    · exact Eq.trans rfl hu
  next => rfl

theorem standing_unmapRange (s : State) (n lo len : Nat) : standing (unmapRange s n lo len) = standing s := by
  unfold unmapRange
  split
  · rfl
  · exact (foldl_keeps (g := freeMap) standing standing_freeMap _ _).trans (Eq.trans rfl (standing_modCtx ..))

theorem bankFind_erase_other {α : Type} {b : Bank α} {i j : Nat} (h : j ≠ i) : bankFind (bankErase b i) j = bankFind b j := by
  induction b with
  | nil => rfl
  | cons e b ih =>
    rw [bankErase, List.filter_cons]
    by_cases he : e.1 = i
    · rw [if_neg (by simpa using he), bankFind, if_neg fun hj => h (hj.symm.trans he)]
      exact ih
    · rw [if_pos (by simpa using he), bankFind, bankFind]
      exact congrArg (fun r => if e.1 = j then some e.2 else r) ih

/-- Destroying a context takes it away, and no other. -/
theorem dropCtx_leaves (s : State) (env : Env) (n : Nat) : residue (dropCtx s env n) = residue s ∧
    standing (dropCtx s env n) = (s.nvm.everTest, fun m => decide (m ≠ n) && (ctxOf s m).isSome) := by
  unfold dropCtx
  split
  next hnone =>
    refine ⟨rfl, Prod.ext rfl (funext fun m => ?_)⟩
    by_cases hm : m = n
    · rw [hm]
      simp [standing, hnone]
    · simp [standing, hm]
  next c hc =>
    dsimp only
    generalize hq : (queuesOf s n).foldl dropQueue s = q
    have hqs : { q with queues := [] } = { s with queues := [] } := by
      rw [← hq]
      exact foldl_keeps (g := dropQueue) (fun u : State => { u with queues := [] }) (fun _ _ => rfl) _ s
    have hd := unreserved_dropResvs q n
    generalize dropResvs q n = d at hd
    generalize hw : dtcFlushAll (unmapRange ((sharesOf _ n).foldl (fun s k => unmapShare s env n k) _) n 0 (2 ^ 48)) n = w
    have hsame : withdrawn w = withdrawn d ∧ standing w = standing d := by
      rw [← hw]
      refine ⟨(withdrawn_dtcFlush ..).trans ((withdrawn_unmapRange ..).trans ?_), Eq.trans rfl ((standing_unmapRange ..).trans ?_)⟩
      · refine (foldl_keeps withdrawn (fun _ _ => withdrawn_unmapShare ..) _ _).trans ?_
        split
        · exact (withdrawn_clearRegion ..).trans rfl
        · rfl
      · refine (foldl_keeps standing (fun _ _ => standing_unmapShare ..) _ _).trans ?_
        split
        · exact Eq.trans (by unfold clearRegion; split <;> rfl) (rfl : standing (unpinPanes d n) = standing d)
        · rfl
    have hstand : standing w = standing s := hsame.2.trans ((eq_of_view unreserved standing (fun _ => rfl) hd).trans
      ((congrArg standing hqs :)))
    refine ⟨?_, Prod.ext (congrArg Prod.fst hstand :) (funext fun m => ?_)⟩
    · have hres : residue w = residue d := congrArg (fun u : State => { u with
        queues := [], umboxes := [], link := Link.reset, mem := State.reset.mem, host := State.reset.host }) hsame.1
      exact Eq.trans rfl (hres.trans ((eq_of_view unreserved residue (fun _ => rfl) hd).trans
        (congrArg (fun u : State => residue { u with queues := [] }) hqs :)))
    · by_cases hm : m = n
      · rw [hm]
        have hgone : bankFind (bankErase w.ctxs n) n = none := bankFind_erase_same ..
        simp [standing, ctxOf, hgone]
      · have hkept : bankFind (bankErase w.ctxs n) m = ctxOf w m := bankFind_erase_other hm
        have hw' : (ctxOf w m).isSome = (ctxOf s m).isSome := congrFun (congrArg Prod.snd hstand :) m
        simp [standing, ctxOf, hkept, hm]
        exact hw'

theorem dropCtxs_leave (env : Env) : ∀ (ns : List Nat) (s : State), residue (ns.foldl (fun s n => dropCtx s env n) s) = residue s ∧
    standing (ns.foldl (fun s n => dropCtx s env n) s) = (s.nvm.everTest, fun m => decide (m ∉ ns) && (ctxOf s m).isSome)
  | [], s => ⟨rfl, Prod.ext rfl (funext fun m => by simp [standing])⟩
  | n :: ns, s => by
    obtain ⟨hres, hstand⟩ := dropCtx_leaves s env n
    obtain ⟨hres', hstand'⟩ := dropCtxs_leave env ns (dropCtx s env n)
    refine ⟨hres'.trans hres, hstand'.trans (Prod.ext (congrArg Prod.fst hstand :) (funext fun m => ?_))⟩
    have hm : (ctxOf (dropCtx s env n) m).isSome = (decide (m ≠ n) && (ctxOf s m).isSome) := congrFun (congrArg Prod.snd hstand :) m
    dsimp only
    rw [hm, ← Bool.and_assoc]
    simp only [List.mem_cons, not_or, Bool.decide_and, Bool.and_comm]

theorem bankFind_of_not_mem {α : Type} {b : Bank α} {i : Nat} (h : i ∉ b.map (·.1)) : bankFind b i = none := by
  induction b with
  | nil => rfl
  | cons e b ih =>
    rw [List.map_cons, List.mem_cons, not_or] at h
    rw [bankFind, if_neg fun he => h.1 he.symm]
    exact ih h.2

theorem eq_nil_of_bankFind {α : Type} {b : Bank α} (h : ∀ i, bankFind b i = none) : b = [] := by
  cases b with
  | nil => rfl
  | cons e b => exact nomatch (if_pos rfl).symm.trans (h e.1)

/-- With every context destroyed, none is left. -/
theorem dropAll_leaves (s : State) (env : Env) : ((s.ctxs.map (·.1)).foldl (fun s n => dropCtx s env n) s).ctxs = [] ∧
    residue ((s.ctxs.map (·.1)).foldl (fun s n => dropCtx s env n) s) = residue s ∧
    ((s.ctxs.map (·.1)).foldl (fun s n => dropCtx s env n) s).nvm.everTest = s.nvm.everTest := by
  obtain ⟨hres, hstand⟩ := dropCtxs_leave env (s.ctxs.map (·.1)) s
  refine ⟨eq_nil_of_bankFind fun m => ?_, hres, (congrArg Prod.fst hstand :)⟩
  have hm := (congrFun (congrArg Prod.snd hstand :) m : (ctxOf _ m).isSome = (decide (m ∉ s.ctxs.map (·.1)) && (ctxOf s m).isSome))
  refine Option.not_isSome_iff_eq_none.1 fun hsome => ?_
  rw [show (bankFind _ m).isSome = _ from hm, Bool.and_eq_true] at hsome
  obtain ⟨hout, hin⟩ := hsome
  rw [ctxOf, bankFind_of_not_mem (of_decide_eq_true hout)] at hin
  exact Bool.false_ne_true hin

/-- With every command ended and every context destroyed, none is left, and what no context holds is as before. -/
theorem destroyAll_leaves (s : State) (env : Env) : (destroyAll s env).ctxs = [] ∧ (destroyAll s env).ops = [] ∧
    (destroyAll s env).fuses = s.fuses ∧ (destroyAll s env).mboxes = s.mboxes ∧
    (destroyAll s env).nvm.everTest = s.nvm.everTest := by
  have hend := endless_endOps .aborted true (s.ops.map Op.id) s
  unfold destroyAll
  dsimp only
  generalize endOps .aborted true (s.ops.map Op.id) s = u at hend
  obtain ⟨hctxs, hres, hever⟩ := dropAll_leaves (audGive { u with ops := [] } 0 u.ops.length) env
  refine ⟨hctxs, (congrArg State.ops hres :), ?_, ?_, ?_⟩
  · exact Eq.trans (congrArg State.fuses hres :) (eq_of_view endless (s := s) (t := u) State.fuses (fun _ => rfl) hend)
  · exact Eq.trans (congrArg State.mboxes hres :) (eq_of_view endless (s := s) (t := u) State.mboxes (fun _ => rfl) hend)
  · exact hever.trans (eq_of_view endless (s := s) (t := u) (fun u => u.nvm.everTest) (fun _ => rfl) hend)

/-! ### Closing a Door with no context and no command left -/

theorem Bears.failMsg (s : State) (m : Msg) : Bears s (failMsg s m) := by
  unfold Machine.failMsg
  split
  · exact .failReq ..
  · exact .refl s

theorem Bears.foldl {α : Type} {g : State → α → State} (hg : ∀ s a, Bears s (g s a)) : ∀ (l : List α) (s : State), Bears s (l.foldl g s)
  | [], s => .refl s
  | a :: l, s => (hg s a).trans (Bears.foldl hg l _)

theorem Bears.sendHeld (s : State) (e : Nat × Msg) : Bears s (sendHeld s e) := by
  have hsend := afloat_sendMsg s e.2
  unfold Machine.sendHeld
  split
  next h => rw [h] at hsend; exact .of_afloat hsend
  next h =>
    rw [h] at hsend
    exact (Bears.of_afloat hsend).trans (.failMsg ..)

theorem Bears.releaseHeld (s : State) : Bears s (releaseHeld s) :=
  Bears.trans (.of_eq rfl rfl) (.foldl (g := Machine.sendHeld) Bears.sendHeld s.link.held { s with link := { s.link with held := [] } })

theorem Bears.reroute (s : State) (m : Msg) : Bears s (reroute s m) := by
  have hroute := afloat_routeOf s m.dst none
  unfold Machine.reroute
  split
  next h => rw [h] at hroute; exact .of_afloat hroute
  next h => rw [h] at hroute; exact .of_afloat hroute
  next h =>
    rw [h] at hroute
    exact (Bears.of_afloat hroute).trans (.failMsg ..)

theorem Bears.closeDoor (s : State) (d : Nat) : Bears s (closeDoor s d) := by
  have hback : Bears s ([0, 1, 2].foldl (fun s v => backCred s d v (dcLevel (doorOf s d) v).toNat) s) :=
    .foldl (g := fun s v => backCred s d v (dcLevel (doorOf s d) v).toNat) (fun _ _ => .of_eq rfl rfl) [0, 1, 2] s
  have hevent (u : State) : Bears u (raiseEvent u 0x41 noCtx d 4) := .of_afloat (afloat_of_quiet (quiet_raiseEvent ..))
  have hdoor (u : State) (f : Door → Door) (l : Link) : Bears u (modDoor { u with link := l } d f) := .of_eq rfl rfl
  unfold Machine.closeDoor
  split
  · dsimp only
    generalize [0, 1, 2].foldl (fun s v => backCred s d v (dcLevel (doorOf s d) v).toNat) s = u at hback
    exact hback.trans ((hdoor u _ _).trans ((hevent _).trans ((Bears.foldl Bears.reroute _ _).trans (.releaseHeld _))))
  · exact .refl s

theorem Bears.empty {s t : State} (h : Bears s t) (hc : s.ctxs = []) (ho : s.ops = []) : t.ctxs = [] ∧ t.ops = [] := by
  obtain ⟨hlost, g, hops, -⟩ := h
  refine ⟨eq_nil_of_bankFind fun n => ?_, by rw [hops, ho]; rfl⟩
  have hn := hlost n
  rw [lostOf, lostOf, ctxOf, ctxOf, hc] at hn
  exact Option.map_eq_none_iff.1 hn

/-! ### Test mode (Table 13.9) -/

/-- A part that has entered test mode. -/
structure Tested (s t : State) : Prop where
  mode : t.thresh.tstate = .test
  ctxs : t.ctxs = []
  ops : t.ops = []
  data : t.mem.data = ⟨[]⟩
  poison : t.mem.poison = []
  pantries : ∀ e ∈ t.pantries, e.2.sram = ⟨[]⟩ ∧ e.2.dir = []
  lok : t.lamp.lok = 0
  enabled : t.lamp.enabled = 0
  parked : t.thermo.parkAll = true
  fuses : t.fuses = { s.fuses with testCnt := s.fuses.testCnt + 1 }
  board : t.nvm.boardCfg = none
  topo : t.nvm.topo = none
  ever : t.nvm.everTest = true

theorem Tested.of_boxless {s t u : State} {p q : Bank Mailbox} {l : Nat} (h : Tested (setBoxes s p q l) u) (hb : boxless t = boxless u) :
    Tested s t := by
  obtain ⟨hmode, hctxs, hops, hdata, hpoison, hpantries, hlok, henabled, hparked, hfuses, hboard, htopo, hever⟩ := h
  have keep {α : Type} (f : State → α) (hf : ∀ u, f (boxless u) = f u) : f t = f u := eq_of_view boxless f hf hb
  exact ⟨(keep (fun u => u.thresh.tstate) fun _ => rfl).trans hmode, (keep State.ctxs fun _ => rfl).trans hctxs,
    (keep State.ops fun _ => rfl).trans hops, (keep (fun u => u.mem.data) fun _ => rfl).trans hdata,
    (keep (fun u => u.mem.poison) fun _ => rfl).trans hpoison, fun e he => hpantries e (keep State.pantries (fun _ => rfl) ▸ he),
    (keep (fun u => u.lamp.lok) fun _ => rfl).trans hlok, (keep (fun u => u.lamp.enabled) fun _ => rfl).trans henabled,
    (keep (fun u => u.thermo.parkAll) fun _ => rfl).trans hparked, (keep State.fuses fun _ => rfl).trans hfuses,
    (keep (fun u => u.nvm.boardCfg) fun _ => rfl).trans hboard, (keep (fun u => u.nvm.topo) fun _ => rfl).trans htopo,
    (keep (fun u => u.nvm.everTest) fun _ => rfl).trans hever⟩

/-- A part that has begun to enter test mode (Table 13.9, step 2). -/
def unlocked (s : State) : State := { s with
  fuses := { s.fuses with testCnt := s.fuses.testCnt + 1 }, nvm := { s.nvm with wipePending := true, everTest := true },
  thresh := { s.thresh with challenge := none } }

/-- A part as it stands when it writes that it has entered test mode. -/
def erased (u : State) : State :=
  let s := eraseCustomer (wipeMemory u)
  { s with nvm := { s.nvm with wipePending := false }, thresh := { s.thresh with tstate := .test } }

/-- Every Door closed. -/
def shutDoors (u : State) : State := (List.range 16).foldl closeDoor u

theorem enterTest_eq (s : State) (env : Env) :
    enterTest s env = addFrec (erased (shutDoors (parkAll (lampOff (destroyAll (unlocked s) env))))) 18 0 0 0 0 noCtx := by
  unfold enterTest erased unlocked shutDoors
  rfl

theorem enterTest_tested (s : State) (env : Env) : Tested s (enterTest s env) ∧ (enterTest s env).mboxes = s.mboxes := by
  obtain ⟨hctxs, hops, hfuses, hboxes, hever⟩ := destroyAll_leaves (unlocked s) env
  rw [enterTest_eq]
  generalize destroyAll (unlocked s) env = d at hctxs hops hfuses hboxes hever
  obtain ⟨hctxs, hops⟩ := Bears.empty (Bears.foldl Bears.closeDoor (List.range 16) (parkAll (lampOff d))) hctxs hops
  have hsame : workless (shutDoors (parkAll (lampOff d))) = workless (parkAll (lampOff d)) :=
    foldl_keeps workless workless_closeDoor (List.range 16) _
  change (shutDoors (parkAll (lampOff d))).ctxs = [] at hctxs
  change (shutDoors (parkAll (lampOff d))).ops = [] at hops
  generalize shutDoors (parkAll (lampOff d)) = u at hctxs hops hsame
  have hlamp : u.lamp = (lampOff d).lamp := eq_of_view workless (s := parkAll (lampOff d)) State.lamp (fun _ => rfl) hsame
  have hthermo : u.thermo = (parkAll (lampOff d)).thermo := eq_of_view workless State.thermo (fun _ => rfl) hsame
  have hblown : u.fuses = d.fuses := eq_of_view workless (s := parkAll (lampOff d)) State.fuses (fun _ => rfl) hsame
  have hbox : u.mboxes = d.mboxes := eq_of_view workless (s := parkAll (lampOff d)) State.mboxes (fun _ => rfl) hsame
  have hnvm : u.nvm = d.nvm := eq_of_view workless (s := parkAll (lampOff d)) State.nvm (fun _ => rfl) hsame
  have hrec := unrecorded_addFrec (erased u) 18 0 0 0 0 noCtx
  obtain ⟨f, hthresh⟩ := addFrec_thresh (erased u) 18 0 0 0 0 noCtx
  obtain ⟨-, fr, fs, ov, hrecd⟩ := addFrec_keeps (erased u) 18 0 0 0 0 noCtx
  have hpantries : (addFrec (erased u) 18 0 0 0 0 noCtx).pantries = (wipeMemory u).pantries := (congrArg State.pantries hrec :)
  refine ⟨⟨?_, (congrArg State.ctxs hrec :).trans hctxs, (congrArg State.ops hrec :).trans hops, (congrArg (fun u : State => u.mem.data) hrec :),
    (congrArg (fun u : State => u.mem.poison) hrec :), fun e he => ?_, ?_, ?_, ?_, ?_, ?_, ?_, ?_⟩, ?_⟩
  · rw [hthresh]
    rfl
  · rw [hpantries] at he
    obtain ⟨e', -, rfl⟩ := List.mem_map.1 he
    exact ⟨rfl, rfl⟩
  · exact (congrArg (fun u : State => u.lamp.lok) hrec :).trans (congrArg Lamp.lok hlamp :)
  · exact (congrArg (fun u : State => u.lamp.enabled) hrec :).trans (congrArg Lamp.enabled hlamp :)
  · exact (congrArg (fun u : State => u.thermo.parkAll) hrec :).trans (congrArg Thermo.parkAll hthermo :)
  · exact (congrArg State.fuses hrec :).trans (hblown.trans hfuses)
  · rw [hrecd]
    rfl
  · rw [hrecd]
    rfl
  · rw [hrecd]
    exact (congrArg Nvm.everTest hnvm).trans hever
  · exact (congrArg State.mboxes hrec :).trans (hbox.trans hboxes)

/-! ### Table 13.12 -/

section
variable {s : State} {k : Fin 16} {env : Env}

/-- A rule that ends by telling of what it has done. -/
theorem ran_told {mb : MbRef} {code : Nat} {user : Bool} {body : State → Mailbox → State × Ans} {u : State} {type a0 a1 : Nat}
    (h : Taken s mb code) (hv : ∀ n, mb = .unpriv n → user = true)
    (hb : ∀ p q l, body (setBoxes s p q l) (mbGet s mb) = (raiseEvent (setBoxes u p q l) type noCtx a0 a1, .ok)) :
    Ran s (lbStep mb code user body s) mb .ok [] u := by
  have hsame (p q : Bank Mailbox) (l : Nat) := quiet_raiseEvent (setBoxes u p q l) type noCtx a0 a1
  obtain ⟨p, q, l, hran⟩ := ran_of_rule (F := fun v => raiseEvent { u with mboxes := v.mboxes, umboxes := v.umboxes, lastMbox := v.lastMbox }
    type noCtx a0 a1) h hv hb fun p q l => mbGet_congr (eq_of_view quiet State.mboxes (fun _ => rfl) (hsame p q l))
      (eq_of_view quiet State.umboxes (fun _ => rfl) (hsame p q l)) mb
  exact hran.congr ((boxless_of_quiet (hsame p q l)).trans (boxless_setBoxes ..))

theorem attest_answer (h : Taken s (.priv k) 0xB0) : ∃ t, exec (.attest (.priv k)) s = .next t ∧
    (if s.thresh.tstate = .test ∨ s.thresh.tstate = .recovery then Ran s t (.priv k) .denied [] s
     else let body := reportBody s ((List.range 4).flatMap (fun i => toBytes 8 (argOf s (.priv k) i)))
      Ran s t (.priv k) .ok (resultWords (body ++ toBytes 96 (Config.identitySign body).toNat)) s) := by
  refine ⟨_, rfl, ?_⟩
  split
  next hmode => exact ran_of_body h nofun fun p q l => if_pos hmode
  next hmode => exact ran_of_body h nofun fun p q l => if_neg hmode

theorem fwStage_answer {pa n : Nat} {img : List Byte} (hpa : pa = argOf s (.priv k) 0) (hn : n = argOf s (.priv k) 1)
    (hs : paSpan s pa n = true) (hc : CleanRead s env pa n) (himg : img = s.mem.data.read pa n) (h : Taken s (.priv k) 0xB3)
    (hlen : n ≤ 8388608) : ∃ t, exec (.fwStage (.priv k) env) s = .next t ∧
      (if imgAccepted s img then Ran s t (.priv k) .ok [] { s with nvm := t.nvm } ∧
        t.nvm = (if s.nvm.bank then { s.nvm with bankA := img } else { s.nvm with bankB := img })
       else Ran s t (.priv k) .denied [] s) := by
  subst hpa hn himg
  obtain ⟨body, hexec, hrule⟩ : ∃ body, exec (.fwStage (.priv k) env) s = .next (lbStep (.priv k) 0xB3 false body s) ∧
      ∀ p q l, body (setBoxes s p q l) (mbGet s (.priv k)) =
        if imgAccepted s (s.mem.data.read (argOf s (.priv k) 0) (argOf s (.priv k) 1)) then
          (raiseEvent (setBoxes (writeBank s (!s.nvm.bank) (s.mem.data.read (argOf s (.priv k) 0) (argOf s (.priv k) 1))) p q l) 0x85 noCtx
            (imgSvn (s.mem.data.read (argOf s (.priv k) 0) (argOf s (.priv k) 1))) 0, .ok)
        else (setBoxes s p q l, .done .denied []) := by
    refine ⟨_, rfl, fun p q l => (if_neg (Nat.not_lt.2 hlen)).trans ?_⟩
    rw [show readTable (setBoxes s p q l) env (reqArg (mbGet s (.priv k)) 0) (reqArg (mbGet s (.priv k)) 1) = _ from
      readTable_setBoxes hs hc p q l]
    rfl
  refine ⟨_, hexec, ?_⟩
  split
  next hacc =>
    have hran := ran_told (user := false) h nofun fun p q l => (hrule p q l).trans (if_pos hacc)
    have hnvm := eq_of_view boxless State.nvm (fun _ => rfl) hran.boxless_eq
    refine ⟨hnvm ▸ hran, hnvm.trans ?_⟩
    unfold writeBank
    cases s.nvm.bank <;> rfl
  next hacc => exact ran_of_body h nofun fun p q l => (hrule p q l).trans (if_neg hacc)

theorem testUnlock_answer {pa n : Nat} {img : List Byte} (hpa : pa = argOf s (.priv k) 0) (hn : n = argOf s (.priv k) 1)
    (hs : paSpan s pa n = true) (hc : CleanRead s env pa n) (himg : img = s.mem.data.read pa n) (h : Taken s (.priv k) 0xB8)
    (hlen : n = 144) : ∃ t, exec (.testUnlock (.priv k) env) s = .next t ∧
      (if tokenOk s img then Ran s t (.priv k) .ok [] t ∧ Tested s t else Ran s t (.priv k) .denied [] s) := by
  subst hpa himg
  rw [hlen] at hs hc ⊢
  have hargs : ¬ reqArg (mbGet s (.priv k)) 1 ≠ 144 := fun hne => hne (hn.symm.trans hlen)
  obtain ⟨body, hexec, hrule⟩ : ∃ body, exec (.testUnlock (.priv k) env) s = .next (lbStep (.priv k) 0xB8 false body s) ∧
      ∀ p q l, body (setBoxes s p q l) (mbGet s (.priv k)) =
        if tokenOk s (s.mem.data.read (argOf s (.priv k) 0) 144) then (enterTest (setBoxes s p q l) env, .ok)
        else (setBoxes s p q l, .done .denied []) := by
    refine ⟨_, rfl, fun p q l => (if_neg hargs).trans ?_⟩
    rw [show readTable (setBoxes s p q l) env (reqArg (mbGet s (.priv k)) 0) 144 = _ from readTable_setBoxes hs hc p q l]
    rfl
  refine ⟨_, hexec, ?_⟩
  split
  next hok =>
    obtain ⟨p, q, l, hran⟩ := ran_of_rule (F := fun u => enterTest u env) h nofun (fun p q l => (hrule p q l).trans (if_pos hok))
      fun p q l => congrArg (fun b => bankGet b Mailbox.reset k.val) (enterTest_tested (setBoxes s p q l) env).2
    exact ⟨hran.self, (enterTest_tested (setBoxes s p q l) env).1.of_boxless hran.boxless_eq⟩
  next hok => exact ran_of_body h nofun fun p q l => (hrule p q l).trans (if_neg hok)

theorem boardCfgSet_answer {pa n : Nat} {img : List Byte} (hpa : pa = argOf s (.priv k) 0) (hn : n = argOf s (.priv k) 1)
    (hs : paSpan s pa n = true) (hc : CleanRead s env pa n) (himg : img = s.mem.data.read pa n) (h : Taken s (.priv k) 0xB9)
    (hlen : n ≤ 4096) : ∃ t, exec (.boardCfgSet (.priv k) env) s = .next t ∧
      (if 1000 ≤ s.nvm.boardWrites then Ran s t (.priv k) .nvmWorn [] s
       else Ran s t (.priv k) .ok [] { s with
        nvm := { s.nvm with boardCfg := some img, boardWrites := s.nvm.boardWrites + 1 } }) := by
  subst hpa hn himg
  obtain ⟨body, hexec, hrule⟩ : ∃ body, exec (.boardCfgSet (.priv k) env) s = .next (lbStep (.priv k) 0xB9 false body s) ∧
      ∀ p q l, body (setBoxes s p q l) (mbGet s (.priv k)) =
        if 1000 ≤ s.nvm.boardWrites then (setBoxes s p q l, .done .nvmWorn [])
        else (setBoxes { s with nvm := { s.nvm with
          boardCfg := some (s.mem.data.read (argOf s (.priv k) 0) (argOf s (.priv k) 1)), boardWrites := s.nvm.boardWrites + 1 } } p q l, .ok) := by
    refine ⟨_, rfl, fun p q l => (if_neg (Nat.not_lt.2 hlen)).trans ?_⟩
    rw [show readTable (setBoxes s p q l) env (reqArg (mbGet s (.priv k)) 0) (reqArg (mbGet s (.priv k)) 1) = _ from
      readTable_setBoxes hs hc p q l]
    rfl
  refine ⟨_, hexec, ?_⟩
  split
  next hworn => exact ran_of_body h nofun fun p q l => (hrule p q l).trans (if_pos hworn)
  next hworn => exact ran_of_body h nofun fun p q l => (hrule p q l).trans (if_neg hworn)

theorem fwActivate_answer (h : Taken s (.priv k) 0xB4) : ∃ t, exec (.fwActivate (.priv k)) s = .next t ∧
    (if imgAccepted s (bankImage s (!s.nvm.bank)) then
      Ran s t (.priv k) .ok [] { s with nvm := { s.nvm with pend := true, switchDue := true } }
     else Ran s t (.priv k) .noObject [] s) := by
  refine ⟨_, rfl, ?_⟩
  split
  next hacc => exact ran_of_body h nofun fun p q l => if_pos hacc
  next hacc => exact ran_of_body h nofun fun p q l => if_neg hacc

/-- The state that a commit of the running image leaves (R513). -/
def committed (s : State) : State :=
  let u := blowFuses s (imgSvn s.thresh.running) (imgRevoke s.thresh.running)
  { u with nvm := { u.nvm with pend := false } }

theorem fwCommit_exec (s : State) (k : Fin 16) : ∃ body, exec (.fwCommit (.priv k)) s = .next (lbStep (.priv k) 0xB5 false body s) ∧
    ∀ p q l m, body (setBoxes s p q l) m = if s.nvm.activated then
        (raiseEvent (setBoxes (committed s) p q l) 0x81 noCtx (committed s).fuses.svn (imgRevoke s.thresh.running).toNat, .ok)
      else (setBoxes s p q l, .done .denied []) := by
  refine ⟨_, rfl, fun p q l m => ?_⟩
  rw [show (setBoxes s p q l).nvm.activated = s.nvm.activated from rfl]
  cases s.nvm.activated <;> rfl

theorem fwCommit_answer (h : Taken s (.priv k) 0xB5) : ∃ t, exec (.fwCommit (.priv k)) s = .next t ∧
    (if s.nvm.activated then Ran s t (.priv k) .ok [] { s with
      nvm := { s.nvm with pend := false },
      fuses := { s.fuses with svn := max s.fuses.svn (min 64 (field s.thresh.running 6 1)),
                              keyRev := s.fuses.keyRev ||| imgRevoke s.thresh.running } }
     else Ran s t (.priv k) .denied [] s) := by
  obtain ⟨body, hexec, hrule⟩ := fwCommit_exec s k
  refine ⟨_, hexec, ?_⟩
  split
  next hact => exact (ran_told (u := committed s) h nofun fun p q l => (hrule p q l _).trans (if_pos hact)).congr rfl
  next hact => exact ran_of_body h nofun fun p q l => (hrule p q l _).trans (if_neg hact)

/-- The word of FW_QUERY read back field by field. -/
theorem queryWord_fields (b a : Bool) {x y : Nat} (z : Nat) (hx : x < 256) (hy : y < 256) :
    let v := bit b + 2 * bit a + 256 * x + 65536 * y + 16777216 * z
    v % 2 = (if b then 1 else 0) ∧ v / 2 % 2 = (if a then 1 else 0) ∧ v / 256 % 256 = x ∧ v / 65536 % 256 = y ∧ v / 16777216 = z := by
  dsimp only [bit]
  split <;> split <;> omega

theorem fwQuery_answer (h : Taken s (.priv k) 0xB6) : ∃ t v, exec (.fwQuery (.priv k)) s = .next t ∧
    Ran s t (.priv k) .ok [v, field (bankImage s s.nvm.bank) 5 1] s ∧ v % 2 = (if s.nvm.bank then 1 else 0) ∧
    v / 2 % 2 = (if imgAccepted s (bankImage s (!s.nvm.bank)) then 1 else 0) ∧
    v / 256 % 256 = field (bankImage s s.nvm.bank) 6 1 ∧ v / 65536 % 256 = field (bankImage s (!s.nvm.bank)) 6 1 ∧
    v / 16777216 = s.fuses.svn :=
  ⟨_, _, rfl, ran_of_body h nofun fun _ _ _ => rfl, queryWord_fields _ _ _ (field_lt ..) (field_lt ..)⟩

end

/-- Settles O60: one lemma for each command; entering test mode leaves nothing of a context, a command or a byte. -/
theorem serviceCommandsAnswer : Obligations.ServiceCommandsAnswer := by
  unfold Obligations.ServiceCommandsAnswer
  intro s k env
  refine ⟨attest_answer, fun h => ⟨_, rfl, ran_of_body h nofun fun _ _ _ => rfl⟩, fun h => ⟨_, rfl, ran_of_body h nofun fun _ _ _ => rfl⟩,
    fun pa n img hpa hn hs hc himg => ⟨fwStage_answer hpa hn hs hc himg, fun h hlen => ?_, boardCfgSet_answer hpa hn hs hc himg⟩,
    fwActivate_answer, fwCommit_answer, fwQuery_answer,
    fun rnd h => ⟨_, rfl, ran_of_body (u := { s with thresh := { s.thresh with challenge := some rnd } }) h nofun fun _ _ _ => rfl⟩, rfl⟩
  obtain ⟨t, hexec, ht⟩ := testUnlock_answer hpa hn hs hc himg h hlen
  refine ⟨t, hexec, ?_⟩
  split at ht
  next hok =>
    obtain ⟨hran, hmode, hctxs, hops, hdata, hpoison, hpantries, hlok, henabled, hparked, hfuses, hboard, htopo, hever⟩ := ht
    rw [if_pos hok]
    exact ⟨hran, hmode, hctxs, hops, hdata, hpoison, hpantries, hlok, henabled, hparked, hfuses, hboard, htopo, hever⟩
  next hok => exact (if_neg hok).symm ▸ ht

end Sys2Proof.Machine

/-!
Completion (R363, R371 to R373): what a step leaves of the operation tokens, of what it has sent and of memory, and the record and
the SIGNAL update of a finished command.
-/

namespace Sys2Proof.Machine

open Sys2Proof

/-! ### Tokens, output and memory under everything but a decode, a completion and a write -/

/-- The operation tokens, the bytes of memory and what has been sent. -/
def ledger (s : State) : Aud × Memory × List Out := (audOf s 0, s.mem.data, s.out)

/-- A step that takes and gives back no operation token, writes no memory, and takes nothing back that was sent. -/
structure Tallies (s t : State) : Prop where
  tokens : audOf t 0 = audOf s 0
  data : t.mem.data = s.mem.data
  sent : ∃ xs, t.out = s.out ++ xs

namespace Tallies

theorem of_ledger {s t : State} (h : ledger t = ledger s) : Tallies s t :=
  ⟨congrArg Prod.fst h, congrArg (·.2.1) h, [], (congrArg (·.2.2) h).trans (List.append_nil _).symm⟩
theorem refl (s : State) : Tallies s s := .of_ledger rfl
theorem trans {s t u : State} (h : Tallies s t) (k : Tallies t u) : Tallies s u := by
  obtain ⟨ht, hd, xs, hx⟩ := h
  obtain ⟨kt, kd, ys, hy⟩ := k
  exact ⟨kt.trans ht, kd.trans hd, xs ++ ys, by rw [hy, hx, List.append_assoc]⟩
theorem foldl {α : Type} {g : State → α → State} (hg : ∀ s a, Tallies s (g s a)) : ∀ (l : List α) (s : State), Tallies s (l.foldl g s)
  | [], s => .refl s
  | a :: l, s => (hg s a).trans (Tallies.foldl hg l _)
theorem of_quiet {s t : State} (h : quiet t = quiet s) (hx : ∃ xs, t.out = s.out ++ xs) : Tallies s t :=
  ⟨audOf_of_quiet h 0, (congrArg (fun u : State => u.mem.data) h :), hx⟩

end Tallies

theorem ledger_audGive (s : State) {q : Nat} (hq : q ≠ 0) (n : Nat) : ledger (audGive s q n) = ledger s :=
  Prod.ext ((audOf_audGive ..).trans (if_neg hq.symm)) rfl
theorem ledger_audTake (s : State) {q : Nat} (hq : q ≠ 0) (n : Nat) : ledger (audTake s q n) = ledger s :=
  Prod.ext ((audOf_audTake ..).trans (if_neg hq.symm)) rfl
theorem ledger_audPass (s : State) {q : Nat} (hq : q ≠ 0) (n : Nat) : ledger (audPass s q n) = ledger s :=
  (ledger_audGive _ hq n).trans (ledger_audTake _ hq n)

theorem ledger_modStream (s : State) (sid : Nat) (f : Stream → Stream) : ledger (modStream s sid f) = ledger s := by
  unfold modStream
  split <;> rfl
theorem ledger_modCtx (s : State) (n : Nat) (f : Context → Context) : ledger (modCtx s n f) = ledger s := by
  unfold modCtx
  split <;> rfl

theorem raiseEvent3_sends (s : State) (type ctx a0 a1 a2 : Nat) : ∃ xs, (raiseEvent3 s type ctx a0 a1 a2).out = s.out ++ xs := by
  unfold raiseEvent3
  dsimp only
  split
  · unfold writeEvent
    obtain ⟨xs, h⟩ := raiseVec_sends _ 0
    rw [h]
    exact ⟨_, List.append_assoc ..⟩
  · split <;> exact ⟨[], (List.append_nil _).symm⟩

theorem Tallies.raiseEvent3 (s : State) (type ctx a0 a1 a2 : Nat) : Tallies s (raiseEvent3 s type ctx a0 a1 a2) :=
  .of_quiet (quiet_raiseEvent3 ..) (raiseEvent3_sends ..)
theorem Tallies.raiseEvent (s : State) (type ctx a0 a1 : Nat) : Tallies s (raiseEvent s type ctx a0 a1) := .raiseEvent3 ..
theorem Tallies.raiseQueueVec (s : State) (q : Nat) : Tallies s (raiseQueueVec s q) := by
  unfold Machine.raiseQueueVec
  split
  · exact .of_quiet (quiet_raiseVec ..) (raiseVec_sends ..)
  · exact .refl s
theorem Tallies.addFrec (s : State) (kind unit index cause paddr ctx : Nat) : Tallies s (addFrec s kind unit index cause paddr ctx) := by
  have h := unrecorded_addFrec s kind unit index cause paddr ctx
  exact ⟨eq_of_view unrecorded (audOf · 0) (fun _ => rfl) h, (congrArg (fun u : State => u.mem.data) h :), (addFrec_keeps ..).1⟩

/-! ### The end of a command and the loss of a context -/

theorem ledger_dropStreams (s : State) (id : OpId) (aborted : Bool) : ledger (dropStreams s id aborted) = ledger s := by
  have hheld (u : State) (x : Stream) : ledger (freeHeld u x) = ledger u := by
    unfold freeHeld
    split
    · exact (ledger_audGive _ (by decide) 1).trans (ledger_audGive u (by decide) 1)
    · rfl
  unfold dropStreams
  refine (foldl_keeps ledger (fun u e => ?_) _ _).trans (rfl : ledger { s with streams := _ } = ledger s)
  split
  · exact (ledger_audGive _ (by decide) 1).trans (hheld u e.2)
  · rfl

theorem ledger_closeTrees (s : State) (id : OpId) : ledger (closeTrees s id) = ledger s := by
  unfold closeTrees
  refine (foldl_keeps ledger (fun u t => ?_) _ _).trans (rfl : ledger { s with trees := _ } = ledger s)
  split
  · exact (ledger_audGive _ (by decide) 1).trans rfl
  · rfl

theorem ledger_endOp (s : State) (id : OpId) (st : Status) (aborted : Bool) : ledger (endOp s id st aborted) = ledger s := by
  unfold endOp
  split
  · rfl
  · split
    · rfl
    · dsimp only
      split
      · exact Eq.trans rfl ((ledger_audGive _ (by decide) 1).trans ((ledger_closeTrees ..).trans (Eq.trans rfl (ledger_dropStreams s id aborted))))
      · exact Eq.trans rfl ((ledger_closeTrees ..).trans (Eq.trans rfl (ledger_dropStreams s id aborted)))

theorem ledger_endOps (st : Status) (aborted : Bool) (ids : List OpId) (s : State) : ledger (endOps st aborted ids s) = ledger s :=
  foldl_keeps ledger (fun u id => ledger_endOp u id st aborted) ids s

theorem Tallies.dropResvs (s : State) (n : Nat) : Tallies s (dropResvs s n) := by
  have hdrop : ledger ([0, 1, 2, 3].foldl (fun u c => dropResv u n c) s) = ledger s :=
    foldl_keeps (g := fun u c => dropResv u n c) ledger (fun u c => Eq.trans (ledger_audGive _ (by decide) _) rfl) _ s
  unfold Machine.dropResvs
  generalize [0, 1, 2, 3].foldl (fun u c => dropResv u n c) s = u at hdrop
  refine (Tallies.of_ledger hdrop).trans ?_
  unfold checkGuarantee
  split
  · have h (v : State) (hv : ledger v = ledger u) : Tallies u (Machine.raiseEvent v 0x0A noCtx 0 0) :=
      (Tallies.of_ledger hv).trans (.raiseEvent ..)
    exact h _ rfl
  · exact .refl u

theorem ledger_clearRegion (s : State) (n : Nat) : ledger (clearRegion s n) = ledger s := by unfold clearRegion; split <;> rfl

theorem Tallies.loseCtx3 (s : State) (n cause addr node : Nat) : Tallies s (loseCtx3 s n cause addr node) := by
  unfold Machine.loseCtx3
  split
  · exact .refl s
  · split
    · exact .refl s
    · dsimp only
      have hunpin (u : State) : ledger (unpinPanes u n) = ledger u := rfl
      refine Tallies.trans ?_ (.raiseEvent3 ..)
      refine Tallies.trans ?_ (.of_ledger (ledger_clearRegion ..))
      refine Tallies.trans ?_ (.of_ledger (hunpin _))
      refine Tallies.trans ?_ (.dropResvs ..)
      refine Tallies.trans ?_ (.of_ledger rfl)
      refine Tallies.trans ?_ (.of_ledger (ledger_endOps ..))
      exact .of_ledger (Eq.trans rfl (ledger_modCtx ..))

theorem Tallies.poisonRead (s0 s : State) (n pa : Nat) : Tallies s (poisonRead s0 s n pa) := by
  unfold Machine.poisonRead
  dsimp only
  split
  · exact (Tallies.addFrec ..).trans (.loseCtx3 ..)
  · exact .loseCtx3 ..

theorem Tallies.farPoisonRead (s : State) (n node pa : Nat) : Tallies s (farPoisonRead s n node pa) :=
  (Tallies.addFrec ..).trans (.loseCtx3 ..)

/-! ### Reads -/

theorem Tallies.foundUe (s : State) (g : Nat) (src : Finder) (who : Option Nat) (event : Bool) : Tallies s (foundUe s g src who event) := by
  have hpoison : ledger (setPoison s g) = ledger s := by unfold setPoison; split <;> rfl
  have hpage (u : State) (pa : Nat) : ledger (poisonedPage u pa) = ledger u := by
    unfold poisonedPage retirePage
    split
    · rfl
    · split <;> rfl
  unfold Machine.foundUe
  dsimp only
  refine Tallies.trans ?_ (.of_ledger (hpage _ _))
  have h (u : State) (hu : ledger u = ledger (setPoison s g)) (a b c d e f : Nat) : Tallies s (Machine.addFrec u a b c d e f) :=
    (Tallies.of_ledger (hu.trans hpoison)).trans (.addFrec ..)
  split
  · exact (h _ (by rfl) ..).trans (.raiseEvent ..)
  · exact h _ (by rfl) ..

theorem Tallies.readGranule (s : State) (env : Env) (src : Finder) (who : Option Nat) (g : Nat) :
    Tallies s (readGranule s env src who g).1 := by
  have hqueue (u : State) : ledger (queueScrub u g) = ledger u := by
    unfold queueScrub
    split <;> split <;> rfl
  unfold Machine.readGranule
  dsimp only
  split
  · exact .of_ledger rfl
  · split
    · exact .foundUe ..
    · split
      · exact .of_ledger ((hqueue _).trans rfl)
      · exact .refl s

theorem Tallies.readGranules (env : Env) (src : Finder) (who : Option Nat) :
    ∀ (gs : List Nat) (s : State), Tallies s (readGranules env src who gs s).1
  | [], s => .refl s
  | g :: gs, s => by
    rw [Machine.readGranules]
    split
    · exact .readGranule ..
    · exact (Tallies.readGranule ..).trans (Tallies.readGranules env src who gs _)

theorem Tallies.readPa (s : State) (env : Env) (src : Finder) (who : Option Nat) (pa n : Nat) : Tallies s (readPa s env src who pa n).1 :=
  .readGranules ..

theorem ledger_countReqs (s : State) (k : Nat) : ledger (countReqs s k) = ledger s :=
  (ledger_audPass _ (by decide) k).trans (ledger_audPass s (by decide) k)

theorem Tallies.hostFail (s : State) (st : HostStatus) (tag : Option Nat) : Tallies s (hostFail s st tag) := by
  unfold Machine.hostFail
  dsimp only
  split
  · exact ⟨rfl, rfl, _, rfl⟩
  · split
    · exact ⟨rfl, rfl, _, rfl⟩
    · exact .of_ledger rfl

theorem Tallies.of_translate {s t : State} {ctx va : Nat} {write : Bool} {r : Xl} (h : translate s ctx va write = (t, r)) : Tallies s t := by
  obtain ⟨xl, rfl⟩ := translate_eq h
  exact .of_ledger rfl

theorem Tallies.readPiece (s : State) (env : Env) (ctx va n : Nat) : Tallies s (readPiece s env ctx va n).1 := by
  have hcount (u : State) (k : Nat) : Tallies u (countReqs u k) := .of_ledger (ledger_countReqs ..)
  unfold Machine.readPiece
  split
  next htr => exact .of_translate htr
  next u m htr =>
    refine Tallies.trans (.of_translate htr) ?_
    split
    · next pa _ =>
      have hr := (hcount u (txnCount pa n)).trans (Tallies.readPa (countReqs u (txnCount pa n)) env .dev (some ctx) pa n)
      split
      all_goals next he => rw [he] at hr; exact hr
    · dsimp only
      split
      · exact hcount ..
      · exact (hcount ..).trans (.hostFail ..)
    · dsimp only
      split
      all_goals exact hcount ..

theorem Tallies.readPieces (env : Env) (ctx : Nat) : ∀ (ps : List (Nat × Nat)) (s : State) (acc : List Byte),
    Tallies s (readPieces env ctx ps s acc).1
  | [], s, _ => .refl s
  | (va, n) :: ps, s, acc => by
    have hp := Tallies.readPiece s env ctx va n
    rw [Machine.readPieces]
    split
    next he => rw [he] at hp; exact hp.trans (Tallies.readPieces env ctx ps _ _)
    next he => rw [he] at hp; exact hp

theorem ledger_spendCls (s : State) (ctx cls pa n : Nat) : ledger (spendCls s ctx cls pa n) = ledger s := by
  unfold spendCls
  split
  · split
    · exact (ledger_audGive _ (by decide) _).trans rfl
    · rfl
  · rfl

theorem ledger_spendVa (s : State) (o : Op) (va n : Nat) : ledger (spendVa s o va n) = ledger s := by
  refine foldl_keeps ledger (fun u e => ?_) (vaChunks va n) s
  split
  · split
    · exact ledger_spendCls ..
    · rfl
  · rfl

theorem Tallies.readOp (s : State) (env : Env) (o : Op) (va n : Nat) : Tallies s (readOp s env o va n).1 :=
  Tallies.trans (.of_ledger (ledger_spendVa ..)) (.readPieces ..)

/-! ### Starts -/

theorem ledger_showDw (s : State) (x : Stream) (st : Nat) : ledger (showDw s x st) = ledger s := by unfold showDw; split <;> rfl

theorem ledger_startOn (s : State) (sid d : Nat) : ledger (startOn s sid d) = ledger s := by
  have h (f : Stream → Stream) (g : Dumb → Dumb) : ledger (modDumb (modStream (freshNat s).2 sid f) d g) = ledger s :=
    Eq.trans rfl ((ledger_modStream (freshNat s).2 sid f).trans rfl)
  unfold startOn
  dsimp only
  split
  · exact (ledger_audTake _ (by decide) 1).trans ((ledger_showDw ..).trans (h _ _))
  · exact h _ _

theorem Tallies.haltStream (s : State) (sid : Nat) (c : FCode) (va : Nat) : Tallies s (haltStream s sid c va) := by
  unfold Machine.haltStream
  dsimp only
  split
  · exact .of_ledger (ledger_modStream ..)
  · refine Tallies.trans ?_ (.raiseEvent ..)
    refine Tallies.trans ?_ (.of_ledger (ledger_showDw ..))
    have hs (f : Stream → Stream) : ledger (modStream s sid f) = ledger s := ledger_modStream ..
    refine .of_ledger ?_
    split <;> split <;> exact Eq.trans rfl (hs _)

theorem Tallies.studyFault (s : State) (o : Op) (slot : Nat) (c : FCode) (va : Nat) : Tallies s (studyFault s o slot c va) := by
  unfold Machine.studyFault
  dsimp only
  split
  · exact .refl s
  next d _ =>
    have h (x : Stream) : ledger (startOn (addStream s x) s.nextSid d) = ledger s := (ledger_startOn ..).trans rfl
    exact (Tallies.of_ledger (h _)).trans (.haltStream ..)

theorem Tallies.farTimedOut (s : State) (node mtype : Nat) : Tallies s (farTimedOut s node mtype) := by
  unfold Machine.farTimedOut
  refine Tallies.trans ?_ (.raiseEvent ..)
  exact .of_ledger rfl

theorem Tallies.afterAccess {s0 s : State} {o : Op} {slot : Nat} {a : Acc} {k : State → State} (hk : ∀ u, Tallies u (k u)) :
    Tallies s (afterAccess s0 s o slot a k) := by
  unfold Machine.afterAccess
  split
  · exact hk s
  · exact .studyFault ..
  · exact .poisonRead ..
  · exact .of_ledger (ledger_endOp ..)
  · exact .farPoisonRead ..
  · exact (Tallies.farTimedOut ..).trans (.of_ledger (ledger_endOp ..))

theorem Tallies.tileHeads (env : Env) (o : Op) (n : Nat) : ∀ (es : List TileEnt) (s : State), Tallies s (tileHeads env o n es s).1
  | [], s => .refl s
  | e :: es, s => by
    have hr := Tallies.readOp s env o e.img 24
    rw [Machine.tileHeads]
    split
    next u _ he =>
      rw [he] at hr
      have hi := Tallies.tileHeads env o n es u
      split
      · exact hr
      · split
        next hi' => rw [hi'] at hi; exact hr.trans hi
        next => exact hr.trans hi
    next he => rw [he] at hr; exact hr

theorem Tallies.csrCheck (s : State) (env : Env) (o : Op) (c : RefCmd) : Tallies s (csrCheck s env o c).1 := by
  have hr := Tallies.readOp s env o c.rowPtr (4 * (c.n + 1))
  unfold Machine.csrCheck
  split
  · exact .refl s
  · split
    next u bs he =>
      rw [he] at hr
      dsimp only
      split
      · exact hr
      · have hc := Tallies.readOp u env o (c.colIdx + 4 * (rowPtrs bs c.n).headD 0)
          (4 * ((rowPtrs bs c.n).getLastD 0 - (rowPtrs bs c.n).headD 0))
        split
        all_goals next he' => rw [he'] at hc; exact hr.trans hc
    next he => rw [he] at hr; exact hr

theorem Tallies.refineStart (s : State) (env : Env) (o : Op) (rc : RefCmd) : Tallies s (refineStart s env o rc) := by
  have hmod (u : State) (f : Op → Op) : Tallies u (modOp u o.id f) := .of_ledger rfl
  have hend (u v : State) (a : Acc) : Tallies v (Machine.afterAccess u v o startSlot a id) := .afterAccess fun u => .refl u
  have h1 := Tallies.readOp s env o rc.mtAddr (24 * rc.mTiles)
  unfold Machine.refineStart
  dsimp only
  split
  next u bs he =>
    rw [he] at h1
    refine h1.trans ?_
    split
    · exact hmod ..
    · have h2 := Tallies.tileHeads env o rc.n (tileEnts bs rc.mTiles) u
      split
      next hh => rw [hh] at h2; exact h2.trans (hmod ..)
      next v ids hh =>
        rw [hh] at h2
        refine h2.trans ?_
        have h3 := Tallies.csrCheck v env o rc
        split
        next hc => rw [hc] at h3; exact h3.trans (hmod ..)
        next w hc =>
          rw [hc] at h3
          refine h3.trans (Tallies.trans ?_ (.afterAccess fun _ => hmod ..))
          split
          · exact .refl w
          · exact .readOp ..
        next hc => rw [hc] at h3; exact h3.trans (hend ..)
      next hh => rw [hh] at h2; exact h2.trans (hend ..)
  next he => rw [he] at h1; exact h1.trans (hend ..)

theorem ledger_testFences (s : State) : ledger (testFences s) = ledger s := by
  unfold testFences
  dsimp only
  split
  · rfl
  · exact (ledger_audGive _ (by decide) _).trans rfl

theorem ledger_modQueue (s : State) (n : Nat) (f : Queue → Queue) : ledger (modQueue s n f) = ledger s := by
  unfold modQueue
  split <;> rfl

theorem ledger_armWait (s : State) (o : Op) : ledger (armWait s o) = ledger s := by
  unfold armWait
  split
  · exact (ledger_modQueue ..).trans ((ledger_audPass _ (by decide) 1).trans rfl)
  · exact (ledger_testFences _).trans ((ledger_audTake _ (by decide) 1).trans rfl)

/-- The start of a command's work. -/
theorem Tallies.beginOp (s : State) (env : Env) (o : Op) : Tallies s (beginOp s env o) := by
  have hmod (u : State) (f : Op → Op) : Tallies u (modOp u o.id f) := .of_ledger rfl
  have hadd (x : Stream) : Tallies s (addStream s x) := .of_ledger rfl
  unfold Machine.beginOp
  split
  · exact (Tallies.readOp ..).trans (.afterAccess fun u => hmod ..)
  · exact hadd _
  · exact hadd _
  · exact hadd _
  · unfold studyStart
    split
    · exact hmod ..
    · split
      · exact hmod ..
      · exact (Tallies.readOp ..).trans (.afterAccess fun u => hmod ..)
  · split
    · exact hmod ..
    · exact .refineStart ..
  · exact hadd _
  · exact hadd _
  · exact .of_ledger (ledger_armWait ..)
  · exact hmod ..

theorem Tallies.startOp (s : State) (env : Env) (o : Op) : Tallies s (startOp s env o) :=
  Tallies.trans (t := modOp s o.id fun o => { o with started := true }) (.of_ledger rfl) (.beginOp ..)

theorem Tallies.startGo (q : Nat) (env : Env) : ∀ (k : Nat) (s : State), Tallies s (startGo q env k s)
  | 0, s => .refl s
  | k + 1, s => by
    rw [Machine.startGo]
    split
    · split
      · exact (Tallies.startOp ..).trans (Tallies.startGo q env k _)
      · exact .refl s
    · exact .refl s

theorem Tallies.runQueue (q : Nat) (env : Env) (s : State) : Tallies s (runQueue q env s) :=
  Tallies.trans (.foldl (fun u o => .beginOp u env o) _ s) (.startGo ..)

/-- The names of the commands in flight are those that were in flight. -/
theorem OpsGo.ids {c : Cmd} {s t : State} (h : OpsGo c s t) : t.ops.map Op.id = s.ops.map Op.id := by
  obtain ⟨g, ht, hg⟩ := h
  rw [ht, List.map_map]
  exact List.map_congr_left fun o _ => (hg o).id

theorem ids_startGo (q : Nat) (env : Env) : ∀ (k : Nat) (s : State), (startGo q env k s).ops.map Op.id = s.ops.map Op.id
  | 0, _ => rfl
  | k + 1, s => by
    rw [startGo]
    split
    · split
      · exact (ids_startGo q env k _).trans (OpsGo.startOp ..).ids
      · rfl
    · rfl

theorem ids_runQueue (q : Nat) (env : Env) (s : State) : (runQueue q env s).ops.map Op.id = s.ops.map Op.id :=
  (ids_startGo ..).trans (foldl_keeps (g := fun s o => beginOp s env o) (fun u : State => u.ops.map Op.id) (fun _ _ => (OpsGo.beginOp ..).ids) _ s)

/-! ### Messages -/

theorem Tallies.goAlt (s : State) (a b : Nat) : Tallies s (goAlt s a b) := by
  unfold Machine.goAlt
  split
  · exact .refl s
  · exact (Tallies.raiseEvent ..).trans (.of_ledger rfl)

theorem ledger_countOvr (s : State) (dst : Nat) : ledger (countOvr s dst) = ledger s := by
  unfold countOvr
  repeat' split
  all_goals rfl

theorem Tallies.routeOf (s : State) (dst : Nat) (arrival : Option (Nat × Nat)) : Tallies s (routeOf s dst arrival).1 := by
  have hcount : Tallies s (countOvr s dst) := .of_ledger (ledger_countOvr s dst)
  unfold Machine.routeOf
  split
  · exact .refl s
  · dsimp only
    split
    · exact hcount
    · split
      · exact hcount
      · split
        · dsimp only
          split
          · exact hcount.trans (.goAlt ..)
          · exact hcount
        · exact hcount

theorem Tallies.sendMsg (s : State) (m : Msg) : Tallies s (sendMsg s m).1 := by
  have hroute := Tallies.routeOf s m.dst none
  unfold Machine.sendMsg
  split
  next h => rw [h] at hroute; exact hroute.trans (.of_ledger rfl)
  next h =>
    rw [h] at hroute
    refine hroute.trans ?_
    repeat' split
    all_goals exact .of_ledger rfl
  next h => rw [h] at hroute; exact hroute

theorem Tallies.failReq (s : State) (tag : Nat) : Tallies s (failReq s tag) := by
  rw [failReq_eq]
  split
  · exact .refl s
  next r _ =>
    have htime : Tallies s (reqTimedOut s tag r) := by
      unfold reqTimedOut
      refine Tallies.trans (.of_ledger ?_) (.raiseEvent ..)
      exact Eq.trans rfl (ledger_audGive { s with link := { s.link with reqs := s.link.reqs.filter (fun r => r.tag ≠ tag) } } (by decide) 1)
    refine htime.trans ?_
    generalize reqTimedOut s tag r = u
    split
    · split
      · exact .of_ledger (ledger_endOp ..)
      · exact .refl u
    · split
      · exact Tallies.trans (.of_ledger (ledger_modCtx ..)) (.raiseQueueVec ..)
      · exact .of_ledger (ledger_modCtx ..)
    · exact .of_ledger (ledger_endOp ..)

theorem Tallies.sendReq (s : State) (tag : Nat) (m : Msg) : Tallies s (sendReq s tag m) := by
  have hsend := Tallies.sendMsg s m
  unfold Machine.sendReq
  split
  next h => rw [h] at hsend; exact hsend
  next h => rw [h] at hsend; exact hsend.trans (.failReq ..)

theorem Tallies.newReq (s : State) (mt cls atop dst addr len : Nat) (data : List Byte) (owner : RemOwner) (va ctx : Nat) :
    Tallies s (newReq s mt cls atop dst addr len data owner va ctx) := by
  unfold Machine.newReq
  refine Tallies.trans ?_ (.sendReq ..)
  exact .of_ledger ((ledger_audTake _ (by decide) 1).trans rfl)

/-! ### Writes -/

/-- A step that takes and gives back no operation token, and takes nothing back that was sent; it may write memory. -/
structure Tolls (s t : State) : Prop where
  tokens : audOf t 0 = audOf s 0
  sent : ∃ xs, t.out = s.out ++ xs

theorem Tallies.tolls {s t : State} (h : Tallies s t) : Tolls s t := ⟨h.tokens, h.sent⟩

theorem Tolls.trans {s t u : State} (h : Tolls s t) (k : Tolls t u) : Tolls s u := by
  obtain ⟨ht, xs, hx⟩ := h
  obtain ⟨kt, ys, hy⟩ := k
  exact ⟨kt.trans ht, xs ++ ys, by rw [hy, hx, List.append_assoc]⟩

theorem Tallies.writeGranules (env : Env) (src : Finder) (pa n : Nat) : ∀ (gs : List Nat) (s : State),
    Tallies s (writeGranules env src pa n gs s)
  | [], s => .refl s
  | g :: gs, s => by
    rw [Machine.writeGranules]
    refine Tallies.trans ?_ (Tallies.writeGranules env src pa n gs _)
    split
    · exact .of_ledger rfl
    · unfold partialGranule
      split
      · exact .refl s
      · split
        · exact .foundUe ..
        · split
          · exact .of_ledger rfl
          · exact .refl s

theorem Tolls.writePa (s : State) (env : Env) (src : Finder) (pa : Nat) (bs : List Byte) : Tolls s (writePa s env src pa bs) := by
  obtain ⟨ht, -, hx⟩ := Tallies.writeGranules env src pa bs.length (granulesOf pa bs.length) s
  exact ⟨ht, hx⟩

theorem hostWrites_sends (n size : Nat) : ∀ (a : Nat) (bs : List Byte) (s : State), ∃ xs, (hostWrites n size a bs s).out = s.out ++ xs := by
  induction n with
  | zero => exact fun _ _ s => ⟨[], (List.append_nil _).symm⟩
  | succ n ih =>
    intro a bs s
    rw [hostWrites]
    split
    · exact ⟨[], (List.append_nil _).symm⟩
    · obtain ⟨xs, hx⟩ := ih (a + size) (bs.drop size) (emit s (.hostWrite a (bs.take size)))
      exact ⟨_ :: xs, hx.trans (List.append_assoc ..)⟩

theorem Tallies.putHost (s : State) (a : Nat) (bs : List Byte) : Tallies s (putHost s a bs) :=
  .of_quiet (quiet_hostWrites ..) (hostWrites_sends ..)

theorem Tolls.writePiece (s : State) (env : Env) (ctx va : Nat) (bs : List Byte) : Tolls s (writePiece s env ctx va bs).1 := by
  have hcount (u : State) (k : Nat) : Tallies u (countReqs u k) := .of_ledger (ledger_countReqs ..)
  unfold Machine.writePiece
  split
  next htr => exact (Tallies.of_translate htr).tolls
  next u m htr =>
    refine (Tallies.of_translate htr).tolls.trans ?_
    split
    · split
      next g _ => exact (Tallies.of_ledger (s := u) (t := elog u (64 * g) (ownerCtx u (64 * g)) .dev) rfl).tolls
      next => exact (hcount ..).tolls.trans (.writePa ..)
    · exact ((hcount ..).trans (.putHost ..)).tolls
    · exact (hcount ..).tolls

theorem Tolls.writePieces (env : Env) (ctx : Nat) : ∀ (ps : List (Nat × Nat)) (bs : List Byte) (s : State),
    Tolls s (writePieces env ctx ps bs s).1
  | [], _, s => (Tallies.refl s).tolls
  | (va, n) :: ps, bs, s => by
    have hp := Tolls.writePiece s env ctx va (bs.take n)
    rw [Machine.writePieces]
    split
    next he => rw [he] at hp; exact hp.trans (Tolls.writePieces env ctx ps _ _)
    next he => rw [he] at hp; exact hp

/-! ### The record and the SIGNAL update -/

theorem Tolls.writeRecord (s : State) (env : Env) (q : Queue) (idx : Nat) (bs : List Byte) : Tolls s (writeRecord s env q idx bs) :=
  (Tolls.writePieces ..).trans (Tallies.of_ledger (ledger_testFences _)).tolls

theorem Tolls.signalUpdate (s : State) (env : Env) (o : Op) : Tolls s (signalUpdate s env o).1 := by
  have hdrop (u : State) (n : Nat) : Tallies u (dropSignal u n) := .of_ledger (ledger_modCtx ..)
  have hcount (u : State) (k : Nat) : Tallies u (countReqs u k) := .of_ledger (ledger_countReqs ..)
  unfold Machine.signalUpdate
  split
  next htr => exact ((Tallies.of_translate htr).trans (hdrop ..)).tolls
  next u m htr =>
    refine (Tallies.of_translate htr).tolls.trans ?_
    split
    next pa _ =>
      have hr := (hcount u 1).trans (Tallies.readPa (countReqs u 1) env .dev (some o.ctx) pa 8)
      split
      · exact ((Tallies.of_ledger (s := u) (t := elog u pa (ownerCtx u pa) .dev) rfl).trans (hdrop ..)).tolls
      · split
        next he => rw [he] at hr; exact (hr.trans (.poisonRead ..)).tolls
        next he =>
          rw [he] at hr
          exact hr.tolls.trans ((Tolls.writePa ..).trans (Tallies.of_ledger (ledger_testFences _)).tolls)
    next a _ =>
      dsimp only
      split
      · exact (hcount u 2).tolls.trans ⟨rfl, _, rfl⟩
      · exact ((hcount u 2).trans ((Tallies.hostFail ..).trans (hdrop ..))).tolls
    next =>
      unfold signalRemote
      dsimp only
      split
      · exact (Tallies.newReq ..).tolls
      · exact (Tallies.newReq ..).tolls

/-- The SIGNAL update of a command that ends with a status, and whether it has ended within the step. -/
def signalled (s : State) (env : Env) (o : Op) (st : Status) : State × Bool :=
  if o.hdr.signal && st.signals then signalUpdate s env o else (s, true)

/-- The vector of a command whose SIGNAL update has ended. -/
def vectored (r : State × Bool) (o : Op) : State := if o.hdr.irq && r.2 then raiseQueueVec r.1 o.q else r.1

theorem finishOp_eq (s : State) (env : Env) (q : Queue) (o : Op) (st : Status) : finishOp s env q o st =
    vectored (signalled (writeRecord s env q o.idx (recordBytes q.ringN o.idx st o.rflags.toNat o.hdr.cookie o.detail)) env o st) o := rfl

theorem Tallies.vectored (r : State × Bool) (o : Op) : Tallies r.1 (vectored r o) := by
  unfold Machine.vectored
  split
  · exact .raiseQueueVec ..
  · exact .refl _

theorem Tolls.signalled (s : State) (env : Env) (o : Op) (st : Status) : Tolls s (signalled s env o st).1 := by
  unfold Machine.signalled
  split
  · exact .signalUpdate ..
  · exact (Tallies.refl s).tolls

theorem Tolls.finishOp (s : State) (env : Env) (q : Queue) (o : Op) (st : Status) : Tolls s (finishOp s env q o st) := by
  rw [finishOp_eq]
  exact (Tolls.writeRecord ..).trans ((Tolls.signalled ..).trans (Tallies.vectored ..).tolls)

/-! ### The completion of a command -/

theorem countRefine_frame (s : State) (o : Op) (st : Status) : ∃ y, countRefine s o st = { s with study := y } := by
  unfold countRefine
  split
  · split
    · exact ⟨_, rfl⟩
    · exact ⟨s.study, rfl⟩
  · exact ⟨s.study, rfl⟩

/-- The state in which a finished command has left flight. -/
def completed (s : State) (env : Env) (x : Queue) (o : Op) (st : Status) : State :=
  leaveFlight (finishOp (countRefine s o st) env x o st) o.id

/-- A completion that waits for nothing. -/
structure Completes (s : State) (n : Fin 256) (idx : Fin 65536) (o : Op) (x : Queue) (st : Status) : Prop where
  powered : powered s = true
  op : findOp s (n.val, idx.val) = some o
  queue : queueOf s n.val = some x
  done : o.done = some st
  turn : signalWaits s o st = false

section
variable {s : State} {env : Env} {n : Fin 256} {idx : Fin 65536} {o : Op} {x : Queue} {st : Status}

/-- What a completion leaves is the state with its command gone, and after it what the queue then starts. -/
theorem commandComplete_next (h : Completes s n idx o x st) : ∃ t, exec (.commandComplete n idx env) s = .next t ∧
    Tallies (completed s env x o st) t ∧ t.ops.map Op.id = (completed s env x o st).ops.map Op.id := by
  obtain ⟨hp, ho, hq, hd, hw⟩ := h
  refine ⟨if (completed s env x o st).power.trip then completed s env x o st else runQueue n.val env (completed s env x o st), ?_, ?_⟩
  · refine congrArg Host.Outcome.next ?_
    rw [ho, hq]
    dsimp only
    rw [hd]
    dsimp only
    rw [hp, hw]
    rfl
  · split
    · exact ⟨.refl _, rfl⟩
    · exact ⟨.runQueue .., ids_runQueue ..⟩

theorem completed_token : (audOf (completed s env x o st) 0).give = (audOf s 0).give + 1 := by
  obtain ⟨y, hy⟩ := countRefine_frame s o st
  have htokens := (Tolls.finishOp (countRefine s o st) env x o st).tokens
  rw [hy] at htokens
  unfold completed leaveFlight
  rw [hy, audOf_audGive, if_pos rfl]
  exact congrArg (fun a : Aud => a.give + 1) htokens

theorem completed_ids {t : State} {id : OpId} (ho : o.id = id) (ht : t.ops.map Op.id = (completed s env x o st).ops.map Op.id) :
    findOp t id = none := by
  refine List.find?_eq_none.2 fun u hu => ?_
  obtain ⟨v, hv, hid⟩ := List.mem_map.1 (ht ▸ List.mem_map_of_mem hu : u.id ∈ (completed s env x o st).ops.map Op.id)
  have hne : v.id ≠ o.id := of_decide_eq_true (List.mem_filter.1 hv).2
  rw [decide_eq_true_eq]
  exact fun hu => hne (hid.trans (hu.trans ho.symm))

end

/-! ### A record and a SIGNAL update that reach their page -/

/-- A translation that the table holds and the DTC does not. -/
theorem translate_table {s : State} {ctx va : Nat} {m : Mapping} (hf : tableFind s ctx va = some m) (hd : dtcHits s ctx va = [])
    (hv : va < 2 ^ 48) (hw : m.w = true) (hat : ∀ pa, m.at va = .dev pa → paValid s pa = true) :
    ∃ xl, translate s ctx va true = ({ s with xlate := xl }, .ok m) ∧ xl.dtc = s.xlate.dtc := by
  unfold translate lookup
  rw [if_neg (Nat.not_le.2 hv), hd]
  refine ⟨_, Prod.ext rfl ?_, rfl⟩
  dsimp only
  rw [hf]
  unfold xlCheck
  rw [if_neg (Nat.not_le.2 hv)]
  dsimp only
  rw [if_pos rfl, if_pos hw]
  split
  next pa hpa => exact if_pos (hat pa hpa)
  next => rfl

theorem length_recordBytes (ringN idx : Nat) (st : Status) (flags : Nat) (cookie : Long) (detail : Nat) :
    (recordBytes ringN idx st flags cookie detail).length = 32 := by
  simp [recordBytes, length_toBytes]

theorem vaChunks_page {va : Nat} (h : va % 0x10000 + 32 ≤ 0x10000) : vaChunks va 32 = [(va, 32)] := by
  have hmin : min 32 (0x10000 - va % 0x10000) = 32 := by omega
  simp only [vaChunks, pageChunks, hmin]
  rfl

theorem putHost_record (s : State) (a : Nat) {bs : List Byte} (h : bs.length = 32) : putHost s a bs = emit s (.hostWrite a bs) := by
  have hmax : 32 ≤ maxPayload s := by
    unfold maxPayload
    exact le_trans (by decide : 32 ≤ 128) (Nat.le_mul_of_pos_right _ (Nat.two_pow_pos _))
  unfold putHost
  rw [h]
  generalize maxPayload s = m at hmax
  have htake : bs.take m = bs := List.take_of_length_le (h ▸ hmax)
  have hdrop : bs.drop m = [] := List.drop_of_length_le (h ▸ hmax)
  have hne : bs.isEmpty = false := by
    cases bs
    · exact nomatch h
    · rfl
  rw [hostWrites, hne, htake, hdrop]
  rfl

theorem audPass_frame (s : State) (q n : Nat) : ∃ c, audPass s q n = { s with corr := c } := by
  unfold audPass audTake audGive
  exact ⟨_, rfl⟩

theorem countReqs_frame (s : State) (k : Nat) : ∃ c, countReqs s k = { s with corr := c } := by
  obtain ⟨c, h⟩ := audPass_frame s 1 k
  obtain ⟨c', h'⟩ := audPass_frame { s with corr := c } 2 k
  exact ⟨c', by rw [countReqs, h, h']⟩

theorem writePieces_host {s : State} {ctx va : Nat} {bs : List Byte} {m : Mapping} {a : Nat} {env : Env} {xl : Xlate} (hbs : bs.length = 32)
    (hx : translate s ctx va true = ({ s with xlate := xl }, .ok m)) (hat : m.at va = .host a) :
    (writePieces env ctx [(va, 32)] bs s).1 = emit (countReqs { s with xlate := xl } (txnCount a 32)) (.hostWrite a bs) := by
  have hpiece : writePiece s env ctx va bs = (emit (countReqs { s with xlate := xl } (txnCount a 32)) (.hostWrite a bs), .ok) := by
    unfold writePiece
    rw [hx]
    dsimp only
    rw [hat]
    dsimp only
    rw [putHost_record _ a hbs, hbs]
  rw [writePieces, List.take_of_length_le (le_of_eq hbs), hpiece]
  rfl

/-- A record whose slot lies in host memory. -/
theorem writeRecord_host {s : State} {q : Queue} {idx : Nat} {bs : List Byte} {m : Mapping} {a : Nat} (env : Env) (hbs : bs.length = 32)
    (hf : tableFind s q.ctx (q.cqVa + 32 * (idx % max 1 q.ringN)) = some m)
    (hd : dtcHits s q.ctx (q.cqVa + 32 * (idx % max 1 q.ringN)) = []) (hv : q.cqVa + 32 * (idx % max 1 q.ringN) < 2 ^ 48)
    (hp : (q.cqVa + 32 * (idx % max 1 q.ringN)) % 0x10000 + 32 ≤ 0x10000) (hw : m.w = true)
    (hat : m.at (q.cqVa + 32 * (idx % max 1 q.ringN)) = .host a) :
    ∃ xl ops corr, writeRecord s env q idx bs = { s with xlate := xl, ops := ops, corr := corr, out := s.out ++ [.hostWrite a bs] } ∧
      xl.dtc = s.xlate.dtc := by
  unfold writeRecord writeVa
  generalize q.cqVa + 32 * (idx % max 1 q.ringN) = va at hf hd hv hp hat
  obtain ⟨xl, hx, hdtc⟩ := translate_table hf hd hv hw fun pa hpa => nomatch hat.symm.trans hpa
  rw [hbs, vaChunks_page hp, writePieces_host hbs hx hat]
  obtain ⟨ops, corr, hframe⟩ := testFences_frame (emit (countReqs { s with xlate := xl } (txnCount a 32)) (.hostWrite a bs))
  obtain ⟨corr', hcount⟩ := countReqs_frame { s with xlate := xl } (txnCount a 32)
  rw [hcount] at hframe ⊢
  exact ⟨xl, ops, corr, hframe, hdtc⟩

/-- A SIGNAL update of a word of device memory that reads clean. -/
theorem signalUpdate_data {s : State} {env : Env} {o : Op} {m : Mapping} {pa : Nat} (hf : tableFind s o.ctx o.hdr.fenceVa = some m)
    (hd : dtcHits s o.ctx o.hdr.fenceVa = []) (hv : o.hdr.fenceVa < 2 ^ 48) (hw : m.w = true) (hat : m.at o.hdr.fenceVa = .dev pa)
    (hvalid : paValid s pa = true) (hout : stackOut s pa = false) (hc : CleanRead s env pa 8) :
    (signalUpdate s env o).1.mem.data = s.mem.data.write pa (toBytes 8 (signalVal o.hdr (s.mem.data.nat pa 8))) := by
  obtain ⟨xl, hx, -⟩ := translate_table hf hd hv hw fun pa' hpa => by
    rw [hat] at hpa
    injection hpa with hpa
    exact hpa ▸ hvalid
  obtain ⟨corr, hcount⟩ := countReqs_frame { s with xlate := xl } 1
  have hclean : CleanRead { s with xlate := xl, corr := corr } env pa 8 := cleanRead_of_mem (s := s) rfl rfl rfl hc
  have hread := readPa_clean hclean .dev (some o.ctx)
  unfold signalUpdate
  rw [hx]
  dsimp only
  rw [hat]
  dsimp only
  rw [show stackOut { s with xlate := xl } pa = false from hout, hcount, hread]
  refine (congrArg (·.2.1) (ledger_testFences _) :).trans ?_
  exact writePa_data ..

/-- A completion whose record slot lies in host memory (R371 to R373). -/
theorem finishOp_host {s : State} {env : Env} {o : Op} {x : Queue} {st : Status} {m : Mapping} {a : Nat}
    (hf : tableFind s x.ctx (x.cqVa + 32 * (o.idx % max 1 x.ringN)) = some m)
    (hd : dtcHits s x.ctx (x.cqVa + 32 * (o.idx % max 1 x.ringN)) = []) (hv : x.cqVa + 32 * (o.idx % max 1 x.ringN) < 2 ^ 48)
    (hp : (x.cqVa + 32 * (o.idx % max 1 x.ringN)) % 0x10000 + 32 ≤ 0x10000) (hw : m.w = true)
    (hat : m.at (x.cqVa + 32 * (o.idx % max 1 x.ringN)) = .host a) :
    .hostWrite a (recordBytes x.ringN o.idx st o.rflags.toNat o.hdr.cookie o.detail) ∈ (finishOp s env x o st).out ∧
    (∀ mf pa, o.hdr.signal = true → st.signals = true → tableFind s o.ctx o.hdr.fenceVa = some mf →
      dtcHits s o.ctx o.hdr.fenceVa = [] → o.hdr.fenceVa < 2 ^ 48 → mf.w = true → mf.at o.hdr.fenceVa = .dev pa →
      paValid s pa = true → stackOut s pa = false → CleanRead s env pa 8 →
      (finishOp s env x o st).mem.data = s.mem.data.write pa (toBytes 8 (signalVal o.hdr (s.mem.data.nat pa 8)))) := by
  obtain ⟨xl, ops, corr, hrec, hdtc⟩ := writeRecord_host (q := x) env
    (length_recordBytes x.ringN o.idx st o.rflags.toNat o.hdr.cookie o.detail) hf hd hv hp hw hat
  rw [finishOp_eq, hrec]
  generalize recordBytes x.ringN o.idx st o.rflags.toNat o.hdr.cookie o.detail = bs
  generalize hu : ({ s with xlate := xl, ops := ops, corr := corr, out := s.out ++ [Out.hostWrite a bs] } : State) = u
  obtain ⟨-, hvdata, ys, hys⟩ := Tallies.vectored (signalled u env o st) o
  refine ⟨?_, fun mf pa hsig hst hff hfd hfv hfw hfat hvalid hout hc => ?_⟩
  · obtain ⟨-, xs, hxs⟩ := Tolls.signalled u env o st
    rw [hys, hxs, ← hu]
    exact List.mem_append_left _ (List.mem_append_left _ (List.mem_append_right _ (List.mem_singleton_self _)))
  · rw [hvdata]
    unfold signalled
    rw [hsig, hst]
    refine (signalUpdate_data (s := u) (m := mf) ?_ ?_ hfv hfw hfat ?_ ?_ ?_).trans ?_
    all_goals subst hu
    · exact hff
    · unfold dtcHits
      rw [hdtc]
      exact hfd
    · exact hvalid
    · exact hout
    · exact cleanRead_of_mem (s := s) rfl rfl rfl hc
    · rfl

/-- Settles O26: what the step does after the record and the SIGNAL update takes nothing back, and writes no memory. -/
theorem completionWritesRecordThenSignal : Obligations.CompletionWritesRecordThenSignal := by
  unfold Obligations.CompletionWritesRecordThenSignal
  intro s env n idx o x st hpow ho hq hdone hturn
  obtain ⟨t, hexec, ⟨htokens, hdata, xs, hsent⟩, hids⟩ := commandComplete_next (env := env) ⟨hpow, ho, hq, hdone, hturn⟩
  refine ⟨⟨t, hexec, completed_ids (findOp_id ho) hids, (congrArg Aud.give htokens).trans completed_token⟩, fun m a => ?_⟩
  intro va hf hd hv hp hw hat
  obtain ⟨y, hy⟩ := countRefine_frame s o st
  obtain ⟨hout, hmem⟩ := finishOp_host (s := { s with study := y }) (env := env) (st := st) hf hd hv hp hw hat
  have hfin : completed s env x o st = leaveFlight (finishOp { s with study := y } env x o st) o.id := by rw [completed, hy]
  rw [hfin] at hdata hsent
  refine ⟨t, hexec, ?_, fun mf pa hsig hst hff hfd hfv hfw hfat hvalid hsout hc hwf => ?_⟩
  · rw [hsent]
    exact List.mem_append_left _ hout
  · have hwritten : t.mem.data = s.mem.data.write pa (toBytes 8 (signalVal o.hdr (s.mem.data.nat pa 8))) :=
      hdata.trans (hmem mf pa hsig hst hff hfd hfv hfw hfat hvalid hsout hc)
    rw [hwritten]
    refine ⟨?_, fun b hb => Memory.get_write_other _ hwf pa b (by rw [length_toBytes]; exact hb)⟩
    rw [Memory.nat_write_toBytes hwf]
    unfold signalVal
    split
    · exact Nat.mod_mod ..
    · refine Nat.mod_eq_of_lt (max_lt ?_ o.hdr.cookie.isLt)
      exact (fromBytes_lt _).trans_le (Nat.pow_le_pow_right (by decide) (le_of_eq (length_read ..)))

end Sys2Proof.Machine

/-!
Requests of other nodes (R411, R417 to R429): what a message that is taken and one that is sent leave of the state, and each
request's own rule.
-/

namespace Sys2Proof.Machine

open Sys2Proof

/-! ### Messages that are taken and sent -/

/-- A state without what taking a received message can change. -/
def untaken (s : State) : State := { s with link := { s.link with doors := [], inbox := [] }, corr := State.reset.corr }

/-- A state without what sending a message can change. -/
def unsent (s : State) : State := { quiet s with
  link := { s.link with flags := 0, ovrmhCnt := 0, doors := [], inbox := [], held := [] }, corr := State.reset.corr }

theorem unsent_of_quiet {s t : State} (h : quiet t = quiet s) : unsent t = unsent s := (congrArg unsent h :)

/-- What the Doors count of late answers and of atomics answered RETRY. -/
def doorNotes (s : State) (d : Nat) : Word × Word := ((doorOf s d).lateRsp, (doorOf s d).retryTx)

theorem doorNotes_modDoor (s : State) (d : Nat) {f : Door → Door} (hf : ∀ x, ((f x).lateRsp, (f x).retryTx) = (x.lateRsp, x.retryTx)) :
    doorNotes (modDoor s d f) = doorNotes s := by
  funext e
  unfold doorNotes
  by_cases he : e = d
  · subst he
    rw [doorOf_modDoor_same]
    exact hf _
  · rw [doorOf_modDoor_other s f he]

theorem doorNotes_of_quiet {s t : State} (h : quiet t = quiet s) : doorNotes t = doorNotes s := (congrArg doorNotes h :)

theorem doorNotes_freeFlits (s : State) (d code : Nat) (ids : List Nat) : doorNotes (freeFlits s d code ids) = doorNotes s := by
  unfold freeFlits
  dsimp only
  split
  · rfl
  · exact Eq.trans rfl (doorNotes_modDoor s d fun _ => rfl)

theorem untaken_freeFlits (s : State) (d code : Nat) (ids : List Nat) : untaken (freeFlits s d code ids) = untaken s := by
  unfold freeFlits
  dsimp only
  split <;> rfl

/-- A received message is taken: its Door's credits, the rest of the state, and what the Doors have counted. -/
theorem takeIn_spec {s s1 : State} {e : InMsg} {d : Nat} {m : Msg} (h : takeIn s e = (d, m, s1)) :
    m = e.msg ∧ untaken s1 = untaken s ∧ doorNotes s1 = doorNotes s := by
  unfold takeIn at h
  injection h with _ h
  injection h with hm hs
  subst hm hs
  refine ⟨rfl, ?_, ?_⟩
  · split
    · exact (untaken_freeFlits ..).trans rfl
    · rfl
  · split
    · exact (doorNotes_freeFlits ..).trans rfl
    · rfl

theorem takeMsg_spec {s s1 : State} {mt d : Nat} {m : Msg} (h : takeMsg s mt = some (d, m, s1)) :
    untaken s1 = untaken s ∧ doorNotes s1 = doorNotes s := by
  obtain ⟨e, -, he⟩ := Option.map_eq_some_iff.1 h
  exact (takeIn_spec he).2

theorem goAlt_leaves (s : State) (a b : Nat) : unsent (goAlt s a b) = unsent s ∧ doorNotes (goAlt s a b) = doorNotes s := by
  have hq := quiet_raiseEvent s 0x48 noCtx a b
  unfold goAlt
  split
  · exact ⟨rfl, rfl⟩
  · have hdoor (u : State) (f : Door → Door) : unsent (modDoor u a f) = unsent u := rfl
    exact ⟨(hdoor _ _).trans (unsent_of_quiet hq),
      (doorNotes_modDoor _ a (f := fun x => { x with onAlt := true }) fun _ => rfl).trans (doorNotes_of_quiet hq)⟩

theorem countOvr_leaves (s : State) (dst : Nat) : unsent (countOvr s dst) = unsent s ∧ doorNotes (countOvr s dst) = doorNotes s := by
  unfold countOvr
  split
  · split <;> exact ⟨rfl, rfl⟩
  · exact ⟨rfl, rfl⟩

theorem routeOf_leaves (s : State) (dst : Nat) (arrival : Option (Nat × Nat)) :
    unsent (routeOf s dst arrival).1 = unsent s ∧ doorNotes (routeOf s dst arrival).1 = doorNotes s := by
  have hcount := countOvr_leaves s dst
  unfold routeOf
  split
  · exact ⟨rfl, rfl⟩
  · dsimp only
    split
    · exact hcount
    · split
      · exact hcount
      · split
        next a _ b _ _ _ _ =>
          dsimp only
          split
          · exact ⟨(goAlt_leaves ..).1.trans hcount.1, (goAlt_leaves ..).2.trans hcount.2⟩
          · exact hcount
        · exact hcount

theorem sendMsg_leaves (s : State) (m : Msg) : unsent (sendMsg s m).1 = unsent s ∧ doorNotes (sendMsg s m).1 = doorNotes s := by
  have hroute := routeOf_leaves s m.dst none
  have hqueue (u : State) (d lane : Nat) : unsent (enqueue u d lane m) = unsent u ∧ doorNotes (enqueue u d lane m) = doorNotes u :=
    ⟨rfl, doorNotes_modDoor u d fun _ => rfl⟩
  unfold sendMsg
  split
  next h => rw [h] at hroute; exact hroute
  next u d lane h =>
    rw [h] at hroute
    have hsent := And.intro ((hqueue u d lane).1.trans hroute.1) ((hqueue u d lane).2.trans hroute.2)
    split
    · split
      · exact hroute
      · have hback : doorNotes (modDoor u d fun x => { x with onAlt := false }) = doorNotes u := doorNotes_modDoor u d fun _ => rfl
        exact ⟨Eq.trans rfl hroute.1, (hqueue _ d lane).2.trans (hback.trans hroute.2)⟩
    · exact hsent
  next h => rw [h] at hroute; exact hroute

theorem unsent_answer (s : State) (m : Msg) (mt st addr : Nat) (data : List Byte) : unsent (answer s m mt st addr data) = unsent s :=
  (sendMsg_leaves ..).1

theorem answer_keeps {α : Type} (f : State → α) (hf : ∀ u, f (unsent u) = f u) (s : State) (m : Msg) (mt st addr : Nat)
    (data : List Byte) : f (answer s m mt st addr data) = f s := eq_of_view unsent f hf (unsent_answer ..)

/-! ### The service of a request (R278 to R280, R411) -/

theorem turned_arbTake (s : State) (place n cls idx : Nat) (others left : List (Nat × Nat)) :
    Turned s (arbTake s place n cls idx others left) := rfl

/-- A request's service ends with its port's grant counted, where it has a port. -/
theorem serveFar_served {s s1 : State} {mt d : Nat} {e : InMsg} {m : Msg} (k : State → Nat → Msg → State) (hn : farNext s mt = some e)
    (ht : takeIn s e = (d, m, s1)) : m.mtype = mt ∧ Turned (k s1 d m) (serveFar s mt k) ∧
      (farPort s m = none → serveFar s mt k = k s1 d m) := by
  have hm := (takeIn_spec ht).1
  have hmt : e.msg.mtype = mt := by
    have h := List.find?_some hn
    rw [Bool.and_eq_true] at h
    exact of_decide_eq_true h.1
  refine ⟨hm ▸ hmt, ?_, fun hp => ?_⟩
  · unfold serveFar
    rw [hn]
    dsimp only
    rw [ht]
    split
    · rfl
    · exact turned_arbTake ..
  · unfold serveFar
    rw [hn]
    dsimp only
    rw [ht, ← hm, hp]

/-- A request that its export refuses reaches no port. -/
theorem farPort_refused {s : State} {m : Msg} {n c : Nat} {wr atom : Bool}
    (hn : (if m.mtype = 0x01 then m.len else if m.mtype = 0x02 then m.data.length else 8) = n) (hw : decide (m.mtype ≠ 0x01) = wr)
    (ha : decide (m.mtype = 0x03) = atom) (h : exportAt s m n wr atom = .inl c) : farPort s m = none := by
  unfold farPort
  dsimp only
  rw [hn, hw, ha, h]

/-- A state without its links and the Corridor. -/
def linkless (s : State) : State := { s with link := Link.reset, corr := State.reset.corr }

theorem targetPieces_of_links {s t : State} (h : linkless t = linkless s) (n : Nat) (wr : Bool) :
    ∀ ps : List (Nat × Nat), targetPieces t n wr ps = targetPieces s n wr ps
  | [] => rfl
  | (va, k) :: ps => by
    have hx : xlTest t n va wr = xlTest s n va wr := eq_of_view linkless (fun u => xlTest u n va wr) (fun _ => rfl) h
    rw [targetPieces, targetPieces, hx, targetPieces_of_links h n wr ps]

theorem targetPieces_of_untaken {s t : State} (h : untaken t = untaken s) (n : Nat) (wr : Bool) (ps : List (Nat × Nat)) :
    targetPieces t n wr ps = targetPieces s n wr ps := by
  have hl := congrArg linkless h
  exact targetPieces_of_links (s := s) (t := t) hl n wr ps

theorem exportAt_of_untaken {s t : State} (h : untaken t = untaken s) (m : Msg) (n : Nat) (wr atom : Bool) :
    exportAt t m n wr atom = exportAt s m n wr atom := eq_of_view untaken (fun u => exportAt u m n wr atom) (fun _ => rfl) h

/-! ### Reads and writes (R419 to R422, R553) -/

theorem readTarget_clean {env : Env} : ∀ {ps : List (Nat × Nat)} {s : State} (acc : List Byte), (∀ p ∈ ps, CleanRead s env p.1 p.2) →
    readTarget env ps s acc = (s, none, acc ++ ps.flatMap (fun p => s.mem.data.read p.1 p.2))
  | [], s, acc, _ => by rw [readTarget, List.flatMap_nil, List.append_nil]
  | (pa, n) :: ps, s, acc, h => by
    rw [readTarget, readPa_clean (h _ List.mem_cons_self), List.flatMap_cons, ← List.append_assoc]
    exact readTarget_clean _ fun p hp => h p (List.mem_cons_of_mem _ hp)

theorem unread_readTarget (env : Env) : ∀ (ps : List (Nat × Nat)) (s : State) (acc : List Byte), unread (readTarget env ps s acc).1 = unread s
  | [], _, _ => rfl
  | (pa, n) :: ps, s, acc => by
    have hr := unread_readPa s env .node none pa n
    rw [readTarget]
    split
    next he => rw [he] at hr; exact hr
    next he => rw [he] at hr; exact (unread_readTarget env ps _ _).trans hr

theorem answer_mem (s : State) (m : Msg) (mt st addr : Nat) (data : List Byte) : (answer s m mt st addr data).mem = s.mem :=
  answer_keeps State.mem (fun _ => rfl) ..

theorem serveRd_data (s : State) (m : Msg) (env : Env) : (serveRd s m env).mem.data = s.mem.data := by
  unfold serveRd
  split
  · rw [answer_mem]
  · split
    · rw [answer_mem]
    next ps _ =>
      have hr : (readTarget env ps s []).1.mem.data = s.mem.data := eq_of_view unread (fun u => u.mem.data) (fun _ => rfl)
        (unread_readTarget env ps s [])
      split
      all_goals next he =>
        rw [he] at hr
        rw [answer_mem]
        exact hr

/-- Whether a request may be served, its message taken and the state that leaves. -/
structure Arrived (s s1 : State) (mt d : Nat) (m : Msg) (e : InMsg) : Prop where
  powered : powered s = true
  next : farNext s mt = some e
  taken : takeIn s e = (d, m, s1)

section
variable {s s1 : State} {d : Nat} {m : Msg} {env : Env} {e : InMsg}

theorem exec_rd (hp : powered s = true) : exec (.rd env) s = .next (serveFar s 0x01 fun s _ m => serveRd s m env) :=
  congrArg Host.Outcome.next (if_pos hp)
theorem exec_wr (hp : powered s = true) : exec (.wr env) s = .next (serveFar s 0x02 fun s _ m => serveWr s m env) :=
  congrArg Host.Outcome.next (if_pos hp)
theorem exec_atom (b : Bool) (hp : powered s = true) :
    exec (.atom b env) s = .next (serveFar s 0x03 fun s d m => performAtom s m env (if b then some d else none)) :=
  congrArg Host.Outcome.next (if_pos hp)

theorem rd_served (h : Arrived s s1 0x01 d m e) : ∃ t, exec (.rd env) s = .next t ∧ t.mem.data = s.mem.data ∧
    (∀ c, exportAt s m m.len false false = .inl c → t = answer s1 m 0x10 c 0 []) ∧
    (∀ n va ps, exportAt s m m.len false false = .inr (n, va) → targetPieces s n false (vaChunks va m.len) = .inr ps →
      (∀ p ∈ ps, CleanRead s env p.1 p.2) →
      Turned (answer { s1 with link := { s1.link with remRd := s1.link.remRd + 1 } } m 0x10 0 0
        (ps.flatMap (fun p => s.mem.data.read p.1 p.2))) t) := by
  obtain ⟨hp, hn, ht⟩ := h
  obtain ⟨-, htaken, -⟩ := takeIn_spec ht
  obtain ⟨hmt, hturned, hnone⟩ := serveFar_served (fun s _ m => serveRd s m env) hn ht
  have hmem : s1.mem = s.mem := eq_of_view untaken State.mem (fun _ => rfl) htaken
  have hexp := exportAt_of_untaken htaken m m.len false false
  refine ⟨_, exec_rd hp, ?_, fun c hc => ?_, fun n va ps hx hps hclean => ?_⟩
  · rw [hturned]
    exact (serveRd_data ..).trans (congrArg Mem.data hmem)
  · rw [hnone (farPort_refused (by rw [hmt]; rfl) (by rw [hmt]; rfl) (by rw [hmt]; rfl) hc)]
    unfold serveRd
    rw [hexp, hc]
  · have hserve : serveRd s1 m env = answer { s1 with link := { s1.link with remRd := s1.link.remRd + 1 } } m 0x10 0 0
        (ps.flatMap (fun p => s.mem.data.read p.1 p.2)) := by
      unfold serveRd
      rw [hexp, hx]
      dsimp only
      rw [targetPieces_of_untaken htaken, hps]
      dsimp only
      have hread := readTarget_clean (s := s1) [] fun p hpm => cleanRead_of_mem (congrArg Mem.poison hmem) (congrArg Mem.stkUp hmem)
        (congrArg Mem.stacksIn hmem) (hclean p hpm)
      rw [hmem, List.nil_append] at hread
      rw [hread]
    exact hserve ▸ hturned

theorem serveWr_accepted {n va : Nat} {ps : List (Nat × Nat)} (hx : exportAt s m m.data.length true false = .inr (n, va))
    (hps : targetPieces s n true (vaChunks va m.data.length) = .inr ps) (hout : targetOut s ps = none) :
    (serveWr s m env).mem = (testFences (writeTarget env ps m.data s)).mem ∧
    (serveWr s m env).link.remWr = (testFences (writeTarget env ps m.data s)).link.remWr + 1 := by
  unfold serveWr
  rw [hx]
  dsimp only
  rw [hps]
  dsimp only
  rw [hout]
  exact ⟨answer_mem .., answer_keeps (fun u => u.link.remWr) (fun _ => rfl) ..⟩

theorem unwritten_writeTarget (env : Env) : ∀ (ps : List (Nat × Nat)) (bs : List Byte) (s : State),
    unwritten (writeTarget env ps bs s) = unwritten s
  | [], _, _ => rfl
  | (pa, n) :: ps, bs, s => by
    rw [writeTarget]
    exact (unwritten_writeTarget env ps _ _).trans (unwritten_writePa ..)

theorem wr_served (h : Arrived s s1 0x02 d m e) : ∃ t, exec (.wr env) s = .next t ∧
    (∀ c, exportAt s m m.data.length true false = .inl c → t = answer s1 m 0x11 c 0 [] ∧ t.mem = s.mem) ∧
    (∀ n va ps, exportAt s m m.data.length true false = .inr (n, va) →
      targetPieces s n true (vaChunks va m.data.length) = .inr ps → targetOut s ps = none →
      t.link.remWr = s.link.remWr + 1 ∧
      (∀ pa k, ps = [(pa, k)] → t.mem.data = s.mem.data.write pa (m.data.take k)) ∧
      (∀ pa k pb l, ps = [(pa, k), (pb, l)] →
        t.mem.data = (s.mem.data.write pa (m.data.take k)).write pb ((m.data.drop k).take l))) := by
  obtain ⟨hp, hn, ht⟩ := h
  obtain ⟨-, htaken, -⟩ := takeIn_spec ht
  obtain ⟨hmt, hturned, hnone⟩ := serveFar_served (fun s _ m => serveWr s m env) hn ht
  have hmem : s1.mem = s.mem := eq_of_view untaken State.mem (fun _ => rfl) htaken
  have hexp := exportAt_of_untaken htaken m m.data.length true false
  refine ⟨_, exec_wr hp, fun c hc => ?_, fun n va ps hx hps hout => ?_⟩
  · have hserve : serveWr s1 m env = answer s1 m 0x11 c 0 [] := by
      unfold serveWr
      rw [hexp, hc]
    rw [hnone (farPort_refused (by rw [hmt]; rfl) (by rw [hmt]; rfl) (by rw [hmt]; rfl) hc), hserve]
    exact ⟨rfl, (answer_mem ..).trans hmem⟩
  · obtain ⟨hwmem, hwr⟩ := serveWr_accepted (env := env) (hexp.trans hx) ((targetPieces_of_untaken htaken ..).trans hps)
      ((eq_of_view untaken (fun u => targetOut u ps) (fun _ => rfl) htaken).trans hout)
    obtain ⟨ops, corr, hfences⟩ := testFences_frame (writeTarget env ps m.data s1)
    have hdata : (serveFar s 0x02 fun s _ m => serveWr s m env).mem.data = (writeTarget env ps m.data s1).mem.data := by
      rw [hturned]
      exact (congrArg Mem.data hwmem).trans (by rw [hfences])
    refine ⟨?_, fun pa k hk => ?_, fun pa k pb l hk => ?_⟩
    · rw [hturned]
      refine hwr.trans ?_
      rw [hfences]
      exact congrArg (· + 1) ((eq_of_view unwritten (fun u => u.link.remWr) (fun _ => rfl) (unwritten_writeTarget env ps m.data s1)).trans
        (eq_of_view untaken (fun u => u.link.remWr) (fun _ => rfl) htaken))
    · rw [hdata, hk, ← hmem]
      exact writePa_data ..
    · rw [hdata, hk, ← hmem]
      exact (writePa_data ..).trans (congrArg (Memory.write · pb _) (writePa_data ..))

/-! ### Atomics (R419, R424, R426 to R429) -/

theorem performAtom_refused {retry : Option Nat} {c : Nat} (h : exportAt s m 8 true true = .inl c) :
    performAtom s m env retry = answer s m 0x12 c 0 [] := by
  unfold performAtom
  rw [h]

/-- The word that an atomic leaves in memory. -/
def atomBytes (s : State) (m : Msg) (pa : Nat) : List Byte :=
  toBytes 8 (atomVal m.atop (fromBytes (s.mem.data.read pa 8)) (field m.data 0 8) (field m.data 8 8))

theorem targetOut_clean {pa : Nat} (h : CleanRead s env pa 8) : targetOut s [(pa, 8)] = none := by
  have hfirst : firstOut s pa 8 = none := List.find?_eq_none.2 fun g hg => by rw [(h.2.2 g hg).2]; exact Bool.false_ne_true
  rw [targetOut, List.findSome?_cons, hfirst]
  rfl

section
variable {n va pa : Nat}

/-- An atomic whose granule is contended is answered RETRY. -/
theorem performAtom_contended (hx : exportAt s m 8 true true = .inr (n, va)) (hps : targetPieces s n true [(va / 8 * 8, 8)] = .inr [(pa, 8)])
    (hc : CleanRead s env pa 8) : performAtom s m env (some d) = answerRetry s d m := by
  unfold performAtom
  rw [hx]
  dsimp only
  rw [hps]
  dsimp only
  rw [targetOut_clean hc]

theorem putLong_leaves (s : State) (env : Env) (pa v : Nat) :
    (putLong s env .node pa v).mem.data = s.mem.data.write pa (toBytes 8 v) ∧ (putLong s env .node pa v).link = s.link := by
  unfold putLong
  generalize toBytes 8 v = bs
  have hlink : (writePa s env .node pa bs).link = s.link := eq_of_view unwritten State.link (fun _ => rfl) (unwritten_writePa ..)
  have hdata := writePa_data s env .node pa bs
  generalize writePa s env .node pa bs = u at hlink hdata
  obtain ⟨ops, corr, h⟩ := testFences_frame u
  rw [h]
  exact ⟨hdata, hlink⟩

/-- An atomic on a free granule stores its word and counts. -/
theorem performAtom_done (hx : exportAt s m 8 true true = .inr (n, va)) (hps : targetPieces s n true [(va / 8 * 8, 8)] = .inr [(pa, 8)])
    (hc : CleanRead s env pa 8) : (performAtom s m env none).mem.data = s.mem.data.write pa (atomBytes s m pa) ∧
      (performAtom s m env none).link.remAtom = s.link.remAtom + 1 := by
  unfold performAtom
  rw [hx]
  dsimp only
  rw [hps]
  dsimp only
  rw [targetOut_clean hc]
  dsimp only
  rw [List.headD_cons, readPa_clean hc]
  dsimp only
  unfold atomBytes
  generalize atomVal m.atop (fromBytes (s.mem.data.read pa 8)) (field m.data 0 8) (field m.data 8 8) = v
  obtain ⟨hdata, hlink⟩ := putLong_leaves s env pa v
  generalize putLong s env .node pa v = u at hdata hlink
  refine ⟨?_, ?_⟩
  · rw [answer_mem]
    exact hdata
  · refine (answer_keeps (fun u => u.link.remAtom) (fun _ => rfl) ..).trans ?_
    rw [hlink]

end

/-- An atomic takes none from the queue and adds none. -/
theorem performAtom_atomq : (performAtom s m env none).link.atomq = s.link.atomq := by
  have hanswer (u : State) (mt st addr : Nat) (data : List Byte) : (answer u m mt st addr data).link.atomq = u.link.atomq :=
    answer_keeps (fun u => u.link.atomq) (fun _ => rfl) ..
  unfold performAtom
  split
  · exact hanswer ..
  · dsimp only
    split
    · exact hanswer ..
    next ps _ =>
      split
      · exact hanswer ..
      · have hr : (readPa s env .node none (ps.headD (0, 0)).1 8).1.link = s.link := eq_of_view unread State.link (fun _ => rfl) (unread_readPa ..)
        split
        next he =>
          rw [he] at hr
          exact (hanswer ..).trans (congrArg Link.atomq hr :)
        next u bs he =>
          rw [he] at hr
          have hput (v : Nat) (w : State) (hw : w = putLong u env .node (ps.headD (0, 0)).1 v) :
              (answer { w with link := { w.link with remAtom := w.link.remAtom + 1 } } m 0x12 0 0 bs).link.atomq = s.link.atomq :=
            (hanswer ..).trans (congrArg Link.atomq ((hw ▸ (putLong_leaves u env (ps.headD (0, 0)).1 v).2).trans hr) :)
          exact hput _ _ rfl

theorem answerRetry_keeps (s : State) (d : Nat) (m : Msg) : unsent (answerRetry s d m) = unsent s ∧
    (d < 16 → (doorOf (answerRetry s d m) d).retryTx = (doorOf s d).retryTx + 1) := by
  have hsent (u : State) : doorNotes (answer u m 0x13 0 0 []) = doorNotes u := (sendMsg_leaves ..).2
  unfold answerRetry
  split
  · refine ⟨(unsent_answer ..).trans rfl, fun _ => (congrArg Prod.snd (congrFun (hsent _) d) :).trans ?_⟩
    exact congrArg Door.retryTx (doorOf_modDoor_same ..)
  next hd => exact ⟨unsent_answer .., fun h => absurd h hd⟩

theorem atom_served (h : Arrived s s1 0x03 d m e) :
    (∀ b c, exportAt s m 8 true true = .inl c → exec (.atom b env) s = .next (answer s1 m 0x12 c 0 [])) ∧
    (∀ n va pa, exportAt s m 8 true true = .inr (n, va) → targetPieces s n true [(va / 8 * 8, 8)] = .inr [(pa, 8)] →
      CleanRead s env pa 8 →
      (∃ t, exec (.atom true env) s = .next t ∧ t.mem = s.mem ∧ t.link.remAtom = s.link.remAtom ∧
        (d < 16 → (doorOf t d).retryTx = (doorOf s d).retryTx + 1)) ∧
      (∃ t, exec (.atom false env) s = .next t ∧ t.link.remAtom = s.link.remAtom + 1 ∧
        t.mem.data = s.mem.data.write pa (atomBytes s m pa))) := by
  obtain ⟨hp, hn, ht⟩ := h
  obtain ⟨-, htaken, hnotes⟩ := takeIn_spec ht
  have hserved (b : Bool) := serveFar_served (fun s d m => performAtom s m env (if b then some d else none)) hn ht
  have hmt := (hserved true).1
  have hmem : s1.mem = s.mem := eq_of_view untaken State.mem (fun _ => rfl) htaken
  have hexp := exportAt_of_untaken htaken m 8 true true
  refine ⟨fun b c hc => ?_, fun n va pa hx hps hclean => ?_⟩
  · rw [exec_atom b hp, (hserved b).2.2 (farPort_refused (by rw [hmt]; rfl) (by rw [hmt]; rfl) (by rw [hmt]; rfl) hc),
      performAtom_refused (hexp.trans hc)]
  · have hx1 := hexp.trans hx
    have hps1 := (targetPieces_of_untaken htaken n true [(va / 8 * 8, 8)]).trans hps
    have hclean1 : CleanRead s1 env pa 8 := cleanRead_of_mem (congrArg Mem.poison hmem) (congrArg Mem.stkUp hmem)
      (congrArg Mem.stacksIn hmem) hclean
    have hcount : s1.link.remAtom = s.link.remAtom := eq_of_view untaken (fun u => u.link.remAtom) (fun _ => rfl) htaken
    refine ⟨⟨_, exec_atom true hp, ?_⟩, _, exec_atom false hp, ?_⟩
    · have hturned := (hserved true).2.1
      rw [if_pos rfl, performAtom_contended hx1 hps1 hclean1] at hturned
      obtain ⟨hkept, hretry⟩ := answerRetry_keeps s1 d m
      rw [hturned]
      exact ⟨(eq_of_view unsent State.mem (fun _ => rfl) hkept).trans hmem,
        (eq_of_view unsent (fun u => u.link.remAtom) (fun _ => rfl) hkept).trans hcount,
        fun hd => (hretry hd).trans (congrArg (· + 1) (congrArg Prod.snd (congrFun hnotes d) :))⟩
    · have hturned := (hserved false).2.1
      rw [if_neg Bool.false_ne_true] at hturned
      obtain ⟨hdata, hatom⟩ := performAtom_done hx1 hps1 hclean1
      rw [hturned]
      refine ⟨hatom.trans (congrArg (· + 1) hcount), hdata.trans ?_⟩
      unfold atomBytes
      rw [hmem]

end

/-- Settles O50: a request is served of the state that the taken message leaves, in which exports, tables and memory are as before. -/
theorem remoteRequestsAreServed : Obligations.RemoteRequestsAreServed := by
  unfold Obligations.RemoteRequestsAreServed
  intro s s1 d m env hp
  refine ⟨fun e hn ht => rd_served ⟨hp, hn, ht⟩, fun e hn ht => wr_served ⟨hp, hn, ht⟩, fun e hn ht => atom_served ⟨hp, hn, ht⟩,
    fun hfull => congrArg Host.Outcome.next (if_pos hfull), fun hroom htake => ?_, fun rest hq => ?_⟩
  · refine congrArg Host.Outcome.next ((if_neg (Nat.not_le.2 hroom)).trans ?_)
    rw [htake]
  · refine ⟨performAtom { s with link := { s.link with atomq := rest } } m env none, ?_, ?_, fun c hc => performAtom_refused hc,
      fun n va pa hx hps hclean => ?_⟩
    · refine congrArg Host.Outcome.next ?_
      rw [hq]
      exact if_pos hp
    · exact performAtom_atomq
    · obtain ⟨hdata, hatom⟩ := performAtom_done (s := { s with link := { s.link with atomq := rest } }) (env := env) (pa := pa) hx
        ((targetPieces_of_links rfl n true _).trans hps) hclean
      exact ⟨hatom, hdata⟩

end Sys2Proof.Machine

/-!
Answers at the requester (R420, R424, R428 to R434): a request that its answer, a RETRY or its timeout meets.
-/

namespace Sys2Proof.Machine

open Sys2Proof

/-! ### The requests that are open -/

theorem findReq_dropReq (s : State) (tag : Nat) : findReq (dropReq s tag) tag = none :=
  List.find?_eq_none.2 fun r hr => by
    have h := of_decide_eq_true (List.mem_filter.1 hr).2
    simpa using h

theorem findReq_modReq {s : State} {tag : Nat} {f : RemReq → RemReq} (hf : ∀ r, (f r).tag = r.tag) :
    findReq (modReq s tag f) tag = (findReq s tag).map f := by
  have hid (r : RemReq) : (if r.tag = tag then f r else r).tag = r.tag := by split <;> simp [hf]
  have h : findReq (modReq s tag f) tag = (findReq s tag).map fun r => if r.tag = tag then f r else r :=
    find?_map_of_pred (fun r => by rw [hid]) s.link.reqs
  rw [h]
  refine Option.map_congr fun r hr => if_pos ?_
  have hr := List.find?_some hr
  simpa using hr

theorem releaseHeld_nil {u : State} (h : u.link.held = []) : releaseHeld u = u := by
  have hu : { u with link := { u.link with held := [] } } = u := by rw [← h]
  unfold releaseHeld
  rw [h]
  exact hu

/-- An answered request is gone; what its answer came to stays. -/
theorem dropReq_answered {s s1 : State} {mt d : Nat} {m : Msg} (tag : Nat) (ht : takeMsg s mt = some (d, m, s1)) (hh : s.link.held = []) :
    releaseHeld (dropReq s1 tag) = dropReq s1 tag ∧ findReq (dropReq s1 tag) tag = none ∧ (dropReq s1 tag).mem = s.mem ∧
      (dropReq s1 tag).streams = s.streams ∧ (dropReq s1 tag).ctxs = s.ctxs := by
  obtain ⟨htaken, -⟩ := takeMsg_spec ht
  refine ⟨releaseHeld_nil ?_, findReq_dropReq .., ?_, ?_, ?_⟩
  · exact (eq_of_view untaken (fun u => u.link.held) (fun _ => rfl) htaken).trans hh
  · exact eq_of_view untaken (s := s) (t := s1) State.mem (fun _ => rfl) htaken
  · exact eq_of_view untaken (s := s) (t := s1) State.streams (fun _ => rfl) htaken
  · exact eq_of_view untaken (s := s) (t := s1) State.ctxs (fun _ => rfl) htaken

theorem findReq_taken {s s1 : State} {mt d : Nat} {m : Msg} (ht : takeMsg s mt = some (d, m, s1)) (tag : Nat) :
    findReq s1 tag = findReq s tag := eq_of_view untaken (fun u => findReq u tag) (fun _ => rfl) (takeMsg_spec ht).1

section
variable {s s1 : State} {d : Nat} {m : Msg} {env : Env}

/-! ### Answers that come too late (R432) -/

theorem exec_late {c : Instr} {mt : Nat} (hc : (c, mt) ∈ [(Instr.rdrsp env, 0x10), (.wrack, 0x11), (.atrsp, 0x12), (.retry, 0x13)])
    (ht : takeMsg s mt = some (d, m, s1)) (hnone : findReq s m.tag = none) : exec c s = .next (lateRsp s1 d) := by
  have hnone1 := (findReq_taken ht m.tag).trans hnone
  simp only [List.mem_cons, Prod.mk.injEq, List.not_mem_nil, or_false] at hc
  rcases hc with ⟨rfl, rfl⟩ | ⟨rfl, rfl⟩ | ⟨rfl, rfl⟩ | ⟨rfl, rfl⟩
  all_goals
    refine congrArg Host.Outcome.next ?_
    rw [ht]
    dsimp only
    rw [hnone1]

theorem late_answer {c : Instr} {mt : Nat} (hc : (c, mt) ∈ [(Instr.rdrsp env, 0x10), (.wrack, 0x11), (.atrsp, 0x12), (.retry, 0x13)])
    (ht : takeMsg s mt = some (d, m, s1)) (hnone : findReq s m.tag = none) (hd : d < 16) : ∃ t, exec c s = .next t ∧
      (doorOf t d).lateRsp = (doorOf s d).lateRsp + 1 ∧ t.link.reqs = s.link.reqs ∧ t.streams = s.streams ∧ t.mem = s.mem := by
  obtain ⟨htaken, hnotes⟩ := takeMsg_spec ht
  refine ⟨_, exec_late hc ht hnone, ?_⟩
  unfold lateRsp
  rw [if_pos hd]
  refine ⟨?_, ?_, ?_, ?_⟩
  · rw [doorOf_modDoor_same]
    exact congrArg (· + 1) (congrArg Prod.fst (congrFun hnotes d) :)
  · exact eq_of_view untaken (s := s) (t := s1) (fun u => u.link.reqs) (fun _ => rfl) htaken
  · exact eq_of_view untaken (s := s) (t := s1) State.streams (fun _ => rfl) htaken
  · exact eq_of_view untaken (s := s) (t := s1) State.mem (fun _ => rfl) htaken

/-! ### Answers to a stream (R420, R421) -/

/-- A stream whose next bytes have been written. -/
def written (n : Nat) (x : Stream) : Stream := { x with pos := x.pos + n, buf := x.buf.drop n }

section
variable {r : RemReq} {sid : Nat} {b : Bool} {x : Stream}

theorem setFault_keeps (u : State) (sid : Nat) (dst : Bool) (c : FCode) (va : Nat) :
    (setFault u sid dst c va).link = u.link ∧ (setFault u sid dst c va).mem = u.mem := by
  have hfree (x : Stream) : (freeHeld u x).link = u.link ∧ (freeHeld u x).mem = u.mem := by
    unfold freeHeld
    split <;> exact ⟨rfl, rfl⟩
  unfold setFault
  dsimp only
  rw [modStream_link, modStream_mem]
  split
  · exact hfree _
  · exact ⟨rfl, rfl⟩

theorem findReq_of_link {u v : State} (h : v.link = u.link) (tag : Nat) : findReq v tag = findReq u tag := by rw [findReq, h, findReq]

theorem rdrsp_answer (hh : s.link.held = []) (hr : findReq s m.tag = some r) (ho : r.owner = .stream sid b) (hx : findStream s sid = some x)
    (ht : takeMsg s 0x10 = some (d, m, s1)) (hk : x.kind = .copy) (hpoison : m.status ≠ 5) : ∃ t, exec (.rdrsp env) s = .next t ∧
      findReq t m.tag = none ∧ t.mem = s.mem ∧ findStream t sid = some (if m.status = 0
        then { x with buf := x.buf ++ m.data, rpos := x.rpos + m.data.length }
        else { x with pending := some (fcodeOf m.status, r.va), held := none }) := by
  obtain ⟨hrel, hgone, hmem, hstreams, -⟩ := dropReq_answered m.tag ht hh
  have hx1 : findStream (dropReq s1 m.tag) sid = some x := by rw [findStream, hstreams]; exact hx
  have hexec : exec (.rdrsp env) s = .next (if m.status = 0 then takeBytes (dropReq s1 m.tag) sid x m.data
      else setFault (dropReq s1 m.tag) sid false (fcodeOf m.status) r.va) := by
    refine congrArg Host.Outcome.next ?_
    rw [ht]
    dsimp only
    rw [findReq_taken ht, hr]
    dsimp only
    rw [hrel, ho]
    dsimp only
    rw [hx1]
    dsimp only
    rw [if_neg hpoison]
  generalize dropReq s1 m.tag = u at hgone hmem hx1 hexec
  refine ⟨_, hexec, ?_⟩
  split
  next hst =>
    rw [takeBytes_copy _ hk]
    refine ⟨(findReq_of_link (modStream_link ..) _).trans hgone, (modStream_mem ..).trans hmem, ?_⟩
    rw [findStream_modStream, if_pos rfl, hx1]
    rfl
  next hst =>
    obtain ⟨hlink, hfmem⟩ := setFault_keeps u sid false (fcodeOf m.status) r.va
    refine ⟨(findReq_of_link hlink _).trans hgone, hfmem.trans hmem, ?_⟩
    unfold setFault
    rw [hx1]
    dsimp only
    rw [findStream_modStream, if_pos rfl, findStream, streams_freeHeld, show bankFind u.streams sid = some x from hx1]
    rfl

theorem wrack_answer (hh : s.link.held = []) (hr : findReq s m.tag = some r) (ho : r.owner = .stream sid b) (hx : findStream s sid = some x)
    (ht : takeMsg s 0x11 = some (d, m, s1)) : ∃ t y, exec .wrack s = .next t ∧ findReq t m.tag = none ∧ t.mem = s.mem ∧
      findStream t sid = some y ∧ (if m.status = 0
        then y = { x with pos := x.pos + r.msg.data.length, buf := x.buf.drop r.msg.data.length }
        else y.pending = some (fcodeOf m.status, r.va) ∧ y.pos = x.pos) := by
  obtain ⟨hrel, hgone, hmem, hstreams, -⟩ := dropReq_answered m.tag ht hh
  have hx1 : findStream (dropReq s1 m.tag) sid = some x := by rw [findStream, hstreams]; exact hx
  have hexec : exec .wrack s = .next (if m.status = 0
      then countBytes (modStream (dropReq s1 m.tag) sid (written r.msg.data.length)) x r.msg.data.length
      else setFault (dropReq s1 m.tag) sid true (fcodeOf m.status) r.va) := by
    refine congrArg Host.Outcome.next ?_
    rw [ht]
    dsimp only
    rw [findReq_taken ht, hr]
    dsimp only
    rw [hrel, ho]
    dsimp only
    rw [hx1]
    rfl
  generalize dropReq s1 m.tag = u at hgone hmem hx1 hexec
  by_cases hst : m.status = 0
  · rw [if_pos hst] at hexec
    obtain ⟨ds, hds⟩ := countBytes_frame (modStream u sid (written r.msg.data.length)) x r.msg.data.length
    have hfound : findStream (modStream u sid (written r.msg.data.length)) sid = some (written r.msg.data.length x) := by
      rw [findStream_modStream, if_pos rfl, hx1]
      rfl
    rw [hds] at hexec
    exact ⟨_, _, hexec, (findReq_of_link (modStream_link ..) _).trans hgone, (modStream_mem ..).trans hmem, hfound, (if_pos hst).symm ▸ rfl⟩
  · rw [if_neg hst] at hexec
    obtain ⟨y, hy, hpending, hpos, -, hfmem⟩ := setFault_spec true (fcodeOf m.status) r.va hx1
    exact ⟨_, y, hexec, (findReq_of_link (setFault_keeps ..).1 _).trans hgone, hfmem.trans hmem, hy, (if_neg hst).symm ▸ ⟨hpending, hpos⟩⟩

end

/-! ### The answer of an atomic (R424, R428) -/

theorem quiet_raiseQueueVec (u : State) (q : Nat) : quiet (raiseQueueVec u q) = quiet u := by
  unfold raiseQueueVec
  split
  · exact quiet_raiseVec ..
  · rfl

theorem atrsp_answer {r : RemReq} {op : OpId} {irq : Bool} (hh : s.link.held = []) (hr : findReq s m.tag = some r)
    (ho : r.owner = .signal op irq) (ht : takeMsg s 0x12 = some (d, m, s1))
    (hend : m.status ≠ 0 ∨ signalAgain r (fromBytes m.data) = false) : ∃ t, exec .atrsp s = .next t ∧ findReq t m.tag = none ∧
      t.mem = s.mem ∧ ∀ c, ctxOf s r.ctx = some c →
        ctxOf t r.ctx = some (if m.status = 0 then c else { c with sigDrop := c.sigDrop + 1 }) := by
  obtain ⟨hrel, hgone, hmem, -, hctxs⟩ := dropReq_answered m.tag ht hh
  have hctx : ctxOf (dropReq s1 m.tag) r.ctx = ctxOf s r.ctx := by rw [ctxOf, hctxs, ctxOf]
  have hexec : exec .atrsp s = .next (if irq
      then raiseQueueVec (if m.status = 0 then dropReq s1 m.tag else dropSignal (dropReq s1 m.tag) r.ctx) op.1
      else if m.status = 0 then dropReq s1 m.tag else dropSignal (dropReq s1 m.tag) r.ctx) := by
    refine congrArg Host.Outcome.next ?_
    rw [ht]
    dsimp only
    rw [findReq_taken ht, hr]
    dsimp only
    rw [hrel, ho]
    dsimp only
    rw [if_neg fun h => hend.elim (fun hne => hne h.1) fun hno => Bool.false_ne_true (hno.symm.trans h.2)]
  generalize dropReq s1 m.tag = u at hgone hmem hctx hexec
  have hdropped : findReq (if m.status = 0 then u else dropSignal u r.ctx) m.tag = none ∧
      (if m.status = 0 then u else dropSignal u r.ctx).mem = s.mem ∧ ∀ c, ctxOf s r.ctx = some c →
        ctxOf (if m.status = 0 then u else dropSignal u r.ctx) r.ctx = some (if m.status = 0 then c else { c with sigDrop := c.sigDrop + 1 }) := by
    split
    · exact ⟨hgone, hmem, fun c hc => hctx.trans hc⟩
    · refine ⟨(findReq_of_link (modCtx_link ..) _).trans hgone, (modCtx_mem ..).trans hmem, fun c hc => ?_⟩
      rw [dropSignal, ctxOf_modCtx, if_pos rfl, hctx, hc]
      rfl
  generalize (if m.status = 0 then u else dropSignal u r.ctx) = v at hdropped hexec
  obtain ⟨hnone, hvmem, hvctx⟩ := hdropped
  refine ⟨_, hexec, ?_⟩
  have hq := quiet_raiseQueueVec v op.1
  split
  · exact ⟨(eq_of_view quiet (fun u => findReq u m.tag) (fun _ => rfl) hq).trans hnone,
      (eq_of_view quiet State.mem (fun _ => rfl) hq).trans hvmem,
      fun c hc => (eq_of_view quiet (fun u => ctxOf u r.ctx) (fun _ => rfl) hq).trans (hvctx c hc)⟩
  · exact ⟨hnone, hvmem, hvctx⟩

/-- A request that backs off. -/
def backedOff (r : RemReq) : RemReq := { r with retries := r.retries + 1, backoff := true }

theorem retry_answer {r : RemReq} (hr : findReq s m.tag = some r) (ht : takeMsg s 0x13 = some (d, m, s1)) : ∃ t,
    exec .retry s = .next t ∧ findReq t m.tag = some { r with retries := r.retries + 1, backoff := true } ∧ t.mem = s.mem ∧
      t.streams = s.streams := by
  obtain ⟨htaken, -⟩ := takeMsg_spec ht
  have hcounted : untaken (if d < 16 then modDoor s1 d (fun x => { x with retryRx := x.retryRx + 1 }) else s1) = untaken s := by
    split
    · exact Eq.trans rfl htaken
    · exact htaken
  have hexec : exec .retry s = .next (modReq (if d < 16 then modDoor s1 d (fun x => { x with retryRx := x.retryRx + 1 }) else s1) m.tag
      backedOff) := by
    refine congrArg Host.Outcome.next ?_
    rw [ht]
    dsimp only
    rw [findReq_taken ht, hr]
    rfl
  generalize (if d < 16 then modDoor s1 d (fun x => { x with retryRx := x.retryRx + 1 }) else s1) = u at hcounted hexec
  refine ⟨_, hexec, ?_, ?_, ?_⟩
  · rw [findReq_modReq (f := backedOff) fun _ => rfl, eq_of_view untaken (s := s) (t := u) (fun u => findReq u m.tag) (fun _ => rfl) hcounted, hr]
    rfl
  · exact eq_of_view untaken (s := s) (t := u) State.mem (fun _ => rfl) hcounted
  · exact eq_of_view untaken (s := s) (t := u) State.streams (fun _ => rfl) hcounted

end

/-! ### What is sent again, and what times out (R428, R433) -/

/-- The message of a request that is sent again, an ATOMQ after its 32nd RETRY. -/
def resentMsg (r : RemReq) : Msg := { r.msg with mtype := if 32 ≤ r.retries then 0x04 else 0x03 }
/-- A request that is sent again as a message. -/
def resent (m : Msg) (r : RemReq) : RemReq := { r with backoff := false, door := none, msg := m }

/-- The route to a node does not depend on the requests that are open. -/
theorem routeOf_modReq (s : State) (tag dst : Nat) (f : RemReq → RemReq) : (routeOf (modReq s tag f) dst none).2 = (routeOf s dst none).2 := by
  unfold routeOf
  rw [show (modReq s tag f).link.topo = s.link.topo from rfl]
  split
  · rfl
  next tp _ =>
    have hdoors (u : State) : (countOvr u dst).link.doors = u.link.doors := by
      unfold countOvr
      split
      · split <;> rfl
      · rfl
    have hopen (e : Nat) : doorOpen (countOvr (modReq s tag f) dst) e = doorOpen (countOvr s dst) e := by
      rw [doorOpen, doorOf_congr (hdoors _), doorOpen, doorOf_congr (hdoors _)]
      rfl
    have hnode (u : State) : (countOvr u dst).nodeId = u.nodeId := by
      unfold countOvr
      split
      · split <;> rfl
      · rfl
    dsimp only
    rw [hnode, hnode, show (modReq s tag f).nodeId = s.nodeId from rfl]
    split
    · rfl
    next a va b vb lane _ =>
      rw [hopen, hopen]
      split
      · rfl
      · split
        · rfl
        · rfl

theorem sendMsg_sent {s : State} {m : Msg} (h : (routeOf s m.dst none).2 ≠ .down) : (sendMsg s m).2 = true := by
  unfold sendMsg
  split
  · rfl
  · split
    · split <;> rfl
    · rfl
  next hr => exact absurd (congrArg Prod.snd hr) h

theorem atomResend_answer {s : State} {tag : Nat} {r : RemReq} (hh : s.link.held = []) (hr : findReq s tag = some r)
    (hb : r.backoff = true) (hroute : (routeOf s r.msg.dst none).2 ≠ .down) : ∃ t, exec (.atomResend tag) s = .next t ∧
      t.mem = s.mem ∧ findReq t tag = some (resent (resentMsg r) r) := by
  have hexec : exec (.atomResend tag) s = .next (sendReq (releaseHeld (modReq s tag (resent (resentMsg r)))) tag (resentMsg r)) := by
    refine congrArg Host.Outcome.next ?_
    rw [hr]
    exact if_pos hb
  rw [releaseHeld_nil (u := modReq s tag _) hh] at hexec
  have hfound := findReq_modReq (s := s) (tag := tag) (f := resent (resentMsg r)) fun _ => rfl
  have hsent := sendMsg_sent (s := modReq s tag (resent (resentMsg r))) (m := resentMsg r)
    (by rw [routeOf_modReq]; exact hroute)
  have hkeep := (sendMsg_leaves (modReq s tag (resent (resentMsg r))) (resentMsg r)).1
  have hmem : (modReq s tag (resent (resentMsg r))).mem = s.mem := rfl
  generalize (modReq s tag (resent (resentMsg r))) = v at hfound hsent hkeep hexec hmem
  refine ⟨_, hexec, ?_⟩
  unfold sendReq
  split
  next hs =>
    rw [hs] at hkeep
    refine ⟨(eq_of_view unsent State.mem (fun _ => rfl) hkeep).trans hmem,
      (eq_of_view unsent (fun u => findReq u tag) (fun _ => rfl) hkeep).trans (hfound.trans ?_)⟩
    rw [hr]
    rfl
  next hs => exact absurd (hsent.symm.trans (congrArg Prod.snd hs)).symm Bool.false_ne_true


/-- The work of a request's owner that ends with it. -/
def ownerFails (u : State) (r : RemReq) : State :=
  match r.owner with
  | .stream sid _ => (match findStream u sid with | some x => endOp u x.op .aborted true | none => u)
  | .signal op irq => if irq then raiseQueueVec (dropSignal u r.ctx) op.1 else dropSignal u r.ctx
  | .red op => endOp u op .aborted true

/-- The end of an owner's work leaves links, memory and events. -/
theorem ownerFails_keeps (u : State) (r : RemReq) :
    (ownerFails u r).link = u.link ∧ (ownerFails u r).mem = u.mem ∧ (ownerFails u r).evSeq = u.evSeq := by
  have hend (id : OpId) : (endOp u id .aborted true).link = u.link ∧ (endOp u id .aborted true).mem = u.mem ∧
      (endOp u id .aborted true).evSeq = u.evSeq := by
    have h := endless_endOp u id .aborted true
    exact ⟨eq_of_view endless State.link (fun _ => rfl) h, eq_of_view endless State.mem (fun _ => rfl) h,
      eq_of_view endless State.evSeq (fun _ => rfl) h⟩
  have hdrop : (dropSignal u r.ctx).link = u.link ∧ (dropSignal u r.ctx).mem = u.mem ∧ (dropSignal u r.ctx).evSeq = u.evSeq :=
    ⟨modCtx_link .., modCtx_mem .., modCtx_evSeq ..⟩
  unfold ownerFails
  split
  · split
    · exact hend _
    · exact ⟨rfl, rfl, rfl⟩
  · split
    next op _ _ _ =>
      obtain ⟨hlink, hmem, hseq⟩ := hdrop
      generalize dropSignal u r.ctx = v at hlink hmem hseq
      have hq := quiet_raiseQueueVec v op.1
      refine ⟨(eq_of_view quiet State.link (fun _ => rfl) hq).trans hlink, (eq_of_view quiet State.mem (fun _ => rfl) hq).trans hmem, ?_⟩
      refine Eq.trans ?_ hseq
      unfold raiseQueueVec
      split
      · exact raiseVec_evSeq ..
      · rfl
    · exact hdrop
  · exact hend _

/-- A request that timed out is counted and told, and it is open no more. -/
theorem reqTimedOut_leaves (s : State) (tag : Nat) (r : RemReq) : findReq (reqTimedOut s tag r) tag = none ∧
    (reqTimedOut s tag r).mem = s.mem ∧ (reqTimedOut s tag r).evSeq = s.evSeq + 1 ∧ (reqTimedOut s tag r).link.held = s.link.held ∧
    (reqTimedOut s tag r).streams = s.streams ∧ (reqTimedOut s tag r).ops = s.ops := by
  have htold (u : State) (a b : Nat) : quiet (raiseEvent u 0x45 noCtx a b) = quiet u := quiet_raiseEvent ..
  unfold reqTimedOut
  dsimp only
  generalize hu : ({ modDoor (dropReq s tag) _ _ with link := _ } : State) = u
  refine ⟨(eq_of_view quiet (fun u => findReq u tag) (fun _ => rfl) (htold ..)).trans ?_,
    (eq_of_view quiet State.mem (fun _ => rfl) (htold ..)).trans ?_, (raiseEvent_evSeq ..).trans ?_,
    (eq_of_view quiet (fun u => u.link.held) (fun _ => rfl) (htold ..)).trans ?_,
    (eq_of_view quiet State.streams (fun _ => rfl) (htold ..)).trans ?_, (eq_of_view quiet State.ops (fun _ => rfl) (htold ..)).trans ?_⟩
  all_goals subst hu
  · exact findReq_dropReq s tag
  all_goals rfl

theorem remoteTimeout_answer {s : State} {tag : Nat} {r : RemReq} (hh : s.link.held = []) (hr : findReq s tag = some r)
    (htimer : timerRuns s r = true) : ∃ t, exec (.remoteTimeout tag) s = .next t ∧ findReq t tag = none ∧ t.mem.data = s.mem.data ∧
      t.evSeq = s.evSeq + 1 ∧ ∀ sid b x o, r.owner = .stream sid b → findStream s sid = some x → findOp s x.op = some o → o.done = none →
        (findOp t x.op).map (·.done) = some (some .aborted) := by
  obtain ⟨hgone, hmem, hseq, hheld, hstreams, hops⟩ := reqTimedOut_leaves s tag r
  have hfail : failReq s tag = ownerFails (reqTimedOut s tag r) r := by
    rw [failReq_eq, hr]
    rfl
  generalize reqTimedOut s tag r = u at hgone hmem hseq hheld hstreams hops hfail
  obtain ⟨klink, kmem, kseq⟩ := ownerFails_keeps u r
  have hexec : exec (.remoteTimeout tag) s = .next (ownerFails u r) := by
    refine congrArg Host.Outcome.next ?_
    rw [hr]
    refine (if_pos htimer).trans ?_
    rw [hfail]
    exact releaseHeld_nil (by rw [klink, hheld, hh])
  refine ⟨_, hexec, (findReq_of_link klink tag).trans hgone, congrArg Mem.data (kmem.trans hmem), kseq.trans hseq, ?_⟩
  intro sid b x o ho hx hop hdone
  have hx1 : findStream u sid = some x := by rw [findStream, hstreams]; exact hx
  unfold ownerFails
  rw [ho]
  dsimp only
  rw [hx1]
  dsimp only
  rw [findOp_endOp_same ((findOp_of_ops hops x.op).trans hop) hdone]
  rfl

/-- Settles O51: one lemma for each answer; what its message's taking leaves of the state is as before but for Doors and credits. -/
theorem answersEndTheirRequest : Obligations.AnswersEndTheirRequest := by
  unfold Obligations.AnswersEndTheirRequest
  intro s s1 d m env _
  exact ⟨fun c mt hc ht hnone hd => late_answer hc ht hnone hd,
    fun r sid b x hh hr ho hx => ⟨fun ht hk hp => rdrsp_answer hh hr ho hx ht hk hp, fun ht => wrack_answer hh hr ho hx ht⟩,
    fun r op irq hh hr ho ht hend => atrsp_answer hh hr ho ht hend, fun r hr ht => retry_answer hr ht,
    fun tag r hh hr hb hroute => atomResend_answer hh hr hb hroute, fun tag r hh hr htimer => remoteTimeout_answer hh hr htimer⟩

end Sys2Proof.Machine

/-!
The Truss across chips (R442 to R448): partials that arrive, their acknowledgement, and the timeout of those that do not.
-/

namespace Sys2Proof.Machine

open Sys2Proof

section
variable {s s1 : State} {d : Nat} {m : Msg}

/-! ### REDDESC (R444, R446) -/

/-- Whether the weights that a partial was formed with are not those of its group here. -/
def foreignPartial (s : State) (m : Msg) : Bool :=
  decide ((bankFind s.link.groups (m.addr / 4294967296 % 256)).map (·.gcrc) ≠ some (BitVec.ofNat 32 (field m.data 20 4)))

/-- The key under which the partials of a sender's Window are numbered. -/
def partialKey (m : Msg) : Nat := kthKey (m.addr / 4294967296 % 256) (m.addr % 65536) (m.addr / 65536 % 65536) m.src (m.status % 8)

/-- The partial that a REDDESC describes, with no byte of it received. -/
def describedPartial (s : State) (m : Msg) : RedPartial :=
  let b := field m.data 24 1
  let f := (afmtOf (b / 8 % 16)).getD .i32
  { group := m.addr / 4294967296 % 256, otrow := m.addr % 65536, otcol := m.addr / 65536 % 65536,
    node := BitVec.ofNat 32 (field m.data 16 4), gcrc := BitVec.ofNat 32 (field m.data 20 4), fmt := f,
    srows := b % 8, src := m.src, win := m.status % 8, kth := bankGet s.link.kths 0 (partialKey m),
    want := footprint (srowsOf (b % 8)) f, bytes := [], descMeta := m.data.take 16, exact := none, rows := none, whole := false,
    dead := foreignPartial s m }

/-- A partial has begun to arrive. -/
def partialBegun (s : State) (m : Msg) : State := { s with
  link := { s.link with
    kths := bankPut s.link.kths (partialKey m) (bankGet s.link.kths 0 (partialKey m) + 1)
    partials := s.link.partials ++ [describedPartial s m] } }

theorem exec_reddesc (ht : takeMsg s 0x20 = some (d, m, s1)) : exec .reddesc s =
    .next (if foreignPartial s1 m then trussMismatch (partialBegun s1 m) (m.addr / 4294967296 % 256) m.src else partialBegun s1 m) := by
  refine congrArg Host.Outcome.next ?_
  rw [ht]
  rfl

theorem trussMismatch_leaves (s : State) (g src : Nat) :
    (trussMismatch s g src).link.partials = s.link.partials ∧ (trussMismatch s g src).mem = s.mem ∧
    (trussMismatch s g src).pantries = s.pantries ∧ (if isS s = false
      then (trussMismatch s g src).link.flags = s.link.flags ||| 2 ∧ (trussMismatch s g src).evSeq = s.evSeq + 1
      else (trussMismatch s g src).link.flags = s.link.flags ∧ (trussMismatch s g src).evSeq = s.evSeq) := by
  have hq := quiet_raiseEvent { s with link := { s.link with flags := s.link.flags ||| 2 } } 0x46 noCtx g src
  unfold trussMismatch
  split
  next hS =>
    rw [if_neg fun h => Bool.false_ne_true (h.symm.trans hS)]
    exact ⟨rfl, rfl, rfl, rfl, rfl⟩
  next hS =>
    rw [if_pos (Bool.eq_false_iff.2 hS)]
    exact ⟨(congrArg (fun u : State => u.link.partials) hq :), (congrArg State.mem hq :), (congrArg State.pantries hq :),
      (congrArg (fun u : State => u.link.flags) hq :), raiseEvent_evSeq ..⟩

theorem reddesc_answer (ht : takeMsg s 0x20 = some (d, m, s1)) : ∃ t p, exec .reddesc s = .next t ∧
    t.link.partials = s.link.partials ++ [p] ∧
    p.group = m.addr / 4294967296 % 256 ∧ p.otrow = m.addr % 65536 ∧ p.otcol = m.addr / 65536 % 65536 ∧ p.src = m.src ∧
    p.node = BitVec.ofNat 32 (field m.data 16 4) ∧ p.bytes = [] ∧ p.whole = false ∧ p.descMeta = m.data.take 16 ∧
    p.dead = decide ((bankFind s.link.groups p.group).map (·.gcrc) ≠ some (BitVec.ofNat 32 (field m.data 20 4))) ∧
    (if p.dead = true ∧ isS s = false then t.link.flags = s.link.flags ||| 2 ∧ t.evSeq = s.evSeq + 1
     else t.link.flags = s.link.flags ∧ t.evSeq = s.evSeq) ∧ t.mem = s.mem ∧ t.pantries = s.pantries := by
  obtain ⟨htaken, -⟩ := takeMsg_spec ht
  have keep {α : Type} (f : State → α) (hf : ∀ u, f (untaken u) = f u) : f s1 = f s := eq_of_view untaken f hf htaken
  have hpartials : (partialBegun s1 m).link.partials = s.link.partials ++ [describedPartial s1 m] :=
    congrArg (· ++ [describedPartial s1 m]) (keep (fun u => u.link.partials) fun _ => rfl)
  have hflags : (partialBegun s1 m).link.flags = s.link.flags := keep (fun u => u.link.flags) fun _ => rfl
  have hseq : (partialBegun s1 m).evSeq = s.evSeq := keep State.evSeq fun _ => rfl
  have hmem : (partialBegun s1 m).mem = s.mem := keep State.mem fun _ => rfl
  have hpan : (partialBegun s1 m).pantries = s.pantries := keep State.pantries fun _ => rfl
  have hS : isS (partialBegun s1 m) = isS s := keep isS fun _ => rfl
  have hdead : foreignPartial s1 m = foreignPartial s m := keep (foreignPartial · m) fun _ => rfl
  refine ⟨_, describedPartial s1 m, exec_reddesc ht, ?_⟩
  rw [show (describedPartial s1 m).dead = foreignPartial s m from hdead, hdead]
  generalize partialBegun s1 m = u at hpartials hflags hseq hmem hpan hS
  obtain ⟨kpartials, kmem, kpan, kflags⟩ := trussMismatch_leaves u (m.addr / 4294967296 % 256) m.src
  have hparts : (if foreignPartial s m then trussMismatch u (m.addr / 4294967296 % 256) m.src else u).link.partials =
      s.link.partials ++ [describedPartial s1 m] := by
    split
    · exact kpartials.trans hpartials
    · exact hpartials
  refine ⟨hparts, rfl, rfl, rfl, rfl, rfl, rfl, rfl, rfl, rfl, ?_⟩
  cases foreignPartial s m
  · rw [if_neg fun h => Bool.false_ne_true h.1]
    exact ⟨⟨hflags, hseq⟩, hmem, hpan⟩
  · refine ⟨?_, kmem.trans hmem, kpan.trans hpan⟩
    rw [hS, hflags, hseq] at kflags
    simpa using kflags

/-! ### REDDATA (R444, R447, R448) -/

/-- A whole partial is acknowledged and kept, or it comes after its timeout. -/
theorem takePartial_leaves (u : State) (p : RedPartial) :
    (takePartial u p).mem = u.mem ∧ (takePartial u p).pantries = u.pantries ∧
    (if keyTimedOut u p.group p.otrow p.otcol p.kth
      then (takePartial u p).link.partials = u.link.partials ∧ (takePartial u p).link.trLate = u.link.trLate + 1
      else (takePartial u p).link.partials = u.link.partials ++ [p] ∧ (takePartial u p).link.trLate = u.link.trLate) := by
  unfold takePartial
  split
  · exact ⟨rfl, rfl, rfl, rfl⟩
  · exact ⟨rfl, rfl, rfl, rfl⟩

/-- The only partial that arrives is the one that a chunk continues. -/
theorem exec_reddata {p : RedPartial} (ht : takeMsg s 0x21 = some (d, m, s1)) (hp : s.link.partials = [p]) (hw : p.whole = false)
    (hs : p.src = m.src) (hwin : p.win = m.status % 8) (ha : redAddr p.group p.otrow p.otcol = m.addr % 2 ^ 40) :
    exec .reddata s = .next (if p.bytes.length + m.data.length < p.want
      then { s1 with link := { s1.link with partials := [{ p with bytes := p.bytes ++ m.data }] } }
      else takePartial (answer { s1 with link := { s1.link with partials := [] } } m 0x14 0 m.addr [])
        { p with bytes := p.bytes ++ m.data, whole := true }) := by
  have hp1 : s1.link.partials = [p] :=
    (eq_of_view untaken (fun u => u.link.partials) (fun _ => rfl) (takeMsg_spec ht).1).trans hp
  refine congrArg Host.Outcome.next ?_
  rw [ht]
  dsimp only
  rw [hp1, List.find?_cons_of_pos (by rw [hw, hs, hwin, ha]; simp)]
  dsimp only
  rw [List.length_append, List.map_cons, List.map_nil, if_pos rfl, List.erase_cons_head]

theorem reddata_answer {p : RedPartial} (ht : takeMsg s 0x21 = some (d, m, s1)) (hp : s.link.partials = [p]) (hw : p.whole = false)
    (hs : p.src = m.src) (hwin : p.win = m.status % 8) (ha : redAddr p.group p.otrow p.otcol = m.addr % 2 ^ 40) :
    ∃ t, exec .reddata s = .next t ∧ t.mem = s.mem ∧ t.pantries = s.pantries ∧
      (if p.bytes.length + m.data.length < p.want then t.link.partials = [{ p with bytes := p.bytes ++ m.data }]
       else if keyTimedOut s p.group p.otrow p.otcol p.kth then t.link.partials = [] ∧ t.link.trLate = s.link.trLate + 1
       else t.link.partials = [{ p with bytes := p.bytes ++ m.data, whole := true }] ∧ t.link.trLate = s.link.trLate) := by
  obtain ⟨htaken, -⟩ := takeMsg_spec ht
  have keep {α : Type} (f : State → α) (hf : ∀ u, f (untaken u) = f u) : f s1 = f s := eq_of_view untaken f hf htaken
  refine ⟨_, exec_reddata ht hp hw hs hwin ha, ?_⟩
  split
  · exact ⟨keep State.mem fun _ => rfl, keep State.pantries fun _ => rfl, rfl⟩
  · have hsent := unsent_answer { s1 with link := { s1.link with partials := [] } } m 0x14 0 m.addr []
    generalize answer { s1 with link := { s1.link with partials := [] } } m 0x14 0 m.addr [] = u at hsent
    have kmem : u.mem = s.mem := (congrArg State.mem hsent :).trans (keep State.mem fun _ => rfl)
    have kpan : u.pantries = s.pantries := (congrArg State.pantries hsent :).trans (keep State.pantries fun _ => rfl)
    have kparts : u.link.partials = [] := (congrArg (fun u : State => u.link.partials) hsent :)
    have klate : u.link.trLate = s.link.trLate := (congrArg (fun u : State => u.link.trLate) hsent :).trans
      (keep (fun u => u.link.trLate) fun _ => rfl)
    have ktimed : u.link.timedOut = s.link.timedOut := (congrArg (fun u : State => u.link.timedOut) hsent :).trans
      (keep (fun u => u.link.timedOut) fun _ => rfl)
    obtain ⟨hmem, hpan, hlate⟩ := takePartial_leaves u { p with bytes := p.bytes ++ m.data, whole := true }
    refine ⟨hmem.trans kmem, hpan.trans kpan, ?_⟩
    rw [kparts, klate, keyTimedOut, ktimed] at hlate
    exact hlate

/-! ### REDACK (R447) -/

theorem finishSender_leaves {u : State} {o : Op} {tr : Tree} {x : Partial} {id : OpId} (ho : findOp u id = some o)
    (htr : findTree u id = some tr) : (findOp (finishSender u o tr x) id).map (·.done) = some (some .ok) ∧
      findTree (finishSender u o tr x) id = none ∧ treeless (finishSender u o tr x) = treeless u ∧
      (pantry (finishSender u o tr x) tr.pantry).treeClose = (pantry u tr.pantry).treeClose + 1 := by
  have hoid := findOp_id ho
  have htid : tr.op = id := by simpa using List.find?_some htr
  have hslot : (pantry (putSlot u tr.pantry tr.lo tr.fmt x) tr.pantry).treeClose = (pantry u tr.pantry).treeClose :=
    pantry_modPantry_keeps Pantry.treeClose (by exact fun _ => rfl) u tr.pantry tr.pantry
  have hops : (putSlot u tr.pantry tr.lo tr.fmt x).ops = u.ops := rfl
  have hless : treeless (putSlot u tr.pantry tr.lo tr.fmt x) = treeless u := rfl
  unfold finishSender
  generalize putSlot u tr.pantry tr.lo tr.fmt x = v at hslot hops hless
  obtain ⟨hgone, hclose⟩ := shutTree_closes v tr
  refine ⟨?_, htid ▸ hgone, (treeless_shutTree v tr).trans hless, hclose.trans (congrArg (· + 1) hslot)⟩
  rw [findOp_modOp (f := fun o => { addRecord o x.flags with done := some .ok }) (fun _ => rfl), if_pos hoid.symm, hoid, findOp_of_ops ((ops_shutTree v tr).trans hops), ho]
  rfl

theorem redack_answer {r : RemReq} {id : OpId} {o : Op} {tr : Tree} {x : Partial} (hh : s.link.held = [])
    (ht : takeMsg s 0x14 = some (d, m, s1))
    (hr : s.link.reqs.find? (fun r => decide (r.msg.mtype = 0x21) && decide (r.msg.dst = m.src) && decide (r.msg.addr = m.addr) &&
      decide (r.msg.tag = m.tag)) = some r) (ho : r.owner = .red id) (hop : findOp s id = some o) (htr : findTree s id = some tr)
    (hx : tr.root = some x) : ∃ t, exec .redack s = .next t ∧ (findOp t id).map (·.done) = some (some .ok) ∧
      findTree t id = none ∧ findReq t r.tag = none ∧ t.mem = s.mem ∧
      (pantry t tr.pantry).treeClose = (pantry s tr.pantry).treeClose + 1 := by
  obtain ⟨htaken, -⟩ := takeMsg_spec ht
  have keep {α : Type} (f : State → α) (hf : ∀ u, f (untaken u) = f u) : f s1 = f s := eq_of_view untaken f hf htaken
  obtain ⟨hrel, hgone, hmem, -⟩ := dropReq_answered r.tag ht hh
  have hop1 : findOp (dropReq s1 r.tag) id = some o := (keep (fun u => findOp u id) fun _ => rfl).trans hop
  have htr1 : findTree (dropReq s1 r.tag) id = some tr := (keep (fun u => findTree u id) fun _ => rfl).trans htr
  have hpan : pantry (dropReq s1 r.tag) tr.pantry = pantry s tr.pantry := keep (fun u => pantry u tr.pantry) fun _ => rfl
  have hexec : exec .redack s = .next (finishSender (dropReq s1 r.tag) o tr x) := by
    refine congrArg Host.Outcome.next ?_
    rw [ht]
    dsimp only
    rw [keep (fun u => u.link.reqs) fun _ => rfl, hr]
    dsimp only
    rw [hrel, ho]
    dsimp only
    rw [hop1, htr1]
    dsimp only
    rw [hx]
  generalize dropReq s1 r.tag = u at hgone hmem hop1 htr1 hpan hexec
  obtain ⟨hdone, hshut, hless, hclose⟩ := finishSender_leaves (x := x) hop1 htr1
  exact ⟨_, hexec, hdone, hshut, (eq_of_view treeless (fun u => findReq u r.tag) (fun _ => rfl) hless).trans hgone,
    (eq_of_view treeless State.mem (fun _ => rfl) hless).trans hmem, hpan ▸ hclose⟩

end

/-! ### TRUSS_TIMEOUT (R448) -/

theorem findTree_endOp {s : State} {id : OpId} {o : Op} (ho : findOp s id = some o) (hd : o.done = none) (st : Status) (aborted : Bool) :
    findTree (endOp s id st aborted) id = none := by
  have hclose (u : State) : (closeTrees u id).trees = u.trees.filter (fun t => t.op ≠ id) := by
    unfold closeTrees
    refine (foldl_keeps State.trees (fun v t => ?_) _ _).trans rfl
    split <;> rfl
  have hshut (u : State) : findTree (closeTrees u id) id = none := by
    rw [findTree, hclose, List.find?_eq_none]
    intro t ht
    simpa using (List.mem_filter.1 ht).2
  have hgone (u : State) (f : Op → Op) : findTree (modOp (if o.armed then audGive (closeTrees u id) 4 1 else closeTrees u id) id f) id = none := by
    split <;> exact hshut u
  unfold endOp
  rw [ho]
  dsimp only
  rw [hd]
  exact (congrArg (findTree · id) (if_neg Bool.false_ne_true)).trans (hgone _ _)

/-- What a timeout of the Truss makes of a state in which the command has ended. -/
def keyGone (u : State) (g : Nat) (o : Op) (c : WinCmd) : State := { u with
  link := { u.link with flags := u.link.flags ||| 8, timedOut := u.link.timedOut ++ [(g, c.otrow * 65536 + c.otcol, o.gkey)] } }

theorem exec_trussTimeout {s : State} {q : Fin 256} {idx : Fin 65536} {o : Op} {c : WinCmd} {tr : Tree} {x : Partial} (hp : powered s = true)
    (ho : findOp s (q.val, idx.val) = some o) (hcmd : o.cmd = .window c) (hd : o.done = none) (htr : findTree s (q.val, idx.val) = some tr)
    (hroot : tr.root = some x) (hS : isS s = false) (hto : s.link.trto ≠ 0) (hn : c.splitN ≠ 0) (hsent : tr.sent = false)
    (hfinal : tr.final = none) (hnode : isRoot c (trussLift c 20 x) = false) (hown : ownerOf s o c (trussLift c 20 x) = some c.splitRank)
    (hparts : s.link.partials = []) : exec (.trussTimeout q idx) s = .next (raiseEvent
      (keyGone (endOp s (q.val, idx.val) .aborted false) (trussGroup s o) o c) 0x47 noCtx (trussGroup s o) (c.otrow + c.otcol * 65536)) := by
  refine congrArg Host.Outcome.next ?_
  rw [ho, htr]
  dsimp only
  rw [hcmd, hroot]
  dsimp only
  rw [hown, hp, hS, hd, hsent, hfinal, hnode, hparts, findOp_id ho]
  refine if_pos ?_
  simp only [decide_eq_true hto, decide_eq_true hn]
  rfl

theorem trussTimeout_answer {s : State} {q : Fin 256} {idx : Fin 65536} {o : Op} {c : WinCmd} {tr : Tree} {x : Partial}
    (hp : powered s = true) (ho : findOp s (q.val, idx.val) = some o) (hcmd : o.cmd = .window c) (hd : o.done = none)
    (htr : findTree s (q.val, idx.val) = some tr) (hroot : tr.root = some x) (hS : isS s = false) (hto : s.link.trto ≠ 0) (hn : c.splitN ≠ 0)
    (hsent : tr.sent = false) (hfinal : tr.final = none) (hnode : isRoot c (trussLift c 20 x) = false)
    (hown : ownerOf s o c (trussLift c 20 x) = some c.splitRank) (hparts : s.link.partials = []) :
    ∃ t, exec (.trussTimeout q idx) s = .next t ∧ (findOp t (q.val, idx.val)).map (·.done) = some (some .aborted) ∧
      findTree t (q.val, idx.val) = none ∧ t.link.flags = s.link.flags ||| 8 ∧ t.evSeq = s.evSeq + 1 ∧ t.mem.data = s.mem.data ∧
      keyTimedOut t (trussGroup s o) c.otrow c.otcol o.gkey = true := by
  refine ⟨_, exec_trussTimeout hp ho hcmd hd htr hroot hS hto hn hsent hfinal hnode hown hparts, ?_⟩
  have hend := endless_endOp s (q.val, idx.val) .aborted false
  have hdone := findOp_endOp_same ho hd .aborted false
  have hgone := findTree_endOp ho hd .aborted false
  generalize endOp s (q.val, idx.val) .aborted false = u at hend hdone hgone
  have hlink : u.link = s.link := eq_of_view endless State.link (fun _ => rfl) hend
  have hseq : u.evSeq = s.evSeq := eq_of_view endless State.evSeq (fun _ => rfl) hend
  have hmem : u.mem = s.mem := eq_of_view endless State.mem (fun _ => rfl) hend
  have hq := quiet_raiseEvent (keyGone u (trussGroup s o) o c) 0x47 noCtx (trussGroup s o) (c.otrow + c.otcol * 65536)
  have keep {α : Type} (f : State → α) (hf : ∀ v, f (quiet v) = f v) := eq_of_view quiet f hf hq
  refine ⟨?_, (keep (fun v => findTree v (q.val, idx.val)) fun _ => rfl).trans hgone, ?_, (raiseEvent_evSeq ..).trans (congrArg (· + 1) hseq),
    (keep (fun v => v.mem.data) fun _ => rfl).trans (congrArg Mem.data hmem), ?_⟩
  · rw [keep (fun v => findOp v (q.val, idx.val)) fun _ => rfl]
    exact congrArg (Option.map (·.done)) hdone
  · exact (keep (fun v => v.link.flags) fun _ => rfl).trans (congrArg (fun l : Link => l.flags ||| 8) hlink)
  · refine (keep (fun v => keyTimedOut v (trussGroup s o) c.otrow c.otcol o.gkey) fun _ => rfl).trans ?_
    simp [keyTimedOut, keyGone]

/-- Settles O52: one lemma for each row; a partial's key that timed out is on record for those that still come. -/
theorem trussPartialsTravel : Obligations.TrussPartialsTravel := by
  unfold Obligations.TrussPartialsTravel
  intro s s1 d m hpow
  refine ⟨reddesc_answer, fun p ht hp hw hs hwin ha => reddata_answer ht hp hw hs hwin ha,
    fun r id o tr x hh ht hr ho hop htr hx => redack_answer hh ht hr ho hop htr hx, ?_⟩
  intro q idx o c tr x ho hcmd hd htr hroot hS hto hn hsent hfinal hnode hown hparts
  exact trussTimeout_answer hpow ho hcmd hd htr hroot hS hto hn hsent hfinal hnode hown hparts

end Sys2Proof.Machine
